-- ==== Sys2Proof/Word.lean ====
section
/-! DEFINITION. The word types of the strands, the fixed sets of names the encodings use, and the operand
types of the V bundle's slots. Nothing here computes. -/

namespace Sys2Proof

/-- A byte of memory or of the pool (R2). -/
abbrev Byte := BitVec 8
/-- The C instruction word and an L, V or S register (R2, R12). -/
abbrev Word32 := BitVec 32
/-- A C register, an address, an L or S instruction word (R2, R12, R93). -/
abbrev Word64 := BitVec 64
/-- A V bundle (R55). -/
abbrev Word128 := BitVec 128
/-- A C register number (R47). -/
abbrev XReg := BitVec 5
/-- A y register number (R53). -/
abbrev YReg := BitVec 4
/-- A stream register number s0 to s7 (R47, R53). -/
abbrev SReg := BitVec 3
/-- A 5-bit operand code of a V slot: 0 to 23 name v0 to v23, 24 to 31 name s0 to s7 (R58). -/
abbrev OpCode := BitVec 5

/-- The four strand kinds (R12). -/
inductive Strand | c | l | v | s
deriving DecidableEq, Repr

/-- The two strands that share the 64-bit word format (R52). -/
inductive LS | l | s
deriving DecidableEq, Repr

/-- The two vector slots (R58). -/
inductive Lane | a | b
deriving DecidableEq, Repr

/-- The copy engine and the gather engine (R158). -/
inductive Eng | copy | gather
deriving DecidableEq, Repr

/-- The operations of the A and B opcode grid (R59); `empty` is the all-zero slot. -/
inductive ABOp
  | empty | vadd | vsub | vmul | vfma | vfms | vmin | vmax
  | vabs | vneg | vand | vor | vxor | vnot | vshl | vshr
  | vsra | vcmp | vsel | vmov | vimm | vbrow | vbcol | vrsum
  | vcsum | vrmax | vcmax | vtr | vshape | vcvt | vscl | vclamp
  | vpack | vunpk | vperm | vidx
  | vexp | vexp2 | vlog | vlog2 | vrcp | vrsqrt | vsqrt | vtanh
  | vsig | vsin | vcos | verf | hint
deriving DecidableEq, Repr

/-- An A or B slot: its operation and its five fields as encoded (R58). -/
structure ABSlot where
  op   : ABOp
  d    : BitVec 5
  a    : BitVec 5
  b    : BitVec 5
  c    : BitVec 5
  mode : BitVec 2
deriving DecidableEq, Repr

/-- The empty A or B slot: every field zero (R59). -/
def ABSlot.none : ABSlot := ⟨.empty, 0, 0, 0, 0, 0⟩

/-- The M slot's operations (R60, R231). -/
inductive MOp
  | mnop
  | mcfg (float : Bool) (wfmt : BitVec 4) (sparse : BitVec 2)
  | mswap
  | mmac (acc : Bool) (src : OpCode) (rowb : BitVec 7)
  | mmacs (acc : Bool) (src : OpCode) (rowb : BitVec 7) (scr : BitVec 5)
  | mclr (acc : Bool) (float : Bool)
  | mdrain (acc : Bool) (scale : BitVec 5) (d : OpCode) (fo : BitVec 3) (rm : BitVec 2) (tile : BitVec 6)
deriving DecidableEq, Repr

/-- The T slot's operations (R61, R128, R134, R136). -/
inductive TOp
  | empty
  | lbeg (lid : BitVec 8) (ya : YReg) (imm : BitVec 7)
  | lend (lid : BitVec 8) (q : Bool) (e : BitVec 3) (rot : Bool)
  | lbr (lid : BitVec 8) (ya : YReg) (q : Bool) (inv : Bool)
  | jmp (off : BitVec 19)
  | halt
  | stgSet (mask : BitVec 8)
  | stgClr (mask : BitVec 8)
  | stgCond (ya : YReg) (mask : BitVec 8)
  | stgLoad (ya : YReg) (mask : BitVec 8)
  | tkr (yd : YReg) (imm : BitVec 11)
  | tsr (ya yb : YReg)
  | ywait (src : BitVec 3) (n : BitVec 6)
  | yadd (yd ya yb : YReg)
  | yaddi (yd ya : YReg) (imm : BitVec 11)
  | ymov (yd ya : YReg)
  | yrd (yd : YReg) (sel : BitVec 3) (lid : BitVec 8)
  | hint (payload : BitVec 19)
deriving DecidableEq, Repr

/-- The four token bits of an L or S word or of a bundle (R52, R55, R126). -/
structure Tokens where
  popP  : Bool
  popN  : Bool
  pushP : Bool
  pushN : Bool
deriving DecidableEq, Repr

/-- No token bit set. -/
def Tokens.none : Tokens := ⟨false, false, false, false⟩

/-- A V bundle: timing word, guard, the four slots and the token bits (R55). -/
structure Bundle where
  cut   : Bool
  sym   : BitVec 3
  k     : BitVec 3
  c     : BitVec 6
  guard : BitVec 3
  m     : MOp
  a     : ABSlot
  b     : ABSlot
  t     : TOp
  tok   : Tokens
deriving DecidableEq, Repr

/-- The bundle line that names nothing: (+0), guard p0, mnop, empty slots, no tokens (R83). -/
def Bundle.bare : Bundle :=
  { cut := false, sym := 0, k := 0, c := 0, guard := 0, m := .mnop, a := .none, b := .none, t := .empty, tok := .none }

/-- The sub-operations of major 0x48 (R105). -/
inductive AmoOp | add | and | or | xor | min | max | swap | cas
deriving DecidableEq, Repr

/-- The operations of vred (R142). -/
inductive RedOp | add | min | max
deriving DecidableEq, Repr

end Sys2Proof
end

