-- ==== Sys2Proof/Config.lean ====
section
/-! DEFINITION. What the spec leaves open, as constants with no body: nothing can evaluate one of them or prove a value of
it (log 6, DESIGN CHOICE, log 13, DESIGN CHOICE, log 14, DESIGN CHOICE, log 15, DESIGN CHOICE). Also CRC-32C, which R382 names. -/

namespace Sys2Proof.Config

/-- A pool byte of an epoch that nothing has written since its step's start (R150; log 6, DESIGN CHOICE). -/
opaque freePoolByte (epoch off : Nat) : Byte
/-- A value the spec leaves free, taken at a counter of the state (log 13, DESIGN CHOICE). -/
opaque freeNat (n : Nat) : Nat
/-- The estimator's watts of a partition (R398; log 14, DESIGN CHOICE). -/
opaque watts (part n : Nat) : Nat
/-- The estimator's energy of a microsecond, in units of 1/256 nJ (R399; log 14, DESIGN CHOICE). -/
opaque energy (part queue n : Nat) : Nat
/-- SHA-256 (R386, R389, R390; log 15, DESIGN CHOICE). -/
opaque sha256 (msg : List Byte) : List Byte
/-- The check of an SLH-DSA-SHA2-128s signature under the fused root key (R386, R389; log 15, DESIGN CHOICE). -/
opaque sigOk (msg sig : List Byte) : Bool
/-- The identity key's signature of a message (R390; log 15, DESIGN CHOICE). -/
opaque sign (msg : List Byte) : List Byte
/-- The device certificate chain (R390; log 15, DESIGN CHOICE). -/
opaque cert : List Byte

/-- The hash that selects the plane of a line (R409; log 13, DESIGN CHOICE). -/
opaque planeHash (line : Nat) : Nat
/-- The nanoseconds that a queue pair of a reduced rate waits after a message of some bytes (R421; log 13, DESIGN CHOICE). -/
opaque ethPace (rate bytes : Nat) : Nat
/-- The identities and event numbers of a record of type 6: two agents' events, the earlier first, as one number, and the number read as the two (R404;
log 23, DESIGN CHOICE). -/
opaque orderData (a m b n : Nat) : Nat
opaque orderOf (data : Nat) : (Nat × Nat) × (Nat × Nat)

/-- The registers that the spec describes in the configuration plane. -/
inductive CfgReg
  | partcfg (p : BitVec 3) | psites (p : BitVec 3) | ptbase (p : BitVec 3) (v : BitVec 2) | tvecw (p : BitVec 3) (v : BitVec 2)
  | qmask (p : BitVec 3) (v : BitVec 2) | qbase (p : BitVec 3) (q : BitVec 6) | qcfg (p : BitVec 3) (q : BitVec 6)
  | energy (p : BitVec 3) (q : BitVec 6) | idleEnergy (p : BitVec 3) | fqbase (p : BitVec 3) | fqcfg (p : BitVec 3) | excTh (p : BitVec 3)
  | pwrcfg (p : BitVec 3) | repcfg (p : BitVec 3) | repbase (p : BitVec 3) | rwbase (p : BitVec 3) | rwcfg (p : BitVec 3)
  | l2ways (p : BitVec 3) | pwrstat (p : BitVec 3) | repstat (p : BitVec 3) | pkgCtr (g : BitVec 12) | droopCnt | overflow (d : BitVec 2) | flits (received : Bool) | pkgcap | memCtl (stack : Nat) | rowGroup (g : Nat) | shsize (d : BitVec 2) | fabcfg | fabCtr (g : BitVec 12)
  | droopth | eccTh | smpBase | smpSize | smpMask | smpLog | poolLimit | poolTop
deriving DecidableEq, Repr

/-- Which byte of which register stands at an offset of a unit's plane: R381 gives the planes no layout (log 24, DESIGN CHOICE). -/
opaque cfgAt (unit off : Nat) : Option (CfgReg × Nat)
/-- The instances of a unit class (R381; log 24, DESIGN CHOICE). -/
opaque cfgInstances (cls : Nat) : Nat
/-- The bytes of a unit's plane, and those it holds at reset (R381, R382; log 24, DESIGN CHOICE). -/
opaque cfgSize (unit : Nat) : Nat
opaque cfgByte (unit off : Nat) : Byte
/-- The unit addresses of this core, its cluster's task unit and the package controller (R381; log 24, DESIGN CHOICE). -/
opaque cfgCore : Nat
opaque cfgTask : Nat
opaque cfgController : Nat
/-- The unit addresses of an Uluzo port and of an Ethernet port (R381; log 24, DESIGN CHOICE). -/
opaque cfgPort (port : Nat) : Nat
opaque cfgEth (port : Nat) : Nat
/-- An L2 slice or a base die that the accesses to a physical address pass through (R383, R389; log 24, DESIGN CHOICE). -/
opaque cfgHome (unit pa : Nat) : Bool
/-- A near-bank unit or a base die serves the rows of a physical address (R383; log 24, DESIGN CHOICE). -/
opaque cfgServes (unit pa : Nat) : Bool
/-- The name that a step's image gives to a latency symbol: the step by the entry PC of its C (R273; log 27, DESIGN CHOICE). -/
opaque symName (entry : Word64) (i : Nat) : Nat
/-- How the body of a capability's entry lays out its figures: R388 names them and gives no layout (log 74, DESIGN CHOICE). -/
opaque capBody (id : Nat) (figures : List Nat) : List Byte

/-- One bit of CRC-32C, reflected (log 18, PRESUMED). -/
def crcBit (c : Word32) : Word32 := bif c.getLsbD 0 then (c >>> 1) ^^^ 0x82f63b78 else c >>> 1
/-- One byte of CRC-32C. -/
def crcByte (c : Word32) (b : Byte) : Word32 := (List.range 8).foldl (fun c _ => crcBit c) (c ^^^ b.setWidth 32)
/-- CRC-32C of bytes (R382; log 18, PRESUMED). -/
def crc32c (l : List Byte) : Word32 := ~~~(l.foldl crcByte (BitVec.allOnes 32))

/-- The argument at which a faithful f32 special function goes over from the lower to the upper of the two values that bracket
its exact results there (R240; log 13, DESIGN CHOICE): by operation, lower value and monotone piece, as the argument's place in the order of
f32 values. -/
opaque sfCut (op lower : Nat) (piece : Int) : Int
/-- Which of the f32 values within the share a special function returns (R240; log 13, DESIGN CHOICE): by operation, iterations and argument. -/
opaque sfLoose (op iterations x : Nat) : Nat

end Sys2Proof.Config
end

