-- ==== Sys2Proof/Syntax.lean ====
section
/-! DEFINITION. The instruction set: one constructor for each row of spec/opcode_table.json. Fields are the
fields of the encoding (R47 to R61); an event's operands are what the rule that governs it lets the outside choose. -/

namespace Sys2Proof

/-- A step of the machine: an instruction of one of the four strands, or one of the table's events (R10, 95_what_each_step_holds). -/
inductive Instr
  -- C words (R47 to R51).
  | add (xd xa xb : XReg)
  | sub (xd xa xb : XReg)
  | and (xd xa xb : XReg)
  | or (xd xa xb : XReg)
  | xor (xd xa xb : XReg)
  | andn (xd xa xb : XReg)
  | sll (xd xa xb : XReg)
  | srl (xd xa xb : XReg)
  | sra (xd xa xb : XReg)
  | slt (xd xa xb : XReg)
  | sltn (xd xa xb : XReg)
  | min (xd xa xb : XReg)
  | max (xd xa xb : XReg)
  | minn (xd xa xb : XReg)
  | maxn (xd xa xb : XReg)
  | mul (xd xa xb : XReg)
  | mulh (xd xa xb : XReg)
  | mulhn (xd xa xb : XReg)
  | div (xd xa xb : XReg)
  | divn (xd xa xb : XReg)
  | rem (xd xa xb : XReg)
  | remn (xd xa xb : XReg)
  | clz (xd xa : XReg)
  | ctz (xd xa : XReg)
  | popc (xd xa : XReg)
  | bswap (xd xa : XReg)
  | addx (xd xa xb : XReg) (sh : BitVec 5)
  | addi (xd xa : XReg) (imm : BitVec 15)
  | andi (xd xa : XReg) (imm : BitVec 15)
  | ori (xd xa : XReg) (imm : BitVec 15)
  | xori (xd xa : XReg) (imm : BitVec 15)
  | slli (xd xa : XReg) (imm : BitVec 15)
  | srli (xd xa : XReg) (imm : BitVec 15)
  | srai (xd xa : XReg) (imm : BitVec 15)
  | slti (xd xa : XReg) (imm : BitVec 15)
  | sltni (xd xa : XReg) (imm : BitVec 15)
  | muli (xd xa : XReg) (imm : BitVec 15)
  | ldhi (xd xa : XReg) (imm : BitVec 15)
  | lea (xd : XReg) (imm : BitVec 15)
  | ldI8 (xd xa : XReg) (off : BitVec 12)
  | ldI16 (xd xa : XReg) (off : BitVec 12)
  | ldI32 (xd xa : XReg) (off : BitVec 12)
  | ld (xd xa : XReg) (off : BitVec 12)
  | ldN8 (xd xa : XReg) (off : BitVec 12)
  | ldN16 (xd xa : XReg) (off : BitVec 12)
  | ldN32 (xd xa : XReg) (off : BitVec 12)
  | stI8 (xd xa : XReg) (off : BitVec 12)
  | stI16 (xd xa : XReg) (off : BitVec 12)
  | stI32 (xd xa : XReg) (off : BitVec 12)
  | st (xd xa : XReg) (off : BitVec 12)
  | beq (xd xa : XReg) (imm : BitVec 15)
  | bne (xd xa : XReg) (imm : BitVec 15)
  | blt (xd xa : XReg) (imm : BitVec 15)
  | bge (xd xa : XReg) (imm : BitVec 15)
  | bltn (xd xa : XReg) (imm : BitVec 15)
  | bgen (xd xa : XReg) (imm : BitVec 15)
  | jal (off : BitVec 25)
  | jalr (xd xa : XReg) (imm : BitVec 15)
  | amoAdd (xd xa xb : XReg)
  | amoAddI32 (xd xa xb : XReg)
  | amoAnd (xd xa xb : XReg)
  | amoAndI32 (xd xa xb : XReg)
  | amoOr (xd xa xb : XReg)
  | amoOrI32 (xd xa xb : XReg)
  | amoXor (xd xa xb : XReg)
  | amoXorI32 (xd xa xb : XReg)
  | amoMin (xd xa xb : XReg)
  | amoMinI32 (xd xa xb : XReg)
  | amoMax (xd xa xb : XReg)
  | amoMaxI32 (xd xa xb : XReg)
  | amoSwap (xd xa xb : XReg)
  | amoSwapI32 (xd xa xb : XReg)
  | amoCas (xd xa xb : XReg) (xc : XReg)
  | amoCasI32 (xd xa xb : XReg) (xc : XReg)
  | amoFaddF32 (xd xa xb : XReg)
  | amoFaddBf16 (xd xa xb : XReg)
  | sbBase (s : SReg) (xa : XReg)
  | sbBaseSc (s : SReg) (xa xb : XReg)
  | sbDim (s : SReg) (dim : BitVec 2) (xa xb : XReg)
  | sbFmt (s : SReg) (xa xb : XReg)
  | sbWin (s : SReg) (xa : XReg)
  | sbGo (s : SReg)
  | sbStop (s : SReg)
  | sbRd (xd : XReg) (s : SReg) (n : BitVec 3)
  | cpMp (xd xa xb : XReg) (done : Bool)
  | cpPm (xd xa xb : XReg) (done defer : Bool)
  | cpMm (xd xa xb : XReg) (done defer : Bool)
  | cpPp (xd xa xb : XReg) (done : Bool)
  | gth (xd xa xb : XReg) (done iw : Bool) (sz : BitVec 3)
  | sct (xd xa xb : XReg) (done defer iw : Bool) (sz : BitVec 3)
  | pub (xd : XReg) (done : Bool)
  | ecw (xd xa : XReg) (all : Bool)
  | eqRd (xd : XReg) (gather : Bool) (sel : BitVec 2)
  | mig (xa xb : XReg)
  | migRd (xd : XReg) (sel : BitVec 2)
  | wrfRd (xd xa : XReg)
  | nbLd (xa : XReg) (slot : BitVec 2)
  | nbGo (xd xa xb : XReg) (done : Bool) (slot : BitVec 2)
  | nbFence
  | nbRd (xd xa : XReg) (sel : BitVec 3)
  | dmd (xd xa : XReg) (n : BitVec 4)
  | redmd (xd : XReg)
  | dmdRd (xd : XReg) (sel : BitVec 3) (node : BitVec 4)
  | lsymRd (xd : XReg) (sym : BitVec 3)
  | lsymPin (xa : XReg) (sym : BitVec 3)
  | lsymFree (sym : BitVec 3)
  | fenceE
  | fenceB
  | fenceS
  | fenceF
  | mon (xd xa : XReg)
  | mwait (xd xa : XReg)
  | bar (level : BitVec 2)
  | barA (xd : XReg) (level : BitVec 2)
  | barW (level : BitVec 2)
  | tokPush (next : Bool)
  | tokPop (next : Bool)
  | tsub (xa : XReg) (q : BitVec 6)
  | tdep (xd xa : XReg)
  | yield (strict : Bool)
  | csrr (xd : XReg) (n : BitVec 12)
  | csrw (xd xa : XReg) (n : BitVec 12)
  | csrs (xd xa : XReg) (n : BitVec 12)
  | csrc (xd xa : XReg) (n : BitVec 12)
  | eret
  | tlbi (xa : XReg)
  | icsync
  | endC
  | trap (imm : BitVec 15)
  | bkpt (code : BitVec 25)
  | nop (payload : BitVec 25)
  -- L and S words (R52 to R54): strand, token bits, loop-end marker, then the entry's fields.
  | yadd (k : LS) (tok : Tokens) (mk : BitVec 2) (yd ya yb : YReg)
  | yaddi (k : LS) (tok : Tokens) (mk : BitVec 2) (yd ya : YReg) (imm : BitVec 32)
  | ymov (k : LS) (tok : Tokens) (mk : BitVec 2) (yd ya : YReg)
  | yrd (k : LS) (tok : Tokens) (mk : BitVec 2) (yd : YReg) (sel : BitVec 32) (lid : BitVec 8)
  | lbeg (k : LS) (tok : Tokens) (lid : BitVec 8) (ya : YReg) (imm : BitVec 32)
  | lend (k : LS) (tok : Tokens) (lid : BitVec 8)
  | lbr (k : LS) (tok : Tokens) (mk : BitVec 2) (lid : BitVec 8) (ya : YReg)
  | lsEnd (k : LS) (tok : Tokens) (mk : BitVec 2)
  | vld (tok : Tokens) (mk : BitVec 2) (vr : BitVec 5) (s : SReg) (ya : YReg) (fmt : BitVec 4) (toPool : Bool) (len : BitVec 11) (off : BitVec 21)
  | pld (tok : Tokens) (mk : BitVec 2) (vr : BitVec 5) (ya : YReg) (fmt : BitVec 4) (len : BitVec 11) (off : BitVec 21)
  | wload (tok : Tokens) (mk : BitVec 2) (s : SReg) (ya : YReg) (fmt : BitVec 4) (part : BitVec 2) (rows : BitVec 11) (row : BitVec 7)
  | vst (tok : Tokens) (mk : BitVec 2) (vr : BitVec 5) (s : SReg) (ya : YReg) (fmt : BitVec 4) (rm : BitVec 2) (len : BitVec 11) (off : BitVec 21)
  | pst (tok : Tokens) (mk : BitVec 2) (vr : BitVec 5) (ya : YReg) (len : BitVec 11) (off : BitVec 21)
  | vredAdd (tok : Tokens) (mk : BitVec 2) (vr : BitVec 5) (s : SReg) (ya : YReg) (fmt : BitVec 4) (len : BitVec 11) (off : BitVec 21)
  | vredMin (tok : Tokens) (mk : BitVec 2) (vr : BitVec 5) (s : SReg) (ya : YReg) (fmt : BitVec 4) (len : BitVec 11) (off : BitVec 21)
  | vredMax (tok : Tokens) (mk : BitVec 2) (vr : BitVec 5) (s : SReg) (ya : YReg) (fmt : BitVec 4) (len : BitVec 11) (off : BitVec 21)
  | lsHint (k : LS) (tok : Tokens) (mk : BitVec 2) (payload : BitVec 52)
  -- The V bundle (R55).
  | vBundleIssue (bun : Bundle)
  -- T slots (R61). Alone, each stands for the bundle line that names only it (R83).
  | tLbeg (lid : BitVec 8) (ya : YReg) (imm : BitVec 7)
  | tLend (lid : BitVec 8) (q : Bool) (e : BitVec 3) (rot : Bool)
  | tLbr (lid : BitVec 8) (ya : YReg) (q inv : Bool)
  | jmp (off : BitVec 19)
  | halt
  | stgSet (mask : BitVec 8)
  | stgClr (mask : BitVec 8)
  | stgCond (ya : YReg) (mask : BitVec 8)
  | stgLoad (ya : YReg) (mask : BitVec 8)
  | tkr (yd : YReg) (imm : BitVec 11)
  | tsr (ya yb : YReg)
  | ywait (src : BitVec 3) (n : BitVec 6)
  | tYadd (yd ya yb : YReg)
  | tYaddi (yd ya : YReg) (imm : BitVec 11)
  | tYmov (yd ya : YReg)
  | tYrd (yd : YReg) (sel : BitVec 3) (lid : BitVec 8)
  | tHint (payload : BitVec 19)
  -- A and B slots (R58, R59). Alone, each stands for the bundle line that names only it (R83).
  | vadd (ln : Lane) (d a b : OpCode) (mode : BitVec 2)
  | vsub (ln : Lane) (d a b : OpCode) (mode : BitVec 2)
  | vmul (ln : Lane) (d a b : OpCode) (mode : BitVec 2)
  | vfma (ln : Lane) (d a b c : OpCode) (mode : BitVec 2)
  | vfms (ln : Lane) (d a b c : OpCode) (mode : BitVec 2)
  | vmin (ln : Lane) (d a b : OpCode) (mode : BitVec 2)
  | vmax (ln : Lane) (d a b : OpCode) (mode : BitVec 2)
  | vclamp (ln : Lane) (d a b c : OpCode) (mode : BitVec 2)
  | vabs (ln : Lane) (d a : OpCode) (mode : BitVec 2)
  | vneg (ln : Lane) (d a : OpCode) (mode : BitVec 2)
  | vand (ln : Lane) (d a b : OpCode)
  | vor (ln : Lane) (d a b : OpCode)
  | vxor (ln : Lane) (d a b : OpCode)
  | vnot (ln : Lane) (d a : OpCode)
  | vshl (ln : Lane) (d a b : OpCode) (n : BitVec 5) (imm : Bool)
  | vshr (ln : Lane) (d a b : OpCode) (n : BitVec 5) (imm : Bool)
  | vsra (ln : Lane) (d a b : OpCode) (n : BitVec 5) (imm : Bool)
  | vcmp (ln : Lane) (d a b : OpCode) (cond : BitVec 5) (mode : BitVec 2)
  | vsel (ln : Lane) (d a b c : OpCode)
  | vmov (ln : Lane) (d a : OpCode)
  | vimm (ln : Lane) (d : OpCode) (imm : BitVec 15) (mode : BitVec 2)
  | vbrow (ln : Lane) (d a : OpCode) (idx : BitVec 10)
  | vbcol (ln : Lane) (d a : OpCode) (idx : BitVec 12)
  | vidx (ln : Lane) (d : OpCode) (off : BitVec 5) (mode : BitVec 2)
  | vperm (ln : Lane) (d a b : OpCode) (mode : BitVec 2)
  | vtr (ln : Lane) (d a : OpCode)
  | vrsum (ln : Lane) (d a : OpCode) (mode : BitVec 2)
  | vcsum (ln : Lane) (d a : OpCode) (mode : BitVec 2)
  | vrmax (ln : Lane) (d a : OpCode) (mode : BitVec 2)
  | vcmax (ln : Lane) (d a : OpCode) (mode : BitVec 2)
  | vshape (ln : Lane) (rlog clog fmt : BitVec 5)
  | vcvt (ln : Lane) (d a : OpCode) (outw : Bool) (fo : BitVec 5) (rm : BitVec 2)
  | vscl (ln : Lane) (d a b : OpCode) (col : Bool) (rm : BitVec 2)
  | vpack (ln : Lane) (d a : OpCode) (k : BitVec 5)
  | vunpk (ln : Lane) (d a : OpCode) (k : BitVec 5)
  | vexp (d a : OpCode) (rm : BitVec 2)
  | vexp2 (d a : OpCode) (rm : BitVec 2)
  | vlog (d a : OpCode) (rm : BitVec 2)
  | vlog2 (d a : OpCode) (rm : BitVec 2)
  | vrcp (d a : OpCode) (rm : BitVec 2)
  | vrsqrt (d a : OpCode) (rm : BitVec 2)
  | vsqrt (d a : OpCode) (rm : BitVec 2)
  | vtanh (d a : OpCode) (rm : BitVec 2)
  | vsig (d a : OpCode) (rm : BitVec 2)
  | vsin (d a : OpCode) (rm : BitVec 2)
  | vcos (d a : OpCode) (rm : BitVec 2)
  | verf (d a : OpCode) (rm : BitVec 2)
  | abHint (ln : Lane) (payload : BitVec 22)
  -- M slots (R60, R231).
  | mcfg (float : Bool) (wfmt : BitVec 4) (sparse : BitVec 2)
  | mmac (acc : Bool) (src : OpCode) (rowb : BitVec 7)
  | mmacs (acc : Bool) (src : OpCode) (rowb : BitVec 7) (scr : BitVec 5)
  | mclr (acc float : Bool)
  | mdrain (acc : Bool) (scale : BitVec 5) (d : OpCode) (fo : BitVec 3) (rm : BitVec 2) (tile : BitVec 6)
  -- Units that are no instruction; what the strands and the units around them do between issues.
  | unassignedEncoding (k : Strand) (word : Word64)
  | instructionFetchFault (k : Strand) (cause : BitVec 8) (tval : Word64)
  | dataWordRetire (k : LS)
  | engineCommandStart (e : Eng)
  | completionEntryPush (e : Eng)
  | migTranslationLands (i : BitVec 3)
  | nbRowStep (i : BitVec 3)
  | nbResume (i : BitVec 3)
  | nbComplete (i : BitVec 3)
  | ringTake (p : BitVec 3) (q : BitVec 6)
  | predPoll (p : BitVec 3)
  | blockAssign (p : BitVec 3)
  | blockComplete (blk : Word64)
  | quantumEnd (p : BitVec 3)
  | savedCounterAdd (p : BitVec 3) (v : BitVec 2) (event : BitVec 8)
  | hostWrite (pa : Nat) (bytes : List Byte)
  | ethRdmaWriteIn (pa : Nat) (bytes : List Byte)
  | hostRead (pa len : Nat)
  | biasFlip (page : Nat) (toHost : Bool)
  | ethRdmaReadOut (pa len : Nat)
  | remoteRequestAtHome (pkg tag pa : Nat) (op : Option (AmoOp × BitVec 2)) (write : Option (List Byte)) (len : Nat)
  | faultAnswerTimeout (p : BitVec 3) (seq : BitVec 16)
  | switchFreezeDeadline (p : BitVec 3)
  | worldSwitchRestore (p : BitVec 3)
  | unitCommit (unit : Nat)
  -- The M slots with no field, and the events with none.
  | mnop
  | mswap
  | vWriteLands
  | streamConsume
  | stretchEnd
  | vHoldRelease
  | consistentCut
  | latencySample (src : BitVec 4) (cycles : Nat)
  | takePendingTrap
  | freezeWaitDone
  | freezeWaitTimeout
  | deadlockWatchdog
  -- Steps, engines, near-bank units and memory.
  | stepPlace
  | stepStart
  | bindOffRetire
  | enginePublish
  | pubExecute
  | ecwExecute
  | refreshWindowEnd (die : BitVec 2) (bank : BitVec 4)
  | nbDispatch
  | nbGranuleWrite
  | trackerClear
  | cStoreEvent
  | leaseLapse (line : Nat)
  | dirtyEviction (line : Nat) (bad : Bool)
  -- Waits that end.
  | mwaitWake
  | mwaitTimeout
  | fenceComplete
  | barrierWake
  -- Distribution, pre-emption and faults.
  | tsubAppend
  | starvationGuard (p : BitVec 3)
  | cutStop
  | freeze
  | abandon
  | faultAnswer (p : BitVec 3) (seq : BitVec 16) (code : BitVec 2)
  -- Host, configuration plane and live service.
  | biasFlipEvent (page : Nat)
  | configStage (gen : BitVec 16) (unit off : Nat) (bytes : List Byte)
  | configCommit (gen : BitVec 16) (cls : BitVec 4) (crc : Word32)
  | configAbort (gen : BitVec 16)
  | configInvalidate (core : Nat) (va : Option Word64)
  | unitCommitTimeout (unit : Nat)
  | breakpointPatch (va : Word64) (bytes : List Byte)
  | siteDrain (die : BitVec 2) (site : BitVec 5)
  | siteRepair (die : BitVec 2) (site : BitVec 5) (banksLost : Nat)
  | firmwareUpdate (unit version : Nat) (image sig : List Byte)
  | pageMove (old new leaf : Nat)
  -- Power, droop, replay and reset.
  | powerEstimate
  | energyCharge (p : BitVec 3) (q : Option (BitVec 6))
  | permitWindow
  | droopTrip
  | droopStretchEnd
  | droopHalfIssueEnd
  | laneGroupPowerDown (g : BitVec 3)
  | replayInputApply
  | packageReset (images : List (Nat × List Byte × List Byte))
  -- SPDM (R390).
  | getVersion
  | getCapabilities
  | negotiateAlgorithms (algs : List Nat)
  | getDigests
  | getCertificate (off len : Nat)
  | challenge (nonce : List Byte)
  | getMeasurements (index : Nat)
  -- The fabric.
  | linkRetrain (port : Nat)
  | portDown (port : Nat)
  | requestTimeout (tag : Nat)
  | answeredTagExpiry (tag : Nat)
  | reductionHoldExpiry (i : Nat)
  | reductionHomeApply (i : Nat)
  | contributionLost (i : Nat)
  | fabricBarrierArrival (pkg : BitVec 8) (group : BitVec 12)
  | fabricCompletionArrives (group : BitVec 12)
  | groupCounterMove (group : BitVec 12)
  | ethLinkDown (port : BitVec 3)
  -- chxdbg.
  | breakCut (va : Word64) (iter : Option Nat) (core : Option Nat) (vf : Option (BitVec 3 × BitVec 2))
  | inject (name : Nat) (n : BitVec 12)
  | launch (template : Word64) (k : List Word32) (core : Nat) (p : Option (BitVec 3)) (vf : BitVec 2)
  | alloc (va : Word64) (size pa : Nat) (p : Option (BitVec 3)) (vf : BitVec 2)
  | allocShare (va : Word64) (size : Nat) (p : BitVec 3) (vf : BitVec 2) (va2 : Word64) (vf2 : BitVec 2)
  | submit (blk : Word64) (q : BitVec 6) (p : Option (BitVec 3)) (vf : BitVec 2)
  | load (sections : List (Word64 × Nat × BitVec 3 × List Byte)) (p : Option (BitVec 3)) (vf : BitVec 2)
  | pokeW (va : Word64) (value : Word64) (p : BitVec 3) (vf : BitVec 2)
  | peekX (va : Word64) (len : Nat) (p : Option (BitVec 3)) (vf : BitVec 2)
  | continueRun
  | stepStrand (k : Strand)
  | stepPublish
  | traceNb (core : Nat)
  | printTraceNb (lo hi : Nat)
  | printNbRecord (i : BitVec 3)
  | setCsel (p : BitVec 3) (vf : BitVec 2) (vals : List Word64)
  | setCnt (p : BitVec 3) (vf : BitVec 2) (vals : List Word64)
  | printCnt (p : BitVec 3) (vf : BitVec 2)
  | traceSwitch (p : BitVec 3) (core : Nat)
  | traceIrq (p : BitVec 3)
  | printTrace (irq : Bool)
  | setDroopth (cluster : Nat) (value : BitVec 16)
  | printDroop (cluster : Nat)
  | printEnergy (p : BitVec 3) (q : BitVec 6)
  | traceDroop (core : Nat)
  | printTraceDroop (lo hi : Nat)
  -- The remaining events.
  | stitchMarkerPlaced (k : Strand)
  | flitCrcFailure (port : Nat)
  | linkRetrainComplete (port : Nat)
  | stopGoFlowControl (port : Nat) (vc : BitVec 3) (stop : Bool)
  | barrierGroupFailureArrives (group : BitVec 12)
  | congestionNotificationPacket (qp : Nat)
  | priorityFlowControlPause (port prio : BitVec 3) (pause : Bool)
deriving DecidableEq, Repr

end Sys2Proof
end

