-- ==== Sys2Proof/WellFormed.lean ====
section
/-! DEFINITION. The limits an encoding must keep beyond its layout: R49 to R51, R53, R54, R56, R58 to R62, R128, R134,
R136, R138, R142, R204, R211, R212 (view modes), R217, R219, R220, R222 to R224, R231. A unit that breaks one of them is
unassigned (R64). Each check is decidable from the unit alone. -/

namespace Sys2Proof

/-- The CSR numbers of R113. -/
def csrDefined (n : BitVec 12) : Bool :=
  let k := n.toNat
  decide (k ≤ 0x005) || k == 0x010 || k == 0x011 || k == 0x020 || (decide (0x100 ≤ k) && decide (k ≤ 0x102)) ||
  (decide (0x110 ≤ k) && decide (k ≤ 0x113)) || (decide (0x120 ≤ k) && decide (k ≤ 0x133)) ||
  (decide (0x140 ≤ k) && decide (k ≤ 0x143)) || k == 0x150 || k == 0x151 ||
  (decide (0x800 ≤ k) && decide (k ≤ 0x81f)) || (decide (0x840 ≤ k) && decide (k ≤ 0x860))

/-- The vr field names v0 to v23 (R53). -/
def vrNamed (vr : BitVec 5) : Bool := decide (vr.toNat ≤ 23)

/-- The vr field names v0 to v23, or is 31 for none (R53). -/
def vrOrNone (vr : BitVec 5) : Bool := vrNamed vr || vr == 31

/-- Element format codes 0 to 8 (R53, R162). -/
def fmtOk (fmt : BitVec 4) : Bool := decide (fmt.toNat ≤ 8)

/-- The limits of a T slot (R61, R125, R128, R131, R136). -/
def TOp.wf : TOp → Bool
  | .lend _ _ e _ => decide (e.toNat ≤ 6)
  | .lbr _ ya q _ => !q || ya == 0
  | .ywait src _ => decide (src.toNat ≤ 3)
  | .yrd _ sel lid => decide (sel.toNat ≤ 3) && (decide (sel.toNat ≤ 1) || lid == 0)
  | .empty | .lbeg .. | .jmp .. | .halt | .stgSet .. | .stgClr .. | .stgCond .. | .stgLoad .. | .tkr .. | .tsr ..
  | .yadd .. | .yaddi .. | .ymov .. | .hint .. => true

/-- The limits of an M slot (R60, R231). -/
def MOp.wf : MOp → Bool
  | .mcfg float wfmt sparse =>
      (bif float then wfmt == 1 || wfmt == 2 else decide (5 ≤ wfmt.toNat) && decide (wfmt.toNat ≤ 8)) && sparse != 3
  | .mmacs _ _ _ scr => vrOrNone scr
  | .mdrain _ scale _ fo _ _ => vrOrNone scale && fo != 7
  | .mnop | .mswap | .mmac .. | .mclr .. => true

/-- The limits of an A or B slot that the bundle alone decides (R59, R204, R209, R211, R212, R214 to R224, R239):
unused fields are zero, and a mode no format admits is unassigned (log 29, DEDUCED). -/
def ABSlot.wf (x : ABSlot) (ln : Lane) : Bool :=
  match x.op with
  | .empty => x == .none
  | .hint => true
  | .vadd | .vsub | .vmul => x.c == 0
  | .vfma | .vfms => true
  | .vmin | .vmax => x.c == 0 && decide (x.mode.toNat ≤ 1)
  | .vclamp => decide (x.mode.toNat ≤ 1)
  | .vabs | .vneg => x.b == 0 && x.c == 0 && decide (x.mode.toNat ≤ 1)
  | .vrsum | .vcsum => x.b == 0 && x.c == 0
  | .vrmax | .vcmax => x.b == 0 && x.c == 0 && decide (x.mode.toNat ≤ 1)
  | .vand | .vor | .vxor => x.c == 0 && x.mode == 0
  | .vnot | .vmov | .vtr => x.b == 0 && x.c == 0 && x.mode == 0
  | .vshl | .vshr | .vsra => (x.mode == 0 && x.c == 0) || (x.mode == 1 && x.b == 0)
  | .vcmp => decide (x.c.toNat ≤ 6) && decide (x.mode.toNat ≤ 1)
  | .vsel => x.mode == 0
  | .vimm => x.mode != 1
  | .vbrow => x.mode == 0
  | .vbcol => true
  | .vidx => x.a == 0 && x.b == 0 && x.mode != 3
  | .vperm => x.c == 0 && decide (x.mode.toNat ≤ 1)
  | .vshape => decide (x.d.toNat ≤ 8) && decide (x.a.toNat ≤ 12) && decide (x.b.toNat ≤ 6) && x.c == 0 && x.mode == 0
  | .vcvt => decide (x.b.toNat ≤ 1) && decide (x.c.toNat ≤ 6)
  | .vscl => decide (x.c.toNat ≤ 1)
  | .vpack | .vunpk => x.b == 0 && decide (2 ≤ x.c.toNat) && decide (x.c.toNat ≤ 8) && x.mode == 0
  | .vexp | .vexp2 | .vlog | .vlog2 | .vrcp | .vrsqrt | .vsqrt | .vtanh | .vsig | .vsin | .vcos | .verf =>
      (match ln with | .a => false | .b => true) && x.b == 0 && x.c == 0

/-- The destination an A or B slot names: none for the empty slot, a hint and vshape (R62, R204). -/
def ABSlot.dest (x : ABSlot) : Option OpCode :=
  match x.op with
  | .empty | .hint | .vshape => Option.none
  | _ => Option.some x.d

/-- The destination an M slot names (R231). -/
def MOp.dest : MOp → Option OpCode
  | .mdrain _ _ d _ _ _ => some d
  | .mnop | .mcfg .. | .mswap | .mmac .. | .mmacs .. | .mclr .. => none

/-- Two slots that name one destination (R62). -/
def sameDest (x y : Option OpCode) : Bool := x.isSome && x == y

/-- The limits of a whole bundle (R56, R62). -/
def Bundle.wf (b : Bundle) : Bool :=
  (b.k != 0 || b.sym == 0) && b.m.wf && b.a.wf .a && b.b.wf .b && b.t.wf &&
  !sameDest b.a.dest b.b.dest && !sameDest b.m.dest b.a.dest && !sameDest b.m.dest b.b.dest

/-- The bundle names no slot but its M slot, which may be mnop: its line is that slot's alone (R83). -/
def Bundle.soleM (b : Bundle) : Bool := b == { Bundle.bare with m := b.m }
/-- The bundle names only its A slot. -/
def Bundle.soleA (b : Bundle) : Bool := b == { Bundle.bare with a := b.a } && b.a.op != .empty
/-- The bundle names only its B slot. -/
def Bundle.soleB (b : Bundle) : Bool := b == { Bundle.bare with b := b.b } && b.b.op != .empty
/-- The bundle names only its T slot. -/
def Bundle.soleT (b : Bundle) : Bool := b == { Bundle.bare with t := b.t } && b.t != .empty
/-- The bundle names one slot only, with timing (+0), guard p0 and no token: the slot's own constructor stands for it. -/
def Bundle.sole (b : Bundle) : Bool := b.soleM || b.soleA || b.soleB || b.soleT

/-- The instruction keeps every limit its encoding can break (R64). An event has no encoding and no limit here (log 30, DEDUCED). -/
def Instr.wf : Instr → Bool
  | .addx _ _ _ sh => decide (sh.toNat ≤ 4)
  | .slli _ _ imm => decide (imm.toNat ≤ 63)
  | .srli _ _ imm => decide (imm.toNat ≤ 63)
  | .srai _ _ imm => decide (imm.toNat ≤ 63)
  | .migRd _ sel => decide (sel.toNat ≤ 2)
  | .dmdRd _ sel _ => decide (sel.toNat ≤ 4)
  | .csrr _ n => csrDefined n
  | .csrw _ _ n => csrDefined n
  | .csrs _ _ n => csrDefined n
  | .csrc _ _ n => csrDefined n
  | .yrd _ _ _ _ sel lid => decide (sel.toNat ≤ 3) && (decide (sel.toNat ≤ 1) || lid == 0)
  | .vld _ _ vr _ _ fmt p _ off => vrOrNone vr && fmtOk fmt && (p || off == 0)
  | .pld _ _ vr _ fmt _ _ => vrNamed vr && fmtOk fmt
  | .wload _ _ _ _ fmt _ _ _ => fmtOk fmt
  | .vst _ _ vr _ _ fmt _ _ off => vrOrNone vr && fmtOk fmt && (vr == 31 || off == 0)
  | .pst _ _ vr _ _ _ => vrNamed vr
  | .vredAdd _ _ vr _ _ fmt _ off => vrOrNone vr && fmtOk fmt && (vr == 31 || off == 0)
  | .vredMin _ _ vr _ _ fmt _ off => vrOrNone vr && fmtOk fmt && (vr == 31 || off == 0)
  | .vredMax _ _ vr _ _ fmt _ off => vrOrNone vr && fmtOk fmt && (vr == 31 || off == 0)
  | .vBundleIssue bun => bun.wf && !bun.sole
  | .tLend lid q e rot => (TOp.lend lid q e rot).wf
  | .tLbr lid ya q inv => (TOp.lbr lid ya q inv).wf
  | .ywait src n => (TOp.ywait src n).wf
  | .tYrd yd sel lid => (TOp.yrd yd sel lid).wf
  | .vadd ln d a b mode => (⟨.vadd, d, a, b, 0, mode⟩ : ABSlot).wf ln
  | .vsub ln d a b mode => (⟨.vsub, d, a, b, 0, mode⟩ : ABSlot).wf ln
  | .vmul ln d a b mode => (⟨.vmul, d, a, b, 0, mode⟩ : ABSlot).wf ln
  | .vfma ln d a b c mode => (⟨.vfma, d, a, b, c, mode⟩ : ABSlot).wf ln
  | .vfms ln d a b c mode => (⟨.vfms, d, a, b, c, mode⟩ : ABSlot).wf ln
  | .vmin ln d a b mode => (⟨.vmin, d, a, b, 0, mode⟩ : ABSlot).wf ln
  | .vmax ln d a b mode => (⟨.vmax, d, a, b, 0, mode⟩ : ABSlot).wf ln
  | .vclamp ln d a b c mode => (⟨.vclamp, d, a, b, c, mode⟩ : ABSlot).wf ln
  | .vabs ln d a mode => (⟨.vabs, d, a, 0, 0, mode⟩ : ABSlot).wf ln
  | .vneg ln d a mode => (⟨.vneg, d, a, 0, 0, mode⟩ : ABSlot).wf ln
  | .vand ln d a b => (⟨.vand, d, a, b, 0, 0⟩ : ABSlot).wf ln
  | .vor ln d a b => (⟨.vor, d, a, b, 0, 0⟩ : ABSlot).wf ln
  | .vxor ln d a b => (⟨.vxor, d, a, b, 0, 0⟩ : ABSlot).wf ln
  | .vnot ln d a => (⟨.vnot, d, a, 0, 0, 0⟩ : ABSlot).wf ln
  | .vshl ln d a b n imm => (⟨.vshl, d, a, b, n, bif imm then 1 else 0⟩ : ABSlot).wf ln
  | .vshr ln d a b n imm => (⟨.vshr, d, a, b, n, bif imm then 1 else 0⟩ : ABSlot).wf ln
  | .vsra ln d a b n imm => (⟨.vsra, d, a, b, n, bif imm then 1 else 0⟩ : ABSlot).wf ln
  | .vcmp ln d a b cond mode => (⟨.vcmp, d, a, b, cond, mode⟩ : ABSlot).wf ln
  | .vsel ln d a b c => (⟨.vsel, d, a, b, c, 0⟩ : ABSlot).wf ln
  | .vmov ln d a => (⟨.vmov, d, a, 0, 0, 0⟩ : ABSlot).wf ln
  | .vimm ln d imm mode => (⟨.vimm, d, imm.extractLsb' 10 5, imm.extractLsb' 5 5, imm.extractLsb' 0 5, mode⟩ : ABSlot).wf ln
  | .vbrow ln d a idx => (⟨.vbrow, d, a, idx.extractLsb' 5 5, idx.extractLsb' 0 5, 0⟩ : ABSlot).wf ln
  | .vbcol ln d a idx => (⟨.vbcol, d, a, idx.extractLsb' 5 5, idx.extractLsb' 0 5, idx.extractLsb' 10 2⟩ : ABSlot).wf ln
  | .vidx ln d off mode => (⟨.vidx, d, 0, 0, off, mode⟩ : ABSlot).wf ln
  | .vperm ln d a b mode => (⟨.vperm, d, a, b, 0, mode⟩ : ABSlot).wf ln
  | .vtr ln d a => (⟨.vtr, d, a, 0, 0, 0⟩ : ABSlot).wf ln
  | .vrsum ln d a mode => (⟨.vrsum, d, a, 0, 0, mode⟩ : ABSlot).wf ln
  | .vcsum ln d a mode => (⟨.vcsum, d, a, 0, 0, mode⟩ : ABSlot).wf ln
  | .vrmax ln d a mode => (⟨.vrmax, d, a, 0, 0, mode⟩ : ABSlot).wf ln
  | .vcmax ln d a mode => (⟨.vcmax, d, a, 0, 0, mode⟩ : ABSlot).wf ln
  | .vshape ln rlog clog fmt => (⟨.vshape, rlog, clog, fmt, 0, 0⟩ : ABSlot).wf ln
  | .vcvt ln d a outw fo rm => (⟨.vcvt, d, a, bif outw then 1 else 0, fo, rm⟩ : ABSlot).wf ln
  | .vscl ln d a b col rm => (⟨.vscl, d, a, b, bif col then 1 else 0, rm⟩ : ABSlot).wf ln
  | .vpack ln d a k => (⟨.vpack, d, a, 0, k, 0⟩ : ABSlot).wf ln
  | .vunpk ln d a k => (⟨.vunpk, d, a, 0, k, 0⟩ : ABSlot).wf ln
  | .vexp d a rm => (⟨.vexp, d, a, 0, 0, rm⟩ : ABSlot).wf .b
  | .vexp2 d a rm => (⟨.vexp2, d, a, 0, 0, rm⟩ : ABSlot).wf .b
  | .vlog d a rm => (⟨.vlog, d, a, 0, 0, rm⟩ : ABSlot).wf .b
  | .vlog2 d a rm => (⟨.vlog2, d, a, 0, 0, rm⟩ : ABSlot).wf .b
  | .vrcp d a rm => (⟨.vrcp, d, a, 0, 0, rm⟩ : ABSlot).wf .b
  | .vrsqrt d a rm => (⟨.vrsqrt, d, a, 0, 0, rm⟩ : ABSlot).wf .b
  | .vsqrt d a rm => (⟨.vsqrt, d, a, 0, 0, rm⟩ : ABSlot).wf .b
  | .vtanh d a rm => (⟨.vtanh, d, a, 0, 0, rm⟩ : ABSlot).wf .b
  | .vsig d a rm => (⟨.vsig, d, a, 0, 0, rm⟩ : ABSlot).wf .b
  | .vsin d a rm => (⟨.vsin, d, a, 0, 0, rm⟩ : ABSlot).wf .b
  | .vcos d a rm => (⟨.vcos, d, a, 0, 0, rm⟩ : ABSlot).wf .b
  | .verf d a rm => (⟨.verf, d, a, 0, 0, rm⟩ : ABSlot).wf .b
  | .abHint ln payload => (⟨.hint, payload.extractLsb' 17 5, payload.extractLsb' 12 5, payload.extractLsb' 7 5, payload.extractLsb' 2 5, payload.extractLsb' 0 2⟩ : ABSlot).wf ln
  | .mcfg f w sp => (MOp.mcfg f w sp).wf
  | .mmacs acc src rb scr => (MOp.mmacs acc src rb scr).wf
  | .mdrain acc sc d fo rm tile => (MOp.mdrain acc sc d fo rm tile).wf
  | .add .. | .sub .. | .and .. | .or .. | .xor .. | .andn .. | .sll .. | .srl .. | .sra .. | .slt ..
  | .sltn .. | .min .. | .max .. | .minn .. | .maxn .. | .mul .. | .mulh .. | .mulhn .. | .div .. | .divn ..
  | .rem .. | .remn .. | .clz .. | .ctz .. | .popc .. | .bswap .. | .addi .. | .andi .. | .ori .. | .xori ..
  | .slti .. | .sltni .. | .muli .. | .ldhi .. | .lea .. | .ldI8 .. | .ldI16 .. | .ldI32 .. | .ld ..
  | .ldN8 .. | .ldN16 .. | .ldN32 .. | .stI8 .. | .stI16 .. | .stI32 .. | .st .. | .beq .. | .bne ..
  | .blt .. | .bge .. | .bltn .. | .bgen .. | .jal .. | .jalr .. | .amoAdd .. | .amoAddI32 .. | .amoAnd ..
  | .amoAndI32 .. | .amoOr .. | .amoOrI32 .. | .amoXor .. | .amoXorI32 .. | .amoMin .. | .amoMinI32 ..
  | .amoMax .. | .amoMaxI32 .. | .amoSwap .. | .amoSwapI32 .. | .amoCas .. | .amoCasI32 .. | .amoFaddF32 ..
  | .amoFaddBf16 .. | .sbBase .. | .sbBaseSc .. | .sbDim .. | .sbFmt .. | .sbWin .. | .sbGo .. | .sbStop ..
  | .sbRd .. | .cpMp .. | .cpPm .. | .cpMm .. | .cpPp .. | .gth .. | .sct .. | .pub .. | .ecw .. | .eqRd ..
  | .mig .. | .wrfRd .. | .nbLd .. | .nbGo .. | .nbFence | .nbRd .. | .dmd .. | .redmd .. | .lsymRd ..
  | .lsymPin .. | .lsymFree .. | .fenceE | .fenceB | .fenceS | .fenceF | .mon .. | .mwait .. | .bar ..
  | .barA .. | .barW .. | .tokPush .. | .tokPop .. | .tsub .. | .tdep .. | .yield .. | .eret | .tlbi ..
  | .icsync | .endC | .trap .. | .bkpt .. | .nop .. | .yadd .. | .yaddi .. | .ymov .. | .lbeg .. | .lend ..
  | .lbr .. | .lsEnd .. | .lsHint .. | .tLbeg .. | .jmp .. | .halt | .stgSet .. | .stgClr .. | .stgCond ..
  | .stgLoad .. | .tkr .. | .tsr .. | .tYadd .. | .tYaddi .. | .tYmov .. | .tHint .. | .mnop | .mswap
  | .mmac .. | .mclr .. | .vWriteLands | .streamConsume | .stretchEnd | .vHoldRelease | .dataWordRetire ..
  | .consistentCut | .latencySample .. | .takePendingTrap | .freezeWaitDone | .freezeWaitTimeout
  | .deadlockWatchdog | .stepPlace | .stepStart | .bindOffRetire | .engineCommandStart .. | .enginePublish
  | .pubExecute | .ecwExecute | .completionEntryPush .. | .migTranslationLands .. | .refreshWindowEnd ..
  | .nbDispatch | .nbRowStep .. | .nbResume .. | .nbComplete .. | .nbGranuleWrite | .trackerClear
  | .cStoreEvent | .leaseLapse .. | .dirtyEviction .. | .mwaitWake | .mwaitTimeout | .fenceComplete
  | .barrierWake | .tsubAppend | .ringTake .. | .predPoll .. | .blockAssign .. | .starvationGuard ..
  | .blockComplete .. | .cutStop | .freeze | .abandon | .faultAnswer .. | .faultAnswerTimeout ..
  | .quantumEnd .. | .switchFreezeDeadline .. | .worldSwitchRestore .. | .savedCounterAdd .. | .hostWrite ..
  | .hostRead .. | .biasFlip .. | .biasFlipEvent .. | .configStage .. | .configCommit .. | .configAbort ..
  | .configInvalidate .. | .unitCommit .. | .unitCommitTimeout .. | .breakpointPatch .. | .siteDrain ..
  | .siteRepair .. | .firmwareUpdate .. | .pageMove .. | .powerEstimate | .energyCharge .. | .permitWindow
  | .droopTrip | .droopStretchEnd | .droopHalfIssueEnd | .laneGroupPowerDown .. | .replayInputApply
  | .packageReset .. | .getVersion | .getCapabilities | .negotiateAlgorithms .. | .getDigests
  | .getCertificate .. | .challenge .. | .getMeasurements .. | .linkRetrain .. | .portDown ..
  | .requestTimeout .. | .answeredTagExpiry .. | .reductionHoldExpiry .. | .reductionHomeApply ..
  | .contributionLost .. | .fabricBarrierArrival .. | .fabricCompletionArrives .. | .groupCounterMove ..
  | .ethRdmaWriteIn .. | .ethRdmaReadOut .. | .ethLinkDown .. | .breakCut .. | .inject .. | .launch ..
  | .alloc .. | .allocShare .. | .submit .. | .load .. | .pokeW .. | .peekX .. | .continueRun
  | .stepStrand .. | .stepPublish | .traceNb .. | .printTraceNb .. | .printNbRecord .. | .setCsel ..
  | .setCnt .. | .printCnt .. | .traceSwitch .. | .traceIrq .. | .printTrace .. | .setDroopth ..
  | .printDroop .. | .printEnergy .. | .traceDroop .. | .printTraceDroop .. | .unassignedEncoding ..
  | .instructionFetchFault .. | .stitchMarkerPlaced .. | .remoteRequestAtHome .. | .flitCrcFailure ..
  | .linkRetrainComplete .. | .stopGoFlowControl .. | .barrierGroupFailureArrives ..
  | .congestionNotificationPacket .. | .priorityFlowControlPause .. => true

end Sys2Proof
end

