-- ==== Sys2Proof/Decode.lean ====
section
/-! DEFINITION. The decoder of the four strands' units, total on any bits and rejecting by name (R64), and the encoder,
written from the same tables (R45 to R66, R181, R187 to R199, R231, R268 to R270, R344 to R348). A unit is accepted when
its fields read as an instruction within its limits and that instruction encodes to the same bits: a nonzero value in a
field that must be zero is therefore unassigned. -/

namespace Sys2Proof

/-- Why a unit is unassigned, one name for each case of R64. -/
inductive Reject
  /-- the opcode is marked with a dash in its grid -/
  | opcode
  /-- a sub-field takes a value that R49 or R50 does not list -/
  | subField
  /-- a limit of R51, R53, R56, R58, R60 or R62 is broken -/
  | limit
  /-- a field that must be zero is not -/
  | reserved
deriving DecidableEq, Repr

/-- The stored unit of an instruction. -/
inductive Enc
  | c (w : Word32)
  | ls (k : LS) (w : Word64)
  | v (w : Word128)
deriving DecidableEq, Repr

/-- A CR word (R47). -/
def cr (maj : BitVec 7) (xd xa xb xc fn : BitVec 5) : Word32 := maj ++ xd ++ xa ++ xb ++ xc ++ fn
/-- A CI or CB word (R47). -/
def ci (maj : BitVec 7) (xd xa : BitVec 5) (imm : BitVec 15) : Word32 := maj ++ xd ++ xa ++ imm
/-- A CM word (R47). -/
def cm (maj : BitVec 7) (xd xa : BitVec 5) (size : BitVec 3) (off : BitVec 12) : Word32 := maj ++ xd ++ xa ++ size ++ off
/-- A CJ word, a hint or bkpt (R47, R65, R66). -/
def cj (maj : BitVec 7) (off : BitVec 25) : Word32 := maj ++ off
/-- A CE word (R47, R50). -/
def ce (maj : BitVec 7) (xd xa xb : BitVec 5) (eng : BitVec 3) (sub : BitVec 7) : Word32 := maj ++ xd ++ xa ++ xb ++ eng ++ sub
/-- A CX word (R47). -/
def cx (maj : BitVec 7) (xd xa : BitVec 5) (s : BitVec 3) (dim : BitVec 2) (xb fn : BitVec 5) : Word32 :=
  maj ++ xd ++ xa ++ s ++ dim ++ xb ++ fn

/-- An L or S word of the LY layout (R52, R53). -/
def ly (op : BitVec 6) (tok : Tokens) (mk : BitVec 2) (yd ya yb : YReg) (lid : BitVec 8) (imm : BitVec 32) : Word64 :=
  op ++ BitVec.ofBool tok.popP ++ BitVec.ofBool tok.popN ++ BitVec.ofBool tok.pushP ++ BitVec.ofBool tok.pushN ++ mk ++
    yd ++ ya ++ yb ++ lid ++ imm
/-- An L or S word of the LM layout (R52, R53). -/
def lm (op : BitVec 6) (tok : Tokens) (mk : BitVec 2) (vr : BitVec 5) (s : BitVec 3) (ya : YReg) (fmt md : BitVec 4)
    (len : BitVec 11) (off : BitVec 21) : Word64 :=
  op ++ BitVec.ofBool tok.popP ++ BitVec.ofBool tok.popN ++ BitVec.ofBool tok.pushP ++ BitVec.ofBool tok.pushN ++ mk ++
    vr ++ s ++ ya ++ fmt ++ md ++ len ++ off
/-- An L or S hint word (R65). -/
def lh (op : BitVec 6) (tok : Tokens) (mk : BitVec 2) (payload : BitVec 52) : Word64 :=
  op ++ BitVec.ofBool tok.popP ++ BitVec.ofBool tok.popN ++ BitVec.ofBool tok.pushP ++ BitVec.ofBool tok.pushN ++ mk ++
    payload

/-- The opcode of an A or B operation (R59). -/
def ABOp.code : ABOp → BitVec 6
  | .empty => 0x00
  | .vadd => 0x01
  | .vsub => 0x02
  | .vmul => 0x03
  | .vfma => 0x04
  | .vfms => 0x05
  | .vmin => 0x06
  | .vmax => 0x07
  | .vabs => 0x08
  | .vneg => 0x09
  | .vand => 0x0a
  | .vor => 0x0b
  | .vxor => 0x0c
  | .vnot => 0x0d
  | .vshl => 0x0e
  | .vshr => 0x0f
  | .vsra => 0x10
  | .vcmp => 0x11
  | .vsel => 0x12
  | .vmov => 0x13
  | .vimm => 0x14
  | .vbrow => 0x15
  | .vbcol => 0x16
  | .vrsum => 0x17
  | .vcsum => 0x18
  | .vrmax => 0x19
  | .vcmax => 0x1a
  | .vtr => 0x1b
  | .vshape => 0x1c
  | .vcvt => 0x1d
  | .vscl => 0x1e
  | .vclamp => 0x1f
  | .vpack => 0x20
  | .vunpk => 0x21
  | .vperm => 0x22
  | .vidx => 0x23
  | .vexp => 0x30
  | .vexp2 => 0x31
  | .vlog => 0x32
  | .vlog2 => 0x33
  | .vrcp => 0x34
  | .vrsqrt => 0x35
  | .vsqrt => 0x36
  | .vtanh => 0x37
  | .vsig => 0x38
  | .vsin => 0x39
  | .vcos => 0x3a
  | .verf => 0x3b
  | .hint => 0x3f

/-- The bits of an A or B slot (R58). -/
def ABSlot.enc (x : ABSlot) : BitVec 28 := x.op.code ++ x.d ++ x.a ++ x.b ++ x.c ++ x.mode

/-- The bits of an M slot (R60, R231). -/
def MOp.enc : MOp → BitVec 28
  | .mnop => 1#5 ++ 0#23
  | .mcfg float wfmt sparse => 2#5 ++ 0#16 ++ sparse ++ wfmt ++ BitVec.ofBool float
  | .mswap => 3#5 ++ 0#23
  | .mmac acc src rowb => 4#5 ++ 0#1 ++ BitVec.ofBool acc ++ src ++ 0#9 ++ rowb
  | .mmacs acc src rowb scr => 5#5 ++ 0#1 ++ BitVec.ofBool acc ++ src ++ 0#4 ++ scr ++ rowb
  | .mclr acc float => 6#5 ++ 0#1 ++ BitVec.ofBool acc ++ 0#20 ++ BitVec.ofBool float
  | .mdrain acc scale d fo rm tile => 7#5 ++ 0#1 ++ BitVec.ofBool acc ++ scale ++ d ++ fo ++ rm ++ tile

/-- The bits of a T slot (R61, R128, R134, R136). -/
def TOp.enc : TOp → BitVec 24
  | .empty => 0
  | .lbeg lid ya imm => 1#5 ++ lid ++ ya ++ imm
  | .lend lid q e rot => 2#5 ++ lid ++ 0#4 ++ BitVec.ofBool q ++ 0#2 ++ e ++ BitVec.ofBool rot
  | .lbr lid ya q inv => 3#5 ++ lid ++ ya ++ BitVec.ofBool q ++ BitVec.ofBool inv ++ 0#5
  | .jmp off => 4#5 ++ off
  | .halt => 5#5 ++ 0#19
  | .stgSet mask => 6#5 ++ 0#8 ++ 0#3 ++ mask
  | .stgClr mask => 6#5 ++ 0#8 ++ 1#3 ++ mask
  | .stgCond ya mask => 6#5 ++ 0#4 ++ ya ++ 2#3 ++ mask
  | .stgLoad ya mask => 6#5 ++ 0#4 ++ ya ++ 3#3 ++ mask
  | .tkr yd imm => 7#5 ++ yd ++ 0#4 ++ imm
  | .tsr ya yb => 8#5 ++ 0#4 ++ ya ++ yb ++ 0#7
  | .ywait src n => 9#5 ++ 0#8 ++ src ++ 0#2 ++ n
  | .yadd yd ya yb => 10#5 ++ yd ++ ya ++ yb ++ 0#7
  | .yaddi yd ya imm => 11#5 ++ yd ++ ya ++ imm
  | .ymov yd ya => 12#5 ++ yd ++ ya ++ 0#11
  | .yrd yd sel lid => 13#5 ++ yd ++ 0#4 ++ sel ++ lid
  | .hint payload => 31#5 ++ payload

/-- The bits of a V bundle (R55). -/
def Bundle.enc (b : Bundle) : Word128 :=
  BitVec.ofBool b.cut ++ b.sym ++ b.k ++ b.c ++ b.guard ++ b.m.enc ++ b.a.enc ++ b.b.enc ++ b.t.enc ++
    BitVec.ofBool b.tok.popP ++ BitVec.ofBool b.tok.popN ++ BitVec.ofBool b.tok.pushP ++ BitVec.ofBool b.tok.pushN

/-- The bundle line that names one A or B slot and nothing else (R83). -/
def abBundle (ln : Lane) (x : ABSlot) : Bundle :=
  match ln with
  | .a => { Bundle.bare with a := x }
  | .b => { Bundle.bare with b := x }

/-- The bundle an instruction of V stands for: itself, or the bundle line that names only its slot (R83). -/
def Instr.bundle : Instr → Option Bundle
  | .vBundleIssue bun => some bun
  | .vadd ln d a b mode => some (abBundle ln ⟨.vadd, d, a, b, 0, mode⟩)
  | .vsub ln d a b mode => some (abBundle ln ⟨.vsub, d, a, b, 0, mode⟩)
  | .vmul ln d a b mode => some (abBundle ln ⟨.vmul, d, a, b, 0, mode⟩)
  | .vfma ln d a b c mode => some (abBundle ln ⟨.vfma, d, a, b, c, mode⟩)
  | .vfms ln d a b c mode => some (abBundle ln ⟨.vfms, d, a, b, c, mode⟩)
  | .vmin ln d a b mode => some (abBundle ln ⟨.vmin, d, a, b, 0, mode⟩)
  | .vmax ln d a b mode => some (abBundle ln ⟨.vmax, d, a, b, 0, mode⟩)
  | .vclamp ln d a b c mode => some (abBundle ln ⟨.vclamp, d, a, b, c, mode⟩)
  | .vabs ln d a mode => some (abBundle ln ⟨.vabs, d, a, 0, 0, mode⟩)
  | .vneg ln d a mode => some (abBundle ln ⟨.vneg, d, a, 0, 0, mode⟩)
  | .vand ln d a b => some (abBundle ln ⟨.vand, d, a, b, 0, 0⟩)
  | .vor ln d a b => some (abBundle ln ⟨.vor, d, a, b, 0, 0⟩)
  | .vxor ln d a b => some (abBundle ln ⟨.vxor, d, a, b, 0, 0⟩)
  | .vnot ln d a => some (abBundle ln ⟨.vnot, d, a, 0, 0, 0⟩)
  | .vshl ln d a b n imm => some (abBundle ln ⟨.vshl, d, a, b, n, bif imm then 1 else 0⟩)
  | .vshr ln d a b n imm => some (abBundle ln ⟨.vshr, d, a, b, n, bif imm then 1 else 0⟩)
  | .vsra ln d a b n imm => some (abBundle ln ⟨.vsra, d, a, b, n, bif imm then 1 else 0⟩)
  | .vcmp ln d a b cond mode => some (abBundle ln ⟨.vcmp, d, a, b, cond, mode⟩)
  | .vsel ln d a b c => some (abBundle ln ⟨.vsel, d, a, b, c, 0⟩)
  | .vmov ln d a => some (abBundle ln ⟨.vmov, d, a, 0, 0, 0⟩)
  | .vimm ln d imm mode => some (abBundle ln ⟨.vimm, d, imm.extractLsb' 10 5, imm.extractLsb' 5 5, imm.extractLsb' 0 5, mode⟩)
  | .vbrow ln d a idx => some (abBundle ln ⟨.vbrow, d, a, idx.extractLsb' 5 5, idx.extractLsb' 0 5, 0⟩)
  | .vbcol ln d a idx => some (abBundle ln ⟨.vbcol, d, a, idx.extractLsb' 5 5, idx.extractLsb' 0 5, idx.extractLsb' 10 2⟩)
  | .vidx ln d off mode => some (abBundle ln ⟨.vidx, d, 0, 0, off, mode⟩)
  | .vperm ln d a b mode => some (abBundle ln ⟨.vperm, d, a, b, 0, mode⟩)
  | .vtr ln d a => some (abBundle ln ⟨.vtr, d, a, 0, 0, 0⟩)
  | .vrsum ln d a mode => some (abBundle ln ⟨.vrsum, d, a, 0, 0, mode⟩)
  | .vcsum ln d a mode => some (abBundle ln ⟨.vcsum, d, a, 0, 0, mode⟩)
  | .vrmax ln d a mode => some (abBundle ln ⟨.vrmax, d, a, 0, 0, mode⟩)
  | .vcmax ln d a mode => some (abBundle ln ⟨.vcmax, d, a, 0, 0, mode⟩)
  | .vshape ln rlog clog fmt => some (abBundle ln ⟨.vshape, rlog, clog, fmt, 0, 0⟩)
  | .vcvt ln d a outw fo rm => some (abBundle ln ⟨.vcvt, d, a, bif outw then 1 else 0, fo, rm⟩)
  | .vscl ln d a b col rm => some (abBundle ln ⟨.vscl, d, a, b, bif col then 1 else 0, rm⟩)
  | .vpack ln d a k => some (abBundle ln ⟨.vpack, d, a, 0, k, 0⟩)
  | .vunpk ln d a k => some (abBundle ln ⟨.vunpk, d, a, 0, k, 0⟩)
  | .vexp d a rm => some (abBundle .b ⟨.vexp, d, a, 0, 0, rm⟩)
  | .vexp2 d a rm => some (abBundle .b ⟨.vexp2, d, a, 0, 0, rm⟩)
  | .vlog d a rm => some (abBundle .b ⟨.vlog, d, a, 0, 0, rm⟩)
  | .vlog2 d a rm => some (abBundle .b ⟨.vlog2, d, a, 0, 0, rm⟩)
  | .vrcp d a rm => some (abBundle .b ⟨.vrcp, d, a, 0, 0, rm⟩)
  | .vrsqrt d a rm => some (abBundle .b ⟨.vrsqrt, d, a, 0, 0, rm⟩)
  | .vsqrt d a rm => some (abBundle .b ⟨.vsqrt, d, a, 0, 0, rm⟩)
  | .vtanh d a rm => some (abBundle .b ⟨.vtanh, d, a, 0, 0, rm⟩)
  | .vsig d a rm => some (abBundle .b ⟨.vsig, d, a, 0, 0, rm⟩)
  | .vsin d a rm => some (abBundle .b ⟨.vsin, d, a, 0, 0, rm⟩)
  | .vcos d a rm => some (abBundle .b ⟨.vcos, d, a, 0, 0, rm⟩)
  | .verf d a rm => some (abBundle .b ⟨.verf, d, a, 0, 0, rm⟩)
  | .abHint ln payload => some (abBundle ln ⟨.hint, payload.extractLsb' 17 5, payload.extractLsb' 12 5, payload.extractLsb' 7 5, payload.extractLsb' 2 5, payload.extractLsb' 0 2⟩)
  | .mnop => some { Bundle.bare with m := .mnop }
  | .mcfg float wfmt sparse => some { Bundle.bare with m := .mcfg float wfmt sparse }
  | .mswap => some { Bundle.bare with m := .mswap }
  | .mmac acc src rowb => some { Bundle.bare with m := .mmac acc src rowb }
  | .mmacs acc src rowb scr => some { Bundle.bare with m := .mmacs acc src rowb scr }
  | .mclr acc float => some { Bundle.bare with m := .mclr acc float }
  | .mdrain acc scale d fo rm tile => some { Bundle.bare with m := .mdrain acc scale d fo rm tile }
  | .tLbeg lid ya imm => some { Bundle.bare with t := .lbeg lid ya imm }
  | .tLend lid q e rot => some { Bundle.bare with t := .lend lid q e rot }
  | .tLbr lid ya q inv => some { Bundle.bare with t := .lbr lid ya q inv }
  | .jmp off => some { Bundle.bare with t := .jmp off }
  | .halt => some { Bundle.bare with t := .halt }
  | .stgSet mask => some { Bundle.bare with t := .stgSet mask }
  | .stgClr mask => some { Bundle.bare with t := .stgClr mask }
  | .stgCond ya mask => some { Bundle.bare with t := .stgCond ya mask }
  | .stgLoad ya mask => some { Bundle.bare with t := .stgLoad ya mask }
  | .tkr yd imm => some { Bundle.bare with t := .tkr yd imm }
  | .tsr ya yb => some { Bundle.bare with t := .tsr ya yb }
  | .ywait src n => some { Bundle.bare with t := .ywait src n }
  | .tYadd yd ya yb => some { Bundle.bare with t := .yadd yd ya yb }
  | .tYaddi yd ya imm => some { Bundle.bare with t := .yaddi yd ya imm }
  | .tYmov yd ya => some { Bundle.bare with t := .ymov yd ya }
  | .tYrd yd sel lid => some { Bundle.bare with t := .yrd yd sel lid }
  | .tHint payload => some { Bundle.bare with t := .hint payload }
  | _ => none

/-- The stored unit of an instruction; an event has none. -/
def encode (i : Instr) : Option Enc :=
  match i with
  | .add xd xa xb => some (.c (cr 0x01 xd xa xb 0 0))
  | .sub xd xa xb => some (.c (cr 0x01 xd xa xb 0 1))
  | .and xd xa xb => some (.c (cr 0x01 xd xa xb 0 2))
  | .or xd xa xb => some (.c (cr 0x01 xd xa xb 0 3))
  | .xor xd xa xb => some (.c (cr 0x01 xd xa xb 0 4))
  | .andn xd xa xb => some (.c (cr 0x01 xd xa xb 0 5))
  | .sll xd xa xb => some (.c (cr 0x01 xd xa xb 0 6))
  | .srl xd xa xb => some (.c (cr 0x01 xd xa xb 0 7))
  | .sra xd xa xb => some (.c (cr 0x01 xd xa xb 0 8))
  | .slt xd xa xb => some (.c (cr 0x01 xd xa xb 0 9))
  | .sltn xd xa xb => some (.c (cr 0x01 xd xa xb 0 10))
  | .min xd xa xb => some (.c (cr 0x01 xd xa xb 0 11))
  | .max xd xa xb => some (.c (cr 0x01 xd xa xb 0 12))
  | .minn xd xa xb => some (.c (cr 0x01 xd xa xb 0 13))
  | .maxn xd xa xb => some (.c (cr 0x01 xd xa xb 0 14))
  | .mul xd xa xb => some (.c (cr 0x02 xd xa xb 0 0))
  | .mulh xd xa xb => some (.c (cr 0x02 xd xa xb 0 1))
  | .mulhn xd xa xb => some (.c (cr 0x02 xd xa xb 0 2))
  | .div xd xa xb => some (.c (cr 0x02 xd xa xb 0 3))
  | .divn xd xa xb => some (.c (cr 0x02 xd xa xb 0 4))
  | .rem xd xa xb => some (.c (cr 0x02 xd xa xb 0 5))
  | .remn xd xa xb => some (.c (cr 0x02 xd xa xb 0 6))
  | .clz xd xa => some (.c (cr 0x03 xd xa 0 0 0))
  | .ctz xd xa => some (.c (cr 0x03 xd xa 0 0 1))
  | .popc xd xa => some (.c (cr 0x03 xd xa 0 0 2))
  | .bswap xd xa => some (.c (cr 0x03 xd xa 0 0 3))
  | .addx xd xa xb sh => some (.c (cr 0x04 xd xa xb sh 0))
  | .addi xd xa imm => some (.c (ci 0x10 xd xa imm))
  | .andi xd xa imm => some (.c (ci 0x11 xd xa imm))
  | .ori xd xa imm => some (.c (ci 0x12 xd xa imm))
  | .xori xd xa imm => some (.c (ci 0x13 xd xa imm))
  | .slli xd xa imm => some (.c (ci 0x14 xd xa imm))
  | .srli xd xa imm => some (.c (ci 0x15 xd xa imm))
  | .srai xd xa imm => some (.c (ci 0x16 xd xa imm))
  | .slti xd xa imm => some (.c (ci 0x17 xd xa imm))
  | .sltni xd xa imm => some (.c (ci 0x18 xd xa imm))
  | .muli xd xa imm => some (.c (ci 0x19 xd xa imm))
  | .ldhi xd xa imm => some (.c (ci 0x1a xd xa imm))
  | .lea xd imm => some (.c (ci 0x1b xd 0 imm))
  | .ldI8 xd xa off => some (.c (cm 0x30 xd xa 0 off))
  | .ldI16 xd xa off => some (.c (cm 0x30 xd xa 1 off))
  | .ldI32 xd xa off => some (.c (cm 0x30 xd xa 2 off))
  | .ld xd xa off => some (.c (cm 0x30 xd xa 3 off))
  | .ldN8 xd xa off => some (.c (cm 0x30 xd xa 4 off))
  | .ldN16 xd xa off => some (.c (cm 0x30 xd xa 5 off))
  | .ldN32 xd xa off => some (.c (cm 0x30 xd xa 6 off))
  | .stI8 xd xa off => some (.c (cm 0x31 xd xa 0 off))
  | .stI16 xd xa off => some (.c (cm 0x31 xd xa 1 off))
  | .stI32 xd xa off => some (.c (cm 0x31 xd xa 2 off))
  | .st xd xa off => some (.c (cm 0x31 xd xa 3 off))
  | .beq xd xa imm => some (.c (ci 0x40 xd xa imm))
  | .bne xd xa imm => some (.c (ci 0x41 xd xa imm))
  | .blt xd xa imm => some (.c (ci 0x42 xd xa imm))
  | .bge xd xa imm => some (.c (ci 0x43 xd xa imm))
  | .bltn xd xa imm => some (.c (ci 0x44 xd xa imm))
  | .bgen xd xa imm => some (.c (ci 0x45 xd xa imm))
  | .jal off => some (.c (cj 0x46 off))
  | .jalr xd xa imm => some (.c (ci 0x47 xd xa imm))
  | .amoAdd xd xa xb => some (.c (cr 0x48 xd xa xb 0 0))
  | .amoAddI32 xd xa xb => some (.c (cr 0x48 xd xa xb 0 16))
  | .amoAnd xd xa xb => some (.c (cr 0x48 xd xa xb 0 1))
  | .amoAndI32 xd xa xb => some (.c (cr 0x48 xd xa xb 0 17))
  | .amoOr xd xa xb => some (.c (cr 0x48 xd xa xb 0 2))
  | .amoOrI32 xd xa xb => some (.c (cr 0x48 xd xa xb 0 18))
  | .amoXor xd xa xb => some (.c (cr 0x48 xd xa xb 0 3))
  | .amoXorI32 xd xa xb => some (.c (cr 0x48 xd xa xb 0 19))
  | .amoMin xd xa xb => some (.c (cr 0x48 xd xa xb 0 4))
  | .amoMinI32 xd xa xb => some (.c (cr 0x48 xd xa xb 0 20))
  | .amoMax xd xa xb => some (.c (cr 0x48 xd xa xb 0 5))
  | .amoMaxI32 xd xa xb => some (.c (cr 0x48 xd xa xb 0 21))
  | .amoSwap xd xa xb => some (.c (cr 0x48 xd xa xb 0 6))
  | .amoSwapI32 xd xa xb => some (.c (cr 0x48 xd xa xb 0 22))
  | .amoCas xd xa xb xc => some (.c (cr 0x48 xd xa xb xc 7))
  | .amoCasI32 xd xa xb xc => some (.c (cr 0x48 xd xa xb xc 23))
  | .amoFaddF32 xd xa xb => some (.c (cr 0x49 xd xa xb 0 0))
  | .amoFaddBf16 xd xa xb => some (.c (cr 0x49 xd xa xb 0 1))
  | .sbBase s xa => some (.c (cx 0x50 0 xa s 0 0 0))
  | .sbBaseSc s xa xb => some (.c (cx 0x50 0 xa s 0 xb 1))
  | .sbDim s dim xa xb => some (.c (cx 0x51 0 xa s dim xb 0))
  | .sbFmt s xa xb => some (.c (cx 0x52 0 xa s 0 xb 0))
  | .sbWin s xa => some (.c (cx 0x53 0 xa s 0 0 0))
  | .sbGo s => some (.c (cx 0x54 0 0 s 0 0 0))
  | .sbStop s => some (.c (cx 0x55 0 0 s 0 0 0))
  | .sbRd xd s n => some (.c (cx 0x56 xd 0 s 0 0 (0#2 ++ n)))
  | .cpMp xd xa xb done => some (.c (ce 0x60 xd xa xb 0 (BitVec.ofBool done ++ 0#6)))
  | .cpPm xd xa xb done defer => some (.c (ce 0x60 xd xa xb 0 (BitVec.ofBool done ++ 0#1 ++ BitVec.ofBool defer ++ 1#4)))
  | .cpMm xd xa xb done defer => some (.c (ce 0x60 xd xa xb 0 (BitVec.ofBool done ++ 0#1 ++ BitVec.ofBool defer ++ 2#4)))
  | .cpPp xd xa xb done => some (.c (ce 0x60 xd xa xb 0 (BitVec.ofBool done ++ 3#6)))
  | .gth xd xa xb done iw sz => some (.c (ce 0x61 xd xa xb 1 (BitVec.ofBool done ++ 0#2 ++ BitVec.ofBool iw ++ sz)))
  | .sct xd xa xb done defer iw sz => some (.c (ce 0x62 xd xa xb 0 (BitVec.ofBool done ++ 0#1 ++ BitVec.ofBool defer ++ BitVec.ofBool iw ++ sz)))
  | .pub xd done => some (.c (ce 0x63 xd 0 0 0 (BitVec.ofBool done ++ 0#6)))
  | .ecw xd xa all => some (.c (ce 0x64 xd xa 0 0 (0#6 ++ BitVec.ofBool all)))
  | .eqRd xd gather sel => some (.c (ce 0x65 xd 0 0 (0#2 ++ BitVec.ofBool gather) (0#5 ++ sel)))
  | .mig xa xb => some (.c (ce 0x66 0 xa xb 2 (0#7)))
  | .migRd xd sel => some (.c (ce 0x67 xd 0 0 2 (0#5 ++ sel)))
  | .wrfRd xd xa => some (.c (ce 0x67 xd xa 0 3 (0#7)))
  | .nbLd xa slot => some (.c (ce 0x68 0 xa 0 0 (0#5 ++ slot)))
  | .nbGo xd xa xb done slot => some (.c (ce 0x69 xd xa xb 0 (BitVec.ofBool done ++ 0#4 ++ slot)))
  | .nbFence => some (.c (ce 0x6a 0 0 0 0 (0#7)))
  | .nbRd xd xa sel => some (.c (ce 0x6b xd xa 0 0 (0#4 ++ sel)))
  | .dmd xd xa n => some (.c (ci 0x6c xd xa (0#11 ++ n)))
  | .redmd xd => some (.c (ci 0x6d xd 0 (0#15)))
  | .dmdRd xd sel node => some (.c (ci 0x6e xd 0 (0#8 ++ sel ++ node)))
  | .lsymRd xd sym => some (.c (ci 0x6f xd 0 (0#12 ++ sym)))
  | .lsymPin xa sym => some (.c (ci 0x6f 0 xa (0x200#12 ++ sym)))
  | .lsymFree sym => some (.c (ci 0x6f 0 0 (0x400#12 ++ sym)))
  | .fenceE => some (.c (ci 0x70 0 0 (0#15)))
  | .fenceB => some (.c (ci 0x70 0 0 (1#15)))
  | .fenceS => some (.c (ci 0x70 0 0 (2#15)))
  | .fenceF => some (.c (ci 0x70 0 0 (3#15)))
  | .mon xd xa => some (.c (ci 0x71 xd xa (0#15)))
  | .mwait xd xa => some (.c (ci 0x72 xd xa (0#15)))
  | .bar level => some (.c (ci 0x73 0 0 (0#13 ++ level)))
  | .barA xd level => some (.c (ci 0x74 xd 0 (0#13 ++ level)))
  | .barW level => some (.c (ci 0x75 0 0 (0#13 ++ level)))
  | .tokPush next => some (.c (ci 0x76 0 0 (0#14 ++ BitVec.ofBool next)))
  | .tokPop next => some (.c (ci 0x77 0 0 (0#14 ++ BitVec.ofBool next)))
  | .tsub xa q => some (.c (ci 0x78 0 xa (0#9 ++ q)))
  | .tdep xd xa => some (.c (ci 0x79 xd xa (0#15)))
  | .yield strict => some (.c (ci 0x7a 0 0 (0#14 ++ BitVec.ofBool strict)))
  | .csrr xd n => some (.c (ci 0x7c xd 0 (0#3 ++ n)))
  | .csrw xd xa n => some (.c (ci 0x7c xd xa (1#3 ++ n)))
  | .csrs xd xa n => some (.c (ci 0x7c xd xa (2#3 ++ n)))
  | .csrc xd xa n => some (.c (ci 0x7c xd xa (3#3 ++ n)))
  | .eret => some (.c (cr 0x7d 0 0 0 0 0))
  | .tlbi xa => some (.c (cr 0x7d 0 xa 0 0 1))
  | .icsync => some (.c (cr 0x7d 0 0 0 0 2))
  | .endC => some (.c (cr 0x7d 0 0 0 0 3))
  | .trap imm => some (.c (ci 0x7e 0 0 imm))
  | .bkpt code => some (.c (cj 0x7f code))
  | .nop payload => some (.c (cj 0x0f payload))
  | .yadd k tok mk yd ya yb => some (.ls k (ly 0x01 tok mk yd ya yb 0 0))
  | .yaddi k tok mk yd ya imm => some (.ls k (ly 0x02 tok mk yd ya 0 0 imm))
  | .ymov k tok mk yd ya => some (.ls k (ly 0x03 tok mk yd ya 0 0 0))
  | .yrd k tok mk yd sel lid => some (.ls k (ly 0x04 tok mk yd 0 0 lid sel))
  | .lbeg k tok lid ya imm => some (.ls k (ly 0x05 tok 0 0 ya 0 lid imm))
  | .lend k tok lid => some (.ls k (ly 0x06 tok 0 0 0 0 lid 0))
  | .lbr k tok mk lid ya => some (.ls k (ly 0x07 tok mk 0 ya 0 lid 0))
  | .lsEnd k tok mk => some (.ls k (ly 0x08 tok mk 0 0 0 0 0))
  | .vld tok mk vr s ya fmt toPool len off => some (.ls .l (lm 0x10 tok mk vr s ya fmt (0#3 ++ BitVec.ofBool toPool) len off))
  | .pld tok mk vr ya fmt len off => some (.ls .l (lm 0x11 tok mk vr 0 ya fmt 0 len off))
  | .wload tok mk s ya fmt part rows row => some (.ls .l (lm 0x12 tok mk 31 s ya fmt (0#2 ++ part) rows (0#14 ++ row)))
  | .vst tok mk vr s ya fmt rm len off => some (.ls .s (lm 0x18 tok mk vr s ya fmt (0#2 ++ rm) len off))
  | .pst tok mk vr ya len off => some (.ls .s (lm 0x19 tok mk vr 0 ya 0 0 len off))
  | .vredAdd tok mk vr s ya fmt len off => some (.ls .s (lm 0x1a tok mk vr s ya fmt 0 len off))
  | .vredMin tok mk vr s ya fmt len off => some (.ls .s (lm 0x1a tok mk vr s ya fmt 1 len off))
  | .vredMax tok mk vr s ya fmt len off => some (.ls .s (lm 0x1a tok mk vr s ya fmt 2 len off))
  | .lsHint k tok mk payload => some (.ls k (lh 0x3f tok mk payload))
  | _ => i.bundle.map fun b => .v b.enc

/-- The instruction a C word's fields name, before its limits and zero fields are checked (R47 to R50). -/
def rawC (w : Word32) : Except Reject Instr :=
  let xd := w.extractLsb' 20 5
  let xa := w.extractLsb' 15 5
  let xb := w.extractLsb' 10 5
  let xc := w.extractLsb' 5 5
  let xb5 := xc
  let fn := w.extractLsb' 0 5
  let imm := w.extractLsb' 0 15
  let off25 := w.extractLsb' 0 25
  let size := w.extractLsb' 12 3
  let off12 := w.extractLsb' 0 12
  let s := size
  let dim := w.extractLsb' 10 2
  let eng := w.extractLsb' 7 3
  let sub := w.extractLsb' 0 7
  match (w.extractLsb' 25 7).toNat with
  | 0x01 =>
    match fn.toNat with
    | 0 => .ok (.add xd xa xb)
    | 1 => .ok (.sub xd xa xb)
    | 2 => .ok (.and xd xa xb)
    | 3 => .ok (.or xd xa xb)
    | 4 => .ok (.xor xd xa xb)
    | 5 => .ok (.andn xd xa xb)
    | 6 => .ok (.sll xd xa xb)
    | 7 => .ok (.srl xd xa xb)
    | 8 => .ok (.sra xd xa xb)
    | 9 => .ok (.slt xd xa xb)
    | 10 => .ok (.sltn xd xa xb)
    | 11 => .ok (.min xd xa xb)
    | 12 => .ok (.max xd xa xb)
    | 13 => .ok (.minn xd xa xb)
    | 14 => .ok (.maxn xd xa xb)
    | _ => .error .subField
  | 0x02 =>
    match fn.toNat with
    | 0 => .ok (.mul xd xa xb)
    | 1 => .ok (.mulh xd xa xb)
    | 2 => .ok (.mulhn xd xa xb)
    | 3 => .ok (.div xd xa xb)
    | 4 => .ok (.divn xd xa xb)
    | 5 => .ok (.rem xd xa xb)
    | 6 => .ok (.remn xd xa xb)
    | _ => .error .subField
  | 0x03 =>
    match fn.toNat with
    | 0 => .ok (.clz xd xa)
    | 1 => .ok (.ctz xd xa)
    | 2 => .ok (.popc xd xa)
    | 3 => .ok (.bswap xd xa)
    | _ => .error .subField
  | 0x04 =>
    match fn.toNat with
    | 0 => .ok (.addx xd xa xb xc)
    | _ => .error .subField
  | 0x0f => .ok (.nop off25)
  | 0x10 => .ok (.addi xd xa imm)
  | 0x11 => .ok (.andi xd xa imm)
  | 0x12 => .ok (.ori xd xa imm)
  | 0x13 => .ok (.xori xd xa imm)
  | 0x14 => .ok (.slli xd xa imm)
  | 0x15 => .ok (.srli xd xa imm)
  | 0x16 => .ok (.srai xd xa imm)
  | 0x17 => .ok (.slti xd xa imm)
  | 0x18 => .ok (.sltni xd xa imm)
  | 0x19 => .ok (.muli xd xa imm)
  | 0x1a => .ok (.ldhi xd xa imm)
  | 0x1b => .ok (.lea xd imm)
  | 0x30 =>
    match size.toNat with
    | 0 => .ok (.ldI8 xd xa off12)
    | 1 => .ok (.ldI16 xd xa off12)
    | 2 => .ok (.ldI32 xd xa off12)
    | 3 => .ok (.ld xd xa off12)
    | 4 => .ok (.ldN8 xd xa off12)
    | 5 => .ok (.ldN16 xd xa off12)
    | 6 => .ok (.ldN32 xd xa off12)
    | _ => .error .subField
  | 0x31 =>
    match size.toNat with
    | 0 => .ok (.stI8 xd xa off12)
    | 1 => .ok (.stI16 xd xa off12)
    | 2 => .ok (.stI32 xd xa off12)
    | 3 => .ok (.st xd xa off12)
    | _ => .error .subField
  | 0x40 => .ok (.beq xd xa imm)
  | 0x41 => .ok (.bne xd xa imm)
  | 0x42 => .ok (.blt xd xa imm)
  | 0x43 => .ok (.bge xd xa imm)
  | 0x44 => .ok (.bltn xd xa imm)
  | 0x45 => .ok (.bgen xd xa imm)
  | 0x46 => .ok (.jal off25)
  | 0x47 => .ok (.jalr xd xa imm)
  | 0x48 =>
    match fn.toNat with
    | 0 => .ok (.amoAdd xd xa xb)
    | 16 => .ok (.amoAddI32 xd xa xb)
    | 1 => .ok (.amoAnd xd xa xb)
    | 17 => .ok (.amoAndI32 xd xa xb)
    | 2 => .ok (.amoOr xd xa xb)
    | 18 => .ok (.amoOrI32 xd xa xb)
    | 3 => .ok (.amoXor xd xa xb)
    | 19 => .ok (.amoXorI32 xd xa xb)
    | 4 => .ok (.amoMin xd xa xb)
    | 20 => .ok (.amoMinI32 xd xa xb)
    | 5 => .ok (.amoMax xd xa xb)
    | 21 => .ok (.amoMaxI32 xd xa xb)
    | 6 => .ok (.amoSwap xd xa xb)
    | 22 => .ok (.amoSwapI32 xd xa xb)
    | 7 => .ok (.amoCas xd xa xb xc)
    | 23 => .ok (.amoCasI32 xd xa xb xc)
    | _ => .error .subField
  | 0x49 =>
    match fn.toNat with
    | 0 => .ok (.amoFaddF32 xd xa xb)
    | 1 => .ok (.amoFaddBf16 xd xa xb)
    | _ => .error .subField
  | 0x50 =>
    match fn.toNat with
    | 0 => .ok (.sbBase s xa)
    | 1 => .ok (.sbBaseSc s xa xb5)
    | _ => .error .subField
  | 0x51 =>
    match fn.toNat with
    | 0 => .ok (.sbDim s dim xa xb5)
    | _ => .error .subField
  | 0x52 =>
    match fn.toNat with
    | 0 => .ok (.sbFmt s xa xb5)
    | _ => .error .subField
  | 0x53 =>
    match fn.toNat with
    | 0 => .ok (.sbWin s xa)
    | _ => .error .subField
  | 0x54 =>
    match fn.toNat with
    | 0 => .ok (.sbGo s)
    | _ => .error .subField
  | 0x55 =>
    match fn.toNat with
    | 0 => .ok (.sbStop s)
    | _ => .error .subField
  | 0x56 => .ok (.sbRd xd s (fn.extractLsb' 0 3))
  | 0x60 =>
    match (sub.extractLsb' 0 2).toNat with
    | 0 => .ok (.cpMp xd xa xb (sub.getLsbD 6))
    | 1 => .ok (.cpPm xd xa xb (sub.getLsbD 6) (sub.getLsbD 4))
    | 2 => .ok (.cpMm xd xa xb (sub.getLsbD 6) (sub.getLsbD 4))
    | 3 => .ok (.cpPp xd xa xb (sub.getLsbD 6))
    | _ => .error .subField
  | 0x61 => .ok (.gth xd xa xb (sub.getLsbD 6) (sub.getLsbD 3) (sub.extractLsb' 0 3))
  | 0x62 => .ok (.sct xd xa xb (sub.getLsbD 6) (sub.getLsbD 4) (sub.getLsbD 3) (sub.extractLsb' 0 3))
  | 0x63 => .ok (.pub xd (sub.getLsbD 6))
  | 0x64 => .ok (.ecw xd xa (sub.getLsbD 0))
  | 0x65 => .ok (.eqRd xd (eng.getLsbD 0) (sub.extractLsb' 0 2))
  | 0x66 => .ok (.mig xa xb)
  | 0x67 =>
    match eng.toNat with
    | 2 => .ok (.migRd xd (sub.extractLsb' 0 2))
    | 3 => .ok (.wrfRd xd xa)
    | _ => .error .subField
  | 0x68 => .ok (.nbLd xa (sub.extractLsb' 0 2))
  | 0x69 => .ok (.nbGo xd xa xb (sub.getLsbD 6) (sub.extractLsb' 0 2))
  | 0x6a => .ok (.nbFence)
  | 0x6b => .ok (.nbRd xd xa (sub.extractLsb' 0 3))
  | 0x6c => .ok (.dmd xd xa (imm.extractLsb' 0 4))
  | 0x6d => .ok (.redmd xd)
  | 0x6e => .ok (.dmdRd xd (imm.extractLsb' 4 3) (imm.extractLsb' 0 4))
  | 0x6f =>
    match size.toNat with
    | 0 => .ok (.lsymRd xd (imm.extractLsb' 0 3))
    | 1 => .ok (.lsymPin xa (imm.extractLsb' 0 3))
    | 2 => .ok (.lsymFree (imm.extractLsb' 0 3))
    | _ => .error .subField
  | 0x70 =>
    match imm.toNat with
    | 0 => .ok (.fenceE)
    | 1 => .ok (.fenceB)
    | 2 => .ok (.fenceS)
    | 3 => .ok (.fenceF)
    | _ => .error .subField
  | 0x71 => .ok (.mon xd xa)
  | 0x72 => .ok (.mwait xd xa)
  | 0x73 => .ok (.bar (imm.extractLsb' 0 2))
  | 0x74 => .ok (.barA xd (imm.extractLsb' 0 2))
  | 0x75 => .ok (.barW (imm.extractLsb' 0 2))
  | 0x76 => .ok (.tokPush (imm.getLsbD 0))
  | 0x77 => .ok (.tokPop (imm.getLsbD 0))
  | 0x78 => .ok (.tsub xa (imm.extractLsb' 0 6))
  | 0x79 => .ok (.tdep xd xa)
  | 0x7a => .ok (.yield (imm.getLsbD 0))
  | 0x7c =>
    match size.toNat with
    | 0 => .ok (.csrr xd off12)
    | 1 => .ok (.csrw xd xa off12)
    | 2 => .ok (.csrs xd xa off12)
    | 3 => .ok (.csrc xd xa off12)
    | _ => .error .subField
  | 0x7d =>
    match fn.toNat with
    | 0 => .ok (.eret)
    | 1 => .ok (.tlbi xa)
    | 2 => .ok (.icsync)
    | 3 => .ok (.endC)
    | _ => .error .subField
  | 0x7e => .ok (.trap imm)
  | 0x7f => .ok (.bkpt off25)
  | _ => .error .opcode

/-- The token bits of an L or S word (R52). -/
def tokensLS (w : Word64) : Tokens := ⟨w.getLsbD 57, w.getLsbD 56, w.getLsbD 55, w.getLsbD 54⟩

/-- The instruction an L or S word's fields name (R52 to R54). -/
def rawLS (k : LS) (w : Word64) : Except Reject Instr :=
  let tok := tokensLS w
  let mk := w.extractLsb' 52 2
  let yd := w.extractLsb' 48 4
  let ya := w.extractLsb' 44 4
  let yb := w.extractLsb' 40 4
  let lid := w.extractLsb' 32 8
  let imm := w.extractLsb' 0 32
  let vr := w.extractLsb' 47 5
  let s := w.extractLsb' 44 3
  let yam := w.extractLsb' 40 4
  let fmt := w.extractLsb' 36 4
  let len := w.extractLsb' 21 11
  let off := w.extractLsb' 0 21
  match (w.extractLsb' 58 6).toNat with
  | 0x01 => .ok (.yadd k tok mk yd ya yb)
  | 0x02 => .ok (.yaddi k tok mk yd ya imm)
  | 0x03 => .ok (.ymov k tok mk yd ya)
  | 0x04 => .ok (.yrd k tok mk yd imm lid)
  | 0x05 => .ok (.lbeg k tok lid ya imm)
  | 0x06 => .ok (.lend k tok lid)
  | 0x07 => .ok (.lbr k tok mk lid ya)
  | 0x08 => .ok (.lsEnd k tok mk)
  | 0x10 => match k with | .l => .ok (.vld tok mk vr s yam fmt (w.getLsbD 32) len off) | .s => .error .opcode
  | 0x11 => match k with | .l => .ok (.pld tok mk vr yam fmt len off) | .s => .error .opcode
  | 0x12 => match k with | .l => .ok (.wload tok mk s yam fmt (w.extractLsb' 32 2) len (w.extractLsb' 0 7)) | .s => .error .opcode
  | 0x18 => match k with | .s => .ok (.vst tok mk vr s yam fmt (w.extractLsb' 32 2) len off) | .l => .error .opcode
  | 0x19 => match k with | .s => .ok (.pst tok mk vr yam len off) | .l => .error .opcode
  | 0x1a =>
    match k with
    | .l => .error .opcode
    | .s =>
      match (w.extractLsb' 32 2).toNat with
      | 0 => .ok (.vredAdd tok mk vr s yam fmt len off)
      | 1 => .ok (.vredMin tok mk vr s yam fmt len off)
      | 2 => .ok (.vredMax tok mk vr s yam fmt len off)
      | _ => .error .subField
  | 0x3f => .ok (.lsHint k tok mk (w.extractLsb' 0 52))
  | _ => .error .opcode

/-- The operation of an A or B opcode (R59). -/
def abOp (c : BitVec 6) : Except Reject ABOp :=
  match c.toNat with
  | 0x00 => .ok .empty
  | 0x01 => .ok .vadd
  | 0x02 => .ok .vsub
  | 0x03 => .ok .vmul
  | 0x04 => .ok .vfma
  | 0x05 => .ok .vfms
  | 0x06 => .ok .vmin
  | 0x07 => .ok .vmax
  | 0x08 => .ok .vabs
  | 0x09 => .ok .vneg
  | 0x0a => .ok .vand
  | 0x0b => .ok .vor
  | 0x0c => .ok .vxor
  | 0x0d => .ok .vnot
  | 0x0e => .ok .vshl
  | 0x0f => .ok .vshr
  | 0x10 => .ok .vsra
  | 0x11 => .ok .vcmp
  | 0x12 => .ok .vsel
  | 0x13 => .ok .vmov
  | 0x14 => .ok .vimm
  | 0x15 => .ok .vbrow
  | 0x16 => .ok .vbcol
  | 0x17 => .ok .vrsum
  | 0x18 => .ok .vcsum
  | 0x19 => .ok .vrmax
  | 0x1a => .ok .vcmax
  | 0x1b => .ok .vtr
  | 0x1c => .ok .vshape
  | 0x1d => .ok .vcvt
  | 0x1e => .ok .vscl
  | 0x1f => .ok .vclamp
  | 0x20 => .ok .vpack
  | 0x21 => .ok .vunpk
  | 0x22 => .ok .vperm
  | 0x23 => .ok .vidx
  | 0x30 => .ok .vexp
  | 0x31 => .ok .vexp2
  | 0x32 => .ok .vlog
  | 0x33 => .ok .vlog2
  | 0x34 => .ok .vrcp
  | 0x35 => .ok .vrsqrt
  | 0x36 => .ok .vsqrt
  | 0x37 => .ok .vtanh
  | 0x38 => .ok .vsig
  | 0x39 => .ok .vsin
  | 0x3a => .ok .vcos
  | 0x3b => .ok .verf
  | 0x3f => .ok .hint
  | _ => .error .opcode

/-- The fields of an A or B slot (R58). -/
def rawAB (w : BitVec 28) : Except Reject ABSlot :=
  (abOp (w.extractLsb' 22 6)).map fun op =>
    ⟨op, w.extractLsb' 17 5, w.extractLsb' 12 5, w.extractLsb' 7 5, w.extractLsb' 2 5, w.extractLsb' 0 2⟩

/-- The fields of an M slot (R60, R231). -/
def rawM (w : BitVec 28) : Except Reject MOp :=
  let acc := w.getLsbD 21
  let src := w.extractLsb' 16 5
  match (w.extractLsb' 23 5).toNat with
  | 1 => .ok .mnop
  | 2 => .ok (.mcfg (w.getLsbD 0) (w.extractLsb' 1 4) (w.extractLsb' 5 2))
  | 3 => .ok .mswap
  | 4 => .ok (.mmac acc src (w.extractLsb' 0 7))
  | 5 => .ok (.mmacs acc src (w.extractLsb' 0 7) (w.extractLsb' 7 5))
  | 6 => .ok (.mclr acc (w.getLsbD 0))
  | 7 => .ok (.mdrain acc src (w.extractLsb' 11 5) (w.extractLsb' 8 3) (w.extractLsb' 6 2) (w.extractLsb' 0 6))
  | _ => .error .opcode

/-- The fields of a T slot (R61, R128, R134, R136). -/
def rawT (w : BitVec 24) : Except Reject TOp :=
  let yd := w.extractLsb' 15 4
  let ya := w.extractLsb' 11 4
  let yb := w.extractLsb' 7 4
  let lid := w.extractLsb' 11 8
  let imm := w.extractLsb' 0 11
  let mask := w.extractLsb' 0 8
  match (w.extractLsb' 19 5).toNat with
  | 0 => .ok .empty
  | 1 => .ok (.lbeg lid yb (w.extractLsb' 0 7))
  | 2 => .ok (.lend lid (w.getLsbD 6) (w.extractLsb' 1 3) (w.getLsbD 0))
  | 3 => .ok (.lbr lid yb (w.getLsbD 6) (w.getLsbD 5))
  | 4 => .ok (.jmp (w.extractLsb' 0 19))
  | 5 => .ok .halt
  | 6 =>
    match (w.extractLsb' 8 3).toNat with
    | 0 => .ok (.stgSet mask)
    | 1 => .ok (.stgClr mask)
    | 2 => .ok (.stgCond ya mask)
    | 3 => .ok (.stgLoad ya mask)
    | _ => .error .subField
  | 7 => .ok (.tkr yd imm)
  | 8 => .ok (.tsr ya yb)
  | 9 => .ok (.ywait (w.extractLsb' 8 3) (w.extractLsb' 0 6))
  | 10 => .ok (.yadd yd ya yb)
  | 11 => .ok (.yaddi yd ya imm)
  | 12 => .ok (.ymov yd ya)
  | 13 => .ok (.yrd yd (w.extractLsb' 8 3) mask)
  | 31 => .ok (.hint (w.extractLsb' 0 19))
  | _ => .error .opcode

/-- The fields of a V bundle (R55). -/
def rawV (w : Word128) : Except Reject Bundle := do
  let m ← rawM (w.extractLsb' 84 28)
  let a ← rawAB (w.extractLsb' 56 28)
  let b ← rawAB (w.extractLsb' 28 28)
  let t ← rawT (w.extractLsb' 4 24)
  return {
    cut := w.getLsbD 127, sym := w.extractLsb' 124 3, k := w.extractLsb' 121 3, c := w.extractLsb' 115 6,
    guard := w.extractLsb' 112 3, m := m, a := a, b := b, t := t,
    tok := ⟨w.getLsbD 3, w.getLsbD 2, w.getLsbD 1, w.getLsbD 0⟩ }

/-- The instruction that an A or B slot alone is; none for the empty slot. -/
def abInstr (ln : Lane) (x : ABSlot) : Option Instr :=
  match x.op with
  | .empty => none
  | .vadd => some (.vadd ln x.d x.a x.b x.mode)
  | .vsub => some (.vsub ln x.d x.a x.b x.mode)
  | .vmul => some (.vmul ln x.d x.a x.b x.mode)
  | .vfma => some (.vfma ln x.d x.a x.b x.c x.mode)
  | .vfms => some (.vfms ln x.d x.a x.b x.c x.mode)
  | .vmin => some (.vmin ln x.d x.a x.b x.mode)
  | .vmax => some (.vmax ln x.d x.a x.b x.mode)
  | .vclamp => some (.vclamp ln x.d x.a x.b x.c x.mode)
  | .vabs => some (.vabs ln x.d x.a x.mode)
  | .vneg => some (.vneg ln x.d x.a x.mode)
  | .vand => some (.vand ln x.d x.a x.b)
  | .vor => some (.vor ln x.d x.a x.b)
  | .vxor => some (.vxor ln x.d x.a x.b)
  | .vnot => some (.vnot ln x.d x.a)
  | .vshl => some (.vshl ln x.d x.a x.b x.c (x.mode == 1))
  | .vshr => some (.vshr ln x.d x.a x.b x.c (x.mode == 1))
  | .vsra => some (.vsra ln x.d x.a x.b x.c (x.mode == 1))
  | .vcmp => some (.vcmp ln x.d x.a x.b x.c x.mode)
  | .vsel => some (.vsel ln x.d x.a x.b x.c)
  | .vmov => some (.vmov ln x.d x.a)
  | .vimm => some (.vimm ln x.d (x.a ++ x.b ++ x.c) x.mode)
  | .vbrow => some (.vbrow ln x.d x.a (x.b ++ x.c))
  | .vbcol => some (.vbcol ln x.d x.a (x.mode ++ x.b ++ x.c))
  | .vidx => some (.vidx ln x.d x.c x.mode)
  | .vperm => some (.vperm ln x.d x.a x.b x.mode)
  | .vtr => some (.vtr ln x.d x.a)
  | .vrsum => some (.vrsum ln x.d x.a x.mode)
  | .vcsum => some (.vcsum ln x.d x.a x.mode)
  | .vrmax => some (.vrmax ln x.d x.a x.mode)
  | .vcmax => some (.vcmax ln x.d x.a x.mode)
  | .vshape => some (.vshape ln x.d x.a x.b)
  | .vcvt => some (.vcvt ln x.d x.a (x.b == 1) x.c x.mode)
  | .vscl => some (.vscl ln x.d x.a x.b (x.c == 1) x.mode)
  | .vpack => some (.vpack ln x.d x.a x.c)
  | .vunpk => some (.vunpk ln x.d x.a x.c)
  | .vexp => some (.vexp x.d x.a x.mode)
  | .vexp2 => some (.vexp2 x.d x.a x.mode)
  | .vlog => some (.vlog x.d x.a x.mode)
  | .vlog2 => some (.vlog2 x.d x.a x.mode)
  | .vrcp => some (.vrcp x.d x.a x.mode)
  | .vrsqrt => some (.vrsqrt x.d x.a x.mode)
  | .vsqrt => some (.vsqrt x.d x.a x.mode)
  | .vtanh => some (.vtanh x.d x.a x.mode)
  | .vsig => some (.vsig x.d x.a x.mode)
  | .vsin => some (.vsin x.d x.a x.mode)
  | .vcos => some (.vcos x.d x.a x.mode)
  | .verf => some (.verf x.d x.a x.mode)
  | .hint => some (.abHint ln (x.d ++ x.a ++ x.b ++ x.c ++ x.mode))

/-- The instruction that an M slot alone is. -/
def MOp.instr : MOp → Instr
  | .mnop => .mnop
  | .mcfg float wfmt sparse => .mcfg float wfmt sparse
  | .mswap => .mswap
  | .mmac acc src rowb => .mmac acc src rowb
  | .mmacs acc src rowb scr => .mmacs acc src rowb scr
  | .mclr acc float => .mclr acc float
  | .mdrain acc scale d fo rm tile => .mdrain acc scale d fo rm tile

/-- The instruction that a T slot alone is; none for the empty slot. -/
def TOp.instr : TOp → Option Instr
  | .empty => none
  | .lbeg lid ya imm => some (.tLbeg lid ya imm)
  | .lend lid q e rot => some (.tLend lid q e rot)
  | .lbr lid ya q inv => some (.tLbr lid ya q inv)
  | .jmp off => some (.jmp off)
  | .halt => some (.halt)
  | .stgSet mask => some (.stgSet mask)
  | .stgClr mask => some (.stgClr mask)
  | .stgCond ya mask => some (.stgCond ya mask)
  | .stgLoad ya mask => some (.stgLoad ya mask)
  | .tkr yd imm => some (.tkr yd imm)
  | .tsr ya yb => some (.tsr ya yb)
  | .ywait src n => some (.ywait src n)
  | .yadd yd ya yb => some (.tYadd yd ya yb)
  | .yaddi yd ya imm => some (.tYaddi yd ya imm)
  | .ymov yd ya => some (.tYmov yd ya)
  | .yrd yd sel lid => some (.tYrd yd sel lid)
  | .hint payload => some (.tHint payload)

/-- The instruction of a decoded bundle: the slot's own where the line names one slot only, else the bundle's. -/
def Bundle.instr (b : Bundle) : Instr :=
  bif b.soleM then b.m.instr
  else bif b.soleA then (abInstr .a b.a).getD (.vBundleIssue b)
  else bif b.soleB then (abInstr .b b.b).getD (.vBundleIssue b)
  else bif b.soleT then b.t.instr.getD (.vBundleIssue b)
  else .vBundleIssue b

/-- A unit whose fields name `i` is `i` when `i` keeps its limits and encodes to the unit itself (R64). -/
def accept (u : Enc) (i : Instr) : Except Reject Instr :=
  bif !i.wf then .error .limit
  else bif encode i == some u then .ok i
  else .error .reserved

/-- The C strand's decoder (R47 to R51, R64 to R66). -/
def decodeC (w : Word32) : Except Reject Instr := (rawC w).bind (accept (.c w))

/-- The L and S strands' decoder (R52 to R54, R64 to R66). -/
def decodeLS (k : LS) (w : Word64) : Except Reject Instr := (rawLS k w).bind (accept (.ls k w))

/-- The V strand's decoder (R55 to R66). -/
def decodeV (w : Word128) : Except Reject Instr := (rawV w).bind fun b => accept (.v w) b.instr

/-- The decoder of a stored unit. -/
def decode : Enc → Except Reject Instr
  | .c w => decodeC w
  | .ls k w => decodeLS k w
  | .v w => decodeV w

/-- Little-endian value of a byte list (R2, R45). -/
def leNat : List Byte → Nat
  | [] => 0
  | b :: bs => b.toNat + 256 * leNat bs

/-- The `n` little-endian bytes of a value (R2). -/
def leBytes : Nat → Nat → List Byte
  | 0, _ => []
  | n + 1, v => BitVec.ofNat 8 v :: leBytes n (v / 256)

/-- The unit that a strand reads from the bytes at its PC (R45). -/
def unitOf (k : Strand) (bytes : List Byte) : Enc :=
  match k with
  | .c => .c (BitVec.ofNat 32 (leNat (bytes.take 4)))
  | .l => .ls .l (BitVec.ofNat 64 (leNat (bytes.take 8)))
  | .s => .ls .s (BitVec.ofNat 64 (leNat (bytes.take 8)))
  | .v => .v (BitVec.ofNat 128 (leNat (bytes.take 16)))

/-- What cause 0x01 reports of a unit: the C word, the L or S word, or the low 64 bits of the bundle (R64). -/
def Enc.tval : Enc → Word64
  | .c w => w.setWidth 64
  | .ls _ w => w
  | .v w => w.extractLsb' 0 64

/-- The bytes a unit is stored as (R45). -/
def Enc.bytes : Enc → List Byte
  | .c w => leBytes 4 w.toNat
  | .ls _ w => leBytes 8 w.toNat
  | .v w => leBytes 16 w.toNat

/-- The unit a word of spec/opcode_table.json stands for: 24 bits are a T slot in a bundle that names only it (log 16, DESIGN CHOICE),
32 bits a C word, 64 bits an L word, 128 bits a bundle. -/
def tableUnit (nbits w : Nat) : Enc :=
  bif decide (nbits ≤ 24) then
    .v (BitVec.ofNat 128 (leNat (leBytes 16 (({ Bundle.bare with t := .empty } : Bundle).enc.toNat + (w % 2 ^ 24) * 16))))
  else bif decide (nbits ≤ 32) then unitOf .c (leBytes 4 w)
  else bif decide (nbits ≤ 64) then unitOf .l (leBytes 8 w)
  else unitOf .v (leBytes 16 w)

/-- The strand that runs a unit. -/
def Enc.strand : Enc → Strand
  | .c _ => .c
  | .ls .l _ => .l
  | .ls .s _ => .s
  | .v _ => .v

/-- The instruction the decoder reads from a word numbered as spec/opcode_table.json numbers it. -/
def decodeTableWord (nbits w : Nat) : Option Instr :=
  match decode (tableUnit nbits w) with
  | .ok i => some i
  | .error _ => none

end Sys2Proof
end

