-- ==== Sys2Proof/Machine/State.lean ====
section
/-! DEFINITION. Everything the spec gives the machine, as plain data: one core held whole, and every unit of the cluster,
the die, the package and the fabric that acts on it (log 1, DESIGN CHOICE). Also the two reasons a step can stop, and the state after
package reset. -/

namespace Sys2Proof.Machine

/-- What stops the machine with a fault. -/
inductive Fault
  /-- Raised by HOST_WRITE, HOST_READ, ETH_RDMA_WRITE_IN, ETH_RDMA_READ_OUT and PAGE_MOVE for a physical address that
  R324 gives no region. Safe: the spec gives such an address no contents. -/
  | noSuchAddress
deriving DecidableEq, Repr

/-- What the model does not give a meaning. -/
inductive Refusal
  /-- Raised by an arm of the dispatcher whose instruction has no meaning yet. Safe: nothing runs. -/
  | notModelled (mnemonic : String)
deriving DecidableEq, Repr

/-! ### The four strands -/

/-- One hardware-loop level (R24): the end PC is recorded when the level is first closed (R128). -/
structure Loop where
  id        : BitVec 8
  start     : Word64
  fin       : Option Word64
  remaining : Word32
  index     : Word32
deriving DecidableEq, Repr

/-- Why C does not issue its next word (R22, R293, R298, R317). -/
inductive CRun
  /-- executed end, or no step (R22, R120) -/
  | ended
  /-- issues -/
  | ready
  /-- asleep on the watch, its source popped, with the TSTAMP at which the timeout expires (R17, R298) -/
  | mwait (xd : XReg) (until_ : Option Nat)
  /-- in a fence's wait (R317) -/
  | fence (kind : BitVec 2)
  /-- in nb.fence's wait (R347) -/
  | nbFence
  /-- asleep in the waiting part of bar, bar.a or bar.w (R293) -/
  | bar (i : Instr)
deriving DecidableEq, Repr

/-- The line watch of the core (R297). -/
inductive Watch
  | none
  | armed (line : Nat)
  | fired (line : Nat)
  | lost (line : Nat)
deriving DecidableEq, Repr

/-- A C store that has retired and not yet taken place (R310): its physical address and bytes. -/
structure PendStore where
  pa    : Nat
  bytes : List Byte
  /-- when it retired: its event comes within 4 microseconds -/
  since : Nat
deriving DecidableEq, Repr

/-- The C strand. -/
structure CStrand where
  /-- x0 to x31; in task mode x24 to x29 are ports and their entries here stand unused (R16, R93). -/
  regs    : Vector Word64 32
  /-- x24 to x29 of supervisor mode (R29). -/
  bank    : Vector Word64 6
  pc      : Word64
  run     : CRun
  /-- C's last turn could not issue (R17). -/
  blocked : Bool
  store   : Option PendStore
  watch   : Watch
  /-- Outstanding barrier arrivals by level, with the phase arrived at (R293). -/
  arrived : Vector (Option Nat) 4
  /-- bit L: the outstanding arrival of level L was made by a bar that has not returned (R293) -/
  mid     : BitVec 4
  /-- Words fetched ahead and held (R119). -/
  held    : List (Word64 × List Byte)
deriving DecidableEq, Repr

/-- What an L or S word still owes at its retirement (R122). -/
structure Retire where
  /-- a data word: it retires when its data has moved -/
  data  : Bool
  /-- a wload (R141) -/
  wload : Bool
  /-- the y write, when it has one -/
  y     : Option (YReg × Word32)
  /-- the token pushes -/
  tok   : Tokens
  /-- the loop levels and the PC it leaves, when it changes them -/
  next  : Option (List Loop × Word64)
  /-- it ends its strand -/
  ends  : Bool
deriving DecidableEq, Repr

/-- The L or the S strand. -/
structure LSStrand where
  regs    : Vector Word32 16
  pc      : Word64
  ended   : Bool
  blocked : Bool
  /-- Its last turn found a stream's data not there (R44). -/
  waits   : Bool
  /-- Bits [63:32] of the entry last popped through y12 (R125 selector 2). -/
  hi      : Word32
  /-- Active loop levels, innermost first (R24). -/
  loops   : List Loop
  /-- Words not yet retired, oldest first (R122). -/
  pend    : List Retire
  held    : List (Word64 × List Byte)
deriving DecidableEq, Repr

/-- The shape, element format and capacity a V operation uses (R201). -/
structure Shape where
  rlog : BitVec 4
  clog : BitVec 4
  fmt  : BitVec 4
  /-- CAP: the register capacity, as VSHAPE reports it -/
  cap  : BitVec 5
deriving DecidableEq, Repr

/-- An operation a V slot has issued (R26, R63). -/
inductive VOp
  | ab (lane : Lane) (x : ABSlot)
  | m (x : MOp)
deriving DecidableEq, Repr

/-- A V operation in flight: its operation, the shape at issue, its operands as read, what it still has to consume, and
its landing tick (R206, R207, R232). -/
structure Flight where
  op    : VOp
  shape : Shape
  /-- the snapshots of its register sources, by operand code, as bytes -/
  srcs  : List (OpCode × List Byte)
  /-- the blocks its stream sources have delivered: stream, planes read, elements as their bits, scales -/
  blocks : List (SReg × Nat × List Word32 × List (BitVec 16))
  /-- the stream sources still to be consumed, with the consumption tick -/
  await : List (SReg × Nat)
  /-- its beats and landing are fixed; until then `b0` is the earliest tick at which they may begin -/
  set   : Bool
  /-- first beat and number of beats -/
  b0    : Nat
  beats : Nat
  /-- landing tick -/
  land  : Nat
  /-- the accumulator entries an mdrain has read at its first beat, or those an mmac leaves, and their view (R232) -/
  grab  : Option (Bool × List (Nat × BitVec 48))
  /-- an mswap has made the plane it runs on the shadow plane (R234) -/
  old   : Bool
  /-- the running number of its bundle in issue order -/
  seq   : Nat
  /-- the PC of its bundle, and its low 64 bits, for a cause raised at its consumption or landing -/
  pc    : Word64
  word  : Word64
  /-- the count of live cycles at its issue, and by stream the cycles injected into its delivery (R243, R244) -/
  since : Nat
  extra : List (SReg × Nat)
deriving DecidableEq, Repr

/-- The V strand (R24, R25, R134, R201). -/
structure VStrand where
  regs    : Vector Word32 16
  pc      : Word64
  ended   : Bool
  blocked : Bool
  hi      : Word32
  loops   : List Loop
  /-- p0 to p7; p0 reads true whatever is held here (R134). -/
  pred    : BitVec 8
  shape   : Shape
  /-- T(n-1) (R25). -/
  tPrev   : Nat
  /-- Operations in flight, in issue order. -/
  flight  : List Flight
  /-- The running number of the next bundle. -/
  seq     : Nat
  /-- The tick after the last beat claimed in slots A, B and M (R207, R232). -/
  freeA   : Nat
  freeB   : Nat
  freeM   : Nat
  /-- For each accumulator, the tick after the landing of the last mmac, mmacs or mclr on it (R232). -/
  accFree : Vector Nat 2
  /-- In a stretch, the stream whose data is awaited (R247). -/
  stretch : Option SReg
  /-- Halted: halt has issued (R137). -/
  halted  : Bool
  /-- An item of R27 was pending when the bundle before was issued, or at the step's start (R248); a yield had been asked for then, and a step that it
  counts waited (R290). -/
  look    : Bool
  lookYield : Bool
  lookDue : Bool
  /-- The cut that V stands before has been reached (R26): V does not drain for it again. -/
  atCut   : Bool
  /-- In a drain for a consistent cut (R248). -/
  drain   : Bool
  /-- ticks drained so far -/
  drained : Nat
  held    : List (Word64 × List Byte)
deriving DecidableEq, Repr

/-! ### Queues and tokens -/

/-- A token FIFO (R14): tokens visible, room reserved by units that have issued and not retired (R126), and the tokens popped so far in the step (the
model's own, for what R317 calls covered). -/
structure Fifo where
  occ : Nat
  res : Nat
  out : Nat
deriving DecidableEq, Repr

/-- The queues of R14 that carry values, and the eight token FIFOs in the order of R37. -/
structure Queues where
  qcl : List Word64
  qcv : List Word64
  qcs : List Word64
  qbr : List (BitVec 8)
  qvc : List Word64
  /-- the entries of QVC popped so far in the step (the model's own, for what R317 calls covered) -/
  vOut : Nat
  /-- engine completion -/
  ecq : List Word64
  /-- task submission: block address and queue -/
  sub : List (Word64 × BitVec 6)
  tok : Vector Fifo 8
deriving DecidableEq, Repr

/-! ### Traps -/

/-- A cause that the core waits to freeze for (R31). -/
structure FreezeWait where
  cause  : BitVec 8
  strand : Strand
  tfpc   : Word64
  tval   : Word64
  /-- cycles waited -/
  cycles : Nat
  /-- the fault queue record awaiting an answer, when the fault is forwarded (R367) -/
  seq    : Option (BitVec 16)
  /-- the freeze has taken effect -/
  frozen : Bool
  /-- the cause is a stopped unit's, which is given its trap as the freeze takes effect (R40) -/
  unit   : Bool
deriving DecidableEq, Repr

/-- What the core does about a trap taken with no step running (R42). -/
inductive NoStep | no | residue | caston
deriving DecidableEq, Repr

/-- The trap registers and what stands behind them (R34 to R42). -/
structure Trap where
  cause  : BitVec 8
  strand : BitVec 2
  pm     : Bool
  mode   : Bool
  frz    : Bool
  pend   : BitVec 7
  tepc   : Word64
  tfpc   : Word64
  tval   : Word64
  tvec   : Word64
  tqocc  : Word32
  /-- the TVAL kept for each PEND bit (R39); that of bit 22 is not used (R40) -/
  kept   : Vector Word64 7
  wait   : Option FreezeWait
  /-- the handler running has no step (R42) -/
  noStep : NoStep
  /-- cycles since the last in which a condition of R44 failed, that one included -/
  dog    : Nat
  /-- bit k: the strand of code k has had no turn since a word last retired, an occupancy last changed or data last came, so that
  whether it is blocked is not known (R31; the model's own field) -/
  moved  : BitVec 4
deriving DecidableEq, Repr

/-! ### Control and status registers, latency symbols -/

/-- The ephemeris monitor of one symbol (R245): the samples of its window, and its request. -/
structure Mon where
  /-- the last samples, newest first -/
  win    : List Nat
  /-- A and B of R245 -/
  a      : Nat
  b      : Nat
  /-- a binding requested and not yet applied, and whether it is a pin -/
  req    : Option (BitVec 6 × Bool)
  pinned : Bool
deriving DecidableEq, Repr

/-- A latency symbol: binding, declared bounds and source (R19, R20). -/
structure Sym where
  bind : BitVec 6
  lo   : BitVec 6
  hi   : BitVec 6
  src  : BitVec 4
  mon  : Mon
deriving DecidableEq, Repr

/-- The CSRs that no other part of the state holds (R113). -/
structure Csrs where
  trapen  : BitVec 3
  slip    : Vector (BitVec 4) 4
  cycle   : Word64
  tick    : Word64
  stretch : Word64
  boundx  : Word64
  retime  : Word64
  dmdx    : Word64
  sym     : Vector Sym 8
  pb      : Vector Word32 3
  domain  : Vector Word32 4
  /-- DROOPTH's LEVEL and MT (R401) -/
  drLevel : BitVec 10
  drMt    : Bool
  /-- ISSUEPERMIT (R402) -/
  permit  : BitVec 5
  half    : Bool
  str     : Bool
deriving DecidableEq, Repr

/-- One copy of the performance counters (R375). -/
structure Counters where
  cnt  : Vector (BitVec 48) 32
  csel : Vector (BitVec 10) 32
  ovf  : Word32
deriving DecidableEq, Repr

/-! ### Pool, streams, engines -/

/-- The pool (R146 to R152). A byte not listed is undefined: a free value of its epoch (log 6, DESIGN CHOICE). -/
structure Pool where
  cells     : List Host.Cell
  epoch     : Nat
  /-- offsets of 8-byte words with a double-bit error (R151) -/
  bad       : List Nat
  /-- corrected errors counted per bank, and banks marked for repair (R151) -/
  fixed     : Vector Nat 32
  marked    : BitVec 32
  /-- the corrected-error count past which a bank is marked (R151) -/
  limit     : Nat
  /-- banks lost to repair (R152) -/
  lost      : Nat
deriving DecidableEq, Repr

/-- A stream descriptor (R153), and what its fetch-ahead holds. -/
structure Desc where
  base        : Word64
  count       : Vector (BitVec 24) 4
  stride      : Vector (BitVec 24) 4
  scaleBase   : Word64
  scaleStride : Word32
  ctl         : BitVec 16
  block       : BitVec 16
  win         : Word32
  share       : BitVec 16
  pos         : Word64
  /-- the plane counts of the blocks fetched ahead, oldest first (R156) -/
  ahead       : List (BitVec 4)
  /-- the next block's data has not arrived (R247) -/
  late        : Bool
  /-- the count of live cycles at which data waited for last came (R243) -/
  came        : Nat
  /-- blocks of the weight store asked for and not complete: since which count of live cycles, how many, and the cycles injected into the samples of
  those requests; the oldest request first (R243, R244, R273) -/
  req         : List (Nat × Nat × Nat)
deriving DecidableEq, Repr

/-- The kinds of engine command (R188, R190, R191). -/
inductive CmdKind | mp | pm | mm | pp | gth | sct | pub | ecw
deriving DecidableEq, Repr

/-- A fault that stopped an engine or a near-bank command (R195, R349). -/
structure UnitFault where
  cause     : BitVec 8
  tval      : Word64
  va        : Word64
  /-- its trap has been taken -/
  delivered : Bool
  /-- it was posted to the fault queue and awaits its answer -/
  seq       : Option (BitVec 16)
deriving DecidableEq, Repr

/-- A command in an engine's queue, with its progress (R186 to R195). -/
structure Cmd where
  kind      : CmdKind
  /-- operands xa and xb -/
  a         : Word64
  b         : Word64
  len       : Nat
  tag       : BitVec 16
  /-- C, D, IW and G of R187 -/
  done      : Bool
  defer     : Bool
  iw        : Bool
  all       : Bool
  sz        : BitVec 3
  /-- ecw: the value stored -/
  val       : Word64
  started   : Bool
  /-- elements or bytes completed -/
  pos       : Nat
  /-- cp.pp: the source as read before its first write, and the offsets of its words that had a double-bit error then (R151, R195) -/
  buf       : List Byte
  torn      : List Nat
  /-- destination bytes not yet published, by physical address -/
  shadow    : List Host.Cell
  written   : Bool
  published : Bool
  fault     : Option UnitFault
  /-- the running number of its issue -/
  seq       : Nat
  /-- the count of live cycles at which it entered its queue, the cycles injected into its completion, and the count at which it would have
  completed without them (R243, R244) -/
  since     : Nat
  extra     : Nat
  fin       : Option Nat
deriving DecidableEq, Repr

/-- The two engines (R158), and the weight-store bytes that wait for the bind-off bundle (R199). -/
structure Engines where
  copy   : List Cmd
  gather : List Cmd
  wstore : List Host.Cell
  seq    : Nat
deriving DecidableEq, Repr

/-- An entry of the migrate table (R197). -/
structure MigEntry where
  page     : Word64
  deadline : Word64
  fault    : Option UnitFault
deriving DecidableEq, Repr

/-- The migrate unit (R197, R198). -/
structure Migrate where
  table : Vector (Option MigEntry) 8
  slip  : Word32
  drop  : Word32
deriving DecidableEq, Repr

/-! ### Translation -/

/-- A TLB entry: its context's partition and virtual function, the page's virtual number, its size as a power of two
and the leaf as read (R323, R326). -/
structure Tlb where
  part  : BitVec 3
  vf    : BitVec 2
  vpn   : Nat
  log   : Nat
  leaf  : Word64
deriving DecidableEq, Repr

/-- An entry of the cluster's walker cache: context, level, the virtual address bits that select it, and the entry. -/
structure WalkEntry where
  part  : BitVec 3
  vf    : BitVec 2
  level : Nat
  key   : Nat
  entry : Word64
deriving DecidableEq, Repr

/-- The core's TLB and its cluster's walker cache, newest first (R326). -/
structure Mmu where
  tlb  : List Tlb
  walk : List WalkEntry
deriving DecidableEq, Repr

/-! ### Memory -/

/-- Who last wrote a line: a core's partition and virtual function, or no owner (R307). -/
abbrev Owner := Option (BitVec 3 × BitVec 2)

/-- An L2 line held, with the partition whose access allocated it (R307, R394). -/
structure L2Line where
  line  : Nat
  owner : Owner
  dirty : Bool
  by_   : Option (BitVec 3)
deriving DecidableEq, Repr

/-- A line of a stack's memory-side cache (R333). -/
structure MscLine where
  line  : Nat
  dirty : Bool
deriving DecidableEq, Repr

/-- A lease outstanding: its line, the TSTAMP at which it ends, and whether this core's agents hold it (R308). -/
structure Lease where
  line   : Nat
  until_ : Nat
  own    : Bool
deriving DecidableEq, Repr

/-- What covers a write (R317): the count of pops at which C has popped a token of L's, one of S's, or an entry of QVC that came after it; 0 is always
reached. -/
structure Cover where
  l : Nat
  s : Nat
  v : Nat
deriving DecidableEq, Repr

/-- A device agent's write of a byte that has not reached the memory-side cache (R321): whether an agent of this core made it, and what covers it
(R317). -/
structure StaleWrite where
  val   : Byte
  mine  : Bool
  cover : Cover
deriving DecidableEq, Repr

/-- The older value of a byte that the memory-side cache still holds, and the writes that have not reached it, oldest first (R317, R321). -/
structure Stale where
  old    : Byte
  writes : List StaleWrite
deriving DecidableEq, Repr

/-- A row group of the physical allocation table (R337). -/
structure RowGroup where
  index  : Nat
  owner  : BitVec 4
  valid  : Bool
  guard_ : Bool
  shared : BitVec 16
deriving DecidableEq, Repr

/-- A line whose accesses are kept in order (R404): the agent of its last event, the agents that have written it, and each agent's count of events. -/
structure OrderLine where
  line    : Nat
  last    : Nat
  writers : List Nat
  counts  : List (Nat × Nat)
deriving DecidableEq, Repr
/-- The order of the accesses to the lines of the partitions that record or replay (R404, R405): each line's, and the records that this turn is
still to write or to consume, each with its partition, its line and its data. -/
structure OrderBook where
  lines : List OrderLine
  due   : List (BitVec 3 × Nat × Nat)
deriving DecidableEq, Repr

/-- Main memory, the weight store, the host window and remote memory (R324), by physical address. -/
structure Mem where
  /-- bytes other than zero, addresses rising (log 8, DESIGN CHOICE) -/
  cells  : List Host.Cell
  /-- bytes of device-bias pages of which the memory-side cache still holds this older value (R321) -/
  stale  : List (Nat × Stale)
  /-- poisoned lines (R329, R330) -/
  poison : List Nat
  /-- pages in host bias, and pages in a flip with its direction and the TSTAMP at which it began (R320, R322) -/
  hostBias : List Nat
  flips  : List (Nat × Bool × Nat)
  /-- lines that the L2 slices hold, the most recently used first (R307) -/
  l2     : List L2Line
  /-- lines that the memory-side caches hold, by set the most recently used first (R333) -/
  msc    : List MscLine
  leases : List Lease
  /-- answers to reads and refusals of accesses from outside, newest first: the bytes, and 0 for data, 1 for data with the poison
  indication, 2 for an error completion (R330, R338) -/
  answers : List (List Byte × Nat)
  /-- none while no partition records or replays -/
  order  : Option OrderBook
deriving DecidableEq, Repr

/-! ### Matrix array, tension unit, near-bank -/

/-- One plane of the matrix array (R225). Unlisted weights, indices and column sums read zero, unlisted scales read 1.0. -/
structure Plane where
  float  : Bool
  wfmt   : BitVec 4
  sparse : BitVec 2
  kw     : BitVec 4
  /-- weights by row·128 + column, as stored -/
  w      : List (Nat × BitVec 16)
  /-- sparsity indices as stored: byte b of row r at 48·r + b -/
  idx    : List (Nat × Byte)
  /-- block scales by block·128 + column, bf16 (R227) -/
  scale  : List (Nat × BitVec 16)
  /-- column sums by block·128 + column, i32 (R227) -/
  csum   : List (Nat × Word32)
  /-- weight or index rows written since this plane became shadow (R233) -/
  wrote  : Bool
  /-- KW set in this shadow life (R228) -/
  kwSet  : Bool
deriving DecidableEq, Repr

/-- One accumulator bank: the view and the entries, by row·128 + column; unlisted entries are zero (R173, R226). -/
structure Acc where
  float : Bool
  e     : List (Nat × BitVec 48)
deriving DecidableEq, Repr

/-- The matrix array (R225, R226). -/
structure Arrays where
  active : Plane
  shadow : Plane
  acc    : Vector Acc 2
deriving DecidableEq, Repr

/-- One operand slot of a sensitivity-table node (R258). -/
structure TSlot where
  kind : BitVec 3
  idx  : BitVec 5
  sens : BitVec 12
  w    : BitVec 4
deriving DecidableEq, Repr

/-- A node of the sensitivity table: the own slot's operation, format, weight and sink, and the three operand slots (R258). -/
structure TNode where
  op    : BitVec 4
  rfmt  : BitVec 4
  w0    : BitVec 4
  sink  : BitVec 3
  slots : Vector TSlot 3
deriving DecidableEq, Repr

/-- The division of one node (R265): slot 0 is its own slot. -/
structure NodeDiv where
  budget   : Nat
  achieved : Nat
  met      : Bool
  redivided : Bool
  share    : Vector Nat 4
  fixed    : Vector Bool 4
deriving DecidableEq, Repr

/-- A held demand (R268): the table, the demand and its division. -/
structure Held where
  tab    : List TNode
  demand : Nat
  div    : List NodeDiv
deriving DecidableEq, Repr

/-- The tension unit (R256 to R271). -/
structure Tension where
  held    : Option Held
  /-- a stream the held demand reaches has been started (R268) -/
  committed : Bool
  /-- the special-function share in force, and that a dmd made within the step has left the held demand's for the next cut (R241) -/
  sfShare : Nat
  sfLater : Bool
  /-- a re-demand that awaits a cut (R269) -/
  pending : Bool
  /-- active streams whose settings a dmd has left for the next cut (R156, R268) -/
  later   : List SReg
  /-- by stream, the KW it last set in the shadow plane in this step (R228, R262) -/
  kw      : Vector (Option Nat) 8
  /-- the streams that an sb.go has started in this step (R268) -/
  started : List SReg
deriving DecidableEq, Repr

/-- A result record (R346). -/
structure NbRecord where
  tag   : BitVec 16
  valid : Bool
  acc   : Vector Word32 4
  empty : BitVec 4
deriving DecidableEq, Repr

/-- A granule that a near-bank step has written, its moment not come (R316); `rmw` when the step read it too, so that no ordinary write may come
between (R315). -/
structure Granule where
  pa    : Nat
  bytes : List Byte
  rmw   : Bool
deriving DecidableEq, Repr

/-- A near-bank command, from its nb.go until it completes (R339, R345). -/
structure NbCmd where
  prog   : List Word64
  /-- physical address of row r0, bank 0, column 0 of the pair; its virtual address -/
  row    : Nat
  va     : Word64
  s0     : Word32
  s1     : Word32
  tag    : BitVec 16
  done   : Bool
  planes : Vector Nat 4
  /-- accepted by its unit (queued there), and running -/
  sent   : Bool
  running : Bool
  step   : Nat
  rstep  : Nat
  suspended : Bool
  /-- the ordinary requests that wait at its pair, and the TSTAMP of its last suspension (R343) -/
  asked  : Nat
  halted : Nat
  /-- its record and its counts have been given; its completion entry waits for room (R346) -/
  told   : Bool
  acc    : Vector Word32 4
  empty  : BitVec 4
  /-- floating counts to be added at completion: f32 NaN, infinity, overflow, underflow, then bf16 (R342) -/
  fpc    : List Nat
  /-- the count of live cycles at which it entered the queue, the cycles injected into its completion, and the count at which it would have
  completed without them (R243, R244) -/
  start  : Nat
  extra  : Nat
  fin    : Option Nat
  fault  : Option UnitFault
  /-- who pays for its energy: the partition and the queue of its step's block (R399) -/
  payer  : BitVec 3 × Option (BitVec 6)
  /-- its step has left the core or was abandoned: it leaves with no record, count or completion entry (R350) -/
  gone   : Bool
deriving DecidableEq, Repr

/-- The near-bank side of the core (R344 to R348). -/
structure NearBank where
  slots   : Vector (List Word64) 4
  records : Vector NbRecord 8
  cmds    : List NbCmd
  /-- granule writes whose moment has not come, in the order of their row steps (R316) -/
  writes  : List Granule
  /-- lines written since the core's last bank fence, which fires watches on them (R297, R347) -/
  lines   : List Nat
  faultVa : Word64
deriving DecidableEq, Repr

/-- Lane-group power (R203): powered, and idle cycles. -/
structure LaneGroup where
  on   : Bool
  idle : Nat
  /-- it performs a beat in this cycle -/
  beat : Bool
deriving DecidableEq, Repr

/-! ### The step on the core, and debugging -/

/-- Identity of a tile step: block, running number, coordinates, and whether its block is restartable or a gang (R363, R365). -/
structure StepId where
  block  : Word64
  number : Nat
  rst    : Bool
  gang   : Bool
  /-- the queue and the priority of its block; a launched step has none (R274, R290) -/
  queue  : Option (BitVec 6)
  /-- times abandoned in a row (R365) -/
  abandons : Nat
deriving DecidableEq, Repr

/-- A cast-on record (R19). -/
structure CastOn where
  pcs    : Vector Word64 4
  k      : Vector Word32 6
  slip   : BitVec 16
  trapen : BitVec 16
  res3c  : Word32
  syms   : Vector Word32 8
  pb     : Vector Word32 3
  res6c  : Word32
  domain : Vector Word32 4
deriving DecidableEq, Repr

/-- How far a step in a shadow task slot has come (R282, R283). -/
inductive SlotStage
  | staging
  /-- waits on the answer to a prologue fault -/
  | answer (seq : BitVec 16) (source : Nat)
  | runnable
  /-- a saved step: its context waits in its partition -/
  | restored
  /-- refused, with the TVAL of cause 0x12 -/
  | refused (tval : Word64)
deriving DecidableEq, Repr

/-- A step placed in a shadow task slot (R282). -/
structure ShadowSlot where
  id     : StepId
  cast   : CastOn
  part   : BitVec 3
  vf     : BitVec 2
  /-- stream registers bound by its prologue (R281) -/
  binds  : List (SReg × Desc)
  /-- copy-ins waiting for the running step's end: pool offset and bytes (R282) -/
  copies : List (Nat × List Byte)
  /-- its sensitivity table, as the prologue read it, and the demand held (R271) -/
  table  : List TNode
  demand : Nat
  /-- its cast-on record is filled (R280) -/
  filled : Bool
  stage  : SlotStage
deriving DecidableEq, Repr

/-- The requests to take a step off its core, by rank (R364). -/
inductive Leave | cutStop | freeze | abandon
deriving DecidableEq, Repr

/-- What runs on the core, and the items of R27 that wait for a cut. -/
structure StepCtx where
  /-- a step runs -/
  running : Option StepId
  cast    : Option CastOn
  part    : BitVec 3
  vf      : BitVec 2
  /-- the shadow task slots, the step placed first at the head (R282) -/
  slots   : List ShadowSlot
  /-- new code for L, V and S waits for a cut (R119, R302) -/
  newCode : Bool
  /-- yield request: its mode (R290) -/
  yield_  : Option Bool
  leave   : Option Leave
  /-- gate of V between its bind-off bundle's issue and its retirement (R23, R137) -/
  bindOff : Bool
  /-- words retired in the step by C (R404) -/
  cWords  : Nat
  /-- the core's previous step, its partition, and the demand held at its end (R271) -/
  prev    : Option (StepId × BitVec 3 × Nat)
  /-- live cycles: those of the step in which the core was neither frozen nor stopped; samples are counted in them (R243) -/
  live    : Nat
  /-- the tick rates in force, newest first: the count of live cycles from which on, ISSUEPERMIT, and half-issue (R7, R244) -/
  rates   : List (Nat × BitVec 5 × Bool)
deriving DecidableEq, Repr

/-- A breakpoint (R272). -/
structure Bp where
  va   : Word64
  iter : Option Nat
  part : BitVec 3
  vf   : BitVec 2
deriving DecidableEq, Repr

/-- A stop, as chxdbg reports it (R272, R300, R301). -/
structure StopRec where
  pc     : Word64
  tick   : Nat
  drain  : Nat
  /-- 0 for a debugger stop, 1 for replay divergence -/
  why    : Nat
  /-- the items of R27 that the cut applied, by their place in its list, 1 to 5 -/
  items  : List Nat
  /-- the V position: hardware loop id, iteration minus stage, and stage (R301) -/
  loopId : BitVec 8
  iter   : Word32
  stage  : BitVec 8
deriving DecidableEq, Repr

/-- A sampling record in flight (R304). -/
structure Marker where
  strand : Strand
  pc     : Word64
  loopId : BitVec 8
  stage  : BitVec 8
  iter   : Word32
  cycle  : Nat
  /-- the units that the strand has still to retire before the marked one, those it had retired at the last turn's end, and its PC then -/
  ahead  : Nat
  seen   : Nat
  cur    : Word64
deriving DecidableEq, Repr

/-- A trace line: what happened, and when. -/
structure TraceLine where
  what : String
  time : Nat
  args : List Nat
deriving DecidableEq, Repr

/-- The core's debug unit, and chxdbg's view (R272 to R274, R300 to R306, R354, R355, R391 to R393, R406, R407). -/
structure Debug where
  stopped  : Bool
  /-- a debugger stop waits for a cut -/
  stopReq  : Bool
  bps      : List Bp
  /-- the injections that chxdbg has commanded, by the name of a symbol, newest first (R273) -/
  inject   : List (Nat × BitVec 12)
  stops    : List StopRec
  /-- tagged sampling: buffer address, size, written, strand mask, log of the interval, lost (R304) -/
  smpBase  : Word64
  smpSize  : Nat
  smpPos   : Nat
  smpMask  : BitVec 4
  smpLog   : BitVec 5
  smpLost  : Nat
  /-- the units of the selected strands that had retired when the last marker was placed -/
  smpFrom  : Nat
  marker   : Option Marker
  /-- the bank-conflict matrix by requester·32 + bank, and its snapshot (R305) -/
  bank     : List (Nat × Word32)
  snapBank : List (Nat × Word32)
  snapLoop : BitVec 8
  snapTick : Nat
  traceNb  : Bool
  /-- the value of nb.rd sel 6 at the trace's last line (R355) -/
  nbLast   : Nat
  traceSw  : Option (BitVec 3 × Nat)
  traceIrq : Option (BitVec 3)
  traceDr  : Bool
  /-- the trace was on as the droop response that runs began (R407) -/
  drOn     : Bool
  nbLines  : List TraceLine
  swLines  : List TraceLine
  irqLines : List TraceLine
  drLines  : List TraceLine
  /-- what chxdbg has printed, newest first -/
  shown    : List (List Nat)
  /-- this core has not acknowledged a breakpoint patch; the TSTAMP of the patch, until its report of that (R302) -/
  unacked  : Bool
  patchAt  : Option Nat
deriving DecidableEq, Repr

/-- The saved context of a step that left by cut-stop or freeze (R363). -/
structure Saved where
  part   : BitVec 3
  vf     : BitVec 2
  ctx    : StepCtx
  c      : CStrand
  l      : LSStrand
  s      : LSStrand
  v      : VStrand
  q      : Queues
  trap   : Trap
  csr    : Csrs
  pool   : List Host.Cell
  epoch  : Nat
  str    : Vector Desc 8
  arr    : Arrays
  eng    : Engines
  mig    : Migrate
  nbSlots : Vector (List Word64) 4
  nbRecs : Vector NbRecord 8
  /-- near-bank commands stopped by a fault, and those behind them (R350) -/
  nbCmds : List NbCmd
  nbFaultVa : Word64
  ten    : Tension
  fpc    : Vector Word32 12
  bank   : List (Nat × Word32)
  /-- saved at a cut -/
  atCut  : Bool
  /-- banks that the pool of its core had lost (R363) -/
  lost   : Nat
deriving DecidableEq, Repr

/-- The whole of one core. -/
structure Core where
  c    : CStrand
  l    : LSStrand
  v    : VStrand
  s    : LSStrand
  q    : Queues
  trap : Trap
  csr  : Csrs
  perf : Counters
  pool : Pool
  str  : Vector Desc 8
  arr  : Arrays
  eng  : Engines
  mig  : Migrate
  mmu  : Mmu
  /-- the lines that the L1 region holds, the most recently used first (R149) -/
  l1   : List Nat
  ten  : Tension
  nb   : NearBank
  /-- the twelve floating counts: f32, bf16, f16, each NaN, infinity, overflow, underflow (R179) -/
  fpc  : Vector Word32 12
  lanes : Vector LaneGroup 8
  ctx  : StepCtx
  dbg  : Debug
  /-- the units that each strand has retired, by the event that counts them: V, C, L, S (R304, R376) -/
  units : Vector Nat 4
deriving DecidableEq, Repr

/-! ### The package -/

/-- A virtual function of a partition (R371, R375). -/
structure VfCfg where
  ptbase : Word64
  tvecw  : Word64
  qmask  : Word64
  /-- the saved copy of its counters on this core, while another VF is resident -/
  perf   : Option Counters
  /-- chxdbg's page table allocation, next free physical address (R391) -/
  alloc  : Nat
deriving DecidableEq, Repr

/-- A task queue (R356, R399). -/
structure TaskQueue where
  base   : Word64
  en     : Bool
  prio   : BitVec 3
  logsz  : BitVec 4
  energy : Word64
  frac   : Nat
deriving DecidableEq, Repr

/-- A block the die holds (R285, R358 to R360). -/
structure Block where
  addr    : Word64
  queue   : BitVec 6
  head    : Nat
  bytes   : List Byte
  /-- PRED as last read; ready at 0, since this TSTAMP (R358, R359) -/
  pred    : Nat
  tw      : Option Nat
  /-- the TSTAMP at which it became ready -/
  ready   : Nat
  /-- assigned to this cluster: first and end outermost tile, next step number -/
  assigned : Bool
  lo      : Nat
  hi      : Nat
  next    : Nat
  /-- halt lines: this core has no step of it placed or running is derived; the other cores' lines (R285) -/
  others  : Bool
  failed  : Bool
  /-- level-0 and level-1 group numbers (R292) -/
  group0  : Nat
  group1  : Nat
  /-- its check at receipt waits for the answer to this record (R278) -/
  check   : Option (BitVec 16)
  /-- a guard cut-stop of it is outstanding (R361) -/
  guarded : Bool
  /-- the zeroing of its exception record failed; a record 0x36 has been posted; the counts a gang's steps hold back (R179, R180) -/
  excBad  : Bool
  excPost : Bool
  exc     : Vector Word32 12
  /-- of a gang: the other members on the cluster are ready to start with this core's step; and that step, once it has ended (R284) -/
  mates   : Bool
  /-- no other cluster has received tiles of it, and no other core of the cluster a step of its gang (R284, R360) -/
  alone   : Bool
  sole    : Bool
  /-- the cores of the cluster that a gang's share goes to, in the order of its steps, once they all have a slot for it (R284) -/
  cores   : List (BitVec 3)
  ended   : Option (StepId × CastOn)
deriving DecidableEq, Repr

/-- A record of the fault queue (R366). -/
structure FaultRec where
  type  : BitVec 8
  await : Bool
  seq   : BitVec 16
  core  : Word32
  addr  : Word64
  stamp : Word64
  tstat : Word32
  aux   : Word32
  tfpc  : Word64
  tval  : Word64
  block : Word64
  number : Word32
  /-- the queue of the step's block, none for a launched step, and its virtual function: no bytes of the record, and what tells two steps apart
  (R274, R368; the model's own fields) -/
  queue : Option (BitVec 6)
  vf    : BitVec 2
deriving DecidableEq, Repr

/-- A partition (R366, R370, R371, R397, R403, R413). -/
structure Part where
  en     : Bool
  td     : BitVec 3
  vfen   : BitVec 4
  quant  : BitVec 16
  sites  : BitVec 68
  vfs    : Vector VfCfg 4
  resident : BitVec 2
  /-- TSTAMP at which the running quantum ends; none while a switch runs -/
  quantEnd : Nat
  /-- a world switch in progress: the incoming VF, the phase, and the TSTAMP it began (R374) -/
  switch_ : Option (BitVec 2 × Nat × Nat)
  /-- the VF to return to after a directed yield, and whether one was made in this quantum (R299) -/
  yieldBack : Option (BitVec 2)
  yielded : Bool
  queues : List (BitVec 6 × TaskQueue)
  /-- the TSTAMP at which a block of a queue last completed or failed (R400; the model's own field) -/
  doneAt : List (BitVec 6 × Nat)
  /-- the unplaced steps that each die reports, for this die those of its other clusters; and the sites of this die whose clusters report no room
  (R360) -/
  dieLoad : Vector Nat 4
  full    : List Nat
  /-- round-robin pointers of the lead die and of the cluster (R359) -/
  ptrDie : BitVec 6
  ptrCl  : BitVec 6
  blocks : List Block
  fqBase : Word64
  fqEn   : Bool
  fqLog  : BitVec 4
  fwdC   : Bool
  fwdS   : Bool
  fwdE   : Bool
  fwdN   : Bool
  tmo    : BitVec 16
  seq    : BitVec 16
  /-- records that await an answer, with the TSTAMP of posting -/
  await  : List FaultRec
  /-- records posted, newest first, as chxdbg would read them -/
  posted : List FaultRec
  /-- records, and increments of LOST, whose writes wait for a flip or a lease, oldest first (R308, R322; the model's own field) -/
  posts  : List (Option FaultRec)
  excTh  : Nat
  /-- steps saved by cut-stop or freeze (R363) -/
  saved  : List Saved
  /-- steps whose slots a world switch or a repair has emptied: they are placed again first (R374) -/
  back   : List ShadowSlot
  cap    : BitVec 16
  pmin   : BitVec 5
  est    : BitVec 16
  permit : BitVec 5
  thr    : Bool
  idleEnergy : Word64
  idleFrac : Nat
  repMode : BitVec 2
  repLog : BitVec 6
  repBase : Word64
  repPos : BitVec 48
  /-- records past POS that this core has consumed already (R405) -/
  repDone : List Nat
  repFull : Bool
  repDiv : Bool
  /-- replay records written, oldest first, each as its 32 bytes -/
  reps   : List (List Byte)
  rwBase : Word64
  rwEn   : Bool
  rwLog  : BitVec 4
  rwGroup : BitVec 12
  /-- L2WAYS: the ways of each L2 set that the partition has reserved (R307, R370) -/
  l2Ways : BitVec 4
deriving DecidableEq, Repr

/-- A barrier counter of levels 0 to 2, or a level-3 collection (R293, R294). -/
structure BarCtr where
  level : BitVec 2
  group : BitVec 12
  count : Nat
  phase : Nat
deriving DecidableEq, Repr

/-- A fabric group's counter (R417). -/
structure FabCtr where
  group   : BitVec 12
  members : BitVec 9
  count   : BitVec 9
  fail    : Bool
  phase   : Word32
  plane   : Nat
  /-- packages that arrived in the open phase; and this package arrived in a phase whose completion is still to reach it -/
  who     : List (BitVec 8)
  due     : Bool
deriving DecidableEq, Repr

/-- A unit of the configuration plane (R381, R382): the bytes its active plane has been given, and the bytes in which its staged plane
differs from the active one. -/
structure CfgUnit where
  unit   : Nat
  active : List (Nat × Byte)
  staged : List (Nat × Byte)
  gen    : BitVec 16
  /-- 0 none, 1 ack, 2 nak, 3 timeout -/
  result : BitVec 2
  /-- a commit waits for the unit's idle point: generation, expected CRC, TSTAMP -/
  waiting : Option (BitVec 16 × Word32 × Nat)
deriving DecidableEq, Repr

/-- A link's state (R408, R410, R421). -/
inductive LinkState | up | retraining | down
deriving DecidableEq, Repr

/-- An Uluzo port (R408, R410). -/
structure Link where
  state : LinkState
  /-- the flit at the head of the retry buffer is replayed, and its replays that have failed -/
  again : Bool
  fails : Nat
  /-- stop bit of each virtual channel -/
  stop  : BitVec 5
deriving DecidableEq, Repr

/-- A posted reduction's contribution, held in the switches (R414, R415). -/
structure Contribution where
  pa   : Nat
  va   : Word64
  /-- 0 add, 1 min, 2 max -/
  op   : RedOp
  /-- element format: 0 f32, 1 bf16, 3 i32 -/
  fmt  : BitVec 4
  bits : Word32
  /-- contributors of this core -/
  own  : Nat
  /-- for those of S, the count of S's tokens popped by C at which one that covers it has come; 0 for C's (R317) -/
  need : Nat
  /-- merged: no longer held by a switch -/
  sent : Bool
deriving DecidableEq, Repr

/-- This core's non-posted request that has had no response within 20 microseconds: its tag, how often that has been found, and when (R412). -/
structure RemoteReq where
  tag   : Nat
  tries : Nat
  at_   : Nat
deriving DecidableEq, Repr

/-- A request that this package's home has answered (R412). -/
structure Answered where
  pkg  : BitVec 8
  tag  : Nat
  data : List Byte
  /-- 0 for data, 1 for data with the poison indication, 2 for an error; and the TSTAMP of the answer -/
  code : Nat
  at_  : Nat
deriving DecidableEq, Repr

/-- A queue pair of an Ethernet port: its partition and number, whether it is reliable-connected or datagram, the port and the priority it sends on; its
rate, as the number of congestion notifications that have reduced it, and the TSTAMP before which it sends nothing (R421). -/
structure QueuePair where
  part : BitVec 3
  num  : Nat
  rc   : Bool
  port : BitVec 3
  prio : BitVec 3
  rate : Nat
  next : Nat
deriving DecidableEq, Repr

/-- A memory stack's control and trackers (R334 to R336). -/
structure Stack where
  mgth  : BitVec 12
  force : Bool
  pol   : Bool
  psel  : Vector (BitVec 10) 8
  idx   : BitVec 3
  blru  : BitVec 5
  /-- tracker entries by bank: (channel·32 + bank)·16 + entry, row and count; unlisted entries are clear -/
  track : List (Nat × Nat × Nat)
  /-- directed refreshes done, newest first: bank and row -/
  refreshed : List (Nat × Nat)
deriving DecidableEq, Repr

/-- An interrupt sent to the host: function, vector, cause; of vector 3, 1 for a change of THR, 2 for FULL and 3 for DIV (R378, R380, R393; log 76, DESIGN
CHOICE). -/
structure Msi where
  fn  : Nat
  vec : Nat
  cause : Nat
deriving DecidableEq, Repr

/-- The SPDM responder (R390). -/
structure Spdm where
  version : Bool
  caps    : Bool
  algs    : Bool
  /-- answers given, newest first: request name, and bytes -/
  answers : List (String × List Byte)
deriving DecidableEq, Repr

/-- A firmware image: unit, security version and bytes (R386, R389). -/
structure Image where
  unit    : Nat
  version : Nat
  bytes   : List Byte
deriving DecidableEq, Repr

/-- The package outside the core (16, 17, 19, 20, 22, 24). -/
structure Pkg where
  parts   : Vector Part 8
  bars    : List BarCtr
  fabs    : List FabCtr
  units   : List CfgUnit
  pkgCap  : Nat
  /-- the cluster's droop count, and its response: the cycle's offset from the trip, 0 to 71 (R401, R402, R407) -/
  droops  : Word32
  droop   : Option Nat
  /-- a trip in this cycle starts the response again, with this cycle as the trip's (R402; the model's own field) -/
  again   : Bool
  /-- the end of the microsecond that the estimator runs at next (R398; the model's own field) -/
  estAt   : Nat
  /-- whose energy of the microsecond, beside that of what runs on the core, is still to be charged: partition and queue, none for IDLEENERGY (R399; the
  model's own field) -/
  owed    : List (BitVec 3 × Option (BitVec 6))
  /-- interrupts that a replay holds off, with their causes (R393, R405; the model's own field) -/
  heldMsi : List Msi
  /-- stacks, row groups, shadow sizes, overflow -/
  hbm     : Vector Stack 12
  rows    : List RowGroup
  shsize  : Vector (BitVec 5) 4
  overflow : Vector Nat 4
  /-- by L2 set, the ways that other cores' shadow and fallback lines pin; and what their shadows take of each die's overflow (R152, R314) -/
  pins    : List (Nat × Nat)
  overUsed : Vector Nat 4
  /-- the end of the 32 ms after which the trackers are cleared (R336; the model's own field) -/
  clearAt : Nat
  /-- corrected errors by stack·32 + channel, and the threshold of the record 0x23 (R329, R332) -/
  ecc     : List (Nat × Nat)
  eccTh   : Nat
  /-- an L2 set that the fallback lines of a step would use is at its limit (R152) -/
  fallFull : Bool
  /-- core, site and die numbers (R114, R385) -/
  core    : BitVec 3
  site    : BitVec 5
  die     : BitVec 2
  spareUsed : BitVec 4
  drained : List (BitVec 2 × BitVec 5)
  /-- the TSTAMP at which the draining of this core's site began, until its step has left (R384) -/
  drainAt : Option Nat
  /-- firmware, failures of secure boot, measurement log (R386, R389) -/
  images  : List Image
  staged  : List Image
  bootFail : List Nat
  measure : List (Nat × List Byte)
  spdm    : Spdm
  msi     : List Msi
  log     : List FaultRec
  pkgId   : BitVec 8
  domEn   : Bool
  portUp  : BitVec 18
  links   : Vector Link 18
  /-- the planes whose port is down at other packages of the domain (R419) -/
  peerDown : List (BitVec 8 × BitVec 18)
  /-- the Ethernet ports that are up, the logarithm of the links each runs as, and the priorities that are paused on them (R421) -/
  eth     : BitVec 8
  ethSplit : Vector (BitVec 2) 8
  ethPause : List (BitVec 3 × BitVec 3)
  /-- queue pairs, congestion notifications sent, and inbound writes completed, the newest first (R421, R422) -/
  qps     : List QueuePair
  cnps    : List Nat
  rdmaDone : List (Nat × Nat)
  /-- the tag of this core's next non-posted request, and what has had no response (R412) -/
  tag     : Nat
  reqs    : List RemoteReq
  answered : List Answered
  /-- the channels that are closed, as stack·32 + channel (R387); the packages outside the load-store domain (R324, R412) -/
  closed  : List Nat
  absent  : List (BitVec 8)
  /-- what reads of the capability lists have answered: function, offset from 0x1000, bytes (R388) -/
  capReads : List (Nat × Nat × List Byte)
  red     : List Contribution
  /-- remote memory words written through fabric are in Mem; requests answered count -/
  flitsOut : Nat
  flitsIn : Nat
deriving DecidableEq, Repr

/-! ### The machine -/

/-- What the outside, or an agent whose moves the spec leaves unordered, does at a turn (log 2, DESIGN CHOICE). -/
inductive EnvAction
  /-- another core, or an agent of another package, stores bytes (R309) -/
  | peerStore (pa : Nat) (bytes : List Byte) (owner : Owner)
  /-- another core arrives at a barrier counter (R294) -/
  | peerArrive (level : BitVec 2) (group : BitVec 12) (members : Nat)
  /-- a strand fetches a unit ahead (R46, R119) -/
  | fetchAhead (k : Strand) (va : Word64)
  /-- an input stream fetches a block ahead (R156) -/
  | streamAhead (s : SReg)
  /-- the next block of a stream is not there yet, or arrives (R247) -/
  | streamLate (s : SReg) (late : Bool)
  /-- an engine moves elements of its running command (R188) -/
  | engineMove (e : Eng) (n : Nat)
  /-- the TLB or the walker cache drops an entry (R326) -/
  | tlbDrop (i : Nat)
  | walkDrop (i : Nat)
  /-- a memory-side cache line is brought up to date by an eviction (R321) -/
  | hostVisible (pa len : Nat)
  /-- a granule is found uncorrectable, or corrected (R329) -/
  | poison (pa : Nat)
  | corrected (pa : Nat)
  /-- a pool word is found with a double-bit error, or corrected (R151) -/
  | poolError (off : Nat) (double : Bool)
  /-- another core's contribution reaches the switches (R415) -/
  | contribute (pa : Nat) (op : RedOp) (fmt : BitVec 4) (bits : Word32)
  /-- two contributions of one key combine (R415) -/
  | combine (i j : Nat)
  /-- the remaining halt lines of a block become 1 (R285) -/
  | othersHalted (p : BitVec 3) (q : BitVec 6) (blk : Word64)
  /-- the other members of a block's gang are ready to start, or a step of theirs is abandoned, and the gang with it (R284) -/
  | gangReady (p : BitVec 3) (q : BitVec 6) (blk : Word64)
  | gangAbandoned (p : BitVec 3) (q : BitVec 6) (blk : Word64)
  /-- a die reports its unplaced steps, a cluster, 17·die + site, that it has no room, or has (R360) -/
  | dieLoad (p : BitVec 3) (die : BitVec 2) (steps : Nat)
  | siteFull (p : BitVec 3) (site : Nat) (full : Bool)
  /-- another core of the cluster takes the next step of the chosen block; a gang's share has a slot at each of these cores (R279, R284) -/
  | peerPlace (p : BitVec 3) (core : BitVec 3)
  | gangRoom (p : BitVec 3) (cores : List (BitVec 3))
  /-- time passes -/
  | wait (cycles : Nat)
  /-- a remote access of this core fails (R412) -/
  | remoteFails (on : Bool)
  /-- an access misses the memory-side cache, and its line is filled from DRAM, for the partition whose core's access it was or for the row-group
  owner (R334, R336) -/
  | fill (pa : Nat) (by_ : Option (BitVec 3))
  /-- a lane group of another core of the cluster wakes (R401) -/
  | peerWake
  /-- the host function of a virtual function reads a queue's ENERGY, or writes it (R399) -/
  | vfEnergy (p : BitVec 3) (v : BitVec 2) (q : BitVec 6) (write : Bool)
  /-- other cores' fallback lines bring a set to its limit, or leave it (R152) -/
  | fallback (full : Bool)
  /-- other cores' shadow and fallback lines pin ways of an L2 set, or leave it; and take room in the die's shadow overflow (R152, R314) -/
  | pin (set ways : Nat)
  | overflow (die : BitVec 2) (bytes : Nat)
  /-- another agent reads a line of device memory under a lease: a core of a partition, or an agent of none (R308, R334) -/
  | peerRead (pa : Nat) (by_ : Option (BitVec 3))
  /-- the record that a partition's replay has reached is another core's, which consumes it (R405) -/
  | peerReplay (p : BitVec 3)
  /-- an ordinary request begins to wait at the pair of a near-bank command of the core, or has been served there (R343, R355) -/
  | nbSuspend (i : BitVec 3)
  | nbServed (i : BitVec 3)
  /-- the controller closes a channel, stack·32 + channel, whose pages have moved (R387) -/
  | closeChannel (ch : Nat)
  /-- a page move that waited for near-bank commands (R387) -/
  | pageMove (old new leaf : Nat)
  /-- a package leaves the load-store domain, where fabric groups await it, or joins it (R324, R418) -/
  | domain (pkg : BitVec 8) (inside : Bool) (awaited : List (BitVec 12))
  /-- function 0 of another package writes a group's counter (R417) -/
  | fabPut (group : BitVec 12) (value : Nat)
  /-- the package's arrival, which its virtual channel held (R410) -/
  | fabSend (group : BitVec 12)
  /-- the ports of another package that are down (R419) -/
  | peerPorts (pkg : BitVec 8) (down : BitVec 18)
  /-- a replayed flit arrives whole (R408) -/
  | flitReplayed (port : Nat)
  /-- software posts a queue pair, or sends bytes of memory on one; a packet of it arrives marked by ECN; a port runs as one, two or four links (R421) -/
  | qpPost (p : BitVec 3) (num : Nat) (rc : Bool) (port prio : BitVec 3)
  | ethSend (p : BitVec 3) (num pa len : Nat)
  | ecnMarked (p : BitVec 3) (num : Nat)
  | ethSplit (port : BitVec 3) (log : BitVec 2)
  /-- a host function reads its capability list (R388) -/
  | capRead (fn off len : Nat)
  /-- this core's requests send flits over Uluzo, or receive them, in what numbers no rule says (R376; log 73, DESIGN CHOICE) -/
  | flits (received : Bool) (n : Nat)
  /-- chxdbg asks this core to stop at its next cut, another having stopped (R300) -/
  | stopReq
  /-- an answer to a forwarded fault waits for the host writes made before it (R327, R368) -/
  | faultAnswer (p : BitVec 3) (seq : BitVec 16) (code : BitVec 2)
  /-- chxdbg's submission waits for its ring, which was full (R287, R306) -/
  | submitted (blk : Word64) (q : BitVec 6) (p : BitVec 3) (v : BitVec 2)
  /-- requesters meet at a bank of the pool: cycles of a cell of the bank-conflict matrix, requester·32 + bank (R148, R305) -/
  | conflict (cell n : Nat)
  /-- chxdbg reads the floating counts of this core, which is frozen or stopped (R179) -/
  | readCounts
deriving DecidableEq, Repr

/-- Whose turn comes when the agenda is empty: the four strands, the units around them, then what waits at memory (log 2, DESIGN CHOICE). -/
inductive Rota | c | l | v | s | units | waits
deriving DecidableEq, Repr

/-- Whose turn it is. -/
inductive Turn
  /-- a strand: its pending event if it has one, else its next unit -/
  | strand (k : Strand)
  /-- the first thing that an engine, a near-bank unit or the distribution of work can do -/
  | units
  /-- a strand's next unit, whatever is pending -/
  | issue (k : Strand)
  | event (i : Instr)
  | env (a : EnvAction)
deriving DecidableEq, Repr

/-- The machine. -/
structure State where
  core   : Core
  mem    : Mem
  pkg    : Pkg
  /-- turns to be taken, in order (log 2, DESIGN CHOICE) -/
  agenda : List Turn
  /-- accesses from outside, and moves of units, that wait for a page's flip, for replay's order or for a line's leases; they try again in
  turn (R308, R322, R405; the model's own field) -/
  waits  : List Turn
  /-- whose turn is next when the agenda is empty (log 2, DESIGN CHOICE) -/
  turn   : Rota
  /-- the counter that free values are taken at (log 6, DESIGN CHOICE, log 13, DESIGN CHOICE, log 14, DESIGN CHOICE) -/
  free   : Nat
  /-- time since package reset in 1/33 ns: TSTAMP is its whole nanoseconds (R4, R6) -/
  time   : Nat
  /-- a remote access of this core fails until this is cleared (R412) -/
  remoteBad : Bool
deriving DecidableEq, Repr

/-! ### Reset -/

/-- A stream register no prologue has bound (R182). -/
def Desc.zero : Desc :=
  { base := 0, count := Vector.replicate 4 1, stride := Vector.replicate 4 0, scaleBase := 0, scaleStride := 0, ctl := 0,
    block := 0, win := 0, share := 0, pos := 0, ahead := [], late := false, came := 0, req := [] }

/-- A plane of the array at a step's start (R226). -/
def Plane.zero : Plane :=
  { float := false, wfmt := 5, sparse := 0, kw := 8, w := [], idx := [], scale := [], csum := [], wrote := false, kwSet := false }

/-- An accumulator at a step's start (R226). -/
def Acc.zero : Acc := { float := false, e := [] }

/-- An L or S strand with no step (log 3, DESIGN CHOICE, log 4, DEDUCED). -/
def LSStrand.idle : LSStrand :=
  { regs := Vector.replicate 16 0, pc := 0, ended := true, blocked := false, waits := false, hi := 0, loops := [], pend := [], held := [] }

/-- The C strand with no step (log 3, DESIGN CHOICE, log 4, DEDUCED). -/
def CStrand.idle : CStrand :=
  { regs := Vector.replicate 32 0, bank := Vector.replicate 6 0, pc := 0, run := .ended, blocked := false, store := none,
    watch := .none, arrived := Vector.replicate 4 none, mid := 0, held := [] }

/-- The shape at a step's start, with the capacity of a PB0 (R147, R201). -/
def Shape.start (pb0 : Word32) : Shape := { rlog := 5, clog := 5, fmt := 0, cap := BitVec.ofNat 5 (pb0.toNat / 24576) }

/-- The V strand with no step (log 3, DESIGN CHOICE, log 4, DEDUCED). -/
def VStrand.idle : VStrand :=
  { regs := Vector.replicate 16 0, pc := 0, ended := true, blocked := false, hi := 0, loops := [], pred := 1,
    shape := Shape.start 0x18000, tPrev := 0, flight := [], seq := 0, freeA := 0, freeB := 0, freeM := 0,
    accFree := Vector.replicate 2 0, stretch := none, halted := false, look := false, lookYield := false, lookDue := false, atCut := false, drain := false,
    drained := 0, held := [] }

/-- Empty queues and token FIFOs (R22). -/
def Queues.empty : Queues :=
  { qcl := [], qcv := [], qcs := [], qbr := [], qvc := [], vOut := 0, ecq := [], sub := [], tok := Vector.replicate 8 ⟨0, 0, 0⟩ }

/-- The trap registers at package reset (R34, R37). -/
def Trap.zero : Trap :=
  { cause := 0, strand := 0, pm := false, mode := false, frz := false, pend := 0, tepc := 0, tfpc := 0, tval := 0, tvec := 0,
    tqocc := 0, kept := Vector.replicate 7 0, wait := none, noStep := .no, dog := 0, moved := 15 }

/-- The monitor at a step's start (R245). -/
def Mon.zero : Mon := { win := [], a := 0, b := 0, req := none, pinned := false }

/-- An unused symbol (R20). -/
def Sym.unused : Sym := { bind := 0, lo := 0, hi := 0, src := 0, mon := Mon.zero }

/-- The CSRs at package reset (log 3, DESIGN CHOICE; ISSUEPERMIT and DROOPTH of R401, R402). -/
def Csrs.zero : Csrs :=
  { trapen := 0, slip := Vector.replicate 4 8, cycle := 0, tick := 0, stretch := 0, boundx := 0, retime := 0, dmdx := 0,
    sym := Vector.replicate 8 Sym.unused, pb := Vector.replicate 3 0x18000, domain := Vector.replicate 4 0,
    drLevel := 40, drMt := false, permit := 16, half := false, str := false }

/-- Counters as when their VF is first enabled (R375). -/
def Counters.zero : Counters := { cnt := Vector.replicate 32 0, csel := Vector.replicate 32 0, ovf := 0 }

/-- No demand held (R267, R268; log 7, DEDUCED). -/
def Tension.zero : Tension :=
  { held := none, committed := false, sfShare := 0, sfLater := false, pending := false, later := [], kw := Vector.replicate 8 none, started := [] }

/-- Near-bank slots and records at a step's start (R344, R348). -/
def NearBank.zero : NearBank :=
  { slots := Vector.replicate 4 [], records := Vector.replicate 8 ⟨0, false, Vector.replicate 4 0, 0⟩, cmds := [], writes := [],
    lines := [], faultVa := 0 }

/-- No step on the core. -/
def StepCtx.none : StepCtx :=
  { running := Option.none, cast := Option.none, part := 0, vf := 0, slots := [], newCode := false, yield_ := Option.none, leave := Option.none,
    bindOff := false, cWords := 0, prev := Option.none, live := 0, rates := [] }

/-- The debug unit with nothing set. -/
def Debug.zero : Debug :=
  { stopped := false, stopReq := false, bps := [], inject := [], stops := [], smpBase := 0, smpSize := 0,
    smpPos := 0, smpMask := 0, smpLog := 8, smpLost := 0, marker := none, bank := [], snapBank := [], snapLoop := 0,
    snapTick := 0, traceNb := false, nbLast := 0, traceSw := none, traceIrq := none, traceDr := false, drOn := false, nbLines := [], swLines := [],
    irqLines := [], drLines := [], shown := [], unacked := false, patchAt := none, smpFrom := 0 }

/-- The core at package reset. -/
def Core.reset : Core :=
  { c := CStrand.idle, l := LSStrand.idle, v := VStrand.idle, s := LSStrand.idle, q := Queues.empty, trap := Trap.zero,
    csr := Csrs.zero, perf := Counters.zero,
    pool := { cells := [], epoch := 0, bad := [], fixed := Vector.replicate 32 0, marked := 0, limit := 0, lost := 0 },
    str := Vector.replicate 8 Desc.zero, arr := ⟨Plane.zero, Plane.zero, Vector.replicate 2 Acc.zero⟩,
    eng := ⟨[], [], [], 0⟩, mig := ⟨Vector.replicate 8 none, 0, 0⟩, mmu := ⟨[], []⟩, l1 := [], ten := Tension.zero,
    nb := NearBank.zero, fpc := Vector.replicate 12 0, lanes := Vector.replicate 8 ⟨false, 0, false⟩, ctx := StepCtx.none,
    dbg := Debug.zero, units := Vector.replicate 4 0 }

/-- A partition at package reset (R366, R371, R397, R403, R413; log 10, DESIGN CHOICE). -/
def Part.reset : Part :=
  { en := false, td := 0, vfen := 0, quant := 100, sites := 0, vfs := Vector.replicate 4 ⟨0, 0, 0, none, 0⟩, resident := 0,
    quantEnd := 1000000, switch_ := none, yieldBack := none, yielded := false, queues := [], doneAt := [], dieLoad := Vector.replicate 4 0, full := [], ptrDie := 63, ptrCl := 63,
    blocks := [], fqBase := 0, fqEn := false, fqLog := 0, fwdC := false, fwdS := false, fwdE := false, fwdN := false,
    tmo := 100, seq := 0, await := [], posted := [], posts := [], excTh := 0, saved := [], back := [], cap := 0, pmin := 4, est := 0, permit := 16,
    thr := false, idleEnergy := 0, idleFrac := 0, repMode := 0, repLog := 0, repBase := 0, repPos := 0, repDone := [], repFull := false,
    repDiv := false, reps := [], rwBase := 0, rwEn := false, rwLog := 0, rwGroup := 0, l2Ways := 0 }

/-- A stack at package reset (R334 to R336). -/
def Stack.reset : Stack :=
  { mgth := 512, force := false, pol := false, psel := Vector.replicate 8 512, idx := 0, blru := 0, track := [], refreshed := [] }

/-- The package at reset (R337, R352, R397, R401, R411, R417; logs 3 and 48, DESIGN CHOICE). -/
def Pkg.reset : Pkg :=
  { parts := Vector.replicate 8 Part.reset, bars := [], fabs := [], units := [], pkgCap := 2400, droops := 0, droop := none, again := false, estAt := 1000, owed := [], heldMsi := [],
    hbm := Vector.replicate 12 Stack.reset, rows := [], shsize := Vector.replicate 4 4, overflow := Vector.replicate 4 0x4000000, pins := [], overUsed := Vector.replicate 4 0, clearAt := 32000000, ecc := [], eccTh := 0, fallFull := false,
    core := 0, site := 0, die := 0, spareUsed := 0, drained := [], drainAt := none, images := [], staged := [],
    bootFail := [], measure := [], spdm := ⟨false, false, false, []⟩, msi := [], log := [], pkgId := 0, domEn := false,
    portUp := 0, links := Vector.replicate 18 ⟨.retraining, false, 0, 0⟩, peerDown := [], eth := 255, ethSplit := Vector.replicate 8 0, ethPause := [],
    qps := [], cnps := [], rdmaDone := [], tag := 0, reqs := [],
    answered := [], closed := [], absent := [], capReads := [], red := [], flitsOut := 0, flitsIn := 0 }

/-- Memory at package reset: nothing listed (log 8, DESIGN CHOICE), every page in device bias (log 9, DESIGN CHOICE). -/
def Mem.reset : Mem :=
  { cells := [], stale := [], poison := [], hostBias := [], flips := [], l2 := [], msc := [], leases := [], answers := [], order := none }

/-- The machine right after package reset: no step has run, and no program is placed. -/
def State.reset : State :=
  { core := Core.reset, mem := Mem.reset, pkg := Pkg.reset, agenda := [], waits := [], turn := .c, free := 0, time := 0, remoteBad := false }

end Sys2Proof.Machine
end

