-- ==== Sys2Proof/Machine/Ops.lean ====
section
/-! DEFINITION. The named operations over registers, ports, queues, memory and translation that the meanings share; taking
an exception and returning from one (R30 to R42, R117); the records of the fault queue (R366 to R369). -/

namespace Sys2Proof.Machine

/-- What an instruction answers. -/
abbrev Out := Host.Outcome State Fault Refusal

/-! ### Bits -/

/-- A signed field as 64 bits. -/
def sext {n : Nat} (w : BitVec n) : Word64 := w.signExtend 64
/-- A truth value as a register value. -/
def ofBool64 (b : Bool) : Word64 := bif b then 1 else 0
/-- Saturating addition in `n` bits. -/
def satAdd {n : Nat} (w : BitVec n) (k : Nat) : BitVec n := BitVec.ofNat n (Nat.min (w.toNat + k) (2 ^ n - 1))
/-- Bits [hi:lo] of a number. -/
def bits (v hi lo : Nat) : Nat := v / 2 ^ lo % 2 ^ (hi + 1 - lo)
/-- Ceiling of a quotient. -/
def ceilDiv (a b : Nat) : Nat := (a + b - 1) / b
/-- The entry of a vector at an index taken modulo nothing: the default outside. -/
def vget {α : Type} {n : Nat} (v : Vector α n) (i : Nat) (d : α) : α := v.toList.getD i d
/-- A vector with one entry replaced; unchanged outside its range. -/
def vset {α : Type} {n : Nat} (v : Vector α n) (i : Nat) (x : α) : Vector α n := v.setIfInBounds i x

/-! ### Sparse lists keyed by a number, keys rising -/

/-- The value at a key, or the default. -/
def kget {α : Type} (l : List (Nat × α)) (k : Nat) (d : α) : α :=
  match l with
  | [] => d
  | (a, x) :: t => if k < a then d else if a = k then x else kget t k d
/-- The list with a key's value set. -/
def kset {α : Type} (l : List (Nat × α)) (k : Nat) (v : α) : List (Nat × α) :=
  match l with
  | [] => [(k, v)]
  | (a, x) :: t => if k < a then (k, v) :: (a, x) :: t else if a = k then (k, v) :: t else (a, x) :: kset t k v
/-- The list without a key. -/
def kdel {α : Type} (l : List (Nat × α)) (k : Nat) : List (Nat × α) :=
  match l with
  | [] => []
  | (a, x) :: t => if k < a then (a, x) :: t else if a = k then t else (a, x) :: kdel t k
/-- Whether a key is listed. -/
def khas {α : Type} (l : List (Nat × α)) (k : Nat) : Bool :=
  match l with
  | [] => false
  | (a, _) :: t => if k < a then false else if a = k then true else khas t k

/-- What a byte of memory that no entry lists reads as (log 8, DESIGN CHOICE). -/
def unlistedByte : Byte := 0

/-- A byte list of memory with one byte written: writing what an unlisted byte reads as removes the entry. -/
def cellSet (l : List Host.Cell) (a : Nat) (b : Byte) : List Host.Cell :=
  if b = unlistedByte then kdel l a else kset l a b
/-- The byte at an address. -/
def cellGet (l : List Host.Cell) (a : Nat) : Byte := kget l a unlistedByte
/-- Keys strictly rise and none is below `lo`. -/
def keysRise {α : Type} (lo : Nat) : List (Nat × α) → Bool
  | [] => true
  | (a, _) :: t => decide (lo ≤ a) && keysRise (a + 1) t
/-- The canonical form of memory: addresses strictly rising, and no entry equal to what an unlisted address reads as. -/
def Mem.wf (m : Mem) : Bool := keysRise 0 m.cells && m.cells.all fun c => c.2 != unlistedByte

/-! ### Parts of the state -/

/-- The machine with its core replaced by a function of it. -/
def State.upd (s : State) (f : Core → Core) : State := { s with core := f s.core }
/-- The machine with the trap registers replaced. -/
def State.setTrap (s : State) (t : Trap) : State := { s with core := { s.core with trap := t } }
/-- The machine with C replaced. -/
def State.setC (s : State) (c : CStrand) : State := { s with core := { s.core with c := c } }
/-- The machine with V replaced. -/
def State.setV (s : State) (v : VStrand) : State := { s with core := { s.core with v := v } }
/-- The L or S strand. -/
def State.ls (s : State) (k : LS) : LSStrand := match k with | .l => s.core.l | .s => s.core.s
/-- The machine with L or S replaced. -/
def State.setLS (s : State) (k : LS) (x : LSStrand) : State :=
  match k with
  | .l => { s with core := { s.core with l := x } }
  | .s => { s with core := { s.core with s := x } }
/-- The machine with the queues replaced. -/
def State.setQ (s : State) (q : Queues) : State := { s with core := { s.core with q := q } }
/-- The machine with the CSRs replaced. -/
def State.setCsr (s : State) (x : Csrs) : State := { s with core := { s.core with csr := x } }
/-- The machine with the step's context replaced. -/
def State.setCtx (s : State) (x : StepCtx) : State := { s with core := { s.core with ctx := x } }
/-- The machine with the engines replaced. -/
def State.setEng (s : State) (x : Engines) : State := { s with core := { s.core with eng := x } }
/-- The machine with the near-bank side replaced. -/
def State.setNb (s : State) (x : NearBank) : State := { s with core := { s.core with nb := x } }
/-- The machine with the tension unit replaced. -/
def State.setTen (s : State) (x : Tension) : State := { s with core := { s.core with ten := x } }
/-- The machine with the debug unit replaced. -/
def State.setDbg (s : State) (x : Debug) : State := { s with core := { s.core with dbg := x } }
/-- The machine with the package replaced. -/
def State.setPkg (s : State) (x : Pkg) : State := { s with pkg := x }
/-- The machine with memory replaced. -/
def State.setMem (s : State) (x : Mem) : State := { s with mem := x }

/-- A stream register's descriptor. -/
def State.desc (s : State) (r : SReg) : Desc := s.core.str.get ⟨r.toNat, r.isLt⟩
/-- The machine with a stream register's descriptor replaced. -/
def State.setDesc (s : State) (r : SReg) (d : Desc) : State :=
  { s with core := { s.core with str := s.core.str.set r.toNat d r.isLt } }
/-- A partition. -/
def State.part (s : State) (p : BitVec 3) : Part := s.pkg.parts.get ⟨p.toNat, p.isLt⟩
/-- The machine with a partition replaced. -/
def State.setPart (s : State) (p : BitVec 3) (x : Part) : State :=
  { s with pkg := { s.pkg with parts := s.pkg.parts.set p.toNat x p.isLt } }
/-- A virtual function's configuration. -/
def Part.vf (x : Part) (v : BitVec 2) : VfCfg := x.vfs.get ⟨v.toNat, v.isLt⟩
/-- A partition with a virtual function's configuration replaced. -/
def Part.setVf (x : Part) (v : BitVec 2) (c : VfCfg) : Part := { x with vfs := x.vfs.set v.toNat c v.isLt }
/-- Every partition. -/
def allParts : List (BitVec 3) := [0, 1, 2, 3, 4, 5, 6, 7]

/-- The partition of the context on the core. -/
def State.myPart (s : State) : BitVec 3 := s.core.ctx.part

/-- TSTAMP in nanoseconds (R6; log 62, DESIGN CHOICE). -/
def State.tstamp (s : State) : Nat := s.time / 33
/-- The running strand mode: supervisor (R29, R34). -/
def State.sup (s : State) : Bool := s.core.trap.mode
/-- A step runs on the core. -/
def State.stepOn (s : State) : Bool := s.core.ctx.running.isSome
/-- CORENUM (R114). -/
def State.corenum (s : State) : Word32 :=
  BitVec.ofNat 32 (s.pkg.core.toNat + 8 * s.pkg.site.toNat + 256 * s.pkg.die.toNat + 1024 * s.pkg.pkgId.toNat)
/-- The number of R34 of a strand. -/
def strandCode : Strand → BitVec 2
  | .c => 0 | .l => 1 | .v => 2 | .s => 3
/-- The loop levels of a strand, innermost first. -/
def State.loopsOf (s : State) (k : Strand) : List Loop :=
  match k with | .c => [] | .l => s.core.l.loops | .v => s.core.v.loops | .s => s.core.s.loops
/-- The PC of a strand. -/
def State.pcOf (s : State) (k : Strand) : Word64 :=
  match k with | .c => s.core.c.pc | .l => s.core.l.pc | .v => s.core.v.pc | .s => s.core.s.pc
/-- TSTAT (R34). -/
def tstatWord (t : Trap) : Word32 :=
  BitVec.ofNat 32 (t.cause.toNat + 256 * t.strand.toNat + 1024 * t.pm.toNat + 2048 * t.mode.toNat + 4096 * t.frz.toNat +
    65536 * t.pend.toNat)
/-- What chxdbg is shown. -/
def State.show (s : State) (l : List Nat) : State := s.setDbg { s.core.dbg with shown := l :: s.core.dbg.shown }

/-! ### Physical memory (R324, R328, R337, R338) -/

/-- The region of a physical address. -/
inductive Region | hbm | weight (die : Nat) | host | remote (pkg : Nat) | none
deriving DecidableEq, Repr

/-- The region of a local address (R324). -/
def localRegion (pa : Nat) : Region :=
  if pa ≤ 0x00bfffffffff then .hbm
  else if 0x010000000000 ≤ pa ∧ pa < 0x010000000000 + 4 * 0x40000000 then .weight ((pa - 0x010000000000) / 0x40000000)
  else if 0x020000000000 ≤ pa ∧ pa ≤ 0x03ffffffffff then .host
  else .none

/-- The address that a physical address stands for: one that names this package is local (R324). -/
def State.norm (s : State) (pa : Nat) : Nat :=
  if bits pa 51 51 = 1 ∧ bits pa 50 43 = s.pkg.pkgId.toNat then bits pa 42 0 else pa
/-- The region of a physical address (R324). -/
def State.region (s : State) (pa : Nat) : Region :=
  let a := s.norm pa
  if bits a 51 51 = 1 then .remote (bits a 50 43) else localRegion a
/-- The line of an address. -/
def lineOf (pa : Nat) : Nat := pa / 128
/-- The row group of an HBM4E address (R337). -/
def groupOf (pa : Nat) : Nat := pa / 2 ^ 22
/-- The entry of a row group; one the controller has not written is not VALID. -/
def State.group (s : State) (g : Nat) : RowGroup := (s.pkg.rows.find? fun r => r.index == g).getD ⟨g, 0, false, false, 0⟩
/-- A byte in a guard row (R337, R338). -/
def State.guardRow (s : State) (pa : Nat) : Bool :=
  let a := s.norm pa
  decide (s.region a = .hbm) && (s.group (groupOf a)).guard_ && bits a 21 16 == 63
/-- The partition may access the row group (R338). -/
def State.owns (s : State) (p : BitVec 3) (pa : Nat) : Bool :=
  let a := s.norm pa
  let g := s.group (groupOf a)
  g.valid && !s.pkg.closed.contains (groupOf a / 512) && (g.shared != 0 || g.owner == p.setWidth 4)
/-- A unit whose image has failed its check is held in reset (R389). -/
def State.inReset (s : State) (unit : Nat) : Bool := s.pkg.bootFail.contains unit
/-- A byte of the on-die shadow storage (R352). -/
def State.shadowStore (s : State) (d pa : Nat) : Bool :=
  decide (0x40000000 - (vget s.pkg.shsize d 0).toNat * 0x4000000 ≤ (s.norm pa) % 0x40000000)
/-- The partition that owns an address's row group. -/
def State.ownerOf (s : State) (pa : Nat) : Option (BitVec 3) :=
  let g := s.group (groupOf (s.norm pa))
  bif g.valid then some (g.owner.setWidth 3) else none
/-- A page in host bias (R320). -/
def State.hostBias (s : State) (pa : Nat) : Bool := s.mem.hostBias.contains (s.norm pa / 65536)
/-- A page in a flip, whose accesses wait (R322). -/
def State.inFlip (s : State) (pa : Nat) : Bool := s.mem.flips.any fun f => f.1 == s.norm pa / 65536
/-- A lease on the line of an address is live (R308). -/
def State.leased (s : State) (pa : Nat) : Bool := s.mem.leases.any fun x => x.line == lineOf (s.norm pa) && decide (s.tstamp < x.until_)
/-- A slice or a die that the accesses to an address pass through is held in reset, and they get no further (R389). -/
def State.homeOff (s : State) (pa : Nat) : Bool := s.pkg.bootFail.any fun u => Config.cfgHome u (s.norm pa)
/-- The partition that the core's cluster site belongs to (R370, R371). -/
def State.sitePart (s : State) : Option (BitVec 3) :=
  allParts.find? fun p => (s.part p).en && (s.part p).sites.getLsbD (17 * s.pkg.die.toNat + s.pkg.site.toNat)
/-- A port's link. -/
def State.link (s : State) (port : Nat) : Link := vget s.pkg.links port ⟨.down, false, 0, 0⟩
/-- The planes that this package has a port to. -/
def State.planes (s : State) : List Nat := (List.range 18).filter fun n => s.pkg.portUp.getLsbD n
/-- The plane of a line: h(line) selects one of the planes that are up (R409). -/
def State.linePlane (s : State) (pa : Nat) : Option Nat := let l := s.planes; l[Config.planeHash (lineOf (s.norm pa)) % l.length]?
/-- A virtual channel is stopped towards the plane of a line (R410). -/
def State.vcStopped (s : State) (vc pa : Nat) : Bool :=
  s.pkg.links.any (fun l => l.stop.getLsbD vc) && match s.linePlane pa with | some n => (s.link n).stop.getLsbD vc | none => false

/-- An access that waits: its page is in a bias flip, it reads a weight-store bank in its refresh window, or it writes a line on which a lease is live
(R200, R308, R322, R351), its requests to another package are stopped (R410),
or the slice or the die on its way is held in reset (R389). -/
def State.waitsAt (s : State) (reads : Bool) (pa : Nat) (writes : Bool := !reads) : Bool :=
  s.inFlip pa || (writes && s.leased pa) || s.homeOff pa ||
    (match s.region pa with
      | .weight _ => reads && decide ((s.tstamp + 16000 - 1000 * bits (s.norm pa) 29 26) % 16000 < 192)
      | .remote _ => s.vcStopped 0 pa
      | _ => false)

/-- A byte of memory. -/
def State.rd8 (s : State) (pa : Nat) : Byte := cellGet s.mem.cells (s.norm pa)
/-- `n` bytes of memory from an address. -/
def State.rdBytes (s : State) (pa n : Nat) : List Byte := (List.range n).map fun i => s.rd8 (pa + i)
/-- A little-endian datum of `n` bytes (R2). -/
def State.rdNat (s : State) (pa n : Nat) : Nat := leNat (s.rdBytes pa n)
/-- A line that a read would find poisoned (R330). -/
def State.poisoned (s : State) (pa : Nat) : Bool := s.mem.poison.contains (lineOf (s.norm pa))

/-! ### Translation (R323 to R326) -/

/-- What a walk finds. -/
inductive Walk
  | leaf (log : Nat) (e : Word64)
  | none
  | guard (row : Nat)
  /-- a table lies in a row group that the context's partition may not access (R338) -/
  | barred
  /-- a table's page is in a flip (R322) -/
  | waits
deriving DecidableEq, Repr

/-- The levels of a walk: level, lowest bit of its index, index width, and the log of the page a leaf maps. -/
def walkLevels : List (Nat × Nat × Nat × Nat) := [(4, 48, 9, 0), (3, 39, 9, 0), (2, 30, 9, 30), (1, 21, 9, 21), (0, 16, 5, 16)]

/-- The address field of an entry. -/
def entryAddr (e : Word64) : Nat := bits e.toNat 51 8 * 256

/-- An entry that V = 1 leaves malformed (R323). -/
def entryBad (e : Word64) (level leafLog : Nat) : Bool :=
  e.getLsbD 7 || bits e.toNat 55 52 != 0 ||
  (bif e.getLsbD 1 then decide (3 ≤ level) || entryAddr e % 2 ^ leafLog != 0
   else level == 0 || entryAddr e % (bif level == 1 then 256 else 4096) != 0)

/-- A walk over the levels left, with the table's address and the entries read so far, newest first (R323). -/
def walkFrom (s : State) (p : BitVec 3) (v : BitVec 2) (va : Nat) (useCache : Bool) :
    List (Nat × Nat × Nat × Nat) → Nat → List WalkEntry → Walk × List WalkEntry
  | [], _, acc => (.none, acc)
  | (level, sh, w, leafLog) :: rest, table, acc =>
    let key := bits va 56 sh
    let pa := table + 8 * bits va (sh + w - 1) sh
    let held := bif useCache then s.core.mmu.walk.find? fun e => e.part == p && e.vf == v && e.level == level && e.key == key else Option.none
    let e := match held with | some h => h.entry | Option.none => BitVec.ofNat 64 (s.rdNat pa 8)
    bif held.isNone && s.guardRow pa then (.guard (s.norm pa / 65536 * 65536), acc)
    else bif held.isNone && decide (s.region pa = .hbm) && !s.owns p pa then (.barred, acc)
    else bif held.isNone && s.inFlip pa then (.waits, acc)
    else bif !e.getLsbD 0 || entryBad e level leafLog then (.none, acc)
    else
      let acc := ⟨p, v, level, key, e⟩ :: acc
      bif e.getLsbD 1 then (.leaf leafLog e, acc) else walkFrom s p v va useCache rest (entryAddr e) acc

/-- The walk of a context's page tables for a virtual address. -/
def State.walk (s : State) (p : BitVec 3) (v : BitVec 2) (va : Word64) (useCache : Bool) : Walk × List WalkEntry :=
  walkFrom s p v va.toNat useCache walkLevels ((s.part p).vf v).ptbase.toNat []

/-- The bits above bit 56 all equal it (R323). -/
def canonical (va : Word64) : Bool := bits va.toNat 63 57 == bif va.getLsbD 56 then 127 else 0

/-- The TLB entry that holds a page (R326). -/
def State.tlbFind (s : State) (p : BitVec 3) (v : BitVec 2) (va : Word64) : Option Tlb :=
  s.core.mmu.tlb.find? fun e => e.part == p && e.vf == v && e.vpn == bits va.toNat 56 e.log

/-- The leaf that an access of a context finds: in the TLB, else by a walk (R323, R326). -/
def State.leafFor (s : State) (p : BitVec 3) (v : BitVec 2) (va : Word64) : Walk :=
  match s.tlbFind p v va with
  | some e => .leaf e.log e.leaf
  | none => (s.walk p v va true).1

/-- What an access needs of its leaf (R325). -/
inductive Need | rd | wr | rdwr | ex
deriving DecidableEq, Repr

/-- Why an access fails, before its source gives the cause its number (R102, R195, R327). -/
inductive XFail
  | noTrans
  | prot
  | guard (row : Nat)
  | poison (pa : Nat)
  | remote
  /-- it does not fail: a page table that it reads is in a flip, and it waits (R322) -/
  | waits
deriving DecidableEq, Repr

/-- Who accesses: the context, and whether TK is needed (R325). -/
structure Who where
  part : BitVec 3
  vf   : BitVec 2
  task : Bool
deriving DecidableEq, Repr

/-- The context of the core's step; TK is needed unless C is in supervisor mode. -/
def State.whoC (s : State) : Who := ⟨s.core.ctx.part, s.core.ctx.vf, !s.sup⟩
/-- The context of the core's step, as L, V, S, streams and engines access. -/
def State.whoT (s : State) : Who := ⟨s.core.ctx.part, s.core.ctx.vf, true⟩

/-- The next request of this core to another package has had no response twice: its access fails (R412). -/
def State.reqLost (s : State) : Bool := s.pkg.reqs.any fun r => r.tag == s.pkg.tag && decide (2 ≤ r.tries)
/-- A request of this core's is over, answered or failed, and its next carries another tag (R412). -/
def State.reqOver (s : State) : State := s.setPkg { s.pkg with tag := s.pkg.tag + 1, reqs := [] }

/-- The leaf allows the access (R325). -/
def leafAllows (e : Word64) (need : Need) (task : Bool) : Bool :=
  (match need with | .rd => e.getLsbD 2 | .wr => e.getLsbD 3 | .rdwr => e.getLsbD 2 && e.getLsbD 3 | .ex => e.getLsbD 4) &&
  (!task || e.getLsbD 5)

/-- A physical address checked for an access: its region, guard rows, ownership, the weight store's rules, and poison
(R199, R324, R330, R338, R352, R412). -/
def State.paCheck (s : State) (p : BitVec 3) (pa : Nat) (need : Need) (weightOk : Bool) : Except XFail Nat :=
  let a := s.norm pa
  let reads := match need with | .wr => false | _ => true
  let writes := match need with | .wr | .rdwr => true | _ => false
  match s.region a with
  | .none => .error .prot
  | .remote _ =>
    bif !s.pkg.domEn || localRegion (bits a 42 0) != .hbm || s.pkg.absent.contains (BitVec.ofNat 8 (a / 2 ^ 43)) then .error .prot
    else bif s.remoteBad || s.pkg.portUp == 0 || s.reqLost then .error .remote
    else bif reads && s.poisoned a then .error (.poison a)
    else .ok a
  | .weight d =>
    bif s.shadowStore d a || (writes && !weightOk) then .error .prot
    else bif reads && s.poisoned a then .error (.poison a)
    else .ok a
  | .host => .ok a
  | .hbm =>
    bif s.guardRow a then .error (.guard (a / 65536 * 65536))
    else bif !s.owns p a then .error .prot
    else bif reads && s.poisoned a then .error (.poison a)
    else .ok a

/-- An access translated and checked: its physical address, or why it fails (R102, R323 to R325). -/
def State.xlate (s : State) (w : Who) (va : Word64) (need : Need) (weightOk : Bool := false) : Except XFail Nat :=
  bif !canonical va then .error .prot
  else
    match s.leafFor w.part w.vf va with
    | .none => .error .noTrans
    | .guard row => .error (.guard row)
    | .barred => .error .prot
    | .waits => .error .waits
    | .leaf log e =>
      bif !leafAllows e need w.task then .error .prot
      else s.paCheck w.part (entryAddr e / 2 ^ log * 2 ^ log + bits va.toNat (log - 1) 0) need weightOk

/-- A virtual address of a context as the package controller or the die reaches it: any valid translation will do. -/
def State.ctxPa (s : State) (p : BitVec 3) (v : BitVec 2) (va : Word64) : Option Nat :=
  match s.leafFor p v va with
  | .leaf log e => some (s.norm (entryAddr e / 2 ^ log * 2 ^ log + bits va.toNat (log - 1) 0))
  | _ => none

/-! ### Memory events (R309 to R313, R321, R330) -/

/-- Already covered (R317). -/
def Cover.now : Cover := ⟨0, 0, 0⟩
/-- The first of two covers. -/
def Cover.first (a b : Cover) : Cover := ⟨Nat.min a.l b.l, Nat.min a.s b.s, Nat.min a.v b.v⟩

/-- A device agent's write of a byte, which the memory-side cache is still to see (R321); an agent of this core's is known by its owner tag. -/
def staleAdd (s : State) (mine : Bool) (st : List (Nat × Stale)) (c : Host.Cell) : List (Nat × Stale) :=
  let x := kget st c.1 ⟨s.rd8 c.1, []⟩
  kset st c.1 { x with writes := x.writes ++ [⟨c.2, mine, .now⟩] }
/-- What an agent of this core has written last of a byte waits for fence.s under a cover (R317). -/
def Stale.under (c : Cover) (x : Stale) : Stale :=
  match x.writes.getLast? with
  | some w => { x with writes := x.writes.dropLast ++ [{ w with mine := true, cover := c }] }
  | none => x
/-- Every write of this core's counts as covered. -/
def Stale.allCovered (x : Stale) : Stale := { x with writes := x.writes.map fun w => { w with cover := .now } }
/-- The last of a byte's writes of which a test holds reaches the memory-side cache, with all before it; none is left when it was the newest (R317,
R321). -/
def Stale.reach (done : StaleWrite → Bool) (x : Stale) : Option Stale :=
  match (List.range x.writes.length).reverse.find? fun i => (x.writes[i]?).any done with
  | some i => bif i + 1 == x.writes.length then none else some ⟨((x.writes[i]?).map (·.val)).getD x.old, x.writes.drop (i + 1)⟩
  | none => some x

/-- A write's trace in the L2 line that it hits (R307): the owner tag and the dirty flag. -/
def l2Write (l : List L2Line) (line : Nat) (o : Owner) : List L2Line :=
  l.map fun x => bif x.line == line then { x with owner := o, dirty := true } else x

/-- The watch of the core after a write to these addresses (R297). -/
def watchAfter (w : Watch) (addrs : List Nat) : Watch :=
  match w with
  | .armed line => bif addrs.any fun a => lineOf a == line then .fired line else w
  | w => w

/-- The number of distinct lines touched whole by an ascending list of addresses: a line all of whose 128 bytes are
written by one event (R330). -/
def wholeLine (addrs : List Nat) (line : Nat) : Bool := ((addrs.filter fun a => lineOf a == line).eraseDups).length == 128

/-- The owner tag of the core's writes (R307). -/
def State.me (s : State) : Owner := some (s.core.ctx.part, s.core.ctx.vf)

/-! ### Trackers and selectors (R334, R336) -/

/-- One tracker entry: row and count; unlisted entries are clear. -/
def trackEntry (l : List (Nat × Nat × Nat)) (k : Nat) : Nat × Nat := kget l k (0, 0)
/-- A tracker entry replaced; a clear one is not listed. -/
def trackPut (l : List (Nat × Nat × Nat)) (k : Nat) (e : Nat × Nat) : List (Nat × Nat × Nat) := bif e.2 == 0 then kdel l k else kset l k e

/-- A row activation in a bank (R336). The bank is its channel·32 + bank number. -/
def Stack.activate (x : Stack) (bank row : Nat) : Stack :=
  let key := fun (i : Nat) => bank * 16 + i
  let at_ := fun (i : Nat) => trackEntry x.track (key i)
  let hit := (List.range 16).find? fun i => (at_ i).1 == row && decide (0 < (at_ i).2)
  let put := fun (x : Stack) (i : Nat) (n : Nat) =>
    bif n == x.mgth.toNat then
      let near := [(row : Int) - 2, row - 1, row + 1, row + 2].filter fun r => decide (0 ≤ r ∧ r ≤ 32767)
      { x with track := trackPut x.track (key i) (row, 0), refreshed := (near.map fun r => (bank, r.toNat)) ++ x.refreshed }
    else { x with track := trackPut x.track (key i) (row, n) }
  match hit with
  | some i => put x i ((at_ i).2 + 1)
  | none =>
    match (List.range 16).find? fun i => (at_ i).2 == 0 with
    | some i => put x i 1
    | none => { x with track := (List.range 16).foldl (fun l i => trackPut l (key i) ((at_ i).1, (at_ i).2 - 1)) x.track }

/-- A stack replaced by a function of it. -/
def State.stackUpd (s : State) (i : Nat) (f : Stack → Stack) : State :=
  s.setPkg { s.pkg with hbm := vset s.pkg.hbm i (f (vget s.pkg.hbm i Stack.reset)) }
/-- The activation of the row that holds a physical address (R328, R336). -/
def State.activate (s : State) (pa : Nat) : State :=
  s.stackUpd (bits pa 39 36) fun x => x.activate (bits pa 35 31 * 32 + bits pa 15 11) (bits pa 30 16)

/-! ### The memory-side cache (R333, R334) -/

/-- The set of a line in its stack's memory-side cache (R333). -/
def mscSet (pa : Nat) : Nat := bits pa 20 7 ^^^ bits pa 34 21
/-- Two lines of one set of one memory-side cache. -/
def mscSame (a b : Nat) : Bool := bits (a * 128) 39 36 == bits (b * 128) 39 36 && mscSet (a * 128) == mscSet (b * 128)

/-- A selector trained by a partition's miss in a leader set (R334). -/
def Stack.train (x : Stack) (set : Nat) (p : BitVec 3) : Stack :=
  let v := (vget x.psel p.toNat 512).toNat
  if set % 512 = 0 then { x with psel := vset x.psel p.toNat (BitVec.ofNat 10 (Nat.min 1023 (v + 1))) }
  else if set % 512 = 257 then { x with psel := vset x.psel p.toNat (BitVec.ofNat 10 (v - 1)) }
  else x
/-- Where a partition's line is inserted (R334), at the MRU end or not, and the stack with its insertions counted. -/
def Stack.placeAt (x : Stack) (set : Nat) (p : BitVec 3) : Stack × Bool :=
  let low := if set % 512 = 0 then false else if set % 512 = 257 then true
             else bif x.force then x.pol else decide (512 ≤ (vget x.psel p.toNat 512).toNat)
  bif low then ({ x with blru := x.blru + 1 }, x.blru == 31) else (x, true)
/-- Where a fill's line is inserted (R334): a fill with no partition trains nothing and goes to the MRU end. -/
def Stack.insertAt (x : Stack) (set : Nat) (part : Option (BitVec 3)) : Stack × Bool :=
  match part with
  | none => (x, true)
  | some p => (x.train set p).placeAt set p

/-- A line leaves the memory-side cache; a dirty one activates the row it is written to (R333, R336). -/
def State.mscDrop (s : State) (line : Nat) : State :=
  match s.mem.msc.find? fun x => x.line == line with
  | some x =>
    let s := s.setMem { s.mem with msc := s.mem.msc.filter fun y => y.line != line }
    bif x.dirty then s.activate (line * 128) else s
  | none => s

/-- A line put into the memory-side cache at the MRU or the LRU end of its set, the least recently used line of a full set having left (R333). -/
def State.mscPut (s : State) (line : Nat) (dirty mru : Bool) : State :=
  let set := s.mem.msc.filter fun x => mscSame x.line line
  let s := match set.getLast? with
    | some v => bif decide (16 ≤ set.length) then s.mscDrop v.line else s
    | none => s
  s.setMem { s.mem with msc := bif mru then ⟨line, dirty⟩ :: s.mem.msc else s.mem.msc ++ [⟨line, dirty⟩] }

/-- An access that reaches the memory-side cache: a line found there becomes the most recently used; a miss activates the line's row and fills it
in for the partition that missed (R333, R334, R336; log 33, DESIGN CHOICE). -/
def State.mscAccess (s : State) (line : Nat) (part : Option (BitVec 3)) (write : Bool) : State :=
  match s.mem.msc.find? fun x => x.line == line with
  | some x => s.setMem { s.mem with msc := ⟨line, x.dirty || write⟩ :: s.mem.msc.filter fun y => y.line != line }
  | none =>
    let pa := line * 128
    let st := bits pa 39 36
    let r := (vget s.pkg.hbm st Stack.reset).insertAt (mscSet pa) part
    ((s.stackUpd st fun _ => r.1).activate pa).mscPut line write r.2

/-- A dirty line written back to the memory-side cache: found there, it becomes the most recently used; else it is inserted as its set's policy places
the lines of its row group's owner, which trains no selector (R307, R333, R334; log 33, DESIGN CHOICE). -/
def State.mscBack (s : State) (line : Nat) : State :=
  match s.mem.msc.find? fun x => x.line == line with
  | some _ => s.mscAccess line none true
  | none =>
    match s.ownerOf (line * 128) with
    | some p =>
      let st := bits (line * 128) 39 36
      let r := (vget s.pkg.hbm st Stack.reset).placeAt (mscSet (line * 128)) p
      (s.stackUpd st fun _ => r.1).mscPut line true r.2
    | none => s.mscPut line true true
/-- A core's watch when its line leaves the L2 (R297). -/
def watchEvicted (w : Watch) (line : Nat) : Watch := match w with | .armed l => bif l == line then .lost l else w | w => w
/-- A line leaves the L2: a dirty one is written to the memory-side cache, where the host then sees it (R297, R307, R321). -/
def State.l2Out (s : State) (x : L2Line) : State :=
  let s := s.setMem { s.mem with l2 := s.mem.l2.filter fun y => y.line != x.line }
  let s := s.setC { s.core.c with watch := watchEvicted s.core.c.watch x.line }
  bif !x.dirty then s else (s.setMem { s.mem with stale := s.mem.stale.filter fun c => lineOf c.1 != x.line }).mscBack x.line
/-- A line leaves whichever L2 holds it. -/
def State.l2Leave (s : State) (line : Nat) : State := match s.mem.l2.find? fun x => x.line == line with | some x => s.l2Out x | none => s

/-! ### Write events (R308, R309, R315, R330) -/

/-- One write event: bytes at physical addresses, all at once, once every lease on their lines has lapsed (R308; log 22, DEDUCED). `dev` for a device agent's
write, which the memory-side cache sees later; `whole` for an event that clears poison where it covers a line (R330). -/
def State.memPut (s : State) (cs : List Host.Cell) (o : Owner) (dev whole : Bool) : State :=
  let cs := cs.map fun c => (s.norm c.1, c.2)
  let addrs := cs.map (·.1)
  let hbm := fun a => s.region a == .hbm && !s.hostBias a
  let m := s.mem
  let stale := bif dev then (cs.filter fun c => hbm c.1).foldl (staleAdd s (o == s.me)) m.stale else addrs.foldl kdel m.stale
  let lines := (addrs.map lineOf).eraseDups
  let poison := bif whole then m.poison.filter fun l => !wholeLine addrs l else m.poison
  let l2 := bif dev then (lines.filter fun l => hbm (l * 128)).foldl (fun x l => l2Write x l o) m.l2
            else m.l2.filter fun x => !lines.contains x.line
  { s with
    mem := { m with
      cells := cs.foldl (fun x c => cellSet x c.1 c.2) m.cells, stale := stale, poison := poison, l2 := l2,
      leases := m.leases.filter fun x => !lines.contains x.line }
    core := { s.core with c := { s.core.c with watch := watchAfter s.core.c.watch addrs } } }

/-- Bytes from an address as cells. -/
def cellsAt (pa : Nat) (bs : List Byte) : List Host.Cell := (List.range bs.length).map fun i => (pa + i, bs.getD i 0)

/-- The addresses of n bytes. -/
def span (pa n : Nat) : List Nat := (List.range n).map fun i => pa + i

/-- The near-bank granules among those that wait that an ordinary write to some of their bytes follows: those whose row step has read them, and older writes of
the same granules; and the rest (R315). -/
def rmwSplit (hit : Granule → Bool) : List Granule → List Granule × List Granule
  | [] => ([], [])
  | g :: t =>
    let r := rmwSplit hit t
    bif (hit g && g.rmw) || r.1.any (fun h => h.pa == g.pa) then (g :: r.1, r.2) else (r.1, g :: r.2)
/-! ### The order of accesses to a recorded line (R404, R405) -/

/-- An agent's event at a line: a record is due when another agent's event stood there last, on a line that more than one agent has written (R404). -/
def OrderBook.after (b : OrderBook) (p : BitVec 3) (line ag : Nat) (w : Bool) : OrderBook :=
  let x := (b.lines.find? fun x => x.line == line).getD ⟨line, ag, [], []⟩
  let n := kget x.counts ag 0 + 1
  let ws := bif w && !x.writers.contains ag then ag :: x.writers else x.writers
  { lines := ⟨line, ag, ws, kset x.counts ag n⟩ :: b.lines.filter fun y => y.line != line
    due := bif x.last != ag && decide (2 ≤ ws.length) then b.due ++ [(p, line, Config.orderData x.last (kget x.counts x.last 0) ag n)] else b.due }
/-- An agent's event at an address, as recording and replay count it: 0 the strands of this core, 1 its engines, 2 its near-bank commands, 3 the host and
the Ethernet ports, 4 other packages, 5 other cores, 6 the task units (R404; log 23, DESIGN CHOICE). -/
def State.orderAt (s : State) (ag : Nat) (w : Bool) (pa : Nat) : State :=
  match s.mem.order with
  | none => s
  | some b =>
    match s.ownerOf pa with
    | some p => bif (s.part p).repMode == 0 then s else s.setMem { s.mem with order := some (b.after p (lineOf (s.norm pa)) ag w) }
    | none => s
/-- Events at each line that addresses lie in. -/
def State.orderLines (s : State) (ag : Nat) (w : Bool) (pas : List Nat) : State :=
  match s.mem.order with
  | none => s
  | some _ => ((pas.map fun a => lineOf (s.norm a)).eraseDups).foldl (fun s l => s.orderAt ag w (l * 128)) s

/-- A record of the replay buffer: type, core, key, address and data. -/
def State.repAt (s : State) (p : BitVec 3) (i : Nat) : Nat × Nat × Nat × Nat × Nat :=
  match s.ctxPa p 0 ((s.part p).repBase + BitVec.ofNat 64 (32 * i)) with
  | some pa => (s.rdNat pa 1, s.rdNat (pa + 4) 4, s.rdNat (pa + 8) 8, s.rdNat (pa + 16) 8, s.rdNat (pa + 24) 8)
  | none => (0, 0, 0, 0, 0)
/-- The first record from a number on, not consumed, of which a test holds; the records end at one of type 0 (R404). -/
def State.repScan (s : State) (p : BitVec 3) (f : Nat × Nat × Nat × Nat × Nat → Bool) : Nat → Nat → Option Nat
  | 0, _ => none
  | n + 1, i =>
    let r := s.repAt p i
    bif r.1 == 0 then none
    else bif f r && !(s.part p).repDone.contains i then some i
    else s.repScan p f n (i + 1)
/-- The first such record from POS on. -/
def State.repFind (s : State) (p : BitVec 3) (f : Nat × Nat × Nat × Nat × Nat → Bool) : Option Nat := s.repScan p f 4096 (s.part p).repPos.toNat
/-- An agent's next event at an address waits under replay: the event that a record puts before it has still to take place (R405). -/
def State.orderWaits (s : State) (ag pa : Nat) : Bool :=
  match s.mem.order, s.ownerOf pa with
  | some b, some p =>
    let line := lineOf (s.norm pa)
    let c := match b.lines.find? fun x => x.line == line with | some x => x.counts | none => []
    (s.part p).repMode == 2 && (s.repFind p fun r =>
      let o := Config.orderOf r.2.2.2.2
      r.1 == 6 && r.2.2.2.1 == line * 128 && o.2 == (ag, kget c ag 0 + 1) && decide (kget c o.1.1 0 < o.1.2)).isSome
  | _, _ => false
/-- An agent's access waits, for what its address asks (`waitsAt`) or for its place in a recorded order. -/
def State.holdsAt (s : State) (ag : Nat) (reads : Bool) (pa : Nat) (writes : Bool := !reads) : Bool := s.waitsAt reads pa writes || s.orderWaits ag pa

/-- A near-bank granule write takes place; a watch on its line waits for the bank fence (R297, R316). -/
def State.granulePut (s : State) (g : Granule) : State :=
  let t := (s.orderAt 2 true g.pa).memPut (cellsAt g.pa g.bytes) none false false
  t.setC { t.core.c with watch := s.core.c.watch }
/-- A near-bank row step's read and write of a granule are indivisible: an ordinary write to some of these addresses comes wholly after it (R315, R343). -/
def State.rmwFirst (s : State) (pas : List Nat) : State :=
  let r := rmwSplit (fun g => pas.any fun a => decide (g.pa ≤ s.norm a ∧ s.norm a < g.pa + g.bytes.length)) s.core.nb.writes
  bif r.1.isEmpty then s else r.1.foldl State.granulePut (s.setNb { s.core.nb with writes := r.2 })
/-- An ordinary write event (R309, R315). -/
def State.memWrite (s : State) (cs : List Host.Cell) (o : Owner) (dev whole : Bool) : State :=
  (s.rmwFirst (cs.map (·.1))).memPut cs o dev whole
/-- A core's watch fires at a write to its line (R297). -/
def State.watchWrites (s : State) (pas : List Nat) : State := s.setC { s.core.c with watch := watchAfter s.core.c.watch (pas.map s.norm) }
/-- A write at the memory-side cache fires the watch on its lines and comes to them there for the partition that owns their row group; the L2 gives them
up, written back if dirty (R297, R321, R333, R334). -/
def State.atMsc (s : State) (pas : List Nat) : State :=
  ((pas.map fun a => lineOf (s.norm a)).eraseDups).foldl (fun s l =>
    bif decide (s.region (l * 128) = .hbm) then (s.l2Leave l).mscAccess l (s.ownerOf (l * 128)) true else s) (s.watchWrites pas)
/-- A write event of a unit of the die or of the package: it takes place at the memory-side cache (R321, R369; log 61, DEDUCED). -/
def State.unitWrite (s : State) (cs : List Host.Cell) : State := (s.atMsc (cs.map (·.1))).memWrite cs none false false
/-- No write to these addresses can take place now: a page of theirs is in a flip, or a lease on a line of theirs is live (R308, R322). -/
def State.writeHeld (s : State) (pas : List Nat) : Bool := pas.any (s.waitsAt false)

/-! ### Recording and interrupts (R378, R380, R403 to R405) -/

/-- Where this core's own energy of a microsecond goes: the queue of the running step's block; IDLEENERGY for a launched step and for an idle core
(R274, R399). -/
def State.payer (s : State) : Option (BitVec 6) := match s.core.ctx.running with | some i => i.queue | none => none
/-- The energy of something that ran in this microsecond is still to be charged to a queue (R399). -/
def State.owe (s : State) (p : BitVec 3) (q : Option (BitVec 6)) : State :=
  bif s.pkg.owed.contains (p, q) then s else s.setPkg { s.pkg with owed := (p, q) :: s.pkg.owed }
/-- The queue of a block has done with it: its charges are made by 4 microseconds from now (R400). -/
def Part.doneNow (x : Part) (q : BitVec 6) (t : Nat) : Part := { x with doneAt := (q, t) :: x.doneAt.filter fun e => e.1 != q }

/-- A message-signalled interrupt to a host function (R378, R380), traced when `trace irq` names the partition (R393). -/
def State.msiRaw (s : State) (p : BitVec 3) (v : BitVec 2) (vec cause : Nat) : State :=
  let m : Msi := ⟨1 + 4 * p.toNat + v.toNat, vec, cause⟩
  let s := { s with pkg := { s.pkg with msi := m :: s.pkg.msi } }
  bif s.core.dbg.traceIrq == some p then
    s.setDbg { s.core.dbg with irqLines := s.core.dbg.irqLines ++ [⟨"irq", s.tstamp, [m.fn, vec, cause]⟩] }
  else s

/-- The 32 bytes of a replay record (R404). -/
def repBytes (type : Nat) (core : Word32) (key addr data : Word64) : List Byte :=
  leBytes 1 type ++ leBytes 3 0 ++ leBytes 4 core.toNat ++ leBytes 8 key.toNat ++ leBytes 8 addr.toNat ++ leBytes 8 data.toNat

/-- One record written at POS in VF 0's space; past the end of the buffer FULL is set and vector 3 is sent (R403, R404). -/
def State.record (s : State) (p : BitVec 3) (type : Nat) (core : Word32) (key addr data : Word64) : State :=
  let x := s.part p
  bif x.repMode != 1 || x.repFull then s
  else bif decide (2 ^ (x.repLog.toNat + 16) < (x.repPos.toNat + 1) * 32) then
    (s.setPart p { x with repFull := true }).msiRaw p 0 3 2
  else
    let b := repBytes type core key addr data
    let s := match s.ctxPa p 0 (x.repBase + BitVec.ofNat 64 (32 * x.repPos.toNat)) with
      | some pa => s.unitWrite (cellsAt pa b)
      | none => s
    let x := s.part p
    s.setPart p { x with repPos := x.repPos + 1, reps := x.reps ++ [b] }

/-- An interrupt that the partition's own work raises: recorded, and held off under replay (R404, R405; log 56, DEDUCED). -/
def State.msi (s : State) (p : BitVec 3) (v : BitVec 2) (vec cause : Nat) : State :=
  bif (s.part p).repMode == 2 then s.setPkg { s.pkg with heldMsi := s.pkg.heldMsi ++ [⟨1 + 4 * p.toNat + v.toNat, vec, cause⟩] }
  else (s.msiRaw p v vec cause).record p 3 0 (BitVec.ofNat 64 s.tstamp) (BitVec.ofNat 64 (1 + 4 * p.toNat + v.toNat)) (BitVec.ofNat 64 vec)

/-! ### Performance counters (R375, R376, R378) -/

/-- A line of the world-switch trace, when `trace switch` names the partition (R393). -/
def State.swTrace (s : State) (p : BitVec 3) (what : String) (args : List Nat) : State :=
  match s.core.dbg.traceSw with
  | some (q, _) => bif q == p then s.setDbg { s.core.dbg with swLines := s.core.dbg.swLines ++ [⟨what, s.tstamp, args⟩] } else s
  | none => s

/-- One counter advanced: its new value, and whether it wrapped. -/
def cntAdd (sel : BitVec 10) (c : BitVec 48) (ev : BitVec 8) (n : Nat) : BitVec 48 × Bool :=
  bif sel.getLsbD 8 && sel.extractLsb' 0 8 == ev then (c + BitVec.ofNat 48 n, decide (2 ^ 48 ≤ c.toNat + n)) else (c, false)

/-- A copy of the counters with an event counted, and the counters that wrapped. -/
def Counters.add (k : Counters) (ev : BitVec 8) (n : Nat) : Counters × List Nat :=
  bif k.csel.all fun x => !x.getLsbD 8 then (k, [])
  else
    let r := List.range 32 |>.map fun i => cntAdd (vget k.csel i 0) (vget k.cnt i 0) ev n
    let wraps := List.range 32 |>.filter fun i => (r.getD i (0, false)).2
    ({ k with cnt := Vector.ofFn fun i => (r.getD i.val (0, false)).1,
              ovf := wraps.foldl (fun o i => o ||| (1#32 <<< i)) k.ovf }, wraps)

/-- The interrupts of counters that wrapped with OVFINT set. -/
def State.ovfInts (s : State) (p : BitVec 3) (v : BitVec 2) (csel : Vector (BitVec 10) 32) (wraps : List Nat) : State :=
  wraps.foldl (fun s i => bif (vget csel i 0).getLsbD 9 then s.msi p v 1 i else s) s

/-- The units that each strand has retired, with those of an event that counts units: 3 to 6 (R304, R376). -/
def unitCount (u : Vector Nat 4) (ev : BitVec 8) (n : Nat) : Vector Nat 4 :=
  bif decide (3 ≤ ev.toNat ∧ ev.toNat ≤ 6) then vset u (ev.toNat - 3) (vget u (ev.toNat - 3) 0 + n) else u
/-- The virtual function that the counters of the core are: the resident one of the site's partition (R375, R378). -/
def State.perfOwner (s : State) : BitVec 3 × BitVec 2 := match s.sitePart with | some p => (p, (s.part p).resident) | none => (s.core.ctx.part, s.core.ctx.vf)
/-- A core-class event counted for the resident VF (R376). -/
def State.count (s : State) (ev : BitVec 8) (n : Nat) : State :=
  let r := s.core.perf.add ev n
  let s' := { s with core := { s.core with perf := r.1, units := unitCount s.core.units ev n } }
  s'.ovfInts s.perfOwner.1 s.perfOwner.2 r.1.csel r.2

/-- Something retired or an occupancy changed: the watchdog starts again (R44), and every strand has to show again that it is
blocked (R31). -/
def State.touch (s : State) : State := s.setTrap { s.core.trap with dog := 0, moved := 15 }
/-- Data came that a strand may wait for: whether it is blocked is not known (R31). -/
def State.stir (s : State) : State := s.setTrap { s.core.trap with moved := 15 }
/-- A strand has its turn: what it leaves behind says whether it is blocked (R31). -/
def State.looks (s : State) (k : Strand) : State :=
  s.setTrap { s.core.trap with moved := s.core.trap.moved &&& ~~~(1#4 <<< (strandCode k).toNat) }

/-! ### C's registers and ports (R16, R17, R29, R93, R94) -/

/-- The value C reads for a register: x0 is zero; in task mode x24 to x27 read zero, x28 and x29 the head of their queues;
in supervisor mode x24 to x29 are banked. -/
def State.xRead (s : State) (r : XReg) : Word64 :=
  if r = 0 then 0
  else if 24 ≤ r.toNat ∧ r.toNat ≤ 29 then
    bif s.sup then vget s.core.c.bank (r.toNat - 24) 0
    else if r = 28 then s.core.q.qvc.headD 0
    else if r = 29 then s.core.q.ecq.headD 0
    else 0
  else s.core.c.regs.get ⟨r.toNat, r.isLt⟩

/-- Every queue that C's source registers pop holds an entry. -/
def State.xCanPop (s : State) (rs : List XReg) : Bool :=
  s.sup || ((!rs.contains 28 || !s.core.q.qvc.isEmpty) && (!rs.contains 29 || !s.core.q.ecq.isEmpty))

/-- The queue that C's destination register pushes has room. -/
def State.xCanPush (s : State) (r : XReg) : Bool :=
  s.sup || (if r = 24 then decide (s.core.q.qcl.length < 16)
    else if r = 25 then decide (s.core.q.qcv.length < 16)
    else if r = 26 then decide (s.core.q.qcs.length < 16)
    else if r = 27 then decide (s.core.q.qbr.length < 32)
    else true)

/-- The pops of C's source registers: each queue at most once. -/
def State.xPop (s : State) (rs : List XReg) : State :=
  bif s.sup then s
  else
    let q := bif rs.contains 28 then { s.core.q with qvc := s.core.q.qvc.tail, vOut := s.core.q.vOut + 1 } else s.core.q
    let q := bif rs.contains 29 then { q with ecq := q.ecq.tail } else q
    s.setQ q

/-- C's write of a register: x0 and, in task mode, x28 and x29 discard it; x24 to x27 push. -/
def State.xWrite (s : State) (r : XReg) (v : Word64) : State :=
  if r = 0 then s
  else if 24 ≤ r.toNat ∧ r.toNat ≤ 29 then
    bif s.sup then s.setC { s.core.c with bank := vset s.core.c.bank (r.toNat - 24) v }
    else if r = 24 then s.setQ { s.core.q with qcl := s.core.q.qcl ++ [v] }
    else if r = 25 then s.setQ { s.core.q with qcv := s.core.q.qcv ++ [v] }
    else if r = 26 then s.setQ { s.core.q with qcs := s.core.q.qcs ++ [v] }
    else if r = 27 then s.setQ { s.core.q with qbr := s.core.q.qbr ++ [v.extractLsb' 0 8] }
    else s
  else s.setC { s.core.c with regs := s.core.c.regs.set r.toNat v r.isLt }

/-- C's PC set. -/
def State.setPc (s : State) (pc : Word64) : State := s.setC { s.core.c with pc := pc }

/-- A C word's issue condition at its ports (R17). -/
def State.cReady (s : State) (srcs : List XReg) (dst : XReg) : Bool := s.xCanPop srcs && s.xCanPush dst

/-- C holds at its word (R17). -/
def State.cStall (s : State) : State := s.setC { s.core.c with blocked := true }

/-- A C word has retired: the watchdog and the counters see it (R44, R376), and C goes on at `pc`. -/
def State.cGo (s : State) (pc : Word64) : State :=
  let s := s.touch.count 0x04 1
  let s := s.setCtx { s.core.ctx with cWords := s.core.ctx.cWords + 1 }
  s.setC { s.core.c with pc := pc, run := .ready, blocked := false }

/-! ### The y registers (R15, R125) -/

/-- The queue from C to a strand. -/
def State.qOf (s : State) (k : Strand) : List Word64 :=
  match k with | .c => [] | .l => s.core.q.qcl | .v => s.core.q.qcv | .s => s.core.q.qcs
/-- The queue from C to a strand, replaced. -/
def State.setQOf (s : State) (k : Strand) (q : List Word64) : State :=
  match k with
  | .c => s
  | .l => s.setQ { s.core.q with qcl := q }
  | .v => s.setQ { s.core.q with qcv := q }
  | .s => s.setQ { s.core.q with qcs := q }
/-- The y file of a strand. -/
def State.yFile (s : State) (k : Strand) : Vector Word32 16 :=
  match k with | .c => Vector.replicate 16 0 | .l => s.core.l.regs | .v => s.core.v.regs | .s => s.core.s.regs
/-- A y register as read: y0 is zero, y12 the low half of the head of the strand's queue. -/
def State.yRead (s : State) (k : Strand) (r : YReg) : Word32 :=
  if r = 0 then 0
  else if r = 12 then ((s.qOf k).headD 0).extractLsb' 0 32
  else (s.yFile k).get ⟨r.toNat, r.isLt⟩
/-- A y register written: y0 and y12 discard it. -/
def State.yWrite (s : State) (k : Strand) (r : YReg) (v : Word32) : State :=
  if r = 0 ∨ r = 12 then s
  else
    match k with
    | .c => s
    | .l => s.setLS .l { s.core.l with regs := s.core.l.regs.set r.toNat v r.isLt }
    | .s => s.setLS .s { s.core.s with regs := s.core.s.regs.set r.toNat v r.isLt }
    | .v => s.setV { s.core.v with regs := s.core.v.regs.set r.toNat v r.isLt }
/-- The sources pop the strand's queue, which is empty. -/
def State.yBlocked (s : State) (k : Strand) (rs : List YReg) : Bool := rs.contains 12 && (s.qOf k).isEmpty
/-- The pop of y12: once, whatever number of fields name it; the upper half is kept for selector 2 (R125). -/
def State.yPop (s : State) (k : Strand) (rs : List YReg) : State :=
  bif rs.contains 12 then
    let hi := ((s.qOf k).headD 0).extractLsb' 32 32
    let s := s.setQOf k (s.qOf k).tail
    match k with
    | .c => s
    | .l => s.setLS .l { s.core.l with hi := hi }
    | .s => s.setLS .s { s.core.s with hi := hi }
    | .v => s.setV { s.core.v with hi := hi }
  else s

/-! ### Token FIFOs (R14, R18, R126) -/

/-- The FIFO of R37 from a strand to its next neighbour, or to its previous. -/
def fifoTo (k : Strand) (next : Bool) : Nat :=
  match k, next with
  | .c, true => 0 | .l, false => 1 | .l, true => 2 | .v, false => 3 | .v, true => 4 | .s, false => 5 | .s, true => 6 | .c, false => 7
/-- The FIFO of R37 to a strand from its next neighbour, or from its previous. -/
def fifoFrom (k : Strand) (next : Bool) : Nat :=
  match k, next with
  | .c, true => 1 | .l, false => 0 | .l, true => 3 | .v, false => 2 | .v, true => 5 | .s, false => 4 | .s, true => 7 | .c, false => 6
/-- The tokens in a FIFO. -/
def State.fifo (s : State) (i : Nat) : Fifo := vget s.core.q.tok i ⟨0, 0, 0⟩
/-- A FIFO replaced. -/
def State.setFifo (s : State) (i : Nat) (f : Fifo) : State := s.setQ { s.core.q with tok := vset s.core.q.tok i f }
/-- The slip window of a strand (R18). -/
def State.slipOf (s : State) (k : Strand) : Nat :=
  (vget s.core.csr.slip (match k with | .c => 0 | .l => 1 | .v => 2 | .s => 3) 8).toNat
/-- A push to a neighbour has room: the depth 8, and the slip window towards the next neighbour (R18). -/
def State.tokRoom (s : State) (k : Strand) (next : Bool) : Bool :=
  let f := s.fifo (fifoTo k next)
  decide (f.occ + f.res < bif next then Nat.min 8 (s.slipOf k) else 8)
/-- A token from a neighbour is there. -/
def State.tokHas (s : State) (k : Strand) (next : Bool) : Bool := decide (0 < (s.fifo (fifoFrom k next)).occ)
/-- Every token operation of a unit can be met together (R126). -/
def State.tokReady (s : State) (k : Strand) (t : Tokens) : Bool :=
  (!t.popP || s.tokHas k false) && (!t.popN || s.tokHas k true) && (!t.pushP || s.tokRoom k false) && (!t.pushN || s.tokRoom k true)
/-- One token removed. -/
def State.tokTake (s : State) (k : Strand) (next : Bool) : State :=
  let i := fifoFrom k next
  s.setFifo i { s.fifo i with occ := (s.fifo i).occ - 1, out := (s.fifo i).out + 1 }
/-- Room for one token reserved. -/
def State.tokReserve (s : State) (k : Strand) (next : Bool) : State :=
  let i := fifoTo k next
  s.setFifo i { s.fifo i with res := (s.fifo i).res + 1 }
/-- A reserved token made visible. -/
def State.tokGive (s : State) (k : Strand) (next : Bool) : State :=
  let i := fifoTo k next
  s.setFifo i { s.fifo i with occ := (s.fifo i).occ + 1, res := (s.fifo i).res - 1 }
/-- The pops and the reservations of a unit at its issue. -/
def State.tokIssue (s : State) (k : Strand) (t : Tokens) : State :=
  let s := bif t.popP then s.tokTake k false else s
  let s := bif t.popN then s.tokTake k true else s
  let s := bif t.pushP then s.tokReserve k false else s
  bif t.pushN then s.tokReserve k true else s
/-- The pushes of a unit at its retirement. -/
def State.tokRetire (s : State) (k : Strand) (t : Tokens) : State :=
  let s := bif t.pushP then s.tokGive k false else s
  bif t.pushN then s.tokGive k true else s

/-- The occupancies of R37, as TVAL of causes 0x11 and 0x14 shows them. -/
def State.occupancies (s : State) : Word64 :=
  let q := s.core.q
  BitVec.ofNat 64 (q.qcl.length + q.qcv.length * 2 ^ 5 + q.qcs.length * 2 ^ 10 + q.qbr.length * 2 ^ 15 + q.qvc.length * 2 ^ 21 +
    q.ecq.length * 2 ^ 25 + s.core.eng.copy.length * 2 ^ 30 + s.core.eng.gather.length * 2 ^ 35 + s.core.nb.cmds.length * 2 ^ 39 +
    q.sub.length * 2 ^ 43 + ((List.range 8).map fun i => (bif decide (0 < (s.fifo i).occ) then 2 ^ (46 + i) else 0)).sum)
/-- TQOCC (R37; log 34, DEDUCED). -/
def State.tqoccNow (s : State) : Word32 :=
  BitVec.ofNat 32 (((List.range 8).map fun i => (s.fifo i).occ * 2 ^ (4 * i)).sum)

/-! ### The partition fault queue (R366 to R369) -/

/-- A ring's capacity. -/
def ringSize (log : BitVec 4) : Nat := 2 ^ (log.toNat + 4)

/-- A dword of the address space of VF 0, at a virtual address. -/
def State.vf0Nat (s : State) (p : BitVec 3) (va : Word64) : Nat :=
  match s.ctxPa p 0 va with | some pa => s.rdNat pa 8 | none => 0

/-- The fault queue is enabled, its ring can be reached and has room (R366). -/
def State.fqRoom (s : State) (p : BitVec 3) : Bool :=
  let x := s.part p
  x.fqEn && (s.ctxPa p 0 x.fqBase).isSome &&
    decide (s.vf0Nat p x.fqBase + (x.posts.filter (·.isSome)).length - s.vf0Nat p (x.fqBase + 0x40) < ringSize x.fqLog)

/-- The 64 bytes of a record (R366). -/
def FaultRec.bytes (r : FaultRec) : List Byte :=
  leBytes 1 r.type.toNat ++ leBytes 1 r.await.toNat ++ leBytes 2 r.seq.toNat ++ leBytes 4 r.core.toNat ++ leBytes 8 r.addr.toNat ++
  leBytes 8 r.stamp.toNat ++ leBytes 4 r.tstat.toNat ++ leBytes 4 r.aux.toNat ++ leBytes 8 r.tfpc.toNat ++ leBytes 8 r.tval.toNat ++
  leBytes 8 r.block.toNat ++ leBytes 4 r.number.toNat ++ leBytes 4 0

/-- The first of what waits to be written to a fault queue is written, when it can be: a record with PUT as one event, and an interrupt on vector 0 with
it; or LOST, one more (R308, R322, R366, R367, R380; log 32, DEDUCED). -/
def State.postNext (s : State) (p : BitVec 3) : State :=
  let x := s.part p
  match x.posts, s.ctxPa p 0 x.fqBase with
  | [], _ => s
  | _ :: rest, none => s.setPart p { x with posts := rest }
  | none :: rest, some base =>
    bif s.writeHeld (span (base + 8) 8) then s
    else (s.setPart p { x with posts := rest }).unitWrite (cellsAt (base + 8) (leBytes 8 (Nat.min (s.rdNat (base + 8) 8 + 1) (2 ^ 64 - 1))))
  | some r :: rest, some base =>
    let put := s.rdNat base 8
    match s.ctxPa p 0 (x.fqBase + BitVec.ofNat 64 (0x80 + 64 * (put % ringSize x.fqLog))) with
    | none => s.setPart p { x with posts := rest }
    | some pa =>
      bif s.writeHeld (span pa 64 ++ span base 8) then s
      else
        ((s.setPart p { x with posts := rest }).unitWrite (cellsAt pa r.bytes ++ cellsAt base (leBytes 8 (put + 1)))).msi p 0 0 r.type.toNat
/-- Each fault queue's first write that has waited tries again. -/
def State.postsGo (s : State) : State := allParts.foldl (fun s p => bif (s.part p).posts.isEmpty then s else s.postNext p) s

/-- A record posted, to be written in its turn; dropped and counted in LOST when the ring is full; nothing when the queue is disabled or its ring
cannot be reached (R366, R367). -/
def State.post (s : State) (p : BitVec 3) (r : FaultRec) : State :=
  let x := s.part p
  bif !x.fqEn || (s.ctxPa p 0 x.fqBase).isNone then s
  else bif s.fqRoom p then
    let r := { r with seq := x.seq, stamp := BitVec.ofNat 64 s.tstamp }
    (s.setPart p { x with seq := x.seq + 1, posted := r :: x.posted, posts := x.posts ++ [some r]
                          await := bif r.await then x.await ++ [r] else x.await }).postNext p
  else (s.setPart p { x with posts := x.posts ++ [none] }).postNext p

/-- A record about the core's step (R366). -/
def State.recOf (s : State) (type : BitVec 8) (await : Bool) (addr : Word64) (aux : Word32) (tstat : Word32) (tfpc tval : Word64) : FaultRec :=
  { type := type, await := await, seq := 0, core := s.corenum, addr := addr, stamp := 0, tstat := tstat, aux := aux, tfpc := tfpc,
    tval := tval, block := match s.core.ctx.running with | some i => i.block | none => 0,
    number := match s.core.ctx.running with | some i => BitVec.ofNat 32 i.number | none => 0,
    queue := s.core.ctx.running.bind (·.queue), vf := s.core.ctx.vf }

/-- A record that no step raised. -/
def plainRec (type : BitVec 8) (addr : Word64) (aux : Word32) (tval : Word64) : FaultRec :=
  { type := type, await := false, seq := 0, core := 0, addr := addr, stamp := 0, tstat := 0, aux := aux, tfpc := 0, tval := tval,
    block := 0, number := 0, queue := none, vf := 0 }

/-- A memory record, to the owner of the row group or to the package's log (R332). -/
def State.memRec (s : State) (type : BitVec 8) (pa : Nat) : State :=
  let r := plainRec type (BitVec.ofNat 64 (lineOf pa * 128)) 0 0
  match s.ownerOf pa with
  | some p => s.post p r
  | none => { s with pkg := { s.pkg with log := { r with stamp := BitVec.ofNat 64 s.tstamp } :: s.pkg.log } }

/-- A write that is not one whole-line event, of bytes that need not follow one another (R143, R153): bytes merge into a poisoned line, and a
poison-merge record for each goes to the owner (R330). -/
def State.storeCells (s : State) (cs : List Host.Cell) (o : Owner) (dev : Bool) : State :=
  let hit := ((cs.filter fun c => s.poisoned c.1).map fun c => lineOf (s.norm c.1)).eraseDups
  hit.foldl (fun s l => s.memRec 0x21 (l * 128)) (s.memWrite cs o dev false)
/-- The same write of bytes that follow one another. -/
def State.store (s : State) (pa : Nat) (bs : List Byte) (o : Owner) (dev : Bool) : State := s.storeCells (cellsAt pa bs) o dev

/-- A write of a unit that merges into a poisoned line (R330). -/
def State.unitStore (s : State) (cs : List Host.Cell) : State := (s.atMsc (cs.map (·.1))).storeCells cs none false

/-- The count of a FIFO's pops at which the first token pushed from now on has been popped. -/
def Fifo.next (f : Fifo) : Nat := f.out + f.occ + f.res + 1
/-- What covers a write that L, S or V makes now: the first token or entry that comes to C from now on (R317; log 19, DEDUCED). -/
def State.coverNow (s : State) : Cover := ⟨(s.fifo 1).next, (s.fifo 6).next, s.core.q.vOut + s.core.q.qvc.length + 1⟩
/-- A write is covered: C has popped a token or an entry that came after it (R317). -/
def State.covered (s : State) (c : Cover) : Bool :=
  decide (c.l ≤ (s.fifo 1).out) || decide (c.s ≤ (s.fifo 6).out) || decide (c.v ≤ s.core.q.vOut)
/-- The bytes that an agent of this core has just written wait for fence.s under a cover (R317). -/
def State.coverAt (s : State) (c : Cover) (pas : List Nat) : State :=
  let pas := pas.map s.norm
  s.setMem { s.mem with stale := s.mem.stale.map fun x => bif pas.contains x.1 then (x.1, x.2.under c) else x }
/-- The step leaves the core: all that its agents have written and contributed counts as covered (log 19, DEDUCED). -/
def State.coverAll (s : State) : State :=
  let s := s.setMem { s.mem with stale := s.mem.stale.map fun x => (x.1, x.2.allCovered) }
  s.setPkg { s.pkg with red := s.pkg.red.map fun c => { c with need := 0 } }

/-- C's pending store takes place (R310). -/
def State.flushStore (s : State) : State :=
  match s.core.c.store with
  | none => s
  | some st => ((s.setC { s.core.c with store := none }).orderAt 0 true st.pa).store st.pa st.bytes s.me true

/-! ### The retirement of a C word -/

/-- The retirement of a C word that pops its sources, writes its destination and goes on at `pc` (R94); a port push places
the pending store first (R310). -/
def State.cRetire (s : State) (srcs : List XReg) (dst : XReg) (v pc : Word64) : State :=
  let s := bif !s.sup && decide (24 ≤ dst.toNat ∧ dst.toNat ≤ 27) then s.flushStore else s
  ((s.xPop srcs).xWrite dst v).cGo pc

/-- The PC of C's next word. -/
def State.pc4 (s : State) : Word64 := s.core.c.pc + 4

/-- A C word that only computes: it stalls at its ports, or writes its result and goes on (R93, R94). -/
def State.cExec (s : State) (srcs : List XReg) (dst : XReg) (v : Word64) : Out :=
  .next (bif s.cReady srcs dst then s.cRetire srcs dst v s.pc4 else s.cStall)

/-! ### Replay (R405) -/

/-- The record that replay has reached. -/
def State.repNext (s : State) (p : BitVec 3) : Nat × Nat × Nat × Nat × Nat := s.repAt p (s.part p).repPos.toNat

/-- The first number from one on that is not listed; at most as many steps as there are entries. -/
def skipDone (done : List Nat) : Nat → Nat → Nat
  | 0, i => i
  | n + 1, i => bif done.contains i then skipDone done n (i + 1) else i
/-- A record consumed: POS stands at the first that is not. -/
def State.repTakeAt (s : State) (p : BitVec 3) (i : Nat) : State :=
  let x := s.part p
  let pos := x.repPos.toNat
  bif i == pos then
    let q := skipDone x.repDone x.repDone.length (pos + 1)
    s.setPart p { x with repPos := BitVec.ofNat 48 q, repDone := x.repDone.filter fun j => decide (q < j) }
  else s.setPart p { x with repDone := i :: x.repDone }
/-- The record that replay has reached, consumed. -/
def State.repTake (s : State) (p : BitVec 3) : State := s.repTakeAt p (s.part p).repPos.toNat

/-- This core's next record of these types: its strands' records stand in the order of each strand alone (R405; log 56, DEDUCED). -/
def State.repMine (s : State) (p : BitVec 3) (types : List Nat) : Option Nat :=
  s.repFind p fun r => r.2.1 == s.corenum.toNat && types.contains r.1

/-- The stage of the bundle that V stands before: j for a guard p(j+1), else 0 (R301). -/
def State.vStage (s : State) : Nat :=
  let va := s.core.v.pc
  let bytes := match s.core.v.held.find? fun h => h.1 == va with
    | some h => some h.2
    | none => (s.ctxPa s.core.ctx.part s.core.ctx.vf va).map fun pa => s.rdBytes pa 16
  match bytes with
  | some bs => match decode (unitOf .v bs) with
    | .ok i => match i.bundle with | some b => b.guard.toNat - 1 | none => 0
    | .error _ => 0
  | none => 0
/-- The V position that stops, samples and traces name: loop id, iteration minus stage, and stage (R301). -/
def State.vPos (s : State) : BitVec 8 × Word32 × BitVec 8 :=
  let j := s.vStage
  match s.core.v.loops with
  | l :: _ => (l.id, l.index - BitVec.ofNat 32 j, BitVec.ofNat 8 j)
  | [] => (0, 0, BitVec.ofNat 8 j)
/-- The record of a stop: where V stands, the drain of its cut, and the items of R27 that the cut applies (R272, R301). -/
def State.stopRec (s : State) (drain why : Nat) (items : List Nat) : StopRec :=
  let p := s.vPos
  ⟨s.core.v.pc, s.core.csr.tick.toNat, drain, why, items, p.1, p.2.1, p.2.2⟩

/-- A turn that waits at memory: it comes again after those that wait there already (log 2, DESIGN CHOICE). -/
def State.again (s : State) (t : Turn) : State := { s with waits := s.waits ++ [t] }

/-- The core acknowledges a breakpoint patch: for this core chxdbg's command returns (R302). -/
def State.acked (s : State) : State :=
  bif s.core.dbg.unacked then (s.setDbg { s.core.dbg with unacked := false, patchAt := none }).show [0x105, s.corenum.toNat] else s
/-- An idle core acknowledges a patch at once; one that has not done so within 10 ms is reported (R302). -/
def State.patchMoves (s : State) : State :=
  bif !s.stepOn then s.acked
  else
    match s.core.dbg.patchAt with
    | some t => bif decide (t + 10000000 ≤ s.tstamp) then (s.setDbg { s.core.dbg with patchAt := none }).show [0x106, s.corenum.toNat] else s
    | none => s

/-- Replay diverged: DIV is set, the partition's cores stop as by a debugger stop, vector 3 is sent, and chxdbg is shown the record and the event that
does not match it (R405; log 27, DESIGN CHOICE). -/
def State.diverge (s : State) (p : BitVec 3) (r : Nat × Nat × Nat × Nat × Nat) (event : List Nat) : State :=
  let mine := s.sitePart == some p || (s.stepOn && s.myPart == p)
  let s := ((s.setPart p { s.part p with repDiv := true }).msiRaw p 0 3 3).show ([0x107, r.1, r.2.1, r.2.2.1, r.2.2.2.1, r.2.2.2.2] ++ event)
  let d := s.core.dbg
  bif mine then s.setDbg { d with stopped := true, stops := d.stops ++ [s.stopRec 0 1 []] } else s

/-- What a turn's record of an order comes to: it is written; under replay, the one that stands in the buffer is consumed (R404, R405). -/
def State.orderGo (s : State) (x : BitVec 3 × Nat × Nat) : State :=
  let p := x.1
  let addr := x.2.1 * 128
  bif (s.part p).repMode == 2 then
    match s.repFind p fun r => r.1 == 6 && r.2.2.2.1 == addr && r.2.2.2.2 == x.2.2 % 2 ^ 64 with
    | some i => s.repTakeAt p i
    | none => s
  else s.record p 6 0 (BitVec.ofNat 64 s.tstamp) (BitVec.ofNat 64 addr) (BitVec.ofNat 64 x.2.2)
/-- The records of the orders of a turn's accesses. -/
def State.ordersGo (s : State) : State :=
  match s.mem.order with
  | some b => bif b.due.isEmpty then s else b.due.foldl State.orderGo (s.setMem { s.mem with order := some { b with due := [] } })
  | none => s

/-- A replayed input of C: its data when C's next record has its type and key; divergence otherwise. Out of replay the live value stands and is
recorded (R404, R405). -/
def State.replayed (s : State) (type : Nat) (key addr live : Word64) : State × Word64 :=
  let p := s.core.ctx.part
  bif (s.part p).repMode == 2 then
    let event := [type, s.corenum.toNat, key.toNat, addr.toNat, live.toNat]
    match s.repMine p [4, 7] with
    | some i =>
      let r := s.repAt p i
      bif r.1 == type && r.2.2.1 == key.toNat then (s.repTakeAt p i, BitVec.ofNat 64 r.2.2.2.2) else (s.diverge p r event, live)
    | none => (s.diverge p (s.repNext p) event, live)
  else (s.record p type s.corenum key addr live, live)

/-- The key of C's events: C words retired in the step (R404). -/
def State.cKey (s : State) : Word64 := BitVec.ofNat 64 s.core.ctx.cWords

/-! ### Leaving the core by a fault (R41, R120, R364, R365, R368) -/

/-- A stream register as its step ends: ACTIVE is 0 (R153). -/
def Desc.ended (d : Desc) : Desc := { d with ctl := d.ctl &&& 0xbfff }
/-- The step's strands off the core: no step runs, nothing of it stays in a queue or an engine, and no cause of it pends; a store that C has
retired takes place (R310, R362, R363). -/
def State.emptyCore (s : State) : State :=
  let s := s.flushStore.coverAll
  let k := s.core
  { s with core := { k with
      c := { k.c with run := .ended, blocked := false, watch := .none, arrived := Vector.replicate 4 none, mid := 0, held := [] }
      l := { k.l with ended := true, blocked := false, waits := false, loops := [], pend := [], held := [] }
      s := { k.s with ended := true, blocked := false, waits := false, loops := [], pend := [], held := [] }
      v := { k.v with ended := true, blocked := false, loops := [], flight := [], stretch := none, halted := false, look := false, lookYield := false, lookDue := false, atCut := false,
                      drain := false, drained := 0, held := [] }
      q := Queues.empty
      trap := { k.trap with mode := false, pm := false, frz := false, wait := none, noStep := .no, dog := 0, pend := 0, moved := 15 }
      str := k.str.map Desc.ended
      eng := { k.eng with copy := [], gather := [], wstore := [] }
      mig := { k.mig with table := Vector.replicate 8 none }
      ctx := { k.ctx with running := none, newCode := false, yield_ := none, leave := none, bindOff := false, prev := none } } }

/-- A step is of the block of a queue at an address. -/
def StepId.of (i : StepId) (q : BitVec 6) (a : Word64) : Bool := i.queue == some q && i.block == a
/-- Two steps are of one block. -/
def StepId.same (i j : StepId) : Bool := i.queue.isSome && i.queue == j.queue && i.block == j.block
/-- A block of a partition, by its queue and its address: one that has not failed first. -/
def Part.block (x : Part) (q : BitVec 6) (a : Word64) : Option Block :=
  match x.blocks.find? fun b => b.queue == q && b.addr == a && !b.failed with
  | some b => some b
  | none => x.blocks.find? fun b => b.queue == q && b.addr == a
/-- The block of a step; a launched one has none. -/
def Part.blockOf (x : Part) (i : StepId) : Option Block := i.queue.bind fun q => x.block q i.block
/-- A block replaced. -/
def Part.setBlock (x : Part) (b : Block) : Part :=
  { x with blocks := x.blocks.map fun c => bif c.queue == b.queue && c.addr == b.addr && c.failed == b.failed then b else c }
/-- A gang's block whose steps all run again: its counts start afresh, and its members start together again (R179, R284). -/
def Block.afresh (b : Block) : Block :=
  { b with exc := Vector.replicate 12 0, ended := none, others := b.alone && b.sole, mates := b.sole }

/-- A record of a fault of the step on the core (R366, R368). -/
def State.isMine (s : State) (r : FaultRec) : Bool :=
  match s.core.ctx.running with
  | some i => r.core == s.corenum && r.type != 0x34 && r.block == i.block && r.number == BitVec.ofNat 32 i.number && r.queue == i.queue &&
      r.vf == s.core.ctx.vf
  | none => false

/-- A step abandoned: its faults wait for no answer, near-bank commands that no unit has started are discarded, and running ones
stop at their next row boundary (R195, R350, R362, R368). -/
def State.offCore (s : State) : State :=
  let p := s.core.ctx.part
  let x := s.part p
  let s := s.setPart p { x with await := x.await.filter fun r => !s.isMine r }
  let n := s.core.nb
  let s := s.setNb { n with cmds := (n.cmds.filter (·.running)).map fun c => { c with gone := true, fault := none } }
  s.emptyCore

/-- A block that failed, by its queue and its address: it places no further steps, makes no completion write and releases no successor
(R365). -/
def Part.fail (x : Part) (q : BitVec 6) (blk : Word64) : Part :=
  { x with blocks := x.blocks.map fun b => bif b.queue == q && b.addr == blk then { b with failed := true } else b }

/-- A step fails: its block fails, and a record of type 0x35 is posted; of a launched step chxdbg is told (R274, R365). -/
def State.failStep (s : State) (p : BitVec 3) (id : StepId) : State :=
  match id.queue with
  | none => s.show [0x35]
  | some q =>
    let s := s.setPart p (((s.part p).fail q id.block).doneNow q s.tstamp)
    s.post p { plainRec 0x35 id.block 0 0 with core := s.corenum, block := id.block, number := BitVec.ofNat 32 id.number }

/-- A gang abandoned: its block afresh, and its barrier counters of levels 0 and 1 from their start (R284, R293). -/
def State.gangReset (s : State) (i : StepId) : State :=
  let p := s.core.ctx.part
  match (s.part p).blockOf i with
  | some b =>
    let s := s.setPart p ((s.part p).setBlock b.afresh)
    s.setPkg { s.pkg with bars := s.pkg.bars.filter fun x => !(x.level == 0 && x.group.toNat == b.group0) && !(x.level == 1 && x.group.toNat == b.group1) }
  | none => s

/-- An abandonment: the step leaves the core and re-runs from its cast-on record, or fails (R362, R364, R365; log 63, DESIGN CHOICE). -/
def State.abandonStep (s : State) (faultPath : Bool) : State :=
  match s.core.ctx.running, s.core.ctx.cast with
  | some id, some cast =>
    let ctx := s.core.ctx
    let n := id.abandons + 1
    let s := bif id.gang then s.gangReset id else s
    let s := s.offCore
    bif decide (8 ≤ n) || (faultPath && !id.rst) then s.failStep ctx.part { id with abandons := n }
    else
      s.setCtx { s.core.ctx with slots := ⟨{ id with abandons := n }, cast, ctx.part, ctx.vf, [], [], [], 0, true, .staging⟩ :: ctx.slots }
  | _, _ => s.offCore

/-! ### Taking a trap (R30 to R42) -/

/-- The line of a watch. -/
def Watch.line : Watch → Nat
  | .none => 0
  | .armed l => l
  | .fired l => l
  | .lost l => l

/-- An mwait that ends: its watch is disarmed, its register holds the reason, the return is recorded, and C goes on (R298, R404). -/
def State.endMwait (s : State) (reason : Nat) : State :=
  match s.core.c.run with
  | .mwait xd _ =>
    let s := s.record s.core.ctx.part 7 s.corenum s.cKey (BitVec.ofNat 64 (128 * s.core.c.watch.line)) (BitVec.ofNat 64 reason)
    let s := s.setC { s.core.c with watch := .none }
    s.cRetire [] xd (BitVec.ofNat 64 reason) s.pc4
  | _ => s

/-- TAKING A TRAP: mode and status are saved and changed, the cause and what it reports are written, and C goes on at TVEC
with L, V and S frozen in place (R30, R34). -/
def State.takeTrap (s : State) (k : Strand) (cause : BitVec 8) (tfpc tval tepc : Word64) : State :=
  let s := s.flushStore
  let t := s.core.trap
  let tq := bif cause == 0x11 || cause == 0x14 then s.tqoccNow else t.tqocc
  { s with core := { s.core with
      trap := { t with pm := t.mode, mode := true, cause := cause, strand := strandCode k, frz := true, tfpc := tfpc, tval := tval,
                       tepc := tepc, tqocc := tq, wait := none, dog := 0 }
      c := { s.core.c with pc := t.tvec, run := .ready, blocked := false } } }

/-- A trap at C's instruction boundary: an mwait in which C sleeps has issued and popped its port (R17), so it returns first, with reason 4. R298 gives
that reason to asynchronous causes and pre-emptions; a cause of L, V or S that freezes a core asleep in mwait, of which no rule speaks, is taken in
the same way (log 75, DESIGN CHOICE). -/
def State.trapNow (s : State) (k : Strand) (cause : BitVec 8) (tfpc tval : Word64) : State :=
  let s := s.endMwait 4
  s.takeTrap k cause tfpc tval s.core.c.pc

/-- A trap with no step running (R42): PM, STRAND and TFPC are 0, and nothing is frozen. -/
def State.takeTrapNoStep (s : State) (why : NoStep) (cause : BitVec 8) (tval tepc tvec : Word64) (tq : Word32) : State :=
  let t := s.core.trap
  { s with core := { s.core with
      trap := { t with pm := false, mode := true, cause := cause, strand := 0, frz := false, tfpc := 0, tval := tval, tepc := tepc,
                       tvec := tvec, tqocc := tq, wait := none, noStep := why, dog := 0 }
      c := { s.core.c with pc := tvec, run := .ready, blocked := false } } }

/-- The core between steps, after a trap of R42. -/
def State.betweenSteps (s : State) : State :=
  let t := s.core.trap
  { s with core := { s.core with
      trap := { t with mode := false, pm := false, frz := false, noStep := .no }
      c := { s.core.c with run := .ended, blocked := false } } }

/-- A double trap: a record of type 0x30 with what the new cause would have shown, and the step is abandoned (R41, R42). -/
def State.doubleTrap (s : State) (k : Strand) (cause : BitVec 8) (tfpc tval : Word64) : State :=
  let s := s.flushStore
  let t := s.core.trap
  let ts := tstatWord { t with cause := cause, strand := strandCode k, mode := true }
  let s' := s.post s.core.ctx.part (s.recOf 0x30 false 0 (t.cause.setWidth 32) ts tfpc tval)
  match t.noStep with
  | .no => s'.abandonStep true
  | _ => s'.betweenSteps

/-- A strand holds at its unit, unretired. -/
def State.hold (s : State) (k : Strand) : State :=
  match k with
  | .c => s.cStall
  | .l => s.setLS .l { s.core.l with blocked := true }
  | .s => s.setLS .s { s.core.s with blocked := true }
  | .v => s.setV { s.core.v with blocked := true }

/-- A fault of this cause is forwarded, when its bit is set and the ring has room (R366, R367). -/
def State.forwards (s : State) (cause : BitVec 8) : Bool :=
  let x := s.part s.core.ctx.part
  (((cause == 0x06 || cause == 0x07 || cause == 0x16) && x.fwdC) || (cause == 0x08 && x.fwdS)) && s.fqRoom s.core.ctx.part

/-- A SYNCHRONOUS CAUSE raised by a strand: a double trap in supervisor mode (R41); held behind a freeze already waited for
(R31, log 17, DEDUCED); forwarded (R367); waiting for its freeze (R31); or a trap at once (R30, R32). -/
def State.raise (s : State) (k : Strand) (cause : BitVec 8) (tval tfpc : Word64) (aux : Word32 := 0) (addr : Word64 := tval) : State :=
  bif s.sup then s.doubleTrap k cause tfpc tval
  else bif s.core.trap.wait.isSome then s.hold k
  else bif s.forwards cause then
    let seq := (s.part s.core.ctx.part).seq
    let s := s.post s.core.ctx.part (s.recOf cause true addr aux 0 tfpc tval)
    let s := s.hold k
    s.setTrap { s.core.trap with wait := some ⟨cause, k, tfpc, tval, 0, some seq, cause == 0x16, false⟩ }
  else bif cause == 0x06 || cause == 0x07 || cause == 0x08 then
    let s := s.hold k
    s.setTrap { s.core.trap with wait := some ⟨cause, k, tfpc, tval, 0, none, false, false⟩ }
  else s.trapNow k cause tfpc tval

/-- A cause raised by C's word at its PC. -/
def State.cRaise (s : State) (cause : BitVec 8) (tval : Word64) : State := s.raise .c cause tval s.core.c.pc

/-- The core may take an asynchronous cause now: task mode, no freeze waited for, not stopped, a step running (R39, R40). One raised in task mode
while a freeze of 0x06, 0x07 or 0x08 is waited for, for which no rule gives the order, sets its PEND bit and is taken after that trap's eret (log 17,
DEDUCED). -/
def State.asyncNow (s : State) : Bool := !s.sup && s.core.trap.wait.isNone && !s.core.dbg.stopped && s.stepOn

/-- A PEND bit set, with the TVAL it keeps (R39). -/
def State.setPend (s : State) (bit : Nat) (tval : Word64) : State :=
  let t := s.core.trap
  s.setTrap { t with pend := t.pend ||| (1#7 <<< bit), kept := vset t.kept bit tval }

/-- The cause of a PEND bit (R34). -/
def pendCause (bit : Nat) : BitVec 8 :=
  match bit with
  | 0 => 0x0e | 1 => 0x0f | 2 => 0x10 | 3 => 0x11 | 4 => 0x14 | 5 => 0x15 | _ => 0

/-- A pending asynchronous cause taken at C's instruction boundary, after an mwait in progress returns (R39, R95, R298). -/
def State.takePending (s : State) (bit : Nat) : State :=
  let t := s.core.trap
  let s := s.setTrap { t with pend := t.pend &&& ~~~(1#7 <<< bit) }
  s.trapNow .c (pendCause bit) 0 (vget t.kept bit 0)
/-- The lowest PEND bit that is set. -/
def lowestPend (p : BitVec 7) : Option Nat := (List.range 7).find? fun i => p.getLsbD i
/-- The causes 0x0e, 0x0f and 0x10 that the ephemeris and the tension unit have raised in a cycle freeze the core at its end, the lowest
first (R31, R39, R246, R249). -/
def State.endCauses (s : State) : State :=
  match lowestPend s.core.trap.pend with
  | some i => bif s.asyncNow && decide (i < 3) then s.takePending i else s
  | none => s

/-- An asynchronous cause: taken at C's instruction boundary in task mode, after an mwait in progress returns; pending
otherwise (R39, R95, R298). -/
def State.async (s : State) (bit : Nat) (tval : Word64) : State :=
  bif s.asyncNow then s.trapNow .c (pendCause bit) 0 tval
  else s.setPend bit tval

/-- A fault that stopped a unit and is neither delivered nor forwarded. -/
def UnitFault.waits (f : UnitFault) : Bool := !f.delivered && f.seq.isNone
/-- An optional fault waits for delivery. -/
def faultWaits (f : Option UnitFault) : Bool := match f with | some f => f.waits | none => false
/-- Marks a waiting fault delivered. -/
def faultDeliver (f : Option UnitFault) : Option UnitFault := f.map fun f => bif f.waits then { f with delivered := true } else f
/-- A delivered fault is released by the eret that ends its handler (R40, R195). -/
def faultRelease (f : Option UnitFault) : Option UnitFault := match f with | some f => bif f.delivered then none else some f | none => none

/-- The first stopped unit with an undelivered fault, in the order copy engine, gather engine, migrate unit, near-bank
commands (R40): its fault, and the core with it marked delivered. -/
def Core.nextUnitFault (k : Core) : Option (UnitFault × Core) :=
  match k.eng.copy.find? fun c => faultWaits c.fault with
  | some c => c.fault.map fun f => (f, { k with eng := { k.eng with copy := k.eng.copy.map fun c => { c with fault := faultDeliver c.fault } } })
  | none =>
    match k.eng.gather.find? fun c => faultWaits c.fault with
    | some c => c.fault.map fun f => (f, { k with eng := { k.eng with gather := k.eng.gather.map fun c => { c with fault := faultDeliver c.fault } } })
    | none =>
      match (List.range 8).find? fun i => match vget k.mig.table i none with | some e => faultWaits e.fault | none => false with
      | some i =>
        match vget k.mig.table i none with
        | some e => e.fault.map fun f => (f, { k with mig := { k.mig with table := vset k.mig.table i (some { e with fault := faultDeliver e.fault }) } })
        | none => none
      | none =>
        match (List.range k.nb.cmds.length).find? fun i => match k.nb.cmds[i]? with | some c => faultWaits c.fault | none => false with
        | some i =>
          match k.nb.cmds[i]? with
          | some c => c.fault.map fun f => (f, { k with nb := { k.nb with cmds := k.nb.cmds.set i { c with fault := faultDeliver c.fault } } })
          | none => none
        | none => none

/-- A stopped unit's fault is given its trap, and bit 22 is set again while another waits (R40). -/
def State.unitTrap (s : State) : State :=
  match s.core.nextUnitFault with
  | none => s.setTrap { s.core.trap with pend := s.core.trap.pend &&& 0x3f }
  | some (f, k) =>
    let s := { s with core := k }.trapNow .c f.cause 0 f.tval
    let more := s.core.nextUnitFault.isSome
    s.setTrap { s.core.trap with pend := bif more then s.core.trap.pend ||| 0x40 else s.core.trap.pend &&& 0x3f }

/-- The engine-delivered fault taken (R40); an ecw store's 0x07 waits for its freeze, with C halted, as C's own 0x07 does, and stays undelivered until
then (R31). -/
def State.takeUnitFault (s : State) : State :=
  match s.core.nextUnitFault with
  | some (f, _) =>
    bif f.cause == 0x07 then
      let s := s.endMwait 4
      s.setTrap { s.core.trap with wait := some ⟨f.cause, .c, 0, f.tval, 0, none, false, true⟩, pend := s.core.trap.pend ||| 0x40 }
    else s.unitTrap
  | none => s.unitTrap

/-- A unit has stopped with a fault: it is delivered now, or bit 22 is set (R40). -/
def State.deliverUnits (s : State) : State :=
  bif s.core.nextUnitFault.isNone then s
  else bif s.asyncNow then s.takeUnitFault
  else s.setTrap { s.core.trap with pend := s.core.trap.pend ||| 0x40 }

/-- RETURNING FROM A TRAP: the mode and C's PC are restored, L, V and S are released, and so is each unit whose fault this
handler was given (R30, R40, R117); with no step, the core is between steps again (R42). -/
def State.doEret (s : State) : State :=
  let t := s.core.trap
  match t.noStep with
  | .no =>
    let k := s.core
    { s with core := { k with
        trap := { t with mode := t.pm, frz := false, dog := 0 }
        c := { k.c with pc := t.tepc &&& ~~~3, run := .ready, blocked := false }
        l := { k.l with blocked := false }
        s := { k.s with blocked := false }
        v := { k.v with blocked := false }
        eng := { k.eng with copy := k.eng.copy.map fun c => { c with fault := faultRelease c.fault },
                            gather := k.eng.gather.map fun c => { c with fault := faultRelease c.fault } }
        mig := { k.mig with table := k.mig.table.map fun e => e.map fun e => { e with fault := faultRelease e.fault } }
        nb := { k.nb with cmds := k.nb.cmds.map fun c => { c with fault := faultRelease c.fault } } } }
  | _ => s.betweenSteps

/-! ### A failing access of C (R102, R106, R110) -/

/-- The cause and TVAL of a failing access at a virtual address, with the page-fault cause of its source; one that waits has none. -/
def xfailCause (f : XFail) (page : BitVec 8) (va : Word64) : BitVec 8 × Word64 :=
  match f with
  | .noTrans => (page, va)
  | .prot => (0x0b, va)
  | .guard row => (0x0a, BitVec.ofNat 64 row)
  | .poison pa => (0x13, BitVec.ofNat 64 pa)
  | .remote => (0x15, va)
  | .waits => (0, va)

/-- C's access has failed. Cause 0x15 is asynchronous (R36) though C's own access raised it: it is taken before anything follows, with the word
unretired; in supervisor mode, where the spec does not say whether the word retires, the model has it set PEND bit 21 and try again at its
PC; of a remote atomic that fails so, R106 leaves open whether it took effect at the home, and in the model it has not (log 68, DESIGN
CHOICE). -/
def State.cFail (s : State) (f : XFail) (page : BitVec 8) (va : Word64) : State :=
  let r := xfailCause f page va
  match f with
  | .remote => let s := s.reqOver; bif s.asyncNow then s.takeTrap .c 0x15 s.core.c.pc va s.core.c.pc else s.setPend 5 va
  | .waits => s.cStall
  | _ => s.cRaise r.1 r.2

/-! ### Streams and latency symbols, by number -/

/-- The stream registers, and as many symbols. -/
def allStreams : List SReg := [0, 1, 2, 3, 4, 5, 6, 7]
/-- A symbol. -/
def State.sym (s : State) (i : BitVec 3) : Sym := s.core.csr.sym.get ⟨i.toNat, i.isLt⟩
/-- A symbol replaced. -/
def State.setSym (s : State) (i : BitVec 3) (x : Sym) : State := s.setCsr { s.core.csr with sym := s.core.csr.sym.set i.toNat x i.isLt }

end Sys2Proof.Machine
end

