-- ==== Sys2Proof/Machine/CAlu.lean ====
section
/-! DEFINITION. C's integer register and immediate instructions (R93 to R100, R121): a result formed exactly and cut to 64
bits, written at retirement. -/

namespace Sys2Proof.Machine

/-- Signed quotient toward zero, with the corner cases of R97. -/
def divS (a b : Word64) : Word64 := if b = 0 then BitVec.allOnes 64 else BitVec.ofInt 64 (a.toInt.tdiv b.toInt)
/-- Signed remainder with the sign of `a` (R96, R97). -/
def remS (a b : Word64) : Word64 := if b = 0 then a else BitVec.ofInt 64 (a.toInt.tmod b.toInt)
/-- Unsigned quotient (R96, R97). -/
def divU (a b : Word64) : Word64 := if b = 0 then BitVec.allOnes 64 else BitVec.ofNat 64 (a.toNat / b.toNat)
/-- Unsigned remainder (R96, R97). -/
def remU (a b : Word64) : Word64 := if b = 0 then a else BitVec.ofNat 64 (a.toNat % b.toNat)
/-- Leading zeros among the low `n` bits, from bit n-1 down. -/
def lead0 (a : Word64) : Nat → Nat
  | 0 => 0
  | n + 1 => bif a.getLsbD n then 0 else lead0 a n + 1
/-- Trailing zeros from bit `i` up, among `n` bits. -/
def trail0 (a : Word64) (i : Nat) : Nat → Nat
  | 0 => 0
  | n + 1 => bif a.getLsbD i then 0 else trail0 a (i + 1) n + 1
/-- Ones among the low `n` bits. -/
def ones (a : Word64) : Nat → Nat
  | 0 => 0
  | n + 1 => (a.getLsbD n).toNat + ones a n
/-- The eight bytes in reverse order. -/
def byteSwap (a : Word64) : Word64 := BitVec.ofNat 64 (leNat (leBytes 8 a.toNat).reverse)


/-- The result of add (R96). -/
def addVal (a b : Word64) : Word64 := a + b
/-- add xd, xa, xb. -/
def execAdd (xd xa xb : XReg) (s : State) : Out := s.cExec [xa, xb] xd (addVal (s.xRead xa) (s.xRead xb))

/-- The result of sub (R96). -/
def subVal (a b : Word64) : Word64 := a - b
/-- sub xd, xa, xb. -/
def execSub (xd xa xb : XReg) (s : State) : Out := s.cExec [xa, xb] xd (subVal (s.xRead xa) (s.xRead xb))

/-- The result of and (R96). -/
def andVal (a b : Word64) : Word64 := a &&& b
/-- and xd, xa, xb. -/
def execAnd (xd xa xb : XReg) (s : State) : Out := s.cExec [xa, xb] xd (andVal (s.xRead xa) (s.xRead xb))

/-- The result of or (R96). -/
def orVal (a b : Word64) : Word64 := a ||| b
/-- or xd, xa, xb. -/
def execOr (xd xa xb : XReg) (s : State) : Out := s.cExec [xa, xb] xd (orVal (s.xRead xa) (s.xRead xb))

/-- The result of xor (R96). -/
def xorVal (a b : Word64) : Word64 := a ^^^ b
/-- xor xd, xa, xb. -/
def execXor (xd xa xb : XReg) (s : State) : Out := s.cExec [xa, xb] xd (xorVal (s.xRead xa) (s.xRead xb))

/-- The result of andn (R96). -/
def andnVal (a b : Word64) : Word64 := a &&& ~~~b
/-- andn xd, xa, xb. -/
def execAndn (xd xa xb : XReg) (s : State) : Out := s.cExec [xa, xb] xd (andnVal (s.xRead xa) (s.xRead xb))

/-- The result of sll (R96: shift counts are bits [5:0]). -/
def sllVal (a b : Word64) : Word64 := a <<< (b.toNat % 64)
/-- sll xd, xa, xb. -/
def execSll (xd xa xb : XReg) (s : State) : Out := s.cExec [xa, xb] xd (sllVal (s.xRead xa) (s.xRead xb))

/-- The result of srl (R96). -/
def srlVal (a b : Word64) : Word64 := a >>> (b.toNat % 64)
/-- srl xd, xa, xb. -/
def execSrl (xd xa xb : XReg) (s : State) : Out := s.cExec [xa, xb] xd (srlVal (s.xRead xa) (s.xRead xb))

/-- The result of sra (R96). -/
def sraVal (a b : Word64) : Word64 := a.sshiftRight (b.toNat % 64)
/-- sra xd, xa, xb. -/
def execSra (xd xa xb : XReg) (s : State) : Out := s.cExec [xa, xb] xd (sraVal (s.xRead xa) (s.xRead xb))

/-- The result of slt (R96). -/
def sltVal (a b : Word64) : Word64 := ofBool64 (a.slt b)
/-- slt xd, xa, xb. -/
def execSlt (xd xa xb : XReg) (s : State) : Out := s.cExec [xa, xb] xd (sltVal (s.xRead xa) (s.xRead xb))

/-- The result of sltn (R96). -/
def sltnVal (a b : Word64) : Word64 := ofBool64 (a.ult b)
/-- sltn xd, xa, xb. -/
def execSltn (xd xa xb : XReg) (s : State) : Out := s.cExec [xa, xb] xd (sltnVal (s.xRead xa) (s.xRead xb))

/-- The result of min (R96: signed). -/
def minVal (a b : Word64) : Word64 := bif a.slt b then a else b
/-- min xd, xa, xb. -/
def execMin (xd xa xb : XReg) (s : State) : Out := s.cExec [xa, xb] xd (minVal (s.xRead xa) (s.xRead xb))

/-- The result of max (R96: signed). -/
def maxVal (a b : Word64) : Word64 := bif a.slt b then b else a
/-- max xd, xa, xb. -/
def execMax (xd xa xb : XReg) (s : State) : Out := s.cExec [xa, xb] xd (maxVal (s.xRead xa) (s.xRead xb))

/-- The result of minn (R96: unsigned). -/
def minnVal (a b : Word64) : Word64 := bif a.ult b then a else b
/-- minn xd, xa, xb. -/
def execMinn (xd xa xb : XReg) (s : State) : Out := s.cExec [xa, xb] xd (minnVal (s.xRead xa) (s.xRead xb))

/-- The result of maxn (R96: unsigned). -/
def maxnVal (a b : Word64) : Word64 := bif a.ult b then b else a
/-- maxn xd, xa, xb. -/
def execMaxn (xd xa xb : XReg) (s : State) : Out := s.cExec [xa, xb] xd (maxnVal (s.xRead xa) (s.xRead xb))

/-- The result of mul (R96). -/
def mulVal (a b : Word64) : Word64 := a * b
/-- mul xd, xa, xb. -/
def execMul (xd xa xb : XReg) (s : State) : Out := s.cExec [xa, xb] xd (mulVal (s.xRead xa) (s.xRead xb))

/-- The result of mulh (R96: bits [127:64] of the signed product). -/
def mulhVal (a b : Word64) : Word64 := BitVec.ofInt 64 (a.toInt * b.toInt / 2 ^ 64)
/-- mulh xd, xa, xb. -/
def execMulh (xd xa xb : XReg) (s : State) : Out := s.cExec [xa, xb] xd (mulhVal (s.xRead xa) (s.xRead xb))

/-- The result of mulhn (R96: bits [127:64] of the unsigned product). -/
def mulhnVal (a b : Word64) : Word64 := BitVec.ofNat 64 (a.toNat * b.toNat / 2 ^ 64)
/-- mulhn xd, xa, xb. -/
def execMulhn (xd xa xb : XReg) (s : State) : Out := s.cExec [xa, xb] xd (mulhnVal (s.xRead xa) (s.xRead xb))

/-- The result of div (R96, R97). -/
def divVal (a b : Word64) : Word64 := divS a b
/-- div xd, xa, xb. -/
def execDiv (xd xa xb : XReg) (s : State) : Out := s.cExec [xa, xb] xd (divVal (s.xRead xa) (s.xRead xb))

/-- The result of divn (R96, R97). -/
def divnVal (a b : Word64) : Word64 := divU a b
/-- divn xd, xa, xb. -/
def execDivn (xd xa xb : XReg) (s : State) : Out := s.cExec [xa, xb] xd (divnVal (s.xRead xa) (s.xRead xb))

/-- The result of rem (R96, R97). -/
def remVal (a b : Word64) : Word64 := remS a b
/-- rem xd, xa, xb. -/
def execRem (xd xa xb : XReg) (s : State) : Out := s.cExec [xa, xb] xd (remVal (s.xRead xa) (s.xRead xb))

/-- The result of remn (R96, R97). -/
def remnVal (a b : Word64) : Word64 := remU a b
/-- remn xd, xa, xb. -/
def execRemn (xd xa xb : XReg) (s : State) : Out := s.cExec [xa, xb] xd (remnVal (s.xRead xa) (s.xRead xb))

/-- The result of clz (R96). -/
def clzVal (a : Word64) : Word64 := BitVec.ofNat 64 (lead0 a 64)
/-- clz xd, xa. -/
def execClz (xd xa : XReg) (s : State) : Out := s.cExec [xa] xd (clzVal (s.xRead xa))

/-- The result of ctz (R96). -/
def ctzVal (a : Word64) : Word64 := BitVec.ofNat 64 (trail0 a 0 64)
/-- ctz xd, xa. -/
def execCtz (xd xa : XReg) (s : State) : Out := s.cExec [xa] xd (ctzVal (s.xRead xa))

/-- The result of popc (R96). -/
def popcVal (a : Word64) : Word64 := BitVec.ofNat 64 (ones a 64)
/-- popc xd, xa. -/
def execPopc (xd xa : XReg) (s : State) : Out := s.cExec [xa] xd (popcVal (s.xRead xa))

/-- The result of bswap (R96). -/
def bswapVal (a : Word64) : Word64 := byteSwap a
/-- bswap xd, xa. -/
def execBswap (xd xa : XReg) (s : State) : Out := s.cExec [xa] xd (bswapVal (s.xRead xa))

/-- The result of addx: b shifted left by sh, added to a (R98). -/
def addxVal (a b : Word64) (sh : BitVec 5) : Word64 := a + (b <<< sh.toNat)
/-- addx xd, xa, xb, sh. -/
def execAddx (xd xa xb : XReg) (sh : BitVec 5) (s : State) : Out := s.cExec [xa, xb] xd (addxVal (s.xRead xa) (s.xRead xb) sh)

/-- The result of addi (R99). -/
def addiVal (a : Word64) (imm : BitVec 15) : Word64 := a + sext imm
/-- addi xd, xa, imm. -/
def execAddi (xd xa : XReg) (imm : BitVec 15) (s : State) : Out := s.cExec [xa] xd (addiVal (s.xRead xa) imm)

/-- The result of andi (R99). -/
def andiVal (a : Word64) (imm : BitVec 15) : Word64 := a &&& sext imm
/-- andi xd, xa, imm. -/
def execAndi (xd xa : XReg) (imm : BitVec 15) (s : State) : Out := s.cExec [xa] xd (andiVal (s.xRead xa) imm)

/-- The result of ori (R99). -/
def oriVal (a : Word64) (imm : BitVec 15) : Word64 := a ||| sext imm
/-- ori xd, xa, imm. -/
def execOri (xd xa : XReg) (imm : BitVec 15) (s : State) : Out := s.cExec [xa] xd (oriVal (s.xRead xa) imm)

/-- The result of xori (R99). -/
def xoriVal (a : Word64) (imm : BitVec 15) : Word64 := a ^^^ sext imm
/-- xori xd, xa, imm. -/
def execXori (xd xa : XReg) (imm : BitVec 15) (s : State) : Out := s.cExec [xa] xd (xoriVal (s.xRead xa) imm)

/-- The result of slli (R99). -/
def slliVal (a : Word64) (imm : BitVec 15) : Word64 := a <<< imm.toNat
/-- slli xd, xa, imm. -/
def execSlli (xd xa : XReg) (imm : BitVec 15) (s : State) : Out := s.cExec [xa] xd (slliVal (s.xRead xa) imm)

/-- The result of srli (R99). -/
def srliVal (a : Word64) (imm : BitVec 15) : Word64 := a >>> imm.toNat
/-- srli xd, xa, imm. -/
def execSrli (xd xa : XReg) (imm : BitVec 15) (s : State) : Out := s.cExec [xa] xd (srliVal (s.xRead xa) imm)

/-- The result of srai (R99). -/
def sraiVal (a : Word64) (imm : BitVec 15) : Word64 := a.sshiftRight imm.toNat
/-- srai xd, xa, imm. -/
def execSrai (xd xa : XReg) (imm : BitVec 15) (s : State) : Out := s.cExec [xa] xd (sraiVal (s.xRead xa) imm)

/-- The result of slti (R99). -/
def sltiVal (a : Word64) (imm : BitVec 15) : Word64 := ofBool64 (a.slt (sext imm))
/-- slti xd, xa, imm. -/
def execSlti (xd xa : XReg) (imm : BitVec 15) (s : State) : Out := s.cExec [xa] xd (sltiVal (s.xRead xa) imm)

/-- The result of sltni (R99). -/
def sltniVal (a : Word64) (imm : BitVec 15) : Word64 := ofBool64 (a.ult (sext imm))
/-- sltni xd, xa, imm. -/
def execSltni (xd xa : XReg) (imm : BitVec 15) (s : State) : Out := s.cExec [xa] xd (sltniVal (s.xRead xa) imm)

/-- The result of muli (R99). -/
def muliVal (a : Word64) (imm : BitVec 15) : Word64 := a * sext imm
/-- muli xd, xa, imm. -/
def execMuli (xd xa : XReg) (imm : BitVec 15) (s : State) : Out := s.cExec [xa] xd (muliVal (s.xRead xa) imm)

/-- The result of ldhi (R99). -/
def ldhiVal (a : Word64) (imm : BitVec 15) : Word64 := (a <<< 15) ||| imm.setWidth 64
/-- ldhi xd, xa, imm. -/
def execLdhi (xd xa : XReg) (imm : BitVec 15) (s : State) : Out := s.cExec [xa] xd (ldhiVal (s.xRead xa) imm)

/-- The result of lea: the word's own address plus four times the offset (R99, R100). -/
def leaVal (pc : Word64) (imm : BitVec 15) : Word64 := pc + sext imm * 4
/-- lea xd, label. -/
def execLea (xd : XReg) (imm : BitVec 15) (s : State) : Out := s.cExec [] xd (leaVal s.core.c.pc imm)

/-- nop, and every C hint: no register is read, no queue popped, nothing pushed (R65, R121). -/
def execNop (_payload : BitVec 25) (s : State) : Out := .next (s.cGo s.pc4)

end Sys2Proof.Machine
end

