-- ==== Sys2Proof/Machine/Caches.lean ====
section
/-! DEFINITION. The caches between a core and the memory-side cache (R149, R152, R307, R308, R314, R326, R376, R394): the L2's sets, the TLB's fills, the leases and
the L1 region. They hold no bytes: which lines stand in them shows in counters, trackers and what the host sees. -/

namespace Sys2Proof.Machine

/-! ### The L2 (R307, R308, R314, R376, R377, R394) -/

/-- The L2 slice and set of a line, with its stack (R307, R328). -/
def l2Set (pa : Nat) : Nat × Nat × Nat :=
  (bits pa 39 36 / 3, bits pa 11 7 ^^^ bits pa 16 12 ^^^ bits pa 21 17 ^^^ bits pa 26 22, bits pa 18 7)
/-- The lines that stand in unpublished shadows. -/
def State.shadowLines (s : State) : List Nat :=
  (s.core.eng.copy.flatMap fun c => bif c.published then [] else c.shadow.map fun x => lineOf x.1).eraseDups
/-- A set of an L2 as a number: its die, slice and set. -/
def l2Key (line : Nat) : Nat := let k := l2Set (line * 128); (k.1 * 32 + k.2.1) * 4096 + k.2.2
/-- The ways of a set that are pinned: by this core's unpublished shadows, and by what other cores pin there (R152, R314). -/
def State.pinnedAt (s : State) (key : Nat) : Nat := Nat.min 16 ((s.shadowLines.filter fun l => l2Key l == key).length + kget s.pkg.pins key 0)
/-- The ways of a line's set that are pinned. -/
def State.pinnedWays (s : State) (line : Nat) : Nat := s.pinnedAt (l2Key line)
/-- The ways reserved for a partition (R307). -/
def State.reservedWays (s : State) (p : BitVec 3) : Nat := (s.part p).l2Ways.toNat
/-- A partition's accesses allocate into no way reserved for another (R307). -/
def State.othersWays (s : State) (p : Option (BitVec 3)) : Nat :=
  ((allParts.filter fun q => some q != p).map s.reservedWays).sum
/-- A line that a partition's allocation may not replace: its own partition holds it in a reserved way. -/
def State.l2Kept (s : State) (p : Option (BitVec 3)) (set : List L2Line) (x : L2Line) : Bool :=
  match x.by_ with
  | some q => some q != p && decide ((set.filter fun y => y.by_ == some q).idxOf x < s.reservedWays q)
  | none => false

/-- A shared-cache event counted for the virtual function that a line's owner tag names, in the saved copy when that one is not resident; never for
another partition (R376, R377). -/
def State.l2Count (s : State) (o : Owner) (ev : BitVec 8) : State :=
  match o with
  | some (p, v) =>
    bif p != s.core.ctx.part then s
    else bif v == s.core.ctx.vf then s.count ev 1
    else { s with agenda := s.agenda ++ [.event (.savedCounterAdd p v ev)] }
  | none => s

/-- A line replaced in the L2: the eviction of a dirty one counts when this core's access caused it (R376). -/
def State.l2Evict (s : State) (x : L2Line) (mine : Bool) : State :=
  let s := s.l2Out x
  bif x.dirty && mine then s.l2Count x.owner 0x11 else s
/-- A set's lines beyond the ways that its pinned lines leave, the least recently used first, are replaced (R307, R314). -/
def State.l2Trim (s : State) (key : Nat) (mine : Bool) : State :=
  let set := s.mem.l2.filter fun x => l2Key x.line == key
  (set.reverse.take (set.length + s.pinnedAt key - 16)).foldl (fun s x => s.l2Evict x mine) s

/-- A line allocated in its set: into a free way that the partition may use, else in place of the least recently used lines that it may replace;
a set all of whose ways are pinned or reserved for others is bypassed (R307, R308; log 33, DESIGN CHOICE). -/
def State.l2Alloc (s : State) (line : Nat) (p : Option (BitVec 3)) (mine : Bool) : State :=
  let set := s.mem.l2.filter fun x => l2Key x.line == l2Key line
  let usable := 16 - s.pinnedWays line - s.othersWays p
  let open_ := set.filter fun x => !s.l2Kept p set x
  let put := fun (s : State) => s.setMem { s.mem with l2 := ⟨line, none, false, p⟩ :: s.mem.l2 }
  bif usable == 0 then s else put ((open_.reverse.take (open_.length + 1 - usable)).foldl (fun s x => s.l2Evict x mine) s)

/-- An access at a line's home (R307, R333, R394): a line found in the L2 counts for the virtual function its owner tag names, when the access is this
core's; a line not found is fetched through the memory-side cache, for the partition that R334 names, and allocated. A line in host bias is in no L2. -/
def State.l2Access (s : State) (pa : Nat) (p fill : Option (BitVec 3)) (mine : Bool) : State :=
  let a := s.norm pa
  let line := lineOf a
  bif decide (s.region a ≠ .hbm) then (bif mine && bits a 51 51 == 1 then s.reqOver else s)
  else bif s.hostBias a then s.mscAccess line fill false
  else
    match s.mem.l2.find? fun x => x.line == line with
    | some x =>
      let s := s.setMem { s.mem with l2 := x :: s.mem.l2.filter fun y => y.line != line }
      bif mine then s.l2Count x.owner 0x10 else s
    | none => (s.mscAccess line fill false).l2Alloc line p mine

/-- An access of the core's own at the L2. -/
def State.l2Own (s : State) (pa : Nat) : State := s.l2Access pa (some s.core.ctx.part) (some s.core.ctx.part) true
/-- A write of the core's own, or an atomic, that takes place there now. -/
def State.l2Hit (s : State) (pa : Nat) : State := (s.orderAt 0 true pa).l2Own pa
/-- An engine's access there: a fill carries the partition that owns the page's row group (R334). -/
def State.l2Engine (s : State) (pa : Nat) (mine : Bool) : State := s.l2Access pa (some s.core.ctx.part) (s.ownerOf (s.norm pa)) mine
/-- Accesses of the core's own to each line that a list of addresses lies in (log 69, DESIGN CHOICE). -/
def State.l2Hits (s : State) (pas : List Nat) : State := ((pas.map fun a => lineOf (s.norm a)).eraseDups).foldl (fun s l => s.l2Hit (l * 128)) s

/-! ### The TLB's fills (R310, R326) -/

/-- The physical addresses of the entries that a walk reads in memory: those that the walker cache does not hold, the one it fails at among them (R323, R326). -/
def State.walkReads (s : State) (p : BitVec 3) (v : BitVec 2) (va : Word64) : List Nat :=
  let path := (s.walk p v va true).2.reverse
  let tables := ((s.part p).vf v).ptbase.toNat :: (path.filter fun e => !e.entry.getLsbD 1).map fun e => entryAddr e.entry
  (tables.zip walkLevels).filterMap fun x =>
    let key := bits va.toNat 56 x.2.2.1
    bif s.core.mmu.walk.any fun e => e.part == p && e.vf == v && e.level == x.2.1 && e.key == key then none
    else some (x.1 + 8 * bits va.toNat (x.2.2.1 + x.2.2.2.1 - 1) x.2.2.1)
/-- A walk's reads of page tables reach the L2, each before the access that it serves (R310, R336). -/
def State.walkAccess (s : State) (p : BitVec 3) (v : BitVec 2) (va : Word64) : State :=
  (s.walkReads p v va).foldl (fun s a => bif s.inFlip a then s else s.l2Access a (some p) (some p) true) s
/-- A page brought into the TLB and the entries of its walk into the walker cache; only valid ones are held (R326; log 33, DESIGN CHOICE). -/
def State.fillTlb (s : State) (p : BitVec 3) (v : BitVec 2) (va : Word64) : State :=
  match s.tlbFind p v va with
  | some _ => s
  | none =>
    bif !canonical va then s
    else
      let t := s.walkAccess p v va
      match s.walk p v va true with
      | (.leaf log e, path) =>
        let m := s.core.mmu
        let old := m.walk.filter fun x => !path.any fun y => y.part == x.part && y.vf == x.vf && y.level == x.level && y.key == x.key
        { t with core := { t.core with mmu :=
          { tlb := (⟨p, v, bits va.toNat 56 log, log, e⟩ :: m.tlb).take 128, walk := (path ++ old).take 4096 } } }
      | _ => t

/-! ### Leases and the L1 region (R149, R152, R308) -/

/-- A write to a line waits to take place: C's retired store, or a near-bank step's that the bank fence is still to come to (R310, R316). -/
def State.writeWaits (s : State) (line : Nat) : Bool :=
  (match s.core.c.store with | some st => lineOf (s.norm st.pa) == line | none => false) || s.core.nb.lines.contains line
/-- A read's lease on a line of device memory: it ends at most 512 ns on; none is granted while a write to the line waits (R308; log 22, DEDUCED). -/
def State.lease (s : State) (line : Nat) (own : Bool) : State :=
  bif s.writeWaits line then s
  else s.setMem { s.mem with leases := ⟨line, s.tstamp + 512, own⟩ :: s.mem.leases.filter fun x => !(x.line == line && x.own == own) }
/-- The end of the pool that its banks back (R152). -/
def Pool.top (p : Pool) : Nat := 0x200000 - p.lost * 0x10000
/-- The sets of the core's L1 region: a KiB each from PB1 to PB2 or to the backed pool's end, if that comes first (R149, R152). -/
def State.l1Sets (s : State) : Nat :=
  let pb := fun (i : Nat) => (vget s.core.csr.pb i 0).toNat
  (Nat.min (pb 2) s.core.pool.top - pb 1) / 1024
/-- The L1 holds a line under a lease that is live (R149, R308). -/
def State.l1Has (s : State) (line : Nat) : Bool :=
  s.core.l1.contains line && s.mem.leases.any fun x => x.line == line && x.own && decide (s.tstamp < x.until_)
/-- A line put into the L1: eight ways a set, the least recently used of a full one leaving (R149; log 33, DESIGN CHOICE). -/
def State.l1Put (s : State) (line : Nat) : State :=
  let n := s.l1Sets
  bif n == 0 then s
  else
    let l := s.core.l1.filter (· != line)
    let set := l.filter fun x => x % n == line % n
    let l := bif decide (8 ≤ set.length) then l.filter fun x => some x != set.getLast? else l
    { s with core := { s.core with l1 := line :: l } }
/-- A read of the core's through its L1 region: a line held under a live lease is served there; else the access goes to the L2, and a line of device
memory is leased and held (R149, R307, R308). -/
def State.l1Hit (s : State) (pa : Nat) : State :=
  let line := lineOf (s.norm pa)
  let s := s.orderAt 0 false pa
  bif !(decide (s.region pa = .hbm) && !s.hostBias (s.norm pa)) then s.l2Own pa
  else bif s.l1Has line then s.l1Put line
  else ((s.l2Own pa).lease line true).l1Put line
/-- Reads of the core's of each line that a list of addresses lies in (log 69, DESIGN CHOICE). -/
def State.l1Hits (s : State) (pas : List Nat) : State := ((pas.map fun a => lineOf (s.norm a)).eraseDups).foldl (fun s l => s.l1Hit (l * 128)) s

/-- The lines of pool offsets that fallback lines serve: those from the backed pool's end to PB1 (R152). -/
def State.fallLines (s : State) (off n : Nat) : Nat :=
  let lo := Nat.max off s.core.pool.top
  let hi := Nat.min (off + n) (vget s.core.csr.pb 1 0).toNat
  if hi ≤ lo then 0 else (hi + 127) / 128 - lo / 128
/-- Accesses to pool offsets that fallback lines serve count as L2 accesses, each a hit (R152, R376). -/
def State.fallCount (s : State) (off n : Nat) : State := let k := s.fallLines off n; bif k == 0 then s else s.count 0x10 k

end Sys2Proof.Machine
end

