-- ==== Sys2Proof/Machine/Flags.lean ====
section
/-! DEFINITION. Number formats and arithmetic (R162 to R170, R176 to R179): values as exact dyadic numbers, the one rounding
into a format, the events that a floating result counts, and the twelve counts. -/

namespace Sys2Proof.Machine

/-- The rounding modes (R165). -/
inductive Rm | rne | rtz | rup | rdn
deriving DecidableEq, Repr

/-- The rounding mode of a mode field (R165). -/
def Rm.of (m : BitVec 2) : Rm := if m = 0 then .rne else if m = 1 then .rtz else if m = 2 then .rup else .rdn

/-- A floating format: its precision, the exponent of its subnormal quantum, its exponent width, its width (R163). -/
structure FFmt where
  p    : Nat
  qmin : Int
  ew   : Nat
  w    : Nat
  /-- its index in the counts of R179 -/
  idx  : Nat
deriving DecidableEq, Repr

/-- binary32 (R163). -/
def f32 : FFmt := ⟨24, -149, 8, 32, 0⟩
/-- bf16 (R163). -/
def bf16 : FFmt := ⟨8, -133, 8, 16, 1⟩
/-- binary16 (R163). -/
def f16 : FFmt := ⟨11, -24, 5, 16, 2⟩

/-- The code of infinity's magnitude. -/
def FFmt.inf (f : FFmt) : Nat := (2 ^ f.ew - 1) * 2 ^ (f.p - 1)
/-- The sign bit. -/
def FFmt.sign (f : FFmt) : Nat := 2 ^ (f.w - 1)
/-- The canonical NaN (R164). -/
def FFmt.nan (f : FFmt) : Nat := f.inf + 2 ^ (f.p - 2)

/-- An exact value: NaN, an infinity, or a signed dyadic number m times 2^e; zero keeps its sign. -/
inductive FVal
  | nan
  | inf (neg : Bool)
  | num (neg : Bool) (m : Nat) (e : Int)
deriving DecidableEq, Repr

/-- The value of an encoding (R163). -/
def FFmt.dec (f : FFmt) (b : Nat) : FVal :=
  let neg := b / f.sign % 2 == 1
  let mag := b % f.sign
  if f.inf < mag then .nan
  else if mag = f.inf then .inf neg
  else
    let ex := mag / 2 ^ (f.p - 1)
    let fr := mag % 2 ^ (f.p - 1)
    if ex = 0 then .num neg fr f.qmin else .num neg (fr + 2 ^ (f.p - 1)) (f.qmin + (ex - 1 : Nat))

/-- Whether the discarded part rounds the magnitude up. -/
def roundsUp (rm : Rm) (neg odd : Bool) (rem half : Nat) : Bool :=
  match rm with
  | .rne => decide (half < rem) || (decide (rem = half) && odd)
  | .rtz => false
  | .rup => !neg && decide (0 < rem)
  | .rdn => neg && decide (0 < rem)

/-- The magnitude delivered on overflow (R165). -/
def FFmt.over (f : FFmt) (rm : Rm) (neg : Bool) : Nat :=
  let toInf := match rm with | .rne => true | .rtz => false | .rup => !neg | .rdn => neg
  bif toInf then f.inf else f.inf - 1

/-- A nonzero dyadic magnitude rounded once: the code with unbounded exponent, and whether it is inexact (R165). -/
def FFmt.code (f : FFmt) (rm : Rm) (neg : Bool) (m : Nat) (e : Int) : Nat × Bool :=
  let q := max (e + (Nat.log2 m : Int) - ((f.p : Int) - 1)) f.qmin
  if q ≤ e then ((q - f.qmin).toNat * 2 ^ (f.p - 1) + m * 2 ^ (e - q).toNat, false)
  else
    let sh := (q - e).toNat
    let n := m / 2 ^ sh
    let rem := m % 2 ^ sh
    let n' := bif roundsUp rm neg (n % 2 == 1) rem (2 ^ (sh - 1)) then n + 1 else n
    ((q - f.qmin).toNat * 2 ^ (f.p - 1) + n', rem != 0)

/-- A floating result: its bits and the counts it raises, as positions among the twelve (R178). -/
structure FRes where
  bits : Nat
  ev   : List Nat
deriving DecidableEq, Repr

/-- The exact value rounded once into a format, with the overflow and underflow it counts (R165, R178). A NaN is the
canonical NaN (R164). -/
def FFmt.round (f : FFmt) (rm : Rm) (v : FVal) : FRes :=
  match v with
  | .nan => ⟨f.nan, []⟩
  | .inf neg => ⟨bif neg then f.sign + f.inf else f.inf, []⟩
  | .num neg m e =>
    let s := bif neg then f.sign else 0
    if m = 0 then ⟨s, []⟩
    else
      let r := f.code rm neg m e
      if f.inf ≤ r.1 then ⟨s + f.over rm neg, [4 * f.idx + 2]⟩
      else ⟨s + r.1, bif r.2 && decide (r.1 < 2 ^ (f.p - 1)) then [4 * f.idx + 3] else []⟩

/-- A result with NaN generated counted when no operand was NaN (R178). -/
def FFmt.fin (f : FFmt) (rm : Rm) (operandNan : Bool) (v : FVal) : FRes :=
  let r := f.round rm v
  match v with
  | .nan => bif operandNan then r else { r with ev := 4 * f.idx :: r.ev }
  | _ => r

/-- The value is NaN. -/
def FVal.isNan : FVal → Bool | .nan => true | _ => false
/-- The value negated; a NaN stays NaN. -/
def FVal.neg : FVal → FVal
  | .nan => .nan
  | .inf n => .inf (!n)
  | .num n m e => .num (!n) m e
/-- The magnitude. -/
def FVal.abs : FVal → FVal
  | .nan => .nan
  | .inf _ => .inf false
  | .num _ m e => .num false m e
/-- The value as an integer multiple of 2^q, for q at most its exponent. -/
def scaled (neg : Bool) (m : Nat) (e q : Int) : Int :=
  let x : Int := m * 2 ^ (e - q).toNat
  bif neg then -x else x
/-- A signed integer times 2^q; `negZero` is the sign of a zero. -/
def ofScaled (x q : Int) (negZero : Bool) : FVal :=
  if x = 0 then .num negZero 0 0 else .num (decide (x < 0)) x.natAbs q
/-- The exact sum. A zero sum of operands that are not both zeros of one sign is negative under RDN only (R165). -/
def FVal.add (rm : Rm) : FVal → FVal → FVal
  | .nan, _ => .nan
  | _, .nan => .nan
  | .inf a, .inf b => if a = b then .inf a else .nan
  | .inf a, _ => .inf a
  | _, .inf b => .inf b
  | .num n₁ m₁ e₁, .num n₂ m₂ e₂ =>
    if m₁ = 0 ∧ m₂ = 0 ∧ n₁ = n₂ then .num n₁ 0 0
    else
      let q := if m₁ = 0 then e₂ else if m₂ = 0 then e₁ else min e₁ e₂
      let x := (if m₁ = 0 then 0 else scaled n₁ m₁ e₁ q) + (if m₂ = 0 then 0 else scaled n₂ m₂ e₂ q)
      ofScaled x q (rm == .rdn)
/-- The exact product. -/
def FVal.mul : FVal → FVal → FVal
  | .nan, _ => .nan
  | _, .nan => .nan
  | .inf a, .inf b => .inf (a != b)
  | .inf a, .num n m _ => if m = 0 then .nan else .inf (a != n)
  | .num n m _, .inf b => if m = 0 then .nan else .inf (n != b)
  | .num n₁ m₁ e₁, .num n₂ m₂ e₂ => .num (n₁ != n₂) (m₁ * m₂) (e₁ + e₂)
/-- An integer as an exact value. -/
def FVal.ofInt (x : Int) : FVal := ofScaled x 0 false
/-- The exact value of a finite number times a power of two. -/
def FVal.scale (v : FVal) (k : Int) : FVal := match v with | .num n m e => .num n m (e + k) | v => v

/-- The order of two values that are not NaN: less, equal, or greater; zeros of both signs are equal. -/
def FVal.cmp : FVal → FVal → Ordering
  | .inf a, .inf b => compare (!a).toNat (!b).toNat
  | .inf a, _ => bif a then .lt else .gt
  | _, .inf b => bif b then .gt else .lt
  | .num n₁ m₁ e₁, .num n₂ m₂ e₂ =>
    let q := min e₁ e₂
    compare (scaled n₁ m₁ e₁ q) (scaled n₂ m₂ e₂ q)
  | _, _ => .eq
/-- The sign of a value. -/
def FVal.isNeg : FVal → Bool | .nan => false | .inf n => n | .num n _ _ => n
/-- a orders below b, with −0 below +0 (R144, R415). -/
def FVal.below (a b : FVal) : Bool :=
  match a.cmp b with
  | .lt => true
  | .gt => false
  | .eq => a.isNeg && !b.isNeg
/-- The smaller of two values; NaN when either is. -/
def FVal.min (a b : FVal) : FVal := bif a.isNan || b.isNan then .nan else bif b.below a then b else a
/-- The larger of two values; NaN when either is. -/
def FVal.max (a b : FVal) : FVal := bif a.isNan || b.isNan then .nan else bif a.below b then b else a

/-- A finite value rounded to an integer (R167). -/
def roundInt (rm : Rm) (neg : Bool) (m : Nat) (e : Int) : Int :=
  let mag : Nat :=
    if 0 ≤ e then m * 2 ^ e.toNat
    else
      let sh := (-e).toNat
      let n := m / 2 ^ sh
      let rem := m % 2 ^ sh
      bif roundsUp rm neg (n % 2 == 1) rem (2 ^ (sh - 1)) then n + 1 else n
  bif neg then -(mag : Int) else mag

/-- A value clamped into a range (R10). -/
def sat (x lo hi : Int) : Int := if x < lo then lo else if hi < x then hi else x

/-- The element formats (R162) by code. -/
def fmtOf : Nat → Option FFmt
  | 0 => some f32 | 1 => some bf16 | 2 => some f16 | _ => none
/-- The size of an element of a format in bytes; a bit-plane element is one byte in its unpacked form (R162). -/
def fmtSize (f : Nat) : Nat := if f = 0 ∨ f = 3 then 4 else if f = 1 ∨ f = 2 ∨ f = 4 then 2 else 1
/-- The range of an integer format: i32, i16, i8, n8, and bpi as i8, bpn as n8 (R162). -/
def intRange (f : Nat) : Int × Int :=
  match f with
  | 3 => (-2147483648, 2147483647)
  | 4 => (-32768, 32767)
  | 6 => (0, 255)
  | 8 => (0, 255)
  | _ => (-128, 127)
/-- The integer that the bits of an integer format hold. -/
def intVal (f b : Nat) : Int :=
  match f with
  | 3 => (BitVec.ofNat 32 b).toInt
  | 4 => (BitVec.ofNat 16 b).toInt
  | 6 => (b % 256 : Nat)
  | 8 => (b % 256 : Nat)
  | _ => (BitVec.ofNat 8 b).toInt
/-- The bits of an integer in a format's width, two's complement. -/
def intBits (f : Nat) (x : Int) : Nat := (x % (2 ^ (8 * fmtSize f) : Nat)).toNat

/-- An element's exact value in its format. -/
def elemVal (f b : Nat) : FVal := match fmtOf f with | some g => g.dec b | none => FVal.ofInt (intVal f b)

/-- An integer result into a format: rounded where the format is floating, saturated where it is an integer (R167). -/
def convInt (x : Int) (dst : Nat) (rm : Rm) : FRes :=
  match fmtOf dst with
  | some g => g.round rm (FVal.ofInt x)
  | none => let r := intRange dst; ⟨intBits dst (sat x r.1 r.2), []⟩

/-- An exact floating value into a format (R167): NaN to 0, infinities and values out of range to the nearest end. -/
def convVal (v : FVal) (dst : Nat) (rm : Rm) : FRes :=
  match fmtOf dst with
  | some g => g.round rm v
  | none =>
    let r := intRange dst
    match v with
    | .nan => ⟨0, []⟩
    | .inf neg => ⟨intBits dst (bif neg then r.1 else r.2), []⟩
    | .num neg m e => ⟨intBits dst (sat (roundInt rm neg m e) r.1 r.2), []⟩

/-- Convert(x, fmt, rm) of R167, from an element of one format to another. -/
def convert (src b dst : Nat) (rm : Rm) : FRes :=
  match fmtOf src with
  | some g => convVal (g.dec b) dst rm
  | none => convInt (intVal src b) dst rm

/-- RNE32: rounding to f32 (R174, R176). -/
def rne32 (v : FVal) : FRes := f32.round .rne v

/-- The sum of two floating elements of a format under a rounding mode, with its counts (R105, R144, R214). -/
def FFmt.sum (f : FFmt) (rm : Rm) (a b : Nat) : FRes :=
  let x := f.dec a
  let y := f.dec b
  f.fin rm (x.isNan || y.isNan) (x.add rm y)

/-- The exact sum of values: NaN and infinities as R177 orders them; an exactly zero sum is +0 unless every term is −0. -/
def exactSum (l : List FVal) : FVal :=
  let neg0 := l.all fun v => match v with | .num n m _ => n && m == 0 | _ => false
  let posInf := l.any (· == .inf false)
  let negInf := l.any (· == .inf true)
  bif l.any (·.isNan) || (posInf && negInf) then .nan
  else bif posInf then .inf false
  else bif negInf then .inf true
  else
    let q := l.foldl (fun q v => match v with | .num _ m e => if m = 0 then q else Min.min q e | _ => q) (0 : Int)
    let x := l.foldl (fun t v => match v with | .num n m e => if m = 0 then t else t + scaled n m e q | _ => t) (0 : Int)
    ofScaled x q (neg0 && !l.isEmpty)

/-! ### Bit planes (R168 to R170) -/

/-- The position of an element in a plane's 128 bits (R168). -/
def laneBit (e : Nat) : Nat := 8 * (e % 16) + e / 16
/-- The block byte and bit of plane p of element e (R168). -/
def planeAt (p e : Nat) : Nat × Nat := (16 * (7 - p) + e % 16, e / 16)
/-- Element e of a 128-byte plane image, from its first k planes; planes below read as zero (R168, R170). -/
def planeElem (img : List Byte) (e k : Nat) : Nat :=
  ((List.range 8).map fun p =>
    let a := planeAt p e
    bif decide (8 - k ≤ p) && (img.getD a.1 0).getLsbD a.2 then 2 ^ p else 0).sum
/-- A 128-byte plane image with element e set to a byte, in its first k planes (R143, R168). -/
def planeSet (img : List Byte) (e v k : Nat) : List Byte :=
  (List.range 8).foldl (fun img p =>
    if 8 - k ≤ p then
      let a := planeAt p e
      let b := img.getD a.1 0
      let bit := 1#8 <<< a.2
      img.set a.1 (bif v.testBit p then b ||| bit else b &&& ~~~bit)
    else img) img
/-- The reconstruction of an element from a read of k planes (R170): `v` holds the planes read, the rest zero. -/
def reconstruct (v : Int) (k : Nat) : Int := if k = 8 then v else v / 2 ^ (8 - k) * 2 ^ (8 - k) + 2 ^ (7 - k)

/-! ### The counts (R179) -/

/-- Events added to the core's twelve counts, each saturating. -/
def State.fpCount (s : State) (ev : List Nat) : State :=
  match ev with
  | [] => s
  | _ => { s with core := { s.core with fpc := ev.foldl (fun v i => vset v i (satAdd (vget v i 0) 1)) s.core.fpc } }

end Sys2Proof.Machine
end

