-- ==== Sys2Proof/Machine/CMem.lean ====
section
/-! DEFINITION. C's loads, stores, atomics, branches and jumps (R101 to R111). -/

namespace Sys2Proof.Machine

/-- The cause a checked access raises before translation: misaligned (R102). -/
def misaligned (ea : Word64) (n : Nat) : Bool := ea.toNat % n != 0

/-- C's memory event begins: the pending store takes place first (R310), and the page is brought into the TLB (R326). -/
def State.cEvent (s : State) (va : Word64) : State := s.flushStore.fillTlb s.core.ctx.part s.core.ctx.vf va

/-- A loaded datum of `n` bytes widened to 64 bits (R101). -/
def loadVal (n : Nat) (signed : Bool) (v : Nat) : Word64 :=
  bif signed then BitVec.ofInt 64 ((BitVec.ofNat (8 * n) v).toInt) else BitVec.ofNat 64 v

/-- The effective address of a CM word (R101). -/
def State.cmEa (s : State) (xa : XReg) (off : BitVec 12) : Word64 := s.xRead xa + sext off

/-- A C load of `n` bytes (R101 to R104). -/
def State.cLoad (s : State) (xd xa : XReg) (off : BitVec 12) (n : Nat) (signed : Bool) : State :=
  let ea := s.cmEa xa off
  bif !s.cReady [xa] xd then s.cStall
  else bif misaligned ea n then s.cRaise 0x05 ea
  else
    let t := s.cEvent ea
    match t.xlate t.whoC ea .rd with
    | .error f => t.cFail f 0x06 ea
    | .ok pa =>
      bif t.holdsAt 0 true pa then t.cStall
      else (t.l1Hit pa).cRetire [xa] xd (loadVal n signed (t.rdNat pa n)) t.pc4

/-- What a run of C loads gives: the bytes, a failing access, or a wait. -/
inductive CRead
  | got (s : State) (bs : List Byte)
  | failed (s : State) (f : XFail) (va : Word64)
  | waits (s : State)
/-- C loads of n dwords in address order, as ld makes them (R102, R268). -/
def State.cBytes (s : State) (va : Word64) : Nat → CRead
  | 0 => .got s []
  | n + 1 =>
    let t := s.cEvent va
    match t.xlate t.whoC va .rd with
    | .error f => .failed t f va
    | .ok pa =>
      bif t.holdsAt 0 true pa then .waits t
      else
        match (t.l1Hit pa).cBytes (va + 8) n with
        | .got s bs => .got s (t.rdBytes pa 8 ++ bs)
        | r => r

/-- A C store retires with its event still to come (R104, R310); a remote one takes place before it retires (R319). -/
def State.putStore (s : State) (pa : Nat) (bs : List Byte) : State :=
  match s.region pa with
  | .remote _ => s.store pa bs s.me true
  | _ => s.setC { s.core.c with store := some ⟨pa, bs, s.time⟩ }

/-- A C store of `n` bytes (R101 to R104, R310). -/
def State.cStoreOp (s : State) (xd xa : XReg) (off : BitVec 12) (n : Nat) : State :=
  let ea := s.cmEa xa off
  let v := s.xRead xd
  bif !s.cReady [xa, xd] 0 then s.cStall
  else bif misaligned ea n then s.cRaise 0x05 ea
  else
    let t := s.cEvent ea
    match t.xlate t.whoC ea .wr with
    | .error f => t.cFail f 0x07 ea
    | .ok pa =>
      bif t.holdsAt 0 false pa then t.cStall
      else ((t.l2Own pa).putStore pa (leBytes n v.toNat)).cRetire [xa, xd] 0 0 t.pc4

/-- ld.i8 (R101). -/
def execLdI8 (xd xa : XReg) (off : BitVec 12) (s : State) : Out := .next (s.cLoad xd xa off 1 true)
/-- ld.i16 (R101). -/
def execLdI16 (xd xa : XReg) (off : BitVec 12) (s : State) : Out := .next (s.cLoad xd xa off 2 true)
/-- ld.i32 (R101). -/
def execLdI32 (xd xa : XReg) (off : BitVec 12) (s : State) : Out := .next (s.cLoad xd xa off 4 true)
/-- ld, of a dword (R101). -/
def execLd (xd xa : XReg) (off : BitVec 12) (s : State) : Out := .next (s.cLoad xd xa off 8 false)
/-- ld.n8 (R101). -/
def execLdN8 (xd xa : XReg) (off : BitVec 12) (s : State) : Out := .next (s.cLoad xd xa off 1 false)
/-- ld.n16 (R101). -/
def execLdN16 (xd xa : XReg) (off : BitVec 12) (s : State) : Out := .next (s.cLoad xd xa off 2 false)
/-- ld.n32 (R101). -/
def execLdN32 (xd xa : XReg) (off : BitVec 12) (s : State) : Out := .next (s.cLoad xd xa off 4 false)
/-- st.i8 (R101). -/
def execStI8 (xd xa : XReg) (off : BitVec 12) (s : State) : Out := .next (s.cStoreOp xd xa off 1)
/-- st.i16 (R101). -/
def execStI16 (xd xa : XReg) (off : BitVec 12) (s : State) : Out := .next (s.cStoreOp xd xa off 2)
/-- st.i32 (R101). -/
def execStI32 (xd xa : XReg) (off : BitVec 12) (s : State) : Out := .next (s.cStoreOp xd xa off 4)
/-- st, of a dword (R101). -/
def execSt (xd xa : XReg) (off : BitVec 12) (s : State) : Out := .next (s.cStoreOp xd xa off 8)

/-! ### Branches and jumps (R108, R109) -/

/-- The target of a CB branch (R47, R108). -/
def branchTarget (pc : Word64) (imm : BitVec 15) : Word64 := pc + sext imm * 4

/-- A CB branch: both fields are sources, nothing is written (R94, R108). -/
def State.cBranch (s : State) (xd xa : XReg) (imm : BitVec 15) (taken : Bool) : Out :=
  .next (bif s.cReady [xa, xd] 0 then s.cRetire [xa, xd] 0 0 (bif taken then branchTarget s.core.c.pc imm else s.pc4) else s.cStall)

/-- beq (R108). -/
def execBeq (xd xa : XReg) (imm : BitVec 15) (s : State) : Out := s.cBranch xd xa imm (s.xRead xd == s.xRead xa)
/-- bne (R108). -/
def execBne (xd xa : XReg) (imm : BitVec 15) (s : State) : Out := s.cBranch xd xa imm (s.xRead xd != s.xRead xa)
/-- blt (R108). -/
def execBlt (xd xa : XReg) (imm : BitVec 15) (s : State) : Out := s.cBranch xd xa imm ((s.xRead xd).slt (s.xRead xa))
/-- bge (R108). -/
def execBge (xd xa : XReg) (imm : BitVec 15) (s : State) : Out := s.cBranch xd xa imm (!(s.xRead xd).slt (s.xRead xa))
/-- bltn (R108). -/
def execBltn (xd xa : XReg) (imm : BitVec 15) (s : State) : Out := s.cBranch xd xa imm ((s.xRead xd).ult (s.xRead xa))
/-- bgen (R108). -/
def execBgen (xd xa : XReg) (imm : BitVec 15) (s : State) : Out := s.cBranch xd xa imm (!(s.xRead xd).ult (s.xRead xa))
/-- jal target: the link goes to x30 (R109). -/
def execJal (off : BitVec 25) (s : State) : Out := .next (s.cRetire [] 30 s.pc4 (s.core.c.pc + sext off * 4))
/-- jalr xd, xa, imm: a target that is not a multiple of 4 raises cause 0x05 (R109). -/
def execJalr (xd xa : XReg) (imm : BitVec 15) (s : State) : Out :=
  let target := s.xRead xa + sext imm
  .next (bif !s.cReady [xa] xd then s.cStall
    else bif misaligned target 4 then s.cRaise 0x05 target
    else s.cRetire [xa] xd s.pc4 target)

/-! ### Atomics (R105 to R107) -/

/-- The new value of a major-0x48 atomic in `n` bits (R105). -/
def amoNew {n : Nat} (op : AmoOp) (old b c : BitVec n) : BitVec n :=
  match op with
  | .add => old + b
  | .and => old &&& b
  | .or => old ||| b
  | .xor => old ^^^ b
  | .min => bif old.slt b then old else b
  | .max => bif old.slt b then b else old
  | .swap => b
  | .cas => bif old == b then c else old

/-- A virtual address in the reduction window of the core's partition and fabric domain (R413). -/
def State.inWindow (s : State) (va : Word64) : Bool :=
  let x := s.part s.core.ctx.part
  let d3 := vget s.core.csr.domain 3 0
  x.rwEn && d3.getLsbD 31 && d3.extractLsb' 0 12 == x.rwGroup &&
    decide (x.rwBase.toNat ≤ va.toNat ∧ va.toNat < x.rwBase.toNat + 2 ^ (Nat.min x.rwLog.toNat 14 + 16))

/-- A contribution accepted into the fabric: it takes its place in the total order at its home (R107, R415); `need` says which token of S's covers
it (R317). -/
def State.contribute (s : State) (pa : Nat) (va : Word64) (op : RedOp) (fmt : BitVec 4) (b : Word32) (need : Nat := 0) : State :=
  { s with pkg := { s.pkg with red := s.pkg.red ++ [⟨pa, va, op, fmt, b, 1, need, false⟩] } }

/-- An atomic waits: a posted one for a flip of its page and for its virtual channel, another as a read and write of its address (R308, R322, R410). -/
def State.amoWaits (s : State) (posted : Bool) (pa : Nat) : Bool := bif posted then s.inFlip pa || s.vcStopped 2 pa else s.holdsAt 0 true pa true
/-- An atomic: `n` bytes at xa, a function from the old value to the new value, the value of xd, and the counts; `red` is the
reduction it is when posted (R105 to R107). -/
def State.cAmo (s : State) (xd xa xb xc : XReg) (n : Nat) (red : Option (RedOp × BitVec 4)) (f : Nat → FRes) (out : Nat → Word64) : State :=
  let ea := s.xRead xa
  let srcs := [xa, xb, xc]
  bif !s.cReady srcs xd then s.cStall
  else bif misaligned ea n then s.cRaise 0x05 ea
  else
    let b := (s.xRead xb).extractLsb' 0 32
    let t := s.cEvent ea
    match t.xlate t.whoC ea .rdwr with
    | .error e => t.cFail e 0x07 ea
    | .ok pa =>
      bif t.amoWaits (red.isSome && xd == 0 && t.inWindow ea) pa then t.cStall
      else
        let old := (t.rmwFirst (span pa n)).rdNat pa n
        let r := f old
        let done := (((t.l2Hit pa).store pa (leBytes n r.bits) t.me true).fpCount r.ev).cRetire srcs xd (out old) t.pc4
        match red with
        | some (op, fmt) =>
          bif xd == 0 && t.inWindow ea then
            match localRegion (bits pa 42 0) with
            | .hbm => (t.contribute pa ea op fmt b).cRetire srcs 0 0 t.pc4
            | _ => t.cRaise 0x0b ea
          else done
        | none => done

/-- A major-0x48 atomic on a dword (R105). -/
def State.amo64 (s : State) (op : AmoOp) (xd xa xb xc : XReg) : State :=
  s.cAmo xd xa xb xc 8 none (fun old => ⟨(amoNew op (BitVec.ofNat 64 old) (s.xRead xb) (s.xRead xc)).toNat, []⟩) (fun old => BitVec.ofNat 64 old)
/-- A major-0x48 atomic on a word (R105); add, min and max may be posted (R107). -/
def State.amo32 (s : State) (op : AmoOp) (xd xa xb xc : XReg) : State :=
  let red : Option (RedOp × BitVec 4) := match op with | .add => some (.add, 3) | .min => some (.min, 3) | .max => some (.max, 3) | _ => none
  s.cAmo xd xa xb xc 4 red
    (fun old => ⟨(amoNew op (BitVec.ofNat 32 old) ((s.xRead xb).extractLsb' 0 32) ((s.xRead xc).extractLsb' 0 32)).toNat, []⟩)
    (fun old => sext (BitVec.ofNat 32 old))
/-- A floating atomic add (R105, R107). -/
def State.amoF (s : State) (f : FFmt) (code : BitVec 4) (xd xa xb : XReg) : State :=
  s.cAmo xd xa xb 0 (f.w / 8) (some (.add, code)) (fun old => f.sum .rne old ((s.xRead xb).toNat % 2 ^ f.w)) (fun old => BitVec.ofNat 64 old)

/-- amo.add (R105). -/
def execAmoAdd (xd xa xb : XReg) (s : State) : Out := .next (s.amo64 .add xd xa xb 0)
/-- amo.add.i32 (R105). -/
def execAmoAddI32 (xd xa xb : XReg) (s : State) : Out := .next (s.amo32 .add xd xa xb 0)
/-- amo.and (R105). -/
def execAmoAnd (xd xa xb : XReg) (s : State) : Out := .next (s.amo64 .and xd xa xb 0)
/-- amo.and.i32 (R105). -/
def execAmoAndI32 (xd xa xb : XReg) (s : State) : Out := .next (s.amo32 .and xd xa xb 0)
/-- amo.or (R105). -/
def execAmoOr (xd xa xb : XReg) (s : State) : Out := .next (s.amo64 .or xd xa xb 0)
/-- amo.or.i32 (R105). -/
def execAmoOrI32 (xd xa xb : XReg) (s : State) : Out := .next (s.amo32 .or xd xa xb 0)
/-- amo.xor (R105). -/
def execAmoXor (xd xa xb : XReg) (s : State) : Out := .next (s.amo64 .xor xd xa xb 0)
/-- amo.xor.i32 (R105). -/
def execAmoXorI32 (xd xa xb : XReg) (s : State) : Out := .next (s.amo32 .xor xd xa xb 0)
/-- amo.min (R105). -/
def execAmoMin (xd xa xb : XReg) (s : State) : Out := .next (s.amo64 .min xd xa xb 0)
/-- amo.min.i32 (R105). -/
def execAmoMinI32 (xd xa xb : XReg) (s : State) : Out := .next (s.amo32 .min xd xa xb 0)
/-- amo.max (R105). -/
def execAmoMax (xd xa xb : XReg) (s : State) : Out := .next (s.amo64 .max xd xa xb 0)
/-- amo.max.i32 (R105). -/
def execAmoMaxI32 (xd xa xb : XReg) (s : State) : Out := .next (s.amo32 .max xd xa xb 0)
/-- amo.swap (R105). -/
def execAmoSwap (xd xa xb : XReg) (s : State) : Out := .next (s.amo64 .swap xd xa xb 0)
/-- amo.swap.i32 (R105). -/
def execAmoSwapI32 (xd xa xb : XReg) (s : State) : Out := .next (s.amo32 .swap xd xa xb 0)
/-- amo.cas (R105). -/
def execAmoCas (xd xa xb xc : XReg) (s : State) : Out := .next (s.amo64 .cas xd xa xb xc)
/-- amo.cas.i32 (R105). -/
def execAmoCasI32 (xd xa xb xc : XReg) (s : State) : Out := .next (s.amo32 .cas xd xa xb xc)
/-- amo.fadd.f32 (R105). -/
def execAmoFaddF32 (xd xa xb : XReg) (s : State) : Out := .next (s.amoF f32 0 xd xa xb)
/-- amo.fadd.bf16 (R105). -/
def execAmoFaddBf16 (xd xa xb : XReg) (s : State) : Out := .next (s.amoF bf16 1 xd xa xb)

end Sys2Proof.Machine
end

