-- ==== Sys2Proof/Machine/CSys.lean ====
section
/-! DEFINITION. C's CSR and system instructions (R112 to R121), and the two causes of a unit that is no instruction (R64, R110,
R38). -/

namespace Sys2Proof.Machine

/-- The encoded word of a C instruction, as TVAL of causes 0x01, 0x02 and 0x03 shows it (R36). -/
def cWordOf (i : Instr) : Word64 :=
  match encode i with
  | some (.c w) => w.setWidth 64
  | _ => 0

/-! ### CSRs (R112 to R115) -/

/-- A CSR of the supervisor alone: its task column is a dash (R113). -/
def csrPriv (n : BitVec 12) : Bool := decide (n.toNat ≤ 5) || n == 0x150
/-- A CSR that task mode may write (R113). -/
def csrTaskWrites (n : BitVec 12) : Bool := n == 0x010

/-- SLIP as a word (R18). -/
def slipWord (v : Vector (BitVec 4) 4) : Word64 :=
  (vget v 3 0 ++ vget v 2 0 ++ vget v 1 0 ++ vget v 0 0).setWidth 64
/-- VSHAPE as a word (R201). -/
def Shape.word (x : Shape) : Word64 := (0#11 ++ x.cap ++ 0#4 ++ x.fmt ++ x.clog ++ x.rlog).setWidth 64
/-- LBOUND of a symbol (R251). -/
def Sym.bound (x : Sym) : Word64 := (x.hi ++ x.lo).setWidth 64
/-- Event codes of the fabric class (R376). -/
def fabricEvent (sel : BitVec 10) : Bool := sel.extractLsb' 0 8 == 0x20 || sel.extractLsb' 0 8 == 0x21

/-- ReadCsr, for every number but TSTAMP's (R113). -/
def State.readCsr (s : State) (n : BitVec 12) : Word64 :=
  let k := s.core
  let t := k.trap
  let x := k.csr
  let i := n.toNat
  if i = 0x000 then (tstatWord t).setWidth 64
  else if i = 0x001 then t.tepc &&& ~~~3
  else if i = 0x002 then t.tfpc
  else if i = 0x003 then t.tval
  else if i = 0x004 then t.tvec &&& ~~~3
  else if i = 0x005 then t.tqocc.setWidth 64
  else if i = 0x010 then x.trapen.setWidth 64
  else if i = 0x011 then slipWord x.slip
  else if i = 0x020 then s.corenum.setWidth 64
  else if i = 0x100 then x.cycle
  else if i = 0x101 then x.tick
  else if i = 0x110 then x.stretch
  else if i = 0x111 then x.boundx
  else if i = 0x112 then x.retime
  else if i = 0x113 then x.dmdx
  else if 0x120 ≤ i ∧ i ≤ 0x127 then (vget x.sym (i - 0x120) Sym.unused).bind.setWidth 64
  else if 0x128 ≤ i ∧ i ≤ 0x12f then (vget x.sym (i - 0x128) Sym.unused).bound
  else if 0x130 ≤ i ∧ i ≤ 0x132 then (vget x.pb (i - 0x130) 0).setWidth 64
  else if i = 0x133 then k.v.shape.word
  else if 0x140 ≤ i ∧ i ≤ 0x143 then (vget x.domain (i - 0x140) 0).setWidth 64
  else if i = 0x150 then (BitVec.ofBool x.drMt ++ 0#5 ++ x.drLevel).setWidth 64
  else if i = 0x151 then (BitVec.ofBool x.str ++ BitVec.ofBool x.half ++ x.permit).setWidth 64
  else if 0x800 ≤ i ∧ i ≤ 0x81f then
    bif fabricEvent (vget k.perf.csel (i - 0x800) 0) then 0 else (vget k.perf.cnt (i - 0x800) 0).setWidth 64
  else if 0x840 ≤ i ∧ i ≤ 0x85f then (vget k.perf.csel (i - 0x840) 0).setWidth 64
  else if i = 0x860 then k.perf.ovf.setWidth 64
  else 0

/-- The bits of BOUNDX that are fields (R251). -/
def boundxMask : Word64 := 0x0000ffffffff00ff
/-- The bits of DMDX that are fields (R267). -/
def dmdxMask : Word64 := 0xffff0fff0fff7f03

/-- WriteCsr: the RW fields take the value, the W1C fields are cleared where it is 1, and every other bit stands (R8, R112).
A stopped unit's undelivered fault keeps bit 22 set (R40). -/
def State.writeCsr (s : State) (n : BitVec 12) (v : Word64) : State :=
  let k := s.core
  let t := k.trap
  let x := k.csr
  let i := n.toNat
  if i = 0x000 then
    let pend := t.pend &&& ~~~(v.extractLsb' 16 7)
    let pend := bif t.pend.getLsbD 6 && k.nextUnitFault.isSome then pend ||| 0x40 else pend
    s.setTrap { t with pm := v.getLsbD 10, pend := pend }
  else if i = 0x001 then s.setTrap { t with tepc := v &&& ~~~3 }
  else if i = 0x004 then s.setTrap { t with tvec := v &&& ~~~3 }
  else if i = 0x010 then s.setCsr { x with trapen := v.extractLsb' 0 3 }
  else if i = 0x110 then s.setCsr { x with stretch := v }
  else if i = 0x111 then s.setCsr { x with boundx := v &&& boundxMask }
  else if i = 0x113 then s.setCsr { x with dmdx := v &&& dmdxMask }
  else if i = 0x150 then s.setCsr { x with drLevel := v.extractLsb' 0 10, drMt := v.getLsbD 15 }
  else if 0x800 ≤ i ∧ i ≤ 0x81f then
    bif fabricEvent (vget k.perf.csel (i - 0x800) 0) then s
    else { s with core := { k with perf := { k.perf with cnt := vset k.perf.cnt (i - 0x800) (v.extractLsb' 0 48) } } }
  else if 0x840 ≤ i ∧ i ≤ 0x85f then
    { s with core := { k with perf := { k.perf with csel := vset k.perf.csel (i - 0x840) (v.extractLsb' 0 10) } } }
  else if i = 0x860 then { s with core := { k with perf := { k.perf with ovf := k.perf.ovf &&& ~~~(v.extractLsb' 0 32) } } }
  else s

/-- The value a CSR word reads: TSTAMP is a replayed input (R115, R404, R405; log 41, DEDUCED). -/
def State.csrValue (s : State) (n : BitVec 12) : State × Word64 :=
  bif n == 0x102 then s.replayed 4 s.cKey 0 (BitVec.ofNat 64 s.tstamp) else (s, s.readCsr n)

/-- A CSR word: the read, the write that its mode allows, and the old value to xd, as one step (R112). Cause 0x02 comes before any wait at a port (log 67,
DEDUCED). -/
def State.csrOp (s : State) (i : Instr) (n : BitVec 12) (xd : XReg) (srcs : List XReg) (f : Option (Word64 → Word64)) : State :=
  bif !s.sup && csrPriv n then s.cRaise 0x02 (cWordOf i)
  else bif !s.cReady srcs xd then s.cStall
  else
    let r := s.csrValue n
    let t := match f with
      | some f => bif s.sup || csrTaskWrites n then r.1.writeCsr n (f r.2) else r.1
      | none => r.1
    t.cRetire srcs xd r.2 t.pc4

/-- csrr xd, n (R112). -/
def execCsrr (xd : XReg) (n : BitVec 12) (s : State) : Out := .next (s.csrOp (.csrr xd n) n xd [] none)
/-- csrw xd, n, xa (R112). -/
def execCsrw (xd xa : XReg) (n : BitVec 12) (s : State) : Out :=
  .next (s.csrOp (.csrw xd xa n) n xd [xa] (some fun _ => s.xRead xa))
/-- csrs xd, n, xa (R112). -/
def execCsrs (xd xa : XReg) (n : BitVec 12) (s : State) : Out :=
  .next (s.csrOp (.csrs xd xa n) n xd [xa] (some fun old => old ||| s.xRead xa))
/-- csrc xd, n, xa (R112). -/
def execCsrc (xd xa : XReg) (n : BitVec 12) (s : State) : Out :=
  .next (s.csrOp (.csrc xd xa n) n xd [xa] (some fun old => old &&& ~~~(s.xRead xa)))

/-! ### System words (R116 to R120) -/

/-- A word that supervisor mode alone may run (R117, R118): cause 0x02 in task mode, before any wait at a port that it names (log 67, DEDUCED). -/
def State.privileged (s : State) (i : Instr) (f : State → State) : State := bif s.sup then f s else s.cRaise 0x02 (cWordOf i)

/-- eret (R117). -/
def execEret (s : State) : Out :=
  .next (s.privileged .eret fun s =>
    let s := s.touch.count 0x04 1
    (s.setCtx { s.core.ctx with cWords := s.core.ctx.cWords + 1 }).doEret)

/-- The range of addresses an entry of the walker cache stands for contains an address. -/
def WalkEntry.covers (e : WalkEntry) (va : Word64) : Bool :=
  match walkLevels.find? fun l => l.1 == e.level with
  | some l => e.key == bits va.toNat 56 l.2.1
  | none => false

/-- The invalidation of tlbi: the translations of an address, or every one of the core and its partition (R118). What the
streams have fetched ahead is fetched again through fresh walks (log 37, DEDUCED). -/
def State.invalidate (s : State) (va : Option Word64) : State :=
  let m := s.core.mmu
  let m' : Mmu := match va with
    | some a => { tlb := m.tlb.filter fun e => e.vpn != bits a.toNat 56 e.log, walk := m.walk.filter fun e => !e.covers a }
    | none => { tlb := [], walk := m.walk.filter fun e => e.part != s.core.ctx.part }
  { s with core := { s.core with mmu := m', str := s.core.str.map fun d => { d with ahead := [], req := [] } } }

/-- tlbi xa (R118). -/
def execTlbi (xa : XReg) (s : State) : Out :=
  .next (s.privileged (.tlbi xa) fun s =>
    let s := s.flushStore
    (s.invalidate (bif xa == 0 then none else some (s.xRead xa))).cRetire [xa] 0 0 s.pc4)

/-- icsync (R119): C's fetched-ahead words go at once; L, V and S see new code from the next cut. -/
def execIcsync (s : State) : Out :=
  let s := s.flushStore
  let s := s.setC { s.core.c with held := [] }
  let s := s.setCtx { s.core.ctx with newCode := s.core.ctx.newCode || s.stepOn }
  .next (s.cRetire [] 0 0 s.pc4)

/-- end of C: the ended state in task mode (R22, R120); in supervisor mode the step is abandoned with a record of type 0x31,
or, with no step, the core is between steps (R42; log 52, DEDUCED). -/
def execEndC (s : State) : Out :=
  let s := s.flushStore
  .next (bif s.sup then
      match s.core.trap.noStep with
      | .no =>
        let t := s.core.trap
        (s.post s.core.ctx.part (s.recOf 0x31 false 0 0 (tstatWord t) t.tfpc t.tval)).abandonStep true
      | _ => s.betweenSteps
    else
      let s := s.touch.count 0x04 1
      let s := s.setCtx { s.core.ctx with cWords := s.core.ctx.cWords + 1 }
      s.setC { s.core.c with run := .ended, blocked := false })

/-- A trap or a breakpoint of C: TEPC holds the following PC (R32, R116). -/
def State.softTrap (s : State) (cause : BitVec 8) (tval : Word64) : State :=
  let s := s.flushStore
  bif s.sup then s.doubleTrap .c cause s.core.c.pc tval
  else bif s.core.trap.wait.isSome then s.hold .c
  else s.takeTrap .c cause s.core.c.pc tval s.pc4

/-- trap imm (R116). -/
def execTrap (imm : BitVec 15) (s : State) : Out := .next (s.softTrap 0x04 (imm.setWidth 64))
/-- bkpt (R66, R116). -/
def execBkpt (code : BitVec 25) (s : State) : Out := .next (s.softTrap 0x03 (cWordOf (.bkpt code)))

/-- A unit that is no instruction comes to issue: cause 0x01 with the word, or a bundle's low 64 bits (R36, R64, R66; log 38, DEDUCED). -/
def execUnassignedEncoding (k : Strand) (word : Word64) (s : State) : Out :=
  .next (s.raise k 0x01 word (s.pcOf k))

/-- The fetch of a unit that comes to issue has failed (R38, R110). A remote fetch that fails raises cause 0x15 as R319 says; for L, V and S,
of which the table of R36 lists it not, it is raised on C's behalf and their unit waits unissued (log 68, DESIGN CHOICE). -/
def execInstructionFetchFault (k : Strand) (cause : BitVec 8) (tval : Word64) (s : State) : Out :=
  .next (bif cause == 0x15 then
      match k with
      | .c => s.cFail .remote 0x06 tval
      | k => (s.reqOver.async 5 tval).hold k
    else s.raise k cause tval (s.pcOf k))

end Sys2Proof.Machine
end

