-- ==== Sys2Proof/Machine/Tension.lean ====
section
/-! DEFINITION. The tension unit (R256 to R271): sensitivity tables, the exact division, the producer settings, and dmd, redmd
and dmd.rd. Quantities of R264 are held as integers in units of 2^-272, so every comparison and sum is exact. -/

namespace Sys2Proof.Machine

/-! ### Tables (R257 to R259) -/

/-- Byte i of a node. -/
def nodeByte (raw : List Byte) (i : Nat) : Byte := raw.getD i 0

/-- Operand slot i + 1 of a node's 16 bytes (R257). -/
def parseSlot (raw : List Byte) (i : Nat) : TSlot :=
  let ref := nodeByte raw (4 + 4 * i)
  let sw := nodeByte raw (6 + 4 * i) ++ nodeByte raw (5 + 4 * i)
  ⟨ref.extractLsb' 5 3, ref.extractLsb' 0 5, sw.extractLsb' 0 12, sw.extractLsb' 12 4⟩

/-- A node from its 16 bytes (R257). -/
def parseNode (raw : List Byte) : TNode :=
  let b0 := nodeByte raw 0
  let b1 := nodeByte raw 1
  { op := b0.extractLsb' 0 4, rfmt := b0.extractLsb' 4 4, w0 := b1.extractLsb' 0 4, sink := b1.extractLsb' 4 3,
    slots := Vector.ofFn fun i => parseSlot raw i.val }

/-- The fields of a node that must be zero are. -/
def nodeZeros (raw : List Byte) : Bool :=
  !(nodeByte raw 1).getLsbD 7 && nodeByte raw 2 == 0 && nodeByte raw 3 == 0 && nodeByte raw 7 == 0 && nodeByte raw 11 == 0 &&
    nodeByte raw 15 == 0

/-- The nodes of a table's bytes. -/
def nodeBytes (raw : List Byte) (n : Nat) : List (List Byte) := (List.range n).map fun i => (raw.drop (16 * i)).take 16
/-- The table of n nodes in these bytes. -/
def parseTable (raw : List Byte) (n : Nat) : List TNode := (nodeBytes raw n).map parseNode

/-- The operand slots of a node with their numbers 1 to 3. -/
def TNode.operands (x : TNode) : List (Nat × TSlot) := (List.range 3).map fun i => (i + 1, vget x.slots i ⟨0, 0, 0, 0⟩)
/-- The used operand slots. -/
def TNode.used (x : TNode) : List (Nat × TSlot) := x.operands.filter fun p => p.2.kind != 0

/-- The limits of one slot in a table of n nodes, held by node `me` (R258, R259). -/
def slotOk (n me : Nat) (x : TSlot) : Bool :=
  match x.kind.toNat with
  | 0 => x.idx == 0 && x.sens == 0 && x.w == 0
  | 1 => decide (me < x.idx.toNat ∧ x.idx.toNat < n)
  | 2 => decide (x.idx.toNat < 8)
  | 3 => decide (x.idx.toNat < 8)
  | 4 => decide (x.idx.toNat < 4)
  | 5 => x.idx == 0
  | _ => false

/-- The limits of one node (R257, R259). -/
def nodeOk (n me : Nat) (raw : List Byte) : Bool :=
  let x := parseNode raw
  nodeZeros raw && decide (1 ≤ x.op.toNat ∧ x.op.toNat ≤ 6) &&
    decide (x.rfmt.toNat ≤ bif x.op == 6 then 8 else 6) && (x.op == 6 || x.sink == 0) && (x.op != 6 || me == 0) &&
    decide (x.w0.toNat ≤ 8) && (x.operands.all fun p => decide (p.2.w.toNat ≤ 8) && slotOk n me p.2) &&
    x.w0.toNat + (x.used.map fun p => p.2.w.toNat).sum == 8

/-- The streams a table names: kind-2 and kind-3 slots and the sink of node 0. -/
def tableStreams (t : List TNode) : List Nat :=
  (t.flatMap fun x => (x.used.filter fun p => p.2.kind == 2 || p.2.kind == 3).map fun p => p.2.idx.toNat) ++
    match t.head? with | some x => bif x.op == 6 then [x.sink.toNat] else [] | none => []
/-- The indices a table's slots of one kind name. -/
def tableKind (t : List TNode) (k : BitVec 3) : List Nat :=
  t.flatMap fun x => (x.used.filter fun p => p.2.kind == k).map fun p => p.2.idx.toNat

/-- A table meets R259. -/
def tableOk (raw : List Byte) (n : Nat) : Bool :=
  let t := parseTable raw n
  (List.range n).all (fun i => nodeOk n i ((raw.drop (16 * i)).take 16)) &&
    (List.range n).all (fun i => i == 0 || (tableKind t 1).count i == 1) &&
    decide (tableStreams t).Nodup && decide (tableKind t 4).Nodup

/-! ### Exact arithmetic (R264) -/

/-- T(f) = ⌈2^16·2^(−f/16)⌉ (R264). -/
def tensT : List Nat :=
  [65536, 62758, 60097, 57549, 55109, 52773, 50536, 48393, 46341, 44377, 42495, 40694, 38968, 37316, 35734, 34219]
/-- Lup(x), in units of 2^-272. -/
def lup (x : Int) : Nat := tensT.getD (x % 16).toNat 0 * 2 ^ (256 - x / 16).toNat
/-- Ldn(x), in units of 2^-272. -/
def ldn (x : Int) : Nat :=
  if x % 16 = 0 then lup x else (tensT.getD (x % 16).toNat 0 - 1) * 2 ^ (256 - x / 16).toNat
/-- Log of num/den units of 2^-272: the least x with Lup(x) ≤ y, or 4,095. -/
def tensLog (num : Int) (den : Nat) : Nat :=
  ((List.range 4096).find? fun (x : Nat) => decide ((lup (x : Int) : Int) * den ≤ num)).getD 4095
/-- Ach(y): the greatest x with Ldn(x) ≥ y, or 0. -/
def tensAch (y : Nat) : Nat := ((List.range 4096).reverse.find? fun (x : Nat) => decide (y ≤ ldn (x : Int))).getD 0

/-! ### Division (R261, R262, R265) -/

/-- q(W) (R261). -/
def tensQ : List Nat := [0, 48, 32, 26, 16, 12, 7, 4, 0]
/-- The share of a slot of sensitivity s and weight w under budget b (R261). -/
def shareOf (b s w : Nat) : Nat := if w = 0 then 4095 else Nat.min 4095 (b + s + tensQ.getD w 0)
/-- k(x) planes for a share (R263). -/
def planesFor (x : Nat) : Nat := Nat.min 8 (Nat.max 2 (ceilDiv x 16))

/-- A division in progress: the nodes divided, whether any node re-divided, and the unmet nodes in the order found, each with
its slot, Avail and Share. -/
structure Dividing where
  div   : List NodeDiv
  rediv : Bool
  unmet : List (Nat × Nat × Nat × Nat)

/-- No division of a node yet. -/
def NodeDiv.zero : NodeDiv := ⟨0, 0, false, false, Vector.replicate 4 0, Vector.replicate 4 false⟩

/-- A slot's sensitivity, 0 for the own slot, and its weight. -/
def TNode.sw (x : TNode) (i : Nat) : Nat × Nat :=
  if i = 0 then (0, x.w0.toNat) else let t := vget x.slots (i - 1) ⟨0, 0, 0, 0⟩; (t.sens.toNat, t.w.toNat)
/-- The numbers of the used slots, the own slot first. -/
def TNode.usedIdx (x : TNode) : List Nat := 0 :: x.used.map (·.1)
/-- The node a kind-1 slot names. -/
def TNode.child (x : TNode) (i : Nat) : Option Nat :=
  if i = 0 then none else let t := vget x.slots (i - 1) ⟨0, 0, 0, 0⟩; bif t.kind == 1 then some t.idx.toNat else none

/-- The own slot's available accuracy (R262). -/
def TNode.ownAvail (x : TNode) : Nat :=
  bif x.op == 6 && (x.rfmt == 7 || x.rfmt == 8) then 128
  else if x.rfmt = 0 then (bif x.op == 4 then 368 else 384)
  else if x.rfmt = 1 then 128
  else if x.rfmt = 2 then 176
  else 4095
/-- Accuracy of k planes. -/
def planesAcc (k : Nat) : Nat := if k < 8 then 16 * k else 4095
/-- The available accuracy of a slot (R262). -/
def slotAvail (x : TNode) (kw : Vector (Option Nat) 8) (div : List NodeDiv) (i : Nat) : Nat :=
  if i = 0 then x.ownAvail
  else
    let t := vget x.slots (i - 1) ⟨0, 0, 0, 0⟩
    if t.kind = 1 then (div.getD t.idx.toNat NodeDiv.zero).achieved
    else if t.kind = 3 then
      match vget kw t.idx.toNat none with
      | some k => planesAcc k
      | none => 4095
    else 4095

/-- Divide(n, b) (R265), to a depth of `fuel` nodes. -/
def divideNode (tab : List TNode) (kw : Vector (Option Nat) 8) : Nat → Nat → Nat → Dividing → Dividing
  | 0, _, _, a => a
  | fuel + 1, n, b, a =>
    let x := tab.getD n ⟨0, 0, 0, 0, Vector.replicate 3 ⟨0, 0, 0, 0⟩⟩
    let used := x.usedIdx
    let put := fun (a : Dividing) (r : NodeDiv) => { a with div := a.div.set n r }
    let cur := fun (a : Dividing) => a.div.getD n NodeDiv.zero
    let sink := fun (a : Dividing) (i : Nat) =>
      match x.child i with
      | some c => divideNode tab kw fuel c (vget (cur a).share i 0) a
      | none => a
    let a := put a { NodeDiv.zero with
      budget := b
      share := Vector.ofFn fun i => bif used.contains i.val then shareOf b (x.sw i.val).1 (x.sw i.val).2 else 0 }
    let a := used.foldl sink a
    let sumOver := fun (l : List Nat) (f : Nat → Nat) => (l.map f).sum
    let pass := fun (st : Dividing × Bool) (_ : Nat) =>
      bif st.2 then st
      else
        let a := st.1
        let r := cur a
        let av := slotAvail x kw a.div
        let d := used.filter fun i => !vget r.fixed i false && decide (av i < vget r.share i 0)
        match d with
        | [] => (put a { r with achieved := b, met := true }, true)
        | lowest :: _ =>
          let fixed := d.foldl (fun f i => vset f i true) r.fixed
          let a := { a with rediv := true }
          let spent := sumOver (used.filter fun i => vget fixed i false) fun i => lup ((av i : Int) - (x.sw i).1)
          let rem : Int := (ldn b : Int) - spent
          let r := { r with fixed := fixed, redivided := true }
          bif decide (rem < 0) then
            let y := sumOver used fun i => lup ((Nat.min (av i) (vget r.share i 0) : Int) - (x.sw i).1)
            (put { a with unmet := a.unmet ++ [(n, lowest, av lowest, vget r.share lowest 0)] } { r with achieved := tensAch y, met := false }, true)
          else
            let rest := used.filter fun i => !vget fixed i false
            let w' := sumOver rest fun i => (x.sw i).2
            let share := fun (i : Nat) =>
              let w := (x.sw i).2
              if w = 0 ∨ w' = 0 then 4095 else Nat.min 4095 ((x.sw i).1 + tensLog (rem * w) w')
            let a := put a { r with share := rest.foldl (fun v i => vset v i (share i)) r.share }
            (rest.foldl sink a, false)
    ((List.range 5).foldl pass (a, false)).1

/-- One division of a table: Divide(0, demand) (R265). -/
def divideTable (tab : List TNode) (kw : Vector (Option Nat) 8) (b : Nat) : Dividing :=
  divideNode tab kw 16 0 b ⟨tab.map fun _ => NodeDiv.zero, false, []⟩

/-! ### Settings (R263) -/

/-- The share of a stream that a held division reaches (R263). A store node's sink of a format other than bpi and bpn, for which R263 has no
row, takes the own slot's share as SHARE, its PLANES unchanged (log 35, DEDUCED). -/
def Held.streamShare (h : Held) (r : SReg) : Option Nat :=
  (List.range h.tab.length).findSome? fun n =>
    match h.tab[n]?, h.div[n]? with
    | some x, some d =>
      bif n == 0 && x.op == 6 && x.sink == r then some (vget d.share 0 0)
      else x.used.findSome? fun p =>
        bif (p.2.kind == 2 || p.2.kind == 3) && p.2.idx == r.setWidth 5 then some (vget d.share p.1 0) else none
    | _, _ => none
/-- The stream is a stationary input of the held table. -/
def Held.stationary (h : Held) (r : SReg) : Bool := (tableKind h.tab 3).contains r.toNat
/-- The special-function share: the largest of the own slots with OP 4 (R263). -/
def Held.sf (h : Held) : Nat :=
  (List.range h.tab.length).foldl (fun m n =>
    match h.tab[n]?, h.div[n]? with
    | some x, some d => bif x.op == 4 then Nat.max m (vget d.share 0 0) else m
    | _, _ => m) 0
/-- The planes of a near-bank operand slot: 8 where no demand reaches it (R263; log 7, DEDUCED). -/
def Tension.nbPlanes (t : Tension) (i : Nat) : Nat :=
  match t.held with
  | none => 8
  | some h =>
    ((List.range h.tab.length).findSome? fun n =>
      match h.tab[n]?, h.div[n]? with
      | some x, some d => x.used.findSome? fun p => bif p.2.kind == 4 && p.2.idx.toNat == i then some (planesFor (vget d.share p.1 0)) else none
      | _, _ => none).getD 8

/-- A descriptor of a bit-plane format. -/
def Desc.isPlane (d : Desc) : Bool := d.ctl.extractLsb' 0 4 == 7 || d.ctl.extractLsb' 0 4 == 8
/-- PLANES of a descriptor. -/
def Desc.planes (d : Desc) : Nat := (d.ctl.extractLsb' 4 4).toNat
/-- A descriptor with PLANES replaced. -/
def Desc.setPlanes (d : Desc) (k : Nat) : Desc :=
  { d with ctl := (d.ctl &&& ~~~(0xf0 : BitVec 16)) ||| (BitVec.ofNat 16 (k % 16) <<< 4) }
/-- A descriptor that sb.go has started (R153). -/
def Desc.active (d : Desc) : Bool := d.ctl.getLsbD 14
/-- A stream's settings from a held demand: SHARE, and PLANES for a bit-plane format; SHARE 0 where no slot reaches it. -/
def Tension.set (t : Tension) (r : SReg) (d : Desc) : Desc :=
  match t.held.bind fun h => h.streamShare r with
  | some x => let d := { d with share := BitVec.ofNat 16 x }; bif d.isPlane then d.setPlanes (planesFor x) else d
  | none => { d with share := 0 }

/-- The special-function share of the held demand; 0 with none (R241, R263). -/
def Tension.sf (t : Tension) : Nat := match t.held with | some h => h.sf | none => 0
/-- Apply(): the settings of every stream that is not active now, of an active one at the next cut; and the special-function share, at the
step's start, before V has issued a bundle, now, else at the next cut (R156, R241, R263, R268; log 35, DEDUCED). -/
def State.applyDemand (s : State) : State :=
  let t := s.core.ten
  let s := allStreams.foldl (fun s r => bif (s.desc r).active then s else s.setDesc r (t.set r (s.desc r))) s
  let begun := decide (0 < s.core.v.seq)
  s.setTen { t with later := allStreams.filter fun r => (s.desc r).active, sfLater := begun, sfShare := bif begun then t.sfShare else t.sf }

/-- DMDX after a division (R266). -/
def dmdxAfter (old : Word64) (r : Dividing) : Word64 :=
  let x := bif r.rediv then old ||| 2 else old
  match r.unmet with
  | [] => x
  | (n, i, av, need) :: _ =>
    let cnt := (satAdd (x.extractLsb' 48 16) 1).setWidth 64 <<< 48
    let rec_ := BitVec.ofNat 64 (n * 2 ^ 8 + i * 2 ^ 12 + av * 2 ^ 16 + need * 2 ^ 32)
    let body := bif old.getLsbD 0 then x &&& 0x0000ffffffffffff else (x &&& 2) ||| rec_
    body ||| 1 ||| cnt

/-- A division made: held, and DMDX updated. -/
def State.divideHeld (s : State) (tab : List TNode) (b : Nat) : State × Bool :=
  let r := divideTable tab s.core.ten.kw b
  let s := s.setTen { s.core.ten with held := some ⟨tab, b, r.div⟩ }
  (s.setCsr { s.core.csr with dmdx := dmdxAfter s.core.csr.dmdx r }, !r.unmet.isEmpty)

/-- Cause 0x10 after a division that left a node unmet, when enabled (R266). -/
def State.unmetCause (s : State) (unmet : Bool) : State :=
  bif unmet && s.core.csr.trapen.getLsbD 2 then s.async 2 s.core.csr.dmdx else s

/-! ### dmd, redmd, dmd.rd (R268 to R270) -/

/-- The held demand is committed: a stream that it reaches has been started in the step, or KW has been set in it from a stream of kind 3 (R268). -/
def Tension.commits (t : Tension) (h : Held) : Bool :=
  (t.started.any fun r => (h.streamShare r).isSome) || allStreams.any fun r => (vget t.kw r.toNat none).isSome && h.stationary r
/-- The division just held commits at once what the step has started already (R268). -/
def State.commitHeld (s : State) : State :=
  s.setTen { s.core.ten with committed := match s.core.ten.held with | some h => s.core.ten.commits h | none => false }

/-- dmd xd, (xa), n (R268). -/
def execDmd (xd xa : XReg) (n : BitVec 4) (s : State) : Out :=
  let ea := s.xRead xa
  let b := bits (s.xRead xd).toNat 11 0
  let w := cWordOf (.dmd xd xa n)
  let cnt := n.toNat + 1
  .next (bif !s.cReady [xd, xa] 0 then s.cStall
    else bif misalignedBy ea 16 then s.cRaise 0x05 ea
    else bif s.core.ten.committed then s.cRaise 0x01 w
    else
      match s.cBytes ea (2 * cnt) with
      | .failed t f va => t.cFail f 0x06 va
      | .waits t => t.cStall
      | .got t raw =>
        bif !tableOk raw cnt then t.cRaise 0x01 w
        else bif b == 0 then
          let t := t.setTen { t.core.ten with held := none, pending := false }
          t.applyDemand.cRetire [xd, xa] 0 0 t.pc4
        else
          let r := t.divideHeld (parseTable raw cnt) b
          (r.1.applyDemand.commitHeld.cRetire [xd, xa] 0 0 t.pc4).unmetCause r.2)
where
  /-- An address that is no multiple of n. -/
  misalignedBy (ea : Word64) (n : Nat) : Bool := ea.toNat % n != 0

/-- A re-demand reaches a running producer: an active kind-2 stream, the sink, or the special-function unit (R27, R269). -/
def State.redemandWaits (s : State) (h : Held) : Bool :=
  (allStreams.any fun r => (s.desc r).active && (h.streamShare r).isSome && !h.stationary r) || h.tab.any fun x => x.op == 4

/-- redmd xd (R269). -/
def execRedmd (xd : XReg) (s : State) : Out :=
  let b := bits (s.xRead xd).toNat 11 0
  let w := cWordOf (.redmd xd)
  .next (bif !s.cReady [xd] 0 then s.cStall
    else
      match s.core.ten.held with
      | none => s.cRaise 0x01 w
      | some h =>
        bif decide (b < (h.div.getD 0 NodeDiv.zero).budget) then s.cRaise 0x01 w
        else
          let r := s.divideHeld h.tab b
          let t := r.1
          let t := t.setTen { t.core.ten with pending := t.core.ten.pending || s.redemandWaits h }
          (t.cRetire [xd] 0 0 t.pc4).unmetCause r.2)

/-- At a cut, the settings a dmd left for it and the waiting re-demand apply (R156, R249, R268, R269). -/
def State.demandAtCut (s : State) : State :=
  let t := s.core.ten
  let s := t.later.foldl (fun s r => bif (s.desc r).active then s.setDesc r (t.set r (s.desc r)) else s) s
  let s := bif t.pending then
      allStreams.foldl (fun s r =>
        match t.held with
        | some h =>
          bif (s.desc r).active && (h.streamShare r).isSome && !h.stationary r then
            let d := s.desc r
            let d' := t.set r d
            let d' := { d' with share := bif decide (d'.share.toNat < d.share.toNat) then d.share else d'.share }
            s.setDesc r (bif d.isPlane && decide (d'.planes < d.planes) then d'.setPlanes d.planes else d')
          else s
        | none => s) s
    else s
  s.setTen { s.core.ten with later := [], pending := false, sfLater := false, sfShare := bif t.pending || t.sfLater then t.sf else t.sfShare }

/-- The iterations of the special-function unit for a share, and their accuracy in bits (R241). -/
def sfIters (share : Nat) : Nat × Nat :=
  if share = 0 then (4, 23) else if share ≤ 128 then (1, 8) else if share ≤ 208 then (2, 13) else if share ≤ 288 then (3, 18) else (4, 23)

/-- The delivered accuracy and the setting that dmd.rd reports for a slot (R270). -/
def State.slotReport (s : State) (h : Held) (n i : Nat) (share : Nat) : Nat × Nat :=
  let x := h.tab.getD n ⟨0, 0, 0, 0, Vector.replicate 3 ⟨0, 0, 0, 0⟩⟩
  if i = 0 then
    bif x.op == 6 && (s.desc x.sink).isPlane then (16 * planesFor share, planesFor share)
    else bif x.op == 4 then let it := sfIters h.sf; (16 * it.2, it.1)
    else (x.ownAvail, 0)
  else
    let t := vget x.slots (i - 1) ⟨0, 0, 0, 0⟩
    if t.kind = 1 then ((h.div.getD t.idx.toNat NodeDiv.zero).achieved, 0)
    else
      let isPlane := t.kind == 4 || ((t.kind == 2 || t.kind == 3) && (s.desc (t.idx.setWidth 3)).isPlane)
      let k := match vget s.core.ten.kw t.idx.toNat none with
        | some k => bif t.kind == 3 then k else planesFor share
        | none => planesFor share
      bif isPlane then (planesAcc k, k) else (4095, 0)

/-- What dmd.rd returns (R270; log 40, DEDUCED). -/
def State.dmdRead (s : State) (sel : BitVec 3) (node : BitVec 4) : Word64 :=
  match s.core.ten.held with
  | none => 0
  | some h =>
    match h.tab[node.toNat]?, h.div[node.toNat]? with
    | some x, some d =>
      if sel = 0 then
        BitVec.ofNat 64 (d.budget + d.achieved * 2 ^ 12 + d.met.toNat * 2 ^ 24 + d.redivided.toNat * 2 ^ 25 +
          s.core.ten.pending.toNat * 2 ^ 26 + 2 ^ 27)
      else
        let i := sel.toNat - 1
        bif !x.usedIdx.contains i then 0
        else
          let sh := vget d.share i 0
          let r := s.slotReport h node.toNat i sh
          BitVec.ofNat 64 (sh + r.1 * 2 ^ 12 + r.2 * 2 ^ 24 + (vget d.fixed i false).toNat * 2 ^ 28)
    | _, _ => 0

/-- dmd.rd xd, node, sel (R270). -/
def execDmdRd (xd : XReg) (sel : BitVec 3) (node : BitVec 4) (s : State) : Out := s.cExec [] xd (s.dmdRead sel node)

end Sys2Proof.Machine
end

