-- ==== Sys2Proof/Machine/Stream.lean ====
section
/-! DEFINITION. The pool (R146 to R152), stream descriptors and the elements of their patterns (R153 to R157), and the sb.*
instructions (R181 to R185). -/

namespace Sys2Proof.Machine

/-! ### The pool -/

/-- PB0, PB1 or PB2. -/
def State.pb (s : State) (i : Nat) : Nat := (vget s.core.csr.pb i 0).toNat
/-- The capacity of a vector register in bytes: ⌊PB0 / 24 KiB⌋ KiB (R147). -/
def State.vcap (s : State) : Nat := s.pb 0 / 24576 * 1024
/-- A pool byte; one that nothing has written since the step's start is free (R150, log 6, DESIGN CHOICE). -/
def State.poolByte (s : State) (off : Nat) : Byte := kget s.core.pool.cells off (Config.freePoolByte s.core.pool.epoch off)
/-- Pool bytes from an offset. -/
def State.poolBytes (s : State) (off n : Nat) : List Byte := (List.range n).map fun i => s.poolByte (off + i)
/-- A little-endian datum of the pool. -/
def State.poolNat (s : State) (off n : Nat) : Nat := leNat (s.poolBytes off n)
/-- Pool bytes written. A word whose eight bytes are all written has its check bits made anew. -/
def State.poolWrite (s : State) (off : Nat) (bs : List Byte) : State :=
  let p := s.core.pool
  let cells := (List.range bs.length).foldl (fun c i => kset c (off + i) (bs.getD i 0)) p.cells
  let bad := p.bad.filter fun w => !decide (off ≤ w ∧ w + 8 ≤ off + bs.length)
  { s with core := { s.core with pool := { p with cells := cells, bad := bad } } }
/-- The first 8-byte word of a range with a double-bit error (R151). -/
def State.poolBad (s : State) (off n : Nat) : Option Nat := s.core.pool.bad.find? fun w => decide (w < off + n ∧ off < w + 8)
/-- TVAL of a double-bit error: the pool offset with bit 63 set (R151). -/
def poolTval (off : Nat) : Word64 := BitVec.ofNat 64 (2 ^ 63 + off)
/-- The first offset of a scratchpad range outside [PB0, PB1); an empty range passes (R146, R158). -/
def State.scratchBad (s : State) (off n : Nat) : Option Nat :=
  if n = 0 then none
  else if off < s.pb 0 then some off
  else if s.pb 1 < off + n then some (Nat.max off (s.pb 1))
  else none

/-! ### Accesses of streams and engines -/

/-- What an access answers: its physical addresses, why it fails, or that it waits for a bias flip (R322). -/
inductive Access (α : Type)
  | ok (a : α)
  | fail (f : XFail)
  | waits

/-- The physical addresses of n bytes at a virtual address, each checked. -/
def State.vaBytes (s : State) (w : Who) (va : Word64) (n : Nat) (need : Need) (weightOk : Bool := false) (ag : Nat := 0) : Access (List Nat) :=
  match (List.range n).mapM fun i => s.xlate w (va + BitVec.ofNat 64 i) need weightOk with
  | .error .waits => .waits
  | .error f => .fail f
  | .ok pas => bif pas.any (s.holdsAt ag (decide (need = .rd))) then .waits else .ok pas

/-! ### Descriptor fields (R153) -/

/-- FMT. -/
def Desc.fmt (d : Desc) : Nat := bits d.ctl.toNat 3 0
/-- DIR: output. -/
def Desc.out (d : Desc) : Bool := d.ctl.getLsbD 8
/-- LSYM. -/
def Desc.lsym (d : Desc) : Nat := bits d.ctl.toNat 11 9
/-- WINEN. -/
def Desc.winen (d : Desc) : Bool := d.ctl.getLsbD 12
/-- SCL. -/
def Desc.scl (d : Desc) : Bool := d.ctl.getLsbD 13
/-- ACTIVE set or cleared. -/
def Desc.setActive (d : Desc) (b : Bool) : Desc := { d with ctl := (d.ctl &&& 0xbfff) ||| bif b then 0x4000 else 0 }
/-- FSC set or cleared. -/
def Desc.setFsc (d : Desc) (b : Bool) : Desc := { d with ctl := (d.ctl &&& 0x7fff) ||| bif b then 0x8000 else 0 }
/-- Rows of a block. -/
def Desc.br (d : Desc) : Nat := bits d.block.toNat 7 0 + 1
/-- Columns of a block. -/
def Desc.bc (d : Desc) : Nat := bits d.block.toNat 15 8 + 1
/-- COUNTj. -/
def Desc.cnt (d : Desc) (j : Nat) : Nat := (vget d.count j 0).toNat
/-- STRIDEj. -/
def Desc.str (d : Desc) (j : Nat) : Int := (vget d.stride j 0).toInt
/-- KH. -/
def Desc.kh (d : Desc) : Nat := bits d.win.toNat 3 0
/-- KW. -/
def Desc.kw (d : Desc) : Nat := bits d.win.toNat 7 4
/-- SH + 1. -/
def Desc.sh (d : Desc) : Nat := bits d.win.toNat 10 8 + 1
/-- SW + 1. -/
def Desc.sw (d : Desc) : Nat := bits d.win.toNat 13 11 + 1
/-- PT. -/
def Desc.pt (d : Desc) : Nat := bits d.win.toNat 16 14
/-- PL. -/
def Desc.pl (d : Desc) : Nat := bits d.win.toNat 19 17
/-- PBOT. -/
def Desc.pbot (d : Desc) : Nat := bits d.win.toNat 22 20
/-- PRT. -/
def Desc.prt (d : Desc) : Nat := bits d.win.toNat 25 23
/-- Z. -/
def Desc.z (d : Desc) : Bool := d.win.getLsbD 26
/-- POS. -/
def Desc.at_ (d : Desc) : Nat := d.pos.toNat
/-- POS moved on by n elements; fetched-ahead data of the delivered block is used up. -/
def Desc.advance (d : Desc) (n : Nat) : Desc := { d with pos := BitVec.ofNat 64 ((d.at_ + n) % 2 ^ 48), ahead := d.ahead.tail }

/-- The 64 bytes of a descriptor (R153). -/
def Desc.bytes (d : Desc) : List Byte :=
  leBytes 8 d.base.toNat ++ (d.count.toList.flatMap fun c => leBytes 3 c.toNat) ++ (d.stride.toList.flatMap fun c => leBytes 3 c.toNat) ++
    leBytes 8 d.scaleBase.toNat ++ leBytes 4 d.scaleStride.toNat ++ leBytes 2 d.ctl.toNat ++ leBytes 2 d.block.toNat ++
    leBytes 4 d.win.toNat ++ leBytes 2 d.share.toNat ++ leBytes 2 0 ++ leBytes 8 d.pos.toNat
/-- The little-endian number in bytes [o, o+n). -/
def leAt (b : List Byte) (o n : Nat) : Nat := leNat ((b.drop o).take n)
/-- A descriptor from its 64 bytes. -/
def Desc.ofBytes (b : List Byte) : Desc :=
  { base := BitVec.ofNat 64 (leAt b 0 8), count := Vector.ofFn fun j => BitVec.ofNat 24 (leAt b (8 + 3 * j.val) 3),
    stride := Vector.ofFn fun j => BitVec.ofNat 24 (leAt b (20 + 3 * j.val) 3), scaleBase := BitVec.ofNat 64 (leAt b 32 8),
    scaleStride := BitVec.ofNat 32 (leAt b 40 4), ctl := BitVec.ofNat 16 (leAt b 44 2), block := BitVec.ofNat 16 (leAt b 46 2),
    win := BitVec.ofNat 32 (leAt b 48 4), share := BitVec.ofNat 16 (leAt b 52 2), pos := BitVec.ofNat 64 (leAt b 56 8),
    ahead := [], late := false, came := 0, req := [] }

/-! ### Patterns (R154, R155) -/

/-- OH or OW of a dimension: extent, both paddings, kernel, stride. -/
def outDim (ext p q k st : Nat) : Nat := ((((ext + p + q : Nat) : Int) - k) / (st : Int) + 1).toNat
/-- OH. -/
def Desc.oh (d : Desc) : Nat := outDim (d.cnt 2) d.pt d.pbot d.kh d.sh
/-- OW. -/
def Desc.ow (d : Desc) : Nat := outDim (d.cnt 1) d.pl d.prt d.kw d.sw
/-- M, the rows of the implicit matrix. -/
def Desc.mRows (d : Desc) : Nat := d.cnt 3 * d.oh * d.ow
/-- K, its columns. -/
def Desc.kCols (d : Desc) : Nat := d.kh * d.kw * d.cnt 0
/-- E, the pattern's length. -/
def Desc.len (d : Desc) : Nat := bif d.winen then d.mRows * d.kCols else d.cnt 0 * d.cnt 1 * d.cnt 2 * d.cnt 3

/-- The address that an index tuple has, and its position in its 128-element group for a bit-plane format (R154). -/
def Desc.addr (d : Desc) (i0 i1 i2 i3 : Int) : Word64 × Nat :=
  let rest := i1 * d.str 1 + i2 * d.str 2 + i3 * d.str 3
  bif d.isPlane then (d.base + BitVec.ofInt 64 (128 * (i0 / 128 + rest)), (i0 % 128).toNat)
  else (d.base + BitVec.ofInt 64 (fmtSize d.fmt * (i0 * d.str 0 + rest)), 0)

/-- The row and column of the implicit matrix that element `e` of a window pattern is: tiles with kk fastest, row by row. -/
def Desc.winIndex (d : Desc) (e : Nat) : Nat × Nat :=
  let k := d.kCols
  let r := e / (d.br * k)
  let p := e % (d.br * k)
  let nr := Nat.min d.br (d.mRows - r * d.br)
  let c := p / (nr * d.bc)
  let q := p % (nr * d.bc)
  let nc := Nat.min d.bc (k - c * d.bc)
  (r * d.br + q / nc, c * d.bc + q % nc)

/-- Where element (m, kk) of the implicit matrix lies: nowhere when it is an outside position read as zero (R155). -/
def Desc.winAddr (d : Desc) (m kk : Nat) : Option (Word64 × Nat) :=
  let n := m / (d.oh * d.ow)
  let oh := m / d.ow % d.oh
  let ow := m % d.ow
  let ky := kk / (d.kw * d.cnt 0)
  let kx := kk / d.cnt 0 % d.kw
  let c := kk % d.cnt 0
  let ih : Int := (oh * d.sh : Nat) - (d.pt : Int) + ky
  let iw : Int := (ow * d.sw : Nat) - (d.pl : Int) + kx
  bif d.z && !decide (0 ≤ ih ∧ ih < d.cnt 2 ∧ 0 ≤ iw ∧ iw < d.cnt 1) then none
  else some (d.addr c (sat iw 0 ((d.cnt 1 : Int) - 1)) (sat ih 0 ((d.cnt 2 : Int) - 1)) n)

/-- Where element `e` of the pattern lies. -/
def Desc.elem (d : Desc) (e : Nat) : Option (Word64 × Nat) :=
  bif d.winen then let x := d.winIndex e; d.winAddr x.1 x.2
  else
    let c0 := d.cnt 0
    let c1 := d.cnt 1
    let c2 := d.cnt 2
    some (d.addr (e % c0 : Nat) (e / c0 % c1 : Nat) (e / (c0 * c1) % c2 : Nat) (e / (c0 * c1 * c2) : Nat))

/-- The running number of the scale group of element `e` (R154, R155). -/
def Desc.group (d : Desc) (e : Nat) : Nat :=
  bif d.winen then let x := d.winIndex e; x.1 * ceilDiv d.kCols 128 + x.2 / 128
  else e / d.cnt 0 * ceilDiv (d.cnt 0) 128 + e % d.cnt 0 / 128
/-- The address of a group's scale. -/
def Desc.scaleAddr (d : Desc) (g : Nat) : Word64 := d.scaleBase + BitVec.ofInt 64 (g * d.scaleStride.toInt)

/-- The entries of the block at a position: for each of the BR·BC places, the element that fills it, or none for a completing
zero (R154, R155). -/
def Desc.blockAt (d : Desc) (pos : Nat) : List (Option Nat) :=
  bif d.winen then
    let x := d.winIndex pos
    let nr := Nat.min d.br (d.mRows - x.1)
    let nc := Nat.min d.bc (d.kCols - x.2)
    (List.range (d.br * d.bc)).map fun i =>
      let r := i / d.bc
      let c := i % d.bc
      if r < nr ∧ c < nc then some (pos + r * nc + c) else none
  else (List.range (d.br * d.bc)).map fun i => if pos + i < d.len then some (pos + i) else none
/-- The pattern elements of a block. -/
def blockElems (l : List (Option Nat)) : List Nat := l.filterMap id

/-! ### Reading and writing elements -/

/-- The bytes of an element of k planes: plane byte addresses, or its size in bytes. -/
def Desc.elemVas (d : Desc) (x : Word64 × Nat) (k : Nat) : List Word64 :=
  bif d.isPlane then (List.range k).map fun j => x.1 + BitVec.ofNat 64 (16 * j + x.2 % 16)
  else (List.range (fmtSize d.fmt)).map fun j => x.1 + BitVec.ofNat 64 j

/-- The physical addresses of a list of virtual ones, each checked. -/
def State.vasOk (s : State) (w : Who) (vas : List Word64) (need : Need) : Access (List Nat) :=
  match vas.mapM fun va => s.xlate w va need with
  | .error .waits => .waits
  | .error f => .fail f
  | .ok pas => bif pas.any (s.holdsAt 0 (decide (need = .rd))) then .waits else .ok pas

/-- The bits of an element read with k planes: planes not read are zero (R154, R170). -/
def State.readElem (s : State) (d : Desc) (k e : Nat) : Access Word32 :=
  match d.elem e with
  | none => .ok 0
  | some x =>
    match s.vasOk s.whoT (d.elemVas x k) .rd with
    | .fail f => .fail f
    | .waits => .waits
    | .ok pas =>
      let bs := pas.map s.rd8
      bif d.isPlane then
        .ok (BitVec.ofNat 32 ((List.range k).map fun j => bif (bs.getD j 0).getLsbD (x.2 / 16) then 2 ^ (7 - j) else 0).sum)
      else .ok (BitVec.ofNat 32 (leNat bs))

/-- The virtual address that a stream fault names: the element's (R157). -/
def Desc.elemVa (d : Desc) (e : Nat) : Word64 := match d.elem e with | some x => x.1 | none => d.base

/-- A scale read. -/
def State.readScale (s : State) (d : Desc) (g : Nat) : Access (BitVec 16) :=
  match s.vaBytes s.whoT (d.scaleAddr g) 2 .rd with
  | .fail f => .fail f
  | .waits => .waits
  | .ok pas => .ok (BitVec.ofNat 16 (leNat (pas.map s.rd8)))

/-- What reading a list of elements or scales answers: their values; the first that fails, with its element, whether it was a
scale, and its address; or a wait. -/
inductive Fetch
  | ok (vals : List Word32) (scales : List (BitVec 16))
  | fail (f : XFail) (e : Nat) (scale : Bool) (va : Word64)
  | waits

/-- Elements read in order, each one event, with the scale of each group before its first element (R156). -/
def State.fetchElems (s : State) (d : Desc) (k : Nat) : List Nat → Option Nat → List Word32 → List (BitVec 16) → Fetch
  | [], _, vs, ss => .ok vs.reverse ss.reverse
  | e :: es, g, vs, ss =>
    bif d.scl && g != some (d.group e) then
      match s.readScale d (d.group e) with
      | .fail f => .fail f e true (d.scaleAddr (d.group e))
      | .waits => .waits
      | .ok sc =>
        match s.readElem d k e with
        | .fail f => .fail f e false (d.elemVa e)
        | .waits => .waits
        | .ok v => s.fetchElems d k es (some (d.group e)) (v :: vs) (sc :: ss)
    else
      match s.readElem d k e with
      | .fail f => .fail f e false (d.elemVa e)
      | .waits => .waits
      | .ok v => s.fetchElems d k es g (v :: vs) ss

/-- The cause and TVAL of a failing stream element (R36, R157). -/
def streamCause (r : SReg) (f : XFail) (e : Nat) (va : Word64) : BitVec 8 × Word64 :=
  match f with
  | .noTrans => (0x08, BitVec.ofNat 64 (r.toNat + e % 2 ^ 48 * 256))
  | f => xfailCause f 0x08 va

/-- A stream access of a strand has failed at an element: FSC, the discarded fetch-ahead, and the cause (R157). A remote element that fails
raises cause 0x15 (R319), on C's behalf as the table of R36 has it, with the word or tick held (log 68, DESIGN CHOICE). -/
def State.streamFault (s : State) (k : Strand) (r : SReg) (f : XFail) (e : Nat) (scale : Bool) (va tfpc : Word64) : State :=
  let d := s.desc r
  let d := match f with | .noTrans => d.setFsc scale | _ => d
  let s := s.setDesc r { d with ahead := [], req := [] }
  let c := streamCause r f e va
  match f with
  | .remote => (s.reqOver.async 5 va).hold k
  | _ => s.raise k c.1 c.2 tfpc (r.setWidth 32) va

/-- The pages of a stream's elements brought into the TLB. -/
def State.fillFor (s : State) (d : Desc) (es : List Nat) : State :=
  let p := s.core.ctx.part
  let v := s.core.ctx.vf
  es.foldl (fun s e => match d.elem e with
    | some x =>
      let s := s.fillTlb p v x.1
      bif d.scl then s.fillTlb p v (d.scaleAddr (d.group e)) else s
    | none => s) s

/-- The planes of the next block popped: those of the block fetched ahead, else PLANES now (R156). -/
def Desc.popPlanes (d : Desc) : Nat := match d.ahead with | p :: _ => p.toNat | [] => d.planes

/-! ### sb.* (R181 to R185) -/

/-- The limits that sb.go and a prologue check (R153, R154, R156). R154's limit on BC of a bit-plane stream, of which R156's list says nothing, is checked
with them (log 78, DEDUCED). -/
def Desc.ok (d : Desc) : Bool :=
  let w := d.win
  (d.count.all fun c => c != 0) && decide (d.fmt ≤ 8) &&
    (bif d.isPlane then decide (2 ≤ d.planes ∧ d.planes ≤ 8) && d.str 0 == 1 && decide (d.bc % 128 = 0) else d.planes == 0) &&
    (!d.scl || !d.scaleBase.getLsbD 0) && !d.scaleStride.getLsbD 0 && w.extractLsb' 27 5 == 0 &&
    (bif d.winen then
      !d.out && decide (1 ≤ d.kh ∧ 1 ≤ d.kw ∧ d.pt < d.kh ∧ d.pbot < d.kh ∧ d.pl < d.kw ∧ d.prt < d.kw)
    else w == 0) &&
    d.share.extractLsb' 12 4 == 0

/-- A write form of sb.*: cause 0x01 with nothing changed when the stream is active or an operand is out of range (R182). -/
def State.sbWrite (s : State) (i : Instr) (srcs : List XReg) (r : SReg) (bad : Bool) (f : Desc → Desc) : State :=
  bif !s.cReady srcs 0 then s.cStall
  else bif (s.desc r).active || bad then s.cRaise 0x01 (cWordOf i)
  else (s.setDesc r (f (s.desc r))).cRetire srcs 0 0 s.pc4

/-- sb.base s, xa (R181). -/
def execSbBase (r : SReg) (xa : XReg) (s : State) : Out :=
  .next (s.sbWrite (.sbBase r xa) [xa] r false fun d => { d with base := s.xRead xa })
/-- sb.base.sc s, xa, xb (R181, R182). -/
def execSbBaseSc (r : SReg) (xa xb : XReg) (s : State) : Out :=
  let b := (s.xRead xb).toInt
  .next (s.sbWrite (.sbBaseSc r xa xb) [xa, xb] r (decide (b < -2147483648 ∨ 2147483647 < b)) fun d =>
    { d with scaleBase := s.xRead xa, scaleStride := (s.xRead xb).extractLsb' 0 32 })
/-- sb.dim s, dim, xa, xb (R181, R182). -/
def execSbDim (r : SReg) (dim : BitVec 2) (xa xb : XReg) (s : State) : Out :=
  let a := (s.xRead xa).toNat
  let b := (s.xRead xb).toInt
  .next (s.sbWrite (.sbDim r dim xa xb) [xa, xb] r (decide (a = 0 ∨ 16777215 < a ∨ b < -8388608 ∨ 8388607 < b)) fun d =>
    { d with count := d.count.set dim.toNat ((s.xRead xa).extractLsb' 0 24) dim.isLt,
             stride := d.stride.set dim.toNat ((s.xRead xb).extractLsb' 0 24) dim.isLt })
/-- sb.fmt s, xa, xb (R181). -/
def execSbFmt (r : SReg) (xa xb : XReg) (s : State) : Out :=
  .next (s.sbWrite (.sbFmt r xa xb) [xa, xb] r false fun d =>
    { d with ctl := d.ctl.extractLsb' 14 2 ++ (s.xRead xa).extractLsb' 0 14, block := (s.xRead xb).extractLsb' 0 16 })
/-- sb.win s, xa (R181). -/
def execSbWin (r : SReg) (xa : XReg) (s : State) : Out :=
  .next (s.sbWrite (.sbWin r xa) [xa] r false fun d => { d with win := d.win.extractLsb' 27 5 ++ (s.xRead xa).extractLsb' 0 27 })

/-- A checked descriptor started: POS and FSC cleared, SHARE and PLANES from the held demand, ACTIVE set (R183). -/
def Desc.start (d : Desc) (t : Tension) (r : SReg) : Desc := ((t.set r { d with pos := 0, ahead := [], late := false, came := 0, req := [] }).setFsc false).setActive true

/-- sb.go s (R183). Starting a stream that the held demand reaches commits the demand (R268). -/
def execSbGo (r : SReg) (s : State) : Out :=
  let d := s.desc r
  .next (bif d.active || !d.ok then s.cRaise 0x01 (cWordOf (.sbGo r))
    else
      let t := s.core.ten
      let reached := (t.held.bind fun h => h.streamShare r).isSome
      let s := s.setDesc r (d.start t r)
      let s := s.setTen { t with committed := t.committed || reached, started := r :: t.started, later := t.later.filter (· != r) }
      s.cRetire [] 0 0 s.pc4)

/-- sb.stop s (R184): C holds while a pop of s waits for its data. -/
def execSbStop (r : SReg) (s : State) : Out :=
  bif s.core.v.flight.any fun f => f.await.any fun a => a.1 == r then .next s.cStall
  else
    let d := s.desc r
    let s := bif d.active then s.setDesc r { d.setActive false with ahead := [], late := false, req := [] } else s
    .next (s.cRetire [] 0 0 s.pc4)

/-- sb.rd xd, s, n (R185). -/
def execSbRd (xd : XReg) (r : SReg) (n : BitVec 3) (s : State) : Out :=
  s.cExec [] xd (BitVec.ofNat 64 (leAt (s.desc r).bytes (8 * n.toNat) 8))

end Sys2Proof.Machine
end

