-- ==== Sys2Proof/Machine/Time.lean ====
section
/-! DEFINITION. The passing of cycles (R4, R6): issue permits (R395, R396), the droop response (R401, R402), lane-group power
(R203), and latency samples (R243 to R246). Every turn of the machine takes one cycle (log 12, DESIGN CHOICE). -/

namespace Sys2Proof.Machine

/-- Cycle j of a window holds a cap permit (R395). -/
def capPermit (p j : Nat) : Bool := decide (j * p / 16 < (j + 1) * p / 16)

/-- The current cycle holds an issue permit (R396, R402). -/
def State.permitted (s : State) : Bool :=
  let x := s.core.csr
  capPermit x.permit.toNat (x.cycle.toNat % 16) &&
    match s.pkg.droop with
    | some n => !(decide (7 ≤ n ∧ n ≤ 70) && (n - 7) % 2 == 0)
    | none => true

/-- The droop response put at an offset from its trip, or ended: six stretched cycles, then 64 half-issue cycles (R402). -/
def State.setDroop (s : State) (d : Option Nat) : State :=
  let d := match d with | some n => bif decide (n < 72) then some n else none | none => none
  let s := s.setPkg { s.pkg with droop := d }
  s.setCsr { s.core.csr with
    str := match d with | some n => decide (1 ≤ n ∧ n ≤ 6) | none => false
    half := match d with | some n => decide (7 ≤ n ∧ n ≤ 70) | none => false }

/-- A trip is counted, and starts the response; one during the stretched cycles is ignored; one in a later cycle of a response, which stays what it is,
starts it again (R401, R402). -/
def State.trip (s : State) : State :=
  let s := s.setPkg { s.pkg with droops := satAdd s.pkg.droops 1 }
  match s.pkg.droop with
  | some n => bif decide (n < 7) then s else s.setPkg { s.pkg with again := true }
  | none => (s.setDroop (some 0)).setDbg { s.core.dbg with drOn := s.core.dbg.traceDr }
/-- A lane group of the cluster wakes: under margin test it trips the detector (R401). -/
def State.laneWakes (s : State) : State := bif s.core.csr.drMt then (s.setCsr { s.core.csr with drMt := false }).trip else s

/-- A line of the droop trace at an offset: CYCLE, TSTAMP at the cycle's start, TICK after it, STR, HALF and the permit (R407). -/
def State.droopLine (s : State) (on : Bool) (n : Nat) : State :=
  bif on then
    let x := s.core.csr
    s.setDbg { s.core.dbg with drLines := s.core.dbg.drLines ++
      [⟨"droop", n, [x.cycle.toNat, s.tstamp, x.tick.toNat, x.str.toNat, x.half.toNat, s.permitted.toNat]⟩] }
  else s
/-- The lines of a cycle: of a response that began under the trace; of a cycle in which another starts, the new one's first, and the last of the one that
had ended (R407). -/
def State.droopTrace (s : State) : State :=
  match s.pkg.droop with
  | some n =>
    bif s.pkg.again then
      let d := s.core.dbg
      let t := (bif n == 71 then s.droopLine d.drOn n else s).droopLine d.traceDr 0
      t.setDbg { t.core.dbg with drOn := d.traceDr }
    else s.droopLine s.core.dbg.drOn n
  | none => s
/-- The response moves on by a cycle (R402). -/
def State.droopNext (s : State) : State :=
  match s.pkg.droop with
  | some n => bif s.pkg.again then (s.setPkg { s.pkg with again := false }).setDroop (some 1) else s.setDroop (some (n + 1))
  | none => s

/-- A lane group after a cycle: powered down after its 4,096th cycle in a row without a beat (R203). -/
def LaneGroup.idleCycle (g : LaneGroup) : LaneGroup :=
  bif !g.on then g
  else bif g.beat then { g with beat := false }
  else bif decide (4096 ≤ g.idle + 1) then ⟨false, 0, false⟩ else { g with idle := g.idle + 1 }

/-- The permit count of the site's partition comes into force at a window's first cycle (R395). -/
def State.permitWindow (s : State) : State :=
  bif s.core.csr.cycle.toNat % 16 == 0 then s.setCsr { s.core.csr with permit := (s.part (s.sitePart.getD s.myPart)).permit } else s

/-- A cycle spent stretched is counted (R247); a core frozen or stopped is not in a stretch's wait. -/
def State.stretchCycle (s : State) : State :=
  bif s.core.v.stretch.isSome && !s.core.trap.frz && !s.core.dbg.stopped then
    let x := s.core.csr.stretch
    s.setCsr { s.core.csr with stretch := x.extractLsb' 40 24 ++ satAdd (x.extractLsb' 0 40) 1 }
  else s

/-- L, V and S are frozen in place, or one of them is held at its own unit (R30 to R32, R300, R367). -/
def State.heldBack (s : State) (k : Strand) : Bool :=
  s.core.trap.frz || match s.core.trap.wait with | some w => w.frozen || decide (w.strand = k) | none => false

/-- The conditions of R44 on what the strands wait for: none is in mwait or asleep in a barrier word, frozen, stopped, or waiting on
a stream's data. -/
def State.dogRuns (s : State) : Bool :=
  let k := s.core
  s.stepOn && !k.trap.frz && !(match k.trap.wait with | some w => w.seq.isSome || w.frozen | none => false) && !k.dbg.stopped &&
    !(match k.c.run with | .mwait .. | .bar _ => true | _ => false) && k.v.stretch.isNone && !k.l.waits && !k.s.waits

/-- The watchdog's count (R44), and that of a freeze waited for (R31). -/
def State.waitCycle (s : State) : State :=
  let t := s.core.trap
  s.setTrap { t with dog := bif s.dogRuns then t.dog + 1 else 1,
                     wait := t.wait.map fun w => bif w.frozen then w else { w with cycles := w.cycles + 1 } }

/-- The tick rates kept with that of the current cycle, when it differs from the last (R7, R244). -/
def State.ratesNow (s : State) : List (Nat × BitVec 5 × Bool) :=
  let now := (s.core.csr.permit, s.core.csr.half)
  match s.core.ctx.rates with
  | [] => [(s.core.ctx.live, now)]
  | r :: t => bif r.2 == now then r :: t else (s.core.ctx.live, now) :: (r :: t).take 255
/-- A live cycle is counted, with its tick rate: one of a step's in which the core is neither frozen by a trap nor stopped (R243, R244). -/
def State.liveCycle (s : State) : State :=
  bif s.stepOn && !s.core.trap.frz && !(match s.core.trap.wait with | some w => w.frozen | none => false) && !s.core.dbg.stopped then
    s.setCtx { s.core.ctx with live := s.core.ctx.live + 1, rates := s.ratesNow }
  else s

/-- One cycle passes: CYCLE, TSTAMP's time (10 units of 1/33 ns, 20 in a stretched cycle), the response, the lane groups. -/
def State.passCycle (s : State) : State :=
  let len := bif s.core.csr.str then 20 else 10
  let s := s.droopTrace
  let s := { s with time := s.time + len }
  let s := s.setCsr { s.core.csr with cycle := s.core.csr.cycle + 1 }
  let s := (s.count 0x01 1).stretchCycle.waitCycle.liveCycle
  let s := s.droopNext
  let s := { s with core := { s.core with lanes := s.core.lanes.map LaneGroup.idleCycle } }
  s.permitWindow

/-- n cycles pass. -/
def State.passCycles : Nat → State → State
  | 0, s => s
  | n + 1, s => State.passCycles n s.passCycle

/-! ### Samples (R243 to R246) -/

/-- The running step declares a symbol of a name that names a source (R273; log 27, DESIGN CHOICE). -/
def State.declares (s : State) (name : Nat) (src : BitVec 4) : Bool :=
  match s.core.ctx.cast with
  | some c => allStreams.any fun i => (s.sym i).src == src && Config.symName (vget c.pcs 0 0) i.toNat == name
  | none => false
/-- The cycles that chxdbg adds to a source: those of its last command on a name that the step gives to a symbol of the source (R273). -/
def State.injected (s : State) (src : BitVec 4) : Nat :=
  match s.core.dbg.inject.find? fun x => s.declares x.1 src with | some x => x.2.toNat | none => 0
/-- The tick rate in force at a count of live cycles: ISSUEPERMIT, and half-issue (R244). -/
def State.rateAt (s : State) (at_ : Nat) : BitVec 5 × Bool :=
  match s.core.ctx.rates.find? fun r => decide (r.1 ≤ at_) with
  | some r => bif decide (at_ < s.core.ctx.live) then r.2 else (s.core.csr.permit, s.core.csr.half)
  | none => (s.core.csr.permit, s.core.csr.half)
/-- A sample of n cycles that ends at a count of live cycles, in ticks (R244). -/
def State.sampleTicks (s : State) (n at_ : Nat) : Nat :=
  let r := s.rateAt at_
  Nat.min 63 (ceilDiv (n * r.1.toNat) (bif r.2 then 32 else 16))

/-- Request(v) of R246. -/
def Mon.request (m : Mon) (b v : Nat) : Mon := { m with req := bif v != b then some (BitVec.ofNat 6 v, false) else none }
/-- A monitor after a sample x: its window, its counts, and its request; a pinned symbol, one with a pin pending, and every symbol under
replay request nothing (R245, R246, R252, R253). -/
def Sym.sampled (y : Sym) (x : Nat) (quiet : Bool) : Mon :=
  let b := y.bind.toNat
  let m := y.mon
  let win := (x :: m.win).take 16
  let a := bif decide (b < x) then m.a + 1 else 0
  let c := bif decide (x + 2 ≤ b) then m.b + 1 else 0
  let mute := quiet || (match m.req with | some (_, true) => true | _ => false)
  bif m.pinned then { m with win := win, a := a, b := c }
  else bif decide (4 ≤ a) then
    let n := { m with win := win, a := 0, b := c }
    bif mute then n else n.request b (Nat.min y.hi.toNat ((win.take 4).foldl Nat.max 0))
  else bif decide (256 ≤ c) then
    let n := { m with win := win, a := a, b := 0 }
    bif mute then n else n.request b (Nat.max y.lo.toNat (win.foldl Nat.max 0))
  else { m with win := win, a := a, b := c }

/-- One symbol takes a sample: BOUNDX, and cause 0x0e pending, beyond hi (R39, R246). -/
def State.sampleSym (s : State) (i : BitVec 3) (x : Nat) : State :=
  let y := s.sym i
  let s := s.setSym i { y with mon := y.sampled x ((s.part s.myPart).repMode == 2) }
  bif decide (y.hi.toNat < x) then
    let w := s.core.csr.boundx
    let s := s.setCsr { s.core.csr with boundx := (0#16) ++ satAdd (w.extractLsb' 16 32) 1 ++ (0#8) ++ (w.extractLsb' 0 8 ||| (1#8 <<< i.toNat)) }
    bif s.core.csr.trapen.getLsbD 0 then s.setPend 0 (BitVec.ofNat 64 (i.toNat + 256 * x)) else s
  else s

/-- Every symbol that names a source takes a sample of n cycles that ended at a count of live cycles (R243, R244, R246; log 65, DESIGN CHOICE). -/
def State.sampleAt (s : State) (src : BitVec 4) (n at_ : Nat) : State :=
  let x := s.sampleTicks n at_
  bif !s.stepOn || src == 0 then s else allStreams.foldl (fun s i => bif (s.sym i).src == src then s.sampleSym i x else s) s
/-- Every symbol that names a source takes a sample of n cycles that ends now. -/
def State.takeSample (s : State) (src : BitVec 4) (n : Nat) : State := s.sampleAt src n s.core.ctx.live
/-- The symbol source of a stream (R243). -/
def streamSource (r : SReg) : BitVec 4 := r.setWidth 4 + 1

end Sys2Proof.Machine
end

