-- ==== Sys2Proof/Machine/CEngine.lean ====
section
/-! DEFINITION. The copy and gather engines and the migrate unit: the words that command them (R186 to R193, R197, R198, R200)
and the steps they take (R159 to R161, R188 to R195, R197, R199, R313, R314). -/

namespace Sys2Proof.Machine

/-- The commands of an engine. -/
def State.cmds (s : State) (e : Eng) : List Cmd := match e with | .copy => s.core.eng.copy | .gather => s.core.eng.gather
/-- The commands of an engine replaced. -/
def State.setCmds (s : State) (e : Eng) (l : List Cmd) : State :=
  match e with
  | .copy => s.setEng { s.core.eng with copy := l }
  | .gather => s.setEng { s.core.eng with gather := l }
/-- The depth of an engine's queue (R14). -/
def engDepth : Eng → Nat | .copy => 16 | .gather => 8

/-- A pool operand in a register: bits [20:0] (R186). -/
def poolOff (x : Word64) : Nat := bits x.toNat 20 0
/-- The upper pool operand of gth and sct: bits [52:32] (R188). -/
def poolOffHi (x : Word64) : Nat := bits x.toNat 52 32
/-- Bytes of an index. -/
def Cmd.iwBytes (c : Cmd) : Nat := bif c.iw then 2 else 4
/-- Bytes of an element of gth or sct. -/
def Cmd.size (c : Cmd) : Nat := 2 ^ c.sz.toNat

/-- The pool ranges a command reads, and those it writes, as offset and length (R188). -/
def Cmd.ranges (c : Cmd) : List (Nat × Nat) × List (Nat × Nat) :=
  match c.kind with
  | .mp => ([], [(poolOff c.b, c.len)])
  | .pm => ([(poolOff c.a, c.len)], [])
  | .mm => ([], [])
  | .pp => ([(poolOff c.a, c.len)], [(poolOff c.b, c.len)])
  | .gth => ([(poolOff c.b, c.len * c.iwBytes)], [(poolOffHi c.b, c.len * c.size)])
  | .sct => ([(poolOff c.b, c.len * c.iwBytes), (poolOffHi c.b, c.len * c.size)], [])
  | .pub | .ecw => ([], [])
/-- The command writes memory, and so publishes. -/
def Cmd.toMem (c : Cmd) : Bool := match c.kind with | .pm | .mm | .sct => true | _ => false
/-- The command is cp, gth or sct. -/
def Cmd.data (c : Cmd) : Bool := match c.kind with | .pub | .ecw => false | _ => true
/-- The command has done everything but leave its queue. -/
def Cmd.finished (c : Cmd) : Bool := c.written && (c.published || (c.data && !c.toMem))
/-- Two ranges share a byte. -/
def overlaps (a b : Nat × Nat) : Bool := decide (a.1 < b.1 + b.2 ∧ b.1 < a.1 + a.2) && a.2 != 0 && b.2 != 0
/-- One of the commands writes a pool byte that the other reads or writes (R159). -/
def Cmd.conflicts (c d : Cmd) : Bool :=
  (c.ranges.2.any fun x => (d.ranges.1 ++ d.ranges.2).any fun y => overlaps x y) ||
    c.ranges.1.any fun x => d.ranges.2.any fun y => overlaps x y

/-- The sample of a copy-engine command that publishes or leaves: the live cycles since it entered its queue (R243). -/
def State.copySample (s : State) (c : Cmd) : State := s.takeSample 0xb (s.core.ctx.live - c.since)
/-- The samples of copy-engine commands that leave without writing memory (R243). -/
def State.leaveSamples (s : State) (l : List Cmd) : State := (l.filter fun c => !c.toMem && decide (c.kind ≠ .ecw)).foldl State.copySample s

/-- The cycles that chxdbg injects into a copy-engine command's completion have passed since its natural end (R244, R273). -/
def State.cmdDue (s : State) (c : Cmd) : Bool :=
  c.extra == 0 || match c.fin with | some t => decide (t + c.extra ≤ s.core.ctx.live) | none => false
/-- A finished command may leave: one that writes no memory has waited out what is injected into it (R189, R244). -/
def State.mayLeave (s : State) (c : Cmd) : Bool := c.finished && (c.toMem || !c.data || s.cmdDue c)
/-- Commands without a completion entry leave when they have finished (R189). -/
def State.reap (s : State) : State :=
  let keep := fun (c : Cmd) => !s.mayLeave c || c.done
  let e := s.core.eng
  let e' := { e with copy := e.copy.filter keep, gather := e.gather.filter keep }
  let s' := (s.leaveSamples (e.copy.filter fun c => !keep c)).setEng e'
  bif e'.copy.length == e.copy.length && e'.gather.length == e.gather.length then s' else s'.touch

/-! ### The words -/

/-- KIND of a completion entry (R192). -/
def CmdKind.code : CmdKind → Nat | .gth => 1 | .sct => 2 | .pub => 3 | _ => 0
/-- The completion entry of a command (R192). -/
def Cmd.entry (c : Cmd) : Word64 := BitVec.ofNat 64 (c.tag.toNat + c.kind.code * 2 ^ 16)

/-- A command before anything of it has happened. -/
def Cmd.fresh (k : CmdKind) (ctl a b : Word64) (len : Nat) (done defer iw all : Bool) (sz : BitVec 3) (val : Word64) (seq : Nat) : Cmd :=
  { kind := k, a := a, b := b, len := len, tag := ctl.extractLsb' 32 16, done := done, defer := defer, iw := iw, all := all, sz := sz,
    val := val, started := false, pos := 0, buf := [], torn := [], shadow := [], written := false, published := false, fault := none, seq := seq,
    since := 0, extra := 0, fin := none }

/-- An engine word: it stalls while its queue is full, checks its pool ranges as it would enter, and enters (R17, R158, R188, R196). -/
def State.engWord (s : State) (e : Eng) (srcs : List XReg) (bad : Option (BitVec 8 × Word64)) (c : Cmd) : State :=
  bif !s.cReady srcs 0 || decide (engDepth e ≤ (s.cmds e).length) then s.cStall
  else
    match bad with
    | some (cause, tval) => s.cRaise cause tval
    | none =>
      match (c.ranges.1 ++ c.ranges.2).findSome? fun r => s.scratchBad r.1 r.2 with
      | some off => s.cRaise 0x0c (BitVec.ofNat 64 off)
      | none =>
        let s := s.flushStore
        let c := { c with since := s.core.ctx.live, extra := match e with | .copy => s.injected 0xb | .gather => 0 }
        let s := s.setCmds e (s.cmds e ++ [c])
        let s := s.setEng { s.core.eng with seq := s.core.eng.seq + 1 }
        s.cRetire srcs 0 0 s.pc4

/-- A cp word. -/
def State.cpWord (s : State) (k : CmdKind) (xd xa xb : XReg) (done defer : Bool) : State :=
  let ctl := s.xRead xd
  s.engWord .copy [xd, xa, xb] none
    (Cmd.fresh k ctl (s.xRead xa) (s.xRead xb) (bits ctl.toNat 27 0) done defer false false 0 0 s.core.eng.seq)

/-- cp.mp (R188). -/
def execCpMp (xd xa xb : XReg) (done : Bool) (s : State) : Out := .next (s.cpWord .mp xd xa xb done false)
/-- cp.pm (R188). -/
def execCpPm (xd xa xb : XReg) (done defer : Bool) (s : State) : Out := .next (s.cpWord .pm xd xa xb done defer)
/-- cp.mm (R188). -/
def execCpMm (xd xa xb : XReg) (done defer : Bool) (s : State) : Out := .next (s.cpWord .mm xd xa xb done defer)
/-- cp.pp (R188). -/
def execCpPp (xd xa xb : XReg) (done : Bool) (s : State) : Out := .next (s.cpWord .pp xd xa xb done false)

/-- A gth or sct word: cause 0x01 when bits [27:19] of LEN are not zero (R186). -/
def State.gsWord (s : State) (e : Eng) (k : CmdKind) (i : Instr) (xd xa xb : XReg) (done defer iw : Bool) (sz : BitVec 3) : State :=
  let ctl := s.xRead xd
  s.engWord e [xd, xa, xb] (bif bits ctl.toNat 27 19 != 0 then some (0x01, cWordOf i) else none)
    (Cmd.fresh k ctl (s.xRead xa) (s.xRead xb) (bits ctl.toNat 18 0) done defer iw false sz 0 s.core.eng.seq)

/-- gth (R188). -/
def execGth (xd xa xb : XReg) (done iw : Bool) (sz : BitVec 3) (s : State) : Out :=
  .next (s.gsWord .gather .gth (.gth xd xa xb done iw sz) xd xa xb done false iw sz)
/-- sct (R188). -/
def execSct (xd xa xb : XReg) (done defer iw : Bool) (sz : BitVec 3) (s : State) : Out :=
  .next (s.gsWord .copy .sct (.sct xd xa xb done defer iw sz) xd xa xb done defer iw sz)
/-- pub (R190). -/
def execPub (xd : XReg) (done : Bool) (s : State) : Out :=
  .next (s.engWord .copy [xd] none (Cmd.fresh .pub (s.xRead xd) 0 0 0 done false false false 0 0 s.core.eng.seq))
/-- ecw: a misaligned address raises cause 0x05 and is not queued (R191). -/
def execEcw (xd xa : XReg) (all : Bool) (s : State) : Out :=
  let a := s.xRead xa
  .next (s.engWord .copy [xd, xa] (bif a.toNat % 8 != 0 then some (0x05, a) else none)
    (Cmd.fresh .ecw 0 a 0 0 false false false all 0 (s.xRead xd) s.core.eng.seq))

/-- What eq.rd returns (R193). -/
def State.eqRead (s : State) (e : Eng) (sel : BitVec 2) : Word64 :=
  let q := s.cmds e
  if sel = 0 then BitVec.ofNat 64 q.length
  else if sel = 1 then (q.findSome? fun c => c.fault.map (·.va)).getD 0
  else if sel = 2 then
    match q.head? with
    | some c => BitVec.ofNat 64 (c.tag.toNat + c.pos % 2 ^ 32 * 2 ^ 16)
    | none => 0
  else BitVec.ofNat 64 s.core.q.ecq.length
/-- eq.rd xd, eng, sel (R193). -/
def execEqRd (xd : XReg) (gather : Bool) (sel : BitVec 2) (s : State) : Out :=
  s.flushStore.cExec [] xd (s.eqRead (bif gather then .gather else .copy) sel)

/-! ### Moving elements -/

/-- An engine access has failed: the engine stops at its element, and the cause is forwarded or delivered (R40, R191, R195, R367). The faulting address is
the element's first, also of an element that lies across a page boundary (R195; log 70, DEDUCED). -/
def State.engFault (s : State) (e : Eng) (i : Nat) (c : Cmd) (f : XFail) (va : Word64) : State :=
  let who := (match e with | .copy => 0 | .gather => 1) * 2 ^ 16
  let r := match f with
    | .noTrans => match c.kind with
      | .ecw => ((0x07 : BitVec 8), va)
      | _ => (0x09, BitVec.ofNat 64 (c.tag.toNat + who))
    | f => xfailCause f 0x09 va
  let s := match f with | .remote => s.reqOver | _ => s
  let p := s.core.ctx.part
  let fwd := (match f with | .noTrans => true | _ => false) && (s.part p).fwdE && s.fqRoom p
  let seq := bif fwd then some (s.part p).seq else none
  let aux := match c.kind with | .ecw => 0 | _ => BitVec.ofNat 32 (c.tag.toNat + who)
  let s := bif fwd then s.post p (s.recOf r.1 true va aux 0 0 r.2) else s
  let s := s.setCmds e ((s.cmds e).set i { c with fault := some ⟨r.1, r.2, va, false, seq⟩ })
  s.deliverUnits

/-- A command of the engine holds its entry for a full completion queue, so no other starts its pool writes, whichever of them was issued first (R161,
R196; log 70, DEDUCED). -/
def State.poolHeld (s : State) (e : Eng) : Bool := decide (16 ≤ s.core.q.ecq.length) && (s.cmds e).any fun c => s.mayLeave c && c.done

/-- The ways of a line's set that this core's shadows may pin: those that no other core's shadow or fallback line pins and that no other partition has
reserved (R307, R314). -/
def State.shadowWays (s : State) (line : Nat) : Nat := 16 - kget s.pkg.pins (l2Key line) 0 - s.othersWays (some s.core.ctx.part)
/-- A new shadow byte fits: its line is in a shadow, its set has a way left, or the die's overflow at the line's home has room beside what other
cores' shadows take of it (R314). -/
def State.shadowFits (s : State) (pa : Nat) : Bool :=
  let ls := s.shadowLines
  let same := fun (a b : Nat) => l2Key a == l2Key b
  bif decide (s.region pa ≠ .hbm) || ls.contains (lineOf pa) then true
  else bif decide ((ls.filter fun l => same l (lineOf pa)).length < s.shadowWays (lineOf pa)) then true
  else
    let die := (l2Set (s.norm pa)).1
    let past := (ls.filter fun l => (l2Set (l * 128)).1 == die && decide (s.shadowWays l ≤ (ls.filter fun m => decide (m < l) && same m l).length)).length
    decide ((past + 1) * 128 + vget s.pkg.overUsed die 0 ≤ vget s.pkg.overflow die 0)

/-- Shadow bytes added; a later element's byte remains (R188). -/
def Cmd.shade (c : Cmd) (pas : List Nat) (bs : List Byte) : Cmd :=
  { c with shadow := (List.range pas.length).foldl (fun l i => kset l (pas.getD i 0) (bs.getD i 0)) c.shadow }

/-- A sign-extended index of gth or sct (R188). -/
def idxVal (n v : Nat) : Word64 := BitVec.ofInt 64 ((BitVec.ofNat (8 * n) v).toInt)

/-- The natural end of a command that writes no memory: its last element (R243, R244). -/
def State.natural (s : State) (c : Cmd) (ends : Bool) : Option Nat := bif ends && c.extra != 0 && !c.toMem then some s.core.ctx.live else c.fin
/-- A command moved on by one element. -/
def State.advance (s : State) (e : Eng) (i : Nat) (c : Cmd) : State :=
  let ends := decide (c.len ≤ c.pos + 1)
  s.setCmds e ((s.cmds e).set i { c with pos := c.pos + 1, written := ends, fin := s.natural c ends })

/-- The pool word a command is about to read has a double-bit error: cause 0x13 on C (R151, R195). -/
def State.engPoolFault (s : State) (e : Eng) (i : Nat) (c : Cmd) (off : Nat) : State :=
  (s.setCmds e ((s.cmds e).set i { c with fault := some ⟨0x13, poolTval off, 0, false, none⟩ })).deliverUnits

/-- An element's memory source, read. -/
def State.engRead (s : State) (e : Eng) (i : Nat) (c : Cmd) (va : Word64) (n : Nat) (f : State → List Byte → State × Bool) : State × Bool :=
  let s := s.fillTlb s.core.ctx.part s.core.ctx.vf va
  match s.vaBytes s.whoT va n .rd false 1 with
  | .fail x => (s.engFault e i c x va, false)
  | .waits => (s, false)
  | .ok pas => f (s.orderLines 1 false pas) (pas.map s.rd8)
/-- An element's memory destination, written to the shadow; weight-store pages only for cp without done or defer (R199). -/
def State.engShade (s : State) (e : Eng) (i : Nat) (c : Cmd) (va : Word64) (bs : List Byte) : State × Bool :=
  let s := s.fillTlb s.core.ctx.part s.core.ctx.vf va
  let wOk := (match c.kind with | .pm | .mm => true | _ => false) && !c.done && !c.defer
  match s.vaBytes s.whoT va bs.length .wr wOk 1 with
  | .fail x => (s.engFault e i c x va, false)
  | .waits => (s, false)
  | .ok pas =>
    bif pas.all s.shadowFits then
      let s := s.advance e i (c.shade pas bs)
      (((pas.map fun a => l2Key (lineOf (s.norm a))).eraseDups).foldl (fun s k => s.l2Trim k true) s, true)
    else (s, false)
/-- An element's pool source, read. -/
def State.engPool (s : State) (e : Eng) (i : Nat) (c : Cmd) (off n : Nat) (f : State → List Byte → State × Bool) : State × Bool :=
  match s.poolBad off n with
  | some w => (s.engPoolFault e i c w, false)
  | none => f s (s.poolBytes off n)
/-- An element's pool destination, written. -/
def State.engPoolWrite (s : State) (e : Eng) (i : Nat) (c : Cmd) (off : Nat) (bs : List Byte) : State × Bool :=
  bif s.poolHeld e then (s, false) else ((s.poolWrite off bs).advance e i c, true)
/-- The next byte of a cp.pp: from the source as it was before the first write; of a word that had a double-bit error then, from the pool, once it has
none (R151, R188, R195). -/
def State.ppByte (s : State) (e : Eng) (i : Nat) (c : Cmd) (f : State → List Byte → State × Bool) : State × Bool :=
  let off := poolOff c.a + c.pos
  bif c.torn.contains (off / 8 * 8) then s.engPool e i c off 1 f else f s [c.buf.getD c.pos 0]

/-- One element of a running command moves: the machine, and whether the command can go on (R188, R195). -/
def State.moveOne (s : State) (e : Eng) (i : Nat) : State × Bool :=
  match (s.cmds e)[i]? with
  | none => (s, false)
  | some c =>
    let off := BitVec.ofNat 64 c.pos
    bif c.written || c.fault.isSome then (s, false)
    else
      match c.kind with
      | .mp => s.engRead e i c (c.a + off) 1 fun s bs => s.engPoolWrite e i c (poolOff c.b + c.pos) bs
      | .pm => s.engPool e i c (poolOff c.a + c.pos) 1 fun s bs => s.engShade e i c (c.b + off) bs
      | .mm => s.engRead e i c (c.a + off) 1 fun s bs => s.engShade e i c (c.b + off) bs
      | .pp =>
        bif c.buf.isEmpty then
          (s.setCmds e ((s.cmds e).set i { c with buf := s.poolBytes (poolOff c.a) c.len, torn := s.core.pool.bad }), true)
        else s.ppByte e i c fun s bs => s.engPoolWrite e i c (poolOff c.b + c.pos) bs
      | .gth =>
        s.engPool e i c (poolOff c.b + c.iwBytes * c.pos) c.iwBytes fun s ib =>
          s.engRead e i c (c.a + idxVal c.iwBytes (leNat ib) * BitVec.ofNat 64 c.size) c.size fun s bs =>
            s.engPoolWrite e i c (poolOffHi c.b + c.pos * c.size) bs
      | .sct =>
        s.engPool e i c (poolOff c.b + c.iwBytes * c.pos) c.iwBytes fun s ib =>
          s.engPool e i c (poolOffHi c.b + c.pos * c.size) c.size fun s bs =>
            s.engShade e i c (c.a + idxVal c.iwBytes (leNat ib) * BitVec.ofNat 64 c.size) bs
      | .pub | .ecw => (s, false)

/-- At most n elements move. -/
def State.moveMany (e : Eng) (i : Nat) : Nat → State → State
  | 0, s => s
  | n + 1, s => let r := s.moveOne e i; bif r.2 then State.moveMany e i n r.1 else r.1

/-- The command an engine works on: the one started and not written, else the first that the range checker lets start (R159).
An engine stopped by a fault starts nothing (R195). -/
def State.engPick (s : State) (e : Eng) : Option Nat :=
  let q := s.cmds e
  bif q.any fun c => c.fault.isSome then none
  else
    let idx := List.range q.length
    let at_ := fun (i : Nat) (p : Cmd → Bool) => match q[i]? with | some c => p c | none => false
    match idx.find? fun i => at_ i fun c => c.started && !c.written with
    | some i => some i
    | none => idx.find? fun i => at_ i fun c =>
        c.data && !c.started &&
          !(s.core.eng.copy ++ s.core.eng.gather).any fun d => decide (d.seq < c.seq) && !d.written && c.conflicts d

/-- The virtual addresses, one a line, that a command reads in memory as it moves its elements from one position to another (log 69, DESIGN CHOICE). -/
def State.engReads (s : State) (c : Cmd) (from_ upto : Nat) : List Word64 :=
  match c.kind with
  | .mp | .mm =>
    let a := c.a + BitVec.ofNat 64 from_
    (List.range ((a.toNat % 128 + (upto - from_) + 127) / 128)).map fun j => bif j == 0 then a else BitVec.ofNat 64 ((a.toNat / 128 + j) * 128)
  | .gth => (List.range (upto - from_)).map fun j =>
      c.a + idxVal c.iwBytes (leNat (s.poolBytes (poolOff c.b + c.iwBytes * (from_ + j)) c.iwBytes)) * BitVec.ofNat 64 c.size
  | _ => []
/-- A command's accesses at the L2 as it has moved on from a position: the lines that it has read, and the fallback lines of its pool ranges (R152,
R376; log 69, DESIGN CHOICE). -/
def State.engCounts (s : State) (c : Cmd) (upto : Nat) : State :=
  let n := upto - c.pos
  bif n == 0 then s
  else
    let s := ((s.engReads c c.pos upto).filterMap fun va => s.ctxPa s.core.ctx.part s.core.ctx.vf va).foldl (fun s a => s.l2Engine a true) s
    (c.ranges.1 ++ c.ranges.2).foldl (fun s r => let k := r.2 / Nat.max c.len 1; s.fallCount (r.1 + k * c.pos) (k * n)) s
/-- The engine's command is started, one of length 0 done at once with nothing to publish (R188), and at most n elements move. -/
def State.engRun (s : State) (e : Eng) (n : Nat) : State :=
  match s.engPick e with
  | none => s
  | some i =>
    match (s.cmds e)[i]? with
    | none => s
    | some c =>
      let nil := c.len == 0
      let goes := nil && (c.extra == 0 || c.defer)
      let s := bif goes && c.toMem then s.copySample c else s
      let s := s.setCmds e ((s.cmds e).set i
        { c with started := true, written := c.written || nil, published := c.published || goes || nil && !c.toMem, fin := s.natural c nil })
      let s := State.moveMany e i n s
      let upto := match (s.cmds e)[i]? with | some d => d.pos | none => c.pos
      (s.engCounts c upto).reap

/-- The elements a command still has to move, its buffer step among them. -/
def State.engLeft (s : State) (e : Eng) : Nat :=
  match s.engPick e with
  | some i => match (s.cmds e)[i]? with | some c => c.len - c.pos + 1 | none => 0
  | none => 0

/-- An engine starts its next command, or goes on with the running one, moving its elements (R188). -/
def execEngineCommandStart (e : Eng) (s : State) : Out := .next (s.engRun e (s.engLeft e))

/-! ### Publishing -/

/-- Bytes published as one event: bytes of the weight store wait for the bind-off bundle; a line covered only in part stays
poisoned with a record (R189, R199, R330). -/
def State.publishCells (s : State) (cs : List Host.Cell) (weight : Bool) : State :=
  let isW := fun (a : Nat) => match s.region a with | .weight _ => true | _ => false
  let now := cs.filter fun c => weight || !isW c.1
  let later := cs.filter fun c => !weight && isW c.1
  let s := s.setEng { s.core.eng with wstore := later.foldl (fun l c => kset l c.1 c.2) s.core.eng.wstore }
  let lines := (now.map fun c => lineOf c.1).eraseDups
  let s := lines.foldl (fun s l => (s.orderAt 1 true (l * 128)).l2Engine (l * 128) false) s
  let s := (s.memWrite now none true true).coverAt .now (now.map (·.1))
  let s := (lines.filter fun l => s.mem.poison.contains l).foldl (fun s l => s.memRec 0x21 (l * 128)) s
  s.count 0x0b now.length

/-- Copy-engine commands published in one step, in issue order (R189, R190); of one that a flip finds partly written, what it has written (R322; log 71,
DEDUCED). The bytes of a cp to the weight store wait for the bind-off bundle (R199), but the command counts as published here: it leaves its queue, and
holds no later publish back (log 39, DEDUCED). -/
def State.publishCmds (s : State) (p : Cmd → Bool) : State :=
  let q := s.core.eng.copy
  let now := q.filter fun c => p c && !c.published
  let s := s.setEng { s.core.eng with copy := q.map fun c => bif p c then { c with published := c.published || c.written, shadow := [] } else c }
  ((now.filter fun c => c.toMem && c.written).foldl State.copySample s).publishCells (now.flatMap (·.shadow)) false

/-- The first copy-engine command that may publish by itself: written, not deferred, every earlier one published (R189; log 39, DEDUCED). -/
def Engines.nextPublish (e : Engines) : Option Cmd :=
  match e.copy.find? fun c => (c.toMem && !c.published) || !c.data && !c.published with
  | some c => bif c.toMem && c.written && !c.defer then some c else none
  | none => none

/-- The lines of unpublished bytes may be written: no page of theirs is in a flip, and no lease on them is live (R308, R322). -/
def State.mayPublish (s : State) (p : Cmd → Bool) : Bool :=
  (s.core.eng.copy.filter fun c => p c && !c.published).all fun c => c.shadow.all fun x => !s.holdsAt 1 false x.1
/-- What commands of the copy engine come to at their natural end: it waits out the cycles injected into each of them (R244, R273; log 65, DESIGN CHOICE). -/
def State.whenDue (s : State) (p : Cmd → Bool) (f : State → State) : State :=
  let ended := fun (c : Cmd) => bif p c && c.extra != 0 && c.fin.isNone then { c with fin := some s.core.ctx.live } else c
  let s := s.setEng { s.core.eng with copy := s.core.eng.copy.map ended }
  bif s.core.eng.copy.all (fun c => !p c || s.cmdDue c) then f s else s

/-- The copy engine's next publish made (R189, R313). -/
def State.publishNext (s : State) : State :=
  match s.core.eng.nextPublish with
  | some c => bif s.mayPublish fun d => d.seq == c.seq then (s.publishCmds fun d => d.seq == c.seq).reap else s
  | none => s
/-- A publish (R189, R313); it waits out the cycles injected into its command. -/
def execEnginePublish (s : State) : Out :=
  .next (match s.core.eng.nextPublish with
    | some c => bif s.mayPublish fun d => d.seq == c.seq then s.whenDue (fun d => d.seq == c.seq) State.publishNext else s
    | none => s)

/-- The first pub or ecw of the copy engine, when every earlier command has written its last element; an engine stopped by a fault starts none (R190,
R191, R195). -/
def Engines.barrierHead (e : Engines) : Option Cmd :=
  match e.copy.find? fun c => !c.data && !c.published with
  | some c => bif e.copy.all fun d => d.fault.isNone && (!decide (d.seq < c.seq) || d.written) then some c else none
  | none => none

/-- A pub at its place publishes every earlier command in one step, and is done (R190). -/
def State.pubNext (s : State) : State :=
  match s.core.eng.barrierHead with
  | some c =>
    bif decide (c.kind = .pub) && s.mayPublish (fun d => decide (d.seq < c.seq) && d.toMem) then
      let s := s.publishCmds fun d => decide (d.seq < c.seq) && d.toMem
      (s.setEng { s.core.eng with copy := s.core.eng.copy.map fun d => bif d.seq == c.seq then { d with written := true, published := true } else d }).reap
    else s
  | none => s
/-- The command d publishes, or ends, with the pub or ecw c. -/
def Cmd.endsWith (c d : Cmd) : Bool := decide (d.seq < c.seq) && d.toMem && !d.published || d.seq == c.seq
/-- PUB_EXECUTE (R190); it waits out the cycles injected into what it publishes and into the pub. -/
def execPubExecute (s : State) : Out :=
  .next (match s.core.eng.barrierHead with
    | some c =>
      bif decide (c.kind = .pub) && s.mayPublish (fun d => decide (d.seq < c.seq) && d.toMem) then s.whenDue c.endsWith State.pubNext else s
    | none => s)

/-- An ecw at its place: it publishes as pub does, waits for earlier commands to leave, and stores (R191). -/
def State.ecwNext (s : State) : State :=
  match s.core.eng.barrierHead with
  | some c =>
    bif decide (c.kind = .ecw) && s.mayPublish (fun d => decide (d.seq < c.seq) && d.toMem) then
      let s := (s.publishCmds fun d => decide (d.seq < c.seq) && d.toMem).reap
      let older := (s.core.eng.copy.any fun d => decide (d.seq < c.seq)) ||
        c.all && s.core.eng.gather.any fun d => decide (d.seq < c.seq)
      bif older then s
      else
        let s := s.fillTlb s.core.ctx.part s.core.ctx.vf c.a
        match s.vaBytes s.whoT c.a 8 .wr false 1 with
        | .fail f => s.engFault .copy 0 c f c.a
        | .waits => s
        | .ok pas =>
          let s := ((((s.copySample c).orderAt 1 true (pas.getD 0 0)).l2Engine (pas.getD 0 0) false).store (pas.getD 0 0) (leBytes 8 c.val.toNat) none true).coverAt .now pas
          (s.setEng { s.core.eng with copy := s.core.eng.copy.filter fun d => d.seq != c.seq }).touch
    else s
  | none => s
/-- ECW_EXECUTE (R191); it waits out the cycles injected into what it publishes, and into the ecw once only that is left to wait for. -/
def execEcwExecute (s : State) : Out :=
  .next (match s.core.eng.barrierHead with
    | some c =>
      let last := !(s.core.eng.copy.any fun d => decide (d.seq < c.seq) && d.done) && !(c.all && s.core.eng.gather.any fun d => decide (d.seq < c.seq))
      bif decide (c.kind = .ecw) && s.mayPublish (fun d => decide (d.seq < c.seq) && d.toMem) then
        s.whenDue (fun d => c.endsWith d && (last || d.seq != c.seq)) State.ecwNext
      else s
    | none => s)

/-- The first finished command of an engine pushes its completion entry, when the queue has room, and leaves (R161, R189, R192). -/
def execCompletionEntryPush (e : Eng) (s : State) : Out :=
  .next (match (s.cmds e).find? fun c => s.mayLeave c && c.done with
    | some c =>
      bif decide (16 ≤ s.core.q.ecq.length) then s
      else
        let s := match e with | .copy => s.leaveSamples [c] | .gather => s
        let s := s.setCmds e ((s.cmds e).filter fun d => d.seq != c.seq)
        (s.setQ { s.core.q with ecq := s.core.q.ecq ++ [c.entry] }).touch
    | none => s)

/-! ### Migrate (R197, R198) -/

/-- mig xa, xb (R197): it never stalls on its table. -/
def execMig (xa xb : XReg) (s : State) : Out :=
  let page := s.xRead xa
  let c := s.core.ctx
  .next (bif !s.cReady [xa, xb] 0 then s.cStall
    else
      let s := s.flushStore
      let m := s.core.mig
      let free := (List.range 8).find? fun i => (vget m.table i none).isNone
      let m' : Migrate :=
        bif canonical page && (s.tlbFind c.part c.vf page).isSome then m
        else match free with
          | none => { m with drop := satAdd m.drop 1 }
          | some i => { m with table := vset m.table i (some ⟨page, s.xRead xb, none⟩) }
      ({ s with core := { s.core with mig := m' } }).cRetire [xa, xb] 0 0 s.pc4)

/-- An entry of the migrate table freed. -/
def Migrate.free (m : Migrate) (i : Nat) : Migrate := { m with table := vset m.table i none }

/-- What comes of an entry's translation (R197, R322, R323). -/
inductive MigResult
  | lands
  | flips (page : Nat)
  | waits
  | drops
  | faults
/-- The translation of a migrate entry. A mig is no read and no write, and R197 does not say of which its permission is: the model tests RD with TK
(log 70, DEDUCED). -/
def State.migLook (s : State) (va : Word64) : MigResult :=
  let p := s.core.ctx.part
  bif !canonical va then .drops
  else
    match s.leafFor p s.core.ctx.vf va with
    | .none => .faults
    | .guard _ | .barred => .drops
    | .waits => .waits
    | .leaf log e =>
      let pa := entryAddr e / 2 ^ log * 2 ^ log + bits va.toNat (log - 1) 0
      match s.paCheck p pa .wr true with
      | .error .remote => .lands
      | .error _ => .drops
      | .ok a =>
        bif !leafAllows e .rd true then .drops
        else bif s.inFlip a then .waits
        else bif e.getLsbD 6 && decide (s.region a = .hbm) && s.hostBias a then .flips (a / 65536)
        else .lands

/-- The translation of a migrate entry lands, late or not; or it needs a flip first, is dropped, or has a page fault (R197). -/
def execMigTranslationLands (i : BitVec 3) (s : State) : Out :=
  let m := s.core.mig
  let set := fun (s : State) (m : Migrate) => { s with core := { s.core with mig := m } }
  .next (match vget m.table i.toNat none with
    | none => s
    | some e =>
      bif e.fault.isSome then s
      else
        match s.migLook e.page with
        | .lands =>
          let s := s.fillTlb s.core.ctx.part s.core.ctx.vf e.page
          let m := bif decide (e.deadline.toNat < s.core.csr.tick.toNat) then { m with slip := satAdd m.slip 1 } else m
          set s (m.free i.toNat)
        | .flips page => s.setMem { s.mem with flips := s.mem.flips ++ [(page, false, s.tstamp)] }
        | .waits => s
        | .drops => set s { m.free i.toNat with drop := satAdd m.drop 1 }
        | .faults =>
          let p := s.core.ctx.part
          let tval := BitVec.ofNat 64 (i.toNat + 2 * 2 ^ 16)
          let fwd := (s.part p).fwdE && s.fqRoom p
          let seq := bif fwd then some (s.part p).seq else none
          let s := bif fwd then s.post p (s.recOf 0x09 true e.page (tval.setWidth 32) 0 0 tval) else s
          (set s { m with table := vset m.table i.toNat (some { e with fault := some ⟨0x09, tval, e.page, false, seq⟩ }) }).deliverUnits)

/-- mig.rd xd, sel (R198). -/
def execMigRd (xd : XReg) (sel : BitVec 2) (s : State) : Out :=
  let m := s.core.mig
  s.flushStore.cExec [] xd (if sel = 0 then m.slip.setWidth 64 else if sel = 1 then m.drop.setWidth 64
    else BitVec.ofNat 64 ((List.range 8).filter fun i => (vget m.table i none).isSome).length)

/-! ### Refresh windows (R200) -/

/-- The start of the refresh window of a bank that contains a TSTAMP, or of the next one. -/
def refreshStart (b t : Nat) : Nat :=
  let j := (t + 16000 - 1000 * b - 192) / 16000
  if t < 1000 * b + 192 then 1000 * b else 16000 * j + 1000 * b

/-- wrf.rd xd, xa: C's pending store takes place first (R310); under replay the TSTAMP is the recorded one (R200, R405). -/
def execWrfRd (xd xa : XReg) (s : State) : Out :=
  .next (bif !s.cReady [xa] xd then s.cStall
    else
      let b := bits (s.xRead xa).toNat 3 0
      let s := s.flushStore
      let r := s.replayed 4 s.cKey 0 (BitVec.ofNat 64 s.tstamp)
      r.1.cRetire [xa] xd (BitVec.ofNat 64 (refreshStart b r.2.toNat)) s.pc4)

/-- A bank's refresh window ends: time goes on to its end, and the reads that waited take place at their next turns (R200, R351). -/
def execRefreshWindowEnd (_die : BitVec 2) (bank : BitVec 4) (s : State) : Out :=
  let b := bank.toNat
  let start := refreshStart b s.tstamp
  .next (bif decide (start ≤ s.tstamp) then s.passCycles (ceilDiv ((start + 192) * 33 - s.time) 10) else s)

end Sys2Proof.Machine
end

