-- ==== Sys2Proof/Machine/CSync.lean ====
section
/-! DEFINITION. C's ordering and cooperation: latency symbols (R252), fences (R317, R318), line watches (R297 to R299), barriers
(R292 to R296), tokens (R291), submission and yielding (R287 to R290), and the steps that end their waits. -/

namespace Sys2Proof.Machine

/-! ### Latency symbols (R252) -/

/-- A symbol the step declares (R20). -/
def Sym.isUsed (x : Sym) : Bool := x.src != 0

/-- The status word of lsym.rd (R252). -/
def Sym.status (x : Sym) : Word64 :=
  bif !x.isUsed then 0
  else
    let req := match x.mon.req with | some (v, _) => 2 ^ 23 + v.toNat * 2 ^ 24 | none => 0
    BitVec.ofNat 64 (x.bind.toNat + x.lo.toNat * 2 ^ 6 + x.hi.toNat * 2 ^ 12 + x.src.toNat * 2 ^ 18 + x.mon.pinned.toNat * 2 ^ 22 + req +
      (x.mon.win.headD 0) * 2 ^ 30)

/-- lsym.rd xd, sym (R252). -/
def execLsymRd (xd : XReg) (i : BitVec 3) (s : State) : Out := s.cExec [] xd (s.sym i).status
/-- lsym.pin sym, xa (R252). -/
def execLsymPin (xa : XReg) (i : BitVec 3) (s : State) : Out :=
  let x := s.sym i
  let v := (s.xRead xa).toNat
  .next (bif !s.cReady [xa] 0 then s.cStall
    else bif !x.isUsed || decide (63 < v ∨ v < x.lo.toNat ∨ x.hi.toNat < v) then s.cRaise 0x01 (cWordOf (.lsymPin xa i))
    else (s.setSym i { x with mon := { x.mon with req := some (BitVec.ofNat 6 v, true) } }).cRetire [xa] 0 0 s.pc4)
/-- lsym.free sym (R252). -/
def execLsymFree (i : BitVec 3) (s : State) : Out :=
  let x := s.sym i
  let req := match x.mon.req with | some (_, true) => none | r => r
  .next (bif !x.isUsed then s.cRaise 0x01 (cWordOf (.lsymFree i))
    else (s.setSym i { x with mon := { x.mon with req := req, pinned := false, a := 0, b := 0 } }).cRetire [] 0 0 s.pc4)

/-! ### Fences (R317, R318, R347) -/

/-- fence.e's condition for one copy-engine command: published, or, when deferred, its last element written. -/
def Cmd.fenced (c : Cmd) : Bool := c.published || (c.defer && c.written)
/-- Every engine command has published or left its queue, a deferred one has written its last element (R317). -/
def State.enginesFenced (s : State) : Bool := s.core.eng.copy.all Cmd.fenced && s.core.eng.gather.isEmpty
/-- The lines that near-bank steps of the core have written have no live lease, and no page in a flip (R308, R322, R347). -/
def State.bankQuiet (s : State) : Bool := !s.writeHeld (s.core.nb.lines.map fun l => l * 128)
/-- No near-bank command of the core is left, and every lease on a line that one has written has lapsed (R347; log 42, DEDUCED). -/
def State.nearFenced (s : State) : Bool := s.core.nb.cmds.isEmpty && s.bankQuiet
/-- No posted reduction that C has placed, or S under a token that C has popped, is on its way (R317). -/
def State.reductionsFenced (s : State) : Bool := s.pkg.red.all fun c => c.own == 0 || decide ((s.fifo 6).out < c.need)

/-- Every near-bank granule write takes place, the watches on the lines written fire, and every copy of those lines leaves the L2 and the memory-side cache
(R297, R316, R333, R347; log 42, DEDUCED). -/
def State.bankFence (s : State) : State :=
  let ws := s.core.nb.writes
  let ls := s.core.nb.lines
  let s := s.setNb { s.core.nb with writes := [], lines := [] }
  let s := ws.foldl State.granulePut s
  let s := s.setC { s.core.c with watch := watchAfter s.core.c.watch (ls.map fun l => l * 128) }
  ls.eraseDups.foldl (fun s l => (s.l2Leave l).mscDrop l) s

/-- The device writes of the core's agents that the fence covers reach the memory-side cache (R317, R321; log 19, DEDUCED). -/
def State.systemFence (s : State) : State :=
  s.setMem { s.mem with stale := s.mem.stale.filterMap fun x => (x.2.reach fun w => w.mine && s.covered w.cover).map fun y => (x.1, y) }

/-- A fence's completion point is reached. -/
def State.fenceDone (s : State) (kind : BitVec 2) : Bool :=
  if kind = 0 then s.enginesFenced else if kind = 1 then s.nearFenced else if kind = 2 then s.enginesFenced else s.reductionsFenced
/-- What a fence's completion brings about. -/
def State.fenceEffect (s : State) (kind : BitVec 2) : State :=
  if kind = 1 then s.bankFence else if kind = 2 then s.systemFence else s

/-- A fence: prior stores take place, then C waits for the completion point (R317). -/
def State.fence (s : State) (kind : BitVec 2) : State :=
  let s := s.flushStore
  bif s.fenceDone kind then (s.fenceEffect kind).cRetire [] 0 0 s.pc4
  else s.setC { s.core.c with run := .fence kind, blocked := true }

/-- fence.e. -/
def execFenceE (s : State) : Out := .next (s.fence 0)
/-- fence.b. -/
def execFenceB (s : State) : Out := .next (s.fence 1)
/-- fence.s. -/
def execFenceS (s : State) : Out := .next (s.fence 2)
/-- fence.f. -/
def execFenceF (s : State) : Out := .next (s.fence 3)
/-- nb.fence (R347). -/
def execNbFence (s : State) : Out :=
  let s := s.flushStore
  .next (bif s.nearFenced then s.bankFence.cRetire [] 0 0 s.pc4 else s.setC { s.core.c with run := .nbFence, blocked := true })

/-- A fence in which C waits completes, when its condition holds (R317, R347). -/
def execFenceComplete (s : State) : Out :=
  .next (match s.core.c.run with
    | .fence kind => bif s.fenceDone kind then (s.fenceEffect kind).cRetire [] 0 0 s.pc4 else s
    | .nbFence => bif s.nearFenced then s.bankFence.cRetire [] 0 0 s.pc4 else s
    | _ => s)

/-! ### Line watches (R297 to R299) -/

/-- mon xd, (xa): the load and the arming are one event (R297). -/
def execMon (xd xa : XReg) (s : State) : Out :=
  let ea := s.xRead xa
  .next (bif !s.cReady [xa] xd then s.cStall
    else bif misaligned ea 8 then s.cRaise 0x05 ea
    else
      let t := s.cEvent ea
      match t.xlate t.whoC ea .rd with
      | .error f => t.cFail f 0x06 ea
      | .ok pa =>
        bif t.holdsAt 0 true pa then t.cStall
        else
          let t := (t.l1Hit pa)
          (t.setC { t.core.c with watch := .armed (lineOf (t.norm pa)) }).cRetire [xa] xd (BitVec.ofNat 64 (t.rdNat pa 8)) t.pc4)

/-- The owner tag of a line the L2 holds names a context of the core's partition that is not resident (R299). -/
def State.yieldTo (s : State) (line : Nat) : Option (BitVec 2) :=
  let p := s.core.ctx.part
  match s.mem.l2.find? fun x => x.line == line with
  | some x => match x.owner with
    | some (q, v) => bif q == p && v != s.core.ctx.vf && v != (s.part p).resident then some v else none
    | none => none
  | none => none

/-- A request to take the step off the core; a stronger one replaces a weaker (R364). -/
def State.requestLeave (s : State) (r : Leave) : State :=
  let rank := fun (l : Leave) => match l with | .cutStop => 0 | .freeze => 1 | .abandon => (2 : Nat)
  let keep := match s.core.ctx.leave with | some o => decide (rank r ≤ rank o) | none => false
  bif keep || !s.stepOn then s else s.setCtx { s.core.ctx with leave := some r }

/-- A world switch to a VF begins: phase 1, a cut-stop requested of the running step (R374). -/
def State.beginSwitch (s : State) (p : BitVec 3) (v : BitVec 2) : State :=
  let s := (s.setPart p { s.part p with switch_ := some (v, 1, s.tstamp) }).swTrace p "cut-stop" [(s.part p).resident.toNat, v.toNat]
  bif s.core.ctx.part == p then s.requestLeave .cutStop else s

/-- The directed yield, at most one in a quantum (R299). -/
def State.directedYield (s : State) (line : Nat) : State :=
  let p := s.core.ctx.part
  let x := s.part p
  match s.yieldTo line with
  | some v =>
    bif x.yielded || x.switch_.isSome then s
    else (s.setPart p { x with yielded := true, yieldBack := some s.core.ctx.vf }).beginSwitch p v
  | none => s

/-- mwait's return with a reason: the watch is disarmed and the return recorded (R298, R404). -/
def State.mwaitReturn (s : State) (xd : XReg) (srcs : List XReg) (reason : Nat) : State :=
  let line := BitVec.ofNat 64 (128 * s.core.c.watch.line)
  let r := s.replayed 7 s.cKey line (BitVec.ofNat 64 reason)
  (r.1.setC { r.1.core.c with watch := .none }).cRetire srcs xd r.2 r.1.pc4

/-- mwait xd, xa (R298). -/
def execMwait (xd xa : XReg) (s : State) : Out :=
  let t := (s.xRead xa).toNat
  .next (bif !s.cReady [xa] xd then s.cStall
    else bif (s.part s.myPart).repMode == 2 then s.mwaitReturn xd [xa] 3
    else
      match s.core.c.watch with
      | .none => s.mwaitReturn xd [xa] 3
      | .fired _ => s.mwaitReturn xd [xa] 0
      | .lost _ => s.mwaitReturn xd [xa] 1
      | .armed line =>
        let s := s.flushStore
        match s.core.c.watch with
        | .armed _ =>
          let s := s.xPop [xa]
          let s := s.setC { s.core.c with run := .mwait xd (bif t == 0 then none else some (s.tstamp + t)), blocked := true }
          s.directedYield line
        | _ => s.mwaitReturn xd [xa] 0)

/-- The pre-emption pending is the directed yield that this core's own mwait asked for (R299). -/
def State.yieldsAway (s : State) : Bool :=
  let x := s.part s.myPart
  x.switch_.isSome && x.yielded && x.yieldBack == some s.core.ctx.vf

/-- What wakes a sleeping mwait: the watch fired or was lost, or a cause or pre-emption is pending (R298). -/
def State.mwaitReason (s : State) : Option Nat :=
  match s.core.c.watch with
  | .fired _ => some 0
  | .lost _ => some 1
  | _ => bif (s.core.trap.pend != 0 && !s.sup) || (s.core.ctx.leave.isSome && !s.yieldsAway) then some 4 else none

/-- A sleeping mwait wakes (R298). -/
def execMwaitWake (s : State) : Out :=
  .next (match s.core.c.run, s.mwaitReason with
    | .mwait .., some r => s.endMwait r
    | _, _ => s)

/-- A sleeping mwait's timeout expires (R298). -/
def execMwaitTimeout (s : State) : Out :=
  .next (match s.core.c.run with
    | .mwait _ (some t) => bif decide (t ≤ s.tstamp) then s.endMwait 2 else s
    | _ => s)

/-! ### Barriers (R292 to R296, R417, R418) -/

/-- A level's domain word. -/
def State.domain (s : State) (l : BitVec 2) : Word32 := s.core.csr.domain.get ⟨l.toNat, l.isLt⟩
/-- GROUP. -/
def domGroup (w : Word32) : BitVec 12 := w.extractLsb' 0 12
/-- MEMBERS. -/
def domMembers (w : Word32) : Nat := (w.extractLsb' 12 10).toNat
/-- VALID. -/
def domValid (w : Word32) : Bool := w.getLsbD 31

/-- The counter of a group at a level; one never used is at phase 0. -/
def State.barCtr (s : State) (l : BitVec 2) (g : BitVec 12) : BarCtr :=
  (s.pkg.bars.find? fun b => b.level == l && b.group == g).getD ⟨l, g, 0, 0⟩
/-- A counter replaced. -/
def State.setBar (s : State) (b : BarCtr) : State :=
  s.setPkg { s.pkg with bars := b :: s.pkg.bars.filter fun x => !(x.level == b.level && x.group == b.group) }
/-- The switch counter of a fabric group; one not written has no members. -/
def State.fab (s : State) (g : BitVec 12) : FabCtr := (s.pkg.fabs.find? fun f => f.group == g).getD ⟨g, 0, 0, false, 0, g.toNat % 18, [], false⟩
/-- A switch counter replaced. -/
def State.setFab (s : State) (f : FabCtr) : State :=
  s.setPkg { s.pkg with fabs := f :: s.pkg.fabs.filter fun x => x.group != f.group }

/-- A group's counter written by function 0 of a package of the domain: COUNT and FAIL are cleared, PHASE is kept (R417). -/
def State.fabPut (s : State) (g : BitVec 12) (n : Nat) : State :=
  s.setFab { s.fab g with members := BitVec.ofNat 9 n, count := 0, fail := false, who := [] }
/-- A package's arrival at a switch counter: the phase completes at MEMBERS arrivals, and the completion goes to the packages that arrived; with no
members the group fails, and a failed group completes nothing; an arrival sent again counts once (R417 to R419). -/
def State.fabArrive (s : State) (pkg : BitVec 8) (g : BitVec 12) : State :=
  let f := s.fab g
  let who := pkg :: f.who
  bif f.fail || f.who.contains pkg || (pkg == s.pkg.pkgId && f.due) then s
  else bif f.members == 0 then s.setFab { f with fail := true }
  else bif f.count + 1 == f.members then s.setFab { f with count := 0, phase := f.phase + 1, who := [], due := f.due || who.contains s.pkg.pkgId }
  else s.setFab { f with count := f.count + 1, who := who }
/-- The package's own arrival waits while virtual channel 3 towards the counter's plane is stopped (R410). -/
def State.fabStopped (s : State) (pkg : BitVec 8) (g : BitVec 12) : Bool := pkg == s.pkg.pkgId && (s.link (s.fab g).plane).stop.getLsbD 3
/-- The package's arrival sent (R294). -/
def State.fabSend (s : State) (g : BitVec 12) : State :=
  bif s.fabStopped s.pkg.pkgId g then s.again (.env (.fabSend g)) else s.fabArrive s.pkg.pkgId g

/-- A core's arrival at a counter of levels 0 to 2, or at the package's level-3 collection (R294). -/
def State.barArrive (s : State) (l : BitVec 2) (g : BitVec 12) (members : Nat) : State :=
  let b := s.barCtr l g
  if l = 3 then
    bif decide (members ≤ b.count + 1) then (s.setBar { b with count := 0 }).fabSend g else s.setBar { b with count := b.count + 1 }
  else bif decide (members ≤ b.count + 1) then s.setBar { b with count := 0, phase := b.phase + 1 }
  else s.setBar { b with count := b.count + 1 }

/-- The arrivals that complete a level for this core: at level 3, those of the package's collection (R294). -/
def State.barMembers (s : State) (l : BitVec 2) : Nat := domMembers (s.domain (if l = 3 then 2 else l))
/-- The number of the phase that is arrived at: at level 3, PHASE of the switch's counter (R293, R417). -/
def State.barShown (s : State) (l : BitVec 2) : Nat :=
  let g := domGroup (s.domain l)
  if l = 3 then (s.fab g).phase.toNat else (s.barCtr l g).phase
/-- The phases that a barrier level has completed; at level 3, the completions that have reached the package (R294). -/
def State.barPhase (s : State) (l : BitVec 2) : Nat := (s.barCtr l (domGroup (s.domain l))).phase
/-- The phase that the outstanding arrival was made in. -/
def State.outstanding (s : State) (l : BitVec 2) : Option Nat := s.core.c.arrived.get ⟨l.toNat, l.isLt⟩
/-- The outstanding arrival's phase is complete, or there is none. -/
def State.barOver (s : State) (l : BitVec 2) : Bool := match s.outstanding l with | some ph => s.barPhase l != ph | none => true
/-- What arriving waits for: prior stores are placed first; reductions merged, engine commands published (R293). -/
def State.barCovered (s : State) : Bool := s.reductionsFenced && s.enginesFenced

/-- The arrival itself. -/
def State.barDo (s : State) (l : BitVec 2) (mid : Bool) : State :=
  let ph := s.barPhase l
  let bit : BitVec 4 := 1#4 <<< l.toNat
  let s := s.setC { s.core.c with arrived := s.core.c.arrived.set l.toNat (some ph) l.isLt,
                                  mid := bif mid then s.core.c.mid ||| bit else s.core.c.mid &&& ~~~bit }
  s.barArrive l (domGroup (s.domain l)) (s.barMembers l)

/-- C sleeps in a barrier word. -/
def State.barSleep (s : State) (i : Instr) : State := s.setC { s.core.c with run := .bar i, blocked := true }

/-- The waiting part: when the phase is complete the arrival is no longer outstanding, and the word retires. -/
def State.barWait (s : State) (i : Instr) (l : BitVec 2) : State :=
  bif s.barOver l then
    (s.setC { s.core.c with arrived := s.core.c.arrived.set l.toNat none l.isLt, mid := s.core.c.mid &&& ~~~(1#4 <<< l.toNat) }).cRetire [] 0 0 s.pc4
  else s.barSleep i

/-- bar.a: an earlier arrival's phase, then what it covers, then the arrival; xd takes the phase's number (R293). -/
def State.barA (s : State) (xd : XReg) (l : BitVec 2) : State :=
  let i := Instr.barA xd l
  bif !s.cReady [] xd then s.cStall
  else bif !domValid (s.domain l) then s.cRaise 0x01 (cWordOf i)
  else
    let s := s.flushStore
    bif s.barOver l && s.barCovered then
      let ph := s.barShown l
      (s.barDo l false).cRetire [] xd (BitVec.ofNat 64 ph) s.pc4
    else s.barSleep i

/-- bar.w (R293). -/
def State.barW (s : State) (l : BitVec 2) : State :=
  bif !domValid (s.domain l) then s.cRaise 0x01 (cWordOf (.barW l)) else s.flushStore.barWait (.barW l) l

/-- bar: an arrival, made once, and its wait (R293; log 20, DEDUCED). -/
def State.barAW (s : State) (l : BitVec 2) : State :=
  let i := Instr.bar l
  bif !domValid (s.domain l) then s.cRaise 0x01 (cWordOf i)
  else
    let s := s.flushStore
    bif s.core.c.mid.getLsbD l.toNat then s.barWait i l
    else bif s.barOver l && s.barCovered then (s.barDo l true).barWait i l
    else s.barSleep i

/-- bar L. -/
def execBar (l : BitVec 2) (s : State) : Out := .next (s.barAW l)
/-- bar.a xd, L. -/
def execBarA (xd : XReg) (l : BitVec 2) (s : State) : Out := .next (s.barA xd l)
/-- bar.w L. -/
def execBarW (l : BitVec 2) (s : State) : Out := .next (s.barW l)

/-- A barrier word in which C sleeps looks again, and wakes when what it waits for has come about (R293). -/
def execBarrierWake (s : State) : Out :=
  .next (match s.core.c.run with
    | .bar (.bar l) => s.barAW l
    | .bar (.barA xd l) => s.barA xd l
    | .bar (.barW l) => s.barW l
    | _ => s)

/-! ### Tokens, submission, yield (R287 to R291) -/

/-- tok.push n (R291). -/
def execTokPush (next : Bool) (s : State) : Out :=
  .next (bif s.tokRoom .c next then (((s.flushStore).tokReserve .c next).tokGive .c next).cRetire [] 0 0 s.pc4 else s.cStall)
/-- tok.pop n (R291). -/
def execTokPop (next : Bool) (s : State) : Out :=
  .next (bif s.tokHas .c next then (s.tokTake .c next).cRetire [] 0 0 s.pc4 else s.cStall)

/-- A task queue of a partition, as the configuration plane describes it (R356). -/
def Part.queue (x : Part) (q : BitVec 6) : TaskQueue := ((x.queues.find? fun e => e.1 == q).map (·.2)).getD ⟨0, false, 0, 0, 0, 0⟩
/-- A virtual function may submit to the queue (R287, R371). -/
def Part.mayUse (x : Part) (v : BitVec 2) (q : BitVec 6) : Bool := (x.queue q).en && (x.vf v).qmask.getLsbD q.toNat

/-- tsub xa, q (R287, R371). -/
def execTsub (xa : XReg) (q : BitVec 6) (s : State) : Out :=
  let a := s.xRead xa
  let c := s.core.ctx
  .next (bif !s.cReady [xa] 0 then s.cStall
    else bif misaligned a 256 then s.cRaise 0x05 a
    else bif !(s.part c.part).mayUse c.vf q then s.cRaise 0x0b a
    else bif decide (4 ≤ s.core.q.sub.length) then s.cStall
    else
      let s := s.flushStore
      (s.setQ { s.core.q with sub := s.core.q.sub ++ [(a, q)] }).cRetire [xa] 0 0 s.pc4)

/-- The virtual function a task queue belongs to (R371). -/
def Part.vfOf (x : Part) (q : BitVec 6) : BitVec 2 := (([0, 1, 2, 3] : List (BitVec 2)).find? fun v => (x.vf v).qmask.getLsbD q.toNat).getD 0
/-- A block's PRED read as a value: it is ready from the first time it is 0 (R358, R359). -/
def Block.sees (b : Block) (v t : Nat) : Block :=
  bif v != 0 then { b with pred := v }
  else match b.tw with
    | some _ => { b with pred := v }
    | none => { b with pred := v, tw := some t, ready := t }
/-- The blocks of a virtual function at an address see their PRED (R358). -/
def State.predSeen (s : State) (p : BitVec 3) (f : BitVec 2) (a : Word64) (v : Nat) : State :=
  let x := s.part p
  s.setPart p { x with blocks := x.blocks.map fun b => bif b.addr == a && x.vfOf b.queue == f && !b.failed then b.sees v s.tstamp else b }

/-- tdep xd, (xa): one predecessor released as one event (R288). -/
def execTdep (xd xa : XReg) (s : State) : Out :=
  let a := s.xRead xa
  let va := a + 0xc4
  .next (bif !s.cReady [xa] xd then s.cStall
    else bif misaligned a 256 then s.cRaise 0x05 a
    else
      let t := s.cEvent va
      match t.xlate t.whoC va .rdwr with
      | .error f => t.cFail f 0x07 va
      | .ok pa =>
        bif t.holdsAt 0 true pa true then t.cStall
        else
          let t := (t.l2Hit pa).rmwFirst (span pa 4)
          let old := t.rdNat pa 4
          let t := bif old == 0 then t else t.store pa (leBytes 4 (old - 1)) t.me true
          (t.predSeen t.core.ctx.part t.core.ctx.vf a (old - 1)).cRetire [xa] xd (BitVec.ofNat 64 old) t.pc4)

/-- yield mode: asked of the next cut-marked bundle; without effect on a gang step (R290). -/
def execYield (strict : Bool) (s : State) : Out :=
  let gang := match s.core.ctx.running with | some i => i.gang | none => true
  let s := bif gang then s else (s.setCtx { s.core.ctx with yield_ := some strict }).setV { s.core.v with lookYield := false }
  .next ((s.flushStore).cRetire [] 0 0 s.pc4)

end Sys2Proof.Machine
end

