-- ==== Sys2Proof/Machine/Fetch.lean ====
section
/-! DEFINITION. Fetching a strand's next unit (R38, R45, R46, R64, R110, R119): the bytes it holds, or those its address space gives
now; what comes to issue is an instruction, a unit that is none, or a fetch that failed. -/

namespace Sys2Proof.Machine

/-- The size of a strand's units (R12). -/
def unitBytes : Strand → Nat
  | .c => 4 | .l => 8 | .s => 8 | .v => 16

/-- The units that a strand holds (R119). -/
def State.heldOf (s : State) (k : Strand) : List (Word64 × List Byte) :=
  match k with | .c => s.core.c.held | .l => s.core.l.held | .v => s.core.v.held | .s => s.core.s.held
/-- The units that a strand holds, replaced. -/
def State.setHeld (s : State) (k : Strand) (h : List (Word64 × List Byte)) : State :=
  match k with
  | .c => s.setC { s.core.c with held := h }
  | .l => s.setLS .l { s.core.l with held := h }
  | .s => s.setLS .s { s.core.s with held := h }
  | .v => s.setV { s.core.v with held := h }

/-- As whom a strand fetches: TK is needed unless C runs in supervisor mode (R38, R110). -/
def State.fetchWho (s : State) (k : Strand) : Who := match k with | .c => s.whoC | _ => s.whoT

/-- The page-fault cause of a strand's fetch (R38, R110). -/
def fetchPage : Strand → BitVec 8
  | .c => 0x06
  | _ => 0x16

/-- The cause and TVAL of a failing fetch: of a poisoned line, the address of the line (R38, R110). -/
def fetchCause (f : XFail) (k : Strand) (va : Word64) : BitVec 8 × Word64 :=
  match f with
  | .poison pa => (0x13, BitVec.ofNat 64 (lineOf pa * 128))
  | f => xfailCause f (fetchPage k) va

/-- What a unit's bytes are at issue (R45, R64). -/
def unitInstr (k : Strand) (bytes : List Byte) : Instr :=
  match decode (unitOf k bytes) with
  | .ok i => i
  | .error _ => .unassignedEncoding k (unitOf k bytes).tval

/-- The page that a fetch needs is brought into the TLB (R326). -/
def State.fetchFill (s : State) (k : Strand) (va : Word64) : State := let w := s.fetchWho k; s.fillTlb w.part w.vf va

/-- The unit that a strand's PC names, as it comes to issue; none while its bytes cannot be had yet (R322). L, V and S go on holding
the units they have fetched, until a cut shows them new code (R119). -/
def State.fetch (s : State) (k : Strand) : State × Option Instr :=
  let va := s.pcOf k
  match (s.heldOf k).find? fun h => h.1 == va with
  | some h => (s, some (unitInstr k h.2))
  | none =>
    let s := s.fetchFill k va
    match s.xlate (s.fetchWho k) va .ex with
    | .error .waits => (s, none)
    | .error f => let r := fetchCause f k va; (s, some (.instructionFetchFault k r.1 r.2))
    | .ok pa =>
      bif s.waitsAt true pa then (s, none)
      else
        let b := s.rdBytes pa (unitBytes k)
        (match k with | .c => s | _ => s.setHeld k ((va, b) :: s.heldOf k), some (unitInstr k b))

/-- A unit fetched ahead is held; a fetch ahead that fails holds nothing and raises nothing (R46). -/
def State.fetchAhead (s : State) (k : Strand) (va : Word64) : State :=
  bif (s.heldOf k).any fun h => h.1 == va then s
  else
    let s := s.fetchFill k va
    match s.xlate (s.fetchWho k) va .ex with
    | .error _ => s
    | .ok pa => bif s.waitsAt true pa then s else s.setHeld k ((va, s.rdBytes pa (unitBytes k)) :: s.heldOf k)

end Sys2Proof.Machine
end

