-- ==== Sys2Proof/Machine/NearBank.lean ====
section
/-! DEFINITION. Near-bank units (R339 to R350): microprograms, nb.ld, nb.go and nb.rd, and the steps the units take. -/

namespace Sys2Proof.Machine

/-! ### Microprogram steps (R340, R341) -/

/-- OP. -/
def nbOp (w : Word64) : Nat := bits w.toNat 3 0
/-- FMT. -/
def nbFmt (w : Word64) : Nat := bits w.toNat 5 4
/-- DFMT. -/
def nbDfmt (w : Word64) : Nat := bits w.toNat 7 6
/-- SSEL. -/
def nbSsel (w : Word64) : Bool := w.getLsbD 8
/-- RSUB. -/
def nbRsub (w : Word64) : Nat := bits w.toNat 10 9
/-- ACC. -/
def nbAcc (w : Word64) : Nat := bits w.toNat 12 11
/-- TS. -/
def nbTs (w : Word64) : Nat := bits w.toNat 14 13
/-- TE. -/
def nbTe (w : Word64) : Bool := w.getLsbD 15
/-- AROW, ABANK. -/
def nbA (w : Word64) : Nat × Nat := (bits w.toNat 24 16, bits w.toNat 25 25)
/-- BROW, BBANK. -/
def nbB (w : Word64) : Nat × Nat := (bits w.toNat 34 26, bits w.toNat 35 35)
/-- DROW, DBANK. -/
def nbD (w : Word64) : Nat × Nat := (bits w.toNat 44 36, bits w.toNat 45 45)
/-- Rows of a step. -/
def nbRows (w : Word64) : Nat := bits w.toNat 51 46 + 1
/-- Elements of a row in a format (R341). -/
def nbCount (f : Nat) : Nat := if f = 0 then 512 else if f = 1 then 1024 else 2048

/-- A step is valid (R341). -/
def nbStepOk (w : Word64) : Bool :=
  let op := nbOp w
  let noA := nbA w == (0, 0) && nbFmt w == 0 && nbTs w == 0 && !nbTe w
  let noB := nbB w == (0, 0)
  let noD := nbD w == (0, 0) && nbDfmt w == 0
  let noR := nbRsub w == 0 && nbAcc w == 0
  let same := nbCount (nbFmt w) == nbCount (nbDfmt w)
  bits w.toNat 63 52 == 0 &&
    if op = 0 then w == 0
    else if op = 1 then same && noR
    else if op = 2 then noB && noD && nbRsub w != 3
    else if op = 3 then same && noR && !nbSsel w
    else if op = 4 then same && noB && noR && !nbSsel w
    else if op = 5 then noA && noB && noR
    else false

/-- The steps that run: those before the first END (R344). -/
def nbSteps (p : List Word64) : List Word64 := p.takeWhile fun w => nbOp w != 0
/-- The steps that nb.ld checks: those that run and the first END; what follows is not checked (R344). -/
def nbChecked (p : List Word64) : List Word64 := nbSteps p ++ (p.find? fun w => nbOp w == 0).toList
/-- The operands a step uses, as row offset and bank (R342). -/
def nbOperands (w : Word64) : List (Nat × Nat) :=
  match nbOp w with
  | 1 => [nbA w, nbB w, nbD w]
  | 2 => [nbA w]
  | 3 => [nbA w, nbB w, nbD w]
  | 4 => [nbA w, nbD w]
  | 5 => [nbD w]
  | _ => []
/-- The physical or virtual address of a row of the pair, from that of its base row (R328). -/
def nbRow (base : Nat) (r : Nat × Nat) (i : Nat) : Nat := base + (r.1 + i) * 65536 + r.2 * 2048

/-- The pages of the rows that a microprogram names from a base row (R349). -/
def nbPages (base : Nat) (p : List Word64) : List Nat :=
  (p.flatMap fun w => (nbOperands w).flatMap fun r => (List.range (nbRows w)).map fun k => nbRow base r k / 65536).eraseDups

/-! ### nb.ld, nb.go, nb.rd (R344, R345, R348) -/

/-- nb.ld slot, (xa) (R344). -/
def execNbLd (xa : XReg) (slot : BitVec 2) (s : State) : Out :=
  let a := s.xRead xa
  .next (bif !s.cReady [xa] 0 then s.cStall
    else bif misaligned a 256 then s.cRaise 0x05 a
    else
      match s.cBytes a 32 with
      | .failed t f va => t.cFail f 0x06 va
      | .waits t => t.cStall
      | .got t raw =>
        let p := (List.range 32).map fun i => BitVec.ofNat 64 (leAt raw (8 * i) 8)
        bif !(nbChecked p).all nbStepOk then t.cRaise 0x01 (cWordOf (.nbLd xa slot))
        else (t.setNb { t.core.nb with slots := t.core.nb.slots.set slot.toNat p slot.isLt }).cRetire [xa] 0 0 t.pc4)

/-- Why a command does not enter (R345): its cause and TVAL. -/
def State.nbRefuse (s : State) (i : Instr) (xa : Word64) (log base : Nat) (p : List Word64) : Option (BitVec 8 × Word64) :=
  let page := base / 2 ^ log
  (nbSteps p).findSome? fun w => (nbOperands w).findSome? fun r =>
    let rows := (List.range (nbRows w)).map fun k => nbRow base r k
    bif nbRow base r (nbRows w - 1) / 2 ^ log != page then some (0x01, cWordOf i)
    else
      match rows.find? s.guardRow with
      | some pa => some (0x0a, BitVec.ofNat 64 (pa / 65536 * 65536))
      | none => bif rows.any fun pa => !s.owns s.core.ctx.part pa then some (0x0b, xa) else none

/-- The step and the row step that a command shows: those it is at, and of one whose microprogram has ended those of its last row (R348; log 66,
DEDUCED). -/
def NbCmd.shown (c : NbCmd) : Nat × Nat :=
  bif decide (c.step < c.prog.length) then (c.step, c.rstep)
  else (c.prog.length - 1, match c.prog.getLast? with | some w => nbRows w - 1 | none => 0)
/-- What nb.rd returns; selector 7 while a command stands stopped by a fault, the last one's (R348; log 66, DEDUCED). -/
def State.nbRead (s : State) (i : Nat) (sel : BitVec 3) : Word64 :=
  let n := s.core.nb
  let r := vget n.records i ⟨0, false, Vector.replicate 4 0, 0⟩
  let k := sel.toNat
  if k < 4 then (bif r.empty.getLsbD k then 0 else (vget r.acc k 0).setWidth 64)
  else if k = 4 then BitVec.ofNat 64 (r.tag.toNat + r.valid.toNat * 2 ^ 16 + r.empty.toNat * 2 ^ 17)
  else if k = 5 then BitVec.ofNat 64 n.cmds.length
  else if k = 6 then
    match n.cmds.head? with
    | some c => BitVec.ofNat 64 (c.shown.1 % 32 + c.shown.2 % 64 * 2 ^ 5 + c.suspended.toNat * 2 ^ 11 + c.tag.toNat * 2 ^ 16)
    | none => 0
  else
    match n.cmds.filterMap fun c => c.fault.map (·.va) with
    | [] => 0
    | va :: l => bif (va :: l).contains n.faultVa then n.faultVa else va
/-- A line of the near-bank trace: the event, the value of nb.rd sel 6, and the oldest command's accumulators with their Empty flags (R348, R355). -/
def State.nbLine (s : State) (what : String) : State :=
  bif s.core.dbg.traceNb then
    let c := s.core.nb.cmds.head?
    let acc := match c with | some c => (c.acc.toList.map BitVec.toNat) ++ [c.empty.toNat] | none => []
    let v := (s.nbRead 0 6).toNat
    let l := s.core.dbg.nbLines ++ [⟨what, s.tstamp, v :: acc⟩]
    s.setDbg { s.core.dbg with nbLines := l.drop (l.length - 65536), nbLast := v }
  else s
/-- A line of the near-bank trace for a change of that value, if it has changed (R355). -/
def State.nbTrace (s : State) (what : String) : State := bif (s.nbRead 0 6).toNat == s.core.dbg.nbLast then s else s.nbLine what

/-- nb.go xd, xa, xb, slot (R345). -/
def execNbGo (xd xa xb : XReg) (done : Bool) (slot : BitVec 2) (s : State) : Out :=
  let ea := s.xRead xa
  let srcs := [xd, xa, xb]
  let ctl := s.xRead xd
  let sc := s.xRead xb
  .next (bif !s.cReady srcs 0 then s.cStall
    else bif misaligned ea 4096 then s.cRaise 0x05 ea
    else bif !canonical ea then s.cRaise 0x0b ea
    else
      let t := s.cEvent ea
      let c := t.core.ctx
      match t.leafFor c.part c.vf ea with
      | .none => t.cRaise 0x07 ea
      | .guard row => t.cRaise 0x0a (BitVec.ofNat 64 row)
      | .barred => t.cRaise 0x0b ea
      | .waits => t.cStall
      | .leaf log e =>
        let pa := t.norm (entryAddr e / 2 ^ log * 2 ^ log + bits ea.toNat (log - 1) 0)
        bif !leafAllows e .rdwr (!t.sup) then t.cRaise 0x0b ea
        else bif decide (t.region pa ≠ .hbm) || t.hostBias pa || bits pa 39 36 / 3 != t.pkg.die.toNat then t.cRaise 0x0b ea
        else
          let p := t.core.nb.slots.get ⟨slot.toNat, slot.isLt⟩
          match t.nbRefuse (.nbGo xd xa xb done slot) ea log pa p with
          | some (cause, tval) => t.cRaise cause tval
          | none =>
            bif decide (8 ≤ t.core.nb.cmds.length) || ((pa / 65536) :: nbPages pa (nbSteps p)).any fun g => t.inFlip (g * 65536) then t.cStall
            else
              let cmd : NbCmd :=
                { prog := nbSteps p, row := pa, va := ea, s0 := sc.extractLsb' 0 32, s1 := sc.extractLsb' 32 32, tag := ctl.extractLsb' 32 16,
                  done := done, planes := Vector.ofFn fun i => t.core.ten.nbPlanes i.val, sent := false, running := false, step := 0,
                  rstep := 0, suspended := false, asked := 0, halted := 0, told := false, acc := Vector.replicate 4 0, empty := 15, fpc := List.replicate 8 0,
                  start := t.core.ctx.live, extra := t.injected 0x9, fin := none, fault := none, payer := (t.myPart, t.payer), gone := false }
              ((t.setNb { t.core.nb with cmds := t.core.nb.cmds ++ [cmd] }).cRetire srcs 0 0 t.pc4).nbTrace "enter")

/-- nb.rd xd, xa, sel (R348); C's pending store takes place first (R310). -/
def execNbRd (xd xa : XReg) (sel : BitVec 3) (s : State) : Out :=
  .next (bif s.cReady [xa] xd then s.flushStore.cRetire [xa] xd (s.nbRead (bits (s.xRead xa).toNat 2 0) sel) s.pc4 else s.cStall)

/-! ### Trackers (R336) -/

/-- Every tracker is cleared as 32 ms end (R336). -/
def State.clearTrackers (s : State) : State :=
  bif decide (s.pkg.clearAt ≤ s.tstamp) then
    s.setPkg { s.pkg with hbm := s.pkg.hbm.map fun x => { x with track := [] }, clearAt := s.pkg.clearAt + 32000000 }
  else s
/-- TRACKER_CLEAR: nothing before its time (R336). -/
def execTrackerClear (s : State) : Out := .next s.clearTrackers

/-! ### The units (R339, R342, R343, R346, R349) -/

/-- The unit of a command: stack, channel and pair. -/
def NbCmd.unit (c : NbCmd) : Nat × Nat × Nat := (bits c.row 39 36, bits c.row 35 31, bits c.row 15 12)
/-- A command of the core. -/
def State.nbCmd (s : State) (i : Nat) : Option NbCmd := s.core.nb.cmds[i]?
/-- A command replaced. -/
def State.setNbCmd (s : State) (i : Nat) (c : NbCmd) : State := s.setNb { s.core.nb with cmds := s.core.nb.cmds.set i c }

/-- A near-bank unit does not run: it is held in reset, or its channel is closed (R387, R389). -/
def State.nbOff (s : State) (c : NbCmd) : Bool :=
  (s.pkg.bootFail.any fun u => Config.cfgServes u c.row) || s.pkg.closed.contains (groupOf c.row / 512)
/-- The first command not sent goes to its unit, when the unit runs or holds fewer than five; it waits there in arrival order (R339). -/
def execNbDispatch (s : State) : Out :=
  let q := s.core.nb.cmds
  .next (match (List.range q.length).find? fun i => match q[i]? with | some c => !c.sent | none => false with
    | some i =>
      match q[i]? with
      | some c =>
        bif !s.nbOff c && decide ((q.filter fun d => d.sent && d.unit == c.unit).length < 5) then
          s.setNbCmd i { c with sent := true, running := !q.any fun d => d.sent && d.unit == c.unit }
        else s
      | none => s
    | none => s)

/-- The command runs in its unit: it is the unit's oldest. -/
def State.nbActive (s : State) (i : Nat) (c : NbCmd) : Bool :=
  c.sent && !(s.core.nb.cmds.take i).any fun d => d.sent && d.unit == c.unit

/-- A byte as a near-bank step reads it: the core's own near-bank writes come first (R315, R316). -/
def nbByte (s : State) (w : List Granule) (pa : Nat) : Byte :=
  match w.reverse.find? fun g => decide (g.pa ≤ pa ∧ pa < g.pa + g.bytes.length) with
  | some g => g.bytes.getD (pa - g.pa) 0
  | none => s.rd8 pa
/-- The 2 KiB of a row. -/
def State.nbRowBytes (s : State) (pa : Nat) : List Byte := (List.range 2048).map fun i => nbByte s s.core.nb.writes (pa + i)

/-- The exact values of a row's elements (R342). -/
def nbVals (f k : Nat) (b : List Byte) : List FVal :=
  (List.range (nbCount f)).map fun e =>
    if f = 0 then f32.dec (leAt b (4 * e) 4)
    else if f = 1 then bf16.dec (leAt b (2 * e) 2)
    else FVal.ofInt (reconstruct (intVal (if f = 2 then 7 else 8) (planeElem ((b.drop (e / 128 * 128)).take 128) (e % 128) k)) k)
/-- The element format code of a near-bank format. -/
def nbElemFmt (f : Nat) : Nat := if f = 0 then 0 else if f = 1 then 1 else if f = 2 then 7 else 8
/-- A result converted to the destination's format (R342), NaN counted when no operand was NaN. -/
def nbConv (f : Nat) (operandNan : Bool) (v : FVal) : FRes :=
  match fmtOf (nbElemFmt f) with
  | some g => g.fin .rne operandNan v
  | none => convVal v (nbElemFmt f) .rne
/-- The bytes of a row of results. -/
def nbPack (f : Nat) (rs : List Nat) : List Byte :=
  if f = 0 then rs.flatMap fun r => leBytes 4 r
  else if f = 1 then rs.flatMap fun r => leBytes 2 r
  else (List.range 16).flatMap fun j =>
    (List.range 128).foldl (fun img e => planeSet img e (rs.getD (128 * j + e) 0) 8) (List.replicate 128 0)

/-- Events of a row step added to the counts a command carries: f32 then bf16 (R342). -/
def nbTally (l : List Nat) (ev : List Nat) : List Nat := ev.foldl (fun l i => l.set i (l.getD i 0 + 1)) l

/-- A step's scalar. -/
def NbCmd.scalar (c : NbCmd) (w : Word64) : FVal := f32.dec (bif nbSsel w then c.s1 else c.s0).toNat
/-- The planes a step's bit-plane sources read (R342). -/
def NbCmd.readPlanes (c : NbCmd) (w : Word64) : Nat := bif nbTe w then vget c.planes (nbTs w) 8 else 8

/-- The results of an element-wise row step. -/
def nbElementwise (c : NbCmd) (w : Word64) (a b : List FVal) : List FRes :=
  let sc := c.scalar w
  (List.range (nbCount (nbDfmt w))).map fun e =>
    let x := a.getD e .nan
    let y := b.getD e .nan
    match nbOp w with
    | 1 => nbConv (nbDfmt w) (sc.isNan || x.isNan || y.isNan) ((sc.mul x).add .rne y)
    | 3 => nbConv (nbDfmt w) (x.isNan || y.isNan) (x.mul y)
    | 4 => nbConv (nbDfmt w) x.isNan x
    | _ => nbConv (nbDfmt w) sc.isNan sc

/-- min or max of two f32 values. -/
def nbPick (mx : Bool) (a b : FVal) : FVal := bif mx then a.max b else a.min b

/-- A RED row step: the accumulator's new value and the counts (R342). -/
def nbReduce (c : NbCmd) (w : Word64) (a : List FVal) : Word32 × List Nat :=
  let sc := c.scalar w
  let i := nbAcc w
  let old := f32.dec (vget c.acc i 0).toNat
  let has := !c.empty.getLsbD i
  if nbRsub w = 0 then
    let m := f32.fin .rne (sc.isNan || a.any (·.isNan)) (exactSum (a.map fun x => sc.mul x))
    bif has then
      let mv := f32.dec m.bits
      let r := f32.fin .rne (old.isNan || mv.isNan) (old.add .rne mv)
      (BitVec.ofNat 32 r.bits, m.ev ++ r.ev)
    else (BitVec.ofNat 32 m.bits, m.ev)
  else
    let mx := nbRsub w == 2
    let rs := a.map fun x => f32.fin .rne (sc.isNan || x.isNan) (sc.mul x)
    let vs := rs.map fun r => f32.dec r.bits
    let m := match vs with | [] => FVal.nan | v :: t => t.foldl (nbPick mx) v
    let m := bif has then nbPick mx old m else m
    (BitVec.ofNat 32 (f32.round .rne m).bits, rs.flatMap (·.ev))

/-- A row step's reading of a poisoned granule: nothing is written, and the command stops there; the fault is forwarded, or
delivered to C as cause 0x13 (R349). -/
def State.nbFault (s : State) (i : Nat) (c : NbCmd) (pa : Nat) (va : Word64) : State :=
  let p := s.core.ctx.part
  let tval := BitVec.ofNat 64 pa
  let fwd := (s.part p).fwdN && s.fqRoom p
  let seq := bif fwd then some (s.part p).seq else none
  let s := bif fwd then s.post p (s.recOf 0x13 true tval (c.tag.setWidth 32) 0 0 tval) else s
  let s := s.setNb { s.core.nb with faultVa := va }
  (s.setNbCmd i { c with fault := some ⟨0x13, tval, va, false, seq⟩ }).deliverUnits

/-- The first poisoned line of a row. -/
def State.rowPoison (s : State) (pa : Nat) : Option Nat := ((List.range 16).map fun j => pa + 128 * j).find? s.poisoned

/-- Dirty copies of a step's rows in the L2 and the memory-side cache reach DRAM, each row so written being activated, and leases on them lapse
(R315, R336, R343). -/
def State.nbPrepare (s : State) (c : NbCmd) (w : Word64) : State :=
  let rows := ((nbOperands w).flatMap fun r => (List.range (nbRows w)).map fun k => nbRow c.row r k / 2048).eraseDups
  let inRow := fun (line : Nat) => rows.contains (line * 128 / 2048)
  let m := s.mem
  let dirty := (m.l2.filter fun x => x.dirty).map (·.line) ++ (m.msc.filter fun x => x.dirty).map (·.line)
  let back := rows.filter fun r => dirty.any fun l => l * 128 / 2048 == r
  let s := s.setMem { m with
    stale := m.stale.filter fun x => !inRow (lineOf x.1)
    leases := m.leases.filter fun x => !inRow x.line
    l2 := m.l2.map fun x => bif inRow x.line then { x with dirty := false } else x
    msc := m.msc.map fun x => bif inRow x.line then { x with dirty := false } else x }
  back.foldl (fun s r => s.activate (r * 2048)) s

/-- The step and row counters after a row step. -/
def NbCmd.next (c : NbCmd) (w : Word64) : NbCmd :=
  bif decide (c.rstep + 1 < nbRows w) then { c with rstep := c.rstep + 1 } else { c with rstep := 0, step := c.step + 1 }

/-- The end of a row step: the unit suspends there when an ordinary request waits at its pair; the trace has one line for it (R343, R355). -/
def State.nbYield (s : State) (i : Nat) : State :=
  match s.nbCmd i with
  | some c => bif decide (0 < c.asked) && !c.suspended then (s.setNbCmd i { c with suspended := true, halted := s.tstamp }).nbTrace "suspend" else s.nbTrace "row"
  | none => s

/-- The addresses of the lines of an operand's row in a row step. -/
def NbCmd.rowLines (c : NbCmd) (r : Nat × Nat) : List Nat := (List.range 16).map fun j => nbRow c.row r c.rstep + 128 * j
/-- A row step waits, under replay, for its place in the order of a line that it reads (R405). -/
def State.nbOrderHeld (s : State) (c : NbCmd) (w : Word64) : Bool :=
  s.mem.order.isSome && ((match nbOp w with | 1 | 3 => [nbA w, nbB w] | 2 | 4 => [nbA w] | _ => []).flatMap c.rowLines).any (s.orderWaits 2)
/-- One row step of a command (R342). -/
def State.nbRowStep (s : State) (i : Nat) (c : NbCmd) (w : Word64) : State :=
  let s := bif c.payer == (s.myPart, s.payer) then s else s.owe c.payer.1 c.payer.2
  let s := bif c.rstep == 0 then s.nbPrepare c w else s
  let c := { c with running := true }
  let srcs := match nbOp w with | 1 | 3 => [nbA w, nbB w] | 2 | 4 => [nbA w] | _ => []
  let s := (nbOperands w).foldl (fun s r => s.activate (nbRow c.row r c.rstep)) s
  match srcs.findSome? fun r => (s.rowPoison (nbRow c.row r c.rstep)).map fun pa => (pa, BitVec.ofNat 64 (nbRow c.va.toNat r c.rstep)) with
  | some (pa, va) => s.nbFault i c pa va
  | none =>
    let k := c.readPlanes w
    let s := s.orderLines 2 false (srcs.flatMap fun r => c.rowLines r)
    let vals := fun (r : Nat × Nat) => nbVals (nbFmt w) k (s.nbRowBytes (nbRow c.row r c.rstep))
    let a := bif nbOp w == 5 then [] else vals (nbA w)
    bif nbOp w == 2 then
      let r := nbReduce c w a
      (s.setNbCmd i { c.next w with acc := vset c.acc (nbAcc w) r.1, empty := c.empty &&& ~~~(1#4 <<< nbAcc w), fpc := nbTally c.fpc r.2 })
    else
      let b := bif nbOp w == 1 || nbOp w == 3 then vals (nbB w) else []
      let rs := nbElementwise c w a b
      let row := nbRow c.row (nbD w) c.rstep
      let bytes := nbPack (nbDfmt w) (rs.map (·.bits))
      let ws := (List.range 64).map fun g => (⟨row + 32 * g, (bytes.drop (32 * g)).take 32, srcs.contains (nbD w)⟩ : Granule)
      let s := s.setMem { s.mem with poison := s.mem.poison.filter fun l => l * 128 / 2048 != row / 2048 }
      let s := s.setNb { s.core.nb with writes := s.core.nb.writes ++ ws, lines := ((List.range 16).map fun j => row / 128 + j) ++ s.core.nb.lines }
      s.setNbCmd i { c.next w with fpc := nbTally c.fpc (rs.flatMap (·.ev)) }

/-- A unit performs one row step of a command of the core (R342). An abandoned step's command stops at its row boundary (R350). -/
def execNbRowStep (i : BitVec 3) (s : State) : Out :=
  .next (match s.nbCmd i.toNat with
    | some c =>
      bif !s.nbActive i.toNat c || c.suspended || c.fault.isSome || c.gone || s.nbOff c then s
      else
        match c.prog[c.step]? with
        | some w => bif s.nbOrderHeld c w then s else (s.nbRowStep i.toNat c w).nbYield i.toNat
        | none => s
    | none => s)

/-- A suspended command may go on: no ordinary request waits at its pair, or 2 microseconds have passed (R343). -/
def State.nbMayResume (s : State) (c : NbCmd) : Bool := c.suspended && (c.asked == 0 || decide (c.halted + 2000 ≤ s.tstamp))
/-- A suspended unit goes on. -/
def State.nbResumed (s : State) (i : Nat) : State :=
  match s.nbCmd i with
  | some c => bif c.suspended then (s.setNbCmd i { c with suspended := false }).nbTrace "resume" else s
  | none => s
/-- A suspended unit resumes at its next row step (R343). -/
def execNbResume (i : BitVec 3) (s : State) : Out :=
  .next (match s.nbCmd i.toNat with
    | some c => bif s.nbMayResume c then s.nbResumed i.toNat else s
    | none => s)
/-- An ordinary request begins to wait at the pair of a command's unit, which suspends at its next row boundary (R343, R355). -/
def State.nbSuspend (s : State) (i : Nat) : State :=
  match s.nbCmd i with
  | some c => bif c.running && s.nbActive i c then (s.setNbCmd i { c with asked := c.asked + 1 }).nbLine "request waits" else s
  | none => s
/-- An ordinary request that waits there has been served (R343, R355). -/
def State.nbServed (s : State) (i : Nat) : State :=
  match s.nbCmd i with
  | some c => bif decide (0 < c.asked) then (s.setNbCmd i { c with asked := c.asked - 1 }).nbLine "request served" else s
  | none => s

/-- A command leaves the core's queue (R346, R350). -/
def State.nbLeave (s : State) (i : Nat) : State := (s.setNb { s.core.nb with cmds := s.core.nb.cmds.eraseIdx i }).touch
/-- A command's result record and its floating counts, given once (R346). -/
def State.nbGive (s : State) (i : Nat) (c : NbCmd) : State :=
  bif c.told then s
  else
    let r : NbRecord := ⟨c.tag, true, c.acc, c.empty⟩
    let s := s.setNb { s.core.nb with records := vset s.core.nb.records (c.tag.toNat % 8) r }
    let fpc := (List.range 8).foldl (fun v k => vset v k (satAdd (vget v k 0) (c.fpc.getD k 0))) s.core.fpc
    { s with core := { s.core with fpc := fpc } }.setNbCmd i { c with told := true }
/-- A command whose microprogram has ended completes: its record and its counts, then its completion entry, once there is room for it, its sample, and its
place in the queue (R243, R346). An abandoned step's command only leaves (R350). -/
def State.nbFinish (s : State) (i : Nat) : State :=
  match s.nbCmd i with
  | some c =>
    bif !s.nbActive i c then s
    else bif c.gone then (s.nbLeave i).nbTrace "leave"
    else bif decide (c.step < c.prog.length) then s
    else
      let s := s.nbGive i c
      bif c.done && decide (16 ≤ s.core.q.ecq.length) then s
      else
        let s := bif c.done then s.setQ { s.core.q with ecq := s.core.q.ecq ++ [BitVec.ofNat 64 (c.tag.toNat + 4 * 2 ^ 16)] } else s
        ((s.nbLeave i).takeSample 0x9 (s.core.ctx.live - c.start)).nbTrace "complete"
  | none => s
/-- The cycles injected into a command's completion have passed since its natural end (R244, R273). -/
def State.nbDue (s : State) (c : NbCmd) : Bool :=
  c.gone || c.extra == 0 || match c.fin with | some t => decide (t + c.extra ≤ s.core.ctx.live) | none => false
/-- A command completes, once the cycles injected into its completion have passed since its microprogram ended (R273, R346). -/
def execNbComplete (i : BitVec 3) (s : State) : Out :=
  .next (match s.nbCmd i.toNat with
    | some c =>
      bif s.nbDue c then s.nbFinish i.toNat
      else bif s.nbActive i.toNat c && decide (c.prog.length ≤ c.step) && c.fin.isNone then s.setNbCmd i.toNat { c with fin := some s.core.ctx.live }
      else s
    | none => s)

/-- A granule write of a near-bank step takes place, whichever it is, but each granule's in the order of its row steps; it waits for a flip and for leases
(R308, R316, R322; log 13, DESIGN CHOICE). -/
def execNbGranuleWrite (s : State) : Out :=
  let ws := s.core.nb.writes
  .next (match ws[Config.freeNat s.free % ws.length]? with
    | some x =>
      let g := (ws.find? fun y => y.pa == x.pa).getD x
      bif s.writeHeld [g.pa] || s.orderWaits 2 g.pa then { s with free := s.free + 1 } else
      ({ s with free := s.free + 1 }.setNb { s.core.nb with writes := ws.eraseP fun y => y.pa == x.pa }).granulePut g
    | none => s)

end Sys2Proof.Machine
end

