-- ==== Sys2Proof/Machine/Units.lean ====
section
/-! DEFINITION. What the engines, the migrate unit and the near-bank units of the core can do next, and how far they run before a step's
context is saved or when chxdbg asks them to publish (R303, R350, R363). -/

namespace Sys2Proof.Machine

/-- The state that an instruction answers; the old one where it answers none. -/
def Out.orElse (o : Out) (s : State) : State := match o with | .next t => t | _ => s

/-- What an engine can do: go on with its command, or push a completion entry. -/
def State.engineMoves (s : State) (e : Eng) : List Instr :=
  (bif (s.engPick e).isSome then [.engineCommandStart e] else []) ++
    (bif ((s.cmds e).any fun c => s.mayLeave c && c.done) && decide (s.core.q.ecq.length < 16) then [.completionEntryPush e] else [])
/-- What the copy engine can do at its publishing end. -/
def State.publishMoves (s : State) : List Instr :=
  (bif s.core.eng.nextPublish.isSome then [.enginePublish] else []) ++
    match s.core.eng.barrierHead with
    | some c => bif decide (c.kind = .pub) then [.pubExecute] else [.ecwExecute]
    | none => []
/-- What the migrate unit can do. -/
def State.migMoves (s : State) : List Instr :=
  (List.range 8).filterMap fun i => match vget s.core.mig.table i none with
    | some e => bif e.fault.isNone then some (.migTranslationLands (BitVec.ofNat 3 i)) else none
    | none => none
/-- What one near-bank command can do. -/
def State.nbMove (s : State) (i : Nat) : List Instr :=
  match s.nbCmd i with
  | none => []
  | some c =>
    bif !s.nbActive i c then []
    else bif c.gone then [.nbComplete (BitVec.ofNat 3 i)]
    else bif c.suspended then (bif s.nbMayResume c then [.nbResume (BitVec.ofNat 3 i)] else [])
    else bif c.fault.isSome || s.nbOff c then []
    else bif decide (c.step < c.prog.length) then [.nbRowStep (BitVec.ofNat 3 i)]
    else bif !c.told || !c.done || decide (s.core.q.ecq.length < 16) then [.nbComplete (BitVec.ofNat 3 i)] else []
/-- The first command not yet sent may go to its unit (R339). -/
def State.nbDispatches (s : State) : Bool :=
  let q := s.core.nb.cmds
  match q.find? fun c => !c.sent with
  | some c => !s.nbOff c && decide ((q.filter fun d => d.sent && d.unit == c.unit).length < 5)
  | none => false
/-- What the near-bank side of the core can do. -/
def State.nbMoves (s : State) : List Instr :=
  (bif s.nbDispatches then [.nbDispatch] else []) ++ (List.range 8).flatMap s.nbMove ++ bif s.core.nb.writes.isEmpty then [] else [.nbGranuleWrite]

/-- A unit's move whose time has come: a command at its natural end waits out the cycles injected into its completion (R244, R273; log 65, DESIGN
CHOICE). -/
def State.unitDue (s : State) (i : Instr) : Bool :=
  match i with
  | .enginePublish => (match s.core.eng.nextPublish with | some c => c.fin.isNone || s.cmdDue c | none => true)
  | .pubExecute | .ecwExecute => (match s.core.eng.barrierHead with | some c => c.fin.isNone || s.cmdDue c | none => true)
  | .nbComplete i => (match s.nbCmd i.toNat with | some c => c.fin.isNone || s.nbDue c | none => true)
  | _ => true

/-- A unit's move taken. -/
def State.unitDo (s : State) (i : Instr) : State :=
  match i with
  | .engineCommandStart e => (execEngineCommandStart e s).orElse s
  | .completionEntryPush e => (execCompletionEntryPush e s).orElse s
  | .enginePublish => s.publishNext
  | .pubExecute => s.pubNext
  | .ecwExecute => s.ecwNext
  | .nbDispatch => (execNbDispatch s).orElse s
  | .nbRowStep i => (execNbRowStep i s).orElse s
  | .nbResume i => (execNbResume i s).orElse s
  | .nbComplete i => s.nbFinish i.toNat
  | _ => s

/-- The near-bank commands run on as far as they can (R350, R363). -/
def State.nbDrain : Nat → State → State
  | 0, s => s
  | n + 1, s =>
    match ((bif s.nbDispatches then [Instr.nbDispatch] else []) ++ (List.range 8).flatMap s.nbMove).head? with
    | some i => State.nbDrain n (s.unitDo i)
    | none => s

/-- The ordinary requests that near-bank commands wait for have been served. -/
def State.nbServe (s : State) : State :=
  (List.range 8).foldl (fun s i => match s.nbCmd i with
    | some c => ((List.range c.asked).foldl (fun s _ => s.nbServed i) s).nbResumed i
    | none => s) s
/-- The near-bank commands run to their ends, or to a fault. -/
def State.nbRun (s : State) : State := State.nbDrain 32768 s.nbServe

/-- A command that has started is on this side of the copy engine's next pub or ecw. -/
def State.startedBehind (s : State) (seq : Nat) : Bool := (s.core.eng.copy ++ s.core.eng.gather).any fun d => d.data && d.started && !d.finished && decide (seq < d.seq)
/-- What commands already started still need, their publishes first (R363). -/
def State.startedMoves (s : State) : List Instr :=
  let going := fun (e : Eng) => match s.engPick e with | some i => (match (s.cmds e)[i]? with | some c => c.started | none => false) | none => false
  (bif (match s.core.eng.nextPublish with | some c => c.started | none => false) then [.enginePublish] else []) ++
    (match s.core.eng.barrierHead with
      | some c => bif s.startedBehind c.seq then [bif decide (c.kind = .pub) then .pubExecute else .ecwExecute] else []
      | none => []) ++
    ([.copy, .gather].filter going).map .engineCommandStart
/-- Commands already started run to their publish, or to their last element if deferred; one stopped by a fault stays (R363). -/
def State.engDrain : Nat → State → State
  | 0, s => s
  | n + 1, s => let l := s.startedMoves; bif l.isEmpty then s else State.engDrain n (l.foldl State.unitDo s)

/-- Every issued command runs until it has published, the strands held: the publishes first, which make room for others' shadows, and the completion
entries, which an ecw waits for (R191, R303, R314). -/
def State.publishAll : Nat → State → State
  | 0, s => s
  | n + 1, s =>
    let l := s.publishMoves ++ s.engineMoves .copy ++ s.engineMoves .gather
    bif l.isEmpty then s else State.publishAll n (l.foldl State.unitDo s)

end Sys2Proof.Machine
end

