-- ==== Sys2Proof/Machine/CastOn.lean ====
section
/-! DEFINITION. Operator blocks as the hardware reads them (R275 to R278), the tiles of a block (R279), cast-on records and their
limits (R19 to R21, R147, R280, R292). -/

namespace Sys2Proof.Machine

/-! ### Operator blocks -/

/-- The little-endian field of a block. -/
def Block.field (b : Block) (o n : Nat) : Nat := leAt b.bytes o n
/-- NDIM. -/
def Block.ndim (b : Block) : Nat := bits (b.field 0xc3 1) 2 0
/-- DIMd. -/
def Block.dim (b : Block) (d : Nat) : Nat := b.field (0x20 + 8 * d) 8
/-- EXT of dimension d. -/
def Block.ext (b : Block) (d : Nat) : Nat := bits (b.dim d) 19 0
/-- TILE of dimension d. -/
def Block.tile (b : Block) (d : Nat) : Nat := bits (b.dim d) 43 32 + 1
/-- RANK of dimension d. -/
def Block.rank (b : Block) (d : Nat) : Nat := bits (b.dim d) 50 48
/-- T_d (R276). -/
def Block.tiles (b : Block) (d : Nat) : Nat := ceilDiv (b.ext d) (b.tile d)
/-- The dimension of a rank. -/
def Block.ofRank (b : Block) (r : Nat) : Nat := ((List.range b.ndim).find? fun d => b.rank d == r).getD 0
/-- The dimensions from the outermost inward. -/
def Block.nest (b : Block) : List Nat := (List.range b.ndim).map b.ofRank
/-- Steps for each tile of the outermost dimension. -/
def Block.inner (b : Block) : Nat := (b.nest.tail.map b.tiles).foldl (· * ·) 1
/-- Tiles of the outermost dimension. -/
def Block.outer (b : Block) : Nat := b.tiles (b.ofRank 0)
/-- RST. -/
def Block.rst (b : Block) : Bool := (b.field 0xd4 2).testBit 0
/-- GANG. -/
def Block.gang (b : Block) : Bool := (b.field 0xd4 2).testBit 1
/-- ONECL. -/
def Block.onecl (b : Block) : Bool := (b.field 0xd4 2).testBit 2
/-- The first word of OPNDi. -/
def Block.opDesc (b : Block) (i : Nat) : Word64 := BitVec.ofNat 64 (b.field (0x50 + 16 * i) 8)
/-- The second word of OPNDi. -/
def Block.opCtl (b : Block) (i : Nat) : Nat := b.field (0x58 + 16 * i) 8
/-- S of OPNDi. -/
def Block.opS (b : Block) (i : Nat) : Nat := bits (b.opCtl i) 2 0
/-- KIND of OPNDi. -/
def Block.opKind (b : Block) (i : Nat) : Nat := bits (b.opCtl i) 4 3
/-- POOL of OPNDi. -/
def Block.opPool (b : Block) (i : Nat) : Nat := bits (b.opCtl i) 52 32
/-- MAP of OPNDi for loop dimension d: the descriptor dimension, when enabled. -/
def Block.opMap (b : Block) (i d : Nat) : Option Nat :=
  let m := bits (b.opCtl i) (10 + 3 * d) (8 + 3 * d)
  if m < 4 then none else some (m % 4)
/-- TEMPLATE. -/
def Block.template (b : Block) : Word64 := BitVec.ofNat 64 (b.field 0xb0 8)
/-- SENS. -/
def Block.sens (b : Block) : Word64 := BitVec.ofNat 64 (b.field 0xb8 8)
/-- DEMAND. -/
def Block.demand (b : Block) : Nat := bits (b.field 0xc0 2) 11 0
/-- The nodes of the sensitivity table. -/
def Block.nodes (b : Block) : Nat := bits (b.field 0xc2 1) 3 0 + 1
/-- SUCC and NSUCC. -/
def Block.succ (b : Block) : Word64 := BitVec.ofNat 64 (b.field 0xc8 8)
/-- NSUCC. -/
def Block.nsucc (b : Block) : Nat := b.field 0xd0 2
/-- DONEADDR. -/
def Block.doneAddr (b : Block) : Word64 := BitVec.ofNat 64 (b.field 0xd8 8)
/-- DONEVAL. -/
def Block.doneVal (b : Block) : Nat := b.field 0xe0 8
/-- EXCREC. -/
def Block.excRec (b : Block) : Word64 := BitVec.ofNat 64 (b.field 0xe8 8)

/-- The number of the walker's first step in a cluster's range, and the number past its last. -/
def Block.first (b : Block) : Nat := b.lo * b.inner
/-- The number past the last step of the cluster's range. -/
def Block.past (b : Block) : Nat := b.hi * b.inner

/-- The tile indices of a running number over these dimensions, the last varying fastest: dimension and index. -/
def tileIdx (b : Block) : List Nat → Nat → List (Nat × Nat)
  | [], _ => []
  | d :: t, n => let w := (t.map b.tiles).foldl (· * ·) 1; (d, n / w) :: tileIdx b t (n % w)
/-- c_d and n_d of a step (R279). -/
def Block.coord (b : Block) (n d : Nat) : Nat × Nat :=
  match (tileIdx b b.nest n).find? fun x => x.1 == d with
  | some x => let c := x.2 * b.tile d; (c, Nat.min (b.tile d) (b.ext d - c))
  | none => (0, 0)

/-! ### The limits of a block (R275 to R278) -/

/-- The first byte of a field that is not zero under a mask: the offset. -/
def nonzeroAt (raw : List Byte) (o n : Nat) : Option Nat := (List.range n).findSome? fun i => bif raw.getD (o + i) 0 != 0 then some (o + i) else none
/-- The byte of a field that holds its lowest offending bit. -/
def offendAt (o m : Nat) : Option Nat := ((List.range 64).find? fun i => m.testBit i).map fun i => o + i / 8
/-- An offence at an offset, when a condition fails. -/
def must (ok : Bool) (o : Nat) : Option Nat := bif ok then none else some o
/-- The bits of a field outside its defined ones. -/
def extra (v defined : Nat) : Nat := v - Nat.land v defined

/-- The offences of DIMd. -/
def Block.dimBad (b : Block) (d : Nat) : List (Option Nat) :=
  let o := 0x20 + 8 * d
  bif decide (b.ndim ≤ d) then [offendAt o (b.dim d)]
  else
    [must (b.ext d != 0) o, offendAt o (extra (b.dim d) 0x00070fff000fffff),
     must (decide (b.rank d < b.ndim) && (List.range d).all fun e => b.rank e != b.rank d) (o + 6)]
/-- The offences of OPNDi. -/
def Block.opBad (b : Block) (i : Nat) : List (Option Nat) :=
  let o := 0x50 + 16 * i
  let k := b.opKind i
  [must ((b.opDesc i).toNat % 64 == 0 && (k != 0 || b.opDesc i == 0)) o, must (k != 3) (o + 8),
   offendAt (o + 8) (extra (b.opCtl i) 0x001fffff03ffff1f),
   must (k == 0 || (List.range i).all fun j => b.opKind j == 0 || b.opS j != b.opS i) (o + 8)]

/-- The offset of the first offending byte of a block, as far as its own bytes say (R275 to R278). -/
def Block.bad (b : Block) : Option Nat :=
  let f := b.field
  let pc := fun (o al : Nat) (zero : Bool) => must (f o 8 % al == 0 && (zero || f o 8 != 0)) o
  let offs : List (Option Nat) :=
    [pc 0x00 4 false, pc 0x08 8 true, pc 0x10 16 false, pc 0x18 8 true] ++ (List.range 6).flatMap b.dimBad ++ (List.range 6).flatMap b.opBad ++
    [must (f 0xb0 8 % 128 == 0) 0xb0, must (f 0xb8 8 % 16 == 0) 0xb8, offendAt 0xc0 (extra (f 0xc0 2) 0x0fff),
     offendAt 0xc2 (extra (f 0xc2 1) 0x0f), must (decide (1 ≤ b.ndim ∧ b.ndim ≤ 6)) 0xc3, offendAt 0xc3 (extra (f 0xc3 1) 7),
     must (f 0xc8 8 % 8 == 0) 0xc8, must (decide (f 0xd0 2 ≤ 4096)) 0xd0, offendAt 0xd2 (extra (f 0xd2 1) 0x3f),
     offendAt 0xd3 (extra (f 0xd3 1) 7), offendAt 0xd4 (extra (f 0xd4 2) 7), nonzeroAt b.bytes 0xd6 2, must (f 0xd8 8 % 8 == 0) 0xd8,
     must (f 0xe8 8 % 64 == 0) 0xe8, offendAt 0xf0 (extra (f 0xf0 2) 0x0fff), offendAt 0xf2 (extra (f 0xf2 2) 0x03ff),
     must (decide (bits (f 0xf2 2) 9 0 ≤ 512)) 0xf2, offendAt 0xf4 (extra (f 0xf4 2) 0x0fff), offendAt 0xf6 (extra (f 0xf6 2) 0x01ff),
     must (decide (bits (f 0xf6 2) 8 0 ≤ 256)) 0xf6, nonzeroAt b.bytes 0xf8 8]
  (offs.filterMap id).min?

/-! ### Cast-on records (R19 to R21) -/

/-- A record with nothing in it. -/
def CastOn.zero : CastOn :=
  { pcs := Vector.replicate 4 0, k := Vector.replicate 6 0, slip := 0, trapen := 0, res3c := 0, syms := Vector.replicate 8 0,
    pb := Vector.replicate 3 0, res6c := 0, domain := Vector.replicate 4 0 }
/-- A record from its 128 bytes. -/
def CastOn.ofBytes (raw : List Byte) : CastOn :=
  { pcs := Vector.ofFn fun i => BitVec.ofNat 64 (leAt raw (8 * i.val) 8), k := Vector.ofFn fun i => BitVec.ofNat 32 (leAt raw (0x20 + 4 * i.val) 4),
    slip := BitVec.ofNat 16 (leAt raw 0x38 2), trapen := BitVec.ofNat 16 (leAt raw 0x3a 2), res3c := BitVec.ofNat 32 (leAt raw 0x3c 4),
    syms := Vector.ofFn fun i => BitVec.ofNat 32 (leAt raw (0x40 + 4 * i.val) 4),
    pb := Vector.ofFn fun i => BitVec.ofNat 32 (leAt raw (0x60 + 4 * i.val) 4), res6c := BitVec.ofNat 32 (leAt raw 0x6c 4),
    domain := Vector.ofFn fun i => BitVec.ofNat 32 (leAt raw (0x70 + 4 * i.val) 4) }
/-- A record's bytes 0x38 to 0x6f replaced by a template's (R280). -/
def CastOn.withTemplate (c t : CastOn) : CastOn :=
  { c with slip := t.slip, trapen := t.trapen, res3c := t.res3c, syms := t.syms, pb := t.pb, res6c := t.res6c }

/-- lo, hi, initial binding and source of a symbol word. -/
def symFields (w : Word32) : BitVec 6 × BitVec 6 × BitVec 6 × BitVec 4 :=
  (w.extractLsb' 0 6, w.extractLsb' 6 6, w.extractLsb' 12 6, w.extractLsb' 18 4)
/-- The offending bits of a symbol word (R20). Of lo ≤ initial ≤ hi broken between fields, R21 does not say which byte offends: the word's byte 0, in which
the three begin, is taken (log 77, DEDUCED). -/
def symOffend (w : Word32) : Nat :=
  let (lo, hi, ini, src) := symFields w
  bif src == 0 then w.toNat
  else
    extra w.toNat 0x003fffff + (bif decide (0xc ≤ src.toNat) then 0x003c0000 else 0) +
      bif decide (1 ≤ lo.toNat ∧ lo.toNat ≤ ini.toNat ∧ ini.toNat ≤ hi.toNat) then 0 else 0x3ffff

/-- The offset of the lowest offending byte of a record (R19 to R21, R147, R292). Of a PC or a pool boundary out of its alignment or its range the field's
first byte is taken (log 77, DEDUCED). -/
def CastOn.bad (c : CastOn) : Option Nat :=
  let pc := fun (i : Nat) => (vget c.pcs i 0).toNat
  let pb := fun (i : Nat) => (vget c.pb i 0).toNat
  let sl := fun (i : Nat) => let n := bits c.slip.toNat (4 * i + 3) (4 * i); must (decide (1 ≤ n ∧ n ≤ 8)) (0x38 + i / 2)
  let offs : List (Option Nat) :=
    [must (pc 0 % 4 == 0 && pc 0 != 0) 0, must (pc 1 % 8 == 0) 8, must (pc 2 % 16 == 0 && pc 2 != 0) 16, must (pc 3 % 8 == 0) 24,
     sl 0, sl 1, sl 2, sl 3, offendAt 0x3a (extra c.trapen.toNat 7), offendAt 0x3c c.res3c.toNat] ++
    ((List.range 8).map fun i => offendAt (0x40 + 4 * i) (symOffend (vget c.syms i 0))) ++
    [must (pb 0 % 1024 == 0 && decide (0x18000 ≤ pb 0 ∧ pb 0 ≤ 0x60000)) 0x60, must (pb 1 % 1024 == 0 && decide (pb 0 ≤ pb 1)) 0x64,
     must (pb 2 % 1024 == 0 && decide (pb 1 ≤ pb 2 ∧ pb 2 ≤ 0x200000)) 0x68, offendAt 0x6c c.res6c.toNat] ++
    ((List.range 4).map fun i => offendAt (0x70 + 4 * i) (extra (vget c.domain i 0).toNat 0x803fffff))
  (offs.filterMap id).min?

/-- A domain word: GROUP and MEMBERS stand whatever VALID is (R292). -/
def domWord (valid : Bool) (group members : Nat) : Word32 :=
  BitVec.ofNat 32 (valid.toNat * 2 ^ 31 + members % 1024 * 4096 + group % 4096)

/-- The record that the walker fills for a step, but for the template's bytes (R280, R292). -/
def Block.castOn (b : Block) (n : Nat) : CastOn :=
  let g := b.gang
  let pm := b.field 0xf2 2
  let fm := b.field 0xf6 2
  { CastOn.zero with
    pcs := Vector.ofFn fun i => BitVec.ofNat 64 (b.field (8 * i.val) 8)
    k := Vector.ofFn fun i => bif decide (i.val < b.ndim) then let x := b.coord n i.val; BitVec.ofNat 32 (x.1 + (x.2 - 1) * 2 ^ 20) else 0
    domain := Vector.ofFn fun i => match i.val with
      | 0 => domWord g b.group0 (bif g then b.past - b.first else 0)
      | 1 => domWord g b.group1 (bif g then b.outer * b.inner else 0)
      | 2 => domWord (g && pm != 0) (b.field 0xf0 2) pm
      | _ => domWord (g && pm != 0 && fm != 0) (b.field 0xf4 2) fm }

/-! ### Operands (R281) -/

/-- A descriptor positioned for a step; none when a bit-plane descriptor would start inside a group. -/
def Desc.position (d : Desc) (moves : List (Nat × Nat × Nat)) : Option Desc :=
  let t := fun (j : Nat) => ((moves.filter fun m => m.1 == j).map fun m => m.2.1).sum
  let d' := bif d.winen then d else moves.foldl (fun d m => { d with count := vset d.count m.1 (BitVec.ofNat 24 (Nat.min (d.cnt m.1) m.2.2)) }) d
  bif d.isPlane && t 0 % 128 != 0 then none
  else some (({ d' with base := (d.addr (t 0 : Nat) (t 1 : Nat) (t 2 : Nat) (t 3 : Nat)).1, pos := 0 }.setActive false).setFsc false)

/-- The moves of an operand: descriptor dimension, c_d and n_d of each enabled loop dimension (R281). -/
def Block.moves (b : Block) (i : Nat) (c : CastOn) : List (Nat × Nat × Nat) :=
  (List.range b.ndim).filterMap fun d => (b.opMap i d).map fun j =>
    let k := (vget c.k d 0).toNat
    (j, bits k 19 0, bits k 31 20 + 1)

end Sys2Proof.Machine
end

