-- ==== Sys2Proof/Machine/Choose.lean ====
section
/-! DEFINITION. Choosing among the blocks of a partition (R290, R359, R372). -/

namespace Sys2Proof.Machine

/-! ### Choosing (R359) -/

/-- EP (R359). -/
def Part.ep (x : Part) (b : Block) (now : Nat) : Nat := Nat.min 7 ((x.queue b.queue).prio.toNat + (now - b.tw.getD now) / 256000)
/-- The place of a queue after a round-robin pointer. -/
def afterPtr (ptr q : BitVec 6) : Nat := (q.toNat + 63 - ptr.toNat) % 64
/-- The order of choice: EP, the queue after the pointer, the time of readiness, HEAD. -/
def Part.rankOf (x : Part) (ptr : BitVec 6) (now : Nat) (b : Block) : List Nat := [7 - x.ep b now, afterPtr ptr b.queue, b.ready, b.head]
/-- One list comes before another. -/
def lexLt : List Nat → List Nat → Bool
  | a :: s, b :: t => decide (a < b) || (a == b && lexLt s t)
  | _, _ => false
/-- The chosen candidate (R359). -/
def Part.choose (x : Part) (ptr : BitVec 6) (now : Nat) : List Block → Option Block
  | [] => none
  | b :: t => match x.choose ptr now t with
    | none => some b
    | some c => bif lexLt (x.rankOf ptr now c) (x.rankOf ptr now b) then some c else some b

/-- The first saved step among some of a partition's that no shadow task slot holds and this core's pool can take (R363). -/
def State.savedOf (s : State) (p : BitVec 3) (mine : StepId → Bool) : Option Saved :=
  let x := s.part p
  x.saved.find? fun z => z.vf == x.resident && decide (s.core.pool.lost ≤ z.lost) && match z.ctx.running with
    | some i => mine i && !s.core.ctx.slots.any fun l => l.id == i && l.part == p && l.vf == z.vf && decide (l.stage = .restored)
    | none => false
/-- The first step among these that is to be placed again (R374). -/
def State.backOf (s : State) (p : BitVec 3) (mine : StepId → Bool) : Option ShadowSlot :=
  (s.part p).back.find? fun l => l.vf == (s.part p).resident && mine l.id
/-- The steps of a block; those that chxdbg has launched (R274). -/
def Block.mine (b : Block) (i : StepId) : Bool := i.of b.queue b.addr
/-- A launched step. -/
def StepId.launched (i : StepId) : Bool := i.queue.isNone
/-- The blocks whose next step may fill a free slot: assigned here, ready, of the resident virtual function; one that has failed places no further step,
and those it has placed already come back (R283, R359, R365, R372). -/
def State.candidates (s : State) (p : BitVec 3) : List Block :=
  let x := s.part p
  x.blocks.filter fun b => b.assigned && b.tw.isSome && x.vfOf b.queue == x.resident &&
    ((!b.failed && decide (b.next < b.past)) || (s.savedOf p b.mine).isSome || (s.backOf p b.mine).isSome)

/-- The cluster's site is drained: it places nothing (R384). -/
def State.siteDrained (s : State) : Bool := s.pkg.drained.contains (s.pkg.die, s.pkg.site)

/-- The steps that wait for a core of the cluster, by the EP of their blocks: those of the slots, and the next of each candidate
(R290). A launched step counts as 0 (R274). -/
def State.waitingEps (s : State) (p : BitVec 3) : List Nat :=
  let x := s.part p
  let now := s.tstamp
  let ofId := fun (i : StepId) => match x.blockOf i with | some b => x.ep b now | none => 0
  ((s.core.ctx.slots.filter fun l => match l.stage with | .runnable | .restored => l.part == p && l.vf == x.resident | _ => false).map fun l => ofId l.id) ++
    (s.candidates p).map fun b => x.ep b now
/-- The EP of the running step's block (R290). -/
def State.runningEp (s : State) : Nat :=
  match s.core.ctx.running with
  | some i => match (s.part s.myPart).blockOf i with | some b => (s.part s.myPart).ep b s.tstamp | none => 0
  | none => 0
/-- A yield is asked for, and a step waits that it counts (R290). -/
def State.yieldDue (s : State) : Bool :=
  match s.core.ctx.yield_ with
  | some strict => (s.waitingEps s.myPart).any fun e => bif strict then decide (s.runningEp < e) else decide (s.runningEp ≤ e)
  | none => false

end Sys2Proof.Machine
end

