-- ==== Sys2Proof/Machine/Sampling.lean ====
section
/-! DEFINITION. The sample buffer (R304) and the snapshots of the bank-conflict matrix (R305). -/

namespace Sys2Proof.Machine

/-- A record written to the sample buffer as an ordinary store, each byte at its own translation; a full buffer stops sampling and counts the loss (R304;
log 25, DESIGN CHOICE). -/
def State.smpWrite (s : State) (b : List Byte) : State :=
  let d := s.core.dbg
  bif decide (d.smpSize < d.smpPos + b.length) then s.setDbg { d with smpMask := 0, smpLost := d.smpLost + 1 }
  else
    match (List.range b.length).mapM fun i => s.ctxPa s.myPart 0 (d.smpBase + BitVec.ofNat 64 (d.smpPos + i)) with
    | some pas =>
      let s := s.storeCells (pas.zip b) none true
      s.setDbg { s.core.dbg with smpPos := d.smpPos + b.length }
    | none => s.setDbg { d with smpMask := 0, smpLost := d.smpLost + 1 }

/-- The 1,040-byte record of a snapshot: the matrix, the loop id and TICK (R305; log 25, DESIGN CHOICE). -/
def Debug.snapBytes (d : Debug) : List Byte :=
  ((List.range 256).flatMap fun i => leBytes 4 (kget d.snapBank i 0).toNat) ++ leBytes 8 d.snapLoop.toNat ++ leBytes 8 d.snapTick

/-- A level of V's hardware loops has closed or been discarded: the matrix is copied, with its id and TICK (R305). -/
def State.loopSnap (s : State) (l : Loop) : State :=
  let d := s.core.dbg
  let s := s.setDbg { d with snapBank := d.bank, snapLoop := l.id, snapTick := s.core.csr.tick.toNat }
  bif s.core.dbg.smpMask == 0 then s else s.smpWrite s.core.dbg.snapBytes
/-- One snapshot for each level that has closed or been discarded, the innermost first (R305). -/
def State.loopSnapshot (s : State) (before : List Loop) : State :=
  (before.take (before.length - s.core.v.loops.length)).foldl State.loopSnap s

/-- The record of a sampled unit at its retirement: the cycle counts, which no rule bounds, are free values (R301, R304; log 13, DESIGN CHOICE). -/
def State.smpRecord (s : State) (m : Marker) : List Byte :=
  leBytes 8 m.pc.toNat ++ leBytes 1 ((strandCode m.strand).toNat + 4 * s.pkg.core.toNat) ++ leBytes 1 m.loopId.toNat ++ leBytes 1 m.stage.toNat ++
    leBytes 1 0 ++ leBytes 4 m.iter.toNat ++ ((List.range 5).flatMap fun i => leBytes 2 (Config.freeNat (s.free + i) % 65536)) ++ leBytes 2 0 ++
    leBytes 4 s.tstamp

/-- The units that a strand has retired (R304). -/
def State.unitsOf (s : State) (k : Strand) : Nat := vget s.core.units (match k with | .v => 0 | .c => 1 | .l => 2 | .s => 3) 0
/-- The units that the selected strands have retired. -/
def State.smpUnits (s : State) : Nat :=
  ((([.c, .l, .v, .s] : List Strand).filter fun k => s.core.dbg.smpMask.getLsbD (strandCode k).toNat).map s.unitsOf).sum
/-- The bounds of the interval between two markers: 2^n units, with a jitter of 2^(n-1) either way (R304). -/
def State.smpSoon (s : State) : Bool := decide (s.smpUnits < s.core.dbg.smpFrom + 2 ^ (s.core.dbg.smpLog.toNat - 1))
/-- The interval has reached its upper bound. -/
def State.smpLate (s : State) : Bool := decide (s.core.dbg.smpFrom + 3 * 2 ^ (s.core.dbg.smpLog.toNat - 1) ≤ s.smpUnits)

/-- The marked unit retires with this turn: a unit of its strand has, and the marked one was the next. C and V retire the unit at their PC; one that is
trapped has not retired, and the marker stays on it. L and S retire in order behind their PC (R304). -/
def State.markedRetires (s : State) (m : Marker) : Bool :=
  let n := s.unitsOf m.strand - m.seen
  decide (m.ahead < n) && (m.cur == m.pc || (match m.strand with | .l | .s => true | _ => false))

/-- The marker follows its unit: at the retirement the record is written; the marker of a step that has left goes with it (R304). -/
def State.markerRetire (s : State) : State :=
  match s.core.dbg.marker with
  | some m =>
    bif s.markedRetires m then
      let t := s.smpWrite (s.smpRecord m)
      { t.setDbg { t.core.dbg with marker := none } with free := s.free + 5 }
    else bif !s.stepOn then s.setDbg { s.core.dbg with marker := none }
    else
      let n := s.unitsOf m.strand
      let left := match m.strand with | .l | .s => m.ahead - (n - m.seen) | _ => m.ahead
      s.setDbg { s.core.dbg with marker := some { m with ahead := left, seen := n, cur := s.pcOf m.strand } }
  | none => s

/-- The stage of the unit that a strand stands at (R301). -/
def State.stageOf (s : State) (k : Strand) : Nat := match k with | .v => s.vStage | _ => 0
/-- One marker in flight on the core, on the unit that a selected strand stands at, no sooner after the last than the interval allows (R304). -/
def State.placeMarker (s : State) (k : Strand) : State :=
  let d := s.core.dbg
  bif !s.stepOn || !d.smpMask.getLsbD (strandCode k).toNat || d.marker.isSome || s.smpSoon then s
  else
    let j := s.stageOf k
    let (id, iter) := match s.loopsOf k with | l :: _ => (l.id, l.index - BitVec.ofNat 32 j) | [] => (0, 0)
    let ahead := match k with | .l => s.core.l.pend.length | .s => s.core.s.pend.length | _ => 0
    s.setDbg { d with marker := some ⟨k, s.pcOf k, id, BitVec.ofNat 8 j, iter, s.core.csr.cycle.toNat, ahead, s.unitsOf k, s.pcOf k⟩, smpFrom := s.smpUnits }
/-- At the interval's upper bound the marker is placed on the next unit of the first selected strand (R304; log 25, DESIGN CHOICE). -/
def State.samplerDue (s : State) : State :=
  bif s.core.dbg.smpMask == 0 || !s.smpLate then s
  else match ([.c, .l, .v, .s] : List Strand).find? fun k => s.core.dbg.smpMask.getLsbD (strandCode k).toNat with
    | some k => s.placeMarker k
    | none => s

end Sys2Proof.Machine
end

