-- ==== Sys2Proof/Machine/Blocks.lean ====
section
/-! DEFINITION. Blocks of streams as L, V and S pop and push them (R139, R143, R144, R154, R156, R157). -/

namespace Sys2Proof.Machine

/-- A block as popped: the planes read, the bits of its BR·BC places, the scale of each 128-place group. -/
abbrev Block_ := Nat × List Word32 × List (BitVec 16)

/-- The positions of the next n blocks from a position; none where one begins at or past the pattern's end. -/
def Desc.positions (d : Desc) : Nat → Nat → Option (List Nat)
  | 0, _ => some []
  | n + 1, pos =>
    if d.len ≤ pos then none
    else (d.positions n (pos + (blockElems (d.blockAt pos)).length)).map (pos :: ·)

/-- The places of a block filled with the values of its elements; completing places are zero (R154). -/
def fillPlaces : List (Option Nat) → List Word32 → List Word32
  | [], _ => []
  | none :: t, vs => 0 :: fillPlaces t vs
  | some _ :: t, vs => vs.headD 0 :: fillPlaces t vs.tail

/-- The scale groups in the order in which their scales are fetched. -/
def Desc.groupsOf (d : Desc) (es : List Nat) (last : Option Nat) : List Nat :=
  match es with
  | [] => []
  | e :: t => bif last == some (d.group e) then d.groupsOf t last else d.group e :: d.groupsOf t (some (d.group e))

/-- The scale of each 128-place group of a block: that of its first element; 1.0 where it holds none (log 21, DEDUCED). -/
def Desc.placeScales (d : Desc) (places : List (Option Nat)) (scales : List (BitVec 16)) : List (BitVec 16) :=
  let gs := d.groupsOf (blockElems places) none
  let per := ceilDiv d.bc 128
  (List.range (d.br * per)).map fun i =>
    let row := (places.drop (i / per * d.bc)).take d.bc
    match ((row.drop (i % per * 128)).take 128).findSome? id with
    | some e => scales.getD (gs.idxOf (d.group e)) 0x3f80
    | none => 0x3f80

/-- What popping a list of blocks answers. -/
inductive Pop
  | ok (blocks : List Block_)
  | fail (f : XFail) (e : Nat) (scale : Bool) (va : Word64)
  | waits

/-- The blocks at these positions read, the i-th with the plane count of its fetch (R156). -/
def State.readBlocks (s : State) (d : Desc) : List Nat → List (BitVec 4) → List Block_ → Pop
  | [], _, acc => .ok acc.reverse
  | pos :: t, ahead, acc =>
    let k := match ahead with | p :: _ => p.toNat | [] => d.planes
    let places := d.blockAt pos
    match s.fetchElems d k (blockElems places) none [] [] with
    | .fail f e sc va => .fail f e sc va
    | .waits => .waits
    | .ok vs ss => s.readBlocks d t ahead.tail ((k, fillPlaces places vs, bif d.scl then d.placeScales places ss else []) :: acc)

/-- The elements that blocks at these positions carry. -/
def Desc.carried (d : Desc) (ps : List Nat) : List Nat := ps.flatMap fun p => blockElems (d.blockAt p)

/-- An input stream after its next n blocks, which carry m elements, have been popped. -/
def Desc.popped (d : Desc) (n m : Nat) : Desc :=
  { d with pos := BitVec.ofNat 64 ((d.at_ + m) % 2 ^ 48), ahead := d.ahead.drop n,
           req := (d.req.map fun q => (q.1, q.2.1 - n, q.2.2)).filter fun q => q.2.1 != 0 }

/-- A block's element lies in the weight store (R243). -/
def State.fromWeights (s : State) (d : Desc) (es : List Nat) : Bool :=
  es.any fun e => match s.xlate s.whoT (d.elemVa e) .rd with
    | .ok pa => (match s.region pa with | .weight _ => true | _ => false)
    | .error _ => false
/-- The data of a block's elements is held back: a bank of the weight store is in its refresh window, or a page in a flip (R200, R322, R351). -/
def State.blockHeld (s : State) (d : Desc) (es : List Nat) : Bool :=
  es.any fun e => match s.xlate s.whoT (d.elemVa e) .rd with | .ok pa => s.holdsAt 0 true pa | .error .waits => true | .error _ => false
/-- The lines of the L2 and the L1 region that the fetch of blocks at these positions reads, under leases (R308; log 69, DESIGN CHOICE). -/
def State.fetchCounts (s : State) (d : Desc) (ps : List Nat) : State :=
  let vas := (d.carried ps).filterMap fun e => (d.elem e).map (·.1)
  s.l1Hits (vas.filterMap fun va => s.ctxPa s.core.ctx.part s.core.ctx.vf va)
/-- The positions of the next n blocks that are not held already. -/
def Desc.missing (d : Desc) (n : Nat) : List Nat := ((d.positions n d.at_).getD []).drop d.ahead.length
/-- Some of the next n blocks are still to come from the weight store. -/
def State.asksWeights (s : State) (d : Desc) (n : Nat) : Bool :=
  (d.missing n).any fun p => s.fromWeights d (blockElems (d.blockAt p))
/-- The blocks of a stream's oldest request to the weight store arrive, when their data is not late, neither a refresh window nor a flip holds it, and the
cycles injected into the source when they were asked for have passed since: each is a sample of source 0xa, and they are held (R243, R244, R273,
R351; log 65, DESIGN CHOICE). -/
def State.arrive (s : State) (r : SReg) : State :=
  let d := s.desc r
  match d.req with
  | [] => s
  | (t, n, inj) :: rest =>
    let ps := d.missing n
    let due := Nat.max t d.came + inj
    bif d.late then s
    else bif ps.any fun p => s.blockHeld d (blockElems (d.blockAt p)) then s.setDesc r { d with came := s.core.ctx.live + 1 }
    else bif decide (s.core.ctx.live < due) then s
    else
      let s := (s.fetchCounts d ps).setDesc r { d with ahead := d.ahead ++ ps.map (fun _ => BitVec.ofNat 4 d.planes), came := due, req := rest }
      (ps.filter fun p => s.fromWeights d (blockElems (d.blockAt p))).foldl (fun s _ => s.sampleAt 0xa (due - t) due) s
/-- A strand asks for the next n blocks of a stream: those that the weight store still owes are asked for, and arrive (R243, R273). -/
def State.askBlocks (s : State) (r : SReg) (n : Nat) : State :=
  let d := s.desc r
  bif s.asksWeights d n then
    (bif d.req.any fun q => decide (n ≤ q.2.1) then s
     else s.setDesc r { d with req := d.req ++ [(s.core.ctx.live, n, s.injected 0xa)] }).arrive r
  else s
/-- The next n blocks of a stream have come: no data of theirs is late, and the weight store owes none (R247). -/
def State.blocksHere (s : State) (r : SReg) (n : Nat) : Bool := let d := s.desc r; !d.late && !s.asksWeights d n
/-- Every stream's blocks that are due arrive. -/
def State.arrivals (s : State) : State := allStreams.foldl State.arrive s

/-! ### The causes of a word's elements (R39, R139, R145) -/

/-- The failing accesses of elements, each with its scale first: why, the element, whether it was the scale, and the address. -/
def State.elemFails (s : State) (d : Desc) (k : Nat) (need : Need) (es : List Nat) : List (XFail × Nat × Bool × Word64) :=
  es.flatMap fun e =>
    (bif d.scl && !d.out then match s.vaBytes s.whoT (d.scaleAddr (d.group e)) 2 need with | .fail f => [(f, e, true, d.scaleAddr (d.group e))] | _ => []
     else []) ++
    match d.elem e with
    | some x => (match s.vasOk s.whoT (d.elemVas x k) need with | .fail f => [(f, e, false, x.1)] | _ => [])
    | none => []
/-- Those of the blocks at these positions, each with the plane count of its fetch. -/
def State.blockFails (s : State) (d : Desc) : List Nat → List (BitVec 4) → List (XFail × Nat × Bool × Word64)
  | [], _ => []
  | pos :: t, ahead =>
    s.elemFails d (match ahead with | p :: _ => p.toNat | [] => d.planes) .rd (blockElems (d.blockAt pos)) ++ s.blockFails d t ahead.tail
/-- The number of the cause that a failing element raises (R36, R157). -/
def XFail.code (f : XFail) : Nat := match f with | .noTrans => 0x08 | .waits => 0x100 | f => (xfailCause f 0x08 0).1.toNat
/-- The failure whose cause has the lowest number, and of those the first (R39). -/
def lowestFail : List (XFail × Nat × Bool × Word64) → Option (XFail × Nat × Bool × Word64)
  | [] => none
  | x :: t => match lowestFail t with | some y => bif decide (y.1.code < x.1.code) then some y else some x | none => some x
/-- The positions of the next n blocks, as far as the pattern has them. -/
def Desc.here (d : Desc) : Nat → Nat → List Nat
  | 0, _ => []
  | n + 1, pos => if d.len ≤ pos then [] else pos :: d.here n (pos + (blockElems (d.blockAt pos)).length)

/-- An input stream fetches its next block ahead, with the planes that it has now (R156, R308). -/
def State.streamAhead (s : State) (r : SReg) : State :=
  let d := s.desc r
  let n := d.ahead.length + 1
  bif !d.active || d.out || (d.positions n d.at_).isNone then s
  else bif s.asksWeights d n then s.askBlocks r n
  else (s.fetchCounts d (d.missing n)).setDesc r { d with ahead := d.ahead ++ [BitVec.ofNat 4 d.planes] }
/-- The data of an input stream's next block is outstanding, or has come (R247). -/
def State.streamLate (s : State) (r : SReg) (late : Bool) : State :=
  let d := s.desc r
  bif !d.active || d.out then s
  else
    let req := bif late && d.req.isEmpty && s.asksWeights d (d.ahead.length + 1) then [(s.core.ctx.live, d.ahead.length + 1, s.injected 0xa)] else d.req
    (s.setDesc r { d with late := late, came := bif late then d.came else s.core.ctx.live, req := req }).stir

/-- The bytes of a popped block (R139): elements in their size, or 128-byte plane images. -/
def Desc.blockBytes (d : Desc) (b : Block_) : List Byte :=
  bif d.isPlane then
    (List.range (b.2.1.length / 128)).flatMap fun g =>
      (List.range 128).foldl (fun img e => planeSet img e (b.2.1.getD (128 * g + e) 0).toNat 8) (List.replicate 128 0)
  else b.2.1.flatMap fun v => leBytes (fmtSize d.fmt) v.toNat
/-- The size of a block in bytes. -/
def Desc.blockSize (d : Desc) : Nat := d.br * d.bc * fmtSize d.fmt

/-! ### Pushing -/

/-- The elements that a push of n source elements from POS carries, in order, each with the number of its source element;
none when it goes past the pattern's end (R145). -/
def Desc.pushElems (d : Desc) (n : Nat) : Option (List (Nat × Nat)) :=
  let size := d.br * d.bc
  if n = 0 then some []
  else if d.len ≤ d.at_ ∨ ceilDiv (d.len - d.at_) size * size < n then none
  else some ((List.range (Nat.min n (d.len - d.at_))).map fun i => (d.at_ + i, i))

/-- The first element of a push that fails its check, or a wait, or nothing (R145): a bit-plane element is checked on the plane
bytes it writes. -/
def State.pushCheck (s : State) (d : Desc) (need : Need) : List Nat → Access Unit × Nat
  | [] => (.ok (), 0)
  | e :: t =>
    match s.vasOk s.whoT (d.elemVas (match d.elem e with | some x => x | none => (d.base, 0)) d.planes) need with
    | .fail f => (.fail f, e)
    | .waits => (.waits, e)
    | .ok _ => s.pushCheck d need t

/-- The physical addresses of an element already checked. -/
def State.elemPas (s : State) (d : Desc) (e : Nat) : List Nat :=
  match s.vasOk s.whoT (d.elemVas (match d.elem e with | some x => x | none => (d.base, 0)) d.planes) .wr with
  | .ok pas => pas
  | _ => []

/-- One element pushed as one event (R143): a bit-plane element merges its bit into each plane byte that is written. -/
def State.pushElem (s : State) (d : Desc) (e : Nat) (v : Nat) : State :=
  let pas := s.elemPas d e
  bif d.isPlane then
    let bit := match d.elem e with | some x => x.2 / 16 | none => 0
    let m : Byte := 1#8 <<< bit
    let cs := (List.range pas.length).map fun j =>
      let pa := pas.getD j 0
      let old := (s.rmwFirst pas).rd8 pa
      (pa, bif v.testBit (7 - j) then old ||| m else old &&& ~~~m)
    s.storeCells cs s.me true
  else s.storeCells (pas.zip (leBytes (fmtSize d.fmt) v)) s.me true

/-- Elements pushed in order, with the values of their source elements; POS moves on (R143). -/
def State.pushAll (s : State) (r : SReg) (es : List (Nat × Nat)) (v : Nat → Nat) : State :=
  let d := s.desc r
  let pas := es.flatMap fun x => s.elemPas d x.1
  let s := es.foldl (fun s x => s.pushElem d x.1 (v x.2)) (s.l2Hits pas)
  let s := s.coverAt s.coverNow pas
  let s := s.setDesc r { s.desc r with pos := BitVec.ofNat 64 ((d.at_ + es.length) % 2 ^ 48) }
  s.count 0x0a (ceilDiv es.length (d.br * d.bc))

/-! ### Reductions (R144, R415) -/

/-- old ⊕ m in a format: add, min or max, with the counts it produces (R144). -/
def redApply (op : RedOp) (fmt : Nat) (old m : Nat) : FRes :=
  match fmtOf fmt with
  | some g =>
    match op with
    | .add => g.sum .rne old m
    | .min => g.fin .rne ((g.dec old).isNan || (g.dec m).isNan) ((g.dec old).min (g.dec m))
    | .max => g.fin .rne ((g.dec old).isNan || (g.dec m).isNan) ((g.dec old).max (g.dec m))
  | none =>
    match op with
    | .add => ⟨(old + m) % 2 ^ 32, []⟩
    | .min => ⟨intBits 3 (min (intVal 3 old) (intVal 3 m)), []⟩
    | .max => ⟨intBits 3 (max (intVal 3 old) (intVal 3 m)), []⟩

/-- One element reduced into its destination as one event, or contributed to the fabric when its address lies in the reduction
window (R144, R414). -/
def State.redElem (s : State) (d : Desc) (op : RedOp) (e : Nat) (v : Nat) : State :=
  let va := d.elemVa e
  let pas := s.elemPas d e
  bif s.inWindow va then s.contribute (pas.headD 0) va op (BitVec.ofNat 4 d.fmt) (BitVec.ofNat 32 v) (s.fifo 6).next
  else
    let s := s.l2Hits pas
    let r := redApply op d.fmt (leNat (pas.map (s.rmwFirst pas).rd8)) v
    ((s.storeCells (pas.zip (leBytes (fmtSize d.fmt) r.bits)) s.me true).coverAt s.coverNow pas).fpCount r.ev

end Sys2Proof.Machine
end

