-- ==== Sys2Proof/Machine/LSWords.lean ====
section
/-! DEFINITION. The L and S strands (R122 to R133, R138 to R145): issue and retirement in order, y-register arithmetic, hardware
loops, tokens, and the data words. -/

namespace Sys2Proof.Machine

/-- The strand an LS names. -/
def lsStrand : LS → Strand | .l => .l | .s => .s

/-- The encoded word of an L or S instruction, as TVAL of cause 0x01 shows it (R36). -/
def lsWordOf (i : Instr) : Word64 :=
  match encode i with
  | some (.ls _ w) => w
  | _ => 0

/-! ### Hardware loops (R24, R128 to R131) -/

/-- The active level of an id. -/
def loopFind (ls : List Loop) (lid : BitVec 8) : Option Loop := ls.find? fun l => l.id == lid

/-- Special(sel, lid) (R125). -/
def State.special (s : State) (k : Strand) (sel : Nat) (lid : BitVec 8) : Word32 :=
  match sel with
  | 0 => match loopFind (s.loopsOf k) lid with | some l => l.index | none => 0
  | 1 => match loopFind (s.loopsOf k) lid with | some l => l.remaining | none => 0
  | 2 => match k with | .l => s.core.l.hi | .s => s.core.s.hi | _ => s.core.v.hi
  | _ => s.core.csr.tick.extractLsb' 0 32

/-- The count of an lbeg: 0 is taken as 1 (R128). -/
def loopCount (ya imm : Word32) : Word32 := bif ya + imm == 0 then 1 else ya + imm

/-- lbeg: none when four levels are active or the id is (R129). -/
def loopPush (ls : List Loop) (lid : BitVec 8) (count : Word32) (start : Word64) : Option (List Loop) :=
  bif decide (4 ≤ ls.length) || (loopFind ls lid).isSome then none else some (⟨lid, start, none, count, 0⟩ :: ls)

/-- lbr whose condition holds: the level's remaining count becomes 1 (R131). -/
def loopBreak (ls : List Loop) (lid : BitVec 8) : List Loop := ls.map fun l => bif l.id == lid then { l with remaining := 1 } else l

/-- The closing of m levels by the unit at `pc`, whose successor is at `next` (R130): the levels, the next PC, and the remaining
count of a level that goes back. -/
def loopClose (cont : Bool) (pc next : Word64) : Nat → List Loop → List Loop × Word64 × Option Word32
  | 0, ls => (ls, next, none)
  | _ + 1, [] => ([], next, none)
  | m + 1, l :: ls =>
    bif decide (1 < l.remaining.toNat) && cont then
      ({ l with remaining := l.remaining - 1, index := l.index + 1, fin := some (l.fin.getD pc) } :: ls, l.start, some (l.remaining - 1))
    else loopClose cont pc next m ls

/-! ### Issue and retirement (R122, R126) -/

/-- No earlier unretired word changes loops or the PC (R122). -/
def State.lsOrdered (s : State) (k : LS) : Bool := (s.ls k).pend.all fun r => r.next.isNone && !r.ends
/-- A word may issue: no earlier unretired word changes loops or the PC or writes a y register it reads; its queue holds an
entry; its tokens can be met together. -/
def State.lsReady (s : State) (k : LS) (tok : Tokens) (srcs : List YReg) : Bool :=
  s.lsOrdered k && ((s.ls k).pend.all fun r => match r.y with | some (d, _) => !srcs.contains d | none => true) &&
    !s.yBlocked (lsStrand k) srcs && s.tokReady (lsStrand k) tok

/-- The event code of a retired word. -/
def lsEvent : LS → BitVec 8 | .l => 0x05 | .s => 0x06

/-- The y write of a word that makes one. -/
def State.lsWrites (s : State) (k : LS) (y : Option (YReg × Word32)) : State :=
  match y with | some (d, v) => s.yWrite (lsStrand k) d v | none => s
/-- The loop levels and the PC that a word sets. -/
def State.lsGoes (s : State) (k : LS) (next : Option (List Loop × Word64)) : State :=
  match next with | some (ls, pc) => s.setLS k { s.ls k with loops := ls, pc := pc } | none => s
/-- An end's retirement (R22). -/
def State.lsEnds (s : State) (k : LS) (ends : Bool) : State := bif ends then s.setLS k { s.ls k with ended := true, loops := [] } else s

/-- The retirement effects of a word (R122). -/
def State.lsRetire (s : State) (k : LS) (r : Retire) : State :=
  (((((s.lsWrites k r.y).tokRetire (lsStrand k) r.tok).lsGoes k r.next).lsEnds k r.ends).touch).count (lsEvent k) 1

/-- The words at the head that no data word in flight holds back retire. -/
def State.lsDrain (k : LS) : List Retire → State → State
  | [], s => s.setLS k { s.ls k with pend := [] }
  | r :: t, s =>
    bif r.data then s.setLS k { s.ls k with pend := r :: t } else State.lsDrain k t (s.lsRetire k r)

/-- The oldest data word's data has moved: it retires, and with it the words that waited behind it. -/
def State.lsDataDone (s : State) (k : LS) : State :=
  match (s.ls k).pend with
  | [] => s
  | r :: t => State.lsDrain k t (s.lsRetire k r)

/-- The words of L or S in issue complete (R26). -/
def State.lsComplete (k : LS) : Nat → State → State
  | 0, s => s
  | n + 1, s => bif (s.ls k).pend.isEmpty then s else State.lsComplete k n (s.lsDataDone k)
/-- L and S come to their next instruction boundary (R26, R362). -/
def State.atBoundary (s : State) : State :=
  let s := State.lsComplete .l s.core.l.pend.length s
  State.lsComplete .s s.core.s.pend.length s

/-- What a word does at its issue. -/
inductive LSAct
  /-- its effects, and its y write -/
  | go (s : State) (y : Option (YReg × Word32))
  | cause (c : BitVec 8) (tval : Word64)
  /-- a cause already raised -/
  | faulted (s : State)
  /-- it waits for data, in a state that keeps what it has asked for -/
  | waits (s : State)
  | holds

/-- A word of L or S: its sources; whether it is a data word, a wload, an end; its marker; what it makes of the loop levels, none
for cause 0x01; and what it does. -/
structure LSWord where
  k     : LS
  i     : Instr
  tok   : Tokens
  marker : Nat
  srcs  : List YReg
  data  : Bool := false
  wload : Bool := false
  ends  : Bool := false
  loops : Option (List Loop → Option (List Loop)) := none
  act   : State → LSAct

/-- The loop levels as a word that may act makes them; none for cause 0x01. -/
def LSWord.own (w : LSWord) (ls : List Loop) : Option (List Loop) := match w.loops with | some f => f ls | none => some ls
/-- What a word keeps for its retirement (R122, R130): its marker closes levels as it retires. -/
def LSWord.keeps (w : LSWord) (pc : Word64) (ls : List Loop) (y : Option (YReg × Word32)) : Retire :=
  let close := loopClose true pc (pc + 8) w.marker ls
  ⟨w.data, w.wload, y, w.tok, bif w.loops.isSome || w.marker != 0 then some (close.1, close.2.1) else none, w.ends⟩

/-- A word whose act is done issues: it pops and takes its tokens, by which an occupancy changes (R44), and waits to retire behind data, or retires. -/
def State.lsGoOn (s : State) (w : LSWord) (r : Retire) : State :=
  let s := (s.yPop (lsStrand w.k) w.srcs).tokIssue (lsStrand w.k) w.tok
  let z := s.ls w.k
  let s := s.setLS w.k { z with blocked := false, pc := bif r.next.isSome || w.ends then z.pc else z.pc + 8 }
  let moved := w.srcs.contains 12 || w.tok.popP || w.tok.popN
  bif w.data || !(s.ls w.k).pend.isEmpty then
    let s := s.setLS w.k { s.ls w.k with pend := (s.ls w.k).pend ++ [r] }
    bif moved then s.touch else s
  else s.lsRetire w.k r

/-- A word issues (R122, R126, R130): the causes of its levels and its marker come before any change, and before it waits for its tokens
and entries (R66; log 67, DEDUCED). -/
def State.lsIssue (s : State) (w : LSWord) : State :=
  let k := lsStrand w.k
  let s := s.setLS w.k { s.ls w.k with waits := false }
  bif !s.lsOrdered w.k then s.hold k
  else
    let x := s.ls w.k
    match w.own x.loops with
    | none => s.raise k 0x01 (lsWordOf w.i) x.pc
    | some ls =>
      bif decide (ls.length < w.marker) then s.raise k 0x01 (lsWordOf w.i) x.pc
      else bif !s.lsReady w.k w.tok w.srcs then s.hold k
      else
        match w.act s with
        | .holds => (s.hold k).setLS w.k { (s.hold k).ls w.k with waits := true }
        | .waits s => (s.hold k).setLS w.k { (s.hold k).ls w.k with waits := true }
        | .cause c t => s.raise k c t x.pc
        | .faulted s => s
        | .go s y => s.lsGoOn w (w.keeps x.pc ls y)

/-- A word that writes one y register. -/
def State.lsY (s : State) (k : LS) (i : Instr) (tok : Tokens) (mk : BitVec 2) (srcs : List YReg) (yd : YReg) (v : Word32) : Out :=
  .next (s.lsIssue { k := k, i := i, tok := tok, marker := mk.toNat, srcs := srcs, act := fun s => .go s (some (yd, v)) })

/-- yadd of L or S (R125). -/
def execYadd (k : LS) (tok : Tokens) (mk : BitVec 2) (yd ya yb : YReg) (s : State) : Out :=
  s.lsY k (.yadd k tok mk yd ya yb) tok mk [ya, yb] yd (s.yRead (lsStrand k) ya + s.yRead (lsStrand k) yb)
/-- yaddi of L or S (R125). -/
def execYaddi (k : LS) (tok : Tokens) (mk : BitVec 2) (yd ya : YReg) (imm : BitVec 32) (s : State) : Out :=
  s.lsY k (.yaddi k tok mk yd ya imm) tok mk [ya] yd (s.yRead (lsStrand k) ya + imm)
/-- ymov of L or S (R125). -/
def execYmov (k : LS) (tok : Tokens) (mk : BitVec 2) (yd ya : YReg) (s : State) : Out :=
  s.lsY k (.ymov k tok mk yd ya) tok mk [ya] yd (s.yRead (lsStrand k) ya)
/-- yrd of L or S (R125). -/
def execYrd (k : LS) (tok : Tokens) (mk : BitVec 2) (yd : YReg) (sel : BitVec 32) (lid : BitVec 8) (s : State) : Out :=
  s.lsY k (.yrd k tok mk yd sel lid) tok mk [] yd (s.special (lsStrand k) sel.toNat lid)
/-- lbeg of L or S (R128, R129). -/
def execLbeg (k : LS) (tok : Tokens) (lid : BitVec 8) (ya : YReg) (imm : BitVec 32) (s : State) : Out :=
  let count := loopCount (s.yRead (lsStrand k) ya) imm
  let start := (s.ls k).pc + 8
  .next (s.lsIssue { k := k, i := .lbeg k tok lid ya imm, tok := tok, marker := 0, srcs := [ya], act := fun s => .go s none,
                     loops := some fun ls => loopPush ls lid count start })
/-- lend of L or S: one level, which must be the innermost (R130). -/
def execLend (k : LS) (tok : Tokens) (lid : BitVec 8) (s : State) : Out :=
  .next (s.lsIssue { k := k, i := .lend k tok lid, tok := tok, marker := 1, srcs := [], act := fun s => .go s none,
                     loops := some fun ls => match ls with | l :: _ => bif l.id == lid then some ls else none | [] => none })
/-- lbr of L or S (R131). -/
def execLbr (k : LS) (tok : Tokens) (mk : BitVec 2) (lid : BitVec 8) (ya : YReg) (s : State) : Out :=
  let cond := s.yRead (lsStrand k) ya != 0
  .next (s.lsIssue { k := k, i := .lbr k tok mk lid ya, tok := tok, marker := mk.toNat, srcs := [ya], act := fun s => .go s none,
                     loops := some fun ls => bif (loopFind ls lid).isSome then some (bif cond then loopBreak ls lid else ls) else none })
/-- end of L or S (R22, R133). -/
def execLsEnd (k : LS) (tok : Tokens) (mk : BitVec 2) (s : State) : Out :=
  .next (s.lsIssue { k := k, i := .lsEnd k tok mk, tok := tok, marker := mk.toNat, srcs := [], ends := true, act := fun s => .go s none })
/-- A hint word of L or S: its tokens and its marker act (R65). -/
def execLsHint (k : LS) (tok : Tokens) (mk : BitVec 2) (payload : BitVec 52) (s : State) : Out :=
  .next (s.lsIssue { k := k, i := .lsHint k tok mk payload, tok := tok, marker := mk.toNat, srcs := [], act := fun s => .go s none })

/-- The oldest data word of L or S in flight retires (R122). -/
def execDataWordRetire (k : LS) (s : State) : Out := .next (s.lsDataDone k)

/-! ### Pool operands -/

/-- The first offset of a register. -/
def State.vrOff (s : State) (vr : BitVec 5) : Nat := vr.toNat * s.vcap
/-- The TVAL of a length beyond a register's capacity (R139, R145). -/
def State.vrPast (s : State) (vr : BitVec 5) : Word64 := BitVec.ofNat 64 ((vr.toNat + 1) * s.vcap)
/-- The cause of a pool range of a word: a scratchpad range, or a register's first n bytes. -/
def State.poolCause (s : State) (vr : BitVec 5) (off n : Nat) : Option Word64 :=
  if vr = 31 then (s.scratchBad off n).map (BitVec.ofNat 64)
  else if s.vcap < n then some (s.vrPast vr)
  else none
/-- Where a word's pool range starts (log 50, DESIGN CHOICE). -/
def State.poolAt (s : State) (vr : BitVec 5) (off : Nat) : Nat := if vr = 31 then off else s.vrOff vr
/-- A double-bit error that a read of the pool finds (R151). -/
def State.poolErr (s : State) (off n : Nat) : Option Word64 := (s.poolBad off n).map poolTval

/-- A stream that a word may not name: unbound, of the other direction, or of another format (R139, R145). -/
def Desc.misused (d : Desc) (out : Bool) : Bool := !d.active || d.out != out

/-- What a word answers that a cause of its own or of its elements' addresses stops: the lowest of them (R39). -/
def State.stops (s : State) (k : Strand) (r : SReg) (own : Option (BitVec 8 × Word64)) (fails : List (XFail × Nat × Bool × Word64)) : LSAct :=
  let fault := fun (x : XFail × Nat × Bool × Word64) => LSAct.faulted (s.streamFault k r x.1 x.2.1 x.2.2.1 x.2.2.2 (s.pcOf k))
  match lowestFail fails, own with
  | some x, some (c, t) => bif decide (x.1.code < c.toNat) then fault x else .cause c t
  | some x, none => fault x
  | none, some (c, t) => .cause c t
  | none, none => .holds

/-! ### L's data words (R138 to R141) -/

/-- vld (R139). Of the causes of one word, the lowest number is taken (R39); of two of one number the TVAL is the register's before the pool range's, and
that of the lowest element (log 36, DEDUCED). An unused ya field that names y12 pops all the same (log 30, DEDUCED). -/
def execVld (tok : Tokens) (mk : BitVec 2) (vr : BitVec 5) (r : SReg) (ya : YReg) (fmt : BitVec 4) (toPool : Bool) (len : BitVec 11)
    (off : BitVec 21) (s : State) : Out :=
  let i := Instr.vld tok mk vr r ya fmt toPool len off
  let act : State → LSAct := fun s =>
    let d := s.desc r
    let at_ := off.toNat + (s.yRead .l ya).toNat
    let b := d.blockSize
    let n := if len = 0 then b else len.toNat * 64
    let nb := ceilDiv n b
    bif d.misused false || d.fmt != fmt.toNat then .cause 0x01 (lsWordOf i)
    else
      let past := (if vr = 31 then none else s.poolCause vr 0 n).orElse fun _ => if toPool then (s.scratchBad at_ n).map (BitVec.ofNat 64) else none
      let stopped := fun (c : BitVec 8) (t : Word64) =>
        let ps := d.here nb d.at_
        let s := s.fillFor d (d.carried ps)
        s.stops .l r (some (c, t)) (s.blockFails d ps d.ahead)
      match past, d.positions nb d.at_ with
      | some t, _ => stopped 0x0c t
      | none, none => stopped 0x0d (r.setWidth 64)
      | none, some ps =>
          let s := s.askBlocks r nb
          let d := s.desc r
          bif !s.blocksHere r nb then .waits s
          else
            let es := d.carried ps
            let s := s.fillFor d es
            match s.readBlocks d ps d.ahead [] with
            | .waits => .holds
            | .fail .. => s.stops .l r none (s.blockFails d ps d.ahead)
            | .ok bs =>
              let bytes := (bs.flatMap d.blockBytes).take n
              let s := (s.fetchCounts d (d.missing nb)).setDesc r (d.popped nb es.length)
              let s := if vr = 31 then s else s.poolWrite (s.vrOff vr) bytes
              let s := bif toPool then (s.poolWrite at_ bytes).fallCount at_ n else s
              .go (s.count 0x0a nb) none
  .next (s.lsIssue { k := .l, i := i, tok := tok, marker := mk.toNat, srcs := [ya], data := true, act := act })

/-- pld (R139, R205). Of two causes 0x0c the TVAL is the scratchpad offset's (log 36, DEDUCED). -/
def execPld (tok : Tokens) (mk : BitVec 2) (vr : BitVec 5) (ya : YReg) (fmt : BitVec 4) (len : BitVec 11) (off : BitVec 21) (s : State) : Out :=
  let i := Instr.pld tok mk vr ya fmt len off
  let act : State → LSAct := fun s =>
    let at_ := off.toNat + (s.yRead .l ya).toNat
    let n := if len = 0 then s.vcap else len.toNat * 64
    bif fmt != s.core.v.shape.fmt then .cause 0x01 (lsWordOf i)
    else
      match s.scratchBad at_ n, s.poolCause vr 0 n, s.poolErr at_ n with
      | some o, _, _ => .cause 0x0c (BitVec.ofNat 64 o)
      | none, some t, _ => .cause 0x0c t
      | none, none, some t => .cause 0x13 t
      | none, none, none => .go ((s.poolWrite (s.vrOff vr) (s.poolBytes at_ n)).fallCount at_ n) none
  .next (s.lsIssue { k := .l, i := i, tok := tok, marker := mk.toNat, srcs := [ya], data := true, act := act })

/-- The rows of a wload (R138). -/
def wloadRows (rows : BitVec 11) : Nat := if rows = 0 then 128 else rows.toNat

/-- The format and the block a part's stream must have (R140, R227). -/
def wloadFits (d : Desc) (shadow : Plane) (part : Nat) (fmt : Nat) : Bool :=
  d.fmt == fmt && d.br == 1 &&
    match part with
    | 0 => d.bc == 128 && fmt == shadow.wfmt.toNat
    | 1 => d.bc == 12 && fmt == 0
    | 2 => d.bc == 128 && fmt == 1
    | _ => d.bc == 128 && fmt == 3

/-- The KW that a part-0 wload asks for (R228). -/
def Desc.kwOf (d : Desc) : Nat := bif d.isPlane then d.planes else 8

/-- One row written into the shadow plane from the elements of its block (R227). -/
def Plane.row (p : Plane) (part row : Nat) (vs : List Word32) : Plane :=
  match part with
  | 0 => { p with wrote := true, w := (List.range 128).foldl (fun w j => kset w (128 * row + j) ((vs.getD j 0).extractLsb' 0 16)) p.w }
  | 1 =>
    let bytes := vs.flatMap fun v => leBytes 4 v.toNat
    { p with wrote := true, idx := (List.range 48).foldl (fun w j => kset w (48 * row + j) (bytes.getD j 0)) p.idx }
  | 2 => { p with scale := (List.range 128).foldl (fun w j => kset w (128 * row + j) ((vs.getD j 0).extractLsb' 0 16)) p.scale }
  | _ => { p with csum := (List.range 128).foldl (fun w j => kset w (128 * row + j) (vs.getD j 0)) p.csum }

/-- An mmac in flight still has beats to run on the plane that is now the shadow plane (R234). -/
def State.shadowBusy (s : State) : Bool :=
  s.core.v.flight.any fun f => f.old && f.grab.isNone && match f.op with | .m (.mmac ..) | .m (.mmacs ..) => true | _ => false

/-- wload (R140, R227, R228, R234). -/
def execWload (tok : Tokens) (mk : BitVec 2) (r : SReg) (ya : YReg) (fmt : BitVec 4) (part : BitVec 2) (rows : BitVec 11) (row : BitVec 7)
    (s : State) : Out :=
  let i := Instr.wload tok mk r ya fmt part rows row
  let act : State → LSAct := fun s =>
    let d := s.desc r
    let p := s.core.arr.shadow
    let n := wloadRows rows
    let r0 := row.toNat + (s.yRead .l ya).toNat
    let kwBad := part == 0 && p.kwSet && p.kw.toNat != d.kwOf
    bif d.misused false || decide ((if part.toNat < 2 then 128 else 4) < r0 + n) || !wloadFits d p part.toNat fmt.toNat || kwBad then
      .cause 0x01 (lsWordOf i)
    else
      match d.positions n d.at_ with
      | none =>
        let ps := d.here n d.at_
        let s := s.fillFor d (d.carried ps)
        s.stops .l r (some (0x0d, r.setWidth 64)) (s.blockFails d ps d.ahead)
      | some ps =>
        let s := s.askBlocks r n
        let d := s.desc r
        bif !s.blocksHere r n || s.shadowBusy then .waits s
        else
          let es := d.carried ps
          let s := s.fillFor d es
          match s.readBlocks d ps d.ahead [] with
          | .waits => .holds
          | .fail .. => s.stops .l r none (s.blockFails d ps d.ahead)
          | .ok bs =>
            let p := bif part == 0 then { p with kw := BitVec.ofNat 4 d.kwOf, kwSet := true } else p
            let p := (List.range n).foldl (fun p j => p.row part.toNat (r0 + j) ((bs.getD j (0, [], [])).2.1)) p
            let first := part == 0 && !s.core.arr.shadow.kwSet
            let s := (s.fetchCounts d (d.missing n)).setDesc r (d.popped n es.length)
            let s := { s with core := { s.core with arr := { s.core.arr with shadow := p } } }
            let s := bif first then s.setTen { s.core.ten with kw := vset s.core.ten.kw r.toNat (some d.kwOf) } else s
            let s := bif first && (match s.core.ten.held with | some h => h.stationary r | none => false) then
                s.setTen { s.core.ten with committed := true } else s
            .go (s.count 0x0a n) none
  .next (s.lsIssue { k := .l, i := i, tok := tok, marker := mk.toNat, srcs := [ya], data := true, wload := true, act := act })

/-! ### S's data words (R142 to R145) -/

/-- Source element e of a push, in a pool range's bytes: plane images for bpi and bpn, reconstructed of all 8 planes, since no field gives R167 a number
of them (R143, R167; log 36, DEDUCED). Of a length that ends within an image, the planes that are not there are zero: an odd multiple of 64 bytes, or one block of a stream whose BR·BC is no multiple of 128
(R142; log 36, DEDUCED). -/
def srcElem (fmt : Nat) (b : List Byte) (e : Nat) : Nat :=
  if fmt = 7 ∨ fmt = 8 then planeElem ((b.drop (e / 128 * 128)).take 128) (e % 128) 8
  else leAt b (e * fmtSize fmt) (fmtSize fmt)

/-- The elements of a word's source: those of one block, or as many as its length holds (R142). -/
def srcCount (d : Desc) (fmt : Nat) (len : BitVec 11) : Nat := if len = 0 then d.br * d.bc else len.toNat * 64 / fmtSize fmt
/-- The bytes of a word's source. -/
def srcBytes (d : Desc) (fmt : Nat) (len : BitVec 11) : Nat := if len = 0 then d.br * d.bc * fmtSize fmt else len.toNat * 64

/-- The elements of a push of n source elements that the pattern has. -/
def Desc.pushHere (d : Desc) (n : Nat) : List Nat := (List.range (Nat.min n (d.len - d.at_))).map fun i => d.at_ + i
/-- What vst and vred share (R143 to R145): their checks, and then `f` on the elements pushed and the source's bytes. Of the causes of one word the lowest
number is taken (R39); of its elements' the first of one number (log 36, DEDUCED). An unused ya field that names y12 pops all the same (log 30,
DEDUCED). -/
def State.pushWord (s : State) (i : Instr) (vr : BitVec 5) (r : SReg) (at_ : Nat) (fmt : Nat) (len : BitVec 11) (need : Need) (bad : Bool)
    (more : State → Desc → List Nat → List (XFail × Nat × Bool × Word64)) (f : State → List (Nat × Nat) → List Byte → LSAct) : LSAct :=
  let d := s.desc r
  let n := srcBytes d fmt len
  bif d.misused true || bad || (vr != 31 && fmt != s.core.v.shape.fmt.toNat) then .cause 0x01 (lsWordOf i)
  else
    let stopped := fun (s : State) (own : Option (BitVec 8 × Word64)) =>
      let es := d.pushHere (srcCount d fmt len)
      let s := s.fillFor d es
      s.stops .s r own (s.elemFails d d.planes need es ++ more s d es)
    match s.poolCause vr at_ n, d.pushElems (srcCount d fmt len), s.poolErr (s.poolAt vr at_) n with
    | some t, _, _ => stopped s (some (0x0c, t))
    | none, none, _ => stopped s (some (0x0d, r.setWidth 64))
    | none, some _, some t => stopped s (some (0x13, t))
    | none, some es, none =>
      let s := s.fillFor d (es.map (·.1))
      match s.pushCheck d need (es.map (·.1)), more s d (es.map (·.1)) with
      | (.waits, _), _ => .holds
      | (.ok _, _), [] => f (s.fallCount (s.poolAt vr at_) (bif vr == 31 then n else 0)) es (s.poolBytes (s.poolAt vr at_) n)
      | _, _ => stopped s none

/-- vst (R143). -/
def execVst (tok : Tokens) (mk : BitVec 2) (vr : BitVec 5) (r : SReg) (ya : YReg) (fmt : BitVec 4) (rm : BitVec 2) (len : BitVec 11)
    (off : BitVec 21) (s : State) : Out :=
  let i := Instr.vst tok mk vr r ya fmt rm len off
  let act : State → LSAct := fun s =>
    s.pushWord i vr r (off.toNat + (s.yRead .s ya).toNat) fmt.toNat len .wr false (fun _ _ _ => []) fun s es b =>
      let d := s.desc r
      let conv := fun (e : Nat) => convert fmt.toNat (srcElem fmt.toNat b e) d.fmt (Rm.of rm)
      let ev := es.flatMap fun x => (conv x.2).ev
      .go ((s.pushAll r es fun e => (conv e).bits).fpCount ev) none
  .next (s.lsIssue { k := .s, i := i, tok := tok, marker := mk.toNat, srcs := [ya], data := true, act := act })

/-- pst (R143, R205). Of two causes 0x0c the TVAL is the scratchpad offset's (log 36, DEDUCED). -/
def execPst (tok : Tokens) (mk : BitVec 2) (vr : BitVec 5) (ya : YReg) (len : BitVec 11) (off : BitVec 21) (s : State) : Out :=
  let i := Instr.pst tok mk vr ya len off
  let act : State → LSAct := fun s =>
    let at_ := off.toNat + (s.yRead .s ya).toNat
    let n := if len = 0 then s.vcap else len.toNat * 64
    match s.scratchBad at_ n, s.poolCause vr 0 n, s.poolErr (s.vrOff vr) n with
    | some o, _, _ => .cause 0x0c (BitVec.ofNat 64 o)
    | none, some t, _ => .cause 0x0c t
    | none, none, some t => .cause 0x13 t
    | none, none, none => .go ((s.poolWrite at_ (s.poolBytes (s.vrOff vr) n)).fallCount at_ n) none
  .next (s.lsIssue { k := .s, i := i, tok := tok, marker := mk.toNat, srcs := [ya], data := true, act := act })

/-- A destination of a posted reduction that is not HBM4E raises cause 0x0b (R413). -/
def State.redBad (s : State) (d : Desc) (es : List Nat) : List (XFail × Nat × Bool × Word64) :=
  (es.filter fun e => s.inWindow (d.elemVa e) && localRegion (bits ((s.elemPas d e).headD 0) 42 0) != .hbm).map fun e => (.prot, e, false, d.elemVa e)

/-- vred (R144, R415). -/
def State.vred (s : State) (i : Instr) (op : RedOp) (tok : Tokens) (mk : BitVec 2) (vr : BitVec 5) (r : SReg) (ya : YReg) (fmt : BitVec 4)
    (len : BitVec 11) (off : BitVec 21) : Out :=
  let act : State → LSAct := fun s =>
    let f := (s.desc r).fmt
    s.pushWord i vr r (off.toNat + (s.yRead .s ya).toNat) fmt.toNat len .rdwr (f != 0 && f != 1 && f != 3) State.redBad fun s es b =>
      let d := s.desc r
      let conv := fun (e : Nat) => convert fmt.toNat (srcElem fmt.toNat b e) d.fmt .rne
      bif es.any fun x => s.inWindow (d.elemVa x.1) && s.vcStopped 2 ((s.elemPas d x.1).headD 0) then .holds else
      let s := es.foldl (fun s x => ((s.redElem d op x.1 (conv x.2).bits)).fpCount (conv x.2).ev) s
      let s := s.setDesc r { s.desc r with pos := BitVec.ofNat 64 ((d.at_ + es.length) % 2 ^ 48) }
      .go (s.count 0x0a (ceilDiv es.length (d.br * d.bc))) none
  .next (s.lsIssue { k := .s, i := i, tok := tok, marker := mk.toNat, srcs := [ya], data := true, act := act })

/-- vred.add (R144). -/
def execVredAdd (tok : Tokens) (mk : BitVec 2) (vr : BitVec 5) (r : SReg) (ya : YReg) (fmt : BitVec 4) (len : BitVec 11) (off : BitVec 21)
    (s : State) : Out := s.vred (.vredAdd tok mk vr r ya fmt len off) .add tok mk vr r ya fmt len off
/-- vred.min (R144). -/
def execVredMin (tok : Tokens) (mk : BitVec 2) (vr : BitVec 5) (r : SReg) (ya : YReg) (fmt : BitVec 4) (len : BitVec 11) (off : BitVec 21)
    (s : State) : Out := s.vred (.vredMin tok mk vr r ya fmt len off) .min tok mk vr r ya fmt len off
/-- vred.max (R144). -/
def execVredMax (tok : Tokens) (mk : BitVec 2) (vr : BitVec 5) (r : SReg) (ya : YReg) (fmt : BitVec 4) (len : BitVec 11) (off : BitVec 21)
    (s : State) : Out := s.vred (.vredMax tok mk vr r ya fmt len off) .max tok mk vr r ya fmt len off

end Sys2Proof.Machine
end

