-- ==== Sys2Proof/Machine/SpecialFn.lean ====
section
/-! DEFINITION. The special functions (R239 to R242): exact results are bracketed in fixed point, with the precision raised until
both ends round alike; f32 results are free within what R240 promises (log 13, DESIGN CHOICE). -/

namespace Sys2Proof.Machine

/-! ### Fixed point: an integer v stands for v·2^-w -/

/-- Integer square root of a number below 4^n. -/
def isqrt : Nat → Nat → Nat
  | 0, _ => 0
  | n + 1, v =>
    let r := 2 * isqrt n (v / 4)
    if (r + 1) * (r + 1) ≤ v then r + 1 else r

/-- A product. -/
def fmul (w : Nat) (a b : Int) : Int := a * b / 2 ^ w

/-- Σ of the series whose terms shrink by a factor r/(k·(k+s)) each, or r/k where s is 0, from term k on: e^r, and the
alternating series of sine and cosine. -/
def taylor (w : Nat) (r : Int) (s : Nat) : Nat → Nat → Int → Int → Int
  | 0, _, _, sum => sum
  | n + 1, k, term, sum =>
    let t := fmul w term r / ((if s = 0 then k else k * (k + 1)) : Nat)
    taylor w r s n (k + (if s = 0 then 1 else 2)) t (sum + t)

/-- e^r for |r| < 1. -/
def expFix (w : Nat) (r : Int) : Int := taylor w r 0 (w / 2 + 40) 1 (2 ^ w) (2 ^ w)

/-- Σ z^(2k+1)/(2k+1), from the power p of z at an odd k. -/
def atanhSer (w : Nat) (z2 : Int) : Nat → Nat → Int → Int → Int
  | 0, _, _, sum => sum
  | n + 1, k, p, sum => atanhSer w z2 n (k + 2) (fmul w p z2) (sum + p / (k : Int))
/-- 2·atanh z for 0 ≤ z ≤ 1/3. -/
def atanh2 (w : Nat) (z : Int) : Int := 2 * atanhSer w (fmul w z z) (w / 3 + 10) 1 z 0
/-- ln 2. -/
def ln2 (w : Nat) : Int := atanh2 w (2 ^ w / 3)

/-- Σ of the alternating series of arctan(1/n). -/
def atanSer (n2 : Int) : Nat → Nat → Bool → Int → Int → Int
  | 0, _, _, _, sum => sum
  | m + 1, k, neg, p, sum => atanSer n2 m (k + 2) (!neg) (p / n2) (bif neg then sum - p / (k : Int) else sum + p / (k : Int))
/-- π. -/
def piFix (w : Nat) : Int :=
  16 * atanSer 25 (w / 4 + 10) 1 false (2 ^ w / 5) 0 - 4 * atanSer 57121 (w / 4 + 10) 1 false (2 ^ w / 239) 0

/-- Σ (−1)^n x^(2n+1)/(n!(2n+1)), from term n on. -/
def erfSer (w : Nat) (x2 : Int) : Nat → Nat → Int → Int → Int
  | 0, _, _, sum => sum
  | m + 1, n, t, sum => erfSer w x2 m (n + 1) (-(fmul w t x2) / ((n + 1 : Nat) : Int)) (sum + t / ((2 * n + 1 : Nat) : Int))

/-- A dyadic number in fixed point, cut. -/
def toFix (w : Nat) (m : Nat) (e : Int) : Int :=
  if 0 ≤ e + w then (m : Int) * 2 ^ (e + w).toNat else (m / 2 ^ (-(e + w)).toNat : Nat)

/-! ### Brackets -/

/-- The exact result lies between lo·2^q and hi·2^q; it is that value when they are equal. -/
structure Bracket where
  lo : Int
  hi : Int
  q  : Int
deriving DecidableEq, Repr

/-- The bracket of the negated value. -/
def Bracket.neg (b : Bracket) (n : Bool) : Bracket := bif n then ⟨-b.hi, -b.lo, b.q⟩ else b
/-- A value with its error bound. -/
def around (v : Int) (err : Nat) (q : Int) : Bracket := ⟨v - err, v + err, q⟩
/-- A positive result below every format's least quantum. -/
def tinyBracket : Bracket := ⟨1, 2, -2000⟩
/-- A result beyond every format's range. -/
def hugeBracket : Bracket := ⟨1, 2, 2000⟩
/-- A result less than 1 by less than any format shows. -/
def nearOne : Bracket := ⟨2 ^ 300 - 2, 2 ^ 300 - 1, -300⟩

/-- e^x as (v, k): v·2^(k−w). -/
def expParts (w : Nat) (x : Int) : Int × Int :=
  let l := ln2 w
  let k := x / l
  (expFix w (x - k * l), k)

/-- The error bound of the fixed-point series, in units of the last place. -/
def fixErr : Nat := 2 ^ 20
/-- The error bound where an argument was reduced by multiples of 2π or a series cancels. -/
def redErr : Nat := 2 ^ 150

/-- The piece of R240 on which a function is monotone at an argument, and whether it increases there. -/
def sfPiece (op : ABOp) (neg : Bool) (m : Nat) (e : Int) : Int × Bool :=
  let w := 384
  let x := toFix w m e
  let x := bif neg then -x else x
  let p := piFix w
  match op with
  | .vsin => let k := (x + p / 2) / p; (k, k % 2 == 0)
  | .vcos => let k := x / p; (k, k % 2 != 0)
  | .vrcp | .vrsqrt => (0, false)
  | _ => (0, true)

/-- The bracket of a special function at ±m·2^e, m not zero, with w bits (R239): the argument is one that R242 gives no special
value for (log 45, DEDUCED). -/
def sfBracket (op : ABOp) (neg : Bool) (m : Nat) (e : Int) (w : Nat) : Bracket :=
  let lg := (Nat.log2 m : Int)
  let pow2 := m == 2 ^ Nat.log2 m
  let ax := toFix w m e
  let x := bif neg then -ax else ax
  match op with
  | .vexp =>
    if 10 ≤ e + lg then (bif neg then tinyBracket else hugeBracket)
    else let r := expParts w x; around r.1 fixErr (r.2 - w)
  | .vexp2 =>
    if 11 ≤ e + lg then (bif neg then tinyBracket else hugeBracket)
    else
      let k := x / 2 ^ w
      let f := x - k * 2 ^ w
      if f = 0 ∧ -(w : Int) ≤ e then ⟨1, 1, k⟩ else around (expFix w (fmul w f (ln2 w))) fixErr (k - w)
  | .vlog | .vlog2 =>
    let mm := (m : Int) * 2 ^ (w - Nat.log2 m)
    let ex := e + lg
    bif pow2 && (decide (op = .vlog2) || ex == 0) then ⟨ex, ex, 0⟩
    else
      let l := atanh2 w ((mm - 2 ^ w) * 2 ^ w / (mm + 2 ^ w)) + ex * ln2 w
      around (if op = .vlog then l else l * 2 ^ w / ln2 w) fixErr (-w)
  | .vrcp =>
    bif pow2 then (Bracket.mk 1 1 (-e - lg)).neg neg
    else
      let sh := w + Nat.log2 m
      let v : Int := 2 ^ sh / (m : Int)
      (Bracket.mk v (v + 1) (-(sh : Int) - e)).neg neg
  | .vsqrt =>
    let m' := if e % 2 = 0 then m else 2 * m
    let e' := if e % 2 = 0 then e else e - 1
    let r := isqrt (w + 20) (m' * 4 ^ w)
    ⟨r, if r * r = m' * 4 ^ w then r else r + 1, e' / 2 - w⟩
  | .vrsqrt =>
    let m' := if e % 2 = 0 then m else 2 * m
    let e' := if e % 2 = 0 then e else e - 1
    bif decide (m' = 4 ^ (Nat.log2 m' / 2)) then ⟨1, 1, -e' / 2 - (Nat.log2 m' / 2 : Nat)⟩
    else
      let r := isqrt (w + 40) (4 ^ (w + 30) / m')
      ⟨r, r + 2, -(w + 30 : Nat) - e' / 2⟩
  | .vtanh =>
    if 6 ≤ e + lg then nearOne.neg neg
    else
      let r := expParts w (2 * ax)
      let one := (2 : Int) ^ (w - r.2).toNat
      (around ((r.1 - one) * 2 ^ w / (r.1 + one)) (2 ^ 24) (-w)).neg neg
  | .vsig =>
    if 8 ≤ e + lg then (bif neg then tinyBracket else nearOne)
    else
      let r := expParts w x
      let a := r.1 * 2 ^ (max r.2 0).toNat
      let b := a + 2 ^ (w + (max (-r.2) 0).toNat)
      let sh := w + (max (-r.2) 0).toNat
      around (a * 2 ^ sh / b) (2 ^ 24) (-sh)
  | .vsin =>
    let r := x % (2 * piFix w)
    around (taylor w (-(fmul w r r)) 1 (w / 4 + 60) 2 r r) redErr (-w)
  | .vcos =>
    let r := x % (2 * piFix w)
    around (taylor w (-(fmul w r r)) 1 (w / 4 + 60) 1 (2 ^ w) (2 ^ w)) redErr (-w)
  | .verf =>
    if 3 ≤ e + lg then nearOne.neg neg
    else
      let s := erfSer w (fmul w ax ax) (w + 300) 0 ax 0
      let rp : Int := isqrt (w + 4) ((piFix w * 2 ^ w).toNat)
      (around (2 * s * 2 ^ w / rp) redErr (-w)).neg neg
  | _ => ⟨0, 0, 0⟩

/-- The precisions tried, in bits. -/
def sfWidths : List Nat := [320, 512, 768, 1280, 2304]

/-- The first bracket whose ends a rounding cannot tell apart, or the last. -/
def sfRefine {α : Type} [BEq α] (f : FVal → α) (g : Nat → Bracket) : List Nat → Bracket → Bracket
  | [], b => b
  | w :: ws, _ =>
    let b := g w
    bif f (ofScaled b.lo b.q false) == f (ofScaled b.hi b.q false) then b else sfRefine f g ws b

/-- The lower end of a bracket. -/
def Bracket.low (b : Bracket) : FVal := ofScaled b.lo b.q false
/-- The upper end of a bracket. -/
def Bracket.high (b : Bracket) : FVal := ofScaled b.hi b.q false

/-- A special function rounded once into a format: the same for both ends of the bracket (R240). -/
def sfRounded (op : ABOp) (f : FFmt) (rm : Rm) (neg : Bool) (m : Nat) (e : Int) : FRes :=
  let key := fun (v : FVal) => let r := f.round rm v; (r.bits, r.ev)
  let b := sfRefine key (sfBracket op neg m e) sfWidths ⟨0, 0, 0⟩
  f.round rm b.low

/-- The place of an encoding of f32 in the order of values. -/
def f32Order (b : Nat) : Int := if b < 2 ^ 31 then (b : Int) else -((b - 2 ^ 31 : Nat) : Int) - 1
/-- The encoding at a place. -/
def f32At (k : Int) : Nat := if 0 ≤ k then k.toNat else 2 ^ 31 + (-k - 1).toNat

/-- The number of an operation, as the free values know it. -/
def sfNumber (op : ABOp) : Nat :=
  match op with
  | .vexp => 0 | .vexp2 => 1 | .vlog => 2 | .vlog2 => 3 | .vrcp => 4 | .vrsqrt => 5 | .vsqrt => 6 | .vtanh => 7
  | .vsig => 8 | .vsin => 9 | .vcos => 10 | _ => 11

/-- The f32 counts of a result given as an encoding, from its magnitude and whether it is exact (R178). -/
def f32Events (b : Nat) (exact : Bool) : List Nat := bif !exact && decide (b % 2 ^ 31 < 2 ^ 23) then [3] else []

/-- The faithful f32 result: the exact value when it is one, else one of the two that bracket it (R240). Beyond the largest
finite value it rounds by RNE (R242). -/
def sfFaithful (op : ABOp) (neg : Bool) (m : Nat) (e : Int) (x : Nat) : FRes :=
  let key := fun (v : FVal) => ((f32.round .rne v).bits, (f32.round .rdn v).bits, (f32.round .rup v).bits)
  let b := sfRefine key (sfBracket op neg m e) sfWidths ⟨0, 0, 0⟩
  let lo := (f32.round .rdn b.low).bits
  let hi := (f32.round .rup b.high).bits
  bif lo % 2 ^ 31 == f32.inf || hi % 2 ^ 31 == f32.inf then f32.round .rne b.low
  else bif lo == hi then ⟨lo, []⟩
  else
    let p := sfPiece op neg m e
    let cut := Config.sfCut (sfNumber op) lo p.1
    let up := bif p.2 then decide (cut ≤ f32Order x) else decide (f32Order x ≤ cut)
    let r := bif up then hi else lo
    ⟨r, f32Events r false⟩

/-- The f32 result under a share below 23 bits, of b accuracy bits: any value within 2^(E−b) of the exact one (R240). -/
def sfLooseRes (op : ABOp) (neg : Bool) (m : Nat) (e : Int) (x it b : Nat) : FRes :=
  let k := sfBracket op neg m e 512
  let r := f32.round .rne k.low
  bif r.bits % 2 ^ 31 == f32.inf then r
  else
    let mag := Nat.min k.lo.natAbs k.hi.natAbs
    let ex := max ((Nat.log2 mag : Int) + k.q) (-126)
    let d := FVal.num false 1 (ex - b)
    let lo := (f32.round .rup (k.high.add .rne d.neg)).bits
    let hi := (f32.round .rdn (k.low.add .rne d)).bits
    let cap := fun (v : Nat) => if v % 2 ^ 31 = f32.inf then v - 1 else v
    let lo := f32Order (cap lo)
    let hi := f32Order (cap hi)
    let n := (hi - lo).toNat + 1
    let v := f32At (lo + (Config.sfLoose (sfNumber op) it x % n : Nat))
    ⟨v, f32Events v (k.lo == k.hi && (f32.dec v).cmp k.low == .eq)⟩

/-- The special values of R242: the result at NaN, an infinity or a zero, or at an argument the function has no value for. -/
def sfSpecial (op : ABOp) (f : FFmt) (v : FVal) : Option FRes :=
  let one := f.round .rne (.num false 1 0)
  let half := f.round .rne (.num false 1 (-1))
  let zero := fun (n : Bool) => (⟨bif n then f.sign else 0, []⟩ : FRes)
  let inf := fun (n : Bool) (ev : List Nat) => (⟨bif n then f.sign + f.inf else f.inf, ev⟩ : FRes)
  let nan : FRes := ⟨f.nan, [4 * f.idx]⟩
  let signed1 := fun (n : Bool) => (⟨bif n then f.sign + one.bits else one.bits, []⟩ : FRes)
  let infEv := [4 * f.idx + 1]
  match v with
  | .nan => some ⟨f.nan, []⟩
  | .inf n =>
    some (match op with
      | .vexp | .vexp2 => bif n then zero false else inf false []
      | .vlog | .vlog2 | .vsqrt => bif n then nan else inf false []
      | .vrcp => zero n
      | .vrsqrt => bif n then nan else zero false
      | .vtanh | .verf => signed1 n
      | .vsig => bif n then zero false else one
      | _ => nan)
  | .num n m e =>
    if m = 0 then
      some (match op with
        | .vexp | .vexp2 | .vcos => one
        | .vlog | .vlog2 => inf true infEv
        | .vrcp | .vrsqrt => inf n infEv
        | .vsig => half
        | _ => zero n)
    else
      match op with
      | .vlog | .vlog2 =>
        bif n then some nan
        else bif m == 2 ^ Nat.log2 m && e + Nat.log2 m == 0 then some (zero false)
        else none
      | .vrsqrt | .vsqrt => bif n then some nan else none
      | _ => none

/-- One element of a special function (R239 to R242). -/
def sfElem (op : ABOp) (f : FFmt) (rm : Rm) (it : Nat × Nat) (x : Nat) : FRes :=
  let v := f.dec x
  match sfSpecial op f v with
  | some r => r
  | none =>
    match v with
    | .num n m e =>
      bif f.w != 32 then sfRounded op f rm n m e
      else bif it.1 == 4 then sfFaithful op n m e x
      else sfLooseRes op n m e x it.1 it.2
    | _ => ⟨f.nan, []⟩

end Sys2Proof.Machine
end

