-- ==== Sys2Proof/Machine/Operands.lean ====
section
/-! DEFINITION. The operands of V's slots (R58, R201 to R209, R211): which registers and streams an operation reads and writes, in
which formats; the checks at issue; the elements of a snapshot or a consumed block; and the timing quantities of R203 and R206. -/

namespace Sys2Proof.Machine

/-! ### Shape (R201, R202) -/

/-- ROWS. -/
def Shape.rows (x : Shape) : Nat := 2 ^ x.rlog.toNat
/-- COLS. -/
def Shape.cols (x : Shape) : Nat := 2 ^ x.clog.toNat
/-- Elements of a register. -/
def Shape.elems (x : Shape) : Nat := x.rows * x.cols
/-- CAP in bytes. -/
def Shape.capBytes (x : Shape) : Nat := x.cap.toNat * 1024
/-- FMT. -/
def Shape.f (x : Shape) : Nat := x.fmt.toNat

/-! ### Operand codes (R58) -/

/-- The stream of an operand code 24 to 31. -/
def codeStream (c : OpCode) : Option SReg := if 24 ≤ c.toNat then some (c.extractLsb' 0 3) else none

/-- The special functions. -/
def abIsSf (op : ABOp) : Bool :=
  match op with
  | .vexp | .vexp2 | .vlog | .vlog2 | .vrcp | .vrsqrt | .vsqrt | .vtanh | .vsig | .vsin | .vcos | .verf => true
  | _ => false

/-- The source operands of an A or B slot, each with the format in which it is read; `fmt` is VSHAPE's FMT (R209). -/
def abSources (x : ABSlot) (fmt : Nat) : List (OpCode × Nat) :=
  match x.op with
  | .vadd | .vsub | .vmul | .vmin | .vmax | .vand | .vor | .vxor | .vcmp | .vperm | .vscl => [(x.a, fmt), (x.b, fmt)]
  | .vfma | .vfms | .vclamp | .vsel => [(x.a, fmt), (x.b, fmt), (x.c, fmt)]
  | .vshl | .vshr | .vsra => bif x.mode == 0 then [(x.a, fmt), (x.b, fmt)] else [(x.a, fmt)]
  | .vcvt => [(x.a, bif x.b == 0 then x.c.toNat else fmt)]
  | .vabs | .vneg | .vnot | .vmov | .vbrow | .vbcol | .vtr | .vrsum | .vcsum | .vrmax | .vcmax | .vpack | .vunpk => [(x.a, fmt)]
  | .vexp | .vexp2 | .vlog | .vlog2 | .vrcp | .vrsqrt | .vsqrt | .vtanh | .vsig | .vsin | .vcos | .verf => [(x.a, fmt)]
  | .empty | .vimm | .vidx | .vshape | .hint => []

/-- The format in which a slot writes its destination. -/
def abDestFmt (x : ABSlot) (fmt : Nat) : Nat := bif decide (x.op = .vcvt) && x.b == 1 then x.c.toNat else fmt

/-- The widest element of the formats a slot reads or writes, in bytes (R206). -/
def abWidth (x : ABSlot) (fmt : Nat) : Nat :=
  (abSources x fmt).foldl (fun w s => Nat.max w (fmtSize s.2)) (fmtSize (abDestFmt x fmt))

/-- λ for elements of a width (R203), or of a special function (R239). -/
def abLambda (x : ABSlot) (fmt : Nat) : Nat :=
  bif abIsSf x.op then (if fmt = 0 then 64 else 128) else 512 / abWidth x fmt

/-- The depth of an operation's class (R206, R239). -/
def abDepth (x : ABSlot) (fmt : Nat) : Nat :=
  match x.op with
  | .vadd | .vsub | .vmul | .vscl | .vcvt | .vpack | .vunpk | .vperm | .vtr => 4
  | .vfma | .vfms => 6
  | .vrsum | .vcsum | .vrmax | .vcmax => 8
  | .vexp | .vexp2 | .vlog | .vlog2 | .vrcp | .vrsqrt | .vsqrt | .vtanh | .vsig | .vsin | .vcos | .verf => if fmt = 0 then 16 else 8
  | _ => 2

/-- An operation with a landing: neither the empty slot, nor a hint, nor vshape. -/
def abOperates (x : ABSlot) : Bool := match x.op with | .empty | .hint | .vshape => false | _ => true

/-! ### Checks at issue (R204, R209, R212) -/

/-- What the mode must be for the current format (R211, R212). -/
def abModeOk (x : ABSlot) (fmt : Nat) : Bool :=
  let isF := decide (fmt < 3)
  match x.op with
  | .vadd | .vsub | .vmul | .vfma | .vfms | .vrsum | .vcsum => isF || decide (x.mode.toNat ≤ 1)
  | .vmin | .vmax | .vclamp | .vabs | .vneg | .vrmax | .vcmax => !isF || x.mode == 0
  | .vcmp => (!isF || x.mode == 0) && (isF || x.c != 6)
  | _ => true

/-- The immediate index of vbrow and vbcol (R220). -/
def abIndex (x : ABSlot) : Nat :=
  (bif decide (x.op = .vbcol) then x.mode.toNat * 1024 else 0) + x.b.toNat * 32 + x.c.toNat

/-- The conditions of R212 and of the entries that depend on the shape alone; a slot that breaks one raises cause 0x01. -/
def abShapeOk (x : ABSlot) (sh : Shape) : Bool :=
  let fmt := sh.f
  let isF := decide (fmt < 3)
  abModeOk x fmt &&
    match x.op with
    | .vshape => decide (2 ^ (x.d.toNat + x.a.toNat) * fmtSize x.b.toNat ≤ sh.capBytes)
    | .vshl | .vshr | .vsra => !isF && (x.mode == 0 || decide (x.c.toNat < 8 * fmtSize fmt))
    | .vbrow => decide (abIndex x < sh.rows)
    | .vbcol => decide (abIndex x < sh.cols)
    | .vtr => sh.rlog == sh.clog
    | .vscl => isF
    | .vpack | .vunpk => (fmt == 5 || fmt == 6) && decide (sh.elems % 128 = 0)
    | .vcvt => decide (sh.elems * fmtSize x.c.toNat ≤ sh.capBytes) && decide (sh.elems * fmtSize fmt ≤ sh.capBytes)
    | .vexp | .vexp2 | .vlog | .vlog2 | .vrcp | .vrsqrt | .vsqrt | .vtanh | .vsig | .vsin | .vcos | .verf =>
        isF && (fmt != 0 || x.mode == 0)
    | _ => true

/-- A stream's LSYM names a used symbol (R156). -/
def State.lsymUsed (s : State) (d : Desc) : Bool := (vget s.core.csr.sym d.lsym Sym.unused).src != 0
/-- The binding of a stream's symbol. -/
def State.lbindOf (s : State) (d : Desc) : Nat := (vget s.core.csr.sym d.lsym Sym.unused).bind.toNat

/-- A source stream's format can be read as a format (R209). -/
def readsAs (fmt want : Nat) : Bool :=
  fmt == want || ((fmt == 7 || fmt == 8) && (want == 4 || want == 3 || want == 0 || want == 1))

/-- A source stream meets R209, R62 and R156. -/
def State.srcStreamOk (s : State) (d : Desc) (sh : Shape) (want : Nat) : Bool :=
  d.active && !d.out && d.br == sh.rows && d.bc == sh.cols && !d.scl && readsAs d.fmt want && s.lsymUsed d
/-- A destination stream meets R209 and R62. -/
def dstStreamOk (d : Desc) (rows cols fmt : Nat) : Bool :=
  d.active && d.out && d.fmt == fmt && !d.isPlane && d.br == rows && d.bc == cols

/-- The streams that an operation in flight still has to pop. -/
def Flight.popsLeft (f : Flight) : List SReg := f.await.map (·.1)
/-- The stream an operation in flight will push. -/
def Flight.pushes (f : Flight) : Option SReg :=
  match f.op with
  | .ab _ x => bif abOperates x then codeStream x.d else none
  | .m (.mdrain _ _ d _ _ _) => codeStream d
  | .m _ => none

/-- The pops, or pushes, of a stream that have issued and not yet taken place: a bundle pops a stream once, whatever number of its slots name it (R62,
R209). -/
def State.pendingOn (s : State) (r : SReg) : Nat :=
  let fs := s.core.v.flight
  ((fs.filter fun f => f.popsLeft.contains r).map (·.seq)).eraseDups.length + (fs.filter fun f => f.pushes == some r).length

/-- One more block lies within the pattern after those already claimed (R209). -/
def State.blockLeft (s : State) (r : SReg) : Bool :=
  let d := s.desc r
  (d.positions (s.pendingOn r + 1) d.at_).isSome

/-! ### Elements -/

/-- An element of a stream block as an operation reads it: a bit-plane element is its reconstruction, converted exactly (R170, R209). -/
def readAs (fmt k want v : Nat) : Nat :=
  bif (fmt == 7 || fmt == 8) && fmt != want then (convInt (reconstruct (intVal fmt v) k) want .rne).bits else v

/-- The bits of element `e` of an operand: of a register's snapshot, or of the block its stream delivered. -/
def Flight.elem (f : Flight) (c : OpCode) (fmt e : Nat) : Nat :=
  match codeStream c with
  | none =>
    match f.srcs.find? fun x => x.1 == c with
    | some x => leAt x.2 (e * fmtSize fmt) (fmtSize fmt)
    | none => 0
  | some r =>
    match f.blocks.find? fun x => x.1 == r with
    | some x => (x.2.2.1.getD e 0).toNat
    | none => 0

end Sys2Proof.Machine
end

