-- ==== Sys2Proof/Machine/Matrix.lean ====
section
/-! DEFINITION. The matrix array (R172 to R177, R225 to R238): its planes, what an mmac leaves in its bank, what an mdrain
delivers, and the checks of the M slot. -/

namespace Sys2Proof.Machine

/-! ### Planes (R225, R229, R230) -/

/-- The logical K extent of one pass. -/
def Plane.kp (p : Plane) : Nat := if p.sparse = 0 then 128 else if p.sparse = 1 then 256 else 512
/-- Physical rows kept for each group of 8 logical positions. -/
def Plane.kept (p : Plane) : Nat := if p.sparse = 1 then 4 else 2
/-- A sparsity index. -/
def Plane.index (p : Plane) (i j : Nat) : Nat :=
  let bit := 3 * j
  let at_ := fun (b : Nat) => (kget p.idx (48 * i + b) 0).toNat
  (at_ (bit / 8) + 256 * at_ (bit / 8 + 1)) / 2 ^ (bit % 8) % 8
/-- The physical rows that serve logical position q of column j (R229). -/
def Plane.rowsAt (p : Plane) (q j : Nat) : List Nat :=
  if p.sparse = 0 then [q]
  else ((List.range p.kept).map fun r => p.kept * (q / 8) + r).filter fun i => p.index i j == q % 8
/-- The stored bits of a weight. -/
def Plane.wBits (p : Plane) (i j : Nat) : Nat := (kget p.w (128 * i + j) 0).toNat
/-- A subnormal value is replaced by zero of its sign (R166). -/
def flush (f : FFmt) (b : Nat) : FVal :=
  match f.dec b with
  | .num n m e => if b % f.sign < 2 ^ (f.p - 1) then .num n 0 0 else .num n m e
  | v => v
/-- A logical weight of an integer plane (R170, R229). -/
def Plane.wInt (p : Plane) (q j : Nat) : Int :=
  ((p.rowsAt q j).map fun i =>
    let v := intVal p.wfmt.toNat (p.wBits i j)
    bif p.wfmt == 7 || p.wfmt == 8 then reconstruct v p.kw.toNat else v).sum
/-- The weights of a float plane at a logical position, one for each physical row that maps there (R229). -/
def Plane.wFloat (p : Plane) (f : FFmt) (q j : Nat) : List FVal := (p.rowsAt q j).map fun i => flush f (p.wBits i j)
/-- The beats of an activation row of ka planes (R230). -/
def Plane.rowBeats (p : Plane) (ka : Nat) : Nat :=
  bif p.float then (if p.sparse = 2 then 16 else 8) else (if p.sparse = 2 then 2 else 1) * ceilDiv ka 2

/-! ### Accumulators (R173) -/

/-- An entry of a bank. -/
def Acc.at_ (x : Acc) (m j : Nat) : BitVec 48 := kget x.e (128 * m + j) 0

/-- One accumulation step in the float view: RNE32(acc + t), with its counts (R174, R176, R178). -/
def accStep (acc : Nat) (t : Nat) : FRes := f32.sum .rne acc t

/-- The activations of one row, and the scales that go with it. -/
structure ActRow where
  /-- the activation at a logical position: q of R170, or a value of i8 or n8, or the bits of a float -/
  int   : Nat → Int
  bits  : Nat → Nat
  ka    : Nat
  /-- bf16 bits of the activation scale of block b; none for mmac -/
  scale : Option (Nat → Nat)

/-- One block of an integer pass on an entry (R174): the new entry and its counts. -/
def intPass (p : Plane) (fview : Bool) (a : ActRow) (b j : Nat) (acc : BitVec 48) : BitVec 48 × List Nat :=
  let d := ((List.range 128).map fun i => p.wInt (128 * b + i) j * a.int (128 * b + i)).sum
  let d := if a.ka < 8 then d * 2 ^ (8 - a.ka) + 2 ^ (7 - a.ka) * (kget p.csum (128 * b + j) 0).toInt else d
  bif !fview then (BitVec.ofInt 48 (sat (acc.toInt + d) (-(2 ^ 47)) (2 ^ 47 - 1)), [])
  else
    let s : FRes := match a.scale with
      | some sa =>
        let x := flush bf16 (kget p.scale (128 * b + j) 0x3f80).toNat
        let y := flush bf16 (sa b)
        f32.fin .rne (x.isNan || y.isNan) (x.mul y)
      | none => ⟨0x3f800000, []⟩
    let sv := f32.dec s.bits
    let t := f32.fin .rne sv.isNan ((FVal.ofInt d).mul sv)
    let r := accStep (acc.toNat % 2 ^ 32) t.bits
    (BitVec.ofNat 48 r.bits, s.ev ++ t.ev ++ r.ev)

/-- One block of a float pass on an entry: two chunks of 64 (R176, R177). -/
def floatPass (p : Plane) (f : FFmt) (a : ActRow) (b j : Nat) (acc : BitVec 48) : BitVec 48 × List Nat :=
  (List.range 2).foldl (fun (r : BitVec 48 × List Nat) c =>
    let terms := (List.range 64).flatMap fun i =>
      let q := 128 * b + 64 * c + i
      let x := flush f (a.bits q)
      match p.wFloat f q j with
      | [] => [(x.isNan, (FVal.num false 0 0).mul x)]
      | ws => [(x.isNan || ws.any (·.isNan), (exactSum ws).mul x)]
    let u := f32.fin .rne (terms.any (·.1)) (exactSum (terms.map (·.2)))
    let t := accStep (r.1.toNat % 2 ^ 32) u.bits
    (BitVec.ofNat 48 t.bits, r.2 ++ u.ev ++ t.ev)) (acc, [])

/-- Every block of one row on an entry, in ascending order (R237). -/
def rowPass (p : Plane) (fview : Bool) (a : ActRow) (j : Nat) (acc : BitVec 48) : BitVec 48 × List Nat :=
  (List.range (p.kp / 128)).foldl (fun (r : BitVec 48 × List Nat) b =>
    let n := match bif p.float then fmtOf p.wfmt.toNat else none with
      | some f => floatPass p f a b j r.1
      | none => intPass p fview a b j r.1
    (n.1, r.2 ++ n.2)) (acc, [])

/-- The entries that an mmac or mmacs leaves in its bank, by row·128 + column, and its counts (R237). -/
def macEntries (p : Plane) (bank : Acc) (rowb : Nat) (rows : List ActRow) : List (Nat × BitVec 48) × List Nat :=
  let each := (List.range rows.length).flatMap fun m =>
    match rows[m]? with
    | some a => (List.range 128).map fun j =>
      let r := rowPass p bank.float a j (bank.at_ (rowb + m) j)
      (128 * (rowb + m) + j, r.1, r.2)
    | none => []
  (each.map fun x => (x.1, x.2.1), each.flatMap fun x => x.2.2)

/-! ### M-slot operations in flight -/

/-- The bank an operation acts on. -/
def mBank : MOp → Option Bool
  | .mmac a _ _ => some a
  | .mmacs a _ _ _ => some a
  | .mclr a _ => some a
  | .mdrain a _ _ _ _ _ => some a
  | .mnop | .mcfg .. | .mswap => none
/-- mmac or mmacs. -/
def mIsMac : MOp → Bool | .mmac .. | .mmacs .. => true | _ => false
/-- The activation operand of an mmac or mmacs. -/
def mSrc : MOp → Option OpCode
  | .mmac _ s _ => some s
  | .mmacs _ s _ _ => some s
  | _ => none
/-- The register operands of an M slot, scale registers among them (R231, R232). -/
def mRegs : MOp → List OpCode
  | .mmac _ s _ => bif (codeStream s).isNone then [s] else []
  | .mmacs _ s _ scr => (bif (codeStream s).isNone then [s] else []) ++ (bif scr == 31 then [] else [scr])
  | .mdrain _ scale _ _ _ _ => bif scale == 31 then [] else [scale]
  | _ => []
/-- The operation has beats and a landing (R232). -/
def mOperates : MOp → Bool | .mnop | .mcfg .. | .mswap => false | _ => true
/-- ROWB. -/
def mRowb : MOp → Nat
  | .mmac _ _ r => r.toNat
  | .mmacs _ _ r _ => r.toNat
  | _ => 0

/-- A bank of the array. -/
def Arrays.bank (x : Arrays) (a : Bool) : Acc := x.acc.get ⟨a.toNat, by cases a <;> decide⟩
/-- A bank replaced. -/
def Arrays.setBank (x : Arrays) (a : Bool) (b : Acc) : Arrays := { x with acc := x.acc.set a.toNat b (by cases a <;> decide) }

/-- The rows of activations of an mmac in flight: of its register snapshot, or of its block. -/
def Flight.actRows (f : Flight) (p : Plane) : List ActRow :=
  match f.op with
  | .m o =>
    match mSrc o with
    | none => []
    | some src =>
      let scr : Option OpCode := match o with | .mmacs _ _ _ scr => some scr | _ => none
      let g := p.kp / 128
      match codeStream src with
      | none =>
        let fmt := f.shape.f
        (List.range f.shape.rows).map fun m =>
          let b := fun (q : Nat) => f.elem src fmt (m * p.kp + q)
          { int := fun q => intVal fmt (b q), bits := b, ka := 8,
            scale := scr.map fun scr => fun k => f.elem scr 1 (m * g + k) }
      | some r =>
        match f.blocks.find? fun x => x.1 == r with
        | none => []
        | some (_, k, vs, ss) =>
          (List.range (vs.length / p.kp)).map fun m =>
            let v := fun (q : Nat) => vs.getD (m * p.kp + q) 0
            { int := fun q => (v q).toInt, bits := fun q => (v q).toNat, ka := if k = 0 then 8 else k,
              scale := scr.map fun _ => fun b => (ss.getD (m * g + b) 0x3f80).toNat }
  | _ => []

/-- What an mdrain delivers for one entry (R238). -/
def drainElem (isF : Bool) (x : BitVec 48) (scale : Option Nat) (fo : Nat) (rm : Rm) : FRes :=
  let v := bif isF then f32.dec (x.toNat % 2 ^ 32) else FVal.ofInt x.toInt
  let r : FVal × Bool := match scale with
    | some b => let y := bf16.dec b; (v.mul y, v.isNan || y.isNan)
    | none => (v, v.isNan)
  match fmtOf fo with
  | some g => g.fin rm r.2 r.1
  | none => convVal r.1 fo rm

/-- The entries of an mdrain's tile, by the place in the tile (R238). -/
def drainKeys (sh : Shape) (tile : Nat) : List (Nat × Nat) :=
  let per := 128 / sh.cols
  let rb := tile / per * sh.rows
  let cb := tile % per * sh.cols
  (List.range sh.elems).map fun e => (rb + e / sh.cols, cb + e % sh.cols)

/-- The result of an mdrain in flight, from the entries it has read (R238). -/
def Flight.drained (f : Flight) : List FRes :=
  match f.op, f.grab with
  | .m (.mdrain _ scale _ fo rm tile), some (isF, es) =>
    let keys := drainKeys f.shape tile.toNat
    (List.range f.shape.elems).map fun e =>
      let k := keys.getD e (0, 0)
      let x := (es.getD e (0, 0)).2
      drainElem isF x (bif scale == 31 then none else some (f.elem scale 1 k.2)) fo.toNat (Rm.of rm)
  | _, _ => []

/-! ### Checks at issue (R233, R236, R238) -/

/-- The view of a bank as set by the latest mclr issued, landed or not (R236). -/
def State.bankView (s : State) (a : Bool) : Bool :=
  let l := s.core.v.flight.filterMap fun f => match f.op with | .m (.mclr b view) => bif b == a then some view else none | _ => none
  l.getLast?.getD (s.core.arr.bank a).float

/-- An mmac's or mmacs's operands and view are as R236 asks. -/
def State.macOk (s : State) (scaled acc : Bool) (src : OpCode) (rowb : Nat) (scr : OpCode) : Bool :=
  let p := s.core.arr.active
  let fview := s.bankView acc
  let sh := s.core.v.shape
  let view := bif scaled then fview && !p.float else !p.float || fview
  match codeStream src with
  | none =>
    sh.cols == p.kp && (bif p.float then sh.fmt == p.wfmt else sh.f == 5 || sh.f == 6) && decide (rowb + sh.rows ≤ 128) && view &&
      (!scaled || scr != 31)
  | some r =>
    let d := s.desc r
    d.active && !d.out && s.lsymUsed d && d.bc == p.kp && (bif p.float then d.fmt == p.wfmt.toNat else decide (5 ≤ d.fmt ∧ d.fmt ≤ 8)) &&
      d.scl == scaled && decide (rowb + d.br ≤ 128) && view && (!scaled || scr == 31)

/-- An M slot that raises no cause 0x01 at issue. -/
def State.mOk (s : State) : MOp → Bool
  | .mnop | .mswap | .mclr .. => true
  | .mcfg _ wfmt sparse =>
    let p := s.core.arr.shadow
    !(p.wrote && (wfmt != p.wfmt || sparse != p.sparse))
  | .mmac a src rowb => s.macOk false a src rowb.toNat 31
  | .mmacs a src rowb scr => s.macOk true a src rowb.toNat scr
  | .mdrain _ _ d fo _ tile =>
    let sh := s.core.v.shape
    decide (sh.rows ≤ 128 ∧ sh.cols ≤ 128 ∧ 256 ≤ sh.elems ∧ tile.toNat < 16384 / sh.elems) &&
      match codeStream d with
      | none => decide (sh.elems * fmtSize fo.toNat ≤ sh.capBytes)
      | some r => dstStreamOk (s.desc r) sh.rows sh.cols fo.toNat

end Sys2Proof.Machine
end

