-- ==== Sys2Proof/Machine/VAlu.lean ====
section
/-! DEFINITION. What the A and B slots compute (R214 to R224, R239), element by element, with the counts of R213. -/

namespace Sys2Proof.Machine

/-- A result with no count. -/
def plain (b : Nat) : FRes := ⟨b, []⟩

/-- An exact integer under the overflow meaning (R211). -/
def intRes (fmt : Nat) (mode : BitVec 2) (x : Int) : FRes :=
  let r := intRange fmt
  plain (intBits fmt (bif mode == 0 then x else sat x r.1 r.2))

/-- An element in the chosen view (R211). -/
def viewVal (fmt : Nat) (mode : BitVec 2) (b : Nat) : Int := bif mode == 1 then (b % 2 ^ (8 * fmtSize fmt) : Nat) else intVal fmt b

/-- vadd, vsub, vmul, vfma, vfms (R214). -/
def arith (op : ABOp) (fmt : Nat) (mode : BitVec 2) (x y z : Nat) : FRes :=
  match fmtOf fmt with
  | some g =>
    let rm := Rm.of mode
    let a := g.dec x
    let b := g.dec y
    let c := g.dec z
    match op with
    | .vadd => g.fin rm (a.isNan || b.isNan) (a.add rm b)
    | .vsub => g.fin rm (a.isNan || b.isNan) (a.add rm b.neg)
    | .vmul => g.fin rm (a.isNan || b.isNan) (a.mul b)
    | .vfma => g.fin rm (a.isNan || b.isNan || c.isNan) ((a.mul b).add rm c)
    | _ => g.fin rm (a.isNan || b.isNan || c.isNan) ((a.mul b).add rm c.neg)
  | none =>
    let a := intVal fmt x
    let b := intVal fmt y
    let c := intVal fmt z
    match op with
    | .vadd => intRes fmt mode (a + b)
    | .vsub => intRes fmt mode (a - b)
    | .vmul => intRes fmt mode (a * b)
    | .vfma => intRes fmt mode (a * b + c)
    | _ => intRes fmt mode (a * b - c)

/-- A value picked by vmin, vmax, vclamp or a maximum (R215, R221): a NaN operand gives the canonical NaN. -/
def pickF (g : FFmt) (v : FVal) : FRes := plain (g.round .rne v).bits

/-- vmin and vmax (R215). -/
def minMax (isMax : Bool) (fmt : Nat) (mode : BitVec 2) (x y : Nat) : FRes :=
  match fmtOf fmt with
  | some g => pickF g (bif isMax then (g.dec x).max (g.dec y) else (g.dec x).min (g.dec y))
  | none =>
    let a := viewVal fmt mode x
    let b := viewVal fmt mode y
    plain (bif isMax then (if a < b then y else x) else if b < a then y else x)

/-- vclamp: Min(Max(x, lo), hi) (R215). -/
def clamp (fmt : Nat) (mode : BitVec 2) (x lo hi : Nat) : FRes := minMax false fmt mode (minMax true fmt mode x lo).bits hi

/-- vabs (R215). -/
def absRes (fmt : Nat) (mode : BitVec 2) (x : Nat) : FRes :=
  match fmtOf fmt with
  | some g => pickF g (g.dec x).abs
  | none => let v := intVal fmt x; intRes fmt mode (if v < 0 then -v else v)
/-- vneg (R215). -/
def negRes (fmt : Nat) (mode : BitVec 2) (x : Nat) : FRes :=
  match fmtOf fmt with
  | some g => pickF g (g.dec x).neg
  | none => intRes fmt mode (0 - intVal fmt x)

/-- The three shifts by a count below the width (R216). -/
def shiftRes (op : ABOp) (fmt x n : Nat) : FRes :=
  let w := 8 * fmtSize fmt
  match op with
  | .vshl => plain (x * 2 ^ n % 2 ^ w)
  | .vshr => plain (x / 2 ^ n)
  | _ => plain (intBits fmt (intVal fmt x / 2 ^ n))

/-- A condition of vcmp holds (R217). -/
def cmpHolds (c : Nat) (fmt : Nat) (mode : BitVec 2) (x y : Nat) : Bool :=
  let o : Option Ordering := match fmtOf fmt with
    | some g => bif (g.dec x).isNan || (g.dec y).isNan then none else some ((g.dec x).cmp (g.dec y))
    | none => some (compare (viewVal fmt mode x) (viewVal fmt mode y))
  match c, o with
  | 0, some o => o == .eq
  | 1, some o => o != .eq
  | 1, none => true
  | 2, some o => o == .lt
  | 3, some o => o != .gt
  | 4, some o => o == .gt
  | 5, some o => o != .lt
  | 6, none => true
  | _, _ => false

/-- The value vimm writes (R219). -/
def immRes (x : ABSlot) (fmt : Nat) : FRes :=
  let imm : BitVec 15 := x.a ++ x.b ++ x.c
  bif x.mode.getLsbD 1 then convert 1 (imm.toNat + x.mode.toNat % 2 * 2 ^ 15) fmt .rne else convInt imm.toInt fmt .rne

/-- The sum of a row or column (R221). -/
def sumRes (fmt : Nat) (mode : BitVec 2) (l : List Nat) : FRes :=
  match fmtOf fmt with
  | some g =>
    let rm := Rm.of mode
    let vs := l.map g.dec
    let v := exactSum vs
    let v := match v with
      | .num false m e => bif m == 0 && rm == .rdn then .num true 0 0 else .num false m e
      | v => v
    g.fin rm (vs.any (·.isNan)) v
  | none => intRes fmt mode ((l.map (intVal fmt)).sum)
/-- The maximum of a row or column (R221). -/
def maxRes (fmt : Nat) (mode : BitVec 2) (l : List Nat) : FRes :=
  match l with
  | [] => plain 0
  | x :: t => bif t.isEmpty then minMax true fmt mode x x else t.foldl (fun a b => minMax true fmt mode a.bits b) (plain x)

/-- vscl: one rounding of the product with a scale (R223). -/
def sclRes (fmt : Nat) (mode : BitVec 2) (x y : Nat) : FRes :=
  match fmtOf fmt with
  | some g => g.fin (Rm.of mode) ((g.dec x).isNan || (g.dec y).isNan) ((g.dec x).mul (g.dec y))
  | none => plain 0

/-- Element `i` of the result of an A or B slot (R214 to R223, R239). -/
def abElem (x : ABSlot) (sh : Shape) (it : Nat × Nat) (get : OpCode → Nat → Nat → Nat) (i : Nat) : FRes :=
  let fmt := sh.f
  let w := 8 * fmtSize fmt
  let row := i / sh.cols
  let col := i % sh.cols
  let at_ := fun (r c : Nat) => r * sh.cols + c
  let a := fun (e : Nat) => get x.a fmt e
  let b := fun (e : Nat) => get x.b fmt e
  let c := fun (e : Nat) => get x.c fmt e
  match x.op with
  | .vadd | .vsub | .vmul => arith x.op fmt x.mode (a i) (b i) 0
  | .vfma | .vfms => arith x.op fmt x.mode (a i) (b i) (c i)
  | .vmin => minMax false fmt x.mode (a i) (b i)
  | .vmax => minMax true fmt x.mode (a i) (b i)
  | .vclamp => clamp fmt x.mode (a i) (b i) (c i)
  | .vabs => absRes fmt x.mode (a i)
  | .vneg => negRes fmt x.mode (a i)
  | .vand => plain (a i &&& b i)
  | .vor => plain (a i ||| b i)
  | .vxor => plain (a i ^^^ b i)
  | .vnot => plain (2 ^ w - 1 - a i)
  | .vshl | .vshr | .vsra => shiftRes x.op fmt (a i) (bif x.mode == 0 then b i % w else x.c.toNat)
  | .vcmp => plain (bif cmpHolds x.c.toNat fmt x.mode (a i) (b i) then 2 ^ w - 1 else 0)
  | .vsel => plain (if c i = 0 then b i else a i)
  | .vmov => plain (a i)
  | .vimm => immRes x fmt
  | .vbrow => plain (a (at_ (abIndex x) col))
  | .vbcol => plain (a (at_ row (abIndex x)))
  | .vidx => convInt ((if x.mode = 0 then i else if x.mode = 1 then col else row : Nat) + x.c.toInt) fmt .rne
  | .vperm => plain (bif x.mode == 0 then a (at_ row (b i % sh.cols)) else a (at_ (b i % sh.rows) col))
  | .vtr => plain (a (at_ col row))
  | .vrsum => sumRes fmt x.mode ((List.range sh.cols).map fun k => a (at_ row k))
  | .vcsum => sumRes fmt x.mode ((List.range sh.rows).map fun k => a (at_ k col))
  | .vrmax => maxRes fmt x.mode ((List.range sh.cols).map fun k => a (at_ row k))
  | .vcmax => maxRes fmt x.mode ((List.range sh.rows).map fun k => a (at_ k col))
  | .vcvt =>
    let src := bif x.b == 0 then x.c.toNat else fmt
    convert src (get x.a src i) (abDestFmt x fmt) (Rm.of x.mode)
  | .vscl => sclRes fmt x.mode (a i) (bif x.c.getLsbD 0 then b (at_ 0 col) else b (at_ row 0))
  | .vexp | .vexp2 | .vlog | .vlog2 | .vrcp | .vrsqrt | .vsqrt | .vtanh | .vsig | .vsin | .vcos | .verf =>
    match fmtOf fmt with
    | some g => sfElem x.op g (Rm.of x.mode) it (a i)
    | none => plain 0
  | .vpack | .vunpk | .empty | .vshape | .hint => plain 0

/-- vpack and vunpk, by groups of 128 (R224). -/
def abGroups (x : ABSlot) (sh : Shape) (get : OpCode → Nat → Nat → Nat) : List FRes :=
  let k := x.c.toNat
  (List.range (sh.elems / 128)).flatMap fun g =>
    let src := (List.range 128).map fun e => get x.a sh.f (128 * g + e)
    bif decide (x.op = .vpack) then
      ((List.range 128).foldl (fun img e => planeSet img e (src.getD e 0) k) (List.replicate 128 (0 : Byte))).map fun b => plain b.toNat
    else
      let img := src.map (BitVec.ofNat 8)
      (List.range 128).map fun e => plain (intBits sh.f (reconstruct (intVal sh.f (planeElem img e k)) k))

/-- Every element of the result of an A or B slot, in row-major order. -/
def abResult (x : ABSlot) (sh : Shape) (it : Nat × Nat) (get : OpCode → Nat → Nat → Nat) : List FRes :=
  match x.op with
  | .vpack | .vunpk => abGroups x sh get
  | _ => (List.range sh.elems).map fun i => abElem x sh it get i

end Sys2Proof.Machine
end

