-- ==== Sys2Proof/Machine/VTime.lean ====
section
/-! DEFINITION. V's timetable between issues (R206 to R210, R232, R247, R248): what a tick performs, in order; stretches; drains. -/

namespace Sys2Proof.Machine

/-- The tick V stands at: TICK, and in a drain the drain ticks performed (R248). -/
def State.vNow (s : State) : Nat := s.core.csr.tick.toNat + s.core.v.drained

/-- The low 64 bits of a bundle, as TVAL of cause 0x01 shows it (R36). -/
def bundleTval (b : Bundle) : Word64 := b.enc.extractLsb' 0 64

/-! ### Consumptions -/

/-- The stream elements as an operation stores them: an A or B slot's in the format it reads, an M slot's as q of R170 or bits. -/
def Flight.store (f : Flight) (r : SReg) (fmt k v : Nat) : Word32 :=
  match f.op with
  | .ab _ x =>
    let want := ((abSources x f.shape.f).find? fun o => codeStream o.1 == some r).elim fmt (·.2)
    BitVec.ofNat 32 (readAs fmt k want v)
  | .m _ =>
    if fmt = 7 ∨ fmt = 8 then BitVec.ofInt 32 (intVal fmt v / 2 ^ (8 - k))
    else if fmt = 5 ∨ fmt = 6 then BitVec.ofInt 32 (intVal fmt v)
    else BitVec.ofNat 32 v

/-- A block delivered to an operation that awaits it. -/
def Flight.deliver (f : Flight) (seq : Nat) (r : SReg) (fmt : Nat) (b : Block_) : Flight :=
  bif f.seq == seq && f.await.any (fun a => a.1 == r) then
    { f with await := f.await.filter (fun a => a.1 != r),
             blocks := f.blocks ++ [(r, bif fmt == 7 || fmt == 8 then b.1 else 0, b.2.1.map fun v => f.store r fmt b.1 v.toNat, b.2.2)] }
  else f

/-- What a tick answers: it is taken; it is stretched for a stream's data; or a cause holds it. -/
inductive VTick
  | took (s : State)
  | stretched (s : State) (r : SReg)
  | caused (s : State)

/-- Why a tick's consumptions or pushes cannot all take place. -/
inductive VHeld
  | late (r : SReg)
  /-- the data of the stream's next block is held back by a flip or a refresh window -/
  | waits (r : SReg)
  | fail (r : SReg) (f : XFail) (e : Nat) (scale : Bool) (va : Word64) (pc : Word64)
  | past (r : SReg) (pc : Word64)
  /-- a push lands on a stream that is not active, of a bundle's low 64 bits -/
  | inactive (word pc : Word64)

/-- The number of the cause that holds a tick; one that waits for data has none, and comes after every cause (R39). -/
def VHeld.code : VHeld → Nat
  | .late _ => 0x200
  | .waits _ => 0x200
  | .fail _ f .. => f.code
  | .past .. => 0x0d
  | .inactive .. => 0x01
/-- The lowest of what holds a tick, the first of equals (R39). -/
def VHeld.lowest (h : VHeld) (l : List VHeld) : VHeld := l.foldl (fun a b => bif decide (b.code < a.code) then b else a) h

/-- A consumption due: its bundle's number, the stream, the bundle's PC; the live cycle of the bundle's issue, and the cycles injected. -/
structure Due where
  seq   : Nat
  r     : SReg
  pc    : Word64
  since : Nat
  extra : Nat
deriving DecidableEq, Repr

/-- The count of live cycles at which a consumption's block is complete: when its data has come, and the cycles injected after that and after the
issue have passed (R244). -/
def State.dueAt (s : State) (x : Due) : Nat := Nat.max x.since (s.desc x.r).came + x.extra
/-- The stream's next block is not complete (R247). -/
def State.notCome (s : State) (x : Due) : Bool := !s.blocksHere x.r 1 || decide (s.core.ctx.live < s.dueAt x)
/-- The sample that a consumption gives: the cycles from the issue to the block's being complete (R243, R244). -/
def State.streamSample (s : State) (x : Due) : State :=
  s.sampleAt (streamSource x.r) ((s.desc x.r).came - x.since + x.extra) (s.dueAt x)

/-- The consumptions of the flight due at a tick, each bundle's pop of a stream once, in issue order. -/
def dueIn (fs : List Flight) (t : Nat) : List Due :=
  (fs.flatMap fun f => (f.await.filter fun a => decide (a.2 ≤ t)).map fun a =>
    ⟨f.seq, a.1, f.pc, f.since, (f.extra.lookup a.1).getD 0⟩).eraseDups
/-- The consumptions due at a tick: in ascending stream number, and for each stream in issue order (R312). -/
def State.dueFor (s : State) (t : Nat) : List Due :=
  let l := dueIn s.core.v.flight t
  allStreams.flatMap fun r => l.filter fun x => x.r == r

/-- The consumptions of a tick (R206, R210, R247): none takes place unless all can. -/
def State.consume (s : State) : List Due → Except VHeld State
  | [] => .ok s
  | x :: t =>
    let r := x.r
    let d := s.desc r
    bif s.notCome x then .error (.late r)
    else
      match d.positions 1 d.at_ with
      | none => .error (.past r x.pc)
      | some ps =>
        let es := d.carried ps
        let s := s.fillFor d es
        match s.readBlocks d ps d.ahead [] with
        | .waits => .error (.waits r)
        | .fail f e sc va =>
          let y := (lowestFail (s.blockFails d ps d.ahead)).getD (f, e, sc, va)
          .error (.fail r y.1 y.2.1 y.2.2.1 y.2.2.2 x.pc)
        | .ok bs =>
          let s := (s.fetchCounts d (d.missing 1)).setDesc r (d.popped 1 es.length)
          let s := s.setV { s.core.v with flight := s.core.v.flight.map fun f => f.deliver x.seq r d.fmt (bs.headD (0, [], [])) }
          ((s.count 0x0a 1).streamSample x).consume t

/-! ### Pushes -/

/-- The operations due to land at a tick: those that write registers in issue order (R63), then those that push, in ascending stream number
(R312). -/
def State.landingAt (s : State) (t : Nat) : List Flight :=
  let due := s.core.v.flight.filter fun f => f.set && decide (f.land ≤ t)
  (due.filter fun f => f.pushes.isNone) ++ allStreams.flatMap fun r => due.filter fun f => f.pushes == some r

/-- The output streams that operations landing at a tick cannot push to: one that sb.stop has made inactive since its issue (R184), one
past its pattern's end, or one whose addresses fail (R145, R157, R209). -/
def State.pushHeld (s : State) (t : Nat) : List VHeld :=
  (s.landingAt t).filterMap fun f =>
      match f.pushes with
      | none => none
      | some r =>
        let d := s.desc r
        bif !d.active then some (.inactive f.word f.pc)
        else match d.pushElems (d.br * d.bc) with
        | none => some (.past r f.pc)
        | some es =>
          match (s.fillFor d (es.map (·.1))).pushCheck d .wr (es.map (·.1)) with
          | (.ok _, _) => none
          | (.waits, _) => some (.late r)
          | (.fail x, e) =>
            let y := (lowestFail (s.elemFails d d.planes .wr (es.map (·.1)))).getD (x, e, false, d.elemVa e)
            some (.fail r y.1 y.2.1 false y.2.2.2 f.pc)
/-- What holds the first consumption that each stream has due at a tick (R39, R210). -/
def State.popHeld (s : State) (due : List Due) : List VHeld :=
  allStreams.filterMap fun r => (due.find? fun x => x.r == r).bind fun x => match s.consume [x] with | .error h => some h | .ok _ => none

/-- The tick that V cannot take: a stretch, or the cause on V (log 44, DEDUCED). -/
def State.heldTick (s : State) (h : VHeld) : VTick :=
  match h with
  | .late r => .stretched s r
  | .waits r => .stretched (s.setDesc r { s.desc r with came := s.core.ctx.live + 1 }) r
  | .fail r f e sc va pc => .caused (s.streamFault .v r f e sc va pc)
  | .past r pc => .caused (s.raise .v 0x0d (r.setWidth 64) pc)
  | .inactive w pc => .caused (s.raise .v 0x01 w pc)

/-! ### M-slot scheduling (R232) -/

/-- The plane an operation runs on: with its MODE, WFMT and SPARSE as they stand at the operation's last beat, also where an mcfg has changed them
since the mswap, for which the spec gives no hold (R234; log 43, DEDUCED). -/
def State.planeOf (s : State) (f : Flight) : Plane := bif f.old then s.core.arr.shadow else s.core.arr.active

/-- The planes of an mmac's activations. -/
def Flight.ka (f : Flight) : Nat := match f.blocks with | (_, k, _, _) :: _ => if k = 0 then 8 else k | [] => 8
/-- The rows of an mmac. -/
def State.macRows (s : State) (f : Flight) : Nat :=
  match f.op with
  | .m o =>
    match mSrc o with
    | some src => match codeStream src with
      | none => f.shape.rows
      | some r => match f.blocks.find? fun x => x.1 == r with
        | some x => x.2.2.1.length / (s.planeOf f).kp
        | none => 0
    | none => 0
  | _ => 0

/-- Beats, and the distance from the first beat to the landing (R232). -/
def State.mTiming (s : State) (f : Flight) : Nat × Nat :=
  match f.op with
  | .m (.mmac ..) | .m (.mmacs ..) => let n := s.macRows f * (s.planeOf f).rowBeats f.ka; (n, n + 1)
  | .m (.mclr ..) => (1, 1)
  | .m (.mdrain ..) => let p := ceilDiv f.shape.elems 128; (p, 4 + p - 1)
  | _ => (0, 0)

/-- The M operations whose first beat can be fixed get their beats and landings, in issue order (R232). -/
def State.mSchedule (s : State) : List Flight → List Flight → State
  | [], done => s.setV { s.core.v with flight := done.reverse }
  | f :: t, done =>
    match f.op with
    | .ab .. => s.mSchedule t (f :: done)
    | .m o =>
      bif f.set then s.mSchedule t (f :: done)
      else bif !f.await.isEmpty then s.setV { s.core.v with flight := done.reverse ++ f :: t }
      else
        let v := s.core.v
        let bank := match mBank o with | some a => some a.toNat | none => none
        let after := match bank with | some a => vget v.accFree a 0 | none => 0
        let b0 := Nat.max (Nat.max f.b0 v.freeM) after
        let n := s.mTiming f
        let land := b0 + n.2
        let acc := match o, bank with
          | .mdrain .., _ => v.accFree
          | _, some a => vset v.accFree a (land + 1)
          | _, none => v.accFree
        (s.setV { v with freeM := b0 + n.1, accFree := acc }).mSchedule t ({ f with set := true, b0 := b0, beats := n.1, land := land } :: done)

/-! ### Beats -/

/-- The lane groups an operation of the A or B slot uses (R203): a special function too, of whose 64 lanes (R239) the spec does not say which λ the
count of groups takes (log 72, DESIGN CHOICE). -/
def laneGroups (ln : Lane) (x : ABSlot) (sh : Shape) : List Nat :=
  let l := 512 / abWidth x sh.f
  let n := ceilDiv (Nat.min sh.elems l) (l / 4)
  (List.range (Nat.min n 4)).map fun i => (match ln with | .a => 0 | .b => 4) + i
/-- The lane groups that the operations beating at a tick use are powered; a wake may trip the detector (R203, R401). -/
def State.wake (s : State) (t : Nat) : State :=
  let gs := s.core.v.flight.flatMap fun f =>
    match f.op with
    | .ab ln x => bif f.set && decide (f.b0 ≤ t ∧ t < f.b0 + f.beats) then laneGroups ln x f.shape else []
    | .m _ => []
  let wakes := gs.any fun g => !(vget s.core.lanes g ⟨false, 0, false⟩).on
  let s := { s with core := { s.core with lanes := gs.foldl (fun v g => vset v g ⟨true, 0, true⟩) s.core.lanes } }
  bif wakes then s.laneWakes else s
/-- The array beats of a tick are counted, of the bundles issued from a number on (R376). -/
def State.beatCount (s : State) (t from_ : Nat) : State :=
  let n := (s.core.v.flight.filter fun f => match f.op with
    | .m o => mIsMac o && decide (from_ ≤ f.seq) && f.set && decide (f.b0 ≤ t ∧ t < f.b0 + f.beats)
    | _ => false).length
  bif n == 0 then s else s.count 0x09 n

/-- An mdrain at its first beat reads its bank; an mmac at its last has what it leaves (R232, R234, R237). -/
def State.grabs (s : State) (t : Nat) : State :=
  let arr := s.core.arr
  s.core.v.flight.foldl (fun s f =>
    match f.op with
    | .m o =>
      bif !f.set || f.grab.isSome then s
      else
        match o with
        | .mdrain a _ _ _ _ tile =>
          bif decide (f.b0 ≤ t) then
            let b := arr.bank a
            let es := (drainKeys f.shape tile.toNat).map fun k => (128 * k.1 + k.2, b.at_ k.1 k.2)
            s.setV { s.core.v with flight := s.core.v.flight.map fun g => bif g == f then { g with grab := some (b.float, es) } else g }
          else s
        | .mmac a _ _ | .mmacs a _ _ _ =>
          bif decide (f.b0 + f.beats ≤ t + 1) then
            let b := arr.bank a
            let p := s.planeOf f
            let r := macEntries p b (mRowb o) (f.actRows p)
            (s.setV { s.core.v with flight := s.core.v.flight.map fun g => bif g == f then { g with grab := some (b.float, r.1) } else g }).fpCount r.2
          else s
        | _ => s
    | _ => s) s

/-! ### Landings (R63, R202, R232, R235) -/

/-- A result written to its register, or pushed to its output stream. -/
def State.deliverTo (s : State) (f : Flight) (d : OpCode) (fmt : Nat) (rs : List FRes) : State :=
  let s := match codeStream d with
    | none => s.poolWrite (d.toNat * f.shape.capBytes) (rs.flatMap fun (r : FRes) => leBytes (fmtSize fmt) r.bits)
    | some r =>
      match (s.desc r).pushElems ((s.desc r).br * (s.desc r).bc) with
      | some es => s.pushAll r es fun e => (rs.getD e ⟨0, []⟩).bits
      | none => s
  s.fpCount (rs.flatMap fun (r : FRes) => r.ev)

/-- An operation lands. -/
def State.land (s : State) (f : Flight) : State :=
  match f.op with
  | .ab _ x => s.deliverTo f x.d (abDestFmt x f.shape.f) (abResult x f.shape (sfIters s.core.ten.sfShare) f.elem)
  | .m (.mclr a view) => { s with core := { s.core with arr := s.core.arr.setBank a ⟨view, []⟩ } }
  | .m (.mdrain _ _ d fo _ _) => s.deliverTo f d fo.toNat f.drained
  | .m o =>
    match mBank o, f.grab with
    | some a, some (_, es) =>
      let b := s.core.arr.bank a
      { s with core := { s.core with arr := s.core.arr.setBank a { b with e := es.foldl (fun l x => kset l x.1 x.2) b.e } } }
    | _, _ => s

/-- The operations due at a tick land (R63, R312), and leave. -/
def State.landings (s : State) (t : Nat) : State :=
  let due := s.landingAt t
  let s := due.foldl State.land s
  bif due.isEmpty then s
  else (s.setV { s.core.v with flight := s.core.v.flight.filter fun f => !(f.set && decide (f.land ≤ t)) }).stir

/-! ### The tick -/

/-- A tick begins to be stretched (R247). -/
def State.stretchOn (s : State) (r : SReg) : State :=
  bif s.core.v.stretch.isSome then s
  else
    let x := s.core.csr.stretch
    let s := s.setCsr { s.core.csr with stretch := x.extractLsb' 56 8 ++ satAdd (x.extractLsb' 40 16) 1 ++ x.extractLsb' 0 40 }
    (s.setV { s.core.v with stretch := some r, blocked := true }).count 0x07 1

/-- What a tick performs once its consumptions are made: beats and landings (R206, R208, R232). -/
def State.tickBody (s : State) (t : Nat) : State := ((((s.mSchedule s.core.v.flight []).wake t).beatCount t 0).grabs t).landings t
/-- The tick is taken: TICK, or the drain's count, goes on (R5, R248). -/
def State.tickTaken (s : State) : State :=
  let v := s.core.v
  bif v.drain then s.setV { v with drained := v.drained + 1, stretch := none, blocked := false }
  else ((s.setV { v with stretch := none, blocked := false }).setCsr { s.core.csr with tick := s.core.csr.tick + 1 }).count 0x02 1

/-- The blocks that the consumptions of the next tick await are asked for. -/
def State.tickAsks (s : State) : State := (s.dueFor (s.vNow + 1)).foldl (fun s x => s.askBlocks x.r 1) s
/-- The next tick's consumptions made, or what holds it: of the causes of its pops and pushes the lowest, else a wait for data (R39, R206, R210,
R247). -/
def State.tickMade (s : State) : Except VHeld State :=
  let t := s.vNow + 1
  let due := s.dueFor t
  match s.consume due with
  | .error h => .error (h.lowest (s.popHeld due ++ s.pushHeld t))
  | .ok s' => match s'.pushHeld t with | h :: l => .error (h.lowest l) | [] => .ok s'
/-- The next tick, or drain tick: consumptions, beats and landings, when nothing holds it (R206, R208, R247, R248). -/
def State.vTick (s : State) : VTick :=
  let s := s.tickAsks
  match s.tickMade with
  | .error h => s.heldTick h
  | .ok s' => .took (s'.tickBody (s.vNow + 1)).tickTaken

/-- Cycles pass until one holds a permit, at least one and at most n; and whether one came (R5, R396). -/
def State.toPermit : Nat → State → State × Bool
  | 0, s => (s, false)
  | n + 1, s => let s := s.passCycle; bif s.permitted then (s, true) else State.toPermit n s

/-- A cause of a sample, a rebind or a demand freezes the core at the end of the cycle (R31). -/
def State.freezes (s : State) : Bool := s.asyncNow && match lowestPend s.core.trap.pend with | some i => decide (i < 3) | none => false

/-- Ticks until V stands at a tick, a cycle with a permit for each; and whether it came there: not when the core freezes at the end of a tick's
cycle, nor when no permit comes in 128 cycles; V goes on at its next turn then. -/
def State.vAdvance (s : State) : Nat → State × Bool
  | 0 => (s, true)
  | n + 1 =>
    match s.vTick with
    | .took s =>
      bif s.freezes then (s, false)
      else
        let r := State.toPermit 128 s
        bif r.2 then r.1.vAdvance n else (r.1, false)
    | .stretched s r => (s.stretchOn r, false)
    | .caused s => (s, false)

/-- The last tick at which an operation in flight, its timing fixed, consumes or lands; or the next where none is fixed. -/
def State.nextDue (s : State) (lands : Bool) : Option Nat :=
  let v := s.core.v
  let l := v.flight.flatMap fun f => bif lands then (bif f.set then [f.land] else []) else f.await.map (·.2)
  match l with
  | [] => none
  | a :: t => some (t.foldl Nat.min a)

end Sys2Proof.Machine
end

