-- ==== Sys2Proof/Machine/VIssue.lean ====
section
/-! DEFINITION. The V bundle: its timing word, guard and cut bit, its slots and tokens (R25, R26, R55 to R62, R123 to R137, R204,
R212, R233 to R238); a slot alone is the bundle line that names only it (R83). -/

namespace Sys2Proof.Machine

/-! ### The T slot (R61, R125 to R137) -/

/-- The y registers a T slot reads. -/
def tSources : TOp → List YReg
  | .lbeg _ ya _ => [ya]
  | .lbr _ ya q _ => bif q then [] else [ya]
  | .stgCond ya _ => [ya]
  | .stgLoad ya _ => [ya]
  | .tsr ya yb => [ya, yb]
  | .yadd _ ya yb => [ya, yb]
  | .yaddi _ ya _ => [ya]
  | .ymov _ ya => [ya]
  | .empty | .lend .. | .jmp .. | .halt | .stgSet .. | .stgClr .. | .tkr .. | .ywait .. | .yrd .. | .hint .. => []
/-- A T slot that pops QBR (R132). -/
def tPopsQbr : TOp → Bool
  | .lend _ q _ _ => q
  | .lbr _ _ q _ => q
  | _ => false
/-- The depth of a ywait's source and its occupancy (R136). -/
def State.ywaitOf (s : State) (src : BitVec 3) : Nat × Nat :=
  match src.toNat with
  | 0 => (16, s.core.q.qcv.length)
  | 1 => (32, s.core.q.qbr.length)
  | 2 => (8, (s.fifo 2).occ)
  | _ => (8, (s.fifo 5).occ)
/-- The T slot can be met now (R124). -/
def State.tReady (s : State) (t : TOp) : Bool :=
  !s.yBlocked .v (tSources t) && (!tPopsQbr t || !s.core.q.qbr.isEmpty) &&
    match t with
    | .tsr _ _ => decide (s.core.q.qvc.length < 8)
    | .ywait src n => let w := s.ywaitOf src; n == 0 || decide (w.1 < n.toNat) || decide (n.toNat ≤ w.2)
    | _ => true
/-- The T slot raises no cause 0x01 (R129 to R131, R136). -/
def State.tOk (s : State) (t : TOp) : Bool :=
  let ls := s.core.v.loops
  match t with
  | .lbeg lid _ _ => (loopPush ls lid 1 0).isSome
  | .lend lid _ _ _ => match ls with | l :: _ => l.id == lid | [] => false
  | .lbr lid _ _ _ => (loopFind ls lid).isSome
  | .ywait src n => n != 0 && decide (n.toNat ≤ (s.ywaitOf src).1)
  | _ => true

/-- Predicates p1 to p7 written where a mask selects them (R134). -/
def predSet (p : BitVec 8) (mask : BitVec 8) (v : BitVec 8) : BitVec 8 := ((p &&& ~~~mask) ||| (v &&& mask)) ||| 1
/-- RotateStages(rem, E) (R135). -/
def rotateStages (p : BitVec 8) (rem : Word32) (e : BitVec 3) : BitVec 8 :=
  ((p &&& 0x7e) <<< 1) ||| (bif decide (e.toNat < rem.toNat) then 2 else 0) ||| 1

/-- The T slot's effects, at the end of tick t (R123). -/
def State.tEffect (s : State) (op : TOp) (t : Nat) : State :=
  let v := s.core.v
  let y := s.yRead .v
  let next := v.pc + 16
  let go := fun (s : State) (pc : Word64) => s.setV { s.core.v with pc := pc }
  let br := s.core.q.qbr.headD 0
  let pop := fun (s : State) => s.yPop .v (tSources op)
  let popBr := fun (s : State) => bif tPopsQbr op then s.setQ { s.core.q with qbr := s.core.q.qbr.tail } else s
  match op with
  | .empty | .hint _ | .ywait _ _ => go s next
  | .lbeg lid ya imm =>
    let c := loopCount (y ya) (imm.setWidth 32)
    let s := pop s
    go (s.setV { s.core.v with loops := (loopPush v.loops lid c next).getD v.loops }) next
  | .lend _ q e rot =>
    let s := popBr s
    let r := loopClose (!q || br != 0) v.pc next 1 v.loops
    let pred := match r.2.2 with | some rem => bif rot then rotateStages v.pred rem e else v.pred | none => v.pred
    go (s.setV { s.core.v with loops := r.1, pred := pred }) r.2.1
  | .lbr lid ya q inv =>
    let cond := (bif q then br != 0 else y ya != 0) != inv
    let s := popBr (pop s)
    go (s.setV { s.core.v with loops := bif cond then loopBreak v.loops lid else v.loops }) next
  | .jmp off => go s (v.pc + 16 * off.signExtend 64)
  | .halt => s.setV { s.core.v with halted := true, loops := [] }
  | .stgSet m => go (s.setV { s.core.v with pred := predSet v.pred m 0xff }) next
  | .stgClr m => go (s.setV { s.core.v with pred := predSet v.pred m 0 }) next
  | .stgCond ya m => let b := y ya; let s := pop s; go (s.setV { s.core.v with pred := predSet v.pred m (bif b != 0 then 0xff else 0) }) next
  | .stgLoad ya m => let b := y ya; let s := pop s; go (s.setV { s.core.v with pred := predSet v.pred m (b.extractLsb' 0 8) }) next
  | .tkr yd imm => go (s.yWrite .v yd (BitVec.ofNat 32 t + imm.signExtend 32)) next
  | .tsr ya yb =>
    let e : Word64 := y yb ++ y ya
    let s := pop s
    go (s.setQ { s.core.q with qvc := s.core.q.qvc ++ [e] }) next
  | .yadd yd ya yb => let r := y ya + y yb; go ((pop s).yWrite .v yd r) next
  | .yaddi yd ya imm => let r := y ya + imm.signExtend 32; go ((pop s).yWrite .v yd r) next
  | .ymov yd ya => let r := y ya; go ((pop s).yWrite .v yd r) next
  | .yrd yd sel lid => go (s.yWrite .v yd (s.special .v sel.toNat lid)) next

/-! ### Checks at issue -/

/-- The guard reads true (R57, R134). -/
def State.guardOn (s : State) (b : Bundle) : Bool := b.guard == 0 || s.core.v.pred.getLsbD b.guard.toNat

/-- The source streams of an A or B slot, with the format each is read in. -/
def abStreams (x : ABSlot) (fmt : Nat) : List (SReg × Nat) :=
  (abSources x fmt).filterMap fun o => (codeStream o.1).map fun r => (r, o.2)

/-- An A or B slot that raises no cause 0x01 (R204, R209, R212). -/
def State.abOk (s : State) (x : ABSlot) : Bool :=
  let sh := s.core.v.shape
  abShapeOk x sh && ((abStreams x sh.f).all fun r => s.srcStreamOk (s.desc r.1) sh r.2) &&
    match bif abOperates x then codeStream x.d else none with
    | some r => dstStreamOk (s.desc r) sh.rows sh.cols (abDestFmt x sh.f)
    | none => true

/-- The streams that a bundle pops, each once, and those it pushes (R62). -/
def bundlePops (b : Bundle) (fmt : Nat) : List SReg :=
  ((abStreams b.a fmt ++ abStreams b.b fmt).map (·.1) ++ ((mSrc b.m).bind codeStream).toList).eraseDups
/-- The streams that a bundle pushes. -/
def bundlePushes (b : Bundle) : List SReg :=
  (bif abOperates b.a then (codeStream b.a.d).toList else []) ++ (bif abOperates b.b then (codeStream b.b.d).toList else []) ++
    match b.m with | .mdrain _ _ d _ _ _ => (codeStream d).toList | _ => []

/-- The vector registers that a bundle reads, with the bytes it reads of each. -/
def State.bundleReads (s : State) (b : Bundle) : List (OpCode × Nat) :=
  let sh := s.core.v.shape
  let ab := fun (x : ABSlot) => (abSources x sh.f).filterMap fun o =>
    bif (codeStream o.1).isNone then some (o.1, sh.elems * fmtSize o.2) else none
  ab b.a ++ ab b.b ++ (mRegs b.m).map fun r => (r, sh.capBytes)

/-- The causes that a bundle whose slots act raises at issue, with their TVALs; the lowest is taken (R39, R151, R209, R212). -/
def State.slotCause (s : State) (b : Bundle) : Option (BitVec 8 × Word64) :=
  bif !(s.abOk b.a && s.abOk b.b && s.mOk b.m) then some (0x01, bundleTval b)
  else
    match (bundlePops b s.core.v.shape.f ++ bundlePushes b).find? fun r => !s.blockLeft r with
    | some r => some (0x0d, r.setWidth 64)
    | none =>
      ((s.bundleReads b).findSome? fun r => s.poolBad (r.1.toNat * s.core.v.shape.capBytes) r.2).map fun w => (0x13, poolTval w)

/-- An mswap waits for every wload that issued before it (R141). -/
def State.mswapHeld (s : State) (b : Bundle) : Bool := decide (b.m = .mswap) && s.core.l.pend.any (·.wload)

/-! ### Operations started -/

/-- The snapshot of a register's bytes (R206). -/
def State.snapshot (s : State) (c : OpCode) : OpCode × List Byte :=
  (c, s.poolBytes (c.toNat * s.core.v.shape.capBytes) s.core.v.shape.capBytes)

/-- The consumption ticks of stream sources (R206, R232). -/
def State.awaits (s : State) (rs : List SReg) (t : Nat) : List (SReg × Nat) := rs.eraseDups.map fun r => (r, t + s.lbindOf (s.desc r))

/-- The cycles injected into each awaited stream's delivery, as chxdbg has them now (R244, R273). -/
def State.injections (s : State) (aw : List (SReg × Nat)) : List (SReg × Nat) := aw.map fun a => (a.1, s.injected (streamSource a.1))

/-- An A or B operation issued at tick t: its beats follow those of the slot's earlier ones (R206, R207). -/
def State.startAB (s : State) (b : Bundle) (ln : Lane) (x : ABSlot) (t : Nat) : State :=
  bif !abOperates x then s
  else
    let v := s.core.v
    let sh := v.shape
    let aw := s.awaits ((abStreams x sh.f).map (·.1)) t
    let free := match ln with | .a => v.freeA | .b => v.freeB
    let b0 := Nat.max (aw.foldl (fun m a => Nat.max m a.2) t) free
    let p := ceilDiv sh.elems (abLambda x sh.f)
    let regs := ((abSources x sh.f).map (·.1)).filter fun c => (codeStream c).isNone
    let f : Flight := { op := .ab ln x, shape := sh, srcs := regs.eraseDups.map s.snapshot, blocks := [], await := aw, set := true, b0 := b0,
                        beats := p, land := b0 + abDepth x sh.f + p - 1, grab := none, old := false, seq := v.seq, pc := v.pc, word := bundleTval b,
                        since := s.core.ctx.live, extra := s.injections aw }
    let v := { v with flight := v.flight ++ [f] }
    s.setV (match ln with | .a => { v with freeA := b0 + p } | .b => { v with freeB := b0 + p })

/-- An M operation issued at tick t (R232). -/
def State.startM (s : State) (b : Bundle) (t : Nat) : State :=
  let o := b.m
  bif !mOperates o then s
  else
    let v := s.core.v
    let aw := s.awaits ((mSrc o).bind codeStream).toList t
    let f : Flight := { op := .m o, shape := v.shape, srcs := (mRegs o).eraseDups.map s.snapshot, blocks := [], await := aw, set := false,
                        b0 := aw.foldl (fun m a => Nat.max m a.2) t, beats := 0, land := 0, grab := none, old := false, seq := v.seq, pc := v.pc,
                        word := bundleTval b, since := s.core.ctx.live, extra := s.injections aw }
    s.setV { v with flight := v.flight ++ [f] }

/-- vshape's effect at the end of its issue tick (R204). -/
def State.shapeEffect (s : State) (x : ABSlot) : State :=
  bif decide (x.op = .vshape) then
    s.setV { s.core.v with shape := { s.core.v.shape with rlog := x.d.setWidth 4, clog := x.a.setWidth 4, fmt := x.b.setWidth 4 } }
  else s

/-- The blocks that the operations in flight await are asked of the weight store as their bundle issues (R243, R273). -/
def State.asksFor (s : State) (rs : List SReg) : State := rs.foldl (fun s r => s.askBlocks r (Nat.max 1 (s.pendingOn r))) s

/-- mcfg's and mswap's effects at the end of their issue tick (R233, R234). An mcfg changes the plane at once, whatever mmac of it has beats left:
no rule gives a hold (log 43, DEDUCED). -/
def State.mEffect (s : State) (o : MOp) : State :=
  let arr := s.core.arr
  match o with
  | .mcfg float wfmt sparse =>
    { s with core := { s.core with arr := { arr with shadow := { arr.shadow with float := float, wfmt := wfmt, sparse := sparse } } } }
  | .mswap =>
    let s := s.setV { s.core.v with flight := s.core.v.flight.map fun f => match f.op with | .m o => bif mIsMac o then { f with old := !f.old } else f | .ab .. => f }
    { s with core := { s.core with arr := { arr with active := arr.shadow, shadow := { arr.active with wrote := false, kwSet := false } } } }
  | _ => s

/-! ### The bundle (R25, R26, R123, R124) -/

/-- Under replay, this core's next recorded rebind, when it was made at this TICK: its number (R253). -/
def State.replayedCut (s : State) : Option Nat :=
  let p := s.myPart
  bif (s.part p).repMode == 2 then
    match s.repMine p [5] with
    | some i => bif (s.repAt p i).2.2.1 == s.core.csr.tick.toNat then some i else none
    | none => none
  else none
/-- The symbols with the pending values to be applied at a cut now: under replay a pin that would rebind waits for its recorded rebind (R249, R253; log 46,
DEDUCED). -/
def State.requests (s : State) : List (SReg × BitVec 6 × Bool) :=
  let waits := (s.part s.myPart).repMode == 2 && s.replayedCut.isNone
  allStreams.filterMap fun i => match (s.sym i).mon.req with
    | some (v, pin) => bif waits && v != (s.sym i).bind then none else some (i, v, pin)
    | none => none
/-- The items of R27 pending now; under replay, a rebind recorded for this TICK (R253; log 46, DEDUCED). -/
def State.cutPending (s : State) : Bool :=
  let c := s.core.ctx
  !s.requests.isEmpty || s.core.dbg.stopReq || c.leave == some .cutStop || s.yieldDue || c.newCode ||
    s.core.ten.pending || s.core.ten.sfLater || s.replayedCut.isSome

/-- A breakpoint stands on the cut bundle before V, in this loop iteration (R272). -/
def State.bpHit (s : State) : Bool :=
  let v := s.core.v
  s.core.dbg.bps.any fun b => b.va == v.pc && b.part == s.core.ctx.part && b.vf == s.core.ctx.vf &&
    match b.iter with
    | none => true
    | some n => match v.loops with | l :: _ => l.index.toNat == n | [] => false

/-- The bundle's term k·LBIND[sym] names an unused symbol (R56). -/
def State.symBad (s : State) (b : Bundle) : Bool := b.k != 0 && !(s.sym b.sym).isUsed

/-- T(n) of R25. -/
def State.issueTick (s : State) (b : Bundle) : Nat := s.core.v.tPrev + 1 + b.c.toNat + b.k.toNat * (s.sym b.sym).bind.toNat

/-- The check of R248 once V stands before its next bundle: what is pending for a cut there, that a yield had been asked for, and whether a step that it
counts waits (R290). -/
def State.lookAhead (s : State) : State :=
  s.setV { s.core.v with look := s.cutPending || s.bpHit, lookYield := s.core.ctx.yield_.isSome, lookDue := s.yieldDue }

/-- The bundle issues at tick t, the current TICK: its slots start, and those whose first beat is this tick's beat (R203, R206, R232); then its T slot, tokens and shape take effect at the end of the
tick (R57, R123; log 31, DEDUCED). -/
def State.issueAt (s : State) (b : Bundle) (t : Nat) : State :=
  let on := s.guardOn b
  let s := bif on then
      let s := ((s.startM b t).startAB b .a b.a t).startAB b .b b.b t
      let s := s.asksFor (bundlePops b s.core.v.shape.f)
      ((s.mSchedule s.core.v.flight []).wake t).beatCount t s.core.v.seq
    else s
  let s := s.tokIssue .v b.tok
  let s := ((s.tEffect b.t t).loopSnapshot s.core.v.loops).tokRetire .v b.tok
  let s := bif on then ((s.mEffect b.m).shapeEffect b.a).shapeEffect b.b else s
  let s := s.setV { s.core.v with tPrev := t, seq := s.core.v.seq + 1, blocked := false, atCut := false }
  s.lookAhead.touch.count 0x03 1

/-- A bundle comes to issue (R25, R26, R124): V drains before a cut mark with an item pending; else ticks are taken up to its issue
tick, where it holds, raises a cause, or issues. While it holds TICK shows T(n) - 1, the tick before the one it is due at: the spec says only
that TICK does not advance (log 67, DEDUCED). -/
def State.issueBundle (s : State) (b : Bundle) : State :=
  let v := s.core.v
  bif v.halted || v.ended then s.hold .v
  else bif v.drain then s.hold .v
  else bif b.cut && !v.atCut && v.look then s.setV { v with drain := true, drained := 0, blocked := false }
  else
  let s := bif b.cut && !v.atCut && v.lookYield then (s.setCtx { s.core.ctx with yield_ := none }).setV { v with lookYield := false } else s
  bif s.symBad b then s.raise .v 0x01 (bundleTval b) v.pc
  else
    let t := s.issueTick b
    let r := s.vAdvance (t - 1 - s.core.csr.tick.toNat)
    bif !r.2 then r.1
    else
      let s := r.1
      let on := s.guardOn b
      bif !s.tOk b.t then s.raise .v 0x01 (bundleTval b) v.pc
      else bif !s.tReady b.t || !s.tokReady .v b.tok || (on && s.mswapHeld b) then s.hold .v
      else
        match (bif on then s.slotCause b else none) with
        | some (c, tval) =>
          let u := s.tickAsks
          match u.tickMade with
          | .error h => bif decide (h.code < c.toNat) then (match u.heldTick h with | .caused s => s | _ => s) else s.raise .v c tval v.pc
          | .ok _ => s.raise .v c tval v.pc
        | none =>
          match s.vTick with
          | .stretched s r => s.stretchOn r
          | .caused s => s
          | .took s => s.issueAt b t

/-- V_BUNDLE_ISSUE (R25). -/
def execVBundleIssue (b : Bundle) (s : State) : Out := .next (s.issueBundle b)

end Sys2Proof.Machine
end

