-- ==== Sys2Proof/Machine/Place.lean ====
section
/-! DEFINITION. Shadow task slots: which step fills a free slot (R279, R359), its prologue (R271, R281, R282), and the start of a step
(R22, R35, R149, R152, R182, R271, R283). -/

namespace Sys2Proof.Machine

/-- A saved step placed in a slot. -/
def savedSlot (z : Saved) (i : StepId) : ShadowSlot := ⟨i, z.ctx.cast.getD CastOn.zero, z.part, z.vf, [], [], [], 0, true, .restored⟩
/-- Step n of a block in a slot. -/
def slotOf (x : Part) (p : BitVec 3) (b : Block) (n : Nat) : ShadowSlot :=
  ⟨⟨b.addr, n, b.rst, b.gang, some b.queue, 0⟩, b.castOn n, p, x.vfOf b.queue, [], [], [], 0, false, .staging⟩
/-- A block's next step in a slot. -/
def nextSlot (x : Part) (p : BitVec 3) (b : Block) : ShadowSlot := slotOf x p b b.next
/-- A step fills a slot of this core. -/
def State.pushSlot (s : State) (l : ShadowSlot) : State := s.setCtx { s.core.ctx with slots := s.core.ctx.slots ++ [l] }
/-- CORENUM of a core of this cluster (R114). -/
def State.peerNum (s : State) (core : BitVec 3) : Word32 := s.corenum &&& ~~~7 ||| core.setWidth 32
/-- A step waiting to come back to a slot: a saved one of these, else one to be placed again (R359, R374). -/
def State.fillBack (s : State) (p : BitVec 3) (mine : StepId → Bool) : Option State :=
  match s.savedOf p mine with
  | some z => z.ctx.running.map fun i => s.pushSlot (savedSlot z i)
  | none => (s.backOf p mine).map fun l => State.pushSlot (s.setPart p { s.part p with back := (s.part p).back.erase l }) l
/-- A step of a block is handed to a core of the cluster, which `put` makes of it, and shown to chxdbg (R306): recorded, or taken as recorded once its
record comes; what differs from its record diverges (R404, R405; log 23, DESIGN CHOICE). -/
def State.handStep (s : State) (p : BitVec 3) (b : Block) (n : Nat) (core : Word32) (put : State → State) : State :=
  let data := core.toNat + n % 2 ^ 32 * 2 ^ 32
  let put := fun (s : State) => put (s.show [0x101, b.addr.toNat, n, (vget (b.castOn n).k 0 0).toNat, core.toNat])
  bif (s.part p).repMode == 2 then
    let r := s.repNext p
    bif r.1 != 8 || r.2.2.2.2 % 2 ^ 32 != core.toNat then s
    else bif r.2.2.2.1 == b.addr.toNat && r.2.2.2.2 == data then put (s.repTake p)
    else s.diverge p r [8, 0, s.tstamp, b.addr.toNat, data]
  else put (s.record p 8 0 (BitVec.ofNat 64 s.tstamp) b.addr (BitVec.ofNat 64 data))

/-- The block whose next step fills a free slot: one that a guard has freed the core for, else the chosen one (R359, R361). -/
def State.chosen (s : State) (p : BitVec 3) : Option Block :=
  let cands := s.candidates p
  (cands.find? (·.guarded)).orElse fun _ => (s.part p).choose (s.part p).ptrCl s.tstamp cands
/-- A step of a block has been placed: its TW starts again, and the pointer stands at its queue, unless a guard chose it (R359, R361). -/
def State.placedOf (s : State) (p : BitVec 3) (b : Block) : State :=
  let x := s.part p
  s.setPart p { x.setBlock { b with tw := some s.tstamp } with ptrCl := bif b.guarded then x.ptrCl else b.queue }
/-- A gang's share can be placed: each of its steps has a core (R284). -/
def Block.fits (b : Block) : Bool := b.cores.length == b.past - b.first
/-- A gang's share is placed, each step at its core, the first when its record comes (R284, R306). -/
def State.placeGang (s : State) (p : BitVec 3) (b : Block) : State :=
  let steps := (List.range (b.past - b.next)).zip b.cores
  let mine := fun (c : BitVec 3) (n : Nat) (s : State) => bif c == s.pkg.core then s.pushSlot (slotOf (s.part p) p b n) else s
  match steps.map (·.2) with
  | [] => s
  | c :: _ =>
    let r := s.repNext p
    bif (s.part p).repMode == 2 && (r.1 != 8 || r.2.2.2.2 % 2 ^ 32 != (s.peerNum c).toNat) then s
    else
      let s := steps.foldl (fun s x => s.handStep p b (b.next + x.1) (s.peerNum x.2) (mine x.2 (b.next + x.1))) s
      s.placedOf p { b with next := b.past, others := b.others && steps.all fun x => x.2 == s.pkg.core }
/-- The next step of a block is placed here; a gang's share as a whole, once it fits (R279, R284). -/
def State.placeNext (s : State) (p : BitVec 3) (b : Block) : State :=
  bif b.gang then bif b.fits then s.placeGang p b else s
  else s.handStep p b b.next s.corenum fun s => (s.pushSlot (nextSlot (s.part p) p b)).placedOf p { b with next := b.next + 1 }

/-- A slot filled: with a step of the block that comes next, or with a launched step that waits to come back. While a gang is the chosen one and does not
fit, the slot is kept for it (R279, R284, R359, R361; log 47, DESIGN CHOICE). -/
def State.fillSlot (s : State) (p : BitVec 3) : State :=
  match s.chosen p with
  | some b =>
    match s.fillBack p b.mine with
    | some s => s.placedOf p b
    | none => s.placeNext p b
  | none => (s.fillBack p StepId.launched).getD s

/-- No step of a block waits to come back to this core. -/
def State.allUnplaced (s : State) (p : BitVec 3) (b : Block) : Bool := (s.savedOf p b.mine).isNone && (s.backOf p b.mine).isNone

/-! ### The prologue (R271, R281, R282) -/

/-- What a read of the hardware on a step's behalf answers. -/
inductive Got
  | ok (b : List Byte)
  | fail (f : XFail) (va : Word64)
  | waits

/-- Bytes at virtual addresses of a context, read in order. -/
def State.readVas (s : State) (w : Who) : List Word64 → List Byte → Got
  | [], acc => .ok acc.reverse
  | va :: t, acc =>
    match s.xlate w va .rd with
    | .error .waits => .waits
    | .error f => .fail f va
    | .ok pa => bif s.waitsAt true pa then .waits else s.readVas w t (s.rd8 pa :: acc)
/-- n bytes from an address of a context. -/
def State.readVa (s : State) (w : Who) (va : Word64) (n : Nat) : Got := s.readVas w ((List.range n).map fun i => va + BitVec.ofNat 64 i) []

/-- Why a prologue does not make its slot runnable. -/
inductive ProStop
  | refused (tval : Word64)
  | fault (source : Nat) (f : XFail) (va : Word64)
  | waits

/-- A prologue's read, from a source of R282. -/
def State.proRead (s : State) (l : ShadowSlot) (src : Nat) (va : Word64) (n : Nat) : Except ProStop (List Byte) :=
  match s.readVa ⟨l.part, l.vf, true⟩ va n with
  | .ok b => .ok b
  | .fail f va => .error (.fault src f va)
  | .waits => .error .waits


/-- The record of the slot, filled and within its limits (R152, R280, R282). -/
def State.proRecord (s : State) (l : ShadowSlot) (blk : Option Block) : Except ProStop CastOn := do
  let c ← match l.filled, blk with
    | false, some b => (s.proRead l 0xb0 (b.template + 0x38) 0x38).map fun raw => l.cast.withTemplate (CastOn.ofBytes (List.replicate 0x38 0 ++ raw))
    | _, _ => .ok l.cast
  match c.bad with
  | some off => .error (.refused (BitVec.ofNat 64 off))
  | none =>
    bif decide (s.core.pool.top < (vget c.pb 0 0).toNat) then .error (.refused 0x60)
    else bif decide (s.core.pool.top < (vget c.pb 1 0).toNat) && s.pkg.fallFull then .error (.refused 0x64) else .ok c

/-- The sensitivity table of the step's block (R271, R282). -/
def State.proTable (s : State) (l : ShadowSlot) (blk : Option Block) : Except ProStop (List TNode) :=
  match blk with
  | none => .ok []
  | some b =>
    bif b.sens == 0 then .ok []
    else do
      let raw ← s.proRead l 0xb8 b.sens (16 * b.nodes)
      bif tableOk raw b.nodes then .ok (parseTable raw b.nodes) else .error (.refused 0x1b8)

/-- The demand that the running step holds, if it is of the same block (R271). -/
def State.runningDemand (s : State) (p : BitVec 3) (i : StepId) : Nat :=
  match s.core.ctx.running, s.core.ten.held with
  | some j, some h => bif i.same j && s.myPart == p then h.demand else 0
  | _, _ => 0

/-- A step's tension unit: its demand divided from the start of the step (R271). -/
def tensionOf (tab : List TNode) (b : Nat) : Tension × Dividing :=
  let r := divideTable tab (Vector.replicate 8 none) b
  bif b == 0 || tab.isEmpty then (Tension.zero, ⟨[], false, []⟩)
  else
    let h : Held := ⟨tab, b, r.div⟩
    ({ Tension.zero with held := some h, sfShare := h.sf }, r)

/-- An operand's descriptor, positioned and checked as sb.go checks it (R281). -/
def State.proDesc (s : State) (l : ShadowSlot) (b : Block) (c : CastOn) (i : Nat) : Except ProStop Desc := do
  let raw ← s.proRead l i (b.opDesc i) 64
  let bad : Except ProStop Desc := .error (.refused (BitVec.ofNat 64 (0x100 + i)))
  match (Desc.ofBytes raw).position (b.moves i c) with
  | none => bad
  | some d => bif d.ok && (raw.drop 54).take 2 == [0, 0] then .ok d else bad

/-- The elements that a KIND 2 operand copies, in pattern order (R281). -/
def Desc.packed (d : Desc) : List Word64 :=
  (List.range d.len).flatMap fun e => match d.elem e with
    | some x => (List.range (fmtSize d.fmt)).map fun j => x.1 + BitVec.ofNat 64 j
    | none => []

/-- A KIND 2 operand: where its bytes go, and the bytes (R281). -/
def State.proCopy (s : State) (l : ShadowSlot) (b : Block) (c : CastOn) (i : Nat) : Except ProStop (Nat × List Byte) := do
  let d ← s.proDesc l b c i
  let n := d.len * fmtSize d.fmt
  bif d.isPlane || d.winen || !decide ((vget c.pb 0 0).toNat ≤ b.opPool i ∧ b.opPool i + n ≤ (vget c.pb 1 0).toNat) then
    .error (.refused (BitVec.ofNat 64 (0x100 + i)))
  else
    match s.readVas ⟨l.part, l.vf, true⟩ d.packed [] with
    | .ok bs => .ok (b.opPool i, bs)
    | .fail f va => .error (.fault i f va)
    | .waits => .error .waits

/-- A staged input stream's next two blocks, as far as there are so many, fetched ahead (R282). -/
def Desc.stageAhead (d : Desc) : Desc :=
  bif d.out then d
  else
    let n := bif (d.positions 2 0).isSome then 2 else bif (d.positions 1 0).isSome then 1 else 0
    { d with ahead := List.replicate n (BitVec.ofNat 4 d.planes) }
/-- A staged stream under the settings of the step's start: blocks fetched ahead with fewer planes are fetched again (R271). -/
def Desc.restage (d : Desc) (t : Tension) (r : SReg) : Desc :=
  let d := t.set r d
  bif d.ahead.all fun k => decide (d.planes ≤ k.toNat) then d else { d with ahead := [] }
/-- The lines that the fetch ahead of a slot's streams reads (R308). -/
def State.stageCounts (s : State) (l : ShadowSlot) : State :=
  l.binds.foldl (fun s x =>
    let ps := (x.2.positions x.2.ahead.length 0).getD []
    s.l1Hits (((x.2.carried ps).filterMap fun e => (x.2.elem e).map (·.1)).filterMap fun va => s.ctxPa l.part l.vf va)) s

/-- The prologue of a slot's step, in the order of R282. -/
def State.prologue (s : State) (l : ShadowSlot) : Except ProStop ShadowSlot := do
  let blk := (s.part l.part).blockOf l.id
  let c ← s.proRecord l blk
  let tab ← s.proTable l blk
  let b0 := match blk with | some b => Nat.max b.demand (s.runningDemand l.part l.id) | none => 0
  let ops := fun (k : Nat) => match blk with | some b => (List.range 6).filter fun i => b.opKind i == k | none => []
  let binds ← (ops 1).mapM fun i => match blk with
    | some b => (s.proDesc l b c i).map fun d => (BitVec.ofNat 3 (b.opS i), d)
    | none => .error .waits
  let copies ← (ops 2).mapM fun i => match blk with
    | some b => s.proCopy l b c i
    | none => .error .waits
  let t := (tensionOf tab b0).1
  let binds := binds.map fun x => (x.1, (x.2.start t x.1).stageAhead)
  .ok { l with cast := c, filled := true, table := tab, demand := b0, binds := binds, copies := copies, stage := .runnable }

/-- The record of a prologue's translation fault (R282, R366). -/
def State.proFaultRec (s : State) (l : ShadowSlot) (src : Nat) (va : Word64) : FaultRec :=
  { plainRec 0x34 va (BitVec.ofNat 32 src) 0 with await := true, core := s.corenum, block := l.id.block, number := BitVec.ofNat 32 l.id.number }

/-- A step refused: it fails now, and the core takes its cause when it is free (R283, R365). -/
def State.refuseSlot (s : State) (n : Nat) (l : ShadowSlot) (t : Word64) : State :=
  (s.setCtx { s.core.ctx with slots := s.core.ctx.slots.set n { l with stage := .refused t } }).failStep l.part l.id
/-- The prologue run on slot n (R282). -/
def State.runPrologue (s : State) (n : Nat) (l : ShadowSlot) : State :=
  let put := fun (s : State) (l : ShadowSlot) => s.setCtx { s.core.ctx with slots := s.core.ctx.slots.set n l }
  let s := s.owe l.part l.id.queue
  match s.prologue l with
  | .ok l => put (s.stageCounts l) l
  | .error .waits => s
  | .error (.refused t) => s.refuseSlot n l t
  | .error (.fault src f va) =>
    let tval := BitVec.ofNat 64 (0x100 + src)
    match f with
    | .noTrans =>
      bif s.fqRoom l.part then
        let seq := (s.part l.part).seq
        put (s.post l.part (s.proFaultRec l src va)) { l with stage := .answer seq src }
      else s.refuseSlot n l tval
    | _ => s.refuseSlot n l tval

/-- The first slot that a prologue has still to make ready. -/
def State.stagingSlot (s : State) : Option (Nat × ShadowSlot) :=
  (List.range s.core.ctx.slots.length).findSome? fun n => match s.core.ctx.slots[n]? with
    | some l => bif decide (l.stage = .staging) then some (n, l) else none
    | none => none

/-- A step may be placed in a free slot now. -/
def State.mayFill (s : State) : Option (BitVec 3) :=
  match s.sitePart with
  | some p => bif decide (s.core.ctx.slots.length < 2) && !s.siteDrained && !s.inReset Config.cfgTask && (s.part p).switch_.isNone &&
      (!(s.candidates p).isEmpty || (s.savedOf p StepId.launched).isSome || (s.backOf p StepId.launched).isSome) then some p else none
  | none => none

/-- Another core of the cluster takes the chosen block's next step: a lower-numbered one, or any when this core has no slot for it (R279). -/
def State.peerPlace (s : State) (p : BitVec 3) (core : BitVec 3) : State :=
  match s.chosen p with
  | some b =>
    bif s.sitePart != some p || (s.part p).switch_.isSome || b.gang || core == s.pkg.core || (decide (s.pkg.core.toNat < core.toNat) && s.mayFill.isSome) ||
        !s.allUnplaced p b then s
    else s.handStep p b b.next (s.peerNum core) fun s => s.placedOf p { b with next := b.next + 1, others := false }
  | none => s
/-- The chosen gang's share has a slot at each of these cores, in ascending order; when this core is none of them it is placed at once (R284). -/
def State.gangRoom (s : State) (p : BitVec 3) (cores : List (BitVec 3)) : State :=
  match s.chosen p with
  | some b =>
    let b' := { b with cores := cores }
    let rising := (cores.zip cores.tail).all fun x => decide (x.1.toNat < x.2.toNat)
    bif s.sitePart != some p || !b.gang || !b'.fits || !rising || !s.allUnplaced p b then s
    else
      let s := s.setPart p ((s.part p).setBlock b')
      bif cores.contains s.pkg.core then s else s.placeGang p b'
  | none => s

/-- STEP_PLACE: a step is placed in an empty slot and its prologue runs; a slot left staging is tried again (R279, R282). -/
def execStepPlace (s : State) : Out :=
  .next (match s.stagingSlot with
    | some (n, l) => s.runPrologue n l
    | none =>
      match s.mayFill with
      | none => s
      | some p =>
        let s := s.fillSlot p
        match s.stagingSlot with | some (n, l) => s.runPrologue n l | none => s)

/-! ### The start of a step (R22, R283) -/

/-- x1 to x6 and y1 to y6 hold k0 to k5; every other register is zero (R22). -/
def kRegs {w n : Nat} (c : CastOn) : Vector (BitVec w) n :=
  Vector.ofFn fun i => bif decide (1 ≤ i.val ∧ i.val ≤ 6) then (vget c.k (i.val - 1) 0).setWidth w else 0
/-- An L or S strand at a step's start: idle with entry PC 0 (R22). -/
def LSStrand.atStart (c : CastOn) (pc : Word64) : LSStrand := { LSStrand.idle with regs := kRegs c, pc := pc, ended := pc == 0 }
/-- V at a step's start (R22, R25). -/
def VStrand.atStart (c : CastOn) (tick : Nat) : VStrand :=
  { VStrand.idle with regs := kRegs c, pc := vget c.pcs 2 0, ended := false, shape := Shape.start (vget c.pb 0 0), tPrev := tick }
/-- C at a step's start. -/
def CStrand.atStart (c : CastOn) : CStrand := { CStrand.idle with regs := kRegs c, pc := vget c.pcs 0 0, run := .ready }
/-- A symbol at a step's start (R19, R22). -/
def Sym.atStart (w : Word32) : Sym := let (lo, hi, ini, src) := symFields w; { bind := ini, lo := lo, hi := hi, src := src, mon := Mon.zero }
/-- The CSRs at a step's start: TICK, CYCLE, DROOPTH and the permits stand; SLIP, the trap enables, the symbols, the pool boundaries
and the domains are the record's (R19, R22, R251, R267). -/
def Csrs.atStart (x : Csrs) (c : CastOn) (dmdx : Word64) : Csrs :=
  { x with
    trapen := c.trapen.extractLsb' 0 3, slip := Vector.ofFn fun i => c.slip.extractLsb' (4 * i.val) 4, stretch := 0, boundx := 0,
    retime := 0, dmdx := dmdx, sym := c.syms.map Sym.atStart, pb := c.pb, domain := c.domain }

/-- The L1 region after its boundaries: emptied where they change (R149). -/
def Core.l1For (k : Core) (pb : Vector Word32 3) : List Nat := bif k.csr.pb == pb then k.l1 else []
/-- A step starts from its slot (R22, R35, R150, R182, R226, R271, R283, R344, R348). -/
def State.startStep (s : State) (l : ShadowSlot) : State :=
  let k := s.core
  let c := l.cast
  let carry := match k.ctx.prev with | some (i, p, d) => bif l.id.same i && p == l.part then d else 0 | none => 0
  let r := tensionOf l.table (Nat.max l.demand carry)
  let dmdx := dmdxAfter 0 r.2
  let t := r.1
  let tvec := ((s.part l.part).vf l.vf).tvecw &&& ~~~3
  let str : Vector Desc 8 := Vector.ofFn fun i => match l.binds.find? fun b => b.1.toNat == i.val with
    | some b => b.2.restage t b.1
    | none => Desc.zero
  let s := { s with core := { k with
      c := CStrand.atStart c, l := LSStrand.atStart c (vget c.pcs 1 0), v := VStrand.atStart c k.csr.tick.toNat,
      s := LSStrand.atStart c (vget c.pcs 3 0), q := Queues.empty,
      trap := { k.trap with mode := false, frz := false, tvec := tvec, wait := none, noStep := .no, dog := 0 }
      csr := k.csr.atStart c dmdx
      pool := { k.pool with cells := [], epoch := k.pool.epoch + 1 }
      l1 := k.l1For c.pb
      str := str, arr := ⟨Plane.zero, Plane.zero, Vector.replicate 2 Acc.zero⟩
      eng := { k.eng with copy := [], gather := [], wstore := [] }, mig := ⟨Vector.replicate 8 none, 0, 0⟩, ten := t
      nb := { k.nb with slots := NearBank.zero.slots, records := NearBank.zero.records, faultVa := 0 }
      fpc := Vector.replicate 12 0
      ctx := { k.ctx with running := some l.id, cast := some c, part := l.part, vf := l.vf, newCode := false, yield_ := none, leave := none,
                          bindOff := false, cWords := 0, prev := none, live := 0, rates := [] }
      dbg := { k.dbg with bank := [] } } }
  let s := l.copies.foldl (fun s x => (s.poolWrite x.1 x.2).fallCount x.1 x.2.length) s
  let s := s.swTrace l.part "start" [l.vf.toNat, l.id.number, s.core.csr.tick.toNat]
  let s := bif l.id.queue.isNone then s.show [0x100, s.core.csr.tick.toNat] else s
  s.lookAhead.unmetCause (!r.2.unmet.isEmpty)

/-- New code becomes visible to all four strands: what they hold is dropped (R27, R119, R302). -/
def State.showCode (s : State) : State :=
  let s := s.setCtx { s.core.ctx with newCode := false }
  let s := (((s.setHeld .c []).setHeld .l []).setHeld .v []).setHeld .s []
  s.acked

/-- The last two items of R27: new code, then the re-demand. -/
def State.laterItems (s : State) : State := (bif s.core.ctx.newCode then s.showCode else s).demandAtCut

/-- The saved context of a slot's step comes back, exactly as it was left (R363; log 59, DEDUCED); at a cut, with the items of R27 that follow the
cut-stop applied. -/
def State.restoreStep (s : State) (z : Saved) : State :=
  let k := s.core
  let s : State := { s with core := { k with
      c := z.c, l := z.l, s := z.s, v := z.v, q := z.q, trap := { z.trap with dog := 0 }
      csr := { z.csr with cycle := k.csr.cycle, tick := z.csr.tick, drLevel := k.csr.drLevel, drMt := k.csr.drMt, permit := k.csr.permit,
                          half := k.csr.half, str := k.csr.str }
      pool := { k.pool with cells := z.pool, epoch := z.epoch }, l1 := k.l1For z.csr.pb
      str := z.str, arr := z.arr, eng := z.eng, mig := z.mig, ten := z.ten
      nb := { k.nb with slots := z.nbSlots, records := z.nbRecs, cmds := k.nb.cmds ++ z.nbCmds, faultVa := z.nbFaultVa }
      fpc := z.fpc
      ctx := { z.ctx with slots := k.ctx.slots }
      dbg := { k.dbg with bank := z.bank } } }
  let s := (s.owe z.part s.payer).nbTrace "restore"
  bif z.atCut then s.laterItems else s

/-- A slot's step may start: of the resident virtual function, its gang's other members ready with it (R284, R370, R372). -/
def State.startable (s : State) (l : ShadowSlot) : Bool :=
  let x := s.part l.part
  l.vf == x.resident &&
    match l.stage with
    | .runnable => !l.id.gang || (match x.blockOf l.id with | some b => b.mates | none => true)
    | .restored => true
    | _ => false
/-- The block that a guard's cut-stop has freed the core for, with no step of it started since (R361). -/
def State.guardedBlock (s : State) : Option Block := s.sitePart.bind fun p => (s.candidates p ++ (s.part p).blocks.filter fun b => s.core.ctx.slots.any fun l => l.part == p && b.mine l.id).find? (·.guarded)
/-- The slot whose step comes next: a refused one, whose cause the core takes first (R283); a step of the block that a guard has freed the core for
(R361); else the first placed that may start. -/
def State.nextStart (s : State) : Option ShadowSlot :=
  let l := s.core.ctx.slots
  match l.find? fun l => match l.stage with | .refused _ => true | _ => false with
  | some r => some r
  | none =>
    match s.guardedBlock with
    | some b => l.find? fun l => b.mine l.id && s.startable l
    | none => l.find? s.startable
/-- The guard of the step's block ends as a step of it starts (R361). -/
def State.unguard (s : State) (l : ShadowSlot) : State :=
  match (s.part l.part).blockOf l.id with
  | some b => bif b.guarded then s.setPart l.part ((s.part l.part).setBlock { b with guarded := false }) else s
  | none => s
/-- Nothing runs on the core, no trap of R42 is handled, and nothing keeps a step from starting there: no world switch of its partition, no drain of its
site, no reset that its image holds it in (R374, R384, R389). -/
def State.coreFree (s : State) : Bool :=
  !s.stepOn && decide (s.core.trap.noStep = .no) && !s.sup && !s.siteDrained && !s.inReset Config.cfgCore &&
    (match s.sitePart with | some p => (s.part p).switch_.isNone | none => true)

/-- STEP_START: the next runnable step starts; of a refused step the cause is taken (R42, R283). -/
def execStepStart (s : State) : Out :=
  .next (bif !s.coreFree then s
    else
      match s.nextStart with
      | none => s
      | some l =>
        let s := s.setCtx { s.core.ctx with slots := s.core.ctx.slots.erase l }
        match l.stage with
        | .refused tval =>
          let s := s.setCtx { s.core.ctx with part := l.part, vf := l.vf, prev := none }
          s.takeTrapNoStep .caston 0x12 tval 0 (((s.part l.part).vf l.vf).tvecw &&& ~~~3) s.core.trap.tqocc
        | .restored =>
          let s := s.unguard l
          match (s.part l.part).saved.find? fun z => z.ctx.running == some l.id && z.vf == l.vf with
          | some z => (s.setPart l.part { s.part l.part with saved := (s.part l.part).saved.erase z }).restoreStep z
          | none => s
        | _ => (s.unguard l).startStep l)

end Sys2Proof.Machine
end

