-- ==== Sys2Proof/Machine/StepEnd.lean ====
section
/-! DEFINITION. The end of a step (R23, R179, R190, R199, R347), its exception record (R180), and the saving of a step's context (R363). -/

namespace Sys2Proof.Machine

/-! ### Exception records (R179, R180) -/

/-- The record of type 0x36, once for a block. -/
def State.excFail (s : State) (p : BitVec 3) (b : Block) : State :=
  bif b.excPost then s
  else
    let s := s.setPart p ((s.part p).setBlock { b with excPost := true })
    s.post p { plainRec 0x36 b.excRec 0xe8 0 with block := b.addr }
/-- The bytes of an exception record as the device writes them, for which it needs WR and TK: their physical address (R180). -/
def State.excPa (s : State) (p : BitVec 3) (v : BitVec 2) (va : Word64) : Option Nat :=
  match s.xlate ⟨p, v, true⟩ va .wr with | .ok pa => some pa | .error _ => none
/-- A write of a block's exception record waits for a flip or a lease (R308, R322). -/
def State.excHeld (s : State) (p : BitVec 3) (b : Block) : Bool :=
  b.excRec != 0 && match s.xlate ⟨p, (s.part p).vfOf b.queue, true⟩ b.excRec .wr with
    | .ok pa => s.writeHeld (span pa 64) || s.orderWaits 6 pa | .error .waits => true | .error _ => false
/-- A block's exception record is zeroed when the block is first chosen. -/
def State.excZero (s : State) (p : BitVec 3) (b : Block) : State :=
  bif b.excRec == 0 then s
  else
    match s.excPa p ((s.part p).vfOf b.queue) b.excRec with
    | some pa => (s.orderAt 6 true pa).unitStore (cellsAt pa (List.replicate 64 0))
    | none => (s.setPart p ((s.part p).setBlock { b with excBad := true })).excFail p { b with excBad := true }
/-- One count added, at the memory-side cache: an atomic event, with its CROSSED bit and interrupt when it passes the threshold. -/
def State.excAdd (s : State) (p : BitVec 3) (va : Word64) (pa i : Nat) (n : Word32) : State :=
  let x := s.part p
  let s := (s.orderAt 6 true pa).rmwFirst (span (pa + 4 * i) 4 ++ span (pa + 0x30) 4)
  let old := s.rdNat (pa + 4 * i) 4
  let new := Nat.min (old + n.toNat) (2 ^ 32 - 1)
  let crossed := s.rdNat (pa + 0x30) 4
  let past := decide (x.excTh ≠ 0 ∧ old ≤ x.excTh ∧ x.excTh < new)
  let s := s.unitStore (cellsAt (pa + 4 * i) (leBytes 4 new) ++ bif past then cellsAt (pa + 0x30) (leBytes 4 (crossed ||| 2 ^ i)) else [])
  bif past && !crossed.testBit i then s.msi p 0 2 (va.toNat * 16 + i) else s
/-- A step's twelve counts added to its block's record. -/
def State.excCounts (s : State) (p : BitVec 3) (b : Block) (n : Vector Word32 12) : State :=
  bif b.excRec == 0 || b.excBad then s
  else
    let v := (s.part p).vfOf b.queue
    match s.excPa p v b.excRec with
    | some pa => (List.range 12).foldl (fun s i => s.excAdd p b.excRec pa i (vget n i 0)) s
    | none => s.excFail p b

/-! ### The bind-off bundle (R23) -/

/-- L or S has executed end, or was idle. -/
def LSStrand.done (x : LSStrand) : Bool := x.ended && x.pend.isEmpty
/-- The commands that are left are all the copy engine's, written, and wait for their publish alone: a deferred one, and what follows it (R190). -/
def Engines.onlyDeferred (e : Engines) : Bool := e.gather.isEmpty && e.copy.all fun c => c.data && c.written && !c.published && c.fault.isNone
/-- C, L and S have ended, no trap is handled or pending, no V operation is in flight, and no near-bank command is left (R23, R39). -/
def State.strandsDone (s : State) : Bool :=
  let k := s.core
  s.stepOn && k.v.halted && k.v.flight.isEmpty && k.l.done && k.s.done && decide (k.c.run = .ended) && !s.sup && k.trap.wait.isNone &&
    k.trap.pend == 0 && (k.nb.cmds.all (·.gone))
/-- The bind-off bundle may retire, or its drain may publish. -/
def State.bindOffReady (s : State) : Bool := s.strandsDone && s.core.eng.onlyDeferred

/-- A queue or token FIFO holds entries (R23). -/
def State.residue (s : State) : Bool :=
  let q := s.core.q
  !(q.qcl.isEmpty && q.qcv.isEmpty && q.qcs.isEmpty && q.qbr.isEmpty && q.qvc.isEmpty && q.ecq.isEmpty && q.sub.isEmpty &&
    q.tok.all fun f => f.occ == 0)

/-- The step's counts go to its block's record; a gang's are held until its block completes (R179). -/
def State.stepCounts (s : State) : State :=
  let p := s.myPart
  match s.core.ctx.running with
  | some i => match (s.part p).blockOf i with
    | some b =>
      bif i.gang then
        s.setPart p ((s.part p).setBlock { b with exc := Vector.ofFn fun j => satAdd (b.exc.get j) (s.core.fpc.get j).toNat
                                                  ended := s.core.ctx.cast.map fun c => (i, c) })
      else s.excCounts p b s.core.fpc
    | none => s
  | none => s

/-- The step ends (R23): its weight-store bytes are published, a bank fence is made, its counts are added, and what its queues
still hold is discarded under cause 0x14. -/
def State.endStep (s : State) : State :=
  let s := s.flushStore.bankFence
  let s := s.publishCells s.core.eng.wstore true
  let s := s.stepCounts
  let left := s.residue
  let occ := s.occupancies
  let tq := s.tqoccNow
  let k := s.core
  let prev := match k.ctx.running, k.ten.held with
    | some i, some h => bif i.queue.isSome then some (i, k.ctx.part, h.demand) else none
    | _, _ => none
  let t := k.trap
  let s := { s with core := { k with
      c := { k.c with run := .ended, blocked := false, watch := .none, held := [] }
      l := { k.l with ended := true, blocked := false, waits := false, held := [] }
      s := { k.s with ended := true, blocked := false, waits := false, held := [] }
      v := { k.v with ended := true, halted := false, blocked := false, atCut := false, look := false, held := [] }
      q := Queues.empty
      trap := { t with frz := false, dog := 0 }
      str := k.str.map Desc.ended
      eng := { k.eng with copy := [], gather := [], wstore := [] }
      mig := { k.mig with table := Vector.replicate 8 none }
      ctx := { k.ctx with running := none, newCode := false, yield_ := none, leave := none, bindOff := false, prev := prev } } }
  let s := s.acked
  bif left then s.takeTrapNoStep .residue 0x14 occ k.c.pc t.tvec tq else s

/-- What the step's end writes waits for a flip or a lease: the lines of near-bank steps, and its block's exception record (R308, R322, R347). -/
def State.endHeld (s : State) : Bool :=
  !s.bankQuiet || match s.core.ctx.running.bind (s.part s.myPart).blockOf with | some b => !b.gang && s.excHeld s.myPart b | none => false
/-- BIND_OFF_RETIRE: deferred commands are published in one step first, and their completion entries count (R23, R190). -/
def execBindOffRetire (s : State) : Out :=
  .next (bif !s.bindOffReady || s.endHeld then s
    else bif s.core.eng.copy.isEmpty then s.endStep
    else (s.publishCmds fun _ => true).reap)

/-! ### Saving a step (R350, R363) -/

/-- A wait that a save abandons (R318). -/
def CRun.abandoned : CRun → CRun
  | .fence _ => .ready
  | .nbFence => .ready
  | r => r
/-- A line watch is lost when its step leaves the core (R297). -/
def Watch.lose : Watch → Watch
  | .armed l => .lost l
  | w => w

/-- An mwait in progress returns before a pre-emption: 0 or 1 when its watch has fired or is lost, else 4; that of a directed yield sleeps on
(R298, R299). -/
def State.wakeForLeave (s : State) : State :=
  bif s.yieldsAway then s
  else s.endMwait (match s.core.c.watch with | .fired _ => 0 | .lost _ => 1 | _ => 4)
/-- The new bias of a page in a flip takes effect (R322). -/
def State.flipNow (s : State) (page : Nat) : State :=
  match s.mem.flips.find? fun f => f.1 == page with
  | some (_, toHost, _) =>
    let h := s.mem.hostBias.filter (· != page)
    s.setMem { s.mem with flips := s.mem.flips.filter fun f => f.1 != page, hostBias := bif toHost then page :: h else h }
  | none => s
/-- While a save goes on the leases on lines lapse, and the flips, of 20 microseconds at most, come to their ends (R308, R322, R363). -/
def State.lapsed (s : State) : State := (s.mem.flips.map (·.1)).foldl State.flipNow (s.setMem { s.mem with leases := [] })

/-- The step leaves the core with its context saved (R363, R364, R368): the strands come to their boundaries, an mwait returns first, near-bank
commands run on, engine commands already started run to their publish, C's store takes place, the watch is lost, and the wait for the answer to
a forwarded fault of a strand is dropped. -/
def State.saveStep (s : State) (atCut : Bool) : State :=
  bif !s.stepOn then s
  else
    let s := s.owe s.myPart s.payer
    let s := ((State.engDrain 256 s.atBoundary.wakeForLeave.lapsed.nbRun).flushStore).nbTrace "save"
    let k := s.core
    let p := k.ctx.part
    let x := s.part p
    let seq := match k.trap.wait with | some w => w.seq | none => none
    let z : Saved :=
      { part := p, vf := k.ctx.vf, ctx := { k.ctx with slots := [], leave := none, yield_ := none },
        c := { k.c with watch := k.c.watch.lose, run := k.c.run.abandoned, blocked := false }, l := k.l, s := k.s, v := k.v, q := k.q,
        trap := { k.trap with wait := none, dog := 0 }, csr := k.csr,
        pool := k.pool.cells.filter fun c => decide (c.1 < (vget k.csr.pb 1 0).toNat), epoch := k.pool.epoch, str := k.str, arr := k.arr,
        eng := k.eng, mig := k.mig, nbSlots := k.nb.slots, nbRecs := k.nb.records, nbCmds := k.nb.cmds.filter fun c => !c.gone,
        nbFaultVa := k.nb.faultVa, ten := k.ten,
        fpc := k.fpc, bank := k.dbg.bank, atCut := atCut, lost := k.pool.lost }
    let s := s.setPart p { x with saved := x.saved ++ [z], await := x.await.filter fun r => seq != some r.seq }
    let s := (s.setNb { s.core.nb with cmds := s.core.nb.cmds.filter (·.gone) }).nbTrace "save"
    s.emptyCore

/-- CUT_STOP: asked of the next consistent cut; of a core that waits for the answer to a forwarded fault, a freeze at once (R362, R364). -/
def execCutStop (s : State) : Out :=
  .next (match s.core.trap.wait with
    | some w => bif w.seq.isSome then s.saveStep false else s.requestLeave .cutStop
    | none => s.requestLeave .cutStop)
/-- FREEZE: the step is halted at its strands' next instruction boundaries, where each turn leaves them, and saved (R362 to R364). -/
def execFreeze (s : State) : Out := .next (s.saveStep false)
/-- ABANDON: a restartable step runs again from its start; any other is frozen (R362, R364, R365). -/
def execAbandon (s : State) : Out :=
  .next (match s.core.ctx.running with
    | some i => bif i.rst then s.abandonStep false else s.saveStep false
    | none => s)

/-- A slot emptied by a world switch, a drain or a guard: a step that has never run has its record filled afresh (R374). -/
def ShadowSlot.emptied (l : ShadowSlot) : ShadowSlot :=
  { l with binds := [], copies := [], table := [], demand := 0, filled := l.filled && (l.id.queue.isNone || decide (0 < l.id.abandons)), stage := .staging }
/-- The block of the partition that has stood at EP 7 for 1,000 microseconds with no step placed, and for which the running step is to be cut-stopped,
a gang's never, one guard at a time (R361; log 47, DESIGN CHOICE). -/
def State.guardDue (s : State) (p : BitVec 3) : Option Block :=
  let x := s.part p
  match s.core.ctx.running with
  | some i =>
    bif s.myPart != p || i.gang || s.sup || s.core.ctx.leave.isSome || x.blocks.any (·.guarded) then none
    else (s.candidates p).find? fun b =>
      !b.mine i && decide (b.tw.getD s.tstamp + (7 - (x.queue b.queue).prio.toNat) * 256000 + 1000000 ≤ s.tstamp)
  | none => none
/-- The step placed last gives its slot up, when both are taken, and waits to be placed again, or to be restored; a refused one keeps its slot, since the
core takes its cause first (log 47, DESIGN CHOICE). -/
def State.roomForGuard (s : State) : State :=
  match s.core.ctx.slots with
  | [a, l] =>
    let t := s.setCtx { s.core.ctx with slots := [a] }
    let x := s.part l.part
    match l.stage with
    | .staging | .runnable => t.setPart l.part { x with back := x.back ++ [l.emptied] }
    | .answer q _ => t.setPart l.part { x with back := x.back ++ [l.emptied], await := x.await.filter fun r => r.seq != q }
    | .restored => t
    | .refused _ => s
  | _ => s
/-- The guard of a partition acts when it is due; the core that is freed takes a step of the starving block next (R361). -/
def State.guardActs (s : State) (p : BitVec 3) : State :=
  match s.guardDue p with
  | some b => (s.roomForGuard.setPart p ((s.roomForGuard.part p).setBlock { b with guarded := true })).requestLeave .cutStop
  | none => s
/-- STARVATION_GUARD (R361). -/
def execStarvationGuard (p : BitVec 3) (s : State) : Out := .next (s.guardActs p)

end Sys2Proof.Machine
end

