-- ==== Sys2Proof/Machine/MemEvents.lean ====
section
/-! DEFINITION. Memory events that no strand of the core makes: C's retired store (R310), leases and evictions (R297, R307, R308, R331), the
host's accesses and page bias (R320 to R322, R330, R338), Ethernet traffic (R422) and requests from other packages (R319, R412). -/

namespace Sys2Proof.Machine

/-- C_STORE_EVENT: C's retired store takes place (R310). -/
def execCStoreEvent (s : State) : Out := .next s.flushStore

/-- LEASE_LAPSE: the leases on a line have lapsed, and a retired store of C's to it takes place (R308, R310). -/
def execLeaseLapse (line : Nat) (s : State) : Out :=
  let s := s.setMem { s.mem with leases := s.mem.leases.filter fun x => x.line != line }
  .next (match s.core.c.store with
    | some st => bif lineOf (s.norm st.pa) == line then s.flushStore else s
    | none => s)

/-- A corrected error counted for its channel; the record 0x23 when the count passes the threshold (R328, R329, R332). -/
def State.corrected (s : State) (pa : Nat) : State :=
  let ch := bits pa 39 36 * 32 + bits pa 35 31
  let n := kget s.pkg.ecc ch 0 + 1
  let s := s.setPkg { s.pkg with ecc := kset s.pkg.ecc ch n }
  bif n == s.pkg.eccTh + 1 then s.memRec 0x23 pa else s

/-- A line written back whole: out of the L2 to the memory-side cache, or out of that to DRAM; no access of the core's caused it (R376). -/
def State.writeBack (s : State) (line : Nat) : State :=
  match s.mem.l2.find? fun x => x.line == line with
  | some x => s.l2Out x
  | none => s.mscDrop line
/-- A line that an L2 or a memory-side cache holds, or that has bytes still to be written back, is dirty. -/
def State.lineDirty (s : State) (line : Nat) : Bool :=
  match s.mem.l2.find? fun x => x.line == line with
  | some x => x.dirty
  | none => match s.mem.msc.find? fun x => x.line == line with | some x => x.dirty | none => true

/-- DIRTY_EVICTION: a line is written back to the memory-side cache or to DRAM; found uncorrectable while dirty, it is poisoned there and its
owner's partition is told, and while clean it is dropped and counted as corrected (R297, R307, R321, R331, R332, R336; log 58, DEDUCED). -/
def execDirtyEviction (line : Nat) (bad : Bool) (s : State) : Out :=
  let dirty := s.lineDirty line
  let s := s.writeBack line
  let m := s.mem
  let s := s.setMem { m with
    stale := m.stale.filter fun c => lineOf c.1 != line, poison := bif bad && dirty && !m.poison.contains line then line :: m.poison else m.poison }
  .next (bif !bad then s else bif dirty then s.memRec 0x22 (line * 128) else s.corrected (line * 128))

/-! ### The host and Ethernet (R321, R322, R330, R338, R422) -/

/-- A physical address that the host and the Ethernet ports reach: HBM4E and the host's own memory (R320, R324, R379). -/
def State.hostSees (s : State) (pa : Nat) : Bool := match s.region pa with | .hbm | .host => true | _ => false

/-- An answer to an access from outside. -/
def State.answer (s : State) (b : List Byte) (code : Nat) : State := s.setMem { s.mem with answers := (b, code) :: s.mem.answers }

/-- Bytes from an address in pieces that end at multiples of w: address and bytes. -/
def pieces (w : Nat) : Nat → Nat → List Byte → List (Nat × List Byte)
  | 0, _, _ => []
  | _ + 1, _, [] => []
  | n + 1, pa, b => let k := w - pa % w; (pa, b.take k) :: pieces w n (pa + k) (b.drop k)

/-- A read from outside at a line of HBM4E reaches the memory-side cache for the partition that owns its row group (R321, R334). -/
def State.outsideAt (s : State) (pa : Nat) : State :=
  bif decide (s.region pa = .hbm) then s.mscAccess (lineOf (s.norm pa)) (s.ownerOf (s.norm pa)) false else s
/-- A write from outside takes place at the memory-side cache, piece by piece; one that names a guard row has an error completion (R321, R338). -/
def State.outsideWrite (s : State) (w pa : Nat) (b : List Byte) : State :=
  bif (span pa b.length).any s.guardRow then s.answer [] 2
  else (pieces w (b.length + 1) pa b).foldl (fun s x => s.unitStore (cellsAt x.1 x.2)) (s.orderLines 3 true (span pa b.length))

/-- What stands in the memory-side cache or below it (R321). -/
def State.mscByte (s : State) (pa : Nat) : Byte :=
  let a := s.norm pa
  bif khas s.mem.stale a then (kget s.mem.stale a ⟨0, []⟩).old else s.rd8 a
/-- The lines of n bytes. -/
def linesAt (pa n : Nat) : List Nat := ((span pa n).map lineOf).eraseDups
/-- A read from outside is served at the memory-side cache, with the poison indication for a poisoned line (R321, R330). -/
def State.outsideRead (s : State) (pa len : Nat) : State :=
  bif (span pa len).any s.guardRow then s.answer [] 2
  else
    ((linesAt pa len).foldl (fun s l => s.outsideAt (l * 128)) (s.orderLines 3 false (span pa len))).answer ((span pa len).map s.mscByte) (bif (span pa len).any s.poisoned then 1 else 0)

/-- An access from outside waits while a page of its bytes is in a flip, and a write while a lease on a line of them is live (R308, R322). -/
def State.outsideWaits (s : State) (pa len : Nat) (write : Bool) (ag : Nat := 3) : Bool :=
  (span pa len).any fun a => s.inFlip a || (write && s.leased a) || s.homeOff a || s.orderWaits ag a
/-- An access from outside: at its address, now or when it need not wait. -/
def State.outside (s : State) (i : Instr) (pa len : Nat) (write : Bool) (f : State → State) : Out :=
  bif !(span pa len).all s.hostSees then .fault .noSuchAddress
  else bif s.outsideWaits pa len write then .next (s.again (.event i))
  else .next (f s)

/-- The partition of an address replays: its live inputs are held off (R405). -/
def State.heldOff (s : State) (pa : Nat) : Bool := match s.ownerOf (s.norm pa) with | some p => (s.part p).repMode == 2 | none => false

/-- A dword of a host write recorded, with its mask when not all of its bytes are written (R404). -/
def State.recordDword (s : State) (pa : Nat) (b : List Byte) (d : Nat) : State :=
  match s.ownerOf d with
  | some p =>
    let at_ := (List.range 8).map fun i => bif decide (pa ≤ d + i ∧ d + i < pa + b.length) then some (b.getD (d + i - pa) 0) else none
    let mask := ((List.range 8).map fun i => bif ((at_[i]?).join).isSome then 2 ^ i else 0).sum
    let key := BitVec.ofNat 64 s.tstamp
    let s := s.record p 1 0 key (BitVec.ofNat 64 d) (BitVec.ofNat 64 (leNat (at_.map fun x => x.getD 0)))
    bif mask == 255 then s else s.record p 9 0 key (BitVec.ofNat 64 d) (BitVec.ofNat 64 mask)
  | none => s
/-- The aligned dwords that bytes touch. -/
def dwords (pa n : Nat) : List Nat := ((span pa n).map fun a => a / 8 * 8).eraseDups
/-- A write from outside and its records; one that an error completion refuses has none (R321, R338, R404). -/
def State.hostStore (s : State) (w pa : Nat) (b : List Byte) : State :=
  let t := s.outsideWrite w pa b
  bif (span pa b.length).any s.guardRow then t else (dwords (s.norm pa) b.length).foldl (fun s d => s.recordDword (s.norm pa) b d) t
/-- The arrival of a write from the fabric, recorded by the dwords it leaves (R404; log 23, DESIGN CHOICE). -/
def State.recordArrival (s : State) (pa n : Nat) : State :=
  (dwords (s.norm pa) n).foldl (fun s d => match s.ownerOf d with
    | some p => s.record p 2 0 (BitVec.ofNat 64 s.tstamp) (BitVec.ofNat 64 d) (BitVec.ofNat 64 (s.rdNat d 8))
    | none => s) s

/-- HOST_WRITE (R321, R404, R405; log 54, DEDUCED; log 55, DEDUCED). -/
def execHostWrite (pa : Nat) (b : List Byte) (s : State) : Out :=
  s.outside (.hostWrite pa b) pa b.length true fun s => bif s.heldOff pa then s.again (.event (.hostWrite pa b)) else s.hostStore 128 pa b
/-- HOST_READ (R321). -/
def execHostRead (pa len : Nat) (s : State) : Out := s.outside (.hostRead pa len) pa len false fun s => s.outsideRead pa len
/-- ETH_RDMA_WRITE_IN: an inbound write, granule by granule, recorded and held off as a host write is; its completion comes after its data (R404, R405,
R422). -/
def execEthRdmaWriteIn (pa : Nat) (b : List Byte) (s : State) : Out :=
  s.outside (.ethRdmaWriteIn pa b) pa b.length true fun s =>
    bif s.heldOff pa then s.again (.event (.ethRdmaWriteIn pa b))
    else let s := s.hostStore 32 pa b; s.setPkg { s.pkg with rdmaDone := (pa, b.length) :: s.pkg.rdmaDone }
/-- ETH_RDMA_READ_OUT: an outbound read of device memory (R422). -/
def execEthRdmaReadOut (pa len : Nat) (s : State) : Out := s.outside (.ethRdmaReadOut pa len) pa len false fun s => s.outsideRead pa len

/-- A page's device copies are written back and dropped, and their leases lapse (R322). -/
def State.drainPage (s : State) (page : Nat) : State :=
  let s := ((s.mem.l2.map (·.line)).filter fun l => l / 512 == page).foldl State.writeBack s
  let m := s.mem
  let s := s.setMem { m with stale := m.stale.filter (fun c => c.1 / 65536 != page), leases := m.leases.filter (fun x => x.line / 512 != page) }
  let s := { s with core := { s.core with l1 := s.core.l1.filter fun l => l / 512 != page } }
  s.setC { s.core.c with watch := match s.core.c.watch with | .armed l => bif l / 512 == page then .lost l else .armed l | w => w }

/-- The unpublished shadows on a page, and every earlier unpublished command of the copy engine, are published as pub does (R190, R322; log 71,
DEDUCED). -/
def State.publishPage (s : State) (page : Nat) : State :=
  match (s.core.eng.copy.reverse.find? fun c => c.toMem && !c.published && c.shadow.any fun x => s.norm x.1 / 65536 == page).map (·.seq) with
  | some n => (s.publishCmds fun c => decide (c.seq ≤ n) && c.toMem).reap
  | none => s

/-- The near-bank writes to a page that are still to come take place (R316, R322, R387). -/
def State.placeGranules (s : State) (page : Nat) : State :=
  let n := s.core.nb
  let now := n.writes.filter fun w => w.pa / 65536 == page
  now.foldl State.granulePut (s.setNb { n with writes := n.writes.filter fun w => w.pa / 65536 != page })
/-- The accepted near-bank commands: the core's, and those of steps that have been saved with them (R349, R350). -/
def State.nbAccepted (s : State) : List NbCmd := s.core.nb.cmds ++ allParts.flatMap fun p => (s.part p).saved.flatMap (·.nbCmds)
/-- An accepted near-bank command names the page (R349). -/
def State.nbNames (s : State) (page : Nat) : Bool := s.nbAccepted.any fun c => (nbPages c.row c.prog).contains page

/-- BIAS_FLIP: a flip of a page begins: new accesses wait, and the losing side is drained; one to host bias of a page that an accepted near-bank command
names waits until the command completes (R322, R349). -/
def execBiasFlip (page : Nat) (toHost : Bool) (s : State) : Out :=
  .next (bif (s.mem.flips.any fun f => f.1 == page) || (s.mem.hostBias.contains page == toHost) then s
    else bif toHost && s.nbNames page then s.again (.event (.biasFlip page toHost))
    else
      let s := s.flushStore
      let s := bif toHost then ((s.publishPage page).placeGranules page).drainPage page else s
      s.setMem { s.mem with flips := s.mem.flips ++ [(page, toHost, s.tstamp)] })

/-- BIAS_FLIP_EVENT: the new bias takes effect (R322). -/
def execBiasFlipEvent (page : Nat) (s : State) : Out := .next (s.flipNow page)
/-- A flip lasts at most 20 microseconds (R322). -/
def State.flipsEnd (s : State) : State :=
  match s.mem.flips.find? fun f => decide (f.2.2 + 20000 ≤ s.tstamp) with | some f => s.flipNow f.1 | none => s

/-! ### Requests from other packages (R319, R412) -/

/-- What an atomic of another package leaves in n bytes: its operands are n bytes each (R105, R319). -/
def remoteAmo (op : AmoOp) (kind : BitVec 2) (old : Nat) (b : List Byte) : FRes :=
  match kind with
  | 0 => ⟨(amoNew op (BitVec.ofNat 64 old) (BitVec.ofNat 64 (leAt b 0 8)) (BitVec.ofNat 64 (leAt b 8 8))).toNat, []⟩
  | 1 => ⟨(amoNew op (BitVec.ofNat 32 old) (BitVec.ofNat 32 (leAt b 0 4)) (BitVec.ofNat 32 (leAt b 4 4))).toNat, []⟩
  | 2 => f32.sum .rne old (leAt b 0 4)
  | _ => bf16.sum .rne old (leAt b 0 2)
/-- The bytes of an atomic's datum. -/
def remoteSize (kind : BitVec 2) : Nat := match kind with | 0 => 8 | 1 => 4 | 2 => 4 | _ => 2

/-- A request comes to its lines at their home, where a read of a device-bias page is granted a lease (R307, R308). -/
def State.remoteAt (s : State) (pa n : Nat) (reads : Bool) : State :=
  (linesAt (s.norm pa) n).foldl (fun s l =>
    let s := (s.orderAt 4 (!reads) (l * 128)).l2Access (l * 128) none (s.ownerOf (l * 128)) false
    bif reads && !s.hostBias (l * 128) then s.lease l false else s) s
/-- A request applied at its home: the machine and the answer's bytes. -/
def State.remoteApply (s : State) (pa : Nat) (op : Option (AmoOp × BitVec 2)) (write : Option (List Byte)) (len : Nat) : State × List Byte :=
  let s := s.remoteAt pa (match op, write with | some (_, k), _ => remoteSize k | none, some b => b.length | none, none => len) (op.isNone && write.isNone)
  match op, write with
  | some (o, k), b =>
    let n := remoteSize k
    let old := (s.rmwFirst (span pa n)).rdNat pa n
    (s.store pa (leBytes n (remoteAmo o k old (b.getD [])).bits) none true, leBytes n old)
  | none, some b => (s.store pa b none true, [])
  | none, none => (s, (span pa len).map s.rd8)
/-- A request writes. -/
def remoteWrites (op : Option (AmoOp × BitVec 2)) (write : Option (List Byte)) : Bool := op.isSome || write.isSome

/-- A request's answer, kept under its tag (R412). -/
def State.reply (s : State) (who : BitVec 8) (tag : Nat) (b : List Byte) (code : Nat) : State :=
  (s.setPkg { s.pkg with answered := ⟨who, tag, b, code, s.tstamp⟩ :: s.pkg.answered }).answer b code
/-- REMOTE_REQUEST_AT_HOME: a non-posted request of another package takes place here once; a repeated tag is answered from its record
(R319, R412). A request that names no HBM4E byte of this package, or a guard row, is answered with an error. -/
def execRemoteRequestAtHome (pkg tag pa : Nat) (op : Option (AmoOp × BitVec 2)) (write : Option (List Byte)) (len : Nat) (s : State) : Out :=
  let who : BitVec 8 := BitVec.ofNat 8 pkg
  let n := match op, write with | some (_, k), _ => remoteSize k | none, some b => b.length | none, none => len
  .next (match s.pkg.answered.find? fun a => a.pkg == who && a.tag == tag with
    | some a => s.answer a.data a.code
    | none =>
      bif !s.pkg.domEn || !(span pa n).all (fun a => decide (s.region a = .hbm) && !s.guardRow a) then s.reply who tag [] 2
      else bif s.outsideWaits pa n (remoteWrites op write) 4 || (remoteWrites op write && s.heldOff pa) || s.vcStopped 1 pa then
        s.again (.event (.remoteRequestAtHome pkg tag pa op write len))
      else
        let r := s.remoteApply pa op write len
        let r := (bif remoteWrites op write then r.1.recordArrival pa n else r.1, r.2)
        r.1.reply who tag r.2 (bif (span pa n).any s.poisoned then 1 else 0))

end Sys2Proof.Machine
end

