-- ==== Sys2Proof/Machine/Power.lean ====
section
/-! DEFINITION. Power (R395 to R402), the lane groups' power (R203), and the inputs of a replay (R405). -/

namespace Sys2Proof.Machine

/-! ### Estimates and energy (R397 to R399) -/

/-- The permit count that follows an estimate e under a cap c, none standing for no cap (R398). -/
def nextPermit (x : Part) (e : Nat) (c : Option Nat) : Nat :=
  let p := x.permit.toNat
  let raise := bif decide (p < 16) then p + 1 else p
  match c with
  | none => raise
  | some c => if c < e then Nat.max x.pmin.toNat (Nat.min (p - 1) (p * c / e)) else if 16 * e ≤ 15 * c then raise else p
/-- The cap of a partition: its own, and its part of the package cap when the package is above that (R398). -/
def State.capOf (s : State) (x : Part) (e pkg : Nat) : Option Nat :=
  let own := bif x.cap == 0 then none else some x.cap.toNat
  bif decide (s.pkg.pkgCap < pkg) then some (Nat.min (own.getD (e * s.pkg.pkgCap / pkg)) (e * s.pkg.pkgCap / pkg)) else own
/-- One partition's microsecond (R398, R380). -/
def State.estimate (pkg n : Nat) (s : State) (p : BitVec 3) : State :=
  let x := s.part p
  bif !x.en then s
  else
    let e := Config.watts p.toNat n
    let permit := nextPermit x e (s.capOf x e pkg)
    let thr := decide (permit < 16)
    let s := s.setPart p { x with permit := BitVec.ofNat 5 permit, est := BitVec.ofNat 16 (Nat.min e 65535), thr := thr }
    bif thr != x.thr then s.msi p 0 3 1 else s
/-- An energy counter with its fraction of 1/256 nJ after a charge (R399). -/
def charged (e : Word64) (frac add : Nat) : Word64 × Nat := (e + BitVec.ofNat 64 ((frac + add) / 256), (frac + add) % 256)
/-- A queue's entry in a partition's table. -/
def Part.setQueue (x : Part) (q : BitVec 6) (k : TaskQueue) : Part := { x with queues := (q, k) :: x.queues.filter fun e => e.1 != q }
/-- A microsecond's energy added to a queue's counter, or to IDLEENERGY (R399). -/
def State.charge (s : State) (p : BitVec 3) (q : Option (BitVec 6)) : State :=
  let x := s.part p
  let s := { s with free := s.free + 1 }
  let add := Config.energy p.toNat (match q with | some q => q.toNat | none => 64) s.free
  match q with
  | some q =>
    let k := x.queue q
    let r := charged k.energy k.frac add
    s.setPart p (x.setQueue q { k with energy := r.1, frac := r.2 })
  | none =>
    let r := charged x.idleEnergy x.idleFrac add
    s.setPart p { x with idleEnergy := r.1, idleFrac := r.2 }
/-- A queue may be charged: a block of it is assigned, or the last one has been done with for less than 4 microseconds (R400). -/
def State.chargeable (s : State) (p : BitVec 3) (q : BitVec 6) : Bool :=
  let x := s.part p
  (x.blocks.any fun b => b.assigned && b.queue == q) || x.doneAt.any fun e => e.1 == q && decide (s.tstamp < e.2 + 4000)
/-- ENERGY_CHARGE: what other cores of the partition take in a microsecond: for the steps of a queue's blocks, in time; for none, when they are idle or
run launched steps, with the static share (R274, R399, R400; log 14, DESIGN CHOICE). -/
def execEnergyCharge (p : BitVec 3) (q : Option (BitVec 6)) (s : State) : Out :=
  .next (match q with | some r => bif s.chargeable p r then s.charge p q else s | none => s.charge p q)

/-- The end of a microsecond: each partition's estimate; the charge of what this core has run, and of the prologues, saves, restores and near-bank
commands of other steps' blocks (R398, R399). -/
def State.microsecond (s : State) : State :=
  let owed := s.pkg.owed
  let s := s.setPkg { s.pkg with estAt := s.pkg.estAt + 1000, owed := [] }
  let s := { allParts.foldl (State.estimate (Config.watts 8 s.free) s.free) s with free := s.free + 1 }
  let s := match bif s.stepOn then some s.myPart else s.sitePart with | some p => s.charge p s.payer | none => s
  owed.foldl (fun s x => s.charge x.1 x.2) s
/-- The estimator runs as a microsecond ends (R398). -/
def State.estimates (s : State) : State := bif decide (s.pkg.estAt ≤ s.tstamp) then s.microsecond else s
/-- POWER_ESTIMATE: nothing before its time (R398). -/
def execPowerEstimate (s : State) : Out := .next s.estimates
/-- A virtual function that owns a queue reads its ENERGY, and a write of it is ignored; of another queue the access has an error completion (R399). -/
def State.vfEnergy (s : State) (p : BitVec 3) (v : BitVec 2) (q : BitVec 6) (write : Bool) : State :=
  let x := s.part p
  bif !(x.vf v).qmask.getLsbD q.toNat then s.answer [] 2
  else bif write then s
  else s.answer (leBytes 8 (x.queue q).energy.toNat) 0

/-- PERMIT_WINDOW: at a window's first cycle the partition's permit count comes into force (R395). -/
def execPermitWindow (s : State) : Out := .next s.permitWindow

/-! ### Droop and lane groups (R203, R401, R402) -/

/-- DROOP_TRIP: the supply has fallen below LEVEL, which 0 disables (R401, R402). -/
def execDroopTrip (s : State) : Out := .next (bif s.core.csr.drLevel == 0 then s else s.trip)
/-- DROOP_STRETCH_END: the stretched cycles pass (R402). -/
def execDroopStretchEnd (s : State) : Out :=
  .next (match s.pkg.droop with | some n => bif decide (n < 7) then s.passCycles (6 - n) else s | none => s)
/-- DROOP_HALF_ISSUE_END: the half-issue cycles pass (R402). -/
def execDroopHalfIssueEnd (s : State) : Out :=
  .next (match s.pkg.droop with | some n => bif decide (7 ≤ n) then s.passCycles (70 - n) else s | none => s)
/-- LANE_GROUP_POWER_DOWN: the cycles that a powered group still needs pass, up to the last, which is this turn's own (R203). -/
def execLaneGroupPowerDown (g : BitVec 3) (s : State) : Out :=
  let x := s.core.lanes.get ⟨g.toNat, g.isLt⟩
  .next (bif x.on then s.passCycles (4095 - x.idle + x.beat.toNat) else s)

/-! ### Replayed inputs (R405) -/

/-- A host write as its record and the mask that may follow it say (R404, R405). -/
def State.replayHostWrite (s : State) (p : BitVec 3) (pa data : Nat) : State :=
  let s := s.repTake p
  let r := s.repNext p
  let masked := r.1 == 9 && r.2.2.2.1 == pa
  let mask := bif masked then r.2.2.2.2 else 255
  let s := bif masked then s.repTake p else s
  let cs := (List.range 8).filterMap fun i => bif mask.testBit i then some (pa + i, (leBytes 8 data).getD i 0) else none
  cs.foldl (fun s c => s.store c.1 [c.2] none false) (s.orderAt 3 true pa)

/-- The record that a replaying partition has reached is an input whose key has come, or of no type (R404, R405). -/
def State.replayDue (s : State) (p : BitVec 3) : Bool :=
  let r := s.repNext p
  (s.part p).repMode == 2 && !(s.part p).repDiv &&
    (r.1 == 0 || decide (9 ≤ r.1) || ((r.1 == 1 || r.1 == 2 || r.1 == 3) && decide (r.2.2.1 ≤ s.tstamp)))
/-- A recorded interrupt is sent, for the cause of the live one that it stands for when that one has been held off (R393, R405). -/
def State.replayMsi (s : State) (fn vec : Nat) : State :=
  let m := s.pkg.heldMsi.find? fun m => m.fn == fn && m.vec == vec
  let s := s.setPkg { s.pkg with heldMsi := match m with | some m => s.pkg.heldMsi.erase m | none => s.pkg.heldMsi }
  s.msiRaw (BitVec.ofNat 3 ((fn - 1) / 4)) (BitVec.ofNat 2 (fn - 1)) vec (match m with | some m => m.cause | none => 0)

/-- REPLAY_INPUT_APPLY: the next record of a partition, when it is an input whose key has come, is applied; one of no type diverges (R404, R405). -/
def execReplayInputApply (s : State) : Out :=
  .next (match allParts.find? s.replayDue with
    | some p =>
      let r := s.repNext p
      match r.1 with
      | 1 => s.replayHostWrite p r.2.2.2.1 r.2.2.2.2
      | 2 => ((s.repTake p).orderAt 4 true r.2.2.2.1).store r.2.2.2.1 (leBytes 8 r.2.2.2.2) none true
      | 3 => (s.repTake p).replayMsi r.2.2.2.1 r.2.2.2.2
      | _ => s.diverge p r []
    | none => s)

end Sys2Proof.Machine
end

