-- ==== Sys2Proof/Machine/Distribute.lean ====
section
/-! DEFINITION. From a submission to a completed block (R286 to R289, R356 to R360): appends and takes of the rings, the polling of PRED, the
check of a block at its receipt (R278), its assignment, and what its completion does. -/

namespace Sys2Proof.Machine

/-! ### Rings (R357) -/

/-- The address of entry n of a ring (R357). -/
def TaskQueue.entry (q : TaskQueue) (n : Nat) : Word64 := q.base + BitVec.ofNat 64 (0x80 + 8 * (n % ringSize q.logsz))

/-- A ring as the die finds it: the physical addresses of TAIL and HEAD, and their values. -/
def State.ring (s : State) (p : BitVec 3) (v : BitVec 2) (q : TaskQueue) : Option (Nat × Nat × Nat × Nat) :=
  match s.ctxPa p v q.base, s.ctxPa p v (q.base + 0x40) with
  | some t, some h => some (t, h, s.rdNat t 8, s.rdNat h 8)
  | _, _ => none

/-- A write of a task unit waits, for a flip or a lease or for its place in a recorded order (R308, R322, R405). -/
def State.taskHeld (s : State) (pas : List Nat) : Bool := s.writeHeld pas || pas.any (s.orderWaits 6)
/-- An append as one event: the entry at TAIL and TAIL + 1, when the ring is not full and what it writes waits for no flip and no lease (R308, R322,
R357). -/
def State.append (s : State) (p : BitVec 3) (v : BitVec 2) (q : TaskQueue) (a : Word64) : Option State :=
  match s.ring p v q with
  | some (t, h, tail, head) =>
    bif decide (ringSize q.logsz ≤ tail - head) || s.inFlip h then none
    else (s.ctxPa p v (q.entry tail)).bind fun e =>
      bif s.taskHeld (span e 8 ++ span t 8) then none
      else some ((s.orderLines 6 true [e, t]).unitWrite (cellsAt e (leBytes 8 a.toNat) ++ cellsAt t (leBytes 8 (tail + 1))))
  | none => none

/-- A submission of chxdbg's, appended as a tsub of the virtual function would append it; a full ring keeps it waiting (R287, R306). -/
def State.submitAs (s : State) (blk : Word64) (q : BitVec 6) (p : BitVec 3) (v : BitVec 2) : State :=
  (s.append p v ((s.part p).queue q) blk).getD (s.again (.env (.submitted blk q p v)))

/-- TSUB_APPEND: the oldest submission goes to its ring; a full ring keeps it waiting (R287, R357). -/
def execTsubAppend (s : State) : Out :=
  let c := s.core.ctx
  .next (match s.core.q.sub with
    | [] => s
    | (a, q) :: rest =>
      match s.append c.part c.vf ((s.part c.part).queue q) a with
      | some t => (t.setQ { t.core.q with sub := rest }).touch
      | none => s)

/-- A block newly in the pending table. -/
def Block.pending (a : Word64) (q : BitVec 6) (head : Nat) : Block :=
  { addr := a, queue := q, head := head, bytes := [], pred := 0, tw := none, ready := 0, assigned := false, lo := 0, hi := 0, next := 0,
    others := true, failed := false, group0 := 0, group1 := 0, check := none, guarded := false, excBad := false, excPost := false,
    exc := Vector.replicate 12 0, mates := true, alone := true, sole := true, cores := [], ended := none }

/-- The record of an entry that is not a block (R357). -/
def State.badEntry (s : State) (p : BitVec 3) (e : Word64) (aux : Word32) (cause : BitVec 8) : State :=
  s.post p (plainRec 0x32 e aux (cause.setWidth 64))

/-- A taken entry goes to the pending table with its PRED read, or is reported (R357, R358). -/
def State.take (s : State) (p : BitVec 3) (v : BitVec 2) (q : BitVec 6) (e : Word64) (head : Nat) : State :=
  bif misaligned e 256 then s.badEntry p e 0x100 0
  else
    match s.xlate ⟨p, v, true⟩ e .rd, s.xlate ⟨p, v, true⟩ (e + 0xc4) .rd with
    | .error f, _ => s.badEntry p e 0x101 (xfailCause f 0x06 e).1
    | _, .error f => s.badEntry p e 0x101 (xfailCause f 0x06 e).1
    | .ok _, .ok pa => s.setPart p { s.part p with blocks := (s.part p).blocks ++ [(Block.pending e q head).sees (s.rdNat pa 4) s.tstamp] }

/-- A read of a context at an address waits for a flip (R322). -/
def State.readHeld (s : State) (w : Who) (va : Word64) : Bool :=
  match s.xlate w va .rd with | .ok pa => s.inFlip pa | .error .waits => true | .error _ => false
/-- A write of n bytes of a context at an address waits for a flip or a lease (R308, R322). -/
def State.putHeld (s : State) (w : Who) (va : Word64) (n : Nat) : Bool :=
  match s.xlate w va .wr with | .ok pa => s.taskHeld (span pa n) | .error .waits => true | .error _ => false

/-- The entry that the lead die may take from a ring: its address, HEAD's address, the entry and HEAD; none while a page that the take reads is in a flip,
or a line that it writes is leased (R308, R322). -/
def State.taken (s : State) (p : BitVec 3) (q : BitVec 6) : Option (Nat × Nat × Nat × Nat) :=
  let x := s.part p
  let k := x.queue q
  bif !(x.en && k.en) || decide (4096 ≤ (x.blocks.filter fun b => !b.assigned).length) then none
  else
    match s.ring p (x.vfOf q) k with
    | some (_, h, _, head) =>
      match s.ctxPa p (x.vfOf q) (k.entry head) with
      | some a =>
        let e := BitVec.ofNat 64 (s.rdNat a 8)
        let w : Who := ⟨p, x.vfOf q, true⟩
        bif s.rdNat a 8 == 0 || s.taskHeld (span a 8 ++ span h 8) || s.readHeld w e || s.readHeld w (e + 0xc4) then none
        else some (a, h, s.rdNat a 8, head)
      | none => none
    | none => none

/-- RING_TAKE: the entry at HEAD, when it is not zero and the table has room (R357, R358). -/
def execRingTake (p : BitVec 3) (q : BitVec 6) (s : State) : Out :=
  .next (match s.taken p q with
    | some (a, h, e, head) =>
      ((s.orderLines 6 true [a, h]).unitWrite (cellsAt a (leBytes 8 0) ++ cellsAt h (leBytes 8 (head + 1)))).take p ((s.part p).vfOf q) q (BitVec.ofNat 64 e) head
    | none => s)

/-- A pending block's PRED read again (R358). -/
def State.poll (s : State) (p : BitVec 3) (b : Block) : Block :=
  bif b.assigned || b.failed then b
  else
    match s.xlate ⟨p, (s.part p).vfOf b.queue, true⟩ (b.addr + 0xc4) .rd with
    | .ok pa => bif s.inFlip pa then b else b.sees (s.rdNat pa 4) s.tstamp
    | .error _ => b

/-- PRED_POLL: the PRED of every pending block is read (R358). -/
def execPredPoll (p : BitVec 3) (s : State) : Out := .next (s.setPart p { s.part p with blocks := (s.part p).blocks.map (s.poll p) })

/-! ### The check at receipt (R278) -/

/-- What the check at receipt finds. -/
inductive Receipt
  | good
  /-- refused: AUX, and TVAL -/
  | bad (aux : Nat) (cause : BitVec 8)
  /-- a read without a valid translation: its source, where known, and its address -/
  | fault (src : Option Nat) (va : Word64)
  | waits

/-- A read of the check. -/
def State.receiptRead (s : State) (w : Who) (src : Option Nat) (aux : Nat) (va : Word64) (n : Nat) : Except Receipt (List Byte) :=
  match s.readVa w va n with
  | .ok b => .ok b
  | .waits => .error .waits
  | .fail .noTrans va => .error (.fault src va)
  | .fail f va => .error (.bad aux (xfailCause f 0x06 va).1)

/-- The most steps that a block has on one of c clusters (R278, R360). -/
def Block.share (b : Block) (c : Nat) : Nat := (bif b.onecl then b.outer else ceilDiv b.outer c) * b.inner

/-- The operands of KIND 2. -/
def Block.copyOps (b : Block) : List Nat := (List.range 6).filter fun i => b.opKind i == 2

/-- The cluster sites of a die that belong to the partition, in ascending order (R360, R371). -/
def Part.sitesOf (x : Part) (die : Nat) : List Nat := (List.range 17).filter fun i => x.sites.getLsbD (17 * die + i)
/-- Those of this die. -/
def State.clusters (s : State) (p : BitVec 3) : List Nat := (s.part p).sitesOf s.pkg.die.toNat
/-- A cluster has fewer than 16 assigned blocks with unplaced steps (R360): this one by its table, another as it reports. -/
def State.roomAt (s : State) (p : BitVec 3) (die site : Nat) : Bool :=
  let x := s.part p
  bif die == s.pkg.die.toNat && site == s.pkg.site.toNat then decide ((x.blocks.filter fun b => b.assigned && !b.failed && decide (b.next < b.past)).length < 16)
  else !x.full.contains (17 * die + site)
/-- The unplaced steps of the partition on a die, as far as they are known here (R360). -/
def State.unplaced (s : State) (p : BitVec 3) (die : Nat) : Nat :=
  let x := s.part p
  vget x.dieLoad die 0 + bif die == s.pkg.die.toNat then ((x.blocks.filter fun b => b.assigned && !b.failed).map fun b => b.past - b.next).sum else 0
/-- The die that a block is given to: the partition's with the fewest unplaced steps, the lowest of them (R360). -/
def State.dieFor (s : State) (p : BitVec 3) : Option Nat :=
  let dies := (List.range 4).filter fun d => !((s.part p).sitesOf d).isEmpty
  match (dies.map (s.unplaced p)).min? with
  | some n => dies.find? fun d => s.unplaced p d == n
  | none => none

/-- The offences of a block beyond its own fields: AUX of each (R278). -/
def State.receiptMore (s : State) (p : BitVec 3) (w : Who) (b : Block) : Except Receipt (List (Option Nat)) := do
  let ops ← b.copyOps.mapM fun i => (s.receiptRead w (some i) (0x50 + 16 * i) (b.opDesc i) 64).map fun raw =>
    must (!(Desc.ofBytes raw).isPlane && !(Desc.ofBytes raw).winen) (0x50 + 16 * i)
  let tab ← bif b.sens == 0 then .ok none
    else (s.receiptRead w (some 0xb8) 0xb8 b.sens (16 * b.nodes)).map fun raw => must (tableOk raw b.nodes) 0xb8
  .ok (must (!b.gang || decide (b.share (s.clusters p).length ≤ 8)) 0xd4 :: tab :: ops)

/-- The check of a block: its bytes, and what it finds (R278; log 53, DEDUCED). -/
def State.receipt (s : State) (p : BitVec 3) (b : Block) : Block × Receipt :=
  let w : Who := ⟨p, (s.part p).vfOf b.queue, true⟩
  match s.receiptRead w none 0 b.addr 256 with
  | .error r => (b, r)
  | .ok raw =>
    let b := { b with bytes := raw }
    match s.receiptMore p w b, b.bad with
    | .error _, some o => (b, .bad o 0)
    | .error r, none => (b, r)
    | .ok l, o => (b, match ((o :: l).filterMap id).min? with | some o => .bad o 0 | none => .good)

/-- A block refused at its receipt: it never runs (R278). -/
def State.refuse (s : State) (p : BitVec 3) (k : Block) (aux : Nat) (cause : BitVec 8) : State :=
  let x := s.part p
  let s := s.setPart p { x with blocks := x.blocks.filter fun b => b.addr != k.addr || b.queue != k.queue || b.assigned }
  s.post p { plainRec 0x32 k.addr (BitVec.ofNat 32 aux) (cause.setWidth 64) with block := k.addr }

/-- A read of the check awaits an answer; one that cannot be posted refuses its block (R278, R367). A source that R366 does not name is a
free value (log 13, DESIGN CHOICE). -/
def State.receiptFault (s : State) (p : BitVec 3) (b : Block) (src : Option Nat) (va : Word64) : State :=
  let aux := match src with | some i => bif decide (i < 6) then 0x50 + 16 * i else i | none => 0
  bif s.fqRoom p then
    let seq := (s.part p).seq
    let n := src.getD (Config.freeNat s.free % 65536)
    let s := { s with free := bif src.isNone then s.free + 1 else s.free }
    let s := s.setPart p ((s.part p).setBlock { b with check := some seq })
    s.post p { plainRec 0x34 va (BitVec.ofNat 32 (0x10000 + n)) 0 with await := true, block := b.addr }
  else s.refuse p b aux 0x06

/-! ### Assignment (R292, R360) -/

/-- The lowest number below n that is not in a list. -/
def lowestFree (used : List Nat) (n : Nat) : Option Nat := (List.range n).find? fun i => !used.contains i
/-- The gangs held by blocks of a partition assigned here. -/
def Part.gangs (x : Part) : List Block := x.blocks.filter fun b => b.assigned && !b.failed && b.gang

/-- The clusters of this die that receive tiles of a block: the lowest-numbered with room under ONECL, else as many as there are tiles for (R360). -/
def State.receivers (s : State) (p : BitVec 3) (b : Block) : List Nat :=
  bif b.onecl then ((s.clusters p).find? (s.roomAt p s.pkg.die.toNat)).toList else (s.clusters p).take b.outer
/-- The range of outermost tiles that the i-th of c clusters receives (R360). -/
def Block.range (b : Block) (c i : Nat) : Nat × Nat :=
  bif b.onecl then (0, b.outer)
  else
    let t := b.outer
    let lo := i * (t / c) + Nat.min i (t % c)
    (lo, lo + t / c + bif decide (i < t % c) then 1 else 0)

/-- A gang's barrier counters of levels 0 and 1 are cleared when its group numbers are given (R293). -/
def State.clearBars (s : State) (b : Block) (g0 g1 : Nat) : State :=
  let mine := fun (x : BarCtr) => (x.level == 0 && x.group.toNat == g0) || (x.level == 1 && x.group.toNat == g1)
  bif b.gang then s.setPkg { s.pkg with bars := s.pkg.bars.filter fun x => !mine x } else s

/-- A block handed to another die over the die-to-die path: it leaves the pending table (R360). -/
def State.handOver (s : State) (p : BitVec 3) (b : Block) (die : Nat) : State :=
  let x := s.part p
  s.setPart p { x with blocks := x.blocks.filter fun k => k.assigned || k.queue != b.queue || k.addr != b.addr
                       dieLoad := vset x.dieLoad die (vget x.dieLoad die 0 + b.outer * b.inner) }
/-- A checked block given to this die's clusters, with its group numbers and its range here; none while no number is free, while no cluster
has room for one of ONECL, or while its exception record cannot be zeroed yet (R180, R292, R308, R360). -/
def State.give (s : State) (p : BitVec 3) (b : Block) : Option State :=
  let to_ := s.receivers p b
  let here := to_.contains s.pkg.site.toNat
  let (lo, hi) := bif here then b.range (s.clusters p).length ((s.clusters p).idxOf s.pkg.site.toNat) else (0, 0)
  let alone := to_.all fun i => i == s.pkg.site.toNat
  let sole := decide ((hi - lo) * b.inner ≤ 1)
  bif s.excHeld p b || to_.isEmpty then none else
  let g0 := bif b.gang then lowestFree ((s.part p).gangs.map (·.group0)) 16 else some 0
  let g1 := bif b.gang then lowestFree ((s.pkg.parts.toList.flatMap Part.gangs).map (·.group1)) 256 else some 0
  match g0, g1 with
  | some g0, some g1 =>
    let b := { b with assigned := true, lo := lo, hi := hi, next := lo * b.inner, group0 := g0, group1 := g1,
                      alone := alone, sole := !b.gang || sole, mates := !b.gang || sole, others := alone && (!b.gang || sole),
                      cores := bif sole then [s.pkg.core].take ((hi - lo) * b.inner) else [] }
    some (((s.setPart p ((s.part p).setBlock b)).clearBars b g0 g1).excZero p b)
  | _, _ => none

/-- The blocks that may be assigned: ready, of the resident virtual function, and not waiting in their check (R359, R372). -/
def Part.assignable (x : Part) : List Block :=
  x.blocks.filter fun b => !b.assigned && !b.failed && b.tw.isSome && b.check.isNone && x.vfOf b.queue == x.resident
/-- A cluster of the partition has room for a block (R360). -/
def State.hasRoom (s : State) (p : BitVec 3) : Bool := (List.range 4).any fun d => ((s.part p).sitesOf d).any (s.roomAt p d)

/-- BLOCK_ASSIGN: the chosen ready block goes to the die chosen for it, and of this die is checked and given to its clusters; the pointer stands at
its queue whatever comes of it (R278, R359, R360). -/
def execBlockAssign (p : BitVec 3) (s : State) : Out :=
  let x := s.part p
  .next (bif !x.en || !s.hasRoom p then s
    else
      match x.choose x.ptrDie s.tstamp x.assignable, s.dieFor p with
      | some b, some d =>
        let s := s.setPart p { x with ptrDie := b.queue }
        bif d != s.pkg.die.toNat then s.handOver p (s.receipt p b).1 d
        else
          match s.receipt p b with
          | (b, .good) => (s.give p b).getD s
          | (b, .bad aux cause) => s.refuse p b aux cause
          | (b, .fault src va) => s.receiptFault p b src va
          | (_, .waits) => s
      | _, _ => s)

/-! ### Completion (R179, R285, R286, R289) -/

/-- The core holds no step of the block, and the walker has placed the last one (R285). -/
def State.haltLine (s : State) (p : BitVec 3) (b : Block) : Bool :=
  let here := b.mine
  b.assigned && (b.failed || decide (b.past ≤ b.next)) &&
    !(match s.core.ctx.running with | some i => s.myPart == p && here i | none => false) &&
    !(s.core.ctx.slots.any fun l => l.part == p && here l.id) && !((s.part p).back.any fun l => here l.id) &&
    !((s.part p).saved.any fun z => match z.ctx.running with | some i => here i | none => false)

/-- An event of the die on a block's behalf may write these bytes: their physical address (R286). -/
def State.diePa (s : State) (p : BitVec 3) (v : BitVec 2) (va : Word64) (need : Need) : Option Nat :=
  match s.xlate ⟨p, v, true⟩ va need with | .ok pa => some pa | .error _ => none

/-- A predecessor released, as tdep does (R288, R289): the die's own writes reach the memory-side cache at once, so that what reads a record and then the
block's memory sees them (R321, R369; log 61, DEDUCED). -/
def State.release (s : State) (p : BitVec 3) (v : BitVec 2) (a : Word64) : Option State :=
  bif misaligned a 256 then none
  else (s.diePa p v (a + 0xc4) .rdwr).map fun pa =>
    let s := (s.orderAt 6 true pa).rmwFirst (span pa 4)
    let old := s.rdNat pa 4
    (bif old == 0 then s else s.unitStore (cellsAt pa (leBytes 4 (old - 1)))).predSeen p v a (old - 1)

/-- One successor released, or skipped with a record (R286). -/
def State.releaseNth (p : BitVec 3) (v : BitVec 2) (b : Block) (s : State) (i : Nat) : State :=
  let at_ := b.succ + BitVec.ofNat 64 (8 * i)
  let skip := fun (s : State) (a : Word64) => s.post p { plainRec 0x33 a 0 0 with block := b.addr }
  match s.diePa p v at_ .rd with
  | none => skip s at_
  | some pa => let a := BitVec.ofNat 64 (s.rdNat pa 8); (s.release p v a).getD (skip s a)

/-- The completion store, or its record (R286). -/
def State.doneStore (s : State) (p : BitVec 3) (v : BitVec 2) (b : Block) : State :=
  bif b.doneAddr == 0 then s
  else
    match s.diePa p v b.doneAddr .wr with
    | some pa => (s.orderAt 6 true pa).unitStore (cellsAt pa (leBytes 8 b.doneVal))
    | none => s.post p { plainRec 0x37 b.doneAddr 0xd8 0 with block := b.addr }

/-- What a complete block does waits for a flip or a lease: its record, its completion store, its list of successors or their words (R308, R322). -/
def State.completeHeld (s : State) (p : BitVec 3) (b : Block) : Bool :=
  let w : Who := ⟨p, (s.part p).vfOf b.queue, true⟩
  s.excHeld p b || (b.doneAddr != 0 && s.putHeld w b.doneAddr 8) || (List.range b.nsucc).any fun i =>
    let at_ := b.succ + BitVec.ofNat 64 (8 * i)
    s.readHeld w at_ || match s.diePa p w.vf at_ .rd with | some pa => s.putHeld w (BitVec.ofNat 64 (s.rdNat pa 8) + 0xc4) 4 | none => false

/-- What a complete block does, in the order of R286. -/
def State.completeBlock (s : State) (p : BitVec 3) (b : Block) : State :=
  let v := (s.part p).vfOf b.queue
  let s := bif b.gang then s.excCounts p b b.exc else s
  let s := s.doneStore p v b
  let s := (List.range b.nsucc).foldl (State.releaseNth p v b) s
  let d := (s.part p).doneNow b.queue s.tstamp
  s.setPart p { d with blocks := d.blocks.filter fun c => c.addr != b.addr || c.queue != b.queue || !c.assigned }

/-- A block of a partition whose halt lines are all 1; one that has failed only leaves the tables (R285, R365). -/
def State.complete (s : State) (p : BitVec 3) (blk : Word64) : Option Block :=
  (s.part p).blocks.find? fun b => b.addr == blk && s.haltLine p b && (b.failed || b.others)

/-- BLOCK_COMPLETE: the die's halt line of the block has become 1 (R285, R286; log 61, DEDUCED). -/
def execBlockComplete (blk : Word64) (s : State) : Out :=
  .next (match allParts.findSome? fun p => (s.complete p blk).map fun b => (p, b) with
    | some (p, b) =>
      bif !b.failed && s.completeHeld p b then s
      else bif b.failed then s.setPart p { s.part p with blocks := (s.part p).blocks.filter fun c => !(c.addr == blk && c.queue == b.queue && c.failed) } else s.completeBlock p b
    | none => s)

/-! ### What can be done -/

/-- A block may be assigned next, with room for it. -/
def State.assigns (s : State) (p : BitVec 3) : Bool := (s.part p).en && s.hasRoom p && !(s.part p).assignable.isEmpty

/-- What the task units can do (R279 to R286, R356 to R360). -/
def State.distMoves (s : State) : List Instr :=
  (bif s.core.q.sub.isEmpty then [] else [.tsubAppend]) ++
    (allParts.flatMap fun p =>
      let x := s.part p
      (x.queues.filterMap fun q => (s.taken p q.1).map fun _ => Instr.ringTake p q.1) ++ (bif s.assigns p then [Instr.blockAssign p] else []) ++
        x.blocks.filterMap fun b => (s.complete p b.addr).map fun _ => Instr.blockComplete b.addr) ++
    bif s.stagingSlot.isSome || s.mayFill.isSome then [.stepPlace] else []

end Sys2Proof.Machine
end

