-- ==== Sys2Proof/Machine/Switch.lean ====
section
/-! DEFINITION. Answers to forwarded faults (R368) and the world switch (R373, R374, R377). -/

namespace Sys2Proof.Machine

/-! ### Answers (R364, R365, R368) -/

/-- What the answer does to a unit's fault that awaits it: retried, or left to be taken as an ordinary trap. -/
def faultAnswered (seq : BitVec 16) (code : BitVec 2) (f : Option UnitFault) : Option UnitFault :=
  match f with
  | some f => bif f.seq == some seq then (bif code == 0 then none else some { f with seq := none }) else some f
  | none => none
/-- A unit's fault awaits the answer. -/
def faultAwaits (seq : BitVec 16) (f : Option UnitFault) : Bool := match f with | some f => f.seq == some seq | none => false

/-- A unit of these awaits the answer. -/
def unitsAwait (seq : BitVec 16) (e : Engines) (m : Migrate) (n : List NbCmd) : Bool :=
  (e.copy ++ e.gather).any (fun c => faultAwaits seq c.fault) || (m.table.any fun x => match x with | some x => faultAwaits seq x.fault | none => false) ||
    n.any fun c => faultAwaits seq c.fault
/-- The engines after an answer. -/
def Engines.answered (e : Engines) (seq : BitVec 16) (code : BitVec 2) : Engines :=
  { e with copy := e.copy.map fun c => { c with fault := faultAnswered seq code c.fault },
           gather := e.gather.map fun c => { c with fault := faultAnswered seq code c.fault } }
/-- The migrate unit after an answer. -/
def Migrate.answered (m : Migrate) (seq : BitVec 16) (code : BitVec 2) : Migrate :=
  { m with table := m.table.map fun x => x.map fun x => { x with fault := faultAnswered seq code x.fault } }
/-- Near-bank commands after an answer. -/
def nbAnswered (l : List NbCmd) (seq : BitVec 16) (code : BitVec 2) : List NbCmd := l.map fun c => { c with fault := faultAnswered seq code c.fault }

/-- The strands go on after a forwarded fault's retry. -/
def State.unblock (s : State) : State :=
  let k := s.core
  { s with core := { k with c := { k.c with blocked := false }, l := { k.l with blocked := false }, s := { k.s with blocked := false },
                            v := { k.v with blocked := false } } }

/-- The answer to a waiting core (R32, R365, R368): a trap waits for its freeze when that has not taken effect. -/
def State.answerCore (s : State) (w : FreezeWait) (code : BitVec 2) : State :=
  match code with
  | 0 => (s.setTrap { s.core.trap with wait := none, dog := 0 }).unblock
  | 1 => bif w.frozen then s.trapNow w.strand w.cause w.tfpc w.tval else s.setTrap { s.core.trap with wait := some { w with seq := none } }
  | _ => s.abandonStep true

/-- The answer to a unit of the running step. -/
def State.answerUnits (s : State) (seq : BitVec 16) (code : BitVec 2) : State :=
  let k := s.core
  bif code == 2 then s.abandonStep true
  else
    ({ s with core := { k with eng := k.eng.answered seq code, mig := k.mig.answered seq code, nb := { k.nb with cmds := nbAnswered k.nb.cmds seq code } } }).deliverUnits

/-- The answer to a prologue's fault: its slot's prologue runs again, or its step is refused, or abandoned (R282, R365, R368). -/
def State.answerSlot (s : State) (n : Nat) (l : ShadowSlot) (src : Nat) (code : BitVec 2) : State :=
  let put := fun (l : ShadowSlot) => s.setCtx { s.core.ctx with slots := s.core.ctx.slots.set n l }
  match code with
  | 0 => put { l with stage := .staging }
  | 1 => s.refuseSlot n l (BitVec.ofNat 64 (0x100 + src))
  | _ =>
    let id := { l.id with abandons := l.id.abandons + 1 }
    bif id.rst && decide (id.abandons < 8) then put { l with id := id, stage := .staging }
    else (s.setCtx { s.core.ctx with slots := s.core.ctx.slots.eraseIdx n }).failStep l.part id

/-- The near-bank commands of a saved step run on where they can, and their completions go to the saved context (R350, R363, R368). -/
def State.runSavedNb (s : State) (z : Saved) : State × Saved :=
  let k := s.core
  let t := State.nbRun { s.lapsed with core := { k with
    ctx := z.ctx, q := z.q, fpc := z.fpc, trap := { z.trap with mode := true }, nb := { k.nb with slots := z.nbSlots, records := z.nbRecs, cmds := z.nbCmds } } }
  let r := t.core
  ({ t with core := { r with ctx := k.ctx, q := k.q, fpc := k.fpc, trap := k.trap, nb := { r.nb with slots := k.nb.slots, records := k.nb.records, cmds := k.nb.cmds } } },
   { z with q := r.q, fpc := r.fpc, trap := { r.trap with mode := z.trap.mode }, nbRecs := r.nb.records, nbCmds := r.nb.cmds })

/-- A step waits to be placed again, before any other that does. -/
def State.placeBack (s : State) (p : BitVec 3) (l : ShadowSlot) : State := s.setPart p { s.part p with back := l :: (s.part p).back }
/-- A saved step abandoned where it stands: its context is discarded, and it is placed again or fails (R365, R368). -/
def State.abandonSaved (s : State) (z : Saved) : State :=
  let x := s.part z.part
  let s := s.setPart z.part { x with saved := x.saved.erase z }
  let s := s.setCtx { s.core.ctx with slots := s.core.ctx.slots.filter fun l => !(decide (l.stage = .restored) && some l.id == z.ctx.running) }
  match z.ctx.running, z.ctx.cast with
  | some id, some cast =>
    let id := { id with abandons := id.abandons + 1 }
    let s := match bif id.gang then (s.part z.part).blockOf id else none with
      | some b => (s.setPart z.part ((s.part z.part).setBlock b.afresh)).clearBars b b.group0 b.group1
      | none => s
    bif !id.rst || decide (8 ≤ id.abandons) then s.failStep z.part id else s.placeBack z.part ⟨id, cast, z.part, z.vf, [], [], [], 0, true, .staging⟩
  | _, _ => s

/-- Another member of a gang has been abandoned, and with it every step of the gang (R284): this core's is abandoned where it runs, is staged or is
saved, and runs again when it has ended. -/
def State.gangAbandoned (s : State) (p : BitVec 3) (q : BitVec 6) (blk : Word64) : State :=
  match (s.part p).block q blk with
  | none => s
  | some b =>
    bif !b.gang || !b.assigned then s
    else
      let done := b.ended
      let s := (s.setPart p ((s.part p).setBlock b.afresh)).clearBars b b.group0 b.group1
      let more := fun (i : StepId) => { i with abandons := i.abandons + 1 }
      bif (match s.core.ctx.running with | some i => s.myPart == p && b.mine i | none => false) then s.abandonStep true
      else
        match (s.part p).saved.find? fun z => match z.ctx.running with | some i => b.mine i | none => false, done with
        | some z, _ => s.abandonSaved z
        | none, some (i, c) =>
          bif !i.rst || decide (7 ≤ i.abandons) then s.failStep p (more i)
          else s.placeBack p ⟨more i, c, p, (s.part p).vfOf q, [], [], [], 0, true, .staging⟩
        | none, none =>
          s.setCtx { s.core.ctx with slots := s.core.ctx.slots.map fun l => bif l.part == p && b.mine l.id then { l.emptied with id := more l.id } else l }

/-- The answer to a unit of a saved step (R368). -/
def State.answerSaved (s : State) (z : Saved) (seq : BitVec 16) (code : BitVec 2) : State :=
  let put := fun (s : State) (z' : Saved) => s.setPart z.part { s.part z.part with saved := (s.part z.part).saved.map fun y => bif y == z then z' else y }
  let z' := { z with eng := z.eng.answered seq code, mig := z.mig.answered seq code, nbCmds := nbAnswered z.nbCmds seq code }
  match code with
  | 0 => let r := s.runSavedNb z'; put r.1 r.2
  | 1 => put s { z' with trap := { z'.trap with pend := z'.trap.pend ||| 0x40 } }
  | _ => s.abandonSaved z

/-- The answer to a read of a block's check: repeated, or the block is refused (R278). -/
def State.answerReceipt (s : State) (p : BitVec 3) (b : Block) (r : FaultRec) (code : BitVec 2) : State :=
  let n := r.aux.toNat % 65536
  let aux := bif b.bytes.isEmpty then 0 else bif decide (n < 6) then 0x50 + 16 * n else n
  bif code == 0 then s.setPart p ((s.part p).setBlock { b with check := none }) else s.refuse p b aux 0x06

/-- The slot whose prologue awaits an answer. -/
def State.slotAwaits (s : State) (p : BitVec 3) (seq : BitVec 16) : Option (Nat × ShadowSlot × Nat) :=
  (List.range s.core.ctx.slots.length).findSome? fun n => match s.core.ctx.slots[n]? with
    | some l => match l.stage with
      | .answer q src => bif q == seq && l.part == p then some (n, l, src) else none
      | _ => none
    | none => none

/-- An answer put to whatever awaits it (R368). -/
def State.giveAnswer (s : State) (p : BitVec 3) (r : FaultRec) (code : BitVec 2) : State :=
  let x := s.part p
  let s := s.setPart p { x with await := x.await.filter fun y => y.seq != r.seq }
  let k := s.core
  let wait := match k.trap.wait with | some w => bif w.seq == some r.seq && s.myPart == p then some w else none | none => none
  match wait, s.slotAwaits p r.seq with
  | some w, _ => s.answerCore w code
  | none, some (n, l, src) => s.answerSlot n l src code
  | none, none =>
    match x.blocks.find? fun b => b.check == some r.seq with
    | some b => s.answerReceipt p b r code
    | none =>
      bif s.myPart == p && unitsAwait r.seq k.eng k.mig k.nb.cmds then s.answerUnits r.seq code
      else
        match x.saved.find? fun z => unitsAwait r.seq z.eng z.mig z.nbCmds with
        | some z => s.answerSaved z r.seq code
        | none => s

/-- A host write waits, for a flip or a lease: what the host wrote before an answer (R308, R322). -/
def State.hostWaits (s : State) : Bool := s.waits.any fun t => match t with | .event (.hostWrite pa _) => !s.heldOff pa | _ => false
/-- An answer, which follows every host write made before it (R327, R368). -/
def State.putAnswer (s : State) (p : BitVec 3) (seq : BitVec 16) (code : BitVec 2) : State :=
  match (s.part p).await.find? fun r => r.seq == seq with
  | some r => bif code == 3 then s else bif s.hostWaits then s.again (.env (.faultAnswer p seq code)) else s.giveAnswer p r code
  | none => s
/-- FAULT_ANSWER: code 3, and an answer that nothing awaits, are ignored (R368). -/
def execFaultAnswer (p : BitVec 3) (seq : BitVec 16) (code : BitVec 2) (s : State) : Out := .next (s.putAnswer p seq code)

/-- FAULT_ANSWER_TIMEOUT: after TMO ms, code 1, and code 2 for a prologue (R366, R368). -/
def execFaultAnswerTimeout (p : BitVec 3) (seq : BitVec 16) (s : State) : Out :=
  .next (match (s.part p).await.find? fun r => r.seq == seq with
    | some r => bif decide (r.stamp.toNat + (s.part p).tmo.toNat * 1000000 ≤ s.tstamp) then s.giveAnswer p r (bif r.type == 0x34 then 2 else 1) else s
    | none => s)

/-! ### The world switch (R373, R374) -/

/-- A virtual function has work: a ready block, a placed step or a saved step (R373). -/
def State.hasWork (s : State) (p : BitVec 3) (v : BitVec 2) : Bool :=
  let x := s.part p
  let c := s.core.ctx
  (x.blocks.any fun b => x.vfOf b.queue == v && !b.failed && b.tw.isSome && (!b.assigned || decide (b.next < b.past))) ||
    (c.running.isSome && c.part == p && c.vf == v) || (c.slots.any fun l => l.part == p && l.vf == v) ||
    (x.saved.any fun z => z.vf == v) || x.back.any fun l => l.vf == v
/-- The virtual function that the scheduler chooses at a quantum's end: the one that a directed yield took the place of, else the next enabled
one with work (R299, R373, R374). -/
def State.nextVf (s : State) (p : BitVec 3) : Option (BitVec 2) :=
  let x := s.part p
  match x.yieldBack with
  | some v => some v
  | none => ([x.resident + 1, x.resident + 2, x.resident + 3] : List (BitVec 2)).find? fun v => x.vfen.getLsbD v.toNat && s.hasWork p v
/-- QUANT in nanoseconds. -/
def Part.quantum (x : Part) : Nat := x.quant.toNat * 10000

/-- QUANTUM_END (R299, R373). -/
def execQuantumEnd (p : BitVec 3) (s : State) : Out :=
  let x := s.part p
  .next (bif !x.en || x.switch_.isSome || decide (s.tstamp < x.quantEnd) then s
    else
      match s.nextVf p with
      | some v => (s.setPart p { x with yieldBack := none }).beginSwitch p v
      | none => s.setPart p { x with quantEnd := x.quantEnd + x.quantum, yielded := false })

/-- The core's shadow task slots of a partition emptied, their waits dropped; a refused step stays refused (R283, R374). -/
def State.emptySlots (s : State) (p : BitVec 3) : State :=
  let mine := fun (l : ShadowSlot) => l.part == p && (match l.stage with | .refused _ => false | _ => true)
  let gone := s.core.ctx.slots.filter mine
  let seqs := gone.filterMap fun l => match l.stage with | .answer q _ => some q | _ => none
  let x := s.part p
  let s := s.setPart p { x with back := x.back ++ ((gone.filter fun l => decide (l.stage ≠ .restored)).map ShadowSlot.emptied)
                                await := x.await.filter fun r => !seqs.contains r.seq }
  s.setCtx { s.core.ctx with slots := s.core.ctx.slots.filter fun l => !mine l }

/-- The drain of the core's site has come to its end: its step has left, or is frozen now; what is staged is discarded with it (R374, R384). -/
def State.drainFreeze (s : State) : State :=
  match s.pkg.drainAt, s.sitePart with
  | some t, some p =>
    bif !s.stepOn || decide (t + 20000 ≤ s.tstamp) then
      let s := (bif s.stepOn then s.saveStep false else s).emptySlots p
      s.setPkg { s.pkg with drainAt := none }
    else s
  | _, _ => s

/-- SWITCH_FREEZE_DEADLINE: a step not at a cut 20 microseconds after the request is frozen; so is one of a site that is drained
(R374, R384). -/
def execSwitchFreezeDeadline (p : BitVec 3) (s : State) : Out :=
  let x := s.part p
  .next (match x.switch_ with
    | some (v, 1, t0) =>
      bif decide (t0 + 20000 ≤ s.tstamp) then
        let s := bif s.stepOn && s.myPart == p then (s.saveStep false).swTrace p "frozen" [s.core.csr.tick.toNat] else s
        s.setPart p { s.part p with switch_ := some (v, 2, t0) }
      else s
    | _ => s.drainFreeze)

/-- The core serves the partition, or nothing of it is on the core. -/
def State.mayRestore (s : State) (p : BitVec 3) : Bool :=
  bif s.sitePart == some p then !s.stepOn && decide (s.core.trap.noStep = .no) && !s.sup else !(s.stepOn && s.myPart == p)

/-- What a trace line shows of the counters: CNTOVF, every CNT, every CSEL (R374, R393). -/
def Counters.line (k : Counters) : List Nat := k.ovf.toNat :: k.cnt.toList.map BitVec.toNat ++ k.csel.toList.map BitVec.toNat
/-- The counters of the incoming virtual function take the place of the outgoing one's; what an idle core counts is the incoming one's (R374, R375,
R377, R378). -/
def State.swapCounters (s : State) (p : BitVec 3) (v : BitVec 2) : State :=
  let x := s.part p
  bif s.sitePart != some p then s
  else
    let old := x.vf x.resident
    let new := x.vf v
    let y := (x.setVf x.resident { old with perf := some s.core.perf }).setVf v { new with perf := none }
    let s := (s.setPart p y).swTrace p "saved" (x.resident.toNat :: s.core.perf.line)
    let k := new.perf.getD Counters.zero
    let s := { s with core := { s.core with perf := k } }
    (bif s.stepOn then s else s.setCtx { s.core.ctx with part := p, vf := v }).swTrace p "restored" (v.toNat :: k.line)

/-- A saved step of the resident virtual function comes back on the core. -/
def State.resumeSaved (s : State) (p : BitVec 3) : State :=
  let x := s.part p
  bif s.sitePart != some p || s.siteDrained then s
  else
    match x.saved.find? fun z => z.vf == x.resident && decide (s.core.pool.lost ≤ z.lost) with
    | some z => (s.setPart p { x with saved := x.saved.erase z }).restoreStep z
    | none => s

/-- WORLD_SWITCH_RESTORE: every step of the outgoing virtual function has left; the incoming one's state and saved step come back, and the
quantum is counted from here (R374). -/
def execWorldSwitchRestore (p : BitVec 3) (s : State) : Out :=
  .next (match (s.part p).switch_ with
    | some (v, _, _) =>
      bif !s.mayRestore p then s
      else
        let s := (s.emptySlots p).swapCounters p v
        let x := s.part p
        (s.setPart p { x with resident := v, switch_ := none, yielded := false, quantEnd := s.tstamp + x.quantum }).resumeSaved p
    | none => s)

/-- SAVED_COUNTER_ADD: a shared-cache event of a virtual function that is not resident is added to its saved copy; if it has become resident
since, to the live one (R376 to R378). -/
def execSavedCounterAdd (p : BitVec 3) (v : BitVec 2) (event : BitVec 8) (s : State) : Out :=
  let x := s.part p
  .next (bif event != 0x10 && event != 0x11 || s.sitePart != some p then s
    else bif x.resident == v then
      let r := s.core.perf.add event 1
      ({ s with core := { s.core with perf := r.1 } }).ovfInts p v r.1.csel r.2
    else
      let c := x.vf v
      let r := (c.perf.getD Counters.zero).add event 1
      let s := s.setPart p (x.setVf v { c with perf := some r.1 })
      let s := bif r.2.isEmpty then s else s.swTrace p "wrap" (v.toNat :: r.2)
      s.ovfInts p v r.1.csel r.2)

end Sys2Proof.Machine
end

