-- ==== Sys2Proof/Machine/ConfigPlane.lean ====
section
/-! DEFINITION. The configuration plane: the registers the spec describes in it (R304, R307, R335 to R338, R352, R356, R366, R371, R397, R399,
R401, R403, R411, R413, R417), and the messages that write it (R381 to R383). What a register's rule lets change at certain times only is written
at those times only; at any other the write leaves it as it is (R352, R356, R358, R387, R403). -/

namespace Sys2Proof.Machine

open Config (CfgReg)

/-! ### The registers, as numbers -/

/-- A flag at a bit. -/
def flagAt (b : Bool) (n : Nat) : Nat := bif b then 2 ^ n else 0
/-- The entry of a row group (R337). -/
def RowGroup.word (g : RowGroup) : Nat := g.owner.toNat % 8 + flagAt g.valid 3 + flagAt g.guard_ 4 + flagAt (g.shared != 0) 5

/-- A partition's register as it reads (R356, R366, R371, R397, R399, R403, R413). -/
def Part.cfgGet (x : Part) : CfgReg → Nat
  | .partcfg _ => flagAt x.en 0 + x.td.toNat * 2 + x.vfen.toNat * 16 + x.quant.toNat * 256
  | .psites _ => x.sites.toNat
  | .ptbase _ v => (x.vf v).ptbase.toNat
  | .tvecw _ v => (x.vf v).tvecw.toNat
  | .qmask _ v => (x.vf v).qmask.toNat
  | .qbase _ q => (x.queue q).base.toNat
  | .qcfg _ q => let k := x.queue q; flagAt k.en 0 + k.prio.toNat * 2 + k.logsz.toNat * 16
  | .energy _ q => (x.queue q).energy.toNat
  | .idleEnergy _ => x.idleEnergy.toNat
  | .fqbase _ => x.fqBase.toNat
  | .fqcfg _ => flagAt x.fqEn 0 + x.fqLog.toNat * 2 + flagAt x.fwdC 5 + flagAt x.fwdS 6 + flagAt x.fwdE 7 + flagAt x.fwdN 8 + x.tmo.toNat * 65536
  | .excTh _ => x.excTh
  | .pwrcfg _ => x.cap.toNat + x.pmin.toNat * 65536
  | .repcfg _ => x.repMode.toNat + x.repLog.toNat * 4
  | .repbase _ => x.repBase.toNat
  | .rwbase _ => x.rwBase.toNat
  | .rwcfg _ => flagAt x.rwEn 0 + x.rwLog.toNat * 2 + x.rwGroup.toNat * 32
  | .l2ways _ => x.l2Ways.toNat
  | .pwrstat _ => x.est.toNat + x.permit.toNat * 65536 + flagAt x.thr 21
  | .repstat _ => x.repPos.toNat + flagAt x.repFull 48 + flagAt x.repDiv 49
  | _ => 0

/-- The partition that a register belongs to. -/
def cfgPart : CfgReg → Option (BitVec 3)
  | .partcfg p | .psites p | .ptbase p _ | .tvecw p _ | .qmask p _ | .qbase p _ | .qcfg p _ | .energy p _ | .idleEnergy p | .fqbase p | .fqcfg p
  | .excTh p | .pwrcfg p | .pwrstat p | .repcfg p | .repbase p | .repstat p | .rwbase p | .rwcfg p | .l2ways p => some p
  | _ => none

/-- A register as it reads. -/
def State.cfgGet (s : State) (r : CfgReg) : Nat :=
  match r with
  | .pkgcap => s.pkg.pkgCap
  | .memCtl i =>
    let x := vget s.pkg.hbm i Stack.reset
    x.mgth.toNat + flagAt x.force 12 + flagAt x.pol 13 + (vget x.psel x.idx.toNat 512).toNat * 65536 + x.idx.toNat * 2 ^ 26
  | .rowGroup g => (s.group g).word
  | .shsize d => (vget s.pkg.shsize d.toNat 0).toNat
  | .fabcfg => s.pkg.pkgId.toNat + flagAt s.pkg.domEn 8 + s.pkg.portUp.toNat * 512
  | .pkgCtr g => let c := s.barCtr 2 g; c.phase + c.count * 2 ^ 64
  | .droopCnt => s.pkg.droops.toNat
  | .overflow d => vget s.pkg.overflow d.toNat 0
  | .flits received => bif received then s.pkg.flitsIn else s.pkg.flitsOut
  | .fabCtr g => let f := s.fab g; f.members.toNat + f.count.toNat * 512 + flagAt f.fail 18 + f.phase.toNat * 2 ^ 32
  | .droopth => s.core.csr.drLevel.toNat + flagAt s.core.csr.drMt 15
  | .eccTh => s.pkg.eccTh
  | .smpBase => s.core.dbg.smpBase.toNat
  | .smpSize => s.core.dbg.smpSize
  | .smpMask => s.core.dbg.smpMask.toNat
  | .smpLog => s.core.dbg.smpLog.toNat
  | .poolLimit => s.core.pool.limit
  | .poolTop => s.core.pool.top
  | r => match cfgPart r with | some p => (s.part p).cfgGet r | none => 0

/-! ### Their writes -/

/-- A partition's plain registers written (R356, R366, R371, R397, R399, R403, R413). -/
def Part.cfgPut (x : Part) (r : CfgReg) (n : Nat) : Part :=
  match r with
  | .ptbase _ v => x.setVf v { x.vf v with ptbase := BitVec.ofNat 64 n }
  | .tvecw _ v => x.setVf v { x.vf v with tvecw := BitVec.ofNat 64 n }
  | .qmask _ v => x.setVf v { x.vf v with qmask := BitVec.ofNat 64 n }
  | .qbase _ q => x.setQueue q { x.queue q with base := BitVec.ofNat 64 n }
  | .qcfg _ q => x.setQueue q { x.queue q with en := n.testBit 0, prio := BitVec.ofNat 3 (n / 2), logsz := BitVec.ofNat 4 (n / 16) }
  | .energy _ q => x.setQueue q { x.queue q with energy := BitVec.ofNat 64 n }
  | .idleEnergy _ => { x with idleEnergy := BitVec.ofNat 64 n }
  | .fqbase _ => { x with fqBase := BitVec.ofNat 64 n }
  | .fqcfg _ => { x with fqEn := n.testBit 0, fqLog := BitVec.ofNat 4 (n / 2), fwdC := n.testBit 5, fwdS := n.testBit 6, fwdE := n.testBit 7,
                         fwdN := n.testBit 8, tmo := BitVec.ofNat 16 (n / 65536) }
  | .excTh _ => { x with excTh := n % 2 ^ 32 }
  | .pwrcfg _ =>
    let m := bits n 20 16
    { x with cap := BitVec.ofNat 16 n, pmin := BitVec.ofNat 5 (if m = 0 ∨ 16 < m then 16 else m) }
  | .repbase _ => { x with repBase := BitVec.ofNat 64 n }
  | .rwbase _ => { x with rwBase := BitVec.ofNat 64 n }
  | .rwcfg _ => { x with rwEn := n.testBit 0, rwLog := BitVec.ofNat 4 (Nat.min 14 (bits n 4 1)), rwGroup := BitVec.ofNat 12 (n / 32) }
  | .l2ways _ => { x with l2Ways := BitVec.ofNat 4 (Nat.min 8 (n % 16)) }
  | _ => x

/-- The configured partitions span more than one trust domain (R338). -/
def State.domainsDiffer (s : State) : Bool :=
  allParts.any fun p => (s.part p).en && allParts.any fun q => (s.part q).en && (s.part p).td != (s.part q).td
/-- GUARD of every listed row group (R338). -/
def State.setGuards (s : State) : State :=
  let many := s.domainsDiffer
  let guard := fun (g : RowGroup) =>
    let h := s.group (g.index + 1)
    many && g.index % 512 != 511 && g.valid && h.valid && g.owner != h.owner
  s.setPkg { s.pkg with rows := s.pkg.rows.map fun g => { g with guard_ := guard g } }
/-- A row group's entry written; of a closed channel it is never VALID again (R337, R387). -/
def State.rowPut (s : State) (i n : Nat) : State :=
  let g : RowGroup := ⟨i, BitVec.ofNat 4 (n % 8), n.testBit 3 && !s.pkg.closed.contains (i / 512), false, bif n.testBit 5 then 1 else 0⟩
  (s.setPkg { s.pkg with rows := g :: s.pkg.rows.filter fun r => r.index != i }).setGuards

/-- The last step of a channel's retirement: its row groups are not VALID, and its near-bank units are disabled, for as long as the package is
powered; commands that its units have accepted come to their ends first (R387). -/
def State.closeChannel (s : State) (ch : Nat) : State :=
  bif s.nbAccepted.any fun c => groupOf c.row / 512 == ch then s.again (.env (.closeChannel ch))
  else
    (s.setPkg { s.pkg with closed := ch :: s.pkg.closed.filter (· != ch)
                           rows := s.pkg.rows.map fun g => bif g.index / 512 == ch then { g with valid := false } else g }).setGuards

/-- The site's partition has changed: each virtual function has its own copy of the counters, and what an idle core counts is the new one's
(R371, R375, R378). -/
def State.resited (s : State) (was : Option (BitVec 3)) : State :=
  let now := s.sitePart
  bif now == was then s
  else
    let s := match was with
      | some p => let x := s.part p; s.setPart p (x.setVf x.resident { x.vf x.resident with perf := some s.core.perf })
      | none => s
    match now with
    | some p =>
      let x := s.part p
      let k := (x.vf x.resident).perf.getD Counters.zero
      let s := s.setPart p (x.setVf x.resident { x.vf x.resident with perf := none })
      let s := { s with core := { s.core with perf := k } }
      bif s.stepOn then s else s.setCtx { s.core.ctx with part := p, vf := x.resident }
    | none => { s with core := { s.core with perf := Counters.zero } }
/-- The lead die of a site mask: the lowest-numbered that holds a site of it (R358). -/
def leadDie (sites : BitVec 68) : Option Nat := (List.range 4).find? fun d => bits sites.toNat (17 * d + 16) (17 * d) != 0
/-- PSITES written: the lead die changes only while the partition has no pending block (R358, R371). -/
def State.psitesPut (s : State) (p : BitVec 3) (n : Nat) : State :=
  let x := s.part p
  let sites := BitVec.ofNat 68 n
  bif leadDie sites != leadDie x.sites && x.blocks.any fun b => !b.assigned then s
  else (s.setPart p { x with sites := sites }).resited s.sitePart
/-- A queue's ring is empty: it is not configured, or HEAD has come to TAIL (R356, R357). -/
def State.ringEmpty (s : State) (p : BitVec 3) (q : BitVec 6) : Bool :=
  let x := s.part p
  let k := x.queue q
  !k.en || match s.ring p (x.vfOf q) k with | some (_, _, tail, head) => tail == head | none => true
/-- A partition runs on a die: it is enabled and has a cluster site there (R352). -/
def State.runsOn (s : State) (d : Nat) : Bool := allParts.any fun p => (s.part p).en && bits (s.part p).sites.toNat (17 * d + 16) (17 * d) != 0

/-- A virtual function newly enabled: its counters are at their reset values (R375). -/
def State.vfFresh (p : BitVec 3) (s : State) (v : BitVec 2) : State :=
  let x := s.part p
  let s := s.setPart p (x.setVf v { x.vf v with perf := none })
  bif s.sitePart == some p && x.resident == v then { s with core := { s.core with perf := Counters.zero } } else s
/-- PARTCFG written; a partition newly enabled starts its pointers and its quanta (R338, R359, R371, R373, R375). -/
def State.partcfgPut (s : State) (p : BitVec 3) (n : Nat) : State :=
  let x := s.part p
  let y := { x with en := n.testBit 0, td := BitVec.ofNat 3 (n / 2), vfen := BitVec.ofNat 4 (n / 16), quant := BitVec.ofNat 16 (n / 256) }
  let y := bif !x.en && y.en then { y with ptrDie := 63, ptrCl := 63, quantEnd := s.tstamp + y.quantum } else y
  let fresh := ([0, 1, 2, 3] : List (BitVec 2)).filter fun v => y.vfen.getLsbD v.toNat && !x.vfen.getLsbD v.toNat
  ((fresh.foldl (State.vfFresh p) (s.setPart p y)).resited s.sitePart).setGuards

/-- The partition has a placed or a running step on this core. -/
def State.hasStep (s : State) (p : BitVec 3) : Bool := (s.stepOn && s.myPart == p) || s.core.ctx.slots.any fun l => l.part == p
/-- The order of accesses is kept while a partition records or replays, from its start (R404, R405). -/
def State.orderFrom (s : State) (p : BitVec 3) : State :=
  let l := match s.mem.order with | some b => b.lines | none => []
  s.setMem { s.mem with order := bif allParts.any fun q => (s.part q).repMode != 0 then some ⟨l.filter fun x => s.ownerOf (x.line * 128) != some p, []⟩ else none }
/-- REPCFG written: MODE changes only with no step placed or running, and its change clears REPSTAT (R403). -/
def State.repcfgPut (s : State) (p : BitVec 3) (n : Nat) : State :=
  let x := s.part p
  let m : BitVec 2 := if n % 4 = 3 then 0 else BitVec.ofNat 2 n
  let x := { x with repLog := BitVec.ofNat 6 (n / 4) }
  bif s.hasStep p || m == x.repMode then s.setPart p x
  else (s.setPart p { x with repMode := m, repPos := 0, repDone := [], repFull := false, repDiv := false }).orderFrom p

/-- A register written: reserved and read-only bits keep what they have. -/
def State.cfgPut (s : State) (r : CfgReg) (n : Nat) : State :=
  match r with
  | .partcfg p => s.partcfgPut p n
  | .repcfg p => s.repcfgPut p n
  | .psites p => s.psitesPut p n
  | .qbase p q | .qcfg p q => bif s.ringEmpty p q then s.setPart p ((s.part p).cfgPut r n) else s
  | .pkgcap => s.setPkg { s.pkg with pkgCap := n % 2 ^ 32 }
  | .memCtl i => s.stackUpd i fun x =>
      { x with mgth := BitVec.ofNat 12 (Nat.max 64 (n % 4096)), force := n.testBit 12, pol := n.testBit 13, idx := BitVec.ofNat 3 (n / 2 ^ 26) }
  | .rowGroup g => s.rowPut g n
  | .shsize d => bif s.runsOn d.toNat then s else s.setPkg { s.pkg with shsize := vset s.pkg.shsize d.toNat (BitVec.ofNat 5 (Nat.min 16 (n % 32))) }
  | .pkgCtr g => s.setBar { s.barCtr 2 g with phase := n % 2 ^ 64, count := 0 }
  | .overflow d => s.setPkg { s.pkg with overflow := vset s.pkg.overflow d.toNat n }
  | .fabcfg => s.setPkg { s.pkg with pkgId := BitVec.ofNat 8 n, domEn := n.testBit 8 }
  | .fabCtr g => bif s.pkg.domEn then s.fabPut g n else s
  | .droopth => s.setCsr { s.core.csr with drLevel := BitVec.ofNat 10 n, drMt := n.testBit 15 }
  | .eccTh => s.setPkg { s.pkg with eccTh := n % 2 ^ 32 }
  | .smpBase => s.setDbg { s.core.dbg with smpBase := BitVec.ofNat 64 n, smpPos := 0 }
  | .smpSize => s.setDbg { s.core.dbg with smpSize := n, smpPos := 0 }
  | .smpMask => let t := s.setDbg { s.core.dbg with smpMask := BitVec.ofNat 4 n }; t.setDbg { t.core.dbg with smpFrom := t.smpUnits }
  | .smpLog => s.setDbg { s.core.dbg with smpLog := BitVec.ofNat 5 (Nat.max 8 (Nat.min 24 (n % 32))) }
  | .poolLimit => { s with core := { s.core with pool := { s.core.pool with limit := n } } }
  | r => match cfgPart r with | some p => s.setPart p ((s.part p).cfgPut r n) | none => s

/-- A number with byte i replaced. -/
def putByte (n i : Nat) (b : Byte) : Nat := n % 2 ^ (8 * i) + b.toNat * 2 ^ (8 * i) + n / 2 ^ (8 * i + 8) * 2 ^ (8 * i + 8)
/-- The registers that stand at bytes of a unit's plane, each with its bytes' places and new values (R381; log 24, DESIGN CHOICE). -/
def cfgHits (unit : Nat) (cs : List (Nat × Byte)) : List (CfgReg × Nat × Byte) :=
  cs.filterMap fun c => (Config.cfgAt unit c.1).map fun x => (x.1, x.2, c.2)
/-- A register with the bytes that some of these give it. -/
def cfgWord (hits : List (CfgReg × Nat × Byte)) (r : CfgReg) (old : Nat) : Nat :=
  (hits.filter fun h => h.1 == r).foldl (fun n h => putByte n h.2.1 h.2.2) old
/-- Bytes of a unit's plane become active: each register among them is written once, with all its new bytes (R382). -/
def State.cfgApply (s : State) (unit : Nat) (cs : List (Nat × Byte)) : State :=
  let hits := cfgHits unit cs
  ((hits.map (·.1)).eraseDups).foldl (fun s r => s.cfgPut r (cfgWord hits r (s.cfgGet r))) s

/-! ### Messages (R381, R382) -/

/-- A unit that no message has addressed. -/
def CfgUnit.fresh (u : Nat) : CfgUnit := { unit := u, active := [], staged := [], gen := 0, result := 0, waiting := none }
/-- A unit of the plane. -/
def State.cfgUnit (s : State) (u : Nat) : CfgUnit := (s.pkg.units.find? fun x => x.unit == u).getD (CfgUnit.fresh u)
/-- A unit replaced. -/
def State.setCfgUnit (s : State) (x : CfgUnit) : State := s.setPkg { s.pkg with units := x :: s.pkg.units.filter fun y => y.unit != x.unit }
/-- The units that a unit address names: one, or every instance of its class. -/
def cfgUnits (u : Nat) : List Nat := bif u % 4096 == 0xfff then (List.range (Config.cfgInstances (u / 4096))).map fun i => u / 4096 * 4096 + i else [u]
/-- A byte of a unit's active plane: that of the register that stands there, as it reads now, else the one that the last commit left
(R381; log 24, DESIGN CHOICE). -/
def State.planeByte (s : State) (x : CfgUnit) (o : Nat) : Byte :=
  match Config.cfgAt x.unit o with
  | some (r, i) => BitVec.ofNat 8 (s.cfgGet r / 2 ^ (8 * i))
  | none => kget x.active o (Config.cfgByte x.unit o)
/-- The full staged plane. -/
def State.stagedPlane (s : State) (x : CfgUnit) : List Byte := (List.range (Config.cfgSize x.unit)).map fun o => kget x.staged o (s.planeByte x o)
/-- A stage entry's bytes: those that differ from the active plane (R381). -/
def State.stageBytes (s : State) (off : Nat) (bs : List Byte) (x : CfgUnit) : CfgUnit :=
  { x with staged := (List.range bs.length).foldl (fun l i =>
      bif bs.getD i 0 == s.planeByte x (off + i) then kdel l (off + i) else kset l (off + i) (bs.getD i 0)) x.staged }

/-- CONFIG_STAGE: an entry of 1 to 256 bytes; any other is refused (R381), as is every message while the controller is held in reset (R389). -/
def execConfigStage (_gen : BitVec 16) (unit off : Nat) (bs : List Byte) (s : State) : Out :=
  .next (bif s.inReset Config.cfgController || bs.isEmpty || decide (256 < bs.length) then s
    else (cfgUnits unit).foldl (fun s u => s.setCfgUnit (s.stageBytes off bs (s.cfgUnit u))) s)

/-- A unit holds staged changes: bytes of its plane, or an image (R382, R386). -/
def State.unitStaged (s : State) (x : CfgUnit) : Bool := !x.staged.isEmpty || s.pkg.staged.any fun i => i.unit == x.unit
/-- The staged images of some units are dropped. -/
def State.dropImages (s : State) (of_ : Nat → Bool) : State := s.setPkg { s.pkg with staged := s.pkg.staged.filter fun i => !of_ i.unit }
/-- What a commit message does to a unit that holds staged changes: with the expected CRC it waits for its idle point; otherwise it rolls back, a staged
image with its plane (R382, R386). -/
def State.commitUnit (gen : BitVec 16) (crc : Word32) (s : State) (x : CfgUnit) : State :=
  bif !s.unitStaged x then s
  else bif Config.crc32c (s.stagedPlane x) == crc then s.setCfgUnit { x with waiting := some (gen, crc, s.tstamp) }
  else (s.setCfgUnit { x with staged := [], result := 2 }).dropImages (· == x.unit)
/-- CONFIG_COMMIT: each unit of the class that holds staged changes (R382). -/
def execConfigCommit (gen : BitVec 16) (cls : BitVec 4) (crc : Word32) (s : State) : Out :=
  .next (bif s.inReset Config.cfgController then s
    else (s.pkg.units.filter fun x => x.unit / 4096 == cls.toNat).foldl (State.commitUnit gen crc) s)
/-- CONFIG_ABORT: every staged plane returns to its active plane, and the staged images go (R382, R386). -/
def execConfigAbort (_gen : BitVec 16) (s : State) : Out :=
  .next (bif s.inReset Config.cfgController then s
    else (s.setPkg { s.pkg with units := s.pkg.units.map fun x => { x with staged := [], waiting := none } }).dropImages fun _ => true)
/-- CONFIG_INVALIDATE: tlbi on the named core (R118, R383). -/
def execConfigInvalidate (core : Nat) (va : Option Word64) (s : State) : Out :=
  .next (bif core == s.corenum.toNat && !s.inReset Config.cfgController then s.flushStore.invalidate va else s)

/-- A near-bank command of this core, or of a saved step, runs on rows that a unit serves (R383). -/
def State.nbBusy (s : State) (u : Nat) : Bool :=
  s.nbAccepted.any fun c => c.running && Config.cfgServes u c.row
/-- The idle point of a unit: for this core's own, between steps; for a near-bank unit or a base die, while no near-bank command runs there (R383). Of
any other the event says that it has come. -/
def State.unitIdle (s : State) (u : Nat) : Bool := (!(u == Config.cfgCore) || (!s.stepOn && decide (s.core.trap.noStep = .no))) && !s.nbBusy u
/-- A staged image commits with its unit, and its measurement takes the place of the unit's (R386). -/
def State.commitImage (s : State) (u : Nat) : State :=
  match s.pkg.staged.find? fun i => i.unit == u with
  | some i => s.setPkg { s.pkg with
      staged := s.pkg.staged.filter fun j => j.unit != u, images := i :: s.pkg.images.filter fun j => j.unit != u
      measure := (u, Config.sha256 i.bytes) :: s.pkg.measure.filter fun m => m.1 != u }
  | none => s
/-- A commit has waited 10 ms (R383). -/
def State.commitLate (s : State) (x : CfgUnit) : Bool := match x.waiting with | some (_, _, t) => decide (t + 10000000 ≤ s.tstamp) | none => false
/-- A commit that has waited 10 ms is reported, with the staged plane kept (R383). -/
def State.commitTimeout (s : State) (x : CfgUnit) : State := bif s.commitLate x then s.setCfgUnit { x with result := 3, waiting := none } else s
/-- Every commit that has waited 10 ms is reported (R383). -/
def State.commitsLate (s : State) : State := bif s.pkg.units.any s.commitLate then s.pkg.units.foldl State.commitTimeout s else s
/-- UNIT_COMMIT: at the idle point after its commit message the staged plane becomes active, and a staged image with it (R382, R383, R386). -/
def execUnitCommit (unit : Nat) (s : State) : Out :=
  let x := s.cfgUnit unit
  .next (match x.waiting with
    | some (gen, _, _) =>
      bif s.commitLate x || !s.unitIdle unit then s
      else
        let y := { x with active := x.staged.foldl (fun l c => kset l c.1 c.2) x.active, staged := [], gen := gen, result := 1, waiting := none }
        ((s.commitImage unit).setCfgUnit y).cfgApply unit x.staged
    | none => s)
/-- UNIT_COMMIT_TIMEOUT: after 10 ms, with the staged plane kept (R383). -/
def execUnitCommitTimeout (unit : Nat) (s : State) : Out :=
  .next (s.commitTimeout (s.cfgUnit unit))

end Sys2Proof.Machine
end

