-- ==== Sys2Proof/Machine/VEvents.lean ====
section
/-! DEFINITION. What V and the ephemeris do between issues: landings, consumptions, the ends of stretches and holds, the consistent cut
and its rebind (R63, R124, R206, R247 to R249, R253), and samples that come from outside (R243 to R246). -/

namespace Sys2Proof.Machine

/-- V may take a tick now: a step runs, V has not ended, nothing freezes or holds it, and the cycle holds a permit (R5, R31, R247, R396). -/
def State.vTurn (s : State) : Bool := s.stepOn && !s.core.v.ended && !s.heldBack .v && !s.core.dbg.stopped && s.permitted
/-- V moves without issuing: it is halted or draining. In a stretch before a bundle, the tick is that bundle's to take (R247, R250). -/
def State.vMoves (s : State) : Bool := let v := s.core.v; s.vTurn && (v.halted || v.drain)
/-- The ticks until the next landing or consumption. -/
def State.ticksTo (s : State) (lands : Bool) : Nat :=
  match s.nextDue lands with
  | some t => Nat.max 1 (t - s.vNow)
  | none => 0

/-- V_WRITE_LANDS: while V issues nothing, ticks are taken until the next landing (R63, R208, R248). -/
def execVWriteLands (s : State) : Out := .next (bif s.vMoves then (s.vAdvance (s.ticksTo true)).1 else s)
/-- STREAM_CONSUME: while V issues nothing, ticks are taken until the next consumption (R206, R210). -/
def execStreamConsume (s : State) : Out := .next (bif s.vMoves then (s.vAdvance (s.ticksTo false)).1 else s)

/-- The bundle that V stands before comes to issue again. -/
def State.issueAgain (s : State) : State :=
  match s.fetch .v with
  | (t, some i) => (match i.bundle with | some b => t.issueBundle b | none => t)
  | (t, none) => t

/-- STRETCH_END: the awaited block is complete, and the tick is taken (R247): by the waiting bundle, when it is its issue tick. -/
def execStretchEnd (s : State) : Out :=
  .next (match s.core.v.stretch with
    | some r => bif !s.vTurn || (s.desc r).late then s
                else bif s.core.v.drain || s.core.v.halted then (s.vAdvance 1).1
                else s.issueAgain
    | none => s)

/-- V_HOLD_RELEASE: the bundle that V holds at is looked at again, and issues when its conditions are met (R124; log 49, DEDUCED). -/
def execVHoldRelease (s : State) : Out :=
  .next (bif s.core.v.blocked && s.vTurn && s.core.v.stretch.isNone then s.issueAgain else s)

/-! ### The consistent cut (R26, R27, R249, R253) -/

/-- RETIME after a rebinding cut (R251). -/
def retimeWord (sym : BitVec 3) (old new : BitVec 6) (mask : BitVec 8) (tick : Word64) : Word64 :=
  (tick.extractLsb' 0 40 ++ mask ++ new ++ old ++ (0#1) ++ sym)

/-- One request applied: the binding, the pin, and the monitor's counts when the binding changes; with the mask, and the record of the
highest symbol changed. -/
def applyReq (s : State) (m : BitVec 8) (last : Option (BitVec 3 × BitVec 6 × BitVec 6)) :
    List (SReg × BitVec 6 × Bool) → State × BitVec 8 × Option (BitVec 3 × BitVec 6 × BitVec 6)
  | [] => (s, m, last)
  | (i, v, pin) :: t =>
    let x := s.sym i
    let mon := { x.mon with req := none, pinned := x.mon.pinned || pin }
    bif v == x.bind then applyReq (s.setSym i { x with mon := mon }) m last t
    else applyReq (s.setSym i { x with bind := v, mon := { mon with a := 0, b := 0 } }) (m ||| (1#8 <<< i.toNat)) (some (i, x.bind, v)) t

/-- The rebind of a cut (R249): recorded, with cause 0x0f when enabled (R404). -/
def State.rebind (s : State) : State :=
  let r := applyReq s 0 none s.requests
  match r.2.2 with
  | none => r.1
  | some (i, old, new) =>
    let w := retimeWord i old new r.2.1 s.core.csr.tick
    let s := r.1.setCsr { r.1.core.csr with retime := w }
    let s := s.record s.myPart 5 s.corenum s.core.csr.tick 0 w
    bif s.core.csr.trapen.getLsbD 1 then s.setPend 1 w else s

/-- Under replay, a rebind recorded for this TICK becomes a pending request (R253, R405): the record names the highest symbol and its new
binding, and of a cut that rebound several, the others' new values stand nowhere; so what the cut makes of the one and of the pins must be the
record again, else replay diverges. A pin that would rebind waits, at a cut with no record, for its own (log 46, DEDUCED). -/
def State.replayRebind (s : State) : State :=
  let p := s.myPart
  match s.replayedCut with
  | some n =>
    let w := (s.repAt p n).2.2.2.2
    let i : BitVec 3 := BitVec.ofNat 3 w
    let x := s.sym i
    let pin := match x.mon.req with | some (_, p) => p | none => false
    let s := s.setSym i { x with mon := { x.mon with req := some (BitVec.ofNat 6 (bits w 15 10), pin) } }
    let r := s.repAt p n
    let s := (s.repTakeAt p n).rebind
    bif s.core.csr.retime.toNat == w then s else s.diverge p r [5, s.corenum.toNat, s.core.csr.tick.toNat, 0, s.core.csr.retime.toNat]
  | none => s.rebind

/-- The debugger stop of a cut (R272, R300), which reports the items that the cut applies. -/
def State.stopHere (s : State) (drain : Nat) (items : List Nat) : State :=
  let s := s.setC { s.core.c with run := s.core.c.run.abandoned }
  let d := s.core.dbg
  s.setDbg { d with stopped := true, stopReq := false, stops := d.stops ++ [s.stopRec drain 0 items] }

/-- The items of R27 that apply at the cut reached now, by their place in its list (R272). -/
def State.cutItems (s : State) (stop leaves : Bool) : List Nat :=
  (bif !s.requests.isEmpty || s.replayedCut.isSome then [1] else []) ++ (bif stop then [2] else []) ++ (bif leaves then [3] else []) ++
    (bif s.core.ctx.newCode then [4] else []) ++ bif s.core.ten.pending || s.core.ten.sfLater then [5] else []

/-- The line of the world-switch trace for a cut-stop: the V position, with TICK, the drain and C's PC (R301, R374, R393). -/
def State.leaveLine (s : State) (drain : Nat) : State :=
  let p := s.myPart
  let x := s.vPos
  bif (s.part p).switch_.isNone then s
  else s.swTrace p "cut" [s.core.ctx.vf.toNat, s.core.v.pc.toNat, s.core.csr.tick.toNat, x.1.toNat, x.2.1.toNat, x.2.2.toNat, drain, s.core.c.pc.toNat]

/-- The drain has ended: the words in issue complete, LASTDRAIN is written, and every beat has been run, so no slot is claimed; then the items of
R27 in order, each seeing the effects of those before it (R26, R27, R208, R248, R249, R269): of a step that leaves by a cut-stop, the last two
apply to its saved context, as it comes back. -/
def State.reachCut (s : State) : State :=
  let s := s.atBoundary
  let n := s.core.v.drained
  let stop := s.core.dbg.stopReq || s.bpHit
  let yields := s.core.v.lookYield
  let leaves := s.core.ctx.leave == some .cutStop || s.core.v.lookDue
  let items := s.cutItems stop leaves
  let x := s.core.csr.stretch
  let s := s.setCsr { s.core.csr with stretch := BitVec.ofNat 8 (Nat.min n 255) ++ x.extractLsb' 0 56 }
  let s := s.setV { s.core.v with drain := false, drained := 0, look := false, lookYield := false, lookDue := false, atCut := true, freeA := 0, freeB := 0, freeM := 0,
                                  accFree := Vector.replicate 2 0 }
  let s := bif yields then s.setCtx { s.core.ctx with yield_ := none } else s
  let s := s.replayRebind
  let s := bif stop then s.stopHere n items else s
  bif leaves then (s.leaveLine n).saveStep true else s.laterItems

/-- Drain ticks are taken until nothing is in flight; a stretch or a cause leaves the drain where it stands. -/
def State.drainTicks (s : State) : Nat → State × Bool
  | 0 => (s, s.core.v.flight.isEmpty)
  | n + 1 =>
    bif s.core.v.flight.isEmpty then (s, true)
    else
      match s.vTick with
      | .took s =>
        bif s.freezes then (s, s.core.v.flight.isEmpty)
        else
          let r := State.toPermit 128 s
          bif r.2 then r.1.drainTicks n else (r.1, r.1.core.v.flight.isEmpty)
      | .stretched s r => (s.stretchOn r, false)
      | .caused s => (s, false)

/-- CONSISTENT_CUT (R248, R249). -/
def execConsistentCut (s : State) : Out :=
  .next (bif s.core.v.drain && s.vMoves then
      let r := s.drainTicks 65536
      bif r.2 then r.1.reachCut else r.1
    else s)

/-- LATENCY_SAMPLE: every symbol that names the source takes the sample (R243, R244, R246). -/
def execLatencySample (src : BitVec 4) (cycles : Nat) (s : State) : Out := .next (s.takeSample src (cycles + s.injected src))

end Sys2Proof.Machine
end

