-- ==== Sys2Proof/Machine/Debugger.lean ====
section
/-! DEFINITION. The commands of chxdbg (R272 to R274, R300, R303, R306, R354, R355, R391 to R393, R406, R407) and the stitch marker of tagged
sampling (R301, R304). What a command prints is held in the debug unit; a refused command shows what it refuses. -/

namespace Sys2Proof.Machine

/-- The partition that chxdbg debugs when no suffix names one: the site's (log 27, DESIGN CHOICE). -/
def State.debugged (s : State) : BitVec 3 := s.sitePart.getD s.myPart
/-- The virtual function that a command's suffix names; without one, VF 0 of the debugged partition (R391). -/
def State.target (s : State) (p : Option (BitVec 3)) (vf : BitVec 2) : BitVec 3 × BitVec 2 :=
  match p with
  | some p => (p, vf)
  | none => (s.debugged, 0)
/-- A core's number names this core. -/
def State.isMe (s : State) (core : Nat) : Bool := s.corenum.toNat == core
/-- A refusal shown. -/
def State.refused (s : State) (what : Nat) : State := s.show [0xffff, what]

/-! ### Stops, injections, launches (R272 to R274, R300, R303, R306) -/

/-- BREAK_CUT: a stop on a cut bundle; a bundle whose cut bit is 0 is refused (R272, R300, R306, R391). -/
def execBreakCut (va : Word64) (iter core : Option Nat) (vf : Option (BitVec 3 × BitVec 2)) (s : State) : Out :=
  let (p, v) := s.target (vf.map (·.1)) ((vf.map (·.2)).getD 0)
  .next (match s.ctxPa p v va with
    | some pa =>
      bif misaligned va 16 || !(s.rd8 (pa + 15)).getLsbD 7 then s.refused va.toNat
      else bif match core with | some c => !s.isMe c | none => false then s
      else s.setDbg { s.core.dbg with bps := s.core.dbg.bps ++ [⟨va, iter, p, v⟩] }
    | none => s.refused va.toNat)

/-- INJECT: cycles added to the samples of the source of a symbol's name, in the running step and in later ones; 0 removes them (R273). -/
def execInject (name : Nat) (n : BitVec 12) (s : State) : Out :=
  .next (s.setDbg { s.core.dbg with inject := (name, n) :: s.core.dbg.inject.filter fun x => x.1 != name })

/-- Bytes of a context as the debug path reads them; none where a byte has no translation. -/
def State.ctxBytes (s : State) (p : BitVec 3) (v : BitVec 2) (va : Word64) (n : Nat) : Option (List Byte) :=
  (List.range n).mapM fun i => (s.ctxPa p v (va + BitVec.ofNat 64 i)).map s.rd8

/-- The record of a launched step: its template with k0 to k5 as given, else zero, and no barrier level (R274). -/
def launchRecord (raw : List Byte) (k : List Word32) : CastOn :=
  { CastOn.ofBytes raw with k := Vector.ofFn fun i => k.getD i.val 0, domain := Vector.replicate 4 0 }

/-- LAUNCH: a step placed directly in a shadow task slot of the named core; with no slot free it is refused (R274, R282; log 60, DEDUCED). -/
def execLaunch (template : Word64) (k : List Word32) (core : Nat) (p : Option (BitVec 3)) (vf : BitVec 2) (s : State) : Out :=
  let (p, v) := s.target p vf
  .next (bif !s.isMe core then s
    else
      match s.ctxBytes p v template 128 with
      | some raw =>
        bif decide (2 ≤ s.core.ctx.slots.length) || s.siteDrained then s.refused template.toNat
        else
          let id : StepId := { block := 0, number := s.time, rst := false, gang := false, queue := none, abandons := 0 }
          s.setCtx { s.core.ctx with slots := s.core.ctx.slots ++ [⟨id, launchRecord raw k, p, v, [], [], [], 0, true, .staging⟩] }
      | none => s.refused template.toNat)

/-- CONTINUE: all four strands of a stopped core are released in one cycle (R300). -/
def execContinueRun (s : State) : Out := .next (s.setDbg { s.core.dbg with stopped := false })

/-- STEP_STRAND: one unit of the named strand issues on a stopped core, the other three held; the data of an L or S word moves with it
(R303). -/
def execStepStrand (k : Strand) (s : State) : Out :=
  .next (bif !s.core.dbg.stopped then s
    else
      let more := match k with | .l => [Turn.event (.dataWordRetire .l)] | .s => [Turn.event (.dataWordRetire .s)] | _ => []
      { s with agenda := .issue k :: more ++ s.agenda })

/-- STEP_PUBLISH: the engines run until every issued command has published, the strands held (R303). -/
def execStepPublish (s : State) : Out := .next (bif s.core.dbg.stopped then State.publishAll 4096 s else s)

/-! ### Mapping (R306, R354, R391) -/

/-- Permission bits of a leaf that chxdbg makes: RD, WR and TK (R354). -/
def permRw : Nat := 4 + 8 + 32
/-- The bits of a section's leaves, by its kind: text, rodata, data and ob, weights (R391). -/
def permOf (kind : BitVec 3) : Nat := match kind with | 0 => 4 + 16 + 32 | 2 => permRw | _ => 4 + 32

/-- The next free page for a page table of a virtual function: after PTBASE, 4 KiB each (log 27, DESIGN CHOICE). -/
def State.tablePage (s : State) (p : BitVec 3) (v : BitVec 2) : State × Nat :=
  let c := (s.part p).vf v
  let a := if c.alloc = 0 then c.ptbase.toNat + 4096 else c.alloc
  let s := s.setPart p ((s.part p).setVf v { c with alloc := a + 4096 })
  (s.setMem { s.mem with cells := s.mem.cells.filter fun x => decide (x.1 < a ∨ a + 4096 ≤ x.1) }, a)

/-- A leaf put in the tables at its level, tables on the way made where they are missing (R323). -/
def State.putLeaf (s : State) (p : BitVec 3) (v : BitVec 2) (va : Nat) (log entry : Nat) : List (Nat × Nat × Nat × Nat) → Nat → State
  | [], _ => s
  | (_, sh, w, leafLog) :: rest, table =>
    let pa := table + 8 * bits va (sh + w - 1) sh
    bif leafLog == log then s.memWrite (cellsAt pa (leBytes 8 entry)) none true false
    else
      let e := BitVec.ofNat 64 (s.rdNat pa 8)
      bif e.getLsbD 0 && !e.getLsbD 1 then s.putLeaf p v va log entry rest (entryAddr e)
      else
        let (s, t) := s.tablePage p v
        (s.memWrite (cellsAt pa (leBytes 8 (t + 1))) none true false).putLeaf p v va log entry rest t

/-- One leaf of 2^log bytes mapped. -/
def State.mapLeaf (s : State) (p : BitVec 3) (v : BitVec 2) (va pa log perm : Nat) : State :=
  s.putLeaf p v va log (pa + perm + 3) walkLevels ((s.part p).vf v).ptbase.toNat

/-- The largest leaf that an address and what is left allow: 1 GiB, 2 MiB or 64 KiB (R354). -/
def leafFits (va left : Nat) : Nat :=
  if va % 2 ^ 30 = 0 ∧ 2 ^ 30 ≤ left then 30 else if va % 2 ^ 21 = 0 ∧ 2 ^ 21 ≤ left then 21 else 16

/-- A range holds a whole aligned piece of 2^log bytes. -/
def holdsLeaf (va size log : Nat) : Bool := decide ((va + 2 ^ log - 1) / 2 ^ log * 2 ^ log + 2 ^ log ≤ va + size)
/-- The largest leaf that an address and a size allow: the physical pages fit it (R354). -/
def largestLeaf (va size : Nat) : Nat := bif holdsLeaf va size 30 then 30 else bif holdsLeaf va size 21 then 21 else 16
/-- What chxdbg prints of a leaf: its address and size, its physical address, the stack, the channel, and the first and the last row (R328, R354). -/
def leafLine (va log pa : Nat) : List Nat := [va, log, pa, bits pa 39 36, bits pa 35 31, bits pa 30 16, bits (pa + 2 ^ log - 1) 30 16]

/-- A range mapped with the largest leaves it allows; each leaf is shown (R354). -/
def State.mapRange (p : BitVec 3) (v : BitVec 2) (perm : Nat) : Nat → Nat → Nat → Nat → State → State
  | 0, _, _, _, s => s
  | n + 1, va, pa, left, s =>
    if left = 0 then s
    else
      let log := leafFits va left
      State.mapRange p v perm n (va + 2 ^ log) (pa + 2 ^ log) (left - 2 ^ log) ((s.mapLeaf p v va pa log perm).show (leafLine va log pa))

/-- The pages of 64 KiB of a range: their addresses. -/
def pagesOf (va size : Nat) : List Nat := (List.range ((va + size + 65535) / 65536 - va / 65536)).map fun i => (va / 65536 + i) * 65536
/-- The leaf that maps an address of a context, as the tables say now. -/
def State.leafNow (s : State) (p : BitVec 3) (v : BitVec 2) (va : Nat) : Option (Nat × Word64) :=
  match (s.walk p v (BitVec.ofNat 64 va) false).1 with | .leaf log e => some (log, e) | _ => none
/-- Memory that is given out anew: zero, in device bias, without poison, with no line of it in a cache (R306, R394). -/
def State.zeroPages (s : State) (pa size : Nat) : State :=
  let m := s.mem
  let out := fun (a w : Nat) => decide (a * w + w ≤ pa ∨ pa + size ≤ a * w)
  let s := { s with core := { s.core with l1 := s.core.l1.filter fun l => out l 128 } }
  s.setMem { m with cells := m.cells.filter (fun c => out c.1 1), stale := m.stale.filter (fun c => out c.1 1)
                    poison := m.poison.filter (fun l => out l 128), hostBias := m.hostBias.filter (fun g => out g 65536)
                    l2 := m.l2.filter (fun x => out x.line 128), msc := m.msc.filter (fun x => out x.line 128)
                    leases := m.leases.filter (fun x => out x.line 128) }

/-- A range of device memory (R306, R324). -/
def hbmRange (pa size : Nat) : Bool := decide (localRegion pa = .hbm ∧ localRegion (pa + size - 1) = .hbm)
/-- A partition may access every row group of a range (R338). -/
def State.ownsAll (s : State) (p : BitVec 3) (pa size : Nat) : Bool :=
  (List.range (groupOf (pa + size - 1) + 1 - groupOf pa)).all fun i => s.owns p ((groupOf pa + i) * 2 ^ 22)
/-- ALLOC: zero-filled device memory at the physical pages that chxdbg chooses; refused when a page of the range is mapped, when the size is no
multiple of 64 KiB, or when the pages are no device memory of the partition's or do not fit its leaves (R306, R338, R354). -/
def execAlloc (va : Word64) (size pa : Nat) (p : Option (BitVec 3)) (vf : BitVec 2) (s : State) : Out :=
  let (p, v) := s.target p vf
  let a := va.toNat
  let fit := 2 ^ largestLeaf a size
  .next (bif !hbmRange pa size || !s.ownsAll p pa size || decide (a % 65536 ≠ 0 ∨ size % 65536 ≠ 0 ∨ size = 0 ∨ pa % fit ≠ a % fit) ||
      (pagesOf a size).any (fun g => (s.leafNow p v g).isSome) then s.refused a
    else State.mapRange p v permRw (size / 65536) a pa size (s.zeroPages pa size))

/-- Pages mapped, by virtual and physical address, that make up one leaf of 2^log bytes. -/
def isRun (l : List (Nat × Nat)) (log : Nat) : Bool :=
  match l with
  | [] => false
  | (va, pa) :: _ =>
    let n := 2 ^ (log - 16)
    decide (va % 2 ^ log = 0 ∧ pa % 2 ^ log = 0 ∧ n ≤ l.length) && l.take n == (List.range n).map fun i => (va + 65536 * i, pa + 65536 * i)
/-- The largest leaf that the first of some pages begin. -/
def runLeaf (l : List (Nat × Nat)) : Nat := bif isRun l 30 then 30 else bif isRun l 21 then 21 else 16
/-- Pages mapped, by virtual and physical address, with the largest leaves that their addresses allow; each leaf is shown (R354, R391). -/
def State.mapRuns (p : BitVec 3) (v : BitVec 2) (perm : Nat) : Nat → List (Nat × Nat) → State → State
  | 0, _, s => s
  | _, [], s => s
  | n + 1, (va, pa) :: t, s =>
    let log := runLeaf ((va, pa) :: t)
    State.mapRuns p v perm n (((va, pa) :: t).drop (2 ^ (log - 16))) ((s.mapLeaf p v va pa log perm).show (leafLine va log pa))

/-- ALLOC_SHARE: the range is mapped onto the physical pages that another address maps already, in another virtual function (R391). -/
def execAllocShare (va : Word64) (size : Nat) (p : BitVec 3) (vf : BitVec 2) (va2 : Word64) (vf2 : BitVec 2) (s : State) : Out :=
  let a := va.toNat
  let from_ := (pagesOf va2.toNat size).map fun g => (s.leafNow p vf2 g).map fun e => entryAddr e.2 / 2 ^ e.1 * 2 ^ e.1 + g % 2 ^ e.1
  .next (bif decide (a % 65536 ≠ 0 ∨ size % 65536 ≠ 0 ∨ size = 0 ∨ va2.toNat % 65536 ≠ 0) ||
      (pagesOf a size).any (fun g => (s.leafNow p vf g).isSome) || from_.any Option.isNone then s.refused a
    else State.mapRuns p vf permRw (size / 65536) ((pagesOf a size).zip (from_.filterMap id)) s)

/-- A page of a section: its leaf's permissions grow by those of the section when it is mapped already (R391). -/
def State.growLeaf (s : State) (p : BitVec 3) (v : BitVec 2) (va : Nat) (perm : Nat) : State :=
  match s.leafNow p v va with
  | some (log, e) => s.putLeaf p v va log (e.toNat ||| perm) walkLevels ((s.part p).vf v).ptbase.toNat
  | none => s
/-- The pages of a section mapped: those that are mapped already get its permissions too, the others the largest leaves that they allow
(R354, R391). -/
def State.mapSection (s : State) (p : BitVec 3) (v : BitVec 2) (va pa perm n : Nat) : State :=
  let gs := pagesOf va n
  let lo := va / 65536 * 65536
  let off := pa - va % 65536
  let new := (gs.filter fun g => (s.leafNow p v g).isNone).map fun g => (g, off + (g - lo))
  State.mapRuns p v perm gs.length new (gs.foldl (fun s g => bif (s.leafNow p v g).isSome then s.growLeaf p v g perm else s) s)

/-- One section of an image: mapped, and its bytes stored (R199, R391). -/
def State.loadSection (p : BitVec 3) (v : BitVec 2) (s : State) (x : Word64 × Nat × BitVec 3 × List Byte) : State :=
  let (va, pa, kind, bs) := x
  let s := s.mapSection p v va.toNat pa (permOf kind) bs.length
  let at_ := fun (i : Nat) => match s.leafNow p v (va.toNat + i) with
    | some (log, e) => some (entryAddr e / 2 ^ log * 2 ^ log + (va.toNat + i) % 2 ^ log, bs.getD i 0)
    | none => none
  s.memWrite ((List.range bs.length).filterMap at_) none false false

/-- The physical pages of a section are such as its kind has, the weight store's for .weights and else device memory of the partition's, and lie as its
leaves do (R199, R338, R354, R391). -/
def State.sectionFits (s : State) (p : BitVec 3) (x : Word64 × Nat × BitVec 3 × List Byte) : Bool :=
  let (va, pa, kind, bs) := x
  let weight := fun (a : Nat) => match localRegion a with | .weight _ => true | _ => false
  decide (pa % 65536 = va.toNat % 65536) && (bs.isEmpty ||
    bif kind == 3 then weight pa && weight (pa + bs.length - 1) else hbmRange pa bs.length && s.ownsAll p pa bs.length)

/-- LOAD: the sections of an image, with the physical pages that chxdbg chooses: text (kind 0), rodata (1), data and ob (2), weights (3). What
the core holds of older translations goes; an image whose sections do not fit there is refused (R391). -/
def execLoad (sections : List (Word64 × Nat × BitVec 3 × List Byte)) (p : Option (BitVec 3)) (vf : BitVec 2) (s : State) : Out :=
  let (p, v) := s.target p vf
  match sections.find? fun x => !s.sectionFits p x with
  | some x => .next (s.refused x.1.toNat)
  | none =>
  let s := sections.foldl (State.loadSection p v) s
  .next { s with core := { s.core with mmu := ⟨[], []⟩ } }

/-! ### Work and memory (R306, R391) -/

/-- SUBMIT: the block is appended to the queue as a tsub of the virtual function would append it; each of its steps is shown as the walker
places it (R287, R306, R391). -/
def execSubmit (blk : Word64) (q : BitVec 6) (p : Option (BitVec 3)) (vf : BitVec 2) (s : State) : Out :=
  let (p, v) := s.target p vf
  .next (bif misaligned blk 256 || !(s.part p).mayUse v q then s.refused blk.toNat else s.submitAs blk q p v)

/-- W: a dword stored as a host write (R321, R391). It waits as a host write waits. -/
def execPokeW (va : Word64) (value : Word64) (p : BitVec 3) (vf : BitVec 2) (s : State) : Out :=
  .next (match s.ctxPa p vf va with
    | none => s.refused va.toNat
    | some pa =>
      bif s.outsideWaits pa 8 true || s.heldOff pa then s.again (.event (.hostWrite pa (leBytes 8 value.toNat)))
      else s.hostStore 128 pa (leBytes 8 value.toNat))

/-- X: bytes read through a virtual function's translation, up to the first that has none (R391). -/
def execPeekX (va : Word64) (len : Nat) (p : Option (BitVec 3)) (vf : BitVec 2) (s : State) : Out :=
  let (p, v) := s.target p vf
  let pas := ((List.range len).map fun i => s.ctxPa p v (va + BitVec.ofNat 64 i)).takeWhile Option.isSome
  .next (s.show (pas.map fun a => match a with | some a => (s.rd8 a).toNat | none => 0))

/-! ### Traces and counters (R355, R392, R393, R406, R407) -/

/-- A trace line shown: its time, its event's name by length and characters, and the rest (R355, R393, R407). -/
def State.showLine (s : State) (l : TraceLine) : State := s.show (l.time :: l.what.length :: (l.what.toList.map Char.toNat ++ l.args))

/-- TRACE_NB: each change from the value that nb.rd sel 6 returns now is a line (R355). -/
def execTraceNb (core : Nat) (s : State) : Out :=
  .next (bif s.isMe core then s.setDbg { s.core.dbg with traceNb := true, nbLast := (s.nbRead 0 6).toNat } else s)
/-- PRINT_TRACE_NB: the lines whose TSTAMP lies in a range (R355). -/
def execPrintTraceNb (lo hi : Nat) (s : State) : Out :=
  .next ((s.core.dbg.nbLines.filter fun l => decide (lo ≤ l.time ∧ l.time ≤ hi)).foldl State.showLine s)
/-- PRINT_NB_RECORD: a record as nb.rd sel 0 to 4 would return it (R355). -/
def execPrintNbRecord (i : BitVec 3) (s : State) : Out :=
  .next (s.show ((List.range 5).map fun k => (s.nbRead i.toNat (BitVec.ofNat 3 k)).toNat))

/-- The counters that belong to a virtual function on this core: the live copy while it is resident, else the saved one (R377, R392, R393). -/
def State.vfLive (s : State) (p : BitVec 3) (v : BitVec 2) : Bool := s.sitePart == some p && (s.part p).resident == v
/-- A virtual function's counters. -/
def State.countersOf (s : State) (p : BitVec 3) (v : BitVec 2) : Counters :=
  bif s.vfLive p v then s.core.perf else ((s.part p).vf v).perf.getD Counters.zero
/-- A virtual function's counters replaced, on a core of its partition. -/
def State.setCounters (s : State) (p : BitVec 3) (v : BitVec 2) (k : Counters) : State :=
  bif s.sitePart != some p then s
  else bif s.vfLive p v then { s with core := { s.core with perf := k } }
  else s.setPart p ((s.part p).setVf v { (s.part p).vf v with perf := some k })
/-- SET_CSEL (R392). -/
def execSetCsel (p : BitVec 3) (vf : BitVec 2) (vals : List Word64) (s : State) : Out :=
  let k := s.countersOf p vf
  .next (s.setCounters p vf { k with csel := Vector.ofFn fun i => match vals[i.val]? with | some v => v.extractLsb' 0 10 | none => k.csel.get i })
/-- SET_CNT: a counter of the fabric class ignores it (R376, R392). -/
def execSetCnt (p : BitVec 3) (vf : BitVec 2) (vals : List Word64) (s : State) : Out :=
  let k := s.countersOf p vf
  let put := fun (i : Fin 32) => match vals[i.val]? with
    | some v => bif fabricEvent (k.csel.get i) then k.cnt.get i else v.extractLsb' 0 48
    | none => k.cnt.get i
  .next (s.setCounters p vf { k with cnt := Vector.ofFn put })
/-- A counter as it reads: 0 for one of the fabric class (R376). -/
def Counters.read (k : Counters) (i : Nat) : Nat := bif fabricEvent (vget k.csel i 0) then 0 else (vget k.cnt i 0).toNat
/-- PRINT_CNT: CNT0 to CNT3, CNTOVF, and whether the copy is live (R376, R393). -/
def execPrintCnt (p : BitVec 3) (vf : BitVec 2) (s : State) : Out :=
  let k := s.countersOf p vf
  .next (s.show (((List.range 4).map k.read) ++ [k.ovf.toNat, (s.vfLive p vf).toNat]))

/-- TRACE_SWITCH (R393). -/
def execTraceSwitch (p : BitVec 3) (core : Nat) (s : State) : Out :=
  .next (bif s.isMe core then s.setDbg { s.core.dbg with traceSw := some (p, core) } else s)
/-- TRACE_IRQ (R393). -/
def execTraceIrq (p : BitVec 3) (s : State) : Out := .next (s.setDbg { s.core.dbg with traceIrq := some p })
/-- PRINT_TRACE: the lines of the interrupt trace or of the world-switch trace (R393). -/
def execPrintTrace (irq : Bool) (s : State) : Out :=
  .next ((bif irq then s.core.dbg.irqLines else s.core.dbg.swLines).foldl State.showLine s)

/-- The cluster's number: die and site. -/
def State.clusterNum (s : State) : Nat := s.pkg.die.toNat * 32 + s.pkg.site.toNat
/-- SET_DROOPTH: DROOPTH of a cluster, as a csrw of supervisor mode (R406). -/
def execSetDroopth (cluster : Nat) (value : BitVec 16) (s : State) : Out :=
  .next (bif s.clusterNum == cluster then s.writeCsr 0x150 (value.setWidth 64) else s)
/-- PRINT_DROOP: DROOPTH and DROOPCNT (R406). -/
def execPrintDroop (cluster : Nat) (s : State) : Out :=
  .next (bif s.clusterNum == cluster then s.show [(s.readCsr 0x150).toNat, s.pkg.droops.toNat] else s)
/-- PRINT_ENERGY: TSTAMP, ENERGYq and IDLEENERGY (R406). -/
def execPrintEnergy (p : BitVec 3) (q : BitVec 6) (s : State) : Out :=
  .next (s.show [s.tstamp, ((s.part p).queue q).energy.toNat, (s.part p).idleEnergy.toNat])
/-- TRACE_DROOP (R407). -/
def execTraceDroop (core : Nat) (s : State) : Out := .next (bif s.isMe core then s.setDbg { s.core.dbg with traceDr := true } else s)
/-- PRINT_TRACE_DROOP: the lines whose offset lies in a range (R407). -/
def execPrintTraceDroop (lo hi : Nat) (s : State) : Out :=
  .next ((s.core.dbg.drLines.filter fun l => decide (lo ≤ l.time ∧ l.time ≤ hi)).foldl State.showLine s)

/-! ### Tagged sampling (R301, R304) -/

/-- STITCH_MARKER_PLACED (R304). -/
def execStitchMarkerPlaced (k : Strand) (s : State) : Out := .next (s.placeMarker k)

end Sys2Proof.Machine
end

