-- ==== Sys2Proof/Machine/Fabric.lean ====
section
/-! DEFINITION. The fabric: links and flow control (R408, R410), requests and answers (R412), posted reductions in the switches (R414 to R416),
barrier counters (R294, R417 to R419), and the Ethernet ports (R421). -/

namespace Sys2Proof.Machine

/-! ### Links (R408, R410, R418) -/

/-- A port's link replaced by a function of it. -/
def State.linkUpd (s : State) (port : Nat) (f : Link → Link) : State :=
  s.setPkg { s.pkg with links := vset s.pkg.links port (f (s.link port)) }

/-- FLIT_CRC_FAILURE: the flit is replayed; of a flit that is a replay, that replay has failed (R408). -/
def execFlitCrcFailure (port : Nat) (s : State) : Out :=
  .next (bif decide ((s.link port).state = .up) then
      s.linkUpd port fun l => bif l.again then { l with fails := l.fails + 1 } else { l with again := true, fails := 0 }
    else s)
/-- A replayed flit arrives whole, and the next failure is another flit's (R408). -/
def State.flitReplayed (s : State) (port : Nat) : State := s.linkUpd port fun l => { l with again := false, fails := 0 }
/-- LINK_RETRAIN: after eight failed replays of one flit (R408). -/
def execLinkRetrain (port : Nat) (s : State) : Out :=
  let l := s.link port
  .next (bif decide (l.state = .up ∧ 8 ≤ l.fails) then s.linkUpd port fun l => { l with state := .retraining } else s)
/-- LINK_RETRAIN_COMPLETE: the link carries traffic again; a port that is held in reset trains no link (R389, R408, R411). -/
def execLinkRetrainComplete (port : Nat) (s : State) : Out :=
  .next (bif decide ((s.link port).state = .retraining) && !s.inReset (Config.cfgPort port) then
      let s := s.linkUpd port fun l => { l with state := .up, again := false, fails := 0 }
      s.setPkg { s.pkg with portUp := s.pkg.portUp ||| (1#18 <<< port) }
    else s)
/-- STOP_GO_FLOW_CONTROL: stop is asserted or released on a virtual channel (R410). -/
def execStopGoFlowControl (port : Nat) (vc : BitVec 3) (stop : Bool) (s : State) : Out :=
  let bit : BitVec 5 := 1#5 <<< vc.toNat
  .next (s.linkUpd port fun l => { l with stop := bif stop then l.stop ||| bit else l.stop &&& ~~~bit })

/-- A record to every partition's fault queue. -/
def State.postAll (s : State) (r : FaultRec) : State := allParts.foldl (fun s p => s.post p r) s
/-- A package has left the domain: the groups that it had arrived at, or that await it, fail (R418). -/
def State.failGroups (s : State) (pkg : BitVec 8) (awaited : List (BitVec 12)) : State :=
  s.setPkg { s.pkg with fabs := s.pkg.fabs.map fun f => bif f.who.contains pkg || awaited.contains f.group then { f with fail := true } else f }
/-- The groups that await this package: those that the level-3 domain of its steps names, that of this core's and those of its blocks' (R292, R418). -/
def State.ownGroups (s : State) : List (BitVec 12) :=
  (bif domValid (s.domain 3) then [domGroup (s.domain 3)] else []) ++
    allParts.flatMap fun p => (s.part p).blocks.filterMap fun b =>
      let d := vget (b.castOn b.next).domain 3 0
      bif domValid d then some (domGroup d) else none
/-- A package leaves the load-store domain, or joins it (R324, R418). -/
def State.domainMove (s : State) (pkg : BitVec 8) (inside : Bool) (awaited : List (BitVec 12)) : State :=
  let others := s.pkg.absent.filter (· != pkg)
  bif inside then s.setPkg { s.pkg with absent := others } else (s.setPkg { s.pkg with absent := pkg :: others }).failGroups pkg awaited

/-- PORT_DOWN: a port that does not retrain is down; a package with no port up leaves the domain (R418). -/
def execPortDown (port : Nat) (s : State) : Out :=
  .next (bif decide ((s.link port).state ≠ .retraining) then s
    else
      let s := s.linkUpd port fun l => { l with state := .down }
      let s := s.setPkg { s.pkg with portUp := s.pkg.portUp &&& ~~~(1#18 <<< port) }
      let s := s.postAll (plainRec 0x40 0 (BitVec.ofNat 32 port) 0)
      bif s.pkg.portUp == 0 then s.failGroups s.pkg.pkgId s.ownGroups else s)

/-! ### Requests (R412) -/

/-- REQUEST_TIMEOUT: the request of this core that waits is sent once more, on the plane that R409 selects then; without an answer for another 20
microseconds, its access fails with cause 0x15 (R412). -/
def execRequestTimeout (tag : Nat) (s : State) : Out :=
  .next (bif tag != s.pkg.tag then s
    else match s.pkg.reqs.find? fun r => r.tag == tag with
    | none => s.setPkg { s.pkg with reqs := [⟨tag, 1, s.tstamp⟩] }
    | some r => bif decide (r.at_ + 20000 ≤ s.tstamp) then s.setPkg { s.pkg with reqs := [⟨tag, 2, r.at_⟩] } else s)
/-- An answered tag is kept for 100 microseconds (R412). -/
def Answered.old (a : Answered) (t : Nat) : Bool := decide (a.at_ + 100000 ≤ t)
/-- ANSWERED_TAG_EXPIRY: after 100 microseconds. The operand names the requester, its package in bits [7:0], and its request above them (R412; log 76,
DESIGN CHOICE). -/
def execAnsweredTagExpiry (tag : Nat) (s : State) : Out :=
  .next (s.setPkg { s.pkg with answered := s.pkg.answered.filter fun a =>
    !(a.pkg == BitVec.ofNat 8 tag && a.tag == tag / 256 && a.old s.tstamp) })
/-- Every answered tag whose time is over expires (R412). -/
def State.tagsExpire (s : State) : State :=
  bif s.pkg.answered.any fun a => a.old s.tstamp then s.setPkg { s.pkg with answered := s.pkg.answered.filter fun a => !a.old s.tstamp } else s

/-! ### Posted reductions (R414 to R416) -/

/-- Two contributions have one key: address, operation and format (R415). -/
def Contribution.sameKey (a b : Contribution) : Bool := a.pa == b.pa && decide (a.op = b.op) && a.fmt == b.fmt
/-- Two contributions combined (R415). -/
def Contribution.merge (a b : Contribution) : Contribution :=
  { a with bits := BitVec.ofNat 32 (redApply a.op a.fmt.toNat a.bits.toNat b.bits.toNat).bits, own := a.own + b.own
           need := bif a.own == 0 then b.need else bif b.own == 0 then a.need else Nat.min a.need b.need
           va := bif a.own == 0 then b.va else a.va }

/-- REDUCTION_HOLD_EXPIRY: the switch forwards what it has merged (R415). -/
def execReductionHoldExpiry (i : Nat) (s : State) : Out :=
  .next (s.setPkg { s.pkg with red := s.pkg.red.modify i fun c => { c with sent := true } })

/-- REDUCTION_HOME_APPLY: old ⊕ m as one event, counted in no core's counts (R415, R416). -/
def execReductionHomeApply (i : Nat) (s : State) : Out :=
  .next (match s.pkg.red[i]? with
    | some c =>
      let n := fmtSize c.fmt.toNat
      bif !c.sent || s.heldOff c.pa || s.inFlip c.pa || s.leased c.pa then s
      else
        let r := redApply c.op c.fmt.toNat ((s.rmwFirst (span c.pa n)).rdNat c.pa n) (c.bits.toNat % 2 ^ (8 * n))
        let s := (s.setPkg { s.pkg with red := s.pkg.red.eraseIdx i }).store c.pa (leBytes n r.bits) none true
        s.recordArrival c.pa n
    | none => s)

/-- CONTRIBUTION_LOST: the contributor takes cause 0x15, and a record of type 0x42 is posted (R416). -/
def execContributionLost (i : Nat) (s : State) : Out :=
  .next (match s.pkg.red[i]? with
    | some c =>
      let s := s.setPkg { s.pkg with red := s.pkg.red.eraseIdx i }
      bif c.own == 0 then s
      else (s.post s.myPart { plainRec 0x42 c.va 0 0 with core := s.corenum }).async 5 c.va
    | none => s)

/-! ### Barrier counters (R294, R417 to R419) -/

/-- FABRIC_BARRIER_ARRIVAL: a package's arrival at its group's counter (R417, R418). -/
def execFabricBarrierArrival (pkg : BitVec 8) (group : BitVec 12) (s : State) : Out :=
  .next (bif pkg == s.pkg.pkgId then s.fabSend group else s.fabArrive pkg group)
/-- FABRIC_COMPLETION_ARRIVES: the completion of a phase that the package arrived in reaches it, and the phase completes at its cores (R294, R417). -/
def execFabricCompletionArrives (group : BitVec 12) (s : State) : Out :=
  let f := s.fab group
  let b := s.barCtr 3 group
  .next (bif f.due then (s.setFab { f with due := false }).setBar { b with phase := b.phase + 1 } else s)

/-- C sleeps at level 3 of a group. -/
def State.sleepsAt3 (s : State) (group : BitVec 12) : Bool :=
  (match s.core.c.run with | .bar (.bar 3) | .bar (.barA _ 3) | .bar (.barW 3) => true | _ => false) && domGroup (s.domain 3) == group
/-- BARRIER_GROUP_FAILURE_ARRIVES: a core waiting at level 3 takes cause 0x15 with TVAL 0, and a record of type 0x41 is posted (R418). -/
def execBarrierGroupFailureArrives (group : BitVec 12) (s : State) : Out :=
  .next (bif (s.fab group).fail && s.sleepsAt3 group then
      (s.post s.myPart { plainRec 0x41 0 (group.setWidth 32) 0 with core := s.corenum }).async 5 0
    else s)

/-- A plane whose port is up at every package of the domain (R419; log 57, DEDUCED). -/
def State.planeUp (s : State) (n : Nat) : Bool :=
  (!s.pkg.domEn || s.pkg.portUp.getLsbD n) && s.pkg.peerDown.all fun x => s.pkg.absent.contains x.1 || !x.2.getLsbD n
/-- GROUP_COUNTER_MOVE: to the next plane that is up at every package, with all its fields; with none up the group fails. The move waits while virtual
channel 4 is stopped on every plane that remains (R410, R418, R419). -/
def execGroupCounterMove (group : BitVec 12) (s : State) : Out :=
  let f := s.fab group
  let up := s.planeUp
  .next (bif up f.plane || (!s.planes.isEmpty && s.planes.all fun n => (s.link n).stop.getLsbD 4) then s
    else match ((List.range 17).map fun j => (group.toNat + j + 1) % 18).find? up with
      | some n => s.setFab { f with plane := n }
      | none => s.setFab { f with fail := true })

/-! ### Ethernet (R421) -/

/-- ETH_LINK_DOWN: a record of type 0x43 (R366, R421). -/
def execEthLinkDown (port : BitVec 3) (s : State) : Out :=
  .next (bif s.pkg.eth.getLsbD port.toNat then
      (s.setPkg { s.pkg with eth := s.pkg.eth &&& ~~~(1#8 <<< port.toNat) }).postAll (plainRec 0x43 0 (port.setWidth 32) 0)
    else s)
/-- A queue pair, named by its partition and its number below 4,096. -/
def QueuePair.is (x : QueuePair) (p : BitVec 3) (num : Nat) : Bool := x.part == p && x.num == num
/-- A queue pair posted by software: 4,096 to a partition (R421). -/
def State.qpPost (s : State) (p : BitVec 3) (num : Nat) (rc : Bool) (port prio : BitVec 3) : State :=
  bif decide (4096 ≤ num) then s
  else s.setPkg { s.pkg with qps := ⟨p, num, rc, port, prio, 0, 0⟩ :: s.pkg.qps.filter fun x => !x.is p num }
/-- A queue pair sends nothing now: its port is down, its priority is paused there, or its reduced rate has it wait (R421). -/
def State.qpHeld (s : State) (x : QueuePair) : Bool :=
  !s.pkg.eth.getLsbD x.port.toNat || s.inReset (Config.cfgEth x.port.toNat) || s.pkg.ethPause.contains (x.port, x.prio) || decide (s.tstamp < x.next)
/-- Bytes of memory sent on a queue pair, as an outbound read returns them; one of a reduced rate then waits (R421, R422). -/
def State.ethSend (s : State) (p : BitVec 3) (num pa len : Nat) : State :=
  match s.pkg.qps.find? fun x => x.is p num with
  | none => s
  | some x =>
    bif s.qpHeld x || s.outsideWaits pa len false then s.again (.env (.ethSend p num pa len))
    else
      let s := s.outsideRead pa len
      bif x.rate == 0 then s
      else s.setPkg { s.pkg with qps := s.pkg.qps.map fun y => bif y.is p num then { y with next := s.tstamp + Config.ethPace y.rate len } else y }
/-- A packet marked by ECN on a queue pair is answered with a congestion notification (R421). -/
def State.ecnMarked (s : State) (p : BitVec 3) (num : Nat) : State :=
  bif s.pkg.qps.any fun x => x.is p num then s.setPkg { s.pkg with cnps := (p.toNat * 4096 + num) :: s.pkg.cnps } else s
/-- CONGESTION_NOTIFICATION_PACKET: the queue pair's rate is reduced. The operand is its partition's number times 4,096, and its own (R421; log 76, DESIGN
CHOICE). -/
def execCongestionNotificationPacket (qp : Nat) (s : State) : Out :=
  .next (s.setPkg { s.pkg with qps := s.pkg.qps.map fun x => bif x.part.toNat * 4096 + x.num == qp then { x with rate := x.rate + 1 } else x })
/-- PRIORITY_FLOW_CONTROL_PAUSE: transmission on a port's priority stops or resumes (R421). -/
def execPriorityFlowControlPause (port prio : BitVec 3) (pause : Bool) (s : State) : Out :=
  let others := s.pkg.ethPause.filter (· != (port, prio))
  .next (s.setPkg { s.pkg with ethPause := bif pause then (port, prio) :: others else others })

end Sys2Proof.Machine
end

