-- ==== Sys2Proof/Machine/Service.lean ====
section
/-! DEFINITION. Live service (R302, R384 to R387), secure boot (R389) and attestation (R390). -/

namespace Sys2Proof.Machine

/-! ### Breakpoint patches (R302) -/

/-- The old units that a strand goes on executing under a patch: those of the patched bytes, as they stand (R119, R302). -/
def State.holdOld (va : Word64) (n : Nat) (s : State) (k : Strand) : State :=
  let w := unitBytes k
  let first := va.toNat / w
  let units := (List.range ((va.toNat + n + w - 1) / w - first)).map fun i => BitVec.ofNat 64 ((first + i) * w)
  units.foldl (fun s u => s.fetchAhead k u) s

/-- BREAKPOINT_PATCH: the bytes are published; a core with a running step executes the old code until its next cut or its step's end, an idle
one acknowledges at once (R302). -/
def execBreakpointPatch (va : Word64) (bs : List Byte) (s : State) : Out :=
  let c := s.core.ctx
  let s' := bif s.stepOn then ([Strand.c, .l, .v, .s]).foldl (State.holdOld va bs.length) s else s
  let cells := (List.range bs.length).filterMap fun i => (s'.ctxPa c.part c.vf (va + BitVec.ofNat 64 i)).map fun pa => (pa, bs.getD i 0)
  let t := s'.memWrite cells none false false
  let u := t.setDbg { t.core.dbg with unacked := true, patchAt := some t.tstamp }
  .next (bif t.stepOn then u.setCtx { u.core.ctx with newCode := true } else u.acked)

/-! ### Drain and repair (R384, R385) -/

/-- The die and site of this core. -/
def State.mySite (s : State) : BitVec 2 × BitVec 5 := (s.pkg.die, s.pkg.site)

/-- SITE_DRAIN: the site places no further steps, and its running steps leave as for a world switch (R374, R384). -/
def execSiteDrain (die : BitVec 2) (site : BitVec 5) (s : State) : Out :=
  .next (bif s.inReset Config.cfgController || s.pkg.drained.contains (die, site) then s
    else
      let s := s.setPkg { s.pkg with drained := (die, site) :: s.pkg.drained }
      bif s.mySite != (die, site) then s
      else bif s.stepOn then (s.requestLeave .cutStop).setPkg { s.pkg with drainAt := some s.tstamp }
      else match s.sitePart with | some p => s.emptySlots p | none => s)

/-- A site's bit moved to the spare's (R371, R385). -/
def Part.moveSite (x : Part) (die : BitVec 2) (site : BitVec 5) : Part :=
  let i := 17 * die.toNat + site.toNat
  bif x.sites.getLsbD i then { x with sites := (x.sites &&& ~~~(1#68 <<< i)) ||| (1#68 <<< (17 * die.toNat + 16)) } else x
/-- A step of a drained site without a spare: run again on another cluster of the partition, whose halt line the block then waits for, or its block
fails: with RST = 0, and at the eighth abandonment (R365, R385). -/
def State.elsewhere (p : BitVec 3) (s : State) (id : StepId) : State :=
  bif !id.rst || decide (8 ≤ id.abandons) then s.failStep p id
  else match (s.part p).blockOf id with | some b => s.setPart p ((s.part p).setBlock { b with others := false }) | none => s
/-- Without a spare, the saved steps are abandoned, and those that wait to be placed on the site are placed on the partition's other clusters, as are
the steps of its blocks that the walker has not placed yet (R365, R385). -/
def State.abandonSite (s : State) (p : BitVec 3) : State :=
  let zs := ((s.part p).saved.filterMap fun z => z.ctx.running).map fun i => { i with abandons := i.abandons + 1 }
  let back := (s.part p).back.map (·.id)
  let s := s.setPart p { s.part p with saved := [], back := [] }
  let s := (zs ++ back).foldl (State.elsewhere p) s
  s.setPart p { s.part p with blocks := (s.part p).blocks.map fun b =>
    bif b.assigned && !b.failed && decide (b.next < b.past) then { b with next := b.past, others := false } else b }

/-- SITE_REPAIR: the die's spare takes the drained site's place, with its own pool; this core is then the spare's (R152, R385). -/
def execSiteRepair (die : BitVec 2) (site : BitVec 5) (banksLost : Nat) (s : State) : Out :=
  .next (bif s.inReset Config.cfgController || !s.pkg.drained.contains (die, site) || (s.mySite == (die, site) && s.stepOn) then s
    else bif s.pkg.spareUsed.getLsbD die.toNat then
      match s.sitePart with | some p => bif s.mySite == (die, site) then s.abandonSite p else s | none => s
    else
      let mine := s.mySite == (die, site)
      let s := s.setPkg { s.pkg with spareUsed := s.pkg.spareUsed ||| (1#4 <<< die.toNat), parts := s.pkg.parts.map fun x => x.moveSite die site
                                     drained := s.pkg.drained.filter (· != (die, site)) }
      bif !mine then s
      else
        let k := s.core
        let s := s.setPkg { s.pkg with site := 16, drainAt := none }
        { s with core := { k with mmu := ⟨[], []⟩, lanes := Vector.replicate 8 ⟨false, 0, false⟩
                                  pool := { k.pool with cells := [], epoch := k.pool.epoch + 1, bad := [], fixed := Vector.replicate 32 0, marked := 0
                                                        lost := Nat.min 31 banksLost } } })

/-! ### Firmware and pages (R386, R387) -/

/-- The installed security version of a unit. -/
def State.installed (s : State) (u : Nat) : Nat := match s.pkg.images.find? fun i => i.unit == u with | some i => i.version | none => 0
/-- FIRMWARE_UPDATE: an image whose signature and version pass is staged; any other is refused (R386). -/
def execFirmwareUpdate (unit version : Nat) (image sig : List Byte) (s : State) : Out :=
  .next (bif Config.sigOk image sig && decide (s.installed unit ≤ version) then
      (s.setPkg { s.pkg with staged := ⟨unit, version, image⟩ :: s.pkg.staged.filter fun i => i.unit != unit }).setCfgUnit (s.cfgUnit unit)
    else s)

/-- A leaf with another page's address. -/
def leafAt (e : Word64) (page : Nat) : Word64 := (e &&& ~~~(0x000fffffffffff00 : Word64)) ||| BitVec.ofNat 64 (page * 65536)


/-- A page moves: drain, copy, the leaf's new address, invalidation, as one event; only within row groups of one owner, and once no accepted near-bank
command names the old page, whose rows were translated as it was issued (R322, R349, R387). -/
def State.pageMove (s : State) (old new leaf : Nat) : State :=
  bif s.inReset Config.cfgController || s.ownerOf (old * 65536) != s.ownerOf (new * 65536) then s
  else bif s.nbNames (s.norm (old * 65536) / 65536) then s.again (.env (.pageMove old new leaf))
  else
    let old := s.norm (old * 65536) / 65536
    let new := s.norm (new * 65536) / 65536
    let s := (((s.flushStore).publishPage old).placeGranules old).drainPage old
    let m := s.mem
    let off := fun (a : Nat) => new * 65536 + a % 65536
    let moved := (m.cells.filter fun c => c.1 / 65536 == old).map fun c => (off c.1, c.2)
    let kept := m.cells.filter fun c => c.1 / 65536 != new
    let poison := (m.poison.filter fun l => l / 512 != new) ++ ((m.poison.filter fun l => l / 512 == old).map fun l => new * 512 + l % 512)
    let out := fun (a : Nat) => a / 65536 != old && a / 65536 != new
    let s := s.setMem { m with cells := moved.foldl (fun l c => cellSet l c.1 c.2) kept, poison := poison
                               stale := m.stale.filter (fun c => out c.1), l2 := m.l2.filter (fun x => out (x.line * 128))
                               msc := m.msc.filter (fun x => out (x.line * 128)), leases := m.leases.filter (fun x => out (x.line * 128)) }
    let e := leafAt (BitVec.ofNat 64 (s.rdNat leaf 8)) new
    let s := s.memWrite (cellsAt leaf (leBytes 8 e.toNat)) none false false
    let k := s.core
    let here := fun (w : Word64) => s.norm (entryAddr w) == old * 65536
    { s with core := { k with mmu := ⟨k.mmu.tlb.filter fun t => !here t.leaf, k.mmu.walk.filter fun t => !(t.level == 0 && here t.entry)⟩
                              str := k.str.map fun d => { d with ahead := [], req := [] } } }
/-- PAGE_MOVE (R387). The pages are numbered by physical address / 64 KiB; the leaf is a physical address (log 51, DEDUCED). -/
def execPageMove (old new leaf : Nat) (s : State) : Out :=
  bif !(decide (s.region (old * 65536) = .hbm ∧ s.region (new * 65536) = .hbm)) then .fault .noSuchAddress else .next (s.pageMove old new leaf)

/-! ### Secure boot and attestation (R389, R390) -/

/-- PACKAGE_RESET: the machine as after reset, with each verified image measured and each failure reported; a unit whose image fails stays in
reset (R389). The numbers that name this core are kept, and so is the security version of each unit, which no image may go below (R386). -/
def execPackageReset (images : List (Nat × List Byte × List Byte)) (s : State) : Out :=
  let ok := images.filter fun i => Config.sigOk i.2.1 i.2.2
  let k := State.reset
  .next { k with
    agenda := s.agenda, free := s.free
    pkg := { k.pkg with core := s.pkg.core, site := s.pkg.site, die := s.pkg.die, spareUsed := s.pkg.spareUsed
                        images := ok.map fun i => ⟨i.1, s.installed i.1, i.2.1⟩, bootFail := (images.filter fun i => !Config.sigOk i.2.1 i.2.2).map (·.1)
                        measure := ok.map fun i => (i.1, Config.sha256 i.2.1) } }

/-- An answer of the responder. -/
def State.spdmSay (s : State) (p : Spdm) (what : String) (b : List Byte) : State :=
  s.setPkg { s.pkg with spdm := { p with answers := (what, b) :: p.answers } }
/-- A request out of its order is answered with an error (log 26, DESIGN CHOICE). -/
def State.spdmError (s : State) : State := s.spdmSay s.pkg.spdm "ERROR" []
/-- The measurements: each unit's active image (R390). -/
def State.measureBytes (s : State) : List Byte := s.pkg.measure.flatMap fun m => leBytes 4 m.1 ++ m.2

/-- GET_VERSION: SPDM 1.3 (R390). -/
def execGetVersion (s : State) : Out := .next (s.spdmSay { s.pkg.spdm with version := true, caps := false, algs := false } "VERSION" [0x13])
/-- GET_CAPABILITIES. -/
def execGetCapabilities (s : State) : Out :=
  let p := s.pkg.spdm
  .next (bif p.version then s.spdmSay { p with caps := true, algs := false } "CAPABILITIES" [] else s.spdmError)
/-- NEGOTIATE_ALGORITHMS: SLH-DSA-SHA2-128s and SHA-256 (R390). -/
def execNegotiateAlgorithms (_algs : List Nat) (s : State) : Out :=
  let p := s.pkg.spdm
  .next (bif p.caps then s.spdmSay { p with algs := true } "ALGORITHMS" [] else s.spdmError)
/-- GET_DIGESTS. -/
def execGetDigests (s : State) : Out :=
  .next (bif s.pkg.spdm.algs then s.spdmSay s.pkg.spdm "DIGESTS" (Config.sha256 Config.cert) else s.spdmError)
/-- GET_CERTIFICATE. -/
def execGetCertificate (off len : Nat) (s : State) : Out :=
  .next (bif s.pkg.spdm.algs then s.spdmSay s.pkg.spdm "CERTIFICATE" ((Config.cert.drop off).take len) else s.spdmError)
/-- CHALLENGE: signed with the identity key (R390). -/
def execChallenge (nonce : List Byte) (s : State) : Out :=
  .next (bif s.pkg.spdm.algs then s.spdmSay s.pkg.spdm "CHALLENGE_AUTH" (Config.sha256 Config.cert ++ Config.sign (nonce ++ s.measureBytes)) else s.spdmError)
/-- GET_MEASUREMENTS: index 0 asks for their number, 0xff for all, any other for one (R390; log 26, DESIGN CHOICE). -/
def execGetMeasurements (index : Nat) (s : State) : Out :=
  let m := s.pkg.measure
  .next (bif !s.pkg.spdm.algs then s.spdmError
    else s.spdmSay s.pkg.spdm "MEASUREMENTS"
      (if index = 0 then leBytes 1 m.length else if index = 0xff then s.measureBytes else ((m[index - 1]?).map (·.2)).getD []))

end Sys2Proof.Machine
end

