-- ==== Sys2Proof/Machine/TrapEvents.lean ====
section
/-! DEFINITION. Traps that come between instructions: pending causes (R39, R40), freezes waited for (R31), the watchdog (R44). -/

namespace Sys2Proof.Machine


/-- TAKE_PENDING_TRAP: a pending cause is taken at C's instruction boundary in task mode, the lowest bit first; an mwait in progress
returns before it (R39, R40, R95). -/
def execTakePendingTrap (s : State) : Out :=
  .next (bif !s.asyncNow then s
    else
      match lowestPend s.core.trap.pend with
      | none => s
      | some 6 => s.takeUnitFault
      | some bit => s.takePending bit)

/-- L or S can go no further: ended, or blocked at a turn since which nothing has moved; and no data word is in issue (R31). -/
def LSStrand.stuck (x : LSStrand) (fresh : Bool) : Bool := (x.ended || (x.blocked && fresh)) && x.pend.isEmpty
/-- V can go no further: ended, halted with nothing in flight, or blocked at a turn since which nothing has moved (R31). -/
def VStrand.stuck (x : VStrand) (fresh : Bool) : Bool := x.ended || (x.halted && x.flight.isEmpty) || (x.blocked && fresh)
/-- A strand has had its turn since a word last retired, an occupancy last changed or data last came. -/
def State.looked (s : State) (k : Strand) : Bool := !s.core.trap.moved.getLsbD (strandCode k).toNat
/-- The strands that run on while a cause waits for its freeze are each blocked or ended, as things stand now (R31). -/
def State.othersStuck (s : State) (k : Strand) : Bool :=
  (decide (k = .l) || s.core.l.stuck (s.looked .l)) && (decide (k = .s) || s.core.s.stuck (s.looked .s)) &&
    (decide (k = .v) || s.core.v.stuck (s.looked .v))

/-- The freeze that a cause waits for takes effect: the trap is taken, or the core goes on waiting for the answer to a forwarded
fault (R30 to R32, R367). -/
def State.freezeNow (s : State) : State :=
  match s.core.trap.wait with
  | some w =>
    bif w.frozen then s
    else
      match w.seq with
      | some _ => s.setTrap { s.core.trap with wait := some { w with frozen := true } }
      | none => bif w.unit then (s.setTrap { s.core.trap with wait := none }).unitTrap else s.trapNow w.strand w.cause w.tfpc w.tval
  | none => s

/-- FREEZE_WAIT_DONE (R31). -/
def execFreezeWaitDone (s : State) : Out :=
  .next (match s.core.trap.wait with | some w => bif s.othersStuck w.strand then s.freezeNow else s | none => s)
/-- FREEZE_WAIT_TIMEOUT: after 2^16 cycles (R31). -/
def execFreezeWaitTimeout (s : State) : Out :=
  .next (match s.core.trap.wait with | some w => bif decide (2 ^ 16 ≤ w.cycles) then s.freezeNow else s | none => s)

/-- The watchdog has counted 2^20 cycles (R44). -/
def State.dogFull (s : State) : Bool := decide (2 ^ 20 < s.core.trap.dog)
/-- DEADLOCK_WATCHDOG: cause 0x11 shows the occupancies (R37, R44). -/
def execDeadlockWatchdog (s : State) : Out :=
  let t := s.async 3 s.occupancies
  .next (bif s.dogFull then t.setTrap { t.core.trap with dog := 0 } else s)

end Sys2Proof.Machine
end

