-- ==== Sys2Proof/Machine/VSlots.lean ====
section
/-! DEFINITION. Each T, A, B and M slot instruction alone: the bundle line that names only it, with timing (+0), guard p0 and no
token (R83). What each slot does stands in VIssue.lean (T), VAlu.lean (A, B) and Matrix.lean (M). -/

namespace Sys2Proof.Machine

/-- The bundle that a slot instruction stands for comes to issue. -/
def State.issueAlone (s : State) (i : Instr) : State := match i.bundle with | some b => s.issueBundle b | none => s

/-- lbeg in the T slot (R128, R129). -/
def execTLbeg (lid : BitVec 8) (ya : YReg) (imm : BitVec 7) (s : State) : Out := .next (s.issueAlone (.tLbeg lid ya imm))
/-- lend in the T slot (R130). -/
def execTLend (lid : BitVec 8) (q : Bool) (e : BitVec 3) (rot : Bool) (s : State) : Out := .next (s.issueAlone (.tLend lid q e rot))
/-- lbr in the T slot (R131). -/
def execTLbr (lid : BitVec 8) (ya : YReg) (q inv : Bool) (s : State) : Out := .next (s.issueAlone (.tLbr lid ya q inv))
/-- jmp (R136). -/
def execJmp (off : BitVec 19) (s : State) : Out := .next (s.issueAlone (.jmp off))
/-- halt (R137). -/
def execHalt (s : State) : Out := .next (s.issueAlone (.halt))
/-- stg set (R134). -/
def execStgSet (mask : BitVec 8) (s : State) : Out := .next (s.issueAlone (.stgSet mask))
/-- stg clr (R134). -/
def execStgClr (mask : BitVec 8) (s : State) : Out := .next (s.issueAlone (.stgClr mask))
/-- stg cond (R134). -/
def execStgCond (ya : YReg) (mask : BitVec 8) (s : State) : Out := .next (s.issueAlone (.stgCond ya mask))
/-- stg load (R134). -/
def execStgLoad (ya : YReg) (mask : BitVec 8) (s : State) : Out := .next (s.issueAlone (.stgLoad ya mask))
/-- tkr (R136). -/
def execTkr (yd : YReg) (imm : BitVec 11) (s : State) : Out := .next (s.issueAlone (.tkr yd imm))
/-- tsr (R136). -/
def execTsr (ya yb : YReg) (s : State) : Out := .next (s.issueAlone (.tsr ya yb))
/-- ywait (R136). -/
def execYwait (src : BitVec 3) (n : BitVec 6) (s : State) : Out := .next (s.issueAlone (.ywait src n))
/-- yadd in the T slot (R125). -/
def execTYadd (yd ya yb : YReg) (s : State) : Out := .next (s.issueAlone (.tYadd yd ya yb))
/-- yaddi in the T slot (R125). -/
def execTYaddi (yd ya : YReg) (imm : BitVec 11) (s : State) : Out := .next (s.issueAlone (.tYaddi yd ya imm))
/-- ymov in the T slot (R125). -/
def execTYmov (yd ya : YReg) (s : State) : Out := .next (s.issueAlone (.tYmov yd ya))
/-- yrd in the T slot (R125). -/
def execTYrd (yd : YReg) (sel : BitVec 3) (lid : BitVec 8) (s : State) : Out := .next (s.issueAlone (.tYrd yd sel lid))
/-- A hint in the T slot (R65). -/
def execTHint (payload : BitVec 19) (s : State) : Out := .next (s.issueAlone (.tHint payload))
/-- vadd (R214). -/
def execVadd (ln : Lane) (d a b : OpCode) (mode : BitVec 2) (s : State) : Out := .next (s.issueAlone (.vadd ln d a b mode))
/-- vsub (R214). -/
def execVsub (ln : Lane) (d a b : OpCode) (mode : BitVec 2) (s : State) : Out := .next (s.issueAlone (.vsub ln d a b mode))
/-- vmul (R214). -/
def execVmul (ln : Lane) (d a b : OpCode) (mode : BitVec 2) (s : State) : Out := .next (s.issueAlone (.vmul ln d a b mode))
/-- vfma (R214). -/
def execVfma (ln : Lane) (d a b c : OpCode) (mode : BitVec 2) (s : State) : Out := .next (s.issueAlone (.vfma ln d a b c mode))
/-- vfms (R214). -/
def execVfms (ln : Lane) (d a b c : OpCode) (mode : BitVec 2) (s : State) : Out := .next (s.issueAlone (.vfms ln d a b c mode))
/-- vmin (R215). -/
def execVmin (ln : Lane) (d a b : OpCode) (mode : BitVec 2) (s : State) : Out := .next (s.issueAlone (.vmin ln d a b mode))
/-- vmax (R215). -/
def execVmax (ln : Lane) (d a b : OpCode) (mode : BitVec 2) (s : State) : Out := .next (s.issueAlone (.vmax ln d a b mode))
/-- vclamp (R215). -/
def execVclamp (ln : Lane) (d a b c : OpCode) (mode : BitVec 2) (s : State) : Out := .next (s.issueAlone (.vclamp ln d a b c mode))
/-- vabs (R215). -/
def execVabs (ln : Lane) (d a : OpCode) (mode : BitVec 2) (s : State) : Out := .next (s.issueAlone (.vabs ln d a mode))
/-- vneg (R215). -/
def execVneg (ln : Lane) (d a : OpCode) (mode : BitVec 2) (s : State) : Out := .next (s.issueAlone (.vneg ln d a mode))
/-- vand (R216). -/
def execVand (ln : Lane) (d a b : OpCode) (s : State) : Out := .next (s.issueAlone (.vand ln d a b))
/-- vor (R216). -/
def execVor (ln : Lane) (d a b : OpCode) (s : State) : Out := .next (s.issueAlone (.vor ln d a b))
/-- vxor (R216). -/
def execVxor (ln : Lane) (d a b : OpCode) (s : State) : Out := .next (s.issueAlone (.vxor ln d a b))
/-- vnot (R216). -/
def execVnot (ln : Lane) (d a : OpCode) (s : State) : Out := .next (s.issueAlone (.vnot ln d a))
/-- vshl (R216). -/
def execVshl (ln : Lane) (d a b : OpCode) (n : BitVec 5) (imm : Bool) (s : State) : Out := .next (s.issueAlone (.vshl ln d a b n imm))
/-- vshr (R216). -/
def execVshr (ln : Lane) (d a b : OpCode) (n : BitVec 5) (imm : Bool) (s : State) : Out := .next (s.issueAlone (.vshr ln d a b n imm))
/-- vsra (R216). -/
def execVsra (ln : Lane) (d a b : OpCode) (n : BitVec 5) (imm : Bool) (s : State) : Out := .next (s.issueAlone (.vsra ln d a b n imm))
/-- vcmp (R217). -/
def execVcmp (ln : Lane) (d a b : OpCode) (cond : BitVec 5) (mode : BitVec 2) (s : State) : Out := .next (s.issueAlone (.vcmp ln d a b cond mode))
/-- vsel (R218). -/
def execVsel (ln : Lane) (d a b c : OpCode) (s : State) : Out := .next (s.issueAlone (.vsel ln d a b c))
/-- vmov (R218). -/
def execVmov (ln : Lane) (d a : OpCode) (s : State) : Out := .next (s.issueAlone (.vmov ln d a))
/-- vimm (R219). -/
def execVimm (ln : Lane) (d : OpCode) (imm : BitVec 15) (mode : BitVec 2) (s : State) : Out := .next (s.issueAlone (.vimm ln d imm mode))
/-- vbrow (R220). -/
def execVbrow (ln : Lane) (d a : OpCode) (idx : BitVec 10) (s : State) : Out := .next (s.issueAlone (.vbrow ln d a idx))
/-- vbcol (R220). -/
def execVbcol (ln : Lane) (d a : OpCode) (idx : BitVec 12) (s : State) : Out := .next (s.issueAlone (.vbcol ln d a idx))
/-- vidx (R220). -/
def execVidx (ln : Lane) (d : OpCode) (off : BitVec 5) (mode : BitVec 2) (s : State) : Out := .next (s.issueAlone (.vidx ln d off mode))
/-- vperm (R220). -/
def execVperm (ln : Lane) (d a b : OpCode) (mode : BitVec 2) (s : State) : Out := .next (s.issueAlone (.vperm ln d a b mode))
/-- vtr (R220). -/
def execVtr (ln : Lane) (d a : OpCode) (s : State) : Out := .next (s.issueAlone (.vtr ln d a))
/-- vrsum (R221). -/
def execVrsum (ln : Lane) (d a : OpCode) (mode : BitVec 2) (s : State) : Out := .next (s.issueAlone (.vrsum ln d a mode))
/-- vcsum (R221). -/
def execVcsum (ln : Lane) (d a : OpCode) (mode : BitVec 2) (s : State) : Out := .next (s.issueAlone (.vcsum ln d a mode))
/-- vrmax (R221). -/
def execVrmax (ln : Lane) (d a : OpCode) (mode : BitVec 2) (s : State) : Out := .next (s.issueAlone (.vrmax ln d a mode))
/-- vcmax (R221). -/
def execVcmax (ln : Lane) (d a : OpCode) (mode : BitVec 2) (s : State) : Out := .next (s.issueAlone (.vcmax ln d a mode))
/-- vshape (R204). -/
def execVshape (ln : Lane) (rlog clog fmt : BitVec 5) (s : State) : Out := .next (s.issueAlone (.vshape ln rlog clog fmt))
/-- vcvt (R222). -/
def execVcvt (ln : Lane) (d a : OpCode) (outw : Bool) (fo : BitVec 5) (rm : BitVec 2) (s : State) : Out := .next (s.issueAlone (.vcvt ln d a outw fo rm))
/-- vscl (R223). -/
def execVscl (ln : Lane) (d a b : OpCode) (col : Bool) (rm : BitVec 2) (s : State) : Out := .next (s.issueAlone (.vscl ln d a b col rm))
/-- vpack (R224). -/
def execVpack (ln : Lane) (d a : OpCode) (k : BitVec 5) (s : State) : Out := .next (s.issueAlone (.vpack ln d a k))
/-- vunpk (R224). -/
def execVunpk (ln : Lane) (d a : OpCode) (k : BitVec 5) (s : State) : Out := .next (s.issueAlone (.vunpk ln d a k))
/-- vexp (R239 to R242). -/
def execVexp (d a : OpCode) (rm : BitVec 2) (s : State) : Out := .next (s.issueAlone (.vexp d a rm))
/-- vexp2 (R239 to R242). -/
def execVexp2 (d a : OpCode) (rm : BitVec 2) (s : State) : Out := .next (s.issueAlone (.vexp2 d a rm))
/-- vlog (R239 to R242). -/
def execVlog (d a : OpCode) (rm : BitVec 2) (s : State) : Out := .next (s.issueAlone (.vlog d a rm))
/-- vlog2 (R239 to R242). -/
def execVlog2 (d a : OpCode) (rm : BitVec 2) (s : State) : Out := .next (s.issueAlone (.vlog2 d a rm))
/-- vrcp (R239 to R242). -/
def execVrcp (d a : OpCode) (rm : BitVec 2) (s : State) : Out := .next (s.issueAlone (.vrcp d a rm))
/-- vrsqrt (R239 to R242). -/
def execVrsqrt (d a : OpCode) (rm : BitVec 2) (s : State) : Out := .next (s.issueAlone (.vrsqrt d a rm))
/-- vsqrt (R239 to R242). -/
def execVsqrt (d a : OpCode) (rm : BitVec 2) (s : State) : Out := .next (s.issueAlone (.vsqrt d a rm))
/-- vtanh (R239 to R242). -/
def execVtanh (d a : OpCode) (rm : BitVec 2) (s : State) : Out := .next (s.issueAlone (.vtanh d a rm))
/-- vsig (R239 to R242). -/
def execVsig (d a : OpCode) (rm : BitVec 2) (s : State) : Out := .next (s.issueAlone (.vsig d a rm))
/-- vsin (R239 to R242). -/
def execVsin (d a : OpCode) (rm : BitVec 2) (s : State) : Out := .next (s.issueAlone (.vsin d a rm))
/-- vcos (R239 to R242). -/
def execVcos (d a : OpCode) (rm : BitVec 2) (s : State) : Out := .next (s.issueAlone (.vcos d a rm))
/-- verf (R239 to R242). -/
def execVerf (d a : OpCode) (rm : BitVec 2) (s : State) : Out := .next (s.issueAlone (.verf d a rm))
/-- A hint in an A or B slot (R65). -/
def execAbHint (ln : Lane) (payload : BitVec 22) (s : State) : Out := .next (s.issueAlone (.abHint ln payload))
/-- mnop (R231). -/
def execMnop (s : State) : Out := .next (s.issueAlone (.mnop))
/-- mcfg (R233). -/
def execMcfg (float : Bool) (wfmt : BitVec 4) (sparse : BitVec 2) (s : State) : Out := .next (s.issueAlone (.mcfg float wfmt sparse))
/-- mswap (R234). -/
def execMswap (s : State) : Out := .next (s.issueAlone (.mswap))
/-- mmac (R236, R237). -/
def execMmac (acc : Bool) (src : OpCode) (rowb : BitVec 7) (s : State) : Out := .next (s.issueAlone (.mmac acc src rowb))
/-- mmacs (R236, R237). -/
def execMmacs (acc : Bool) (src : OpCode) (rowb : BitVec 7) (scr : BitVec 5) (s : State) : Out := .next (s.issueAlone (.mmacs acc src rowb scr))
/-- mclr (R235). -/
def execMclr (acc float : Bool) (s : State) : Out := .next (s.issueAlone (.mclr acc float))
/-- mdrain (R238). -/
def execMdrain (acc : Bool) (scale : BitVec 5) (d : OpCode) (fo : BitVec 3) (rm : BitVec 2) (tile : BitVec 6) (s : State) : Out := .next (s.issueAlone (.mdrain acc scale d fo rm tile))

end Sys2Proof.Machine
end

