-- ==== Sys2Proof/Machine/Dispatch.lean ====
section
/-! DEFINITION. The dispatcher: one arm for each instruction. -/

namespace Sys2Proof.Machine

open Sys2Proof

def exec (i : Instr) (s : State) : Host.Outcome State Fault Refusal :=
  match i with
  | .add xd xa xb => Sys2Proof.Machine.execAdd xd xa xb s
  | .sub xd xa xb => Sys2Proof.Machine.execSub xd xa xb s
  | .and xd xa xb => Sys2Proof.Machine.execAnd xd xa xb s
  | .or xd xa xb => Sys2Proof.Machine.execOr xd xa xb s
  | .xor xd xa xb => Sys2Proof.Machine.execXor xd xa xb s
  | .andn xd xa xb => Sys2Proof.Machine.execAndn xd xa xb s
  | .sll xd xa xb => Sys2Proof.Machine.execSll xd xa xb s
  | .srl xd xa xb => Sys2Proof.Machine.execSrl xd xa xb s
  | .sra xd xa xb => Sys2Proof.Machine.execSra xd xa xb s
  | .slt xd xa xb => Sys2Proof.Machine.execSlt xd xa xb s
  | .sltn xd xa xb => Sys2Proof.Machine.execSltn xd xa xb s
  | .min xd xa xb => Sys2Proof.Machine.execMin xd xa xb s
  | .max xd xa xb => Sys2Proof.Machine.execMax xd xa xb s
  | .minn xd xa xb => Sys2Proof.Machine.execMinn xd xa xb s
  | .maxn xd xa xb => Sys2Proof.Machine.execMaxn xd xa xb s
  | .mul xd xa xb => Sys2Proof.Machine.execMul xd xa xb s
  | .mulh xd xa xb => Sys2Proof.Machine.execMulh xd xa xb s
  | .mulhn xd xa xb => Sys2Proof.Machine.execMulhn xd xa xb s
  | .div xd xa xb => Sys2Proof.Machine.execDiv xd xa xb s
  | .divn xd xa xb => Sys2Proof.Machine.execDivn xd xa xb s
  | .rem xd xa xb => Sys2Proof.Machine.execRem xd xa xb s
  | .remn xd xa xb => Sys2Proof.Machine.execRemn xd xa xb s
  | .clz xd xa => Sys2Proof.Machine.execClz xd xa s
  | .ctz xd xa => Sys2Proof.Machine.execCtz xd xa s
  | .popc xd xa => Sys2Proof.Machine.execPopc xd xa s
  | .bswap xd xa => Sys2Proof.Machine.execBswap xd xa s
  | .addx xd xa xb sh => Sys2Proof.Machine.execAddx xd xa xb sh s
  | .addi xd xa imm => Sys2Proof.Machine.execAddi xd xa imm s
  | .andi xd xa imm => Sys2Proof.Machine.execAndi xd xa imm s
  | .ori xd xa imm => Sys2Proof.Machine.execOri xd xa imm s
  | .xori xd xa imm => Sys2Proof.Machine.execXori xd xa imm s
  | .slli xd xa imm => Sys2Proof.Machine.execSlli xd xa imm s
  | .srli xd xa imm => Sys2Proof.Machine.execSrli xd xa imm s
  | .srai xd xa imm => Sys2Proof.Machine.execSrai xd xa imm s
  | .slti xd xa imm => Sys2Proof.Machine.execSlti xd xa imm s
  | .sltni xd xa imm => Sys2Proof.Machine.execSltni xd xa imm s
  | .muli xd xa imm => Sys2Proof.Machine.execMuli xd xa imm s
  | .ldhi xd xa imm => Sys2Proof.Machine.execLdhi xd xa imm s
  | .lea xd imm => Sys2Proof.Machine.execLea xd imm s
  | .ldI8 xd xa off => Sys2Proof.Machine.execLdI8 xd xa off s
  | .ldI16 xd xa off => Sys2Proof.Machine.execLdI16 xd xa off s
  | .ldI32 xd xa off => Sys2Proof.Machine.execLdI32 xd xa off s
  | .ld xd xa off => Sys2Proof.Machine.execLd xd xa off s
  | .ldN8 xd xa off => Sys2Proof.Machine.execLdN8 xd xa off s
  | .ldN16 xd xa off => Sys2Proof.Machine.execLdN16 xd xa off s
  | .ldN32 xd xa off => Sys2Proof.Machine.execLdN32 xd xa off s
  | .stI8 xd xa off => Sys2Proof.Machine.execStI8 xd xa off s
  | .stI16 xd xa off => Sys2Proof.Machine.execStI16 xd xa off s
  | .stI32 xd xa off => Sys2Proof.Machine.execStI32 xd xa off s
  | .st xd xa off => Sys2Proof.Machine.execSt xd xa off s
  | .beq xd xa imm => Sys2Proof.Machine.execBeq xd xa imm s
  | .bne xd xa imm => Sys2Proof.Machine.execBne xd xa imm s
  | .blt xd xa imm => Sys2Proof.Machine.execBlt xd xa imm s
  | .bge xd xa imm => Sys2Proof.Machine.execBge xd xa imm s
  | .bltn xd xa imm => Sys2Proof.Machine.execBltn xd xa imm s
  | .bgen xd xa imm => Sys2Proof.Machine.execBgen xd xa imm s
  | .jal off => Sys2Proof.Machine.execJal off s
  | .jalr xd xa imm => Sys2Proof.Machine.execJalr xd xa imm s
  | .amoAdd xd xa xb => Sys2Proof.Machine.execAmoAdd xd xa xb s
  | .amoAddI32 xd xa xb => Sys2Proof.Machine.execAmoAddI32 xd xa xb s
  | .amoAnd xd xa xb => Sys2Proof.Machine.execAmoAnd xd xa xb s
  | .amoAndI32 xd xa xb => Sys2Proof.Machine.execAmoAndI32 xd xa xb s
  | .amoOr xd xa xb => Sys2Proof.Machine.execAmoOr xd xa xb s
  | .amoOrI32 xd xa xb => Sys2Proof.Machine.execAmoOrI32 xd xa xb s
  | .amoXor xd xa xb => Sys2Proof.Machine.execAmoXor xd xa xb s
  | .amoXorI32 xd xa xb => Sys2Proof.Machine.execAmoXorI32 xd xa xb s
  | .amoMin xd xa xb => Sys2Proof.Machine.execAmoMin xd xa xb s
  | .amoMinI32 xd xa xb => Sys2Proof.Machine.execAmoMinI32 xd xa xb s
  | .amoMax xd xa xb => Sys2Proof.Machine.execAmoMax xd xa xb s
  | .amoMaxI32 xd xa xb => Sys2Proof.Machine.execAmoMaxI32 xd xa xb s
  | .amoSwap xd xa xb => Sys2Proof.Machine.execAmoSwap xd xa xb s
  | .amoSwapI32 xd xa xb => Sys2Proof.Machine.execAmoSwapI32 xd xa xb s
  | .amoCas xd xa xb xc => Sys2Proof.Machine.execAmoCas xd xa xb xc s
  | .amoCasI32 xd xa xb xc => Sys2Proof.Machine.execAmoCasI32 xd xa xb xc s
  | .amoFaddF32 xd xa xb => Sys2Proof.Machine.execAmoFaddF32 xd xa xb s
  | .amoFaddBf16 xd xa xb => Sys2Proof.Machine.execAmoFaddBf16 xd xa xb s
  | .sbBase sr xa => Sys2Proof.Machine.execSbBase sr xa s
  | .sbBaseSc sr xa xb => Sys2Proof.Machine.execSbBaseSc sr xa xb s
  | .sbDim sr dim xa xb => Sys2Proof.Machine.execSbDim sr dim xa xb s
  | .sbFmt sr xa xb => Sys2Proof.Machine.execSbFmt sr xa xb s
  | .sbWin sr xa => Sys2Proof.Machine.execSbWin sr xa s
  | .sbGo sr => Sys2Proof.Machine.execSbGo sr s
  | .sbStop sr => Sys2Proof.Machine.execSbStop sr s
  | .sbRd xd sr n => Sys2Proof.Machine.execSbRd xd sr n s
  | .cpMp xd xa xb done => Sys2Proof.Machine.execCpMp xd xa xb done s
  | .cpPm xd xa xb done defer => Sys2Proof.Machine.execCpPm xd xa xb done defer s
  | .cpMm xd xa xb done defer => Sys2Proof.Machine.execCpMm xd xa xb done defer s
  | .cpPp xd xa xb done => Sys2Proof.Machine.execCpPp xd xa xb done s
  | .gth xd xa xb done iw sz => Sys2Proof.Machine.execGth xd xa xb done iw sz s
  | .sct xd xa xb done defer iw sz => Sys2Proof.Machine.execSct xd xa xb done defer iw sz s
  | .pub xd done => Sys2Proof.Machine.execPub xd done s
  | .ecw xd xa all => Sys2Proof.Machine.execEcw xd xa all s
  | .eqRd xd gather sel => Sys2Proof.Machine.execEqRd xd gather sel s
  | .mig xa xb => Sys2Proof.Machine.execMig xa xb s
  | .migRd xd sel => Sys2Proof.Machine.execMigRd xd sel s
  | .wrfRd xd xa => Sys2Proof.Machine.execWrfRd xd xa s
  | .nbLd xa slot => Sys2Proof.Machine.execNbLd xa slot s
  | .nbGo xd xa xb done slot => Sys2Proof.Machine.execNbGo xd xa xb done slot s
  | .nbFence => Sys2Proof.Machine.execNbFence s
  | .nbRd xd xa sel => Sys2Proof.Machine.execNbRd xd xa sel s
  | .dmd xd xa n => Sys2Proof.Machine.execDmd xd xa n s
  | .redmd xd => Sys2Proof.Machine.execRedmd xd s
  | .dmdRd xd sel node => Sys2Proof.Machine.execDmdRd xd sel node s
  | .lsymRd xd sym => Sys2Proof.Machine.execLsymRd xd sym s
  | .lsymPin xa sym => Sys2Proof.Machine.execLsymPin xa sym s
  | .lsymFree sym => Sys2Proof.Machine.execLsymFree sym s
  | .fenceE => Sys2Proof.Machine.execFenceE s
  | .fenceB => Sys2Proof.Machine.execFenceB s
  | .fenceS => Sys2Proof.Machine.execFenceS s
  | .fenceF => Sys2Proof.Machine.execFenceF s
  | .mon xd xa => Sys2Proof.Machine.execMon xd xa s
  | .mwait xd xa => Sys2Proof.Machine.execMwait xd xa s
  | .bar level => Sys2Proof.Machine.execBar level s
  | .barA xd level => Sys2Proof.Machine.execBarA xd level s
  | .barW level => Sys2Proof.Machine.execBarW level s
  | .tokPush next => Sys2Proof.Machine.execTokPush next s
  | .tokPop next => Sys2Proof.Machine.execTokPop next s
  | .tsub xa q => Sys2Proof.Machine.execTsub xa q s
  | .tdep xd xa => Sys2Proof.Machine.execTdep xd xa s
  | .yield strict => Sys2Proof.Machine.execYield strict s
  | .csrr xd n => Sys2Proof.Machine.execCsrr xd n s
  | .csrw xd xa n => Sys2Proof.Machine.execCsrw xd xa n s
  | .csrs xd xa n => Sys2Proof.Machine.execCsrs xd xa n s
  | .csrc xd xa n => Sys2Proof.Machine.execCsrc xd xa n s
  | .eret => Sys2Proof.Machine.execEret s
  | .tlbi xa => Sys2Proof.Machine.execTlbi xa s
  | .icsync => Sys2Proof.Machine.execIcsync s
  | .endC => Sys2Proof.Machine.execEndC s
  | .trap imm => Sys2Proof.Machine.execTrap imm s
  | .bkpt code => Sys2Proof.Machine.execBkpt code s
  | .nop payload => Sys2Proof.Machine.execNop payload s
  | .yadd k tok mk yd ya yb => Sys2Proof.Machine.execYadd k tok mk yd ya yb s
  | .yaddi k tok mk yd ya imm => Sys2Proof.Machine.execYaddi k tok mk yd ya imm s
  | .ymov k tok mk yd ya => Sys2Proof.Machine.execYmov k tok mk yd ya s
  | .yrd k tok mk yd sel lid => Sys2Proof.Machine.execYrd k tok mk yd sel lid s
  | .lbeg k tok lid ya imm => Sys2Proof.Machine.execLbeg k tok lid ya imm s
  | .lend k tok lid => Sys2Proof.Machine.execLend k tok lid s
  | .lbr k tok mk lid ya => Sys2Proof.Machine.execLbr k tok mk lid ya s
  | .lsEnd k tok mk => Sys2Proof.Machine.execLsEnd k tok mk s
  | .vld tok mk vr sr ya fmt toPool len off => Sys2Proof.Machine.execVld tok mk vr sr ya fmt toPool len off s
  | .pld tok mk vr ya fmt len off => Sys2Proof.Machine.execPld tok mk vr ya fmt len off s
  | .wload tok mk sr ya fmt part rows row => Sys2Proof.Machine.execWload tok mk sr ya fmt part rows row s
  | .vst tok mk vr sr ya fmt rm len off => Sys2Proof.Machine.execVst tok mk vr sr ya fmt rm len off s
  | .pst tok mk vr ya len off => Sys2Proof.Machine.execPst tok mk vr ya len off s
  | .vredAdd tok mk vr sr ya fmt len off => Sys2Proof.Machine.execVredAdd tok mk vr sr ya fmt len off s
  | .vredMin tok mk vr sr ya fmt len off => Sys2Proof.Machine.execVredMin tok mk vr sr ya fmt len off s
  | .vredMax tok mk vr sr ya fmt len off => Sys2Proof.Machine.execVredMax tok mk vr sr ya fmt len off s
  | .lsHint k tok mk payload => Sys2Proof.Machine.execLsHint k tok mk payload s
  | .vBundleIssue bun => Sys2Proof.Machine.execVBundleIssue bun s
  | .tLbeg lid ya imm => Sys2Proof.Machine.execTLbeg lid ya imm s
  | .tLend lid q e rot => Sys2Proof.Machine.execTLend lid q e rot s
  | .tLbr lid ya q inv => Sys2Proof.Machine.execTLbr lid ya q inv s
  | .jmp off => Sys2Proof.Machine.execJmp off s
  | .halt => Sys2Proof.Machine.execHalt s
  | .stgSet mask => Sys2Proof.Machine.execStgSet mask s
  | .stgClr mask => Sys2Proof.Machine.execStgClr mask s
  | .stgCond ya mask => Sys2Proof.Machine.execStgCond ya mask s
  | .stgLoad ya mask => Sys2Proof.Machine.execStgLoad ya mask s
  | .tkr yd imm => Sys2Proof.Machine.execTkr yd imm s
  | .tsr ya yb => Sys2Proof.Machine.execTsr ya yb s
  | .ywait src n => Sys2Proof.Machine.execYwait src n s
  | .tYadd yd ya yb => Sys2Proof.Machine.execTYadd yd ya yb s
  | .tYaddi yd ya imm => Sys2Proof.Machine.execTYaddi yd ya imm s
  | .tYmov yd ya => Sys2Proof.Machine.execTYmov yd ya s
  | .tYrd yd sel lid => Sys2Proof.Machine.execTYrd yd sel lid s
  | .tHint payload => Sys2Proof.Machine.execTHint payload s
  | .vadd ln d a b mode => Sys2Proof.Machine.execVadd ln d a b mode s
  | .vsub ln d a b mode => Sys2Proof.Machine.execVsub ln d a b mode s
  | .vmul ln d a b mode => Sys2Proof.Machine.execVmul ln d a b mode s
  | .vfma ln d a b c mode => Sys2Proof.Machine.execVfma ln d a b c mode s
  | .vfms ln d a b c mode => Sys2Proof.Machine.execVfms ln d a b c mode s
  | .vmin ln d a b mode => Sys2Proof.Machine.execVmin ln d a b mode s
  | .vmax ln d a b mode => Sys2Proof.Machine.execVmax ln d a b mode s
  | .vclamp ln d a b c mode => Sys2Proof.Machine.execVclamp ln d a b c mode s
  | .vabs ln d a mode => Sys2Proof.Machine.execVabs ln d a mode s
  | .vneg ln d a mode => Sys2Proof.Machine.execVneg ln d a mode s
  | .vand ln d a b => Sys2Proof.Machine.execVand ln d a b s
  | .vor ln d a b => Sys2Proof.Machine.execVor ln d a b s
  | .vxor ln d a b => Sys2Proof.Machine.execVxor ln d a b s
  | .vnot ln d a => Sys2Proof.Machine.execVnot ln d a s
  | .vshl ln d a b n imm => Sys2Proof.Machine.execVshl ln d a b n imm s
  | .vshr ln d a b n imm => Sys2Proof.Machine.execVshr ln d a b n imm s
  | .vsra ln d a b n imm => Sys2Proof.Machine.execVsra ln d a b n imm s
  | .vcmp ln d a b cond mode => Sys2Proof.Machine.execVcmp ln d a b cond mode s
  | .vsel ln d a b c => Sys2Proof.Machine.execVsel ln d a b c s
  | .vmov ln d a => Sys2Proof.Machine.execVmov ln d a s
  | .vimm ln d imm mode => Sys2Proof.Machine.execVimm ln d imm mode s
  | .vbrow ln d a idx => Sys2Proof.Machine.execVbrow ln d a idx s
  | .vbcol ln d a idx => Sys2Proof.Machine.execVbcol ln d a idx s
  | .vidx ln d off mode => Sys2Proof.Machine.execVidx ln d off mode s
  | .vperm ln d a b mode => Sys2Proof.Machine.execVperm ln d a b mode s
  | .vtr ln d a => Sys2Proof.Machine.execVtr ln d a s
  | .vrsum ln d a mode => Sys2Proof.Machine.execVrsum ln d a mode s
  | .vcsum ln d a mode => Sys2Proof.Machine.execVcsum ln d a mode s
  | .vrmax ln d a mode => Sys2Proof.Machine.execVrmax ln d a mode s
  | .vcmax ln d a mode => Sys2Proof.Machine.execVcmax ln d a mode s
  | .vshape ln rlog clog fmt => Sys2Proof.Machine.execVshape ln rlog clog fmt s
  | .vcvt ln d a outw fo rm => Sys2Proof.Machine.execVcvt ln d a outw fo rm s
  | .vscl ln d a b col rm => Sys2Proof.Machine.execVscl ln d a b col rm s
  | .vpack ln d a k => Sys2Proof.Machine.execVpack ln d a k s
  | .vunpk ln d a k => Sys2Proof.Machine.execVunpk ln d a k s
  | .vexp d a rm => Sys2Proof.Machine.execVexp d a rm s
  | .vexp2 d a rm => Sys2Proof.Machine.execVexp2 d a rm s
  | .vlog d a rm => Sys2Proof.Machine.execVlog d a rm s
  | .vlog2 d a rm => Sys2Proof.Machine.execVlog2 d a rm s
  | .vrcp d a rm => Sys2Proof.Machine.execVrcp d a rm s
  | .vrsqrt d a rm => Sys2Proof.Machine.execVrsqrt d a rm s
  | .vsqrt d a rm => Sys2Proof.Machine.execVsqrt d a rm s
  | .vtanh d a rm => Sys2Proof.Machine.execVtanh d a rm s
  | .vsig d a rm => Sys2Proof.Machine.execVsig d a rm s
  | .vsin d a rm => Sys2Proof.Machine.execVsin d a rm s
  | .vcos d a rm => Sys2Proof.Machine.execVcos d a rm s
  | .verf d a rm => Sys2Proof.Machine.execVerf d a rm s
  | .abHint ln payload => Sys2Proof.Machine.execAbHint ln payload s
  | .mnop => Sys2Proof.Machine.execMnop s
  | .mcfg float wfmt sparse => Sys2Proof.Machine.execMcfg float wfmt sparse s
  | .mswap => Sys2Proof.Machine.execMswap s
  | .mmac acc src rowb => Sys2Proof.Machine.execMmac acc src rowb s
  | .mmacs acc src rowb scr => Sys2Proof.Machine.execMmacs acc src rowb scr s
  | .mclr acc float => Sys2Proof.Machine.execMclr acc float s
  | .mdrain acc scale d fo rm tile => Sys2Proof.Machine.execMdrain acc scale d fo rm tile s
  | .unassignedEncoding k word => Sys2Proof.Machine.execUnassignedEncoding k word s
  | .instructionFetchFault k cause tval => Sys2Proof.Machine.execInstructionFetchFault k cause tval s
  | .dataWordRetire k => Sys2Proof.Machine.execDataWordRetire k s
  | .engineCommandStart e => Sys2Proof.Machine.execEngineCommandStart e s
  | .completionEntryPush e => Sys2Proof.Machine.execCompletionEntryPush e s
  | .migTranslationLands n => Sys2Proof.Machine.execMigTranslationLands n s
  | .nbRowStep n => Sys2Proof.Machine.execNbRowStep n s
  | .nbResume n => Sys2Proof.Machine.execNbResume n s
  | .nbComplete n => Sys2Proof.Machine.execNbComplete n s
  | .ringTake p q => Sys2Proof.Machine.execRingTake p q s
  | .predPoll p => Sys2Proof.Machine.execPredPoll p s
  | .blockAssign p => Sys2Proof.Machine.execBlockAssign p s
  | .blockComplete blk => Sys2Proof.Machine.execBlockComplete blk s
  | .quantumEnd p => Sys2Proof.Machine.execQuantumEnd p s
  | .savedCounterAdd p v event => Sys2Proof.Machine.execSavedCounterAdd p v event s
  | .hostWrite pa bytes => Sys2Proof.Machine.execHostWrite pa bytes s
  | .ethRdmaWriteIn pa bytes => Sys2Proof.Machine.execEthRdmaWriteIn pa bytes s
  | .ethRdmaReadOut pa len => Sys2Proof.Machine.execEthRdmaReadOut pa len s
  | .remoteRequestAtHome pkg tag pa op write len => Sys2Proof.Machine.execRemoteRequestAtHome pkg tag pa op write len s
  | .faultAnswerTimeout p seq => Sys2Proof.Machine.execFaultAnswerTimeout p seq s
  | .switchFreezeDeadline p => Sys2Proof.Machine.execSwitchFreezeDeadline p s
  | .worldSwitchRestore p => Sys2Proof.Machine.execWorldSwitchRestore p s
  | .unitCommit unit => Sys2Proof.Machine.execUnitCommit unit s
  | .vWriteLands => Sys2Proof.Machine.execVWriteLands s
  | .streamConsume => Sys2Proof.Machine.execStreamConsume s
  | .stretchEnd => Sys2Proof.Machine.execStretchEnd s
  | .vHoldRelease => Sys2Proof.Machine.execVHoldRelease s
  | .consistentCut => Sys2Proof.Machine.execConsistentCut s
  | .latencySample src cycles => Sys2Proof.Machine.execLatencySample src cycles s
  | .takePendingTrap => Sys2Proof.Machine.execTakePendingTrap s
  | .freezeWaitDone => Sys2Proof.Machine.execFreezeWaitDone s
  | .freezeWaitTimeout => Sys2Proof.Machine.execFreezeWaitTimeout s
  | .deadlockWatchdog => Sys2Proof.Machine.execDeadlockWatchdog s
  | .stepPlace => Sys2Proof.Machine.execStepPlace s
  | .stepStart => Sys2Proof.Machine.execStepStart s
  | .bindOffRetire => Sys2Proof.Machine.execBindOffRetire s
  | .enginePublish => Sys2Proof.Machine.execEnginePublish s
  | .pubExecute => Sys2Proof.Machine.execPubExecute s
  | .ecwExecute => Sys2Proof.Machine.execEcwExecute s
  | .refreshWindowEnd die bank => Sys2Proof.Machine.execRefreshWindowEnd die bank s
  | .nbDispatch => Sys2Proof.Machine.execNbDispatch s
  | .nbGranuleWrite => Sys2Proof.Machine.execNbGranuleWrite s
  | .trackerClear => Sys2Proof.Machine.execTrackerClear s
  | .cStoreEvent => Sys2Proof.Machine.execCStoreEvent s
  | .leaseLapse line => Sys2Proof.Machine.execLeaseLapse line s
  | .dirtyEviction line bad => Sys2Proof.Machine.execDirtyEviction line bad s
  | .mwaitWake => Sys2Proof.Machine.execMwaitWake s
  | .mwaitTimeout => Sys2Proof.Machine.execMwaitTimeout s
  | .fenceComplete => Sys2Proof.Machine.execFenceComplete s
  | .barrierWake => Sys2Proof.Machine.execBarrierWake s
  | .tsubAppend => Sys2Proof.Machine.execTsubAppend s
  | .starvationGuard p => Sys2Proof.Machine.execStarvationGuard p s
  | .cutStop => Sys2Proof.Machine.execCutStop s
  | .freeze => Sys2Proof.Machine.execFreeze s
  | .abandon => Sys2Proof.Machine.execAbandon s
  | .faultAnswer p seq code => Sys2Proof.Machine.execFaultAnswer p seq code s
  | .hostRead pa len => Sys2Proof.Machine.execHostRead pa len s
  | .biasFlip page toHost => Sys2Proof.Machine.execBiasFlip page toHost s
  | .biasFlipEvent page => Sys2Proof.Machine.execBiasFlipEvent page s
  | .configStage gen unit off bytes => Sys2Proof.Machine.execConfigStage gen unit off bytes s
  | .configCommit gen cls crc => Sys2Proof.Machine.execConfigCommit gen cls crc s
  | .configAbort gen => Sys2Proof.Machine.execConfigAbort gen s
  | .configInvalidate core va => Sys2Proof.Machine.execConfigInvalidate core va s
  | .unitCommitTimeout unit => Sys2Proof.Machine.execUnitCommitTimeout unit s
  | .breakpointPatch va bytes => Sys2Proof.Machine.execBreakpointPatch va bytes s
  | .siteDrain die site => Sys2Proof.Machine.execSiteDrain die site s
  | .siteRepair die site banksLost => Sys2Proof.Machine.execSiteRepair die site banksLost s
  | .firmwareUpdate unit version image sig => Sys2Proof.Machine.execFirmwareUpdate unit version image sig s
  | .pageMove old new leaf => Sys2Proof.Machine.execPageMove old new leaf s
  | .powerEstimate => Sys2Proof.Machine.execPowerEstimate s
  | .energyCharge p q => Sys2Proof.Machine.execEnergyCharge p q s
  | .permitWindow => Sys2Proof.Machine.execPermitWindow s
  | .droopTrip => Sys2Proof.Machine.execDroopTrip s
  | .droopStretchEnd => Sys2Proof.Machine.execDroopStretchEnd s
  | .droopHalfIssueEnd => Sys2Proof.Machine.execDroopHalfIssueEnd s
  | .laneGroupPowerDown g => Sys2Proof.Machine.execLaneGroupPowerDown g s
  | .replayInputApply => Sys2Proof.Machine.execReplayInputApply s
  | .packageReset images => Sys2Proof.Machine.execPackageReset images s
  | .getVersion => Sys2Proof.Machine.execGetVersion s
  | .getCapabilities => Sys2Proof.Machine.execGetCapabilities s
  | .negotiateAlgorithms algs => Sys2Proof.Machine.execNegotiateAlgorithms algs s
  | .getDigests => Sys2Proof.Machine.execGetDigests s
  | .getCertificate off len => Sys2Proof.Machine.execGetCertificate off len s
  | .challenge nonce => Sys2Proof.Machine.execChallenge nonce s
  | .getMeasurements index => Sys2Proof.Machine.execGetMeasurements index s
  | .linkRetrain port => Sys2Proof.Machine.execLinkRetrain port s
  | .portDown port => Sys2Proof.Machine.execPortDown port s
  | .requestTimeout tag => Sys2Proof.Machine.execRequestTimeout tag s
  | .answeredTagExpiry tag => Sys2Proof.Machine.execAnsweredTagExpiry tag s
  | .reductionHoldExpiry n => Sys2Proof.Machine.execReductionHoldExpiry n s
  | .reductionHomeApply n => Sys2Proof.Machine.execReductionHomeApply n s
  | .contributionLost n => Sys2Proof.Machine.execContributionLost n s
  | .fabricBarrierArrival pkg group => Sys2Proof.Machine.execFabricBarrierArrival pkg group s
  | .fabricCompletionArrives group => Sys2Proof.Machine.execFabricCompletionArrives group s
  | .groupCounterMove group => Sys2Proof.Machine.execGroupCounterMove group s
  | .ethLinkDown port => Sys2Proof.Machine.execEthLinkDown port s
  | .breakCut va iter core vf => Sys2Proof.Machine.execBreakCut va iter core vf s
  | .inject name n => Sys2Proof.Machine.execInject name n s
  | .launch template k core p vf => Sys2Proof.Machine.execLaunch template k core p vf s
  | .alloc va size pa p vf => Sys2Proof.Machine.execAlloc va size pa p vf s
  | .allocShare va size p vf va2 vf2 => Sys2Proof.Machine.execAllocShare va size p vf va2 vf2 s
  | .submit blk q p vf => Sys2Proof.Machine.execSubmit blk q p vf s
  | .load sections p vf => Sys2Proof.Machine.execLoad sections p vf s
  | .pokeW va value p vf => Sys2Proof.Machine.execPokeW va value p vf s
  | .peekX va len p vf => Sys2Proof.Machine.execPeekX va len p vf s
  | .continueRun => Sys2Proof.Machine.execContinueRun s
  | .stepStrand k => Sys2Proof.Machine.execStepStrand k s
  | .stepPublish => Sys2Proof.Machine.execStepPublish s
  | .traceNb core => Sys2Proof.Machine.execTraceNb core s
  | .printTraceNb lo hi => Sys2Proof.Machine.execPrintTraceNb lo hi s
  | .printNbRecord n => Sys2Proof.Machine.execPrintNbRecord n s
  | .setCsel p vf vals => Sys2Proof.Machine.execSetCsel p vf vals s
  | .setCnt p vf vals => Sys2Proof.Machine.execSetCnt p vf vals s
  | .printCnt p vf => Sys2Proof.Machine.execPrintCnt p vf s
  | .traceSwitch p core => Sys2Proof.Machine.execTraceSwitch p core s
  | .traceIrq p => Sys2Proof.Machine.execTraceIrq p s
  | .printTrace irq => Sys2Proof.Machine.execPrintTrace irq s
  | .setDroopth cluster value => Sys2Proof.Machine.execSetDroopth cluster value s
  | .printDroop cluster => Sys2Proof.Machine.execPrintDroop cluster s
  | .printEnergy p q => Sys2Proof.Machine.execPrintEnergy p q s
  | .traceDroop core => Sys2Proof.Machine.execTraceDroop core s
  | .printTraceDroop lo hi => Sys2Proof.Machine.execPrintTraceDroop lo hi s
  | .stitchMarkerPlaced k => Sys2Proof.Machine.execStitchMarkerPlaced k s
  | .flitCrcFailure port => Sys2Proof.Machine.execFlitCrcFailure port s
  | .linkRetrainComplete port => Sys2Proof.Machine.execLinkRetrainComplete port s
  | .stopGoFlowControl port vc stop => Sys2Proof.Machine.execStopGoFlowControl port vc stop s
  | .barrierGroupFailureArrives group => Sys2Proof.Machine.execBarrierGroupFailureArrives group s
  | .congestionNotificationPacket qp => Sys2Proof.Machine.execCongestionNotificationPacket qp s
  | .priorityFlowControlPause port prio pause => Sys2Proof.Machine.execPriorityFlowControlPause port prio pause s

end Sys2Proof.Machine
end

