-- ==== Sys2Proof/Machine/Caps.lean ====
section
/-! DEFINITION. The capability list of the host functions (R380, R388). -/

namespace Sys2Proof.Machine

/-- An entry of the list: its ID, and the figures that its body gives. -/
structure Cap where
  id      : Nat
  figures : List Nat
deriving DecidableEq, Repr

/-- The eight entries: symbols per step and the limit of hi; nodes; units per stack, steps, core queue; bytes per die and banks; the formats of the
reduction window; the limit of LOGSZ; the record's size; partitions and virtual functions (R107, R388, R403). -/
def allCaps : List Cap :=
  [⟨1, [8, 63]⟩, ⟨2, [16]⟩, ⟨3, [512, 32, 8]⟩, ⟨4, [0x40000000, 16]⟩, ⟨5, [3, 0, 1]⟩, ⟨6, [63]⟩, ⟨7, [32]⟩, ⟨8, [8, 4]⟩]
/-- The list of a function: a virtual function's has no entry 0x0008 (R380, R388). -/
def capsOf (fn : Nat) : List Cap := bif fn == 0 then allCaps else allCaps.filter fun c => c.id != 8

/-- An entry's body, filled up to a multiple of 16 bytes. -/
def Cap.body (c : Cap) : List Byte := let b := Config.capBody c.id c.figures; b ++ List.replicate ((16 - b.length % 16) % 16) 0
/-- LENGTH: the header is included. -/
def Cap.length (c : Cap) : Nat := 16 + c.body.length
/-- The header of an entry: ID, VERSION 1, LENGTH, NEXT. -/
def Cap.header (c : Cap) (next : Nat) : List Byte := leBytes 2 c.id ++ leBytes 2 1 ++ leBytes 4 c.length ++ leBytes 8 next
/-- The bytes of a list from an offset on: the entries follow one another (log 74, DESIGN CHOICE), and NEXT of the last is 0. -/
def capBytes : Nat → List Cap → List Byte
  | _, [] => []
  | _, [c] => c.header 0 ++ c.body
  | at_, c :: t => c.header (at_ + c.length) ++ c.body ++ capBytes (at_ + c.length) t

/-- A host function exists: function 0, and one for each enabled virtual function (R380). -/
def State.hasFn (s : State) (fn : Nat) : Bool :=
  fn == 0 || (decide (fn ≤ 32) &&
    let x := s.part (BitVec.ofNat 3 ((fn - 1) / 4))
    x.en && x.vfen.getLsbD ((fn - 1) % 4))
/-- A host function's read of its list, from an offset after 0x1000 of BAR 0 (R388). -/
def State.capRead (s : State) (fn off n : Nat) : State :=
  bif s.hasFn fn then s.setPkg { s.pkg with capReads := (fn, off, ((capBytes 0 (capsOf fn)).drop off).take n) :: s.pkg.capReads } else s

end Sys2Proof.Machine
end

