-- ==== Sys2Proof/Machine/Env.lean ====
section
/-! DEFINITION. What agents whose moves the spec leaves unordered do at a turn (log 2, DESIGN CHOICE): other cores and packages, the fetches ahead of strands and
streams, replacement in the caches, errors in memory, time. -/

namespace Sys2Proof.Machine

/-- Another agent's store: one event (R309, R311). It waits while its page is in a flip or a lease on its line is live (R308, R322). -/
def State.peerStore (s : State) (pa : Nat) (b : List Byte) (o : Owner) : State :=
  bif s.outsideWaits pa b.length true 5 then s.again (.env (.peerStore pa b o))
  else ((s.orderLines 5 true (span pa b.length)).l2Access pa (o.map (·.1)) (match o with | some x => some x.1 | none => s.ownerOf (s.norm pa)) false).store pa b o true
/-- The record that replay has reached is another core's: that core consumes it (R405). -/
def State.peerReplay (s : State) (p : BitVec 3) : State :=
  let r := s.repNext p
  let theirs := bif r.1 == 8 then r.2.2.2.2 % 2 ^ 32 != s.corenum.toNat else r.2.1 != 0 && r.2.1 != s.corenum.toNat
  bif (s.part p).repMode == 2 && theirs then s.repTake p else s
/-- Another agent's read of a line of device memory, under a lease of its own (R308): a store that C has retired to that line comes first (R310). A
fill is for the partition of the core that reads, or for the row-group owner (R334). -/
def State.peerRead (s : State) (pa : Nat) (by_ : Option (BitVec 3)) : State :=
  let a := s.norm pa
  let mine := match s.core.c.store with | some st => lineOf (s.norm st.pa) == lineOf a | none => false
  let s := bif mine then s.flushStore else s
  bif decide (s.region a ≠ .hbm) || s.hostBias a || s.inFlip a || s.orderWaits 5 a then s else ((s.orderAt 5 false a).l2Access a by_ (bif by_.isSome then by_ else s.ownerOf a) false).lease (lineOf a) false

/-- A granule is found uncorrectable by a read: its line is poisoned, and the owner is told (R329, R332). -/
def State.poisonLine (s : State) (pa : Nat) : State :=
  let l := lineOf (s.norm pa)
  bif s.mem.poison.contains l then s else (s.setMem { s.mem with poison := l :: s.mem.poison }).memRec 0x20 (s.norm pa)

/-- An error in an 8-byte word of the pool: a double one stays there, a single one is corrected and counted against its bank (R148, R151). -/
def State.poolError (s : State) (off : Nat) (double : Bool) : State :=
  let p := s.core.pool
  let w := off % 0x200000 / 8 * 8
  bif double then { s with core := { s.core with pool := { p with bad := w :: p.bad.filter (· != w) } } }
  else
    let b := w / 0x10000
    let n := vget p.fixed b 0 + 1
    let marked := bif decide (p.limit < n) then p.marked ||| (1#32 <<< b) else p.marked
    { s with core := { s.core with pool := { p with fixed := vset p.fixed b n, marked := marked } } }

/-- Another core's contribution reaches the switches (R415). -/
def State.peerContribute (s : State) (pa : Nat) (op : RedOp) (fmt : BitVec 4) (w : Word32) : State :=
  s.setPkg { s.pkg with red := s.pkg.red ++ [⟨pa, 0, op, fmt, w, 0, 0, false⟩] }
/-- Two contributions that the switches hold, of one key, combine (R415). -/
def State.combine (s : State) (i j : Nat) : State :=
  match s.pkg.red[i]?, s.pkg.red[j]? with
  | some a, some b =>
    bif i == j || a.sent || b.sent || !a.sameKey b then s
    else s.setPkg { s.pkg with red := (s.pkg.red.set i (a.merge b)).eraseIdx j }
  | _, _ => s

/-- The other cores of a block's clusters have run their steps (R285). -/
def State.othersHalted (s : State) (p : BitVec 3) (q : BitVec 6) (blk : Word64) : State :=
  match (s.part p).block q blk with | some b => s.setPart p ((s.part p).setBlock { b with others := true }) | none => s
/-- The other members of a block's gang have their slots runnable and their cores free (R284). -/
def State.gangReady (s : State) (p : BitVec 3) (q : BitVec 6) (blk : Word64) : State :=
  match (s.part p).block q blk with | some b => s.setPart p ((s.part p).setBlock { b with mates := true }) | none => s

/-- Requesters meet at a bank of the pool: the cycles of a cell of the matrix, and event 0x08 (R148, R305, R376; log 12, DESIGN CHOICE). -/
def State.conflict (s : State) (cell n : Nat) : State :=
  let d := s.core.dbg
  let c := cell % 256
  (s.setDbg { d with bank := kset d.bank c (BitVec.ofNat 32 (Nat.min ((kget d.bank c 0).toNat + n) (2 ^ 32 - 1))) }).count 0x08 n

/-- What an outside agent does. -/
def envDo (a : EnvAction) (s : State) : State :=
  match a with
  | .peerStore pa b o => s.peerStore pa b o
  | .peerArrive l g m => s.barArrive l g m
  | .fetchAhead k va => bif s.stepOn then s.fetchAhead k va else s
  | .streamAhead r => s.streamAhead r
  | .streamLate r late => s.streamLate r late
  | .engineMove e n => bif s.core.dbg.stopped then s else s.engRun e n
  | .tlbDrop i => { s with core := { s.core with mmu := { s.core.mmu with tlb := s.core.mmu.tlb.eraseIdx i } } }
  | .walkDrop i => { s with core := { s.core with mmu := { s.core.mmu with walk := s.core.mmu.walk.eraseIdx i } } }
  | .hostVisible pa n => s.setMem { s.mem with stale := s.mem.stale.filter fun c => decide (c.1 < pa ∨ pa + n ≤ c.1) }
  | .poison pa => s.poisonLine pa
  | .corrected pa => s.corrected (s.norm pa)
  | .poolError off d => s.poolError off d
  | .contribute pa op fmt w => s.peerContribute pa op fmt w
  | .combine i j => s.combine i j
  | .othersHalted p q blk => s.othersHalted p q blk
  | .gangReady p q blk => s.gangReady p q blk
  | .gangAbandoned p q blk => s.gangAbandoned p q blk
  | .dieLoad p d n => s.setPart p { s.part p with dieLoad := vset (s.part p).dieLoad d.toNat n }
  | .siteFull p i full =>
    let x := s.part p
    s.setPart p { x with full := bif full then i :: x.full.filter (· != i) else x.full.filter (· != i) }
  | .peerPlace p core => s.peerPlace p core
  | .gangRoom p cores => s.gangRoom p cores
  | .wait n => s.passCycles n
  | .remoteFails on => { s with remoteBad := on }
  | .fill pa by_ =>
    let a := s.norm pa
    bif decide (s.region a = .hbm) then s.mscAccess (lineOf a) (bif by_.isSome then by_ else s.ownerOf a) false else s
  | .peerWake => s.laneWakes
  | .vfEnergy p v q write => s.vfEnergy p v q write
  | .fallback full => s.setPkg { s.pkg with fallFull := full }
  | .pin set n => (s.setPkg { s.pkg with pins := bif n == 0 then kdel s.pkg.pins set else kset s.pkg.pins set n }).l2Trim set false
  | .overflow d n => s.setPkg { s.pkg with overUsed := vset s.pkg.overUsed d.toNat n }
  | .peerRead pa by_ => s.peerRead pa by_
  | .peerReplay p => s.peerReplay p
  | .nbSuspend i => s.nbSuspend i.toNat
  | .nbServed i => s.nbServed i.toNat
  | .closeChannel ch => s.closeChannel ch
  | .pageMove old new leaf => s.pageMove old new leaf
  | .domain pkg inside awaited => s.domainMove pkg inside awaited
  | .fabPut g v => s.fabPut g v
  | .fabSend g => s.fabSend g
  | .peerPorts pkg down => s.setPkg { s.pkg with peerDown := (pkg, down) :: s.pkg.peerDown.filter fun x => x.1 != pkg }
  | .flitReplayed port => s.flitReplayed port
  | .qpPost p num rc port prio => s.qpPost p num rc port prio
  | .ethSend p num pa len => s.ethSend p num pa len
  | .ecnMarked p num => s.ecnMarked p num
  | .ethSplit port log => s.setPkg { s.pkg with ethSplit := vset s.pkg.ethSplit port.toNat log }
  | .capRead fn off n => s.capRead fn off n
  | .flits received n =>
    s.setPkg (bif received then { s.pkg with flitsIn := s.pkg.flitsIn + n } else { s.pkg with flitsOut := s.pkg.flitsOut + n })
  | .stopReq => bif s.stepOn then s.setDbg { s.core.dbg with stopReq := true } else s
  | .faultAnswer p seq code => s.putAnswer p seq code
  | .submitted blk q p v => s.submitAs blk q p v
  | .conflict cell n => s.conflict cell n
  | .readCounts => bif s.core.dbg.stopped || !s.stepOn || s.core.trap.frz then s.show (s.core.fpc.toList.map BitVec.toNat) else s

end Sys2Proof.Machine
end

