-- ==== Sys2Proof/Machine/Pick.lean ====
section
/-! DEFINITION. Whose turn it is, and what comes to issue at it (R10, R30, R31, R39, R44, R122, R124, R137, R293, R298, R303, R317, R396; log 2, DESIGN CHOICE). A
turn is one cycle. -/

namespace Sys2Proof.Machine

/-! ### Strands -/

/-- A strand's next unit, in a cycle that holds an issue permit (R396). -/
def State.nextUnit (s : State) (k : Strand) : State × Option Instr := bif s.permitted then s.fetch k else (s, none)

/-- What C does with no step on the core: the next step starts, or one is placed (R279, R283). -/
def State.pickIdle (s : State) : Option Instr :=
  bif s.coreFree && s.nextStart.isSome then some .stepStart
  else bif s.stagingSlot.isSome || s.mayFill.isSome then some .stepPlace
  else none
/-- What comes of a cause that waits for its freeze (R31). -/
def State.pickFreeze (s : State) (w : FreezeWait) : Option Instr :=
  bif w.frozen then none
  else bif s.othersStuck w.strand then some .freezeWaitDone
  else bif decide (2 ^ 16 ≤ w.cycles) then some .freezeWaitTimeout
  else none
/-- What ends C's sleep in mwait (R298). -/
def State.pickMwait (s : State) (till : Option Nat) : Option Instr :=
  bif s.mwaitReason.isSome then some .mwaitWake
  else match till with | some t => bif decide (t ≤ s.tstamp) then some .mwaitTimeout else none | none => none

/-- C's turn: a freeze, a pending cause, the watchdog, a wait that ends, else C's next word. -/
def State.pickC (s : State) : State × Option Instr :=
  bif s.core.dbg.stopped then (s, none)
  else
    match s.core.trap.wait with
    | some w => (s, s.pickFreeze w)
    | none =>
      bif s.asyncNow && s.core.trap.pend != 0 then (s, some .takePendingTrap)
      else bif !s.stepOn && !s.sup then (s, s.pickIdle)
      else bif s.dogFull then (s, some .deadlockWatchdog)
      else
        match s.core.c.run with
        | .ended => (s, none)
        | .mwait _ till => (s, s.pickMwait till)
        | .fence kind => (s, bif s.fenceDone kind then some .fenceComplete else none)
        | .nbFence => (s, bif s.nearFenced then some .fenceComplete else none)
        | .bar _ => (s, some .barrierWake)
        | .ready => s.nextUnit .c

/-- L's or S's turn: the oldest data word, in issue already, retires whatever is frozen (R31); else the next word issues (R122). -/
def State.pickLS (s : State) (k : LS) : State × Option Instr :=
  let x := s.ls k
  bif !s.stepOn then (s, none)
  else bif (match x.pend with | r :: _ => r.data | [] => false) then (s, some (.dataWordRetire k))
  else bif s.core.dbg.stopped || s.heldBack (lsStrand k) || x.ended then (s, none)
  else s.nextUnit (lsStrand k)

/-- What V does when halt has issued: what is in flight moves, then the bind-off bundle retires (R23, R137). -/
def State.pickHalted (s : State) : Option Instr :=
  bif s.bindOffReady then some .bindOffRetire
  else
    match s.nextDue true, s.nextDue false with
    | some a, some b => bif decide (a ≤ b) then some .vWriteLands else some .streamConsume
    | some _, none => some .vWriteLands
    | none, some _ => some .streamConsume
    | none, none => bif s.core.v.flight.isEmpty then none else some .vWriteLands

/-- V's turn: the end of a stretch, a consistent cut, what is in flight at a halt, else the next bundle (R25, R26, R247). -/
def State.pickV (s : State) : State × Option Instr :=
  let v := s.core.v
  bif s.core.dbg.stopped || !s.stepOn || v.ended || s.heldBack .v || !s.permitted then (s, none)
  else
    match v.stretch with
    | some r => (s, bif (s.desc r).late then none else some .stretchEnd)
    | none =>
      bif v.drain then (s, some .consistentCut)
      else bif v.halted then (s, s.pickHalted)
      else s.fetch .v

/-- What comes of a strand's turn. -/
def State.pickOf (s : State) (k : Strand) : State × Option Instr :=
  match k with
  | .c => s.pickC
  | .l => s.pickLS .l
  | .v => s.pickV
  | .s => s.pickLS .s
/-- V waits in a stretch, in a cycle that holds an issue permit. -/
def State.stretchTried (s : State) (k : Strand) : Bool := decide (k = .v) && s.core.v.stretch.isSome && s.permitted
/-- A strand's turn; what it leaves behind says whether the strand is blocked only if it tried to go on (R31, R396). -/
def State.pickStrand (s : State) (k : Strand) : State × Option Instr :=
  let r := s.pickOf k
  (bif r.2.isSome || s.stretchTried k then r.1.looks k else r.1, r.2)

/-- A strand may issue a unit, whatever is pending and although the core is stopped by chxdbg (R303). -/
def State.mayIssue (s : State) (k : Strand) : Bool :=
  match k with
  | .c => (s.stepOn || s.sup) && decide (s.core.c.run = .ready) && s.core.trap.wait.isNone
  | .l => s.stepOn && !s.core.l.ended && !s.heldBack .l
  | .v => s.stepOn && !s.core.v.ended && !s.core.v.halted && !s.heldBack .v
  | .s => s.stepOn && !s.core.s.ended && !s.heldBack .s
/-- A strand's next unit; a cycle without a permit passes first (R303, R396). -/
def State.pickIssue (s : State) (k : Strand) : State × Option Instr :=
  bif !s.mayIssue k then (s, none)
  else bif s.permitted then s.fetch k
  else ({ s with agenda := .issue k :: s.agenda }, none)

/-! ### Units -/

/-- What the package controller has to do because its time has come, and a pending cut-stop
of a core that waits for the answer to a forwarded fault (R299, R364, R368, R373, R374, R383, R384). -/
def State.dueMoves (s : State) : List Instr :=
  (allParts.flatMap fun p =>
    let x := s.part p
    (bif x.en && x.switch_.isNone && decide (x.quantEnd ≤ s.tstamp) then [Instr.quantumEnd p] else []) ++
      (match x.switch_ with
        | some (_, n, t) => bif s.mayRestore p then [Instr.worldSwitchRestore p] else bif n == 1 && decide (t + 20000 ≤ s.tstamp) then [.switchFreezeDeadline p] else []
        | none => []) ++
      (x.await.filterMap fun r => bif decide (r.stamp.toNat + x.tmo.toNat * 1000000 ≤ s.tstamp) then some (.faultAnswerTimeout p r.seq) else none) ++
      bif x.blocks.any fun b => !b.assigned && !b.failed && b.tw.isNone then [.predPoll p] else []) ++
    (bif s.core.ctx.leave == some .cutStop && (match s.core.trap.wait with | some w => w.seq.isSome | none => false) then [.cutStop] else []) ++
    (match s.pkg.drainAt with | some t => bif !s.stepOn || decide (t + 20000 ≤ s.tstamp) then [.switchFreezeDeadline s.debugged] else [] | none => []) ++
    s.pkg.units.filterMap fun u => bif u.waiting.isSome && s.unitIdle u.unit then some (.unitCommit u.unit) else none

/-- What the units around the strands can do now; the core's own wait while chxdbg has stopped it. -/
def State.unitMoves (s : State) : List Instr :=
  (bif s.core.dbg.stopped then [] else (s.engineMoves .copy ++ s.engineMoves .gather ++ s.publishMoves).filter s.unitDue ++ s.migMoves) ++
    s.nbMoves.filter s.unitDue ++ s.distMoves ++ bif s.inReset Config.cfgController then [] else s.dueMoves
/-- One of the units' moves, each in its turn (log 2, DESIGN CHOICE). -/
def State.pickUnits (s : State) : Option Instr := let l := s.unitMoves; l[s.core.csr.cycle.toNat % l.length]?

/-! ### Turns -/

/-- The next turn: the agenda's first, else the one whose turn it is in the rotation; what waits at memory tries again after the units, one
in each round. -/
def State.nextTurn (s : State) : State × Turn :=
  match s.agenda with
  | t :: rest => ({ s with agenda := rest }, t)
  | [] =>
    match s.turn with
    | .c => ({ s with turn := .l }, .strand .c)
    | .l => ({ s with turn := .v }, .strand .l)
    | .v => ({ s with turn := .s }, .strand .v)
    | .s => ({ s with turn := .units }, .strand .s)
    | .units => ({ s with turn := bif s.waits.isEmpty then .c else .waits }, .units)
    | .waits => match s.waits with
      | t :: rest => ({ s with turn := .c, waits := rest }, t)
      | [] => ({ s with turn := .l }, .strand .c)

/-- The instruction that a turn brings to issue, if any; an event of the agenda must not be a strand's word. -/
def State.pick (s : State) (t : Turn) : State × Option Instr :=
  match t with
  | .strand k => s.pickStrand k
  | .units => (s, s.pickUnits)
  | .issue k => s.pickIssue k
  | .event i => (s, bif (encode i).isNone then some i else none)
  | .env a => (envDo a s, none)

/-- C's retired store takes place within 4 microseconds (R310). -/
def State.agedStore (s : State) : State :=
  match s.core.c.store with
  | some st => bif decide (st.since + 33 * 4000 ≤ s.time) then s.flushStore else s
  | none => s

/-- The end of a turn: the orders of its accesses are recorded (R404), what a finished command waited out has passed (R244), a sampled unit that has retired is recorded, and a marker placed whose time has come (R304), a patch is acknowledged or reported (R302), an aged store takes place, records and flips that waited go on (R322, R366), the trackers are cleared (R336), answered tags expire (R412), commits that came to no idle point are reported (R383), the estimator runs (R398), blocks of the weight store that are due arrive, the
starvation guard acts when it is due (R361), the causes that the cycle has raised are taken, and the cycle passes. -/
def State.endTurn (s : State) : State := ((((s.ordersGo.reap.markerRetire.samplerDue).patchMoves.agedStore.postsGo.flipsEnd.clearTrackers.tagsExpire.commitsLate.estimates.arrivals).guardActs s.myPart).nbTrace "leave").endCauses.passCycle

/-- What a step makes of the answer of the instruction it ran: a next state's turn ends, and a stop stands (log 2, DESIGN CHOICE). -/
def turnOf (o : Out) : Out := match o with | .next t => .next t.endTurn | .fault f => .fault f | .refused r => .refused r

/-! ### A unit placed -/

/-- The strand that a unit belongs to is ready to issue it. -/
def State.readied (s : State) (k : Strand) : State :=
  match k with
  | .c => s.setC { s.core.c with run := .ready, held := [] }
  | .l => s.setLS .l { s.core.l with ended := false, held := [] }
  | .v => s.setV { s.core.v with ended := false, halted := false, drain := false, stretch := none, held := [] }
  | .s => s.setLS .s { s.core.s with ended := false, held := [] }
/-- A unit at its strand's PC, in a step of the context on the core: the page of the PC is page 0 of HBM4E, readable and executable; its row
group is the context's; the strand issues next (log 28, DESIGN CHOICE). -/
def State.placed (s : State) (e : Enc) : State :=
  let k := e.strand
  let s := s.readied k
  let x := s.core
  let va := s.pcOf k
  let pa := bits va.toNat 15 0
  let p := x.ctx.part
  let bs := e.bytes
  let m := s.mem
  { s with
    core := { x with
      mmu := { x.mmu with tlb := [⟨p, x.ctx.vf, bits va.toNat 56 16, 16, 4 + 16 + 32 + 3⟩] }
      trap := { x.trap with frz := false, wait := none }
      csr := { x.csr with permit := 16 }
      ctx := { x.ctx with running := some (x.ctx.running.getD ⟨0, 0, false, false, none, 0⟩) } }
    mem := { m with cells := (cellsAt pa bs).foldl (fun l c => cellSet l c.1 c.2) m.cells, flips := m.flips.filter fun f => f.1 != 0
                    poison := m.poison.filter fun l => l != pa / 128 }
    pkg := { s.pkg with rows := ⟨0, p.setWidth 4, true, false, 0⟩ :: s.pkg.rows.filter fun r => r.index != 0, droop := none }
    agenda := [.issue k] }

end Sys2Proof.Machine
end

