-- ==== Sys2Proof/Machine/Step.lean ====
section
/-! DEFINITION. One step: a turn, the instruction it brings to issue, and the end of its cycle (log 2, DESIGN CHOICE). And the machine with an instruction placed
where its next step fetches. -/

namespace Sys2Proof.Machine

/-- One step of the machine. -/
def step (s : State) : Host.Outcome State Fault Refusal :=
  let a := s.nextTurn
  let b := a.1.pick a.2
  match b.2 with
  | none => .next b.1.endTurn
  | some i => turnOf (exec i b.1)

/-- An instruction's bits placed as the next unit that its strand issues (log 28, DESIGN CHOICE). -/
def State.withFetchWord (s : State) (nbits w : Nat) : State := s.placed (tableUnit nbits w)

end Sys2Proof.Machine
end

