-- ==== Sys2Proof/Safety.lean ====
section
/-! DEFINITION. What counts as a safe run, and the terms the claims are stated in: the form memory keeps, what a retired C word leaves, and what
it leaves alone. -/

namespace Sys2Proof.Machine

/-- A step is safe at a state when it answers a next state: the machine stops at nothing. -/
def StepSafe (s : State) : Prop := ∃ t, step s = .next t

/-- The invariant of every step: memory is in its one canonical form (log 8, DESIGN CHOICE). -/
def State.Inv (s : State) : Prop := s.mem.wf = true

/-- The registers that are C's ports in task mode and banked in supervisor mode: x24 to x29 (R16, R29). -/
def isPort (r : XReg) : Bool := decide (24 ≤ r.toNat ∧ r.toNat ≤ 29)

/-- No partition records a replay buffer (R403), so that counting an event writes no memory. -/
def State.Quiet (s : State) : Prop := ∀ p, (s.part p).repMode ≠ 1

/-- The machine as a word that writes `xd` finds it: a push to a port queue places the pending store first (R310). -/
def State.placedFor (s : State) (xd : XReg) : State :=
  bif !s.sup && decide (24 ≤ xd.toNat ∧ xd.toNat ≤ 27) then s.flushStore else s

/-- What a retired C word changes beside C itself and its queues: the counters and the interrupts of those that wrapped (a replaying partition holds its own off, R405), the units counted,
the watchdog, and the number of C words retired. Everything else stands. -/
def RetiredFrame (b t : State) : Prop :=
  t = { b with
    core := { b.core with
      c := t.core.c, q := t.core.q, perf := (b.core.perf.add 0x04 1).1, units := unitCount b.core.units 0x04 1,
      dbg := { b.core.dbg with irqLines := t.core.dbg.irqLines },
      trap := { b.core.trap with dog := 0, moved := 15 },
      ctx := { b.core.ctx with cWords := b.core.ctx.cWords + 1 } },
    pkg := { b.pkg with msi := t.pkg.msi, heldMsi := t.pkg.heldMsi } }

/-- C's queues after a word: each source port popped once (a place that QVC's pop frees is free from the next cycle on), the destination port pushed, in task mode alone (R16, R17). -/
def portsAfter (s : State) (srcs : List XReg) (xd : XReg) (v : Word64) : Queues :=
  bif s.sup then s.core.q
  else
    { s.core.q with
      qvc := if 28 ∈ srcs then s.core.q.qvc.tail else s.core.q.qvc,
      vOut := if 28 ∈ srcs then s.core.q.vOut + 1 else s.core.q.vOut,
      ecq := if 29 ∈ srcs then s.core.q.ecq.tail else s.core.q.ecq,
      qcl := if xd = 24 then s.core.q.qcl ++ [v] else s.core.q.qcl,
      qcv := if xd = 25 then s.core.q.qcv ++ [v] else s.core.q.qcv,
      qcs := if xd = 26 then s.core.q.qcs ++ [v] else s.core.q.qcs,
      qbr := if xd = 27 then s.core.q.qbr ++ [v.extractLsb' 0 8] else s.core.q.qbr }

/-- A C word has retired: it popped `srcs`, wrote `v` to `xd`, and C goes on at `pc` (R16, R17, R29, R93, R94). `x0` discards the write. -/
def Retired (s t : State) (srcs : List XReg) (xd : XReg) (v pc : Word64) : Prop :=
  let b := s.placedFor xd
  RetiredFrame b t ∧
  t.core.c = { b.core.c with
    pc := pc, run := .ready, blocked := false,
    regs := if xd = 0 ∨ isPort xd = true then b.core.c.regs else b.core.c.regs.set xd.toNat v xd.isLt,
    bank := if isPort xd = true ∧ s.sup = true then vset b.core.c.bank (xd.toNat - 24) v else b.core.c.bank } ∧
  t.core.q = portsAfter b srcs xd v

/-! ### Traps -/

/-- A trap of strand `k` is taken from `b`, C's pending store placed (R30, R34): the mode goes to PM and becomes supervisor, L, V and S freeze,
CAUSE, STRAND, TVAL, TFPC and TEPC are written, TQOCC with cause 0x11, and C goes on at TVEC. The other strands, the queues and memory stand. -/
def TrapTaken (b t : State) (k : Strand) (cause : BitVec 8) (tfpc tval tepc : Word64) : Prop :=
  let u := b.flushStore
  t.core.trap = { b.core.trap with
    pm := b.core.trap.mode, mode := true, frz := true, cause := cause, strand := strandCode k, tval := tval, tfpc := tfpc, tepc := tepc,
    tqocc := if cause = 0x11 ∨ cause = 0x14 then u.tqoccNow else b.core.trap.tqocc, wait := none, dog := 0 } ∧
  t.core.c = { u.core.c with pc := b.core.trap.tvec, run := .ready, blocked := false } ∧
  t.core.l = b.core.l ∧ t.core.v = b.core.v ∧ t.core.s = b.core.s ∧ t.core.q = b.core.q ∧ ∀ a, t.rd8 a = u.rd8 a

/-! ### L and S words -/

/-- L or S with no hold for a stream's data remembered: the machine as a word that comes to issue finds it. -/
def fresh (s : State) (k : LS) : State := s.setLS k { s.ls k with waits := false }

/-- The token FIFOs after a unit's pops and reservations, or with its pushes given too (R126). -/
def tokensAfter (f : Vector Fifo 8) (k : Strand) (t : Tokens) (given : Bool) : Vector Fifo 8 :=
  Vector.ofFn fun i =>
    let takes := (if t.popP = true ∧ i.val = fifoFrom k false then 1 else 0) + if t.popN = true ∧ i.val = fifoFrom k true then 1 else 0
    let gives := (if t.pushP = true ∧ i.val = fifoTo k false then 1 else 0) + if t.pushN = true ∧ i.val = fifoTo k true then 1 else 0
    let x := f.get i
    if given = true then ⟨x.occ - takes + gives, x.res, x.out + takes⟩ else ⟨x.occ - takes, x.res + gives, x.out + takes⟩

/-- The queues after a word of L or S: y12 popped once if it is named, and the tokens (R15, R126). -/
def queuesAfter (q : Queues) (k : LS) (srcs : List YReg) (t : Tokens) (given : Bool) : Queues :=
  match k with
  | .l => { q with qcl := if 12 ∈ srcs then q.qcl.tail else q.qcl, tok := tokensAfter q.tok .l t given }
  | .s => { q with qcs := if 12 ∈ srcs then q.qcs.tail else q.qcs, tok := tokensAfter q.tok .s t given }

/-- Selector 2's value after a word: the upper half of the entry it popped through y12 (R125). -/
def hiAfter (s : State) (k : LS) (srcs : List YReg) : Word32 :=
  if 12 ∈ srcs then ((s.qOf (lsStrand k)).headD 0).extractLsb' 32 32 else (s.ls k).hi

/-- A y file after a write; y0 and y12 discard it (R15). -/
def fileAfter (r : Vector Word32 16) (y : Option (YReg × Word32)) : Vector Word32 16 :=
  match y with
  | some (d, v) => if d = 0 ∨ d = 12 then r else r.set d.toNat v d.isLt
  | none => r

/-- A word of L or S that waits behind nothing has issued and retired: its y write, its pop, its tokens, its loop levels and PC; and nothing
else but the counters, the interrupts of those that wrapped, and the watchdog. -/
def LsRetired (s t : State) (k : LS) (srcs : List YReg) (tok : Tokens) (y : Option (YReg × Word32)) (loops : List Loop) (pc : Word64)
    (ends : Bool) : Prop :=
  let x := s.ls k
  let b := s.setLS k { x with
    regs := fileAfter x.regs y, hi := hiAfter s k srcs, waits := false, blocked := false, pc := pc, ended := x.ended || ends,
    loops := if ends = true then [] else loops }
  t = { b with
    core := { b.core with
      q := queuesAfter s.core.q k srcs tok true, perf := (s.core.perf.add (lsEvent k) 1).1, units := unitCount s.core.units (lsEvent k) 1,
      dbg := { s.core.dbg with irqLines := t.core.dbg.irqLines }, trap := { s.core.trap with dog := 0, moved := 15 } },
    pkg := { s.pkg with msi := t.pkg.msi, heldMsi := t.pkg.heldMsi } }

/-- A word of L or S has issued and waits to retire, last: its pop and reservations are made, its other effects kept for then (R122). The watchdog
starts again if an occupancy changed (R44). -/
def LsIssued (s t : State) (k : LS) (srcs : List YReg) (tok : Tokens) (r : Retire) : Prop :=
  let x := s.ls k
  let b := s.setLS k { x with
    hi := hiAfter s k srcs, waits := false, blocked := false, pc := if r.next.isSome = true ∨ r.ends = true then x.pc else x.pc + 8,
    pend := x.pend ++ [r] }
  t = { b with core := { b.core with q := queuesAfter s.core.q k srcs tok false, trap := if 12 ∈ srcs ∨ tok.popP = true ∨ tok.popN = true then { s.core.trap with dog := 0, moved := 15 } else s.core.trap } }

/-- What the loop-end marker makes of the levels and the PC, when a word has any to do with them. -/
def closing (s : State) (k : LS) (mk : Nat) (own : Option (List Loop)) : List Loop × Word64 :=
  let r := loopClose true (s.ls k).pc ((s.ls k).pc + 8) mk (own.getD (s.ls k).loops)
  (r.1, r.2.1)
/-- The same, as a word that waits keeps it. -/
def closingKept (s : State) (k : LS) (mk : Nat) (own : Option (List Loop)) : Option (List Loop × Word64) :=
  if own.isSome = true ∨ mk ≠ 0 then some (closing s k mk own) else none

/-! ### V -/

/-- What no tick of V changes: C but its watch, L, S, the queues, and V's registers, PC, loop levels, predicates, shape and issue record. -/
def Core.strands (k : Core) :=
  (k.c.regs, k.c.pc, k.c.run, k.l, k.s, k.q,
    (k.v.regs, k.v.pc, k.v.loops, k.v.pred, k.v.shape, k.v.hi, k.v.tPrev, k.v.seq, k.v.halted, k.v.ended))

end Sys2Proof.Machine
end

