-- ==== Sys2Proof/Certificates/Slice0/Obligations.lean ====
section
/-! DEFINITION. The statements for the provers. Each helper and each part of a statement stands in Sys2Proof.Claims; a statement is one
`Obligations.<Name>`. -/

namespace Sys2Proof.Claims

open Sys2Proof.Machine

/-- The words of R96 with two sources: major, fn, constructor and result. -/
def regWords : List (BitVec 7 × BitVec 5 × (XReg → XReg → XReg → Instr) × (Word64 → Word64 → Word64)) := [
  (0x01, 0, .add, fun a b => a + b),
  (0x01, 1, .sub, fun a b => a - b),
  (0x01, 2, .and, fun a b => a &&& b),
  (0x01, 3, .or, fun a b => a ||| b),
  (0x01, 4, .xor, fun a b => a ^^^ b),
  (0x01, 5, .andn, fun a b => a &&& ~~~b),
  (0x01, 6, .sll, fun a b => a <<< (b.extractLsb' 0 6).toNat),
  (0x01, 7, .srl, fun a b => a >>> (b.extractLsb' 0 6).toNat),
  (0x01, 8, .sra, fun a b => a.sshiftRight (b.extractLsb' 0 6).toNat),
  (0x01, 9, .slt, fun a b => if a.toInt < b.toInt then 1 else 0),
  (0x01, 10, .sltn, fun a b => if a.toNat < b.toNat then 1 else 0),
  (0x01, 11, .min, fun a b => if a.toInt < b.toInt then a else b),
  (0x01, 12, .max, fun a b => if a.toInt < b.toInt then b else a),
  (0x01, 13, .minn, fun a b => if a.toNat < b.toNat then a else b),
  (0x01, 14, .maxn, fun a b => if a.toNat < b.toNat then b else a),
  (0x02, 0, .mul, fun a b => BitVec.ofNat 64 (a.toNat * b.toNat)),
  (0x02, 1, .mulh, fun a b => BitVec.ofInt 64 (a.toInt * b.toInt / 2 ^ 64)),
  (0x02, 2, .mulhn, fun a b => BitVec.ofNat 64 (a.toNat * b.toNat / 2 ^ 64)),
  (0x02, 3, .div, fun a b => if b = 0 then BitVec.allOnes 64 else BitVec.ofInt 64 (a.toInt.tdiv b.toInt)),
  (0x02, 4, .divn, fun a b => if b = 0 then BitVec.allOnes 64 else BitVec.ofNat 64 (a.toNat / b.toNat)),
  (0x02, 5, .rem, fun a b => if b = 0 then a else BitVec.ofInt 64 (a.toInt - b.toInt * a.toInt.tdiv b.toInt)),
  (0x02, 6, .remn, fun a b => if b = 0 then a else BitVec.ofNat 64 (a.toNat % b.toNat))]

/-- The count of leading zeros: the longest prefix of zero bits, from bit 63 down. -/
def leadingZeros (a : Word64) : Nat := ((List.range 64).reverse.takeWhile fun i => !a.getLsbD i).length
/-- The count of trailing zeros, from bit 0 up. -/
def trailingZeros (a : Word64) : Nat := ((List.range 64).takeWhile fun i => !a.getLsbD i).length
/-- The count of ones. -/
def oneCount (a : Word64) : Nat := ((List.range 64).filter fun i => a.getLsbD i).length
/-- Byte i, from the least significant. -/
def byteOf (a : Word64) (i : Nat) : Byte := a.extractLsb' (8 * i) 8

/-- The words of R96 with one source: fn, constructor and result. -/
def unaryWords : List (BitVec 5 × (XReg → XReg → Instr) × (Word64 → Word64)) := [
  (0, .clz, fun a => BitVec.ofNat 64 (leadingZeros a)),
  (1, .ctz, fun a => BitVec.ofNat 64 (trailingZeros a)),
  (2, .popc, fun a => BitVec.ofNat 64 (oneCount a)),
  (3, .bswap, fun a => byteOf a 0 ++ byteOf a 1 ++ byteOf a 2 ++ byteOf a 3 ++ byteOf a 4 ++ byteOf a 5 ++ byteOf a 6 ++ byteOf a 7)]

/-- The words of R99 but lea: major, constructor, and result from a and the immediate field. -/
def immWords : List (BitVec 7 × (XReg → XReg → BitVec 15 → Instr) × (Word64 → BitVec 15 → Word64)) := [
  (0x10, .addi, fun a i => a + i.signExtend 64),
  (0x11, .andi, fun a i => a &&& i.signExtend 64),
  (0x12, .ori, fun a i => a ||| i.signExtend 64),
  (0x13, .xori, fun a i => a ^^^ i.signExtend 64),
  (0x14, .slli, fun a i => a <<< i.toNat),
  (0x15, .srli, fun a i => a >>> i.toNat),
  (0x16, .srai, fun a i => a.sshiftRight i.toNat),
  (0x17, .slti, fun a i => if a.toInt < i.toInt then 1 else 0),
  (0x18, .sltni, fun a i => if a.toNat < (i.signExtend 64).toNat then 1 else 0),
  (0x19, .muli, fun a i => BitVec.ofInt 64 (a.toInt * i.toInt)),
  (0x1a, .ldhi, fun a i => (a <<< 15) ||| i.setWidth 64)]

/-- The loads of R101: size field, constructor, bytes, and the value of xd from the datum read. -/
def loadWords : List (BitVec 3 × (XReg → XReg → BitVec 12 → Instr) × Nat × (Nat → Word64)) := [
  (0, .ldI8, 1, fun v => (BitVec.ofNat 8 v).signExtend 64),
  (1, .ldI16, 2, fun v => (BitVec.ofNat 16 v).signExtend 64),
  (2, .ldI32, 4, fun v => (BitVec.ofNat 32 v).signExtend 64),
  (3, .ld, 8, fun v => BitVec.ofNat 64 v),
  (4, .ldN8, 1, fun v => BitVec.ofNat 64 v),
  (5, .ldN16, 2, fun v => BitVec.ofNat 64 v),
  (6, .ldN32, 4, fun v => BitVec.ofNat 64 v)]

/-- The stores of R101: size field, constructor and bytes. -/
def storeWords : List (BitVec 3 × (XReg → XReg → BitVec 12 → Instr) × Nat) := [(0, .stI8, 1), (1, .stI16, 2), (2, .stI32, 4), (3, .st, 8)]

/-- The branches of R108: major, constructor, and when each is taken, from xd and xa. -/
def branchWords : List (BitVec 7 × (XReg → XReg → BitVec 15 → Instr) × (Word64 → Word64 → Bool)) := [
  (0x40, .beq, fun d a => decide (d = a)),
  (0x41, .bne, fun d a => decide (d ≠ a)),
  (0x42, .blt, fun d a => decide (d.toInt < a.toInt)),
  (0x43, .bge, fun d a => decide (a.toInt ≤ d.toInt)),
  (0x44, .bltn, fun d a => decide (d.toNat < a.toNat)),
  (0x45, .bgen, fun d a => decide (a.toNat ≤ d.toNat))]

/-- The atomics of R105 on `n` bits, for majors 0x48: the new value from the old one, b and c. -/
def amoValue (op : Nat) {n : Nat} (old b c : BitVec n) : BitVec n :=
  match op with
  | 0 => old + b
  | 1 => old &&& b
  | 2 => old ||| b
  | 3 => old ^^^ b
  | 4 => if old.toInt < b.toInt then old else b
  | 5 => if old.toInt < b.toInt then b else old
  | 6 => b
  | _ => if old = b then c else old

/-- The dword atomics: fn and constructor from xd, xa, xb, xc. -/
def amo64Words : List (Nat × (XReg → XReg → XReg → XReg → Instr)) := [
  (0, fun d a b _ => .amoAdd d a b), (1, fun d a b _ => .amoAnd d a b), (2, fun d a b _ => .amoOr d a b), (3, fun d a b _ => .amoXor d a b),
  (4, fun d a b _ => .amoMin d a b), (5, fun d a b _ => .amoMax d a b), (6, fun d a b _ => .amoSwap d a b), (7, .amoCas)]
/-- The word atomics: fn[3:0] and constructor. -/
def amo32Words : List (Nat × (XReg → XReg → XReg → XReg → Instr)) := [
  (0, fun d a b _ => .amoAddI32 d a b), (1, fun d a b _ => .amoAndI32 d a b), (2, fun d a b _ => .amoOrI32 d a b),
  (3, fun d a b _ => .amoXorI32 d a b), (4, fun d a b _ => .amoMinI32 d a b), (5, fun d a b _ => .amoMaxI32 d a b),
  (6, fun d a b _ => .amoSwapI32 d a b), (7, .amoCasI32)]

/-- An access of C at `ea` takes place: it is aligned, translated and allowed, and neither a bias flip of its page, nor a live lease on a line that
it writes, nor a refresh window of a weight-store bank that it reads, nor under replay the recorded order of accesses holds it (R102, R200, R308,
R322, R405). `u` is the machine with the pending store placed and the page in the TLB. -/
def Accesses (s u : State) (ea : Word64) (n : Nat) (need : Need) (reads writes : Bool) (pa : Nat) : Prop :=
  ea.toNat % n = 0 ∧ u = s.cEvent ea ∧ u.xlate u.whoC ea need = .ok pa ∧ u.holdsAt 0 reads pa writes = false

/-- A contribution of C at `ea` is accepted: its access is aligned, translated and allowed, its page is in no flip, and its virtual channel is not stopped
(R107, R322, R410). -/
def Posts (s u : State) (ea : Word64) (n pa : Nat) : Prop :=
  ea.toNat % n = 0 ∧ u = s.cEvent ea ∧ u.xlate u.whoC ea .rdwr = .ok pa ∧ u.inFlip pa = false ∧ u.vcStopped 2 pa = false

/-- The datum that an atomic finds: near-bank row steps that are under way on its bytes come first (R105, R315). -/
def found (u : State) (pa n : Nat) : Nat := (u.rmwFirst (span pa n)).rdNat pa n

end Sys2Proof.Claims

open Sys2Proof Sys2Proof.Machine Sys2Proof.Claims

/-- R96, R97: the integer register words with two sources encode as the table says, and each retires with its result, whatever its operands;
division never traps. -/
def Sys2Proof.Claims.RegisterWordsRetireWithResult : Prop :=
  ∀ e ∈ regWords, ∀ (xd xa xb : XReg) (s : State),
    encode (e.2.2.1 xd xa xb) = some (.c (cr e.1 xd xa xb 0 e.2.1)) ∧
    (s.Quiet → s.cReady [xa, xb] xd = true →
      ∃ t, exec (e.2.2.1 xd xa xb) s = .next t ∧
        Retired s t [xa, xb] xd (e.2.2.2 (s.xRead xa) (s.xRead xb)) (s.core.c.pc + 4))

/-- R96: clz, ctz, popc and bswap retire with their results. -/
def Sys2Proof.Claims.UnaryWordsRetireWithResult : Prop :=
  ∀ e ∈ unaryWords, ∀ (xd xa : XReg) (s : State),
    encode (e.2.1 xd xa) = some (.c (cr 0x03 xd xa 0 0 e.1)) ∧
    (s.Quiet → s.cReady [xa] xd = true →
      ∃ t, exec (e.2.1 xd xa) s = .next t ∧ Retired s t [xa] xd (e.2.2 (s.xRead xa)) (s.core.c.pc + 4))

/-- R98, R99, R100: addx, the immediate words and lea retire with their results. -/
def Sys2Proof.Claims.ImmediateWordsRetireWithResult : Prop :=
  (∀ e ∈ immWords, ∀ (xd xa : XReg) (imm : BitVec 15) (s : State),
    encode (e.2.1 xd xa imm) = some (.c (ci e.1 xd xa imm)) ∧
    (s.Quiet → s.cReady [xa] xd = true →
      ∃ t, exec (e.2.1 xd xa imm) s = .next t ∧ Retired s t [xa] xd (e.2.2 (s.xRead xa) imm) (s.core.c.pc + 4))) ∧
  (∀ (xd : XReg) (imm : BitVec 15) (s : State), s.Quiet → s.cReady [] xd = true →
    ∃ t, exec (.lea xd imm) s = .next t ∧ Retired s t [] xd (s.core.c.pc + 4 * imm.signExtend 64) (s.core.c.pc + 4)) ∧
  (∀ (xd xa xb : XReg) (sh : BitVec 5) (s : State), s.Quiet → s.cReady [xa, xb] xd = true →
    ∃ t, exec (.addx xd xa xb sh) s = .next t ∧
      Retired s t [xa, xb] xd (s.xRead xa + s.xRead xb <<< sh.toNat) (s.core.c.pc + 4))

/-- R101 to R104: a C load whose access takes place writes its datum, widened as its size says, from the bytes at the physical address. -/
def Obligations.LoadsReturnTheirDatum : Prop :=
  ∀ e ∈ loadWords, ∀ (xd xa : XReg) (off : BitVec 12) (s u : State) (pa : Nat),
    encode (e.2.1 xd xa off) = some (.c (cm 0x30 xd xa e.1 off)) ∧
    (s.Quiet → s.cReady [xa] xd = true → Accesses s u (s.xRead xa + off.signExtend 64) e.2.2.1 .rd true false pa →
      ∃ t, exec (e.2.1 xd xa off) s = .next t ∧
        Retired (u.l1Hit pa) t [xa] xd (e.2.2.2 (u.rdNat pa e.2.2.1)) (s.core.c.pc + 4) ∧
        ∀ a, t.rd8 a = s.flushStore.rd8 a)

/-- R101 to R104, R310: a C store of a local page retires with its bytes pending, and the store before it has taken place. -/
def Obligations.StoresRetireWithTheirBytes : Prop :=
  ∀ e ∈ storeWords, ∀ (xd xa : XReg) (off : BitVec 12) (s u : State) (pa : Nat),
    encode (e.2.1 xd xa off) = some (.c (cm 0x31 xd xa e.1 off)) ∧
    (s.Quiet → s.cReady [xa, xd] 0 = true → Accesses s u (s.xRead xa + off.signExtend 64) e.2.2 .wr false true pa →
      (∀ k, u.region pa ≠ .remote k) →
      ∃ t, exec (e.2.1 xd xa off) s = .next t ∧
        Retired ((u.l2Own pa).setC { (u.l2Own pa).core.c with store := some ⟨pa, leBytes e.2.2 (s.xRead xd).toNat, s.time⟩ }) t [xa, xd] 0 0
          (s.core.c.pc + 4) ∧
        ∀ a, t.rd8 a = s.flushStore.rd8 a)

/-- R108: a branch compares xd with xa, goes to PC + 4·imm when taken and to PC + 4 when not, and writes no register. -/
def Sys2Proof.Claims.BranchesCompareAndGo : Prop :=
  ∀ e ∈ branchWords, ∀ (xd xa : XReg) (imm : BitVec 15) (s : State),
    encode (e.2.1 xd xa imm) = some (.c (ci e.1 xd xa imm)) ∧
    (s.Quiet → s.cReady [xa, xd] 0 = true →
      ∃ t, exec (e.2.1 xd xa imm) s = .next t ∧
        Retired s t [xa, xd] 0 0 (if e.2.2 (s.xRead xd) (s.xRead xa) = true then s.core.c.pc + 4 * imm.signExtend 64 else s.core.c.pc + 4))

/-- R109: jal links in x30 and jumps; jalr links in xd and jumps to an aligned target, and raises cause 0x05 with the target as TVAL at
any other, xd unchanged. -/
def Sys2Proof.Claims.JumpsLinkAndGo : Prop :=
  (∀ (off : BitVec 25) (s : State), s.Quiet →
    ∃ t, exec (.jal off) s = .next t ∧ Retired s t [] 30 (s.core.c.pc + 4) (s.core.c.pc + 4 * off.signExtend 64)) ∧
  (∀ (xd xa : XReg) (imm : BitVec 15) (s : State), s.Quiet → s.cReady [xa] xd = true →
    ((s.xRead xa + imm.signExtend 64).toNat % 4 = 0 →
      ∃ t, exec (.jalr xd xa imm) s = .next t ∧ Retired s t [xa] xd (s.core.c.pc + 4) (s.xRead xa + imm.signExtend 64)) ∧
    ((s.xRead xa + imm.signExtend 64).toNat % 4 ≠ 0 →
      exec (.jalr xd xa imm) s = .next (s.cRaise 0x05 (s.xRead xa + imm.signExtend 64))))

/-- R105: a dword atomic whose access takes place writes the new value to memory in the same event as its read, and xd takes the old
value. -/
def Sys2Proof.Claims.DwordAtomicsExchange : Prop :=
  ∀ e ∈ amo64Words, ∀ (xd xa xb xc : XReg) (s u : State) (pa : Nat), (e.1 ≠ 7 → xc = 0) →
    encode (e.2 xd xa xb xc) = some (.c (cr 0x48 xd xa xb xc (BitVec.ofNat 5 e.1))) ∧
    (s.Quiet → s.cReady [xa, xb, xc] xd = true → Accesses s u (s.xRead xa) 8 .rdwr true true pa →
      ∃ t, exec (e.2 xd xa xb xc) s = .next t ∧
        Retired ((u.l2Hit pa).store pa (leBytes 8 (amoValue e.1 (BitVec.ofNat 64 (found u pa 8)) (s.xRead xb) (s.xRead xc)).toNat) u.me true)
          t [xa, xb, xc] xd (BitVec.ofNat 64 (found u pa 8)) (s.core.c.pc + 4))

/-- R105, R107: a word atomic outside the reduction window, or one that returns a value, does the same on 32 bits, its old value
sign-extended; amo.add, amo.min and amo.max to x0 in the window are posted as reductions (kinds add, min and max of i32). -/
def Sys2Proof.Claims.WordAtomicsExchangeOrPost : Prop :=
  ∀ e ∈ amo32Words, ∀ (xd xa xb xc : XReg) (s u : State) (pa : Nat), (e.1 ≠ 7 → xc = 0) →
    encode (e.2 xd xa xb xc) = some (.c (cr 0x48 xd xa xb xc (BitVec.ofNat 5 (16 + e.1)))) ∧
    (s.Quiet → s.cReady [xa, xb, xc] xd = true →
      (Accesses s u (s.xRead xa) 4 .rdwr true true pa → ¬ (e.1 ∈ [0, 4, 5] ∧ xd = 0 ∧ u.inWindow (s.xRead xa) = true) →
        ∃ t, exec (e.2 xd xa xb xc) s = .next t ∧
          Retired ((u.l2Hit pa).store pa (leBytes 4 (amoValue e.1 (BitVec.ofNat 32 (found u pa 4)) ((s.xRead xb).extractLsb' 0 32)
              ((s.xRead xc).extractLsb' 0 32)).toNat) u.me true)
            t [xa, xb, xc] xd ((BitVec.ofNat 32 (found u pa 4)).signExtend 64) (s.core.c.pc + 4)) ∧
      (Posts s u (s.xRead xa) 4 pa → e.1 ∈ [0, 4, 5] ∧ xd = 0 ∧ u.inWindow (s.xRead xa) = true → localRegion (bits pa 42 0) = .hbm →
        ∃ t, exec (e.2 xd xa xb xc) s = .next t ∧
          Retired (u.contribute pa (s.xRead xa) (if e.1 = 0 then .add else if e.1 = 4 then .min else .max) 3 ((s.xRead xb).extractLsb' 0 32))
            t [xa, xb, xc] 0 0 (s.core.c.pc + 4)))

/-- R105, R107: amo.fadd adds in its own format, rounded to nearest even, and xd takes the old value zero-extended; to x0 in the window it is
posted. The exceptions of the sum are counted. -/
def Sys2Proof.Claims.FloatAtomicsAddOrPost : Prop :=
  ∀ e ∈ [((0 : BitVec 5), Instr.amoFaddF32, f32, 4, (0 : BitVec 4)), (1, Instr.amoFaddBf16, bf16, 2, 1)],
  ∀ (xd xa xb : XReg) (s u : State) (pa : Nat),
    encode (e.2.1 xd xa xb) = some (.c (cr 0x49 xd xa xb 0 e.1)) ∧
    (s.Quiet → s.cReady [xa, xb] xd = true →
      (Accesses s u (s.xRead xa) e.2.2.2.1 .rdwr true true pa → ¬ (xd = 0 ∧ u.inWindow (s.xRead xa) = true) →
        let old := found u pa e.2.2.2.1
        let sum := e.2.2.1.sum .rne old ((s.xRead xb).toNat % 2 ^ (8 * e.2.2.2.1))
        ∃ t, exec (e.2.1 xd xa xb) s = .next t ∧
          Retired (((u.l2Hit pa).store pa (leBytes e.2.2.2.1 sum.bits) u.me true).fpCount sum.ev)
            t [xa, xb, 0] xd (BitVec.ofNat 64 old) (s.core.c.pc + 4)) ∧
      (Posts s u (s.xRead xa) e.2.2.2.1 pa → xd = 0 → u.inWindow (s.xRead xa) = true → localRegion (bits pa 42 0) = .hbm →
        ∃ t, exec (e.2.1 xd xa xb) s = .next t ∧
          Retired (u.contribute pa (s.xRead xa) .add e.2.2.2.2 ((s.xRead xb).extractLsb' 0 32)) t [xa, xb, 0] 0 0 (s.core.c.pc + 4)))

namespace Sys2Proof.Claims

open Sys2Proof.Machine

/-- A C word retires, writing no register, with the machine otherwise at `b`. -/
def GoesOn (i : Instr) (s b : State) (srcs : List XReg) : Prop :=
  ∃ t, exec i s = .next t ∧ Retired b t srcs 0 0 (s.core.c.pc + 4)
/-- A C word retires, writing `v` to `xd`, with the machine otherwise at `b`. -/
def Returns (i : Instr) (s b : State) (srcs : List XReg) (xd : XReg) (v : Word64) : Prop :=
  ∃ t, exec i s = .next t ∧ Retired b t srcs xd v (s.core.c.pc + 4)

/-- The command that an engine word enters. -/
def commandOf (k : CmdKind) (ctl a b : Word64) (len : Nat) (done defer iw : Bool) (sz : BitVec 3) (seq : Nat) : Cmd :=
  { kind := k, a := a, b := b, len := len, tag := ctl.extractLsb' 32 16, done := done, defer := defer, iw := iw, all := false, sz := sz,
    val := 0, started := false, pos := 0, buf := [], torn := [], shadow := [], written := false, published := false, fault := none, seq := seq, since := 0, extra := 0, fin := none }

/-- A command stands last in its engine's queue, its sample begun (R243); the pending store has taken place. -/
def entered (s : State) (e : Eng) (c : Cmd) : State :=
  let b := s.flushStore
  let c := { c with since := b.core.ctx.live, extra := match e with | .copy => b.injected 0xb | .gather => 0 }
  match e with
  | .copy => b.setEng { b.core.eng with copy := b.core.eng.copy ++ [c], seq := b.core.eng.seq + 1 }
  | .gather => b.setEng { b.core.eng with gather := b.core.eng.gather ++ [c], seq := b.core.eng.seq + 1 }

/-- The engine has room, C's ports are ready, and the command's pool ranges lie in the scratchpad (R17, R158, R188). -/
def MayEnter (s : State) (e : Eng) (srcs : List XReg) (c : Cmd) : Prop :=
  s.cReady srcs 0 = true ∧ (s.cmds e).length < engDepth e ∧ ∀ r ∈ c.ranges.1 ++ c.ranges.2, s.scratchBad r.1 r.2 = none

end Sys2Proof.Claims

/-- R181 to R185: the words that configure, start, stop and read a stream. The fields of an inactive stream are written; sb.go starts a
stream whose descriptor checks and commits a demand that reaches it; sb.stop stops a stream none of whose pops waits for data. -/
def Sys2Proof.Claims.StreamWordsConfigureAndStart : Prop :=
  ∀ (r : SReg) (xd xa xb : XReg) (dim : BitVec 2) (n : BitVec 3) (s : State), s.Quiet →
    ((s.desc r).active = false →
      (s.cReady [xa] 0 = true → GoesOn (.sbBase r xa) s (s.setDesc r { s.desc r with base := s.xRead xa }) [xa]) ∧
      (s.cReady [xa, xb] 0 = true → -2147483648 ≤ (s.xRead xb).toInt → (s.xRead xb).toInt ≤ 2147483647 →
        GoesOn (.sbBaseSc r xa xb) s
          (s.setDesc r { s.desc r with scaleBase := s.xRead xa, scaleStride := (s.xRead xb).extractLsb' 0 32 }) [xa, xb]) ∧
      (s.cReady [xa, xb] 0 = true → 1 ≤ (s.xRead xa).toNat → (s.xRead xa).toNat ≤ 16777215 → -8388608 ≤ (s.xRead xb).toInt →
        (s.xRead xb).toInt ≤ 8388607 →
        GoesOn (.sbDim r dim xa xb) s
          (s.setDesc r { s.desc r with
            count := (s.desc r).count.set dim.toNat ((s.xRead xa).extractLsb' 0 24) dim.isLt,
            stride := (s.desc r).stride.set dim.toNat ((s.xRead xb).extractLsb' 0 24) dim.isLt }) [xa, xb]) ∧
      (s.cReady [xa, xb] 0 = true →
        GoesOn (.sbFmt r xa xb) s
          (s.setDesc r { s.desc r with
            ctl := (s.desc r).ctl.extractLsb' 14 2 ++ (s.xRead xa).extractLsb' 0 14, block := (s.xRead xb).extractLsb' 0 16 }) [xa, xb]) ∧
      (s.cReady [xa] 0 = true →
        GoesOn (.sbWin r xa) s (s.setDesc r { s.desc r with win := (s.desc r).win.extractLsb' 27 5 ++ (s.xRead xa).extractLsb' 0 27 }) [xa]) ∧
      ((s.desc r).ok = true →
        GoesOn (.sbGo r) s
          ((s.setDesc r ((s.desc r).start s.core.ten r)).setTen { s.core.ten with
            committed := s.core.ten.committed || (s.core.ten.held.bind fun h => h.streamShare r).isSome, started := r :: s.core.ten.started,
            later := s.core.ten.later.filter (· != r) }) []) ∧
      ((s.core.v.flight.any fun f => f.await.any fun a => a.1 == r) = false → GoesOn (.sbStop r) s s [])) ∧
    ((s.desc r).active = true → (s.core.v.flight.any fun f => f.await.any fun a => a.1 == r) = false →
      GoesOn (.sbStop r) s (s.setDesc r { (s.desc r).setActive false with ahead := [], late := false, req := [] }) []) ∧
    (s.cReady [] xd = true → Returns (.sbRd xd r n) s s [] xd (BitVec.ofNat 64 (leAt (s.desc r).bytes (8 * n.toNat) 8)))

/-- R181, R183: a stream that is active takes no configuration word and no second start: cause 0x01, with the word as TVAL. -/
def Sys2Proof.Claims.ActiveStreamRejectsConfiguration : Prop :=
  ∀ (r : SReg) (xa xb : XReg) (dim : BitVec 2) (s : State), (s.desc r).active = true →
    (s.cReady [xa] 0 = true → exec (.sbBase r xa) s = .next (s.cRaise 0x01 (cWordOf (.sbBase r xa)))) ∧
    (s.cReady [xa, xb] 0 = true → exec (.sbBaseSc r xa xb) s = .next (s.cRaise 0x01 (cWordOf (.sbBaseSc r xa xb)))) ∧
    (s.cReady [xa, xb] 0 = true → exec (.sbDim r dim xa xb) s = .next (s.cRaise 0x01 (cWordOf (.sbDim r dim xa xb)))) ∧
    (s.cReady [xa, xb] 0 = true → exec (.sbFmt r xa xb) s = .next (s.cRaise 0x01 (cWordOf (.sbFmt r xa xb)))) ∧
    (s.cReady [xa] 0 = true → exec (.sbWin r xa) s = .next (s.cRaise 0x01 (cWordOf (.sbWin r xa)))) ∧
    exec (.sbGo r) s = .next (s.cRaise 0x01 (cWordOf (.sbGo r)))

/-- R182, R183: a count, a stride or a scale stride out of its range raises cause 0x01 with nothing written, and so does sb.go of a descriptor that does not
check. -/
def Sys2Proof.Claims.StreamOperandsOutOfRangeTrap : Prop :=
  ∀ (r : SReg) (xa xb : XReg) (dim : BitVec 2) (s : State), (s.desc r).active = false →
    (s.cReady [xa, xb] 0 = true → ((s.xRead xb).toInt < -2147483648 ∨ 2147483647 < (s.xRead xb).toInt) →
      exec (.sbBaseSc r xa xb) s = .next (s.cRaise 0x01 (cWordOf (.sbBaseSc r xa xb)))) ∧
    (s.cReady [xa, xb] 0 = true → ((s.xRead xa).toNat = 0 ∨ 16777215 < (s.xRead xa).toNat ∨ (s.xRead xb).toInt < -8388608 ∨
        8388607 < (s.xRead xb).toInt) →
      exec (.sbDim r dim xa xb) s = .next (s.cRaise 0x01 (cWordOf (.sbDim r dim xa xb)))) ∧
    ((s.desc r).ok = false → exec (.sbGo r) s = .next (s.cRaise 0x01 (cWordOf (.sbGo r))))

/-- R158, R186 to R192: a copy, gather, scatter, pub or ecw word whose engine has room, whose pool ranges lie in the scratchpad and whose
operands the rules allow enters its queue last, with the command its operands describe; eq.rd reads the queue. -/
def Obligations.EngineWordsEnterTheirQueue : Prop :=
  ∀ (xd xa xb : XReg) (done defer iw all gather : Bool) (sz : BitVec 3) (sel : BitVec 2) (s : State), s.Quiet →
    let cp := fun (k : CmdKind) (df : Bool) =>
      commandOf k (s.xRead xd) (s.xRead xa) (s.xRead xb) (bits (s.xRead xd).toNat 27 0) done df false 0 s.core.eng.seq
    let gs := fun (k : CmdKind) (df : Bool) =>
      commandOf k (s.xRead xd) (s.xRead xa) (s.xRead xb) (bits (s.xRead xd).toNat 18 0) done df iw sz s.core.eng.seq
    (MayEnter s .copy [xd, xa, xb] (cp .mp false) → GoesOn (.cpMp xd xa xb done) s (entered s .copy (cp .mp false)) [xd, xa, xb]) ∧
    (MayEnter s .copy [xd, xa, xb] (cp .pm defer) → GoesOn (.cpPm xd xa xb done defer) s (entered s .copy (cp .pm defer)) [xd, xa, xb]) ∧
    (MayEnter s .copy [xd, xa, xb] (cp .mm defer) → GoesOn (.cpMm xd xa xb done defer) s (entered s .copy (cp .mm defer)) [xd, xa, xb]) ∧
    (MayEnter s .copy [xd, xa, xb] (cp .pp false) → GoesOn (.cpPp xd xa xb done) s (entered s .copy (cp .pp false)) [xd, xa, xb]) ∧
    (bits (s.xRead xd).toNat 27 19 = 0 → MayEnter s .gather [xd, xa, xb] (gs .gth false) →
      GoesOn (.gth xd xa xb done iw sz) s (entered s .gather (gs .gth false)) [xd, xa, xb]) ∧
    (bits (s.xRead xd).toNat 27 19 = 0 → MayEnter s .copy [xd, xa, xb] (gs .sct defer) →
      GoesOn (.sct xd xa xb done defer iw sz) s (entered s .copy (gs .sct defer)) [xd, xa, xb]) ∧
    (let c := commandOf .pub (s.xRead xd) 0 0 0 done false false 0 s.core.eng.seq
     MayEnter s .copy [xd] c → GoesOn (.pub xd done) s (entered s .copy c) [xd]) ∧
    (let c := { commandOf .ecw 0 (s.xRead xa) 0 0 false false false 0 s.core.eng.seq with all := all, val := s.xRead xd }
     (s.xRead xa).toNat % 8 = 0 → MayEnter s .copy [xd, xa] c → GoesOn (.ecw xd xa all) s (entered s .copy c) [xd, xa]) ∧
    (s.cReady [] xd = true → Returns (.eqRd xd gather sel) s s.flushStore [] xd (s.eqRead (if gather = true then .gather else .copy) sel))

/-- R197, R198, R200: mig takes the first free entry of the table, counts a drop when there is none, and does nothing for a page in the TLB;
mig.rd reads the counts and the number of entries in use; wrf.rd returns the start of a bank's refresh window. -/
def Sys2Proof.Claims.MigrateAndRefreshWordsRetire : Prop :=
  ∀ (xd xa xb : XReg) (sel : BitVec 2) (s : State), s.Quiet →
    (s.cReady [xa, xb] 0 = true →
      let b := s.flushStore
      let held := canonical (s.xRead xa) = true ∧ (b.tlbFind s.core.ctx.part s.core.ctx.vf (s.xRead xa)).isSome = true
      (held → GoesOn (.mig xa xb) s b [xa, xb]) ∧
      (¬ held → (∀ i < 8, (vget s.core.mig.table i none).isSome = true) →
        GoesOn (.mig xa xb) s { b with core := { b.core with mig := { s.core.mig with drop := satAdd s.core.mig.drop 1 } } } [xa, xb]) ∧
      (¬ held → ∀ i < 8, vget s.core.mig.table i none = none → (∀ j < i, (vget s.core.mig.table j none).isSome = true) →
        GoesOn (.mig xa xb) s
          { b with core := { b.core with mig := { s.core.mig with
              table := vset s.core.mig.table i (some ⟨s.xRead xa, s.xRead xb, none⟩) } } } [xa, xb])) ∧
    (s.cReady [] xd = true →
      Returns (.migRd xd sel) s s.flushStore [] xd (if sel = 0 then s.core.mig.slip.setWidth 64 else if sel = 1 then s.core.mig.drop.setWidth 64
        else BitVec.ofNat 64 ((List.range 8).filter fun i => (vget s.core.mig.table i none).isSome).length)) ∧
    (s.cReady [xa] xd = true → (s.part s.myPart).repMode ≠ 2 →
      Returns (.wrfRd xd xa) s s.flushStore [xa] xd (BitVec.ofNat 64 (refreshStart (bits (s.xRead xa).toNat 3 0) (s.tstamp % 2 ^ 64))))

/-- R344, R345, R348: nb.ld loads a checked microprogram into its slot; nb.go queues a command whose rows the rules allow; nb.rd returns the
record or the queue's status. -/
def Sys2Proof.Claims.NearBankWordsAct : Prop :=
  ∀ (xd xa xb : XReg) (done : Bool) (slot : BitVec 2) (sel : BitVec 3) (s : State), s.Quiet →
    (∀ (u : State) (raw : List Byte),
      let p := (List.range 32).map fun i => BitVec.ofNat 64 (leAt raw (8 * i) 8)
      s.cReady [xa] 0 = true → (s.xRead xa).toNat % 256 = 0 → s.cBytes (s.xRead xa) 32 = .got u raw → (∀ w ∈ nbChecked p, nbStepOk w = true) →
        GoesOn (.nbLd xa slot) s (u.setNb { u.core.nb with slots := u.core.nb.slots.set slot.toNat p slot.isLt }) [xa]) ∧
    (∀ (log : Nat) (e : Word64),
      let ea := s.xRead xa
      let u := s.cEvent ea
      let pa := u.norm (entryAddr e / 2 ^ log * 2 ^ log + bits ea.toNat (log - 1) 0)
      let p := s.core.nb.slots.get ⟨slot.toNat, slot.isLt⟩
      s.cReady [xd, xa, xb] 0 = true → ea.toNat % 4096 = 0 → canonical ea = true → u.leafFor s.core.ctx.part s.core.ctx.vf ea = .leaf log e →
      leafAllows e .rdwr (!s.sup) = true → u.region pa = .hbm → u.hostBias pa = false → bits pa 39 36 / 3 = u.pkg.die.toNat →
      u.nbRefuse (.nbGo xd xa xb done slot) ea log pa p = none → s.core.nb.cmds.length < 8 →
      ((pa / 65536) :: nbPages pa (nbSteps p)).any (fun g => u.inFlip (g * 65536)) = false →
        ∃ t, exec (.nbGo xd xa xb done slot) s = .next (t.nbTrace "enter") ∧ Retired
          (u.setNb { u.core.nb with cmds := u.core.nb.cmds ++ [
            { prog := nbSteps p, row := pa, va := ea, s0 := (s.xRead xb).extractLsb' 0 32, s1 := (s.xRead xb).extractLsb' 32 32,
              tag := (s.xRead xd).extractLsb' 32 16, done := done, planes := Vector.ofFn fun i => s.core.ten.nbPlanes i.val, sent := false,
              running := false, step := 0, rstep := 0, suspended := false, asked := 0, halted := 0, told := false,
              acc := Vector.replicate 4 0, empty := 15, fpc := List.replicate 8 0, start := s.core.ctx.live, extra := s.injected 0x9,
              fin := none, fault := none, payer := (u.myPart, u.payer), gone := false }] }) t [xd, xa, xb] 0 0 (s.core.c.pc + 4)) ∧
    (s.cReady [xa] xd = true → Returns (.nbRd xd xa sel) s s.flushStore [xa] xd (s.nbRead (bits (s.xRead xa).toNat 2 0) sel))

/-- R344, R345: where nb.ld and nb.go raise a cause and do nothing else: a misaligned address; a microprogram that fails to load or does not check; a base
row that is not translated, barred, a guard row, not allowed or not local HBM in device bias of the core's die; a row that R345 refuses. -/
def Sys2Proof.Claims.NearBankWordsTrap : Prop :=
  ∀ (xd xa xb : XReg) (done : Bool) (slot : BitVec 2) (s : State),
    (s.cReady [xa] 0 = true →
      ((s.xRead xa).toNat % 256 ≠ 0 → exec (.nbLd xa slot) s = .next (s.cRaise 0x05 (s.xRead xa))) ∧
      (∀ u f va, (s.xRead xa).toNat % 256 = 0 → s.cBytes (s.xRead xa) 32 = .failed u f va → f ≠ .remote → f ≠ .waits →
        exec (.nbLd xa slot) s = .next (u.cRaise (xfailCause f 0x06 va).1 (xfailCause f 0x06 va).2)) ∧
      (∀ u raw, (s.xRead xa).toNat % 256 = 0 → s.cBytes (s.xRead xa) 32 = .got u raw →
        (∃ w ∈ nbChecked ((List.range 32).map fun i => BitVec.ofNat 64 (leAt raw (8 * i) 8)), nbStepOk w = false) →
        exec (.nbLd xa slot) s = .next (u.cRaise 0x01 (cWordOf (.nbLd xa slot))))) ∧
    (s.cReady [xd, xa, xb] 0 = true →
      let ea := s.xRead xa
      let u := s.cEvent ea
      let i := Instr.nbGo xd xa xb done slot
      (ea.toNat % 4096 ≠ 0 → exec i s = .next (s.cRaise 0x05 ea)) ∧
      (ea.toNat % 4096 = 0 → canonical ea = false → exec i s = .next (s.cRaise 0x0b ea)) ∧
      (ea.toNat % 4096 = 0 → canonical ea = true →
        (u.leafFor u.core.ctx.part u.core.ctx.vf ea = .none → exec i s = .next (u.cRaise 0x07 ea)) ∧
        (∀ row, u.leafFor u.core.ctx.part u.core.ctx.vf ea = .guard row → exec i s = .next (u.cRaise 0x0a (BitVec.ofNat 64 row))) ∧
        (u.leafFor u.core.ctx.part u.core.ctx.vf ea = .barred → exec i s = .next (u.cRaise 0x0b ea)) ∧
        (∀ log e, u.leafFor u.core.ctx.part u.core.ctx.vf ea = .leaf log e →
          let pa := u.norm (entryAddr e / 2 ^ log * 2 ^ log + bits ea.toNat (log - 1) 0)
          let ok := leafAllows e .rdwr (!u.sup) = true ∧ u.region pa = .hbm ∧ u.hostBias pa = false ∧ bits pa 39 36 / 3 = u.pkg.die.toNat
          (¬ ok → exec i s = .next (u.cRaise 0x0b ea)) ∧
          (∀ cause tval, ok → u.nbRefuse i ea log pa (u.core.nb.slots.get ⟨slot.toNat, slot.isLt⟩) = some (cause, tval) →
            exec i s = .next (u.cRaise cause tval)))))

/-- R268 to R270: dmd holds the demand its table divides, committed at once where the step has started what it reaches, redmd divides the held table again
for a demand no less than the held one, and dmd.rd reads the division; an unmet demand is reported only when TRAPEN asks for it (the cut that an active
stream waits for: log 35, DEDUCED; dmd.rd: log 40, DEDUCED). -/
def Sys2Proof.Claims.DemandWordsHoldAndDivide : Prop :=
  ∀ (xd xa : XReg) (n sel : BitVec 4) (sl : BitVec 3) (s : State), s.Quiet →
    (∀ (u : State) (raw : List Byte),
     let ea := s.xRead xa
     let b := bits (s.xRead xd).toNat 11 0
     s.cReady [xd, xa] 0 = true → ea.toNat % 16 = 0 → s.core.ten.committed = false → s.cBytes ea (2 * (n.toNat + 1)) = .got u raw →
     tableOk raw (n.toNat + 1) = true →
       (b = 0 → GoesOn (.dmd xd xa n) s (u.setTen { u.core.ten with held := none, pending := false }).applyDemand [xd, xa]) ∧
       (b ≠ 0 → (u.divideHeld (parseTable raw (n.toNat + 1)) b).2 = false ∨ s.core.csr.trapen.getLsbD 2 = false →
         GoesOn (.dmd xd xa n) s (u.divideHeld (parseTable raw (n.toNat + 1)) b).1.applyDemand.commitHeld [xd, xa]) ∧
       (b ≠ 0 → (u.divideHeld (parseTable raw (n.toNat + 1)) b).2 = true → s.core.csr.trapen.getLsbD 2 = true →
         ∃ t, Retired (u.divideHeld (parseTable raw (n.toNat + 1)) b).1.applyDemand.commitHeld t [xd, xa] 0 0 (s.core.c.pc + 4) ∧
           exec (.dmd xd xa n) s = .next (t.async 2 t.core.csr.dmdx))) ∧
    (∀ h, s.core.ten.held = some h →
      let b := bits (s.xRead xd).toNat 11 0
      let r := s.divideHeld h.tab b
      s.cReady [xd] 0 = true → (h.div.getD 0 NodeDiv.zero).budget ≤ b → r.2 = false ∨ s.core.csr.trapen.getLsbD 2 = false →
        GoesOn (.redmd xd) s (r.1.setTen { r.1.core.ten with pending := r.1.core.ten.pending || s.redemandWaits h }) [xd]) ∧
    (s.cReady [] xd = true → Returns (.dmdRd xd sl sel) s s [] xd (s.dmdRead sl sel))

/-- R268, R269: a misaligned table raises cause 0x05; a demand that is committed, a table that does not check, a re-demand with none held or for less than
the held demand raise cause 0x01; a table that cannot be loaded raises the load's cause. Nothing else happens. -/
def Sys2Proof.Claims.DemandWordsTrap : Prop :=
  ∀ (xd xa : XReg) (n : BitVec 4) (s : State),
    (s.cReady [xd, xa] 0 = true →
      let ea := s.xRead xa
      (ea.toNat % 16 ≠ 0 → exec (.dmd xd xa n) s = .next (s.cRaise 0x05 ea)) ∧
      (ea.toNat % 16 = 0 → s.core.ten.committed = true → exec (.dmd xd xa n) s = .next (s.cRaise 0x01 (cWordOf (.dmd xd xa n)))) ∧
      (ea.toNat % 16 = 0 → s.core.ten.committed = false →
        (∀ u f va, s.cBytes ea (2 * (n.toNat + 1)) = .failed u f va → f ≠ .remote → f ≠ .waits →
          exec (.dmd xd xa n) s = .next (u.cRaise (xfailCause f 0x06 va).1 (xfailCause f 0x06 va).2)) ∧
        (∀ u raw, s.cBytes ea (2 * (n.toNat + 1)) = .got u raw → tableOk raw (n.toNat + 1) = false →
          exec (.dmd xd xa n) s = .next (u.cRaise 0x01 (cWordOf (.dmd xd xa n)))))) ∧
    (s.cReady [xd] 0 = true →
      (s.core.ten.held = none → exec (.redmd xd) s = .next (s.cRaise 0x01 (cWordOf (.redmd xd)))) ∧
      (∀ h, s.core.ten.held = some h → bits (s.xRead xd).toNat 11 0 < (h.div.getD 0 NodeDiv.zero).budget →
        exec (.redmd xd) s = .next (s.cRaise 0x01 (cWordOf (.redmd xd)))))

/-- R252: lsym.rd returns the status word; lsym.pin of a used symbol to a value within its bounds makes the request, pinned; lsym.free drops
a pinned request and starts the monitor's counts again. -/
def Sys2Proof.Claims.LatencySymbolWordsReadPinFree : Prop :=
  ∀ (xd xa : XReg) (i : BitVec 3) (s : State), s.Quiet →
    let x := s.sym i
    (s.cReady [] xd = true → Returns (.lsymRd xd i) s s [] xd x.status) ∧
    (s.cReady [xa] 0 = true → x.src ≠ 0 → x.lo.toNat ≤ (s.xRead xa).toNat → (s.xRead xa).toNat ≤ x.hi.toNat →
      GoesOn (.lsymPin xa i) s (s.setSym i { x with mon := { x.mon with req := some (BitVec.ofNat 6 (s.xRead xa).toNat, true) } }) [xa]) ∧
    (x.src ≠ 0 →
      GoesOn (.lsymFree i) s (s.setSym i { x with mon := { x.mon with
        req := match x.mon.req with | some (_, true) => none | r => r, pinned := false, a := 0, b := 0 } }) [])

namespace Sys2Proof.Claims

open Sys2Proof.Machine

/-- The number of a fence: fence.e, fence.b, fence.s, fence.f. -/
def fenceWords : List (Instr × BitVec 2) := [(.fenceE, 0), (.fenceB, 1), (.fenceS, 2), (.fenceF, 3)]

end Sys2Proof.Claims

/-- R317, R347: a fence and nb.fence place C's pending store; when the completion point is reached they bring their effect about and retire,
else C waits; a waiting fence completes when its point is reached. -/
def Sys2Proof.Claims.FenceWordsWait : Prop :=
  ∀ s : State, s.Quiet →
    (∀ e ∈ fenceWords,
      (s.flushStore.fenceDone e.2 = true → GoesOn e.1 s (s.flushStore.fenceEffect e.2) []) ∧
      (s.flushStore.fenceDone e.2 = false →
        exec e.1 s = .next (s.flushStore.setC { s.flushStore.core.c with run := .fence e.2, blocked := true })) ∧
      (s.core.c.run = .fence e.2 → s.fenceDone e.2 = true → GoesOn .fenceComplete s (s.fenceEffect e.2) [])) ∧
    (s.flushStore.nearFenced = true → GoesOn .nbFence s s.flushStore.bankFence []) ∧
    (s.flushStore.nearFenced = false →
      exec .nbFence s = .next (s.flushStore.setC { s.flushStore.core.c with run := .nbFence, blocked := true })) ∧
    (s.core.c.run = .nbFence → s.nearFenced = true → GoesOn .fenceComplete s s.bankFence [])

/-- R317, R347: what each fence waits for and what it makes visible. fence.e and fence.s wait until every engine command has left its queue, has published or,
deferred, has written its last element; fence.b waits, as nb.fence does, until no near-bank command of the core is left and no lease or flip is on a line that
one has written; fence.f waits until no posted reduction of C's, or of S's under a token that C has popped, is on its way. fence.s takes every covered write of
the core's agents to the memory-side cache (which writes count as covered: log 19, DEDUCED); fence.b and nb.fence place every waiting granule, fire the
watch on a line so written, and leave no copy of such a line in an L2 or a memory-side cache (log 42, DEDUCED). -/
def Sys2Proof.Claims.FencesReachTheirPoint : Prop :=
  ∀ s : State,
    (∀ k ∈ [(0 : BitVec 2), 2], s.fenceDone k = true ↔
      (∀ c ∈ s.core.eng.copy, c.published = true ∨ c.defer = true ∧ c.written = true) ∧ s.core.eng.gather = []) ∧
    (s.fenceDone 1 = s.nearFenced ∧
      (s.nearFenced = true ↔ s.core.nb.cmds = [] ∧ s.writeHeld (s.core.nb.lines.map fun l => l * 128) = false)) ∧
    (s.fenceDone 3 = true ↔ ∀ c ∈ s.pkg.red, c.own = 0 ∨ (s.fifo 6).out < c.need) ∧
    (s.fenceEffect 0 = s ∧ s.fenceEffect 3 = s ∧ s.fenceEffect 1 = s.bankFence) ∧
    (∀ a, (s.fenceEffect 2).rd8 a = s.rd8 a) ∧
    (∀ x ∈ (s.fenceEffect 2).mem.stale, ∀ w ∈ x.2.writes, w.mine = true → s.covered w.cover = false) ∧
    (s.bankFence.core.nb.writes = [] ∧ s.bankFence.core.nb.lines = []) ∧
    (∀ a, s.bankFence.rd8 a = (s.core.nb.writes.foldl State.granulePut s).rd8 a) ∧
    ∀ l ∈ s.core.nb.lines,
      (∀ x ∈ s.bankFence.mem.l2, x.line ≠ l) ∧ (∀ x ∈ s.bankFence.mem.msc, x.line ≠ l) ∧
      (s.core.c.watch = .armed l → s.bankFence.core.c.watch = .fired l)

/-- R297: mon loads its dword and arms the watch on the line, as one event. -/
def Sys2Proof.Claims.MonLoadsAndArms : Prop :=
  ∀ (xd xa : XReg) (s u : State) (pa : Nat), s.Quiet → s.cReady [xa] xd = true → Accesses s u (s.xRead xa) 8 .rd true false pa →
    Returns (.mon xd xa) s ((u.l1Hit pa).setC { (u.l1Hit pa).core.c with watch := .armed (lineOf (u.norm pa)) }) [xa] xd
      (BitVec.ofNat 64 (u.rdNat pa 8))

/-- R298: mwait returns 3 with no watch armed, 0 for a fired and 1 for a lost one, each with the watch disarmed; on an armed watch C sleeps,
its source popped; a sleeping mwait wakes with 0, 1, 4 or, at its timeout, 2. The machine is not under replay. -/
def Sys2Proof.Claims.MwaitReturnsItsReason : Prop :=
  ∀ (xd xa : XReg) (s : State), s.Quiet → (s.part s.myPart).repMode ≠ 2 →
    let off := s.setC { s.core.c with watch := .none }
    (s.cReady [xa] xd = true →
      (s.core.c.watch = .none → Returns (.mwait xd xa) s off [xa] xd 3) ∧
      (∀ l, s.core.c.watch = .fired l → Returns (.mwait xd xa) s off [xa] xd 0) ∧
      (∀ l, s.core.c.watch = .lost l → Returns (.mwait xd xa) s off [xa] xd 1) ∧
      (∀ l, s.flushStore.core.c.watch = .armed l → s.core.c.watch = .armed l → s.flushStore.yieldTo l = none →
        exec (.mwait xd xa) s = .next ((s.flushStore.xPop [xa]).setC { s.flushStore.core.c with
          run := .mwait xd (if s.xRead xa = 0 then none else some (s.tstamp + (s.xRead xa).toNat)), blocked := true }))) ∧
    (∀ limit reason, s.core.c.run = .mwait xd limit → s.mwaitReason = some reason →
      Returns .mwaitWake s off [] xd (BitVec.ofNat 64 reason)) ∧
    (∀ limit, s.core.c.run = .mwait xd (some limit) → limit ≤ s.tstamp → Returns .mwaitTimeout s off [] xd 2)

/-- R293: bar.a arrives, once its level's earlier arrival is over and what it covers is done, and returns the phase; bar.w returns when the
phase of the arrival is complete; bar does both, sleeping between; a sleeping word that may go on does so. That a bar whose arrival is made, and which
is woken or executed again, does not arrive a second time is log 20 (DEDUCED). -/
def Obligations.BarriersArriveAndWait : Prop :=
  ∀ (xd : XReg) (l : BitVec 2) (s : State), s.Quiet → domValid (s.domain l) = true →
    let u := s.flushStore
    let past := fun (x : State) => x.setC { x.core.c with
      arrived := x.core.c.arrived.set l.toNat none l.isLt, mid := x.core.c.mid &&& ~~~(1#4 <<< l.toNat) }
    let sleeps := fun (x : State) (i : Instr) => x.setC { x.core.c with run := .bar i, blocked := true }
    (s.cReady [] xd = true → u.barOver l = true → u.barCovered = true →
      Returns (.barA xd l) s (u.barDo l false) [] xd (BitVec.ofNat 64 (u.barShown l))) ∧
    (s.cReady [] xd = true → (u.barOver l && u.barCovered) = false → exec (.barA xd l) s = .next (sleeps u (.barA xd l))) ∧
    (u.barOver l = true → GoesOn (.barW l) s (past u) []) ∧
    (u.barOver l = false → exec (.barW l) s = .next (sleeps u (.barW l))) ∧
    (u.core.c.mid.getLsbD l.toNat = false → u.barOver l = true → u.barCovered = true →
      ((u.barDo l true).barOver l = true → GoesOn (.bar l) s (past (u.barDo l true)) []) ∧
      ((u.barDo l true).barOver l = false → exec (.bar l) s = .next (sleeps (u.barDo l true) (.bar l)))) ∧
    (u.core.c.mid.getLsbD l.toNat = true → u.barOver l = true → GoesOn (.bar l) s (past u) []) ∧
    (s.core.c.run = .bar (.bar l) → u.core.c.mid.getLsbD l.toNat = true → u.barOver l = true → GoesOn .barrierWake s (past u) []) ∧
    (s.core.c.run = .bar (.barW l) → u.barOver l = true → GoesOn .barrierWake s (past u) [])

/-- R287, R288, R290, R291: tok.push and tok.pop move one token; tsub queues a block for a queue that the function may use; tdep takes one
from a block's PRED and returns the old count; yield asks the next cut, and asks nothing of a gang step. -/
def Obligations.TokensSubmissionsAndYield : Prop :=
  ∀ (xd xa : XReg) (q : BitVec 6) (next strict : Bool) (s : State), s.Quiet →
    (let i := fifoTo .c next
     s.tokRoom .c next = true → GoesOn (.tokPush next) s (s.flushStore.setFifo i { s.fifo i with occ := (s.fifo i).occ + 1 }) []) ∧
    (let i := fifoFrom .c next
     0 < (s.fifo i).occ → GoesOn (.tokPop next) s (s.setFifo i { s.fifo i with occ := (s.fifo i).occ - 1, out := (s.fifo i).out + 1 }) []) ∧
    (s.cReady [xa] 0 = true → (s.xRead xa).toNat % 256 = 0 → (s.part s.myPart).mayUse s.core.ctx.vf q = true → s.core.q.sub.length < 4 →
      GoesOn (.tsub xa q) s (s.flushStore.setQ { s.flushStore.core.q with sub := s.core.q.sub ++ [(s.xRead xa, q)] }) [xa]) ∧
    (∀ (u : State) (pa : Nat), s.cReady [xa] xd = true → (s.xRead xa).toNat % 256 = 0 → Accesses s u (s.xRead xa + 0xc4) 4 .rdwr true true pa →
      let w := (u.l2Hit pa).rmwFirst (span pa 4)
      let old := w.rdNat pa 4
      let u' := if old = 0 then w else w.store pa (leBytes 4 (old - 1)) w.me true
      Returns (.tdep xd xa) s (u'.predSeen s.myPart s.core.ctx.vf (s.xRead xa) (old - 1)) [xa] xd (BitVec.ofNat 64 old)) ∧
    (∀ id, s.core.ctx.running = some id →
      GoesOn (.yield strict) s
        (if id.gang = true then s.flushStore
         else ((s.setCtx { s.core.ctx with yield_ := some strict }).setV { s.core.v with lookYield := false }).flushStore) [])

/-- R112, R113, R115: csrr returns the CSR; csrw, csrs and csrc return the old value and write the new one where the mode may write, and write
nothing in task mode elsewhere. TSTAMP reads the time. -/
def Obligations.CsrWordsReadAndWrite : Prop :=
  ∀ (xd xa : XReg) (n : BitVec 12) (s : State), s.Quiet → (s.part s.myPart).repMode ≠ 2 → (s.sup = true ∨ csrPriv n = false) →
    let old := if n = 0x102 then BitVec.ofNat 64 s.tstamp else s.readCsr n
    let wr := fun v => if s.sup = true ∨ n = 0x010 then s.writeCsr n v else s
    (s.cReady [] xd = true → Returns (.csrr xd n) s s [] xd old) ∧
    (s.cReady [xa] xd = true →
      Returns (.csrw xd xa n) s (wr (s.xRead xa)) [xa] xd old ∧
      Returns (.csrs xd xa n) s (wr (old ||| s.xRead xa)) [xa] xd old ∧
      Returns (.csrc xd xa n) s (wr (old &&& ~~~(s.xRead xa))) [xa] xd old)

/-- R112, R117, R118: in task mode a CSR of the supervisor, eret and tlbi raise cause 0x02 with the word as TVAL, before they wait for any port (log 67,
DEDUCED). -/
def Obligations.TaskModeMayNotUsePrivilegedWords : Prop :=
  ∀ (xd xa : XReg) (n : BitVec 12) (s : State), s.sup = false →
    (csrPriv n = true →
      exec (.csrr xd n) s = .next (s.cRaise 0x02 (cWordOf (.csrr xd n))) ∧
      exec (.csrw xd xa n) s = .next (s.cRaise 0x02 (cWordOf (.csrw xd xa n))) ∧
      exec (.csrs xd xa n) s = .next (s.cRaise 0x02 (cWordOf (.csrs xd xa n))) ∧
      exec (.csrc xd xa n) s = .next (s.cRaise 0x02 (cWordOf (.csrc xd xa n)))) ∧
    exec .eret s = .next (s.cRaise 0x02 (cWordOf .eret)) ∧
    exec (.tlbi xa) s = .next (s.cRaise 0x02 (cWordOf (.tlbi xa)))

/-- R30, R117: eret in supervisor mode restores the mode from PM and C's PC from TEPC, ends the freeze, leaves TFPC and TVAL, and releases L,
V and S on the words they were frozen on. -/
def Sys2Proof.Claims.EretRestoresModeAndPc : Prop :=
  ∀ s : State, s.Quiet → s.sup = true → s.core.trap.noStep = .no →
    ∃ t, exec .eret s = .next t ∧
      t.core.trap = { s.core.trap with mode := s.core.trap.pm, frz := false, dog := 0, moved := 15 } ∧
      t.core.c = { s.core.c with pc := s.core.trap.tepc &&& ~~~3, run := .ready, blocked := false } ∧
      t.core.l = { s.core.l with blocked := false } ∧ t.core.s = { s.core.s with blocked := false } ∧
      t.core.v = { s.core.v with blocked := false } ∧ t.core.q = s.core.q ∧ t.core.csr = s.core.csr ∧ t.core.pool = s.core.pool ∧
      ∀ a, t.rd8 a = s.rd8 a

/-- R22, R118 to R121: tlbi drops translations, icsync drops C's fetched-ahead words and marks new code for the next cut, nop changes nothing
but the PC, and end takes C to the ended state. -/
def Sys2Proof.Claims.SystemWordsTakeEffect : Prop :=
  ∀ (xa : XReg) (payload : BitVec 25) (s : State), s.Quiet →
    GoesOn (.nop payload) s s [] ∧
    (s.sup = true → GoesOn (.tlbi xa) s (s.flushStore.invalidate (if xa = 0 then none else some (s.xRead xa))) [xa]) ∧
    (let u := s.flushStore
     GoesOn .icsync s ((u.setC { u.core.c with held := [] }).setCtx { u.core.ctx with newCode := u.core.ctx.newCode || s.stepOn }) []) ∧
    (s.sup = false →
      ∃ t, exec .endC s = .next t ∧ t.core.c = { s.flushStore.core.c with run := .ended, blocked := false } ∧ t.core.q = s.core.q ∧
        (∀ a, t.rd8 a = s.flushStore.rd8 a))

/-- R30, R32, R34, R66, R116: in task mode, with no freeze waited for, trap and bkpt take their trap: the mode goes to PM and becomes supervisor,
L, V and S freeze, CAUSE and TVAL hold what the word says, TFPC its PC and TEPC the following PC, and C goes on at TVEC. -/
def Sys2Proof.Claims.TrapAndBkptEnterTheHandler : Prop :=
  ∀ (imm : BitVec 15) (code : BitVec 25) (s : State), s.sup = false → s.core.trap.wait = none →
    ∀ e ∈ [(Instr.trap imm, (0x04 : BitVec 8), imm.setWidth 64), (.bkpt code, 0x03, (cj 0x7f code).setWidth 64)],
      ∃ t, exec e.1 s = .next t ∧
        t.core.trap = { s.core.trap with
          pm := false, mode := true, frz := true, cause := e.2.1, strand := 0, tval := e.2.2, tfpc := s.core.c.pc, tepc := s.core.c.pc + 4,
          wait := none, dog := 0 } ∧
        t.core.c = { s.flushStore.core.c with pc := s.core.trap.tvec, run := .ready, blocked := false } ∧
        t.core.l = s.core.l ∧ t.core.v = s.core.v ∧ t.core.s = s.core.s ∧ t.core.q = s.core.q ∧ ∀ a, t.rd8 a = s.flushStore.rd8 a

namespace Sys2Proof.Claims

open Sys2Proof.Machine

/-- A word of L or S that moves no data: with nothing in flight it issues and retires; behind words in flight it issues and waits. `own` is
what it makes of the loop levels itself. -/
def LsGoes (i : Instr) (s : State) (k : LS) (srcs : List YReg) (tok : Tokens) (mk : Nat) (y : Option (YReg × Word32)) (own : Option (List Loop))
    (ends : Bool) : Prop :=
  s.lsReady k tok srcs = true → mk ≤ (own.getD (s.ls k).loops).length →
    ((s.ls k).pend = [] →
      ∃ t, exec i s = .next t ∧
        LsRetired s t k srcs tok y (closing s k mk own).1
          (if ends = true ∧ mk = 0 ∧ own = none then (s.ls k).pc else (closing s k mk own).2) ends) ∧
    ((s.ls k).pend ≠ [] →
      ∃ t, exec i s = .next t ∧ LsIssued s t k srcs tok ⟨false, false, y, tok, closingKept s k mk own, ends⟩)

/-- A data word of L or S: it issues, its data moved as `b` shows, and waits to retire. -/
def LsMoves (i : Instr) (s b : State) (k : LS) (ya : YReg) (tok : Tokens) (mk : Nat) (wload : Bool) : Prop :=
  s.lsReady k tok [ya] = true → mk ≤ (s.ls k).loops.length →
    ∃ t, exec i s = .next t ∧ LsIssued b t k [ya] tok ⟨true, wload, none, tok, closingKept s k mk none, false⟩

/-- The bytes that a vld or a pld moves: `len` units of 64, or all. -/
def dataLen (len : BitVec 11) (all : Nat) : Nat := if len = 0 then all else len.toNat * 64

/-- The source range of vst or vred is in its register or in the scratchpad, its format fits, and its elements are there to be pushed. -/
def PushSource (s : State) (vr : BitVec 5) (r : SReg) (at_ : Nat) (fmt : BitVec 4) (len : BitVec 11) (need : Need) (es : List (Nat × Nat)) : Prop :=
  let d := s.desc r
  let n := srcBytes d fmt.toNat len
  d.active = true ∧ d.out = true ∧ (vr = 31 ∨ fmt = s.core.v.shape.fmt) ∧ s.poolCause vr at_ n = none ∧ s.poolErr (s.poolAt vr at_) n = none ∧
    d.pushElems (srcCount d fmt.toNat len) = some es ∧ ∃ x, (s.fillFor d (es.map (·.1))).pushCheck d need (es.map (·.1)) = (.ok x, 0)

end Sys2Proof.Claims

/-- R122, R125, R126, R128 to R131, R133, R65: the y-register words, the loop words, end and hints of L and S. -/
def Sys2Proof.Claims.RegisterAndLoopWordsRetireInOrder : Prop :=
  ∀ (k : LS) (tok : Tokens) (mk : BitVec 2) (yd ya yb : YReg) (imm : BitVec 32) (lid : BitVec 8) (payload : BitVec 52) (s : State), s.Quiet →
    let y := s.yRead (lsStrand k)
    let loops := (s.ls k).loops
    LsGoes (.yadd k tok mk yd ya yb) s k [ya, yb] tok mk.toNat (some (yd, y ya + y yb)) none false ∧
    LsGoes (.yaddi k tok mk yd ya imm) s k [ya] tok mk.toNat (some (yd, y ya + imm)) none false ∧
    LsGoes (.ymov k tok mk yd ya) s k [ya] tok mk.toNat (some (yd, y ya)) none false ∧
    LsGoes (.yrd k tok mk yd 0 lid) s k [] tok mk.toNat (some (yd, (loopFind loops lid).elim 0 (·.index))) none false ∧
    LsGoes (.yrd k tok mk yd 1 lid) s k [] tok mk.toNat (some (yd, (loopFind loops lid).elim 0 (·.remaining))) none false ∧
    LsGoes (.yrd k tok mk yd 2 lid) s k [] tok mk.toNat (some (yd, (s.ls k).hi)) none false ∧
    LsGoes (.yrd k tok mk yd 3 lid) s k [] tok mk.toNat (some (yd, s.core.csr.tick.extractLsb' 0 32)) none false ∧
    (loops.length < 4 → loopFind loops lid = none →
      LsGoes (.lbeg k tok lid ya imm) s k [ya] tok 0 none
        (some (⟨lid, (s.ls k).pc + 8, none, if y ya + imm = 0 then 1 else y ya + imm, 0⟩ :: loops)) false) ∧
    (∀ l ls, loops = l :: ls → l.id = lid → LsGoes (.lend k tok lid) s k [] tok 1 none (some (l :: ls)) false) ∧
    ((loopFind loops lid).isSome = true →
      LsGoes (.lbr k tok mk lid ya) s k [ya] tok mk.toNat none
        (some (if y ya ≠ 0 then loops.map (fun l => if l.id = lid then { l with remaining := 1 } else l) else loops)) false) ∧
    LsGoes (.lsEnd k tok mk) s k [] tok mk.toNat none none true ∧
    LsGoes (.lsHint k tok mk payload) s k [] tok mk.toNat none none false

/-- R130: closing one level by the unit at pc whose successor is at next: a level with iterations left goes back, one without is over. -/
def Sys2Proof.Claims.ClosingALoopGoesBackOrOn : Prop :=
  ∀ (l : Loop) (ls : List Loop) (pc next : Word64) (m : Nat),
    (1 < l.remaining.toNat → loopClose true pc next (m + 1) (l :: ls) =
      ({ l with remaining := l.remaining - 1, index := l.index + 1, fin := some (l.fin.getD pc) } :: ls, l.start, some (l.remaining - 1))) ∧
    (l.remaining.toNat ≤ 1 → loopClose true pc next (m + 1) (l :: ls) = loopClose true pc next m ls) ∧
    loopClose true pc next 0 (l :: ls) = (l :: ls, next, none)

/-- R66, R129 to R131, R38: a fifth lbeg, an lbeg of an active id, an lend of another level, an lbr of a level that is not active, and a marker
beyond the active levels raise cause 0x01 with the word, before any change, whatever tokens or entries the word would wait for (R66 says the last of the
all-ones word alone; for these words it is log 67, DEDUCED). -/
def Sys2Proof.Claims.MisusedLoopWordsRaiseIllegal : Prop :=
  ∀ (k : LS) (tok : Tokens) (mk : BitVec 2) (yd ya yb : YReg) (imm : BitVec 32) (lid : BitVec 8) (payload : BitVec 52) (s : State),
    s.lsOrdered k = true →
    let loops := (s.ls k).loops
    let bad := fun (i : Instr) => exec i s = .next ((fresh s k).raise (lsStrand k) 0x01 (lsWordOf i) (s.ls k).pc)
    (4 ≤ loops.length ∨ (loopFind loops lid).isSome = true → bad (.lbeg k tok lid ya imm)) ∧
    ((∀ l ls, loops = l :: ls → l.id ≠ lid) → bad (.lend k tok lid)) ∧
    (loopFind loops lid = none → bad (.lbr k tok mk lid ya)) ∧
    (loops.length < mk.toNat → bad (.yadd k tok mk yd ya yb) ∧ bad (.ymov k tok mk yd ya) ∧ bad (.lsEnd k tok mk) ∧ bad (.lsHint k tok mk payload))

/-- R138 to R141, R205, R227: vld, pld and wload move what they read at their issue, and retire in order. -/
def Obligations.LoadDataWordsMoveTheirData : Prop :=
  ∀ (tok : Tokens) (mk : BitVec 2) (vr : BitVec 5) (r : SReg) (ya : YReg) (fmt : BitVec 4) (len : BitVec 11) (off : BitVec 21) (s : State),
    let u := fresh s .l
    let at_ := off.toNat + (s.yRead .l ya).toNat
    let d := s.desc r
    -- pld
    (let n := dataLen len s.vcap
     fmt = s.core.v.shape.fmt → s.scratchBad at_ n = none → s.poolCause vr 0 n = none → s.poolErr at_ n = none →
       LsMoves (.pld tok mk vr ya fmt len off) s ((u.poolWrite (u.vrOff vr) (u.poolBytes at_ n)).fallCount at_ n) .l ya tok mk.toNat false) ∧
    -- vld
    (∀ (toPool : Bool) ps bs,
     let n := dataLen len d.blockSize
     let nb := ceilDiv n d.blockSize
     let a := u.askBlocks r nb
     let d' := a.desc r
     let es := d'.carried ps
     let w := a.fillFor d' es
     d.active = true → d.out = false → d.fmt = fmt.toNat → (vr ≠ 31 → s.poolCause vr 0 n = none) →
     (toPool = true → s.scratchBad at_ n = none) → d.positions nb d.at_ = some ps → a.blocksHere r nb = true →
     w.readBlocks d' ps d'.ahead [] = .ok bs →
       let bytes := (bs.flatMap d'.blockBytes).take n
       let b := (w.fetchCounts d' (d'.missing nb)).setDesc r (d'.popped nb es.length)
       let b := if vr = 31 then b else b.poolWrite (b.vrOff vr) bytes
       let b := if toPool = true then (b.poolWrite at_ bytes).fallCount at_ n else b
       LsMoves (.vld tok mk vr r ya fmt toPool len off) s (b.count 0x0a nb) .l ya tok mk.toNat false) ∧
    -- wload
    (∀ (part : BitVec 2) (rows : BitVec 11) (row : BitVec 7) ps bs,
     let p := s.core.arr.shadow
     let n := wloadRows rows
     let r0 := row.toNat + (s.yRead .l ya).toNat
     let a := u.askBlocks r n
     let d' := a.desc r
     let es := d'.carried ps
     let w := a.fillFor d' es
     d.active = true → d.out = false → r0 + n ≤ (if part.toNat < 2 then 128 else 4) → wloadFits d p part.toNat fmt.toNat = true →
     (part = 0 → p.kwSet = true → p.kw.toNat = d.kwOf) → d.positions n d.at_ = some ps → a.blocksHere r n = true →
     a.shadowBusy = false → w.readBlocks d' ps d'.ahead [] = .ok bs →
       let first := part = 0 ∧ p.kwSet = false
       let p := if part = 0 then { p with kw := BitVec.ofNat 4 d'.kwOf, kwSet := true } else p
       let p := (List.range n).foldl (fun p j => p.row part.toNat (r0 + j) (bs.getD j (0, [], [])).2.1) p
       let b := (w.fetchCounts d' (d'.missing n)).setDesc r (d'.popped n es.length)
       let b := { b with core := { b.core with arr := { b.core.arr with shadow := p } } }
       let b := if first then b.setTen { b.core.ten with kw := vset b.core.ten.kw r.toNat (some d'.kwOf) } else b
       let b := if first ∧ (s.core.ten.held.elim false fun h => h.stationary r) = true then b.setTen { b.core.ten with committed := true } else b
       LsMoves (.wload tok mk r ya fmt part rows row) s (b.count 0x0a n) .l ya tok mk.toNat true)

/-- R142 to R145, R413, R415: vst and pst move, and vred posts, what they read at their issue, and retire in order. -/
def Obligations.StoreDataWordsMoveTheirData : Prop :=
  ∀ (tok : Tokens) (mk : BitVec 2) (vr : BitVec 5) (r : SReg) (ya : YReg) (fmt : BitVec 4) (len : BitVec 11) (off : BitVec 21) (s : State),
    let u := fresh s .s
    let at_ := off.toNat + (s.yRead .s ya).toNat
    let d := s.desc r
    -- pst
    (let n := dataLen len s.vcap
     s.scratchBad at_ n = none → s.poolCause vr 0 n = none → s.poolErr (s.vrOff vr) n = none →
       LsMoves (.pst tok mk vr ya len off) s ((u.poolWrite at_ (u.poolBytes (u.vrOff vr) n)).fallCount at_ n) .s ya tok mk.toNat false) ∧
    -- vst
    (∀ (rm : BitVec 2) es, PushSource u vr r at_ fmt len .wr es →
       let w := u.fillFor d (es.map (·.1))
       let src := w.poolBytes (w.poolAt vr at_) (srcBytes d fmt.toNat len)
       let conv := fun e => convert fmt.toNat (srcElem fmt.toNat src e) d.fmt (Rm.of rm)
       let v := w.fallCount (w.poolAt vr at_) (if vr = 31 then srcBytes d fmt.toNat len else 0)
       LsMoves (.vst tok mk vr r ya fmt rm len off) s ((v.pushAll r es fun e => (conv e).bits).fpCount (es.flatMap fun x => (conv x.2).ev))
         .s ya tok mk.toNat false) ∧
    -- vred
    (∀ es, PushSource u vr r at_ fmt len .rdwr es → d.fmt ∈ [0, 1, 3] →
       let w := u.fillFor d (es.map (·.1))
       let src := w.poolBytes (w.poolAt vr at_) (srcBytes d fmt.toNat len)
       let conv := fun e => convert fmt.toNat (srcElem fmt.toNat src e) d.fmt .rne
       let v := w.fallCount (w.poolAt vr at_) (if vr = 31 then srcBytes d fmt.toNat len else 0)
       w.redBad d (es.map (·.1)) = [] →
       (es.any fun x => v.inWindow (d.elemVa x.1) && v.vcStopped 2 ((v.elemPas d x.1).headD 0)) = false →
       let posted := fun (op : RedOp) =>
         let b := es.foldl (fun b x => (b.redElem d op x.1 (conv x.2).bits).fpCount (conv x.2).ev) v
         (b.setDesc r { b.desc r with pos := BitVec.ofNat 64 ((d.at_ + es.length) % 2 ^ 48) }).count 0x0a (ceilDiv es.length (d.br * d.bc))
       LsMoves (.vredAdd tok mk vr r ya fmt len off) s (posted .add) .s ya tok mk.toNat false ∧
       LsMoves (.vredMin tok mk vr r ya fmt len off) s (posted .min) .s ya tok mk.toNat false ∧
       LsMoves (.vredMax tok mk vr r ya fmt len off) s (posted .max) .s ya tok mk.toNat false)

/-- R122: the data word at the head retires, and with it, in order, the words behind it up to the next data word; each writes its y register,
gives its tokens, and sets its loops and PC as it retires. -/
def Obligations.DataWordsRetireInOrder : Prop :=
  ∀ (k : LS) (s : State) (r : Retire) (rest : List Retire), (s.ls k).pend = r :: rest →
    exec (.dataWordRetire k) s =
      .next (let b := (r :: rest.takeWhile (!·.data)).foldl (fun b r => b.lsRetire k r) s
             b.setLS k { b.ls k with pend := rest.dropWhile (!·.data) }) ∧
    (s.Quiet → ∃ m h l, s.lsRetire k r =
      (let x := s.ls k
       let b := s.setLS k { x with
         regs := fileAfter x.regs r.y, pc := (r.next.elim x.pc (·.2)), ended := x.ended || r.ends,
         loops := if r.ends = true then [] else r.next.elim x.loops (·.1) }
       let tok := s.core.q.tok
       let give := fun (t : Vector Fifo 8) (on : Bool) (i : Nat) =>
         let x := vget t i ⟨0, 0, 0⟩
         if on = true then vset t i { x with occ := x.occ + 1, res := x.res - 1 } else t
       { b with
         core := { b.core with
           q := { s.core.q with tok := give (give tok r.tok.pushP (fifoTo (lsStrand k) false)) r.tok.pushN (fifoTo (lsStrand k) true) },
           perf := (s.core.perf.add (lsEvent k) 1).1, units := unitCount s.core.units (lsEvent k) 1,
           dbg := { s.core.dbg with irqLines := l }, trap := { s.core.trap with dog := 0, moved := 15 } },
         pkg := { s.pkg with msi := m, heldMsi := h } }))

namespace Sys2Proof.Claims

open Sys2Proof.Machine

/-- V may issue `b`: it is not halted, ended or draining, no cut is due, its symbol is used, the ticks up to its issue tick are taken, its T
slot and tokens can be met, nothing of it raises a cause, and `u` is the machine at the end of its issue tick (R25, R26, R124, R39). -/
def VMay (s : State) (b : Bundle) (u : State) : Prop :=
  let v := s.core.v
  let s1 := if b.cut = true ∧ v.atCut = false ∧ v.lookYield = true then
      (s.setCtx { s.core.ctx with yield_ := none }).setV { v with lookYield := false } else s
  v.halted = false ∧ v.ended = false ∧ v.drain = false ∧ (b.cut = true → v.atCut = true ∨ v.look = false) ∧
  (b.k = 0 ∨ (s.sym b.sym).isUsed = true) ∧
  ∃ w, s1.vAdvance (s.issueTick b - 1 - s.core.csr.tick.toNat) = (w, true) ∧
    w.tReady b.t = true ∧ w.tokReady .v b.tok = true ∧ w.tOk b.t = true ∧
    (w.guardOn b = true → w.mswapHeld b = false ∧ w.slotCause b = none) ∧ w.vTick = .took u

/-- The bundle that a T operation alone stands for. -/
def tAlone (op : TOp) : Bundle := { Bundle.bare with t := op }
/-- The bundle that an M operation alone stands for. -/
def mAlone (op : MOp) : Bundle := { Bundle.bare with m := op }
/-- The bundle that an A or B slot alone stands for. -/
def abAlone (ln : Lane) (x : ABSlot) : Bundle := match ln with | .a => { Bundle.bare with a := x } | .b => { Bundle.bare with b := x }

/-- The A and B slot instructions and the slots they stand for (R83, R213 to R224, R239). -/
def abInstrs (ln : Lane) (d a b c : OpCode) (mode rm : BitVec 2) (n fo : BitVec 5) (imm : BitVec 15) (row : BitVec 10) (col : BitVec 12)
    (on : Bool) : List (Instr × ABSlot) := [
  (.vadd ln d a b mode, ⟨.vadd, d, a, b, 0, mode⟩), (.vsub ln d a b mode, ⟨.vsub, d, a, b, 0, mode⟩),
  (.vmul ln d a b mode, ⟨.vmul, d, a, b, 0, mode⟩), (.vfma ln d a b c mode, ⟨.vfma, d, a, b, c, mode⟩),
  (.vfms ln d a b c mode, ⟨.vfms, d, a, b, c, mode⟩), (.vmin ln d a b mode, ⟨.vmin, d, a, b, 0, mode⟩),
  (.vmax ln d a b mode, ⟨.vmax, d, a, b, 0, mode⟩), (.vclamp ln d a b c mode, ⟨.vclamp, d, a, b, c, mode⟩),
  (.vabs ln d a mode, ⟨.vabs, d, a, 0, 0, mode⟩), (.vneg ln d a mode, ⟨.vneg, d, a, 0, 0, mode⟩),
  (.vand ln d a b, ⟨.vand, d, a, b, 0, 0⟩), (.vor ln d a b, ⟨.vor, d, a, b, 0, 0⟩), (.vxor ln d a b, ⟨.vxor, d, a, b, 0, 0⟩),
  (.vnot ln d a, ⟨.vnot, d, a, 0, 0, 0⟩), (.vshl ln d a b n on, ⟨.vshl, d, a, b, n, if on = true then 1 else 0⟩),
  (.vshr ln d a b n on, ⟨.vshr, d, a, b, n, if on = true then 1 else 0⟩), (.vsra ln d a b n on, ⟨.vsra, d, a, b, n, if on = true then 1 else 0⟩),
  (.vcmp ln d a b n mode, ⟨.vcmp, d, a, b, n, mode⟩), (.vsel ln d a b c, ⟨.vsel, d, a, b, c, 0⟩), (.vmov ln d a, ⟨.vmov, d, a, 0, 0, 0⟩),
  (.vimm ln d imm mode, ⟨.vimm, d, imm.extractLsb' 10 5, imm.extractLsb' 5 5, imm.extractLsb' 0 5, mode⟩),
  (.vbrow ln d a row, ⟨.vbrow, d, a, row.extractLsb' 5 5, row.extractLsb' 0 5, 0⟩),
  (.vbcol ln d a col, ⟨.vbcol, d, a, col.extractLsb' 5 5, col.extractLsb' 0 5, col.extractLsb' 10 2⟩),
  (.vidx ln d n mode, ⟨.vidx, d, 0, 0, n, mode⟩), (.vperm ln d a b mode, ⟨.vperm, d, a, b, 0, mode⟩), (.vtr ln d a, ⟨.vtr, d, a, 0, 0, 0⟩),
  (.vrsum ln d a mode, ⟨.vrsum, d, a, 0, 0, mode⟩), (.vcsum ln d a mode, ⟨.vcsum, d, a, 0, 0, mode⟩),
  (.vrmax ln d a mode, ⟨.vrmax, d, a, 0, 0, mode⟩), (.vcmax ln d a mode, ⟨.vcmax, d, a, 0, 0, mode⟩),
  (.vcvt ln d a on fo rm, ⟨.vcvt, d, a, if on = true then 1 else 0, fo, rm⟩), (.vscl ln d a b on rm, ⟨.vscl, d, a, b, if on = true then 1 else 0, rm⟩),
  (.vpack ln d a n, ⟨.vpack, d, a, 0, n, 0⟩), (.vunpk ln d a n, ⟨.vunpk, d, a, 0, n, 0⟩)]

/-- The special functions, of slot B alone (R239). -/
def sfInstrs (d a : OpCode) (rm : BitVec 2) : List (Instr × ABSlot) := [
  (.vexp d a rm, ⟨.vexp, d, a, 0, 0, rm⟩), (.vexp2 d a rm, ⟨.vexp2, d, a, 0, 0, rm⟩), (.vlog d a rm, ⟨.vlog, d, a, 0, 0, rm⟩),
  (.vlog2 d a rm, ⟨.vlog2, d, a, 0, 0, rm⟩), (.vrcp d a rm, ⟨.vrcp, d, a, 0, 0, rm⟩), (.vrsqrt d a rm, ⟨.vrsqrt, d, a, 0, 0, rm⟩),
  (.vsqrt d a rm, ⟨.vsqrt, d, a, 0, 0, rm⟩), (.vtanh d a rm, ⟨.vtanh, d, a, 0, 0, rm⟩), (.vsig d a rm, ⟨.vsig, d, a, 0, 0, rm⟩),
  (.vsin d a rm, ⟨.vsin, d, a, 0, 0, rm⟩), (.vcos d a rm, ⟨.vcos, d, a, 0, 0, rm⟩), (.verf d a rm, ⟨.verf, d, a, 0, 0, rm⟩)]

/-- The T slot of a bundle has had its effect: V's PC, y file, predicates and loop levels, and the queues. -/
def TShows (u t : State) (tick : Nat) (srcs : List YReg) (pc : Word64) (y : Option (YReg × Word32)) (pred : BitVec 8) (loops : List Loop)
    (q : Queues → Queues) : Prop :=
  t.core.v.pc = pc ∧ t.core.v.regs = fileAfter u.core.v.regs y ∧ t.core.v.pred = pred ∧ t.core.v.loops = loops ∧
  t.core.v.halted = u.core.v.halted ∧ t.core.v.tPrev = tick ∧ t.core.v.seq = u.core.v.seq + 1 ∧
  t.core.v.hi = (if 12 ∈ srcs then (u.core.q.qcv.headD 0).extractLsb' 32 32 else u.core.v.hi) ∧
  t.core.q = q { u.core.q with qcv := if 12 ∈ srcs then u.core.q.qcv.tail else u.core.q.qcv } ∧
  t.core.c.regs = u.core.c.regs ∧ t.core.l = u.core.l ∧ t.core.s = u.core.s ∧ t.core.pool = u.core.pool

end Sys2Proof.Claims

/-- R25, R57, R123, R124: a bundle that V may issue issues at T(n), its four slots as one; a slot instruction is the bundle line that names only
it. -/
def Obligations.BundlesIssueAtTheirTick : Prop :=
  ∀ (i : Instr) (b : Bundle) (s u : State), i = .vBundleIssue b ∨ i.bundle = some b → VMay s b u →
    ∃ t, exec i s = .next t ∧ t = u.issueAt b (s.issueTick b) ∧
      t.core.v.tPrev = s.core.v.tPrev + 1 + b.c.toNat + b.k.toNat * (s.sym b.sym).bind.toNat ∧ t.core.v.seq = u.core.v.seq + 1 ∧
      t.core.v.blocked = false ∧ t.core.v.atCut = false ∧ t.core.csr.tick = u.core.csr.tick ∧ t.core.pool = u.core.pool

/-- R125, R128 to R137: what each T slot instruction does at the end of its issue tick. -/
def Obligations.TSlotsActAtTheEndOfTheTick : Prop :=
  ∀ (ya yb yd : YReg) (lid mask : BitVec 8) (imm7 : BitVec 7) (e sel src : BitVec 3) (rot q inv : Bool) (off payload : BitVec 19)
    (imm : BitVec 11) (n : BitVec 6) (s u : State),
    let pc := u.core.v.pc
    let next := pc + 16
    let pred := u.core.v.pred
    let loops := u.core.v.loops
    let y := u.yRead .v
    let same := fun (q : Queues) => q
    let t0 := s.issueTick (tAlone .empty)
    let does := fun (i : Instr) (op : TOp) (P : State → Prop) => i.bundle = some (tAlone op) ∧
      (VMay s (tAlone op) u → ∃ t, exec i s = .next t ∧ P t)
    let br := u.core.q.qbr.headD 0
    let popBr := fun (k : Queues) => if q = true then { k with qbr := k.qbr.tail } else k
    does (.tHint payload) (.hint payload) (fun t => TShows u t t0 [] next none pred loops same) ∧
    does (.ywait src n) (.ywait src n) (fun t => TShows u t t0 [] next none pred loops same) ∧
    does (.tLbeg lid ya imm7) (.lbeg lid ya imm7)
      (fun t => TShows u t t0 [ya] next none pred (⟨lid, next, none, loopCount (y ya) (imm7.setWidth 32), 0⟩ :: loops) same) ∧
    does (.tLend lid q e rot) (.lend lid q e rot) (fun t =>
      let r := loopClose (!q || br != 0) pc next 1 loops
      TShows u t t0 [] r.2.1 none (match r.2.2 with | some rem => if rot = true then rotateStages pred rem e else pred | none => pred) r.1 popBr) ∧
    does (.tLbr lid ya q inv) (.lbr lid ya q inv) (fun t =>
      let cond := (if q = true then br != 0 else y ya != 0) != inv
      TShows u t t0 (if q = true then [] else [ya]) next none pred (if cond = true then loopBreak loops lid else loops) popBr) ∧
    does (.jmp off) (.jmp off) (fun t => TShows u t t0 [] (pc + 16 * off.signExtend 64) none pred loops same) ∧
    does (.stgSet mask) (.stgSet mask) (fun t => TShows u t t0 [] next none (pred ||| mask ||| 1) loops same) ∧
    does (.stgClr mask) (.stgClr mask) (fun t => TShows u t t0 [] next none (pred &&& ~~~mask ||| 1) loops same) ∧
    does (.stgCond ya mask) (.stgCond ya mask)
      (fun t => TShows u t t0 [ya] next none (if y ya = 0 then pred &&& ~~~mask ||| 1 else pred ||| mask ||| 1) loops same) ∧
    does (.stgLoad ya mask) (.stgLoad ya mask)
      (fun t => TShows u t t0 [ya] next none (pred &&& ~~~mask ||| ((y ya).extractLsb' 0 8 &&& mask) ||| 1) loops same) ∧
    does (.tkr yd imm) (.tkr yd imm) (fun t => TShows u t t0 [] next (some (yd, BitVec.ofNat 32 t0 + imm.signExtend 32)) pred loops same) ∧
    does (.tsr ya yb) (.tsr ya yb) (fun t => TShows u t t0 [ya, yb] next none pred loops fun k => { k with qvc := k.qvc ++ [y yb ++ y ya] }) ∧
    does (.tYadd yd ya yb) (.yadd yd ya yb) (fun t => TShows u t t0 [ya, yb] next (some (yd, y ya + y yb)) pred loops same) ∧
    does (.tYaddi yd ya imm) (.yaddi yd ya imm) (fun t => TShows u t t0 [ya] next (some (yd, y ya + imm.signExtend 32)) pred loops same) ∧
    does (.tYmov yd ya) (.ymov yd ya) (fun t => TShows u t t0 [ya] next (some (yd, y ya)) pred loops same) ∧
    does (.tYrd yd sel lid) (.yrd yd sel lid) (fun t => TShows u t t0 [] next (some (yd, u.special .v sel.toNat lid)) pred loops same) ∧
    does .halt .halt (fun t => t.core.v.halted = true ∧ t.core.v.pc = pc ∧ t.core.v.regs = u.core.v.regs ∧ t.core.v.loops = [] ∧
      t.core.v.pred = pred ∧ t.core.q = u.core.q)

/-- R203, R206, R207, R213 to R224, R239: an A or B operation issued under a true guard is in flight with its operands as they were read, its
beats after its slot's earlier ones, and its landing tick; its bundle goes on to the next. -/
def Obligations.VectorSlotsStartTheirOperation : Prop :=
  ∀ (ln : Lane) (d a b c : OpCode) (mode rm : BitVec 2) (n fo : BitVec 5) (imm : BitVec 15) (row : BitVec 10) (col : BitVec 12) (on : Bool)
    (s u : State),
    ∀ e ∈ abInstrs ln d a b c mode rm n fo imm row col on ++ (if ln = .b then sfInstrs d a rm else []),
      e.1.bundle = some (abAlone ln e.2) ∧
      (VMay s (abAlone ln e.2) u →
        let tick := s.issueTick (abAlone ln e.2)
        let sh := u.core.v.shape
        let free := match ln with | .a => u.core.v.freeA | .b => u.core.v.freeB
        let aw := u.awaits ((abStreams e.2 sh.f).map (·.1)) tick
        let b0 := Nat.max (aw.foldl (fun m x => Nat.max m x.2) tick) free
        let beats := ceilDiv sh.elems (abLambda e.2 sh.f)
        ∃ t f, exec e.1 s = .next t ∧ f ∈ t.core.v.flight ∧ f.op = .ab ln e.2 ∧ f.shape = sh ∧
          f.srcs = (((abSources e.2 sh.f).map (·.1)).filter fun r => (codeStream r).isNone).eraseDups.map u.snapshot ∧ f.await = aw ∧
          f.set = true ∧ f.b0 = b0 ∧ f.beats = beats ∧ f.land = b0 + abDepth e.2 sh.f + beats - 1 ∧ f.seq = u.core.v.seq ∧ f.pc = u.core.v.pc ∧
          (match ln with | .a => t.core.v.freeA | .b => t.core.v.freeB) = b0 + beats ∧ t.core.v.pc = u.core.v.pc + 16 ∧
          t.core.q = u.core.q ∧ t.core.pool = u.core.pool)

/-- R65, R204, R231, R233, R234, R236, R238: vshape, hints and the M slot instructions. -/
def Obligations.ShapeHintAndMatrixSlotsAct : Prop :=
  ∀ (ln : Lane) (rlog clog fmt scale scr : BitVec 5) (payload : BitVec 22) (float acc : Bool) (wfmt : BitVec 4) (sparse rm : BitVec 2)
    (src d : OpCode) (rowb : BitVec 7) (fo : BitVec 3) (tile : BitVec 6) (s u : State),
    let moves := fun (t : State) => t.core.v.pc = u.core.v.pc + 16 ∧ t.core.q = u.core.q ∧ t.core.pool = u.core.pool
    let does := fun (i : Instr) (b : Bundle) (P : State → Prop) => i.bundle = some b ∧ (VMay s b u → ∃ t, exec i s = .next t ∧ moves t ∧ P t)
    does (.vshape ln rlog clog fmt) (abAlone ln ⟨.vshape, rlog, clog, fmt, 0, 0⟩) (fun t =>
      t.core.v.shape = { u.core.v.shape with rlog := rlog.setWidth 4, clog := clog.setWidth 4, fmt := fmt.setWidth 4 }) ∧
    (∃ x : ABSlot, x.op = .hint ∧ does (.abHint ln payload) (abAlone ln x) (fun t => t.core.v.shape = u.core.v.shape ∧ t.core.arr = u.core.arr)) ∧
    does .mnop (mAlone .mnop) (fun t => t.core.v.shape = u.core.v.shape ∧ t.core.arr = u.core.arr) ∧
    does (.mcfg float wfmt sparse) (mAlone (.mcfg float wfmt sparse)) (fun t =>
      t.core.arr = { u.core.arr with shadow := { u.core.arr.shadow with float := float, wfmt := wfmt, sparse := sparse } }) ∧
    does .mswap (mAlone .mswap) (fun t =>
      t.core.arr = { u.core.arr with active := u.core.arr.shadow, shadow := { u.core.arr.active with wrote := false, kwSet := false } }) ∧
    (∀ e ∈ [(Instr.mmac acc src rowb, MOp.mmac acc src rowb), (.mmacs acc src rowb scr, .mmacs acc src rowb scr), (.mclr acc float, .mclr acc float),
        (.mdrain acc scale d fo rm tile, .mdrain acc scale d fo rm tile)],
      does e.1 (mAlone e.2) (fun t => t.core.arr = u.core.arr ∧ ∃ f ∈ t.core.v.flight, f.op = .m e.2 ∧ f.shape = u.core.v.shape ∧
        f.srcs = (mRegs e.2).eraseDups.map u.snapshot ∧ f.seq = u.core.v.seq ∧ f.pc = u.core.v.pc))

namespace Sys2Proof.Claims

open Sys2Proof.Machine

/-- The causes that a failed fetch raises and that are traps at once: 0x16 of L, V and S, no permission, guard row, poison. -/
def fetchCauses : List (BitVec 8) := [0x16, 0x0b, 0x0a, 0x13]

/-- The fault `f` of a stopped unit is C's: `k` is the core with it marked delivered. The trap has the fault's cause and TVAL, and PEND bit 22 says
whether another unit waits (R40). -/
def UnitGiven (s : State) (f : UnitFault) (k : Core) (t : State) : Prop :=
  let b := ({ s with core := k }).endMwait 4
  ∃ v, TrapTaken b v .c f.cause 0 f.tval b.core.c.pc ∧
    t = v.setTrap { v.core.trap with pend := if v.core.nextUnitFault.isSome then v.core.trap.pend ||| 0x40 else v.core.trap.pend &&& 0x3f }

/-- V and the ephemeris alone have moved: what no tick of V changes stands. -/
def StrandsKept (s t : State) : Prop := t.core.strands = s.core.strands

/-- A cut that finds nothing to do but stand: no rebinding asked, no leave, stop or yield due, no new code, no replay. -/
def CutIdle (s : State) : Prop :=
  (∀ i, (s.sym i).mon.req = none) ∧ s.core.dbg.stopReq = false ∧ s.bpHit = false ∧ s.core.ctx.leave = none ∧ s.core.ctx.yield_ = none ∧
  s.core.ctx.newCode = false ∧ s.core.v.lookDue = false ∧ (s.part s.myPart).repMode = 0

end Sys2Proof.Claims

/-- R30, R32, R38, R45, R64: a unit that is no instruction traps with cause 0x01 and its word; a failed fetch traps with its cause, TFPC the
strand's PC; cause 0x06 of C holds C and waits for its freeze (R31); a remote fetch of C that fails takes cause 0x15, and one of L, V or S, of which
R36 lists it not, raises it on C's behalf and its unit waits unissued (log 68, DESIGN CHOICE). An mwait in which C sleeps returns 4 before any of
these traps (log 75, DESIGN CHOICE). -/
def Sys2Proof.Claims.BadUnitsTrap : Prop :=
  ∀ (k : Strand) (word tval : Word64) (s : State), s.sup = false → s.core.trap.wait = none →
    let b := s.endMwait 4
    (∃ t, exec (.unassignedEncoding k word) s = .next t ∧ TrapTaken b t k 0x01 (s.pcOf k) word b.core.c.pc) ∧
    (∀ cause ∈ fetchCauses, s.forwards cause = false →
      ∃ t, exec (.instructionFetchFault k cause tval) s = .next t ∧ TrapTaken b t k cause (s.pcOf k) tval b.core.c.pc) ∧
    (s.forwards 0x06 = false →
      ∃ t, exec (.instructionFetchFault .c 0x06 tval) s = .next t ∧
        t = { s with core := { s.core with
          c := { s.core.c with blocked := true },
          trap := { s.core.trap with wait := some ⟨0x06, .c, s.core.c.pc, tval, 0, none, false, false⟩ } } }) ∧
    (s.asyncNow = true →
      ∃ t, exec (.instructionFetchFault .c 0x15 tval) s = .next t ∧ TrapTaken s.reqOver t .c 0x15 s.core.c.pc tval s.core.c.pc) ∧
    (s.asyncNow = false → exec (.instructionFetchFault .c 0x15 tval) s = .next (s.reqOver.setPend 5 tval)) ∧
    (k ≠ .c → exec (.instructionFetchFault k 0x15 tval) s = .next ((s.reqOver.async 5 tval).hold k))

/-- R31, R39, R40, R44: the lowest pending cause is taken in task mode, after a mwait in progress returns 4, with the TVAL it kept; a freeze waited
for takes its trap when the other strands are stuck or 2^16 cycles have passed, an mwait of C returning 4 first (log 75, DESIGN CHOICE); PEND bit 22 is
taken with the first stopped unit's cause and TVAL and stays set while another waits, and a completion store's 0x07 waits for its freeze with
bit 22 set; the watchdog raises cause 0x11 with the occupancies. -/
def Sys2Proof.Claims.WaitingCausesAreTaken : Prop :=
  ∀ s : State,
    (s.asyncNow = true → ∀ bit, lowestPend s.core.trap.pend = some bit → bit < 6 →
      let b := (s.setTrap { s.core.trap with pend := s.core.trap.pend &&& ~~~(1#7 <<< bit) }).endMwait 4
      ∃ t, exec .takePendingTrap s = .next t ∧ TrapTaken b t .c (pendCause bit) 0 (vget s.core.trap.kept bit 0) b.core.c.pc) ∧
    (∀ w, s.core.trap.wait = some w → w.frozen = false →
      (w.seq = none →
        let b := s.endMwait 4
        (w.unit = false →
          (s.othersStuck w.strand = true →
            ∃ t, exec .freezeWaitDone s = .next t ∧ TrapTaken b t w.strand w.cause w.tfpc w.tval b.core.c.pc) ∧
          (2 ^ 16 ≤ w.cycles → ∃ t, exec .freezeWaitTimeout s = .next t ∧ TrapTaken b t w.strand w.cause w.tfpc w.tval b.core.c.pc)) ∧
        (w.unit = true →
          let u := s.setTrap { s.core.trap with wait := none }
          ∀ f k, u.core.nextUnitFault = some (f, k) →
            (s.othersStuck w.strand = true → ∃ t, exec .freezeWaitDone s = .next t ∧ UnitGiven u f k t) ∧
            (2 ^ 16 ≤ w.cycles → ∃ t, exec .freezeWaitTimeout s = .next t ∧ UnitGiven u f k t))) ∧
      (∀ n, w.seq = some n → s.othersStuck w.strand = true →
        exec .freezeWaitDone s = .next (s.setTrap { s.core.trap with wait := some { w with frozen := true } }))) ∧
    (s.asyncNow = true → lowestPend s.core.trap.pend = some 6 → ∀ f k, s.core.nextUnitFault = some (f, k) →
      (f.cause ≠ 0x07 → ∃ t, exec .takePendingTrap s = .next t ∧ UnitGiven s f k t) ∧
      (f.cause = 0x07 →
        let b := s.endMwait 4
        exec .takePendingTrap s = .next (b.setTrap { b.core.trap with
          wait := some ⟨0x07, .c, 0, f.tval, 0, none, false, true⟩, pend := b.core.trap.pend ||| 0x40 }))) ∧
    (s.asyncNow = true → 2 ^ 20 < s.core.trap.dog →
      let b := s.endMwait 4
      ∃ t, exec .deadlockWatchdog s = .next t ∧ TrapTaken b t .c 0x11 0 s.occupancies b.core.c.pc)

/-- R63, R124, R206, R208, R247, R248: while V issues nothing, ticks pass to the next landing or consumption with the strands' own state kept, and the
count of ticks goes on by each; a stretch ends when its block is complete, by the waiting bundle where V stands before one; a held bundle is
looked at again and does what its issue does (V_HOLD_RELEASE: log 49, DEDUCED). -/
def Obligations.VMovesBetweenIssues : Prop :=
  ∀ s : State,
    (s.vMoves = true →
      (∀ e ∈ [(Instr.vWriteLands, true), (.streamConsume, false)], (s.vAdvance (s.ticksTo e.2)).2 = true → s.vNow + s.ticksTo e.2 < 2 ^ 64 →
        ∃ t, exec e.1 s = .next t ∧ StrandsKept s t ∧ t.vNow = s.vNow + s.ticksTo e.2) ∧
      (∀ r u, s.core.v.stretch = some r → (s.desc r).late = false → s.core.v.drain = true ∨ s.core.v.halted = true → s.vTick = .took u →
        s.vNow + 1 < 2 ^ 64 →
        ∃ t, exec .stretchEnd s = .next t ∧ StrandsKept s t ∧ t.vNow = s.vNow + 1 ∧ t.core.v.stretch = none)) ∧
    (∀ u i b, s.vTurn = true → s.fetch .v = (u, some i) → i.bundle = some b →
      exec i u = .next (u.issueBundle b) ∧
      (s.core.v.blocked = true → s.core.v.stretch = none → exec .vHoldRelease s = .next (u.issueBundle b)) ∧
      (∀ r, s.core.v.stretch = some r → (s.desc r).late = false → s.core.v.drain = false → s.core.v.halted = false →
        exec .stretchEnd s = .next (u.issueBundle b)))

/-- R26, R248, R249, R253: a drained V reaches its cut: LASTDRAIN is the drain's ticks, at most 255; V stands at the cut; a cut with nothing
asked of it changes nothing else but the demand that waits for it (R156, R241, R269; log 35, DEDUCED). -/
def Sys2Proof.Claims.TheConsistentCutIsReached : Prop :=
  ∀ s : State, s.core.v.drain = true → s.vMoves = true → s.core.v.flight = [] →
    let b := s.atBoundary
    CutIdle b →
    ∃ t, exec .consistentCut s = .next t ∧
      t = State.demandAtCut ((b.setCsr { b.core.csr with
            stretch := BitVec.ofNat 8 (Nat.min b.core.v.drained 255) ++ b.core.csr.stretch.extractLsb' 0 56 }).setV
          { b.core.v with
            drain := false, drained := 0, look := false, lookYield := false, lookDue := false, atCut := true, freeA := 0, freeB := 0, freeM := 0,
            accFree := Vector.replicate 2 0 })

/-- R249, R251: at a cut, out of replay and with its trap not enabled, each symbol asked for a rebinding is bound to the value asked and its
counts start again; the others stand; RETIME holds the record of the highest symbol changed. -/
def Sys2Proof.Claims.ACutRebindsWhatWasAsked : Prop :=
  ∀ s : State, (s.part s.myPart).repMode = 0 → s.core.csr.trapen.getLsbD 1 = false →
    (∀ i, (s.rebind.sym i).bind = (match (s.sym i).mon.req with | some r => r.1 | none => (s.sym i).bind)) ∧
    (∀ i, (s.rebind.sym i).mon.req = none) ∧
    (∀ i v p, (s.sym i).mon.req = some (v, p) → v ≠ (s.sym i).bind → (s.rebind.sym i).mon.a = 0 ∧ (s.rebind.sym i).mon.b = 0) ∧
    (∀ i v p, (s.sym i).mon.req = some (v, p) → v ≠ (s.sym i).bind →
      (∀ j, i < j → ∀ v' p', (s.sym j).mon.req = some (v', p') → v' = (s.sym j).bind) →
      s.rebind.core.csr.retime.extractLsb' 0 3 = i ∧ s.rebind.core.csr.retime.extractLsb' 4 6 = (s.sym i).bind ∧
        s.rebind.core.csr.retime.extractLsb' 10 6 = v ∧ s.rebind.core.csr.retime.extractLsb' 24 40 = s.core.csr.tick.extractLsb' 0 40)

/-- R243, R244, R246: a sample of a source is counted in ticks and taken by each symbol that names the source, within its upper bound; the other
symbols stand; one beyond the bound counts in BOUNDX and marks its symbol there. LATENCY_SAMPLE is a sample that comes from outside (log 65, DESIGN
CHOICE). -/
def Sys2Proof.Claims.SymbolsTakeTheirSamples : Prop :=
  ∀ (src : BitVec 4) (n : Nat) (s : State), s.stepOn = true → src ≠ 0 →
    let x := s.sampleTicks (n + s.injected src) s.core.ctx.live
    let quiet := (s.part s.myPart).repMode == 2
    ((∀ i, (s.sym i).src = src → x ≤ (s.sym i).hi.toNat) →
      ∃ t, exec (.latencySample src n) s = .next t ∧ t.core.csr = { s.core.csr with sym := t.core.csr.sym } ∧ t.core.trap = s.core.trap ∧
        ∀ i, t.sym i = if (s.sym i).src = src then { s.sym i with mon := (s.sym i).sampled x quiet } else s.sym i) ∧
    (∀ i, (∀ j, (s.sym j).src = src ↔ j = i) → (s.sym i).hi.toNat < x → s.core.csr.trapen.getLsbD 0 = false →
      ∃ t, exec (.latencySample src n) s = .next t ∧ t.sym i = { s.sym i with mon := (s.sym i).sampled x quiet } ∧
        t.core.csr.boundx.getLsbD i.toNat = true ∧
        t.core.csr.boundx.extractLsb' 16 32 = satAdd (s.core.csr.boundx.extractLsb' 16 32) 1)

namespace Sys2Proof.Claims

open Sys2Proof.Machine

/-- The bytes `bs` stand at `pa` and after, the last of two that share an address; every other byte of memory is as it was. -/
def Wrote (s t : State) (pa : Nat) (bs : List Byte) : Prop :=
  (∀ a, (∀ i < bs.length, s.norm (pa + i) ≠ s.norm a) → t.rd8 a = s.rd8 a) ∧
  (∀ i < bs.length, (∀ j < bs.length, i < j → s.norm (pa + j) ≠ s.norm (pa + i)) → t.rd8 (pa + i) = bs.getD i 0)

/-- No byte of an access stands in a poisoned line. -/
def Unpoisoned (s : State) (pa n : Nat) : Prop := ∀ i < n, s.poisoned (pa + i) = false

/-- A write from outside the core at HBM4E or host memory takes place: no page of it is in a flip, no lease on a line of it is live, no guard row
holds a byte of it, and no slice or die on its way is held in reset. -/
def Reaches (s : State) (pa n : Nat) : Prop :=
  ∀ i < n, s.hostSees (pa + i) = true ∧ s.inFlip (pa + i) = false ∧ s.leased (pa + i) = false ∧ s.guardRow (pa + i) = false ∧
    s.homeOff (pa + i) = false

/-- The machine as a write of these bytes finds it: the near-bank row steps that have read some of them are over (R315). -/
def ahead (s : State) (pa n : Nat) : State := s.rmwFirst (span pa n)
/-- No near-bank row step stands between its read and its write. -/
def NoRowStep (s : State) : Prop := ∀ g ∈ s.core.nb.writes, g.rmw = false

/-- No partition records or replays. -/
def Plain (s : State) : Prop := ∀ p, (s.part p).repMode = 0

/-- Nothing but memory, the bookkeeping of the hierarchy and C's line watch and store has changed, and the interrupts a record may send. -/
def MemoryOnly (s t : State) : Prop :=
  t.core.c.regs = s.core.c.regs ∧ t.core.c.pc = s.core.c.pc ∧ t.core.l = s.core.l ∧ t.core.v = s.core.v ∧ t.core.s = s.core.s ∧
  t.core.q = s.core.q ∧ t.core.pool = s.core.pool ∧ t.core.trap = s.core.trap

/-- The element left to an engine: the command its range checker picks, with one element to go and no fault (R159, R188). -/
def LastElement (s : State) (e : Eng) (i : Nat) (c : Cmd) : Prop :=
  s.engPick e = some i ∧ (s.cmds e)[i]? = some c ∧ c.len = c.pos + 1 ∧ c.written = false ∧ c.fault = none

/-- The engine's command with its element moved, in an engine of the core. -/
def movedOn (c : Cmd) : Cmd := { c with started := true, pos := c.pos + 1, written := true }

end Sys2Proof.Claims

/-- R308, R310, R321, R338, R422: C's retired store, a store that waited for a lease, and a write of the host or of an Ethernet port to
unpoisoned lines each write exactly their bytes, C's in place of leases that other agents hold on its line (log 22, DEDUCED); a write of a port is
reported complete; an access to an address that neither HBM4E nor host memory holds faults (log 1, DESIGN CHOICE). -/
def Obligations.OutsideAndStoredBytesLand : Prop :=
  ∀ s : State, s.Inv →
    (∀ st, s.core.c.store = some st → Unpoisoned s st.pa st.bytes.length →
      (∃ t, exec .cStoreEvent s = .next t ∧ Wrote (ahead s st.pa st.bytes.length) t st.pa st.bytes ∧ t.core.c.store = none ∧ MemoryOnly s t) ∧
      (∃ t, exec (.leaseLapse (lineOf (s.norm st.pa))) s = .next t ∧ Wrote (ahead s st.pa st.bytes.length) t st.pa st.bytes ∧
        t.core.c.store = none ∧ MemoryOnly s t ∧ ∀ x ∈ t.mem.leases, x.line ≠ lineOf (s.norm st.pa))) ∧
    (∀ (pa : Nat) (bs : List Byte), Reaches s pa bs.length → Unpoisoned s pa bs.length → NoRowStep s →
      Plain s →
      (∃ t, exec (.hostWrite pa bs) s = .next t ∧ Wrote s t pa bs ∧ MemoryOnly s t) ∧
      (∃ t, exec (.ethRdmaWriteIn pa bs) s = .next t ∧ Wrote s t pa bs ∧ MemoryOnly s t ∧
        t.pkg.rdmaDone = (pa, bs.length) :: s.pkg.rdmaDone)) ∧
    (∀ (pa : Nat) (bs : List Byte) (i : Nat), i < bs.length → s.hostSees (pa + i) = false →
      exec (.hostWrite pa bs) s = .fault .noSuchAddress ∧ exec (.ethRdmaWriteIn pa bs) s = .fault .noSuchAddress ∧
      exec (.hostRead pa bs.length) s = .fault .noSuchAddress ∧ exec (.ethRdmaReadOut pa bs.length) s = .fault .noSuchAddress)

/-- R319, R321, R330, R338, R412: a read of the host or of an Ethernet port is answered with the bytes at the memory-side cache, with the poison
mark when a line of it is poisoned, with an error at a guard row; a new request of another package is applied once, answered, and its answer
kept under its tag, from which a repetition is answered, an error too; a read is granted a lease on each line in device bias. -/
def Obligations.OutsideReadsAreAnswered : Prop :=
  ∀ s : State,
    (∀ (pa n : Nat), Plain s → (∀ i < n, s.hostSees (pa + i) = true ∧ s.inFlip (pa + i) = false ∧ s.homeOff (pa + i) = false) →
      ∀ e ∈ [Instr.hostRead pa n, .ethRdmaReadOut pa n],
        ((∀ i < n, s.guardRow (pa + i) = false) →
          ∃ t code, exec e s = .next t ∧ t.mem.answers = ((List.range n).map (fun i => s.mscByte (pa + i)), code) :: s.mem.answers ∧
            t.mem.cells = s.mem.cells ∧ t.mem.stale = s.mem.stale ∧ t.core = s.core ∧
            (code = 1 ↔ ∃ i < n, s.poisoned (pa + i) = true) ∧ code ≤ 1) ∧
        ((∃ i < n, s.guardRow (pa + i) = true) → exec e s = .next (s.setMem { s.mem with answers := ([], 2) :: s.mem.answers }))) ∧
    (∀ (pkg tag pa n : Nat), s.pkg.domEn = true →
      let who : BitVec 8 := BitVec.ofNat 8 pkg
      ((∀ a ∈ s.pkg.answered, a.pkg = who → a.tag ≠ tag) →
        (Plain s → s.vcStopped 1 pa = false →
          (∀ i < n, s.region (pa + i) = .hbm ∧ s.guardRow (pa + i) = false ∧ s.inFlip (pa + i) = false ∧ s.poisoned (pa + i) = false ∧
            s.homeOff (pa + i) = false) →
          (let got := (List.range n).map fun i => s.rd8 (pa + i)
           ∃ t, exec (.remoteRequestAtHome pkg tag pa none none n) s = .next t ∧ t.mem.cells = s.mem.cells ∧ MemoryOnly s t ∧
             t.mem.answers = (got, 0) :: s.mem.answers ∧ t.pkg.answered = ⟨who, tag, got, 0, s.tstamp⟩ :: s.pkg.answered ∧
             ∀ i < n, s.hostBias (pa + i) = false → s.writeWaits (lineOf (s.norm (pa + i))) = false →
               ∃ x ∈ t.mem.leases, x.line = lineOf (s.norm (pa + i)) ∧ x.until_ = s.tstamp + 512) ∧
          (∀ (bs : List Byte), bs.length = n → s.Inv → (∀ i < n, s.leased (pa + i) = false) →
            ∃ t, exec (.remoteRequestAtHome pkg tag pa none (some bs) n) s = .next t ∧ Wrote (ahead s pa n) t pa bs ∧ MemoryOnly s t ∧
              t.pkg.answered = ⟨who, tag, [], 0, s.tstamp⟩ :: s.pkg.answered)) ∧
        ((∃ i < n, s.region (pa + i) ≠ .hbm ∨ s.guardRow (pa + i) = true) →
          exec (.remoteRequestAtHome pkg tag pa none none n) s =
            .next { s with mem := { s.mem with answers := ([], 2) :: s.mem.answers },
                           pkg := { s.pkg with answered := ⟨who, tag, [], 2, s.tstamp⟩ :: s.pkg.answered } })) ∧
      (∀ op wr a, (s.pkg.answered.find? fun a => a.pkg == who && a.tag == tag) = some a →
        exec (.remoteRequestAtHome pkg tag pa op wr n) s = .next (s.setMem { s.mem with answers := (a.data, a.code) :: s.mem.answers })))

/-- R297, R307, R320, R322, R330 to R332: an evicted line leaves the L2, a watch on it is lost, and it is poisoned when it was dirty and found bad;
a flip of a page's bias begins, and the bias changes with its event; the trackers of every stack are cleared once their 32 ms are over, and not
before (R336); no event of the core's is counted (R376). -/
def Obligations.LinesAndPagesChangeHands : Prop :=
  ∀ s : State,
    (∀ (line : Nat) (bad : Bool) (x : L2Line), (s.mem.l2.find? fun y => y.line == line) = some x → x.dirty = true →
      (bad = true → s.ownerOf (line * 128) = none) →
      ∃ t, exec (.dirtyEviction line bad) s = .next t ∧ t.mem.l2 = s.mem.l2.filter (fun y => y.line != line) ∧ t.core.c.watch ≠ .armed line ∧
        (s.core.c.watch = .armed line → t.core.c.watch = .lost line) ∧ t.core.c.regs = s.core.c.regs ∧ t.mem.cells = s.mem.cells ∧ t.core.perf = s.core.perf ∧
        (bad = false → t.mem.poison = s.mem.poison) ∧ (bad = true → line ∈ t.mem.poison)) ∧
    (∀ page : Nat, (∀ f ∈ s.mem.flips, f.1 ≠ page) →
      (page ∈ s.mem.hostBias →
        let u := s.flushStore
        exec (.biasFlip page false) s = .next (u.setMem { u.mem with flips := u.mem.flips ++ [(page, false, u.tstamp)] })) ∧
      (page ∉ s.mem.hostBias → s.nbNames page = true → exec (.biasFlip page true) s = .next (s.again (.event (.biasFlip page true)))) ∧
      (page ∉ s.mem.hostBias → s.nbNames page = false → s.core.c.store = none → s.core.eng.copy = [] →
        (∀ w ∈ s.core.nb.writes, w.pa / 65536 ≠ page) →
        ∃ t, exec (.biasFlip page true) s = .next t ∧ t.mem.flips = s.mem.flips ++ [(page, true, s.tstamp)] ∧ (∀ a, t.rd8 a = s.rd8 a) ∧
          (∀ x ∈ t.mem.l2, x.line / 512 ≠ page) ∧ (∀ x ∈ t.mem.leases, x.line / 512 ≠ page) ∧ MemoryOnly s t)) ∧
    (∀ (page since : Nat) (toHost : Bool), (s.mem.flips.find? fun f => f.1 == page) = some (page, toHost, since) →
      ∃ t, exec (.biasFlipEvent page) s = .next t ∧ (∀ f ∈ t.mem.flips, f.1 ≠ page) ∧ (page ∈ t.mem.hostBias ↔ toHost = true) ∧
        (∀ q, q ≠ page → (q ∈ t.mem.hostBias ↔ q ∈ s.mem.hostBias)) ∧ t.core = s.core ∧ t.mem.cells = s.mem.cells) ∧
    (s.tstamp < s.pkg.clearAt → exec .trackerClear s = .next s) ∧
    (s.pkg.clearAt ≤ s.tstamp → ∃ t, exec .trackerClear s = .next t ∧ (∀ x ∈ t.pkg.hbm, x.track = []) ∧
      t.pkg.clearAt = s.pkg.clearAt + 32000000 ∧ t.core = s.core ∧ t.mem = s.mem)

/-- R159, R188, R199: an engine starts the command that its range checker lets start and moves its elements; a command of length 0 is written at
once, and published but for the cycles that chxdbg injects into it (R244); the last byte of cp.mp goes from memory to the pool, and that of cp.pm
from the pool to the command's shadow, whose line pins a way of its set in the L2 (R314). -/
def Sys2Proof.Claims.EnginesMoveTheirElements : Prop :=
  ∀ (s : State) (e : Eng) (i : Nat) (c : Cmd),
    (s.engPick e = some i → (s.cmds e)[i]? = some c → c.len = 0 → c.fault = none →
      let goes := c.extra == 0 || c.defer
      let u := if goes = true ∧ c.toMem = true then s.copySample c else s
      exec (.engineCommandStart e) s =
        .next (u.setCmds e ((s.cmds e).set i { c with
          started := true, written := true, published := c.published || goes || !c.toMem, fin := s.natural c true })).reap) ∧
    (LastElement s e i c →
      let w := (s.setCmds e ((s.cmds e).set i { c with started := true })).fillTlb s.core.ctx.part s.core.ctx.vf (c.a + BitVec.ofNat 64 c.pos)
      let x := (s.setCmds e ((s.cmds e).set i { c with started := true })).fillTlb s.core.ctx.part s.core.ctx.vf (c.b + BitVec.ofNat 64 c.pos)
      (∀ pa, c.kind = .mp → w.vaBytes w.whoT (c.a + BitVec.ofNat 64 c.pos) 1 .rd false 1 = .ok [pa] → s.poolHeld e = false →
        exec (.engineCommandStart e) s =
          .next (((((w.orderLines 1 false [pa]).poolWrite (poolOff c.b + c.pos) [w.rd8 pa]).setCmds e
            ((s.cmds e).set i { movedOn c with fin := s.natural c true })).engCounts c (c.pos + 1)).reap)) ∧
      (∀ pa, c.kind = .pm → s.poolBad (poolOff c.a + c.pos) 1 = none →
        x.vaBytes x.whoT (c.b + BitVec.ofNat 64 c.pos) 1 .wr (!c.done && !c.defer) 1 = .ok [pa] → x.shadowFits pa = true →
        exec (.engineCommandStart e) s =
          .next (((x.setCmds e ((s.cmds e).set i { movedOn c with
            shadow := kset c.shadow pa ((s.poolBytes (poolOff c.a + c.pos) 1).getD 0 0) })).l2Trim (l2Key (lineOf (x.norm pa))) true).engCounts
              c (c.pos + 1)).reap))

/-- R188 to R192: a written command publishes its shadow in one event when every earlier one has; a pub publishes all that are earlier; an ecw
stores its value when the earlier commands have left; a finished command's entry enters the completion queue; what is injected into a command
(R244, R273) holds its publish back. -/
def Sys2Proof.Claims.EnginesPublishAndComplete : Prop :=
  ∀ (s : State) (c : Cmd),
    (s.core.eng.nextPublish = some c → (s.mayPublish fun d => d.seq == c.seq) = true →
      ((∀ d ∈ s.core.eng.copy, d.seq = c.seq → s.cmdDue d = true) → exec .enginePublish s = .next (s.publishCmds fun d => d.seq == c.seq).reap) ∧
      ((∃ d ∈ s.core.eng.copy, d.seq = c.seq ∧ s.cmdDue d = false) →
        ∃ t, exec .enginePublish s = .next t ∧ t.mem = s.mem ∧ t.core.eng.copy.map (·.shadow) = s.core.eng.copy.map (·.shadow))) ∧
    (s.core.eng.barrierHead = some c → (∀ d ∈ s.core.eng.copy, c.endsWith d = true → s.cmdDue d = true) → (s.mayPublish fun d => decide (d.seq < c.seq) && d.toMem) = true →
      (c.kind = .pub →
        let u := s.publishCmds fun d => decide (d.seq < c.seq) && d.toMem
        exec .pubExecute s = .next ((u.setEng { u.core.eng with
          copy := u.core.eng.copy.map fun d => if d.seq = c.seq then { d with written := true, published := true } else d }).reap)) ∧
      (∀ pas, c.kind = .ecw → c.fault = none → s.core.eng.copy = [c] → s.core.eng.gather = [] →
        let r := (s.publishCmds fun d => decide (d.seq < c.seq) && d.toMem).reap
        let u := r.fillTlb r.core.ctx.part r.core.ctx.vf c.a
        u.vaBytes u.whoT c.a 8 .wr false 1 = .ok pas →
        ∃ t, exec .ecwExecute s = .next t ∧ t.core.eng.copy = [] ∧
          t.mem = ((((u.copySample c).orderAt 1 true (pas.getD 0 0)).l2Engine (pas.getD 0 0) false).store (pas.getD 0 0)
            (leBytes 8 c.val.toNat) none true |>.coverAt .now pas).mem)) ∧
    (∀ e, ((s.cmds e).find? fun d => s.mayLeave d && d.done) = some c → s.core.q.ecq.length < 16 →
      ∃ t, exec (.completionEntryPush e) s = .next t ∧ t.core.q = { s.core.q with ecq := s.core.q.ecq ++ [c.entry] } ∧
        t.cmds e = (s.cmds e).filter (fun d => d.seq != c.seq) ∧ t.mem = s.mem ∧ t.core.c = s.core.c)

/-- R197, R200: a migrate translation that lands brings its page to the TLB, frees its entry, and counts a slip past its deadline; one that may not
be is dropped and counted; one of a page in host bias begins its flip first, and one whose page is in a flip waits. A refresh window's end: time has
come to it. -/
def Sys2Proof.Claims.MigrationsLandAndWindowsEnd : Prop :=
  ∀ s : State,
    (∀ (i : BitVec 3) (e : MigEntry), vget s.core.mig.table i.toNat none = some e → e.fault = none →
      (s.migLook e.page = .lands →
        ∃ t, exec (.migTranslationLands i) s = .next t ∧
          t.core.mig = { s.core.mig with
            table := vset s.core.mig.table i.toNat none,
            slip := if e.deadline.toNat < s.core.csr.tick.toNat then satAdd s.core.mig.slip 1 else s.core.mig.slip } ∧
          t.core.c = { s.core.c with watch := t.core.c.watch } ∧ t.mem.cells = s.mem.cells) ∧
      (∀ page, s.migLook e.page = .flips page →
        exec (.migTranslationLands i) s = .next (s.setMem { s.mem with flips := s.mem.flips ++ [(page, false, s.tstamp)] })) ∧
      (s.migLook e.page = .waits → exec (.migTranslationLands i) s = .next s) ∧
      (s.migLook e.page = .drops →
        exec (.migTranslationLands i) s = .next { s with core := { s.core with mig := { s.core.mig with
          table := vset s.core.mig.table i.toNat none, drop := satAdd s.core.mig.drop 1 } } })) ∧
    (∀ (die : BitVec 2) (bank : BitVec 4), s.Quiet → s.core.csr.str = false → s.pkg.droop = none →
      refreshStart bank.toNat s.tstamp ≤ s.tstamp →
      ∃ t, exec (.refreshWindowEnd die bank) s = .next t ∧ refreshStart bank.toNat s.tstamp + 192 ≤ t.tstamp ∧ t.mem.cells = s.mem.cells ∧
        t.core.c.regs = s.core.c.regs)

/-- R315, R316, R339, R342, R343, R346: the oldest near-bank command not sent goes to its unit; a row step of the unit's oldest command moves its
counters on; a suspended unit resumes when nothing waits at its pair or 2 microseconds have passed; a command at its program's end leaves its record
and its entry, once what chxdbg injected into it (R273) has passed; the oldest write of some granule lands, when no flip and no lease holds it. -/
def Sys2Proof.Claims.NearBankUnitsWork : Prop :=
  ∀ (s : State) (i : BitVec 3) (c : NbCmd),
    (∀ rest, s.core.nb.cmds = c :: rest → c.sent = false → (∀ d ∈ rest, d.sent = false) → s.nbOff c = false →
      exec .nbDispatch s = .next (s.setNbCmd 0 { c with sent := true, running := true })) ∧
    (s.nbCmd i.toNat = some c →
      (s.nbMayResume c = true → ∃ t, exec (.nbResume i) s = .next t ∧ t.nbCmd i.toNat = some { c with suspended := false } ∧ t.mem = s.mem) ∧
      (∀ w, s.nbActive i.toNat c = true → c.suspended = false → c.fault = none → c.gone = false → c.prog[c.step]? = some w →
        s.mem.poison = [] → s.nbOff c = false → Plain s →
        ∃ t d, exec (.nbRowStep i) s = .next t ∧ t.nbCmd i.toNat = some d ∧ d.running = true ∧ d.prog = c.prog ∧ d.fault = none ∧
          (d.step, d.rstep) = (if c.rstep + 1 < nbRows w then (c.step, c.rstep + 1) else (c.step + 1, 0)) ∧
          t.mem.cells = s.mem.cells ∧ t.core.c = s.core.c) ∧
      (s.nbActive i.toNat c = true → c.gone = false → s.nbDue c = true → c.prog.length ≤ c.step → c.told = false →
        (c.done = true → s.core.q.ecq.length < 16) →
        ∃ t, exec (.nbComplete i) s = .next t ∧ t.core.nb.cmds = s.core.nb.cmds.eraseIdx i.toNat ∧
          vget t.core.nb.records (c.tag.toNat % 8) ⟨0, false, Vector.replicate 4 0, 0⟩ = ⟨c.tag, true, c.acc, c.empty⟩ ∧
          t.core.q.ecq = s.core.q.ecq ++ (if c.done = true then [BitVec.ofNat 64 (c.tag.toNat + 4 * 2 ^ 16)] else []) ∧ t.mem = s.mem) ∧
      (s.nbActive i.toNat c = true → s.nbDue c = false → c.prog.length ≤ c.step → c.fin = none →
        exec (.nbComplete i) s = .next (s.setNbCmd i.toNat { c with fin := some s.core.ctx.live }))) ∧
    (s.Inv → Plain s → s.core.nb.writes ≠ [] → (∀ g ∈ s.core.nb.writes, s.writeHeld [g.pa] = false) →
      ∃ t g, exec .nbGranuleWrite s = .next t ∧ (s.core.nb.writes.find? fun y => y.pa == g.pa) = some g ∧
        t.core.nb.writes = s.core.nb.writes.eraseP (fun y => y.pa == g.pa) ∧ Wrote s t g.pa g.bytes ∧ t.core.c.watch = s.core.c.watch)

namespace Sys2Proof.Claims

open Sys2Proof.Machine

/-- The core's engines and near-bank queue are empty. -/
def UnitsIdle (s : State) : Prop := s.core.eng.copy = [] ∧ s.core.eng.gather = [] ∧ s.core.nb.cmds = []

/-- The step that ran has left the core: nothing runs, every strand has ended, and every queue is empty. -/
def CoreLeft (t : State) : Prop :=
  t.core.ctx.running = none ∧ t.core.c.run = .ended ∧ t.core.l.ended = true ∧ t.core.v.ended = true ∧ t.core.s.ended = true ∧
  t.core.q = Queues.empty

/-- An empty slot's step n of a block, with its record from the block (R279, R280). -/
def placedStep (s : State) (p : BitVec 3) (b : Block) (n : Nat) : ShadowSlot :=
  { id := { block := b.addr, number := n, rst := b.rst, gang := b.gang, queue := some b.queue, abandons := 0 },
    cast := b.castOn n, part := p, vf := (s.part p).vfOf b.queue, binds := [], copies := [], table := [], demand := 0, filled := false,
    stage := .staging }

end Sys2Proof.Claims

/-- R287, R357, R358: a submission's address is appended to its ring and TAIL goes on as one event; the entry at HEAD is taken, zeroed, and enters
the pending table with the PRED it then reads; a poll reads the PRED of every pending block, which is ready when it is 0. An append or a poll waits
for a page in a flip, and a write for a lease (R308, R322). -/
def Sys2Proof.Claims.SubmissionsFlowThroughTheRings : Prop :=
  ∀ s : State,
    (∀ a q rest t h tail head e, s.core.q.sub = (a, q) :: rest →
      s.ring s.myPart s.core.ctx.vf ((s.part s.myPart).queue q) = some (t, h, tail, head) →
      tail - head < ringSize ((s.part s.myPart).queue q).logsz →
      s.ctxPa s.myPart s.core.ctx.vf (((s.part s.myPart).queue q).entry tail) = some e → s.inFlip h = false →
      (s.taskHeld (span e 8 ++ span t 8) = false →
        let w := (s.orderLines 6 true [e, t]).unitWrite (cellsAt e (leBytes 8 a.toNat) ++ cellsAt t (leBytes 8 (tail + 1)))
        ∃ u, exec .tsubAppend s = .next u ∧ u.core.q = { s.core.q with sub := rest } ∧ u.mem = w.mem ∧ u.core.c.regs = s.core.c.regs ∧ u.pkg = w.pkg) ∧
      (s.taskHeld (span e 8 ++ span t 8) = true → exec .tsubAppend s = .next s)) ∧
    (∀ p q a h e head pa, s.taken p q = some (a, h, e, head) → (BitVec.ofNat 64 e : Word64).toNat % 256 = 0 →
      let u := (s.orderLines 6 true [a, h]).unitWrite (cellsAt a (leBytes 8 0) ++ cellsAt h (leBytes 8 (head + 1)))
      (∃ pa0, u.xlate ⟨p, (s.part p).vfOf q, true⟩ (BitVec.ofNat 64 e) .rd = .ok pa0) →
      u.xlate ⟨p, (s.part p).vfOf q, true⟩ (BitVec.ofNat 64 e + 0xc4) .rd = .ok pa →
      ∃ b, exec (.ringTake p q) s = .next (u.setPart p { s.part p with blocks := (s.part p).blocks ++ [b] }) ∧
        b.addr = BitVec.ofNat 64 e ∧ b.queue = q ∧ b.head = head ∧ b.pred = u.rdNat pa 4 ∧ b.assigned = false ∧
        b.tw = (if u.rdNat pa 4 = 0 then some s.tstamp else none)) ∧
    (∀ p, ∃ t, exec (.predPoll p) s = .next t ∧ t = s.setPart p { s.part p with blocks := (t.part p).blocks } ∧
      (t.part p).blocks.length = (s.part p).blocks.length ∧
      ∀ (i : Nat) (b : Block), (s.part p).blocks[i]? = some b →
        (b.assigned = true ∨ b.failed = true → (t.part p).blocks[i]? = some b) ∧
        (∀ pa, b.assigned = false → b.failed = false → s.xlate ⟨p, (s.part p).vfOf b.queue, true⟩ (b.addr + 0xc4) .rd = .ok pa → s.inFlip pa = false →
          ∃ c : Block, (t.part p).blocks[i]? = some c ∧ c.pred = s.rdNat pa 4 ∧ c.addr = b.addr ∧
            (s.rdNat pa 4 = 0 → c.tw = some (b.tw.getD s.tstamp)) ∧ (s.rdNat pa 4 ≠ 0 → c.tw = b.tw)))

/-- R278, R285, R286, R359, R360: the pointer goes to the chosen block's queue; the block goes to the die chosen for it, and a good block of this die that
is no gang is assigned with its cluster's range of steps (log 47, DESIGN CHOICE); a block that its check refuses never runs; a complete block with no
successor stores DONEVAL, which stands at the memory-side cache at once, and leaves; one that failed only leaves (log 61, DEDUCED). -/
def Sys2Proof.Claims.BlocksAreAssignedAndComplete : Prop :=
  ∀ (p : BitVec 3) (s : State) (b c : Block),
    (∀ d, (s.part p).en = true → s.hasRoom p = true → (s.part p).choose (s.part p).ptrDie s.tstamp (s.part p).assignable = some b →
      s.dieFor p = some d →
      let u := s.setPart p { s.part p with ptrDie := b.queue }
      let site := s.pkg.site.toNat
      (d ≠ s.pkg.die.toNat → ∃ t, exec (.blockAssign p) s = .next t ∧ (t.part p).ptrDie = b.queue ∧
        (∀ k ∈ (t.part p).blocks, k.addr = b.addr → k.queue = b.queue → k.assigned = true)) ∧
      (d = s.pkg.die.toNat → u.receipt p b = (c, .good) → c.gang = false → c.excRec = 0 → u.receivers p c ≠ [] →
        let to_ := u.receivers p c
        let r := if to_.contains site then c.range (s.clusters p).length ((s.clusters p).idxOf site) else (0, 0)
        exec (.blockAssign p) s = .next (u.setPart p ((u.part p).setBlock { c with
          assigned := true, lo := r.1, hi := r.2, next := r.1 * c.inner, group0 := 0, group1 := 0,
          alone := to_.all (· == site), sole := true, mates := true, others := to_.all (· == site),
          cores := if (r.2 - r.1) * c.inner ≤ 1 then [s.pkg.core].take ((r.2 - r.1) * c.inner) else [] }))) ∧
      (∀ aux cause, d = s.pkg.die.toNat → u.receipt p b = (c, .bad aux cause) →
        ∃ t, exec (.blockAssign p) s = .next t ∧ (t.part p).ptrDie = b.queue ∧
          ∀ k ∈ (t.part p).blocks, k.addr = c.addr → k.queue = c.queue → k.assigned = true)) ∧
    ((allParts.findSome? fun q => (s.complete q b.addr).map fun d => (q, d)) = some (p, b) →
      (b.failed = true →
        exec (.blockComplete b.addr) s =
          .next (s.setPart p { s.part p with blocks := (s.part p).blocks.filter fun d => !(d.addr == b.addr && d.queue == b.queue && d.failed) })) ∧
      (∀ pa, b.failed = false → b.gang = false → b.nsucc = 0 → b.doneAddr ≠ 0 →
        s.diePa p ((s.part p).vfOf b.queue) b.doneAddr .wr = some pa → s.completeHeld p b = false →
        let u := (s.orderAt 6 true pa).unitStore (cellsAt pa (leBytes 8 b.doneVal))
        exec (.blockComplete b.addr) s =
          .next (u.setPart p { (u.part p).doneNow b.queue u.tstamp with blocks := (u.part p).blocks.filter fun d => d.addr != b.addr || d.queue != b.queue || !d.assigned })))

/-- R22, R42, R279, R280, R282, R283, R363: a free slot gets the chosen block's next step, and the prologue makes it runnable; the next runnable
step starts with k0 to k5 in x1 to x6 and y1 to y6, zero elsewhere, its PCs and nothing in its queues; a saved step comes back as it was left, TICK
too, with CYCLE running on (log 59, DEDUCED), at a cut with the items that follow the cut-stop applied; of a refused step the core takes cause 0x12.
A gang's share is placed as a whole once each of its steps has a core, and keeps the slot until then (R284; log 47, DESIGN CHOICE). -/
def Obligations.StepsArePlacedAndStart : Prop :=
  ∀ s : State,
    (∀ n l l', s.stagingSlot = some (n, l) →
      let o := s.owe l.part l.id.queue
      o.prologue l = .ok l' →
      let u := o.stageCounts l'
      exec .stepPlace s = .next (u.setCtx { u.core.ctx with slots := u.core.ctx.slots.set n l' }) ∧ l'.stage = .runnable ∧ l'.id = l.id) ∧
    (∀ p n l l', s.stagingSlot = none → s.mayFill = some p →
      let u := s.fillSlot p
      let o := u.owe l.part l.id.queue
      u.stagingSlot = some (n, l) → o.prologue l = .ok l' →
      let w := o.stageCounts l'
      exec .stepPlace s = .next (w.setCtx { w.core.ctx with slots := w.core.ctx.slots.set n l' })) ∧
    (∀ p b, (s.part p).repMode = 0 → (s.candidates p).find? (·.guarded) = none →
      (s.part p).choose (s.part p).ptrCl s.tstamp (s.candidates p) = some b → s.savedOf p b.mine = none → s.backOf p b.mine = none →
      let t := s.fillSlot p
      t.mem = s.mem ∧
      (b.gang = false → t.core.ctx.slots = s.core.ctx.slots ++ [placedStep s p b b.next] ∧
        t.part p = { (s.part p).setBlock { b with next := b.next + 1, tw := some s.tstamp } with ptrCl := b.queue }) ∧
      (b.gang = true → b.fits = false → t = s) ∧
      (b.gang = true → b.fits = true → t.core.ctx.slots = s.core.ctx.slots ++
        (((List.range (b.past - b.next)).zip b.cores).filter fun x => x.2 == s.pkg.core).map fun x => placedStep s p b (b.next + x.1))) ∧
    (s.coreFree = true → ∀ l, s.nextStart = some l →
      (l.stage = .runnable → l.table = [] → l.copies = [] →
        ∃ t, exec .stepStart s = .next t ∧ t.core.ctx.running = some l.id ∧ t.core.ctx.slots = s.core.ctx.slots.erase l ∧
          t.core.trap.mode = false ∧ t.core.trap.frz = false ∧ t.core.c.run = .ready ∧ t.core.c.pc = vget l.cast.pcs 0 0 ∧
          t.core.l.pc = vget l.cast.pcs 1 0 ∧ t.core.v.pc = vget l.cast.pcs 2 0 ∧ t.core.s.pc = vget l.cast.pcs 3 0 ∧
          t.core.q = Queues.empty ∧ t.core.pool.cells = [] ∧ t.core.fpc = Vector.replicate 12 0 ∧
          (∀ r : XReg, t.xRead r = if 1 ≤ r.toNat ∧ r.toNat ≤ 6 then (vget l.cast.k (r.toNat - 1) 0).setWidth 64 else 0) ∧
          (∀ (k : Strand) (y : YReg), k ≠ .c → t.yRead k y = if 1 ≤ y.toNat ∧ y.toNat ≤ 6 then vget l.cast.k (y.toNat - 1) 0 else 0)) ∧
      (∀ tval, l.stage = .refused tval →
        ∃ t, exec .stepStart s = .next t ∧ t.core.ctx.slots = s.core.ctx.slots.erase l ∧ t.core.trap.cause = 0x12 ∧ t.core.trap.tval = tval ∧ t.core.trap.mode = true ∧ t.core.trap.pm = false ∧
          t.core.trap.tfpc = 0 ∧ t.core.trap.noStep = .caston ∧ t.core.c.pc = (((s.part l.part).vf l.vf).tvecw &&& ~~~3)) ∧
      (∀ z, l.stage = .restored → ((s.part l.part).saved.find? fun z => z.ctx.running == some l.id && z.vf == l.vf) = some z →
        ∃ t : State, exec .stepStart s = .next (if z.atCut then t.laterItems else t) ∧ t.core.c = z.c ∧ t.core.l = z.l ∧ t.core.v = z.v ∧ t.core.s = z.s ∧ t.core.q = z.q ∧ t.core.str = z.str ∧
          t.core.arr = z.arr ∧ t.core.eng = z.eng ∧ t.core.ten = z.ten ∧ t.core.pool.cells = z.pool ∧ t.core.ctx.running = z.ctx.running ∧
          t.core.csr.tick = z.csr.tick ∧ t.core.csr.cycle = s.core.csr.cycle ∧ t.mem = s.mem))

/-- R23, R290, R361, R362, R364, R365: the bind-off bundle ends its step, with cause 0x14 for what its queues still hold; a cut-stop is asked of the next
cut; a frozen step is saved and leaves; a restartable step that is abandoned goes back to the first of the slots with its record (log 63, DESIGN
CHOICE); the guard asks a cut-stop of the running step for a block that starves (which slot it frees: log 47, DESIGN CHOICE). -/
def Obligations.StepsEndAndLeave : Prop :=
  ∀ s : State, s.Quiet → s.stepOn = true →
    (s.bindOffReady = true → s.endHeld = true → exec .bindOffRetire s = .next s) ∧
    (s.bindOffReady = true → s.endHeld = false → s.core.eng.copy = [] →
      ∃ t, exec .bindOffRetire s = .next t ∧ t.core.ctx.running = none ∧ t.core.l.ended = true ∧ t.core.v.ended = true ∧ t.core.s.ended = true ∧
        t.core.q = Queues.empty ∧ (∀ r, (t.desc r).active = false) ∧
        (s.residue = false → t.core.c.run = .ended ∧ t.core.trap.mode = false) ∧
        (s.residue = true → t.core.trap.cause = 0x14 ∧ t.core.trap.mode = true ∧ t.core.trap.tval = s.occupancies ∧ t.core.c.pc = s.core.trap.tvec)) ∧
    (s.core.trap.wait = none → s.core.ctx.leave = none →
      exec .cutStop s = .next (s.setCtx { s.core.ctx with leave := some .cutStop })) ∧
    (∀ b id p, s.core.ctx.running = some id → s.myPart = p → id.gang = false → s.core.ctx.leave = none → s.sup = false →
      (∀ k ∈ (s.part p).blocks, k.guarded = false) →
      ((s.candidates p).find? fun b => !b.mine id &&
        decide (b.tw.getD s.tstamp + (7 - ((s.part p).queue b.queue).prio.toNat) * 256000 + 1000000 ≤ s.tstamp)) = some b →
      ∃ t, exec (.starvationGuard p) s = .next t ∧ t.core.ctx.leave = some .cutStop ∧ t.core.c = s.core.c ∧ t.mem = s.mem ∧
        (s.core.ctx.slots.length < 2 → t.core.ctx.slots = s.core.ctx.slots ∧ t.part p = (s.part p).setBlock { b with guarded := true })) ∧
    (∃ t, exec .freeze s = .next t ∧ CoreLeft t) ∧
    (UnitsIdle s → s.core.c.store = none → s.core.l.pend = [] → s.core.s.pend = [] → (∀ xd limit, s.core.c.run ≠ .mwait xd limit) →
      (∃ t z, exec .freeze s = .next t ∧ CoreLeft t ∧ (t.part s.myPart).saved = (s.part s.myPart).saved ++ [z] ∧
        z.c.regs = s.core.c.regs ∧ z.c.pc = s.core.c.pc ∧ z.l = s.core.l ∧ z.v = s.core.v ∧ z.s = s.core.s ∧ z.q = s.core.q ∧ z.csr = s.core.csr ∧
        z.str = s.core.str ∧ z.arr = s.core.arr ∧ z.ten = s.core.ten ∧ z.ctx.running = s.core.ctx.running ∧ t.mem.cells = s.mem.cells)) ∧
    (∀ id, s.core.ctx.running = some id → id.rst = false → exec .abandon s = exec .freeze s) ∧
    (∀ id cast, s.core.ctx.running = some id → s.core.ctx.cast = some cast → id.rst = true → id.gang = false → id.abandons < 7 →
      ∃ t l, exec .abandon s = .next t ∧ CoreLeft t ∧ t.core.ctx.slots = l :: s.core.ctx.slots ∧ l.id = { id with abandons := id.abandons + 1 } ∧
        l.cast = cast ∧ l.stage = .staging ∧ l.part = s.myPart ∧ l.vf = s.core.ctx.vf ∧ t.mem.cells = s.flushStore.mem.cells)

/-- R366 to R368: an answer 0 lets the waiting strand retry, 1 takes its trap once the freeze is in effect, 2 abandons the step, 3 is ignored; one that
follows a host write still waiting waits with it; with no answer in TMO ms the trap is taken. A step that may run again goes back to the first of the
slots (log 63, DESIGN CHOICE); an mwait of C returns 4 before the trap (log 75, DESIGN CHOICE). -/
def Sys2Proof.Claims.ForwardedFaultsAreAnswered : Prop :=
  ∀ (s : State) (p : BitVec 3) (seq : BitVec 16) (r : FaultRec) (w : FreezeWait),
    ((s.part p).await.find? fun x => x.seq == seq) = some r → r.seq = seq → s.core.trap.wait = some w → w.seq = some seq → s.myPart = p →
    let u := s.setPart p { s.part p with await := (s.part p).await.filter fun x => x.seq != seq }
    let b := u.endMwait 4
    exec (.faultAnswer p seq 3) s = .next s ∧
    (s.hostWaits = true → ∀ code ∈ [(0 : BitVec 2), 1, 2], exec (.faultAnswer p seq code) s = .next (s.again (.env (.faultAnswer p seq code)))) ∧
    (s.hostWaits = false → ∃ t, exec (.faultAnswer p seq 0) s = .next t ∧ t.core.trap = { s.core.trap with wait := none, dog := 0 } ∧
      t.core.c = { s.core.c with blocked := false } ∧ t.core.l = { s.core.l with blocked := false } ∧
      t.core.v = { s.core.v with blocked := false } ∧ t.core.s = { s.core.s with blocked := false } ∧ t.mem = s.mem) ∧
    (s.hostWaits = false → w.frozen = true →
      ∃ t, exec (.faultAnswer p seq 1) s = .next t ∧ TrapTaken b t w.strand w.cause w.tfpc w.tval b.core.c.pc) ∧
    (s.hostWaits = false → w.frozen = false →
      exec (.faultAnswer p seq 1) s = .next (u.setTrap { u.core.trap with wait := some { w with seq := none } })) ∧
    (s.hostWaits = false → ∀ id cast, s.core.ctx.running = some id → s.core.ctx.cast = some cast → id.gang = false →
      ∃ t, exec (.faultAnswer p seq 2) s = .next t ∧ CoreLeft t ∧
        (id.rst = true → id.abandons < 7 → ∃ l, t.core.ctx.slots = l :: s.core.ctx.slots ∧ l.id = { id with abandons := id.abandons + 1 } ∧
          l.cast = cast ∧ l.stage = .staging) ∧
        (id.rst = false → t.core.ctx.slots = s.core.ctx.slots ∧
          ∀ q, id.queue = some q → ∀ k ∈ (t.part p).blocks, k.queue = q → k.addr = id.block → k.failed = true)) ∧
    (w.frozen = true → r.type ≠ 0x34 → r.stamp.toNat + (s.part p).tmo.toNat * 1000000 ≤ s.tstamp →
      ∃ t, exec (.faultAnswerTimeout p seq) s = .next t ∧ TrapTaken b t w.strand w.cause w.tfpc w.tval b.core.c.pc)

/-- R282, R283, R365, R368: for a prologue's read, the answer 0 has the prologue run again, 1 refuses its step, and 2 abandons the step, which is staged
again if it may run again, and else leaves its slot. -/
def Sys2Proof.Claims.PrologueFaultsAreAnswered : Prop :=
  ∀ (s : State) (p : BitVec 3) (seq : BitVec 16) (r : FaultRec) (n src : Nat) (l : ShadowSlot),
    ((s.part p).await.find? fun x => x.seq == seq) = some r → r.seq = seq → s.core.trap.wait = none → s.slotAwaits p seq = some (n, l, src) →
    s.hostWaits = false →
    let id := { l.id with abandons := l.id.abandons + 1 }
    (∃ t, exec (.faultAnswer p seq 0) s = .next t ∧ t.core.ctx.slots = s.core.ctx.slots.set n { l with stage := .staging }) ∧
    (∃ t, exec (.faultAnswer p seq 1) s = .next t ∧
      t.core.ctx.slots = s.core.ctx.slots.set n { l with stage := .refused (BitVec.ofNat 64 (0x100 + src)) }) ∧
    (∃ t, exec (.faultAnswer p seq 2) s = .next t ∧
      t.core.ctx.slots = if l.id.rst = true ∧ l.id.abandons < 7 then s.core.ctx.slots.set n { l with id := id, stage := .staging }
        else s.core.ctx.slots.eraseIdx n)

/-- R373, R374, R376, R377: at a quantum's end the next function's switch begins, or the quantum starts again; a step not at a cut 20 microseconds
later has left, and the incoming function becomes resident, its quantum counted from there; an event of a function that is not resident counts
in its saved copy. -/
def Sys2Proof.Claims.WorldsSwitch : Prop :=
  ∀ (p : BitVec 3) (s : State),
    ((s.part p).en = true → (s.part p).switch_ = none → (s.part p).quantEnd ≤ s.tstamp →
      (s.nextVf p = none →
        exec (.quantumEnd p) s = .next (s.setPart p { s.part p with quantEnd := (s.part p).quantEnd + (s.part p).quantum, yielded := false })) ∧
      (∀ v, s.nextVf p = some v →
        ∃ t, exec (.quantumEnd p) s = .next t ∧ (t.part p).switch_ = some (v, 1, s.tstamp) ∧ (t.part p).yieldBack = none ∧ t.mem = s.mem ∧
          (s.stepOn = true → s.myPart = p → s.core.ctx.leave = none → t.core.ctx.leave = some .cutStop))) ∧
    (∀ v t0, (s.part p).switch_ = some (v, 1, t0) → t0 + 20000 ≤ s.tstamp →
      ∃ t, exec (.switchFreezeDeadline p) s = .next t ∧ (t.part p).switch_ = some (v, 2, t0) ∧ (s.stepOn = true → s.myPart = p → CoreLeft t)) ∧
    (∀ v n t0, (s.part p).switch_ = some (v, n, t0) → s.mayRestore p = true →
      ∃ t, exec (.worldSwitchRestore p) s = .next t ∧ (t.part p).resident = v ∧ (t.part p).switch_ = none ∧ (t.part p).yielded = false ∧
        (t.part p).quantEnd = s.tstamp + (s.part p).quantum ∧ t.mem = s.mem) ∧
    (∀ v, s.sitePart = some p → (s.part p).repMode ≠ 1 → ∀ event ∈ [(0x10 : BitVec 8), 0x11],
      ((s.part p).resident = v → ∃ t, exec (.savedCounterAdd p v event) s = .next t ∧ t.core.perf = (s.core.perf.add event 1).1 ∧ t.mem = s.mem) ∧
      ((s.part p).resident ≠ v → ∃ t, exec (.savedCounterAdd p v event) s = .next t ∧ t.core.perf = s.core.perf ∧ t.mem = s.mem ∧
        ((t.part p).vf v).perf = some (((((s.part p).vf v).perf.getD Counters.zero).add event 1).1)))

namespace Sys2Proof.Claims

open Sys2Proof.Machine

/-- The responder has given one more answer. -/
def Answered (s t : State) (p : Spdm) (what : String) (bytes : List Byte) : Prop :=
  t = s.setPkg { s.pkg with spdm := { p with answers := (what, bytes) :: s.pkg.spdm.answers } }

/-- A unit after a commit message: one of the class with staged changes waits for its idle point when its plane's CRC is the expected one, and rolls
back with result 2 otherwise; every other stands (R382). -/
def afterCommit (s : State) (gen : BitVec 16) (cls : BitVec 4) (crc : Word32) (x : CfgUnit) : CfgUnit :=
  if x.unit / 4096 = cls.toNat ∧ s.unitStaged x = true then
    (if Config.crc32c (s.stagedPlane x) = crc then { x with waiting := some (gen, crc, s.tstamp) } else { x with staged := [], result := 2 })
  else x

/-- The bytes that stand in the patched cells: each byte that the running context maps, at its physical address. -/
def patchCells (s : State) (va : Word64) (bs : List Byte) : List Host.Cell :=
  (List.range bs.length).filterMap fun i => (s.ctxPa s.core.ctx.part s.core.ctx.vf (va + BitVec.ofNat 64 i)).map fun pa => (pa, bs.getD i 0)

end Sys2Proof.Claims

/-- R118, R381 to R383: a stage entry replaces the staged bytes it names and no others; a commit message makes each unit of its class that holds
changes wait for its idle point when the CRC of its plane is the expected one, and roll back with result 2 otherwise; an abort drops every staged
plane and image; an invalidation is tlbi on the named core. R389: a controller held in reset answers none of them. -/
def Sys2Proof.Claims.ConfigMessagesStageAndCommit : Prop :=
  ∀ (s : State) (gen : BitVec 16),
    let on := s.inReset Config.cfgController = false
    (∀ (unit off : Nat) (bs : List Byte), on → unit % 4096 ≠ 0xfff → bs ≠ [] → bs.length ≤ 256 → keysRise 0 (s.cfgUnit unit).staged = true →
      ∃ t, exec (.configStage gen unit off bs) s = .next t ∧ (t.cfgUnit unit).active = (s.cfgUnit unit).active ∧ t.core = s.core ∧ t.mem = s.mem ∧
        let now := s.planeByte (s.cfgUnit unit)
        ∀ o, kget (t.cfgUnit unit).staged o (now o) =
          if off ≤ o ∧ o < off + bs.length then bs.getD (o - off) 0 else kget (s.cfgUnit unit).staged o (now o)) ∧
    (∀ (unit off : Nat) (bs : List Byte), bs = [] ∨ 256 < bs.length → exec (.configStage gen unit off bs) s = .next s) ∧
    (∀ (cls : BitVec 4) (crc : Word32), on → (s.pkg.units.map (·.unit)).Nodup →
      ∃ t, exec (.configCommit gen cls crc) s = .next t ∧ t.core = s.core ∧ t.mem = s.mem ∧ t.pkg.images = s.pkg.images ∧
        (∀ x ∈ s.pkg.units, t.cfgUnit x.unit = afterCommit s gen cls crc x) ∧
        ∀ x ∈ s.pkg.units, x.unit / 4096 = cls.toNat → Config.crc32c (s.stagedPlane x) ≠ crc → ∀ i ∈ t.pkg.staged, i.unit ≠ x.unit) ∧
    (on → ∃ t, exec (.configAbort gen) s = .next t ∧ (∀ x ∈ t.pkg.units, x.staged = [] ∧ x.waiting = none) ∧ t.pkg.staged = [] ∧
      t.pkg.units.map (·.active) = s.pkg.units.map (·.active) ∧ t.core = s.core ∧ t.mem = s.mem) ∧
    (∀ va, on → exec (.configInvalidate s.corenum.toNat va) s = .next (s.flushStore.invalidate va)) ∧
    (∀ core va, core ≠ s.corenum.toNat → exec (.configInvalidate core va) s = .next s) ∧
    (¬on → ∀ (unit off : Nat) (bs : List Byte) (cls : BitVec 4) (crc : Word32) (core : Nat) (va : Option Word64),
      ∀ i ∈ [Instr.configStage gen unit off bs, .configCommit gen cls crc, .configAbort gen, .configInvalidate core va], exec i s = .next s)

/-- R382, R383, R386: at its idle point a waiting unit's staged plane becomes active under its generation, with result 1, and a staged image with it;
one that has waited 10 ms has result 3, its staged plane kept. -/
def Sys2Proof.Claims.UnitsCommitAtTheirIdlePoint : Prop :=
  ∀ (s : State) (unit : Nat) (gen : BitVec 16) (crc : Word32) (t0 : Nat), (s.cfgUnit unit).waiting = some (gen, crc, t0) →
    (s.unitIdle unit = true → s.tstamp < t0 + 10000000 →
      ∃ t, exec (.unitCommit unit) s = .next t ∧ t.mem = s.mem ∧
        t.cfgUnit unit = { s.cfgUnit unit with
          active := (s.cfgUnit unit).staged.foldl (fun l c => kset l c.1 c.2) (s.cfgUnit unit).active, staged := [], gen := gen, result := 1,
          waiting := none } ∧
        (∀ i, (s.pkg.staged.find? fun j => j.unit == unit) = some i →
          i ∈ t.pkg.images ∧ (∀ j ∈ t.pkg.images, j.unit = unit → j = i) ∧ (unit, Config.sha256 i.bytes) ∈ t.pkg.measure ∧ i ∉ t.pkg.staged)) ∧
    (t0 + 10000000 ≤ s.tstamp →
      exec (.unitCommitTimeout unit) s = .next (s.setCfgUnit { s.cfgUnit unit with result := 3, waiting := none }))

/-- R302, R384 to R387: a patch is published, at once for an idle core and from the next cut for a running one; a drained site places nothing more, and
asks its running step to leave; a spare takes a drained site's place; an image that passes is staged, any other is not; a moved page's bytes
stand in its new place and its leaf names it, once no accepted near-bank command names it (R349). A patch's return shows the acknowledgement of this
core alone (log 27, DESIGN CHOICE); PAGE_MOVE names its pages by number (log 51, DEDUCED). -/
def Obligations.LiveServiceActs : Prop :=
  ∀ s : State,
    (∀ (va : Word64) (bs : List Byte),
      (s.stepOn = false → ∃ t, exec (.breakpointPatch va bs) s = .next t ∧ t.mem = (s.memWrite (patchCells s va bs) none false false).mem ∧
        t.core.dbg.unacked = false ∧ t.core.dbg.shown = [0x105, s.corenum.toNat] :: s.core.dbg.shown ∧ t.core.ctx = s.core.ctx) ∧
      (s.stepOn = true → ∃ t, exec (.breakpointPatch va bs) s = .next t ∧ t.core.ctx.newCode = true ∧ t.core.dbg.unacked = true ∧
        t.core.dbg.patchAt = some s.tstamp ∧
        t.core.c.pc = s.core.c.pc ∧ t.core.l.pc = s.core.l.pc ∧ t.core.v.pc = s.core.v.pc ∧ t.core.s.pc = s.core.s.pc)) ∧
    (∀ die site, s.inReset Config.cfgController = false → (die, site) ∉ s.pkg.drained →
      ((die, site) ≠ (s.pkg.die, s.pkg.site) → exec (.siteDrain die site) s = .next (s.setPkg { s.pkg with drained := (die, site) :: s.pkg.drained })) ∧
      ((die, site) = (s.pkg.die, s.pkg.site) → s.stepOn = true → s.core.ctx.leave = none →
        ∃ t, exec (.siteDrain die site) s = .next t ∧ t.core.ctx.leave = some .cutStop ∧ t.pkg.drainAt = some s.tstamp ∧ t.siteDrained = true ∧
          t.mem = s.mem)) ∧
    (∀ die site n, s.inReset Config.cfgController = false → (die, site) ∈ s.pkg.drained → s.pkg.spareUsed.getLsbD die.toNat = false →
      ((die, site) ≠ (s.pkg.die, s.pkg.site) →
        ∃ t, exec (.siteRepair die site n) s = .next t ∧ t.pkg.spareUsed.getLsbD die.toNat = true ∧ (die, site) ∉ t.pkg.drained ∧ t.core = s.core ∧
          ∀ p, (s.part p).sites.getLsbD (17 * die.toNat + site.toNat) = true →
            (t.part p).sites.getLsbD (17 * die.toNat + 16) = true ∧
            (site ≠ 16 → (t.part p).sites.getLsbD (17 * die.toNat + site.toNat) = false)) ∧
      ((die, site) = (s.pkg.die, s.pkg.site) → s.stepOn = false →
        ∃ t, exec (.siteRepair die site n) s = .next t ∧ t.pkg.site = 16 ∧ t.core.pool.lost = Nat.min 31 n ∧ t.core.pool.cells = [] ∧
          t.core.mmu = ⟨[], []⟩ ∧ t.core.csr = s.core.csr)) ∧
    (∀ (unit version : Nat) (image sig : List Byte),
      (Config.sigOk image sig = true → s.installed unit ≤ version →
        ∃ t, exec (.firmwareUpdate unit version image sig) s = .next t ∧ (t.pkg.staged.find? fun i => i.unit == unit) = some ⟨unit, version, image⟩ ∧
          t.pkg.images = s.pkg.images ∧ t.core = s.core) ∧
      (Config.sigOk image sig = false ∨ version < s.installed unit → exec (.firmwareUpdate unit version image sig) s = .next s)) ∧
    (∀ old new leaf : Nat, s.inReset Config.cfgController = false → s.Inv → old < 2 ^ 27 → new < 2 ^ 27 → leaf < 2 ^ 43 → leaf % 8 = 0 → leaf / 65536 ≠ new → old ≠ new →
      s.region (old * 65536) = .hbm → s.region (new * 65536) = .hbm → s.ownerOf (old * 65536) = s.ownerOf (new * 65536) →
      (s.nbNames old = true → exec (.pageMove old new leaf) s = .next (s.again (.env (.pageMove old new leaf)))) ∧
      (s.nbNames old = false → s.core.c.store = none → s.core.eng.copy = [] → s.core.nb.writes = [] →
      ∃ t, exec (.pageMove old new leaf) s = .next t ∧ (∀ i < 65536, t.rd8 (new * 65536 + i) = s.rd8 (old * 65536 + i)) ∧
        BitVec.ofNat 64 (t.rdNat leaf 8) = (BitVec.ofNat 64 (s.rdNat leaf 8) &&& ~~~0x000fffffffffff00) ||| BitVec.ofNat 64 (new * 65536) ∧
        t.Inv ∧ t.core.c.regs = s.core.c.regs))

/-- R389: after a package reset the machine is as State.reset has it, the numbers that name this core kept (log 11, DESIGN CHOICE; what State.reset holds where
the spec gives no value: logs 3, 8 and 10, DESIGN CHOICE); each image that its signature verifies is installed and measured, the others are
reported. R386 (log 26, DESIGN CHOICE: the version with which it is installed): no unit's security version goes
back. -/
def Sys2Proof.Claims.PackageResetStartsAgain : Prop :=
  ∀ (images : List (Nat × List Byte × List Byte)) (s : State),
    ∃ t, exec (.packageReset images) s = .next t ∧ t.core = State.reset.core ∧ t.mem = State.reset.mem ∧ t.time = State.reset.time ∧
      t.pkg.parts = State.reset.pkg.parts ∧ t.pkg.core = s.pkg.core ∧ t.pkg.site = s.pkg.site ∧ t.pkg.die = s.pkg.die ∧
      (∀ i ∈ t.pkg.images, i.version = s.installed i.unit) ∧
      (∀ u b, (∃ sig, (u, b, sig) ∈ images ∧ Config.sigOk b sig = true) → (u, Config.sha256 b) ∈ t.pkg.measure) ∧
      (∀ u, u ∈ t.pkg.bootFail ↔ ∃ b sig, (u, b, sig) ∈ images ∧ Config.sigOk b sig = false)

/-- R390 and log 26, DESIGN CHOICE: the responder answers version 1.3, then capabilities, algorithms, digests, certificate, challenge and measurements in that order of
session; a request out of its order is answered with an error. -/
def Sys2Proof.Claims.AttestationAnswers : Prop :=
  ∀ (s : State) (algs : List Nat) (off len index : Nat) (nonce : List Byte),
    let p := s.pkg.spdm
    let err := fun (i : Instr) => ∃ t, exec i s = .next t ∧ Answered s t p "ERROR" []
    (∃ t, exec .getVersion s = .next t ∧ Answered s t { p with version := true, caps := false, algs := false } "VERSION" [0x13]) ∧
    (p.version = true → ∃ t, exec .getCapabilities s = .next t ∧ Answered s t { p with caps := true, algs := false } "CAPABILITIES" []) ∧
    (p.version = false → err .getCapabilities) ∧
    (p.caps = true → ∃ t, exec (.negotiateAlgorithms algs) s = .next t ∧ Answered s t { p with algs := true } "ALGORITHMS" []) ∧
    (p.caps = false → err (.negotiateAlgorithms algs)) ∧
    (p.algs = true →
      (∃ t, exec .getDigests s = .next t ∧ Answered s t p "DIGESTS" (Config.sha256 Config.cert)) ∧
      (∃ t, exec (.getCertificate off len) s = .next t ∧ Answered s t p "CERTIFICATE" ((Config.cert.drop off).take len)) ∧
      (∃ t, exec (.challenge nonce) s = .next t ∧
        Answered s t p "CHALLENGE_AUTH" (Config.sha256 Config.cert ++ Config.sign (nonce ++ s.pkg.measure.flatMap fun m => leBytes 4 m.1 ++ m.2))) ∧
      (∃ t, exec (.getMeasurements 0) s = .next t ∧ Answered s t p "MEASUREMENTS" (leBytes 1 s.pkg.measure.length)) ∧
      (index < s.pkg.measure.length → index + 1 ≠ 0xff →
        ∃ t, exec (.getMeasurements (index + 1)) s = .next t ∧ Answered s t p "MEASUREMENTS" ((s.pkg.measure.map (·.2)).getD index []))) ∧
    (p.algs = false → err .getDigests ∧ err (.getCertificate off len) ∧ err (.challenge nonce) ∧ err (.getMeasurements index))

namespace Sys2Proof.Claims

open Sys2Proof.Machine

/-- A link of the package. -/
def linkOf (s : State) (port : Nat) : Link := vget s.pkg.links port ⟨.down, false, 0, 0⟩

/-- One field of the package has changed, a link; memory and the core stand. -/
def LinkNow (s t : State) (port : Nat) (l : Link) : Prop :=
  linkOf t port = l ∧ (∀ q, q ≠ port → linkOf t q = linkOf s q) ∧ t.core = s.core ∧ t.mem = s.mem

/-- A core asleep at level 3 of a group. -/
def Asleep3 (s : State) (group : BitVec 12) : Prop :=
  (s.core.c.run = .bar (.bar 3) ∨ s.core.c.run = .bar (.barW 3) ∨ ∃ xd, s.core.c.run = .bar (.barA xd 3)) ∧ domGroup (s.domain 3) = group

/-- Whether no partition takes records, so that a record posted changes no memory. -/
def NoQueues (s : State) : Prop := ∀ p, (s.part p).fqEn = false ∧ (s.part p).repMode = 0

end Sys2Proof.Claims

/-- R395, R398 to R400: as a microsecond ends, and not before, the estimate lowers an enabled partition's permit count above its cap, never below its
minimum, and raises it by one, at most to 16, well below; the energy of a microsecond is added to the counter of its step's queue, a launched
step's to IDLEENERGY (R274), and that of a unit to the queue it worked for; other cores' charges go only to a queue with a block or with one done
with for less than 4 microseconds; a window's first cycle brings the count into force. The estimates and the energies are free values (log 14). -/
def Sys2Proof.Claims.PowerIsMetered : Prop :=
  ∀ (s : State) (p : BitVec 3),
    (s.tstamp < s.pkg.estAt → exec .powerEstimate s = .next s) ∧
    (s.pkg.estAt ≤ s.tstamp → ∃ t, exec .powerEstimate s = .next t ∧ s.free < t.free ∧ t.pkg.estAt = s.pkg.estAt + 1000 ∧ t.pkg.owed = [] ∧
      (∀ q, s.stepOn = false → s.sitePart = none → s.pkg.owed = [(p, some q)] →
        ((t.part p).queue q).energy = ((s.part p).queue q).energy +
          BitVec.ofNat 64 ((((s.part p).queue q).frac + Config.energy p.toNat q.toNat (s.free + 2)) / 256)) ∧
      (s.stepOn = true → s.myPart = p → s.pkg.owed = [] →
        let add := fun (q : Nat) => Config.energy p.toNat q (s.free + 2)
        (∀ id q, s.core.ctx.running = some id → id.queue = some q →
          ((t.part p).queue q).energy = ((s.part p).queue q).energy + BitVec.ofNat 64 ((((s.part p).queue q).frac + add q.toNat) / 256) ∧
          (t.part p).idleEnergy = (s.part p).idleEnergy) ∧
        (∀ id, s.core.ctx.running = some id → id.queue = none →
          (t.part p).idleEnergy = (s.part p).idleEnergy + BitVec.ofNat 64 (((s.part p).idleFrac + add 64) / 256))) ∧
      ((s.part p).en = true →
        let e := Config.watts p.toNat s.free
        let own := (s.part p).cap.toNat
        let now := (s.part p).permit.toNat
        (Config.watts 8 s.free ≤ s.pkg.pkgCap → own ≠ 0 → own < e → now ≤ 16 →
          (t.part p).permit.toNat = Nat.max (s.part p).pmin.toNat (Nat.min (now - 1) (now * own / e))) ∧
        (Config.watts 8 s.free ≤ s.pkg.pkgCap → (own = 0 ∨ 16 * e ≤ 15 * own) → now ≤ 16 → (t.part p).permit.toNat = Nat.min 16 (now + 1)))) ∧
    (∀ q, s.chargeable p q = false → exec (.energyCharge p (some q)) s = .next s) ∧
    (∀ q, s.chargeable p q = true → ∃ t, exec (.energyCharge p (some q)) s = .next t ∧
      let add := Config.energy p.toNat q.toNat (s.free + 1)
      let k := (s.part p).queue q
      ((t.part p).queue q).energy = k.energy + BitVec.ofNat 64 ((k.frac + add) / 256) ∧ ((t.part p).queue q).frac = (k.frac + add) % 256 ∧
        t.core = s.core) ∧
    (∃ t, exec (.energyCharge p none) s = .next t ∧
      let add := Config.energy p.toNat 64 (s.free + 1)
      (t.part p).idleEnergy = (s.part p).idleEnergy + BitVec.ofNat 64 (((s.part p).idleFrac + add) / 256) ∧ t.core = s.core) ∧
    (s.core.csr.cycle.toNat % 16 = 0 →
      exec .permitWindow s = .next (s.setCsr { s.core.csr with permit := (s.part (s.sitePart.getD s.myPart)).permit })) ∧
    (s.core.csr.cycle.toNat % 16 ≠ 0 → exec .permitWindow s = .next s)

/-- R203, R401, R402: a trip counts and starts the response, whose six cycles are stretched and whose 64 that follow hold half the permits; one in a
stretched cycle is only counted, one in a later cycle starts the response again; a lane group idle for 4,096 cycles is powered down. -/
def Sys2Proof.Claims.DroopsAndIdleLanesAct : Prop :=
  ∀ s : State, s.Quiet → s.core.dbg.traceDr = false → s.pkg.again = false →
    (s.core.csr.drLevel ≠ 0 → s.pkg.droop = none →
      ∃ t, exec .droopTrip s = .next t ∧ t.pkg.droop = some 0 ∧ t.pkg.droops = satAdd s.pkg.droops 1 ∧ t.core.csr.str = false ∧
        t.core.csr.half = false ∧ t.time = s.time ∧ t.mem = s.mem) ∧
    (∀ n, s.core.csr.drLevel ≠ 0 → s.pkg.droop = some n →
      exec .droopTrip s = .next (s.setPkg { s.pkg with droops := satAdd s.pkg.droops 1, again := decide (7 ≤ n) })) ∧
    (s.core.csr.drLevel = 0 → exec .droopTrip s = .next s) ∧
    (s.pkg.droop = some 0 →
      ∃ t, exec .droopStretchEnd s = .next t ∧ t.pkg.droop = some 6 ∧ t.core.csr.str = true ∧ t.core.csr.cycle = s.core.csr.cycle + 6) ∧
    (s.pkg.droop = some 7 →
      ∃ t, exec .droopHalfIssueEnd s = .next t ∧ t.pkg.droop = some 70 ∧ t.core.csr.half = true ∧ t.core.csr.cycle = s.core.csr.cycle + 63) ∧
    (∀ g : BitVec 3, (s.core.lanes.get ⟨g.toNat, g.isLt⟩).on = true → (s.core.lanes.get ⟨g.toNat, g.isLt⟩).idle ≤ 4095 →
      ∃ t, exec (.laneGroupPowerDown g) s = .next t ∧ (s.core.lanes.get ⟨g.toNat, g.isLt⟩).idle + (t.core.csr.cycle - s.core.csr.cycle).toNat =
          4095 + (s.core.lanes.get ⟨g.toNat, g.isLt⟩).beat.toNat ∧
        (t.core.lanes.get ⟨g.toNat, g.isLt⟩).on = true ∧ (t.passCycle.core.lanes.get ⟨g.toNat, g.isLt⟩).on = false)

/-- R404, R405: under replay, a recorded fabric arrival whose time has come is stored, a dword of 8 bytes (log 23, DESIGN CHOICE), and a recorded
interrupt sent; a record of no type diverges; nothing is applied before its time. -/
def Sys2Proof.Claims.ReplayedInputsApply : Prop :=
  ∀ (s : State),
    (∀ p, allParts.find? s.replayDue = some p →
      let r := s.repNext p
      (r.1 = 2 → exec .replayInputApply s = .next (((s.repTake p).orderAt 4 true r.2.2.2.1).store r.2.2.2.1 (leBytes 8 r.2.2.2.2) none true)) ∧
      (r.1 = 3 → 1 ≤ r.2.2.2.1 → r.2.2.2.1 ≤ 32 →
        ∃ t m, exec .replayInputApply s = .next t ∧ t.pkg.msi = m :: s.pkg.msi ∧ m.fn = r.2.2.2.1 ∧ m.vec = r.2.2.2.2 ∧ t.mem = s.mem) ∧
      (r.1 = 0 → ∃ t, exec .replayInputApply s = .next t ∧ (t.part p).repDiv = true ∧ t.mem = s.mem)) ∧
    ((∀ p, (s.part p).repMode = 2 → (1 ≤ (s.repNext p).1 ∧ (s.repNext p).1 ≤ 3) ∧ s.tstamp < (s.repNext p).2.2.1) →
      exec .replayInputApply s = .next s)

/-- R408, R410, R412, R418: what a link's events do: a failed flit is replayed, a failed replay of it is counted, the eighth retrains, a completed retraining
brings the link up, and a link that does not retrain is down, with the groups failed that a package without a port had arrived at or is awaited in; a
virtual channel stops and goes; this core's request without an answer is sent again and then fails; an answer is forgotten after 100 microseconds
(the operand of ANSWERED_TAG_EXPIRY: log 76, DESIGN CHOICE). -/
def Sys2Proof.Claims.LinksAndRequestsMove : Prop :=
  ∀ (s : State) (port tag : Nat) (vc : BitVec 3), port < 18 →
    let l := linkOf s port
    (l.state = .up → ∃ t, exec (.flitCrcFailure port) s = .next t ∧
      LinkNow s t port (if l.again = true then { l with fails := l.fails + 1 } else { l with again := true, fails := 0 })) ∧
    (l.state = .up → 8 ≤ l.fails → ∃ t, exec (.linkRetrain port) s = .next t ∧ LinkNow s t port { l with state := .retraining }) ∧
    (l.state = .retraining →
      (s.inReset (Config.cfgPort port) = false →
        ∃ t, exec (.linkRetrainComplete port) s = .next t ∧ LinkNow s t port { l with state := .up, again := false, fails := 0 } ∧
          t.pkg.portUp.getLsbD port = true) ∧
      (NoQueues s →
        ∃ t, exec (.portDown port) s = .next t ∧ LinkNow s t port { l with state := .down } ∧ t.pkg.portUp.getLsbD port = false ∧
          ((∀ q < 18, q ≠ port → s.pkg.portUp.getLsbD q = false) →
            ∀ f ∈ s.pkg.fabs, s.pkg.pkgId ∈ f.who ∨ f.group ∈ s.ownGroups → { f with fail := true } ∈ t.pkg.fabs))) ∧
    (vc.toNat < 5 → ∀ stop, ∃ t, exec (.stopGoFlowControl port vc stop) s = .next t ∧ (linkOf t port).state = l.state ∧
      ∀ i < 5, (linkOf t port).stop.getLsbD i = if i = vc.toNat then stop else l.stop.getLsbD i) ∧
    (tag ≠ s.pkg.tag → exec (.requestTimeout tag) s = .next s) ∧
    (tag = s.pkg.tag →
      ((∀ r ∈ s.pkg.reqs, r.tag ≠ tag) → exec (.requestTimeout tag) s = .next (s.setPkg { s.pkg with reqs := [⟨tag, 1, s.tstamp⟩] })) ∧
      (∀ r, (s.pkg.reqs.find? fun r => r.tag == tag) = some r →
        (s.tstamp < r.at_ + 20000 → exec (.requestTimeout tag) s = .next s) ∧
        (r.at_ + 20000 ≤ s.tstamp →
          ∃ t, exec (.requestTimeout tag) s = .next t ∧ t.reqLost = true ∧ t.remoteBad = s.remoteBad ∧ t.core = s.core ∧ t.mem = s.mem))) ∧
    (∃ t, exec (.answeredTagExpiry tag) s = .next t ∧ t.core = s.core ∧ t.mem = s.mem ∧
      ∀ a, a ∈ t.pkg.answered ↔ a ∈ s.pkg.answered ∧ ¬(a.pkg = BitVec.ofNat 8 tag ∧ a.tag = tag / 256 ∧ a.at_ + 100000 ≤ s.tstamp))

/-- R415, R416: a merged reduction is forwarded and applied at its home as one event in its format, to an address that no replay, no flip and no lease holds; a lost
contribution gives its contributor cause 0x15 with its address, pending where it may not be taken now. -/
def Sys2Proof.Claims.ReductionsReachTheirHome : Prop :=
  ∀ (s : State) (i : Nat) (c : Contribution), s.pkg.red[i]? = some c →
    (∃ t, exec (.reductionHoldExpiry i) s = .next t ∧ t.pkg.red[i]? = some { c with sent := true } ∧ t.pkg.red.length = s.pkg.red.length ∧
      t.core = s.core ∧ t.mem = s.mem) ∧
    (c.sent = true → Plain s → s.inFlip c.pa = false → s.leased c.pa = false → Unpoisoned s c.pa (fmtSize c.fmt.toNat) → s.Inv →
      let n := fmtSize c.fmt.toNat
      let u := ahead s c.pa n
      ∃ t, exec (.reductionHomeApply i) s = .next t ∧ t.pkg.red = s.pkg.red.eraseIdx i ∧
        Wrote u t c.pa (leBytes n (redApply c.op c.fmt.toNat (u.rdNat c.pa n) (c.bits.toNat % 2 ^ (8 * n))).bits)) ∧
    (c.own ≠ 0 → s.sup = true → NoQueues s →
      ∃ t, exec (.contributionLost i) s = .next t ∧ t.pkg.red = s.pkg.red.eraseIdx i ∧
        t.core.trap = { s.core.trap with pend := s.core.trap.pend ||| 0x20, kept := vset s.core.trap.kept 5 c.va }) ∧
    (c.own = 0 → exec (.contributionLost i) s = .next (s.setPkg { s.pkg with red := s.pkg.red.eraseIdx i }))

/-- R294, R417 to R419: the last arrival of a fabric group completes its phase, any other is counted, one sent again counts once, and one at a group with
no members fails it; a completion brings a phase to the package that arrived in it; a failed group is told to a core asleep at it, with cause 0x15
and TVAL 0; a counter on a plane that is not up at every package moves, and its group fails with no such plane (log 57, DEDUCED). -/
def Sys2Proof.Claims.FabricBarriersAdvance : Prop :=
  ∀ (s : State) (pkg : BitVec 8) (group : BitVec 12),
    let f := s.fab group
    (pkg = s.pkg.pkgId → s.fabStopped pkg group = true → exec (.fabricBarrierArrival pkg group) s = .next (s.again (.env (.fabSend group)))) ∧
    (s.fabStopped pkg group = false → f.fail = true ∨ pkg ∈ f.who ∨ (pkg = s.pkg.pkgId ∧ f.due = true) →
      exec (.fabricBarrierArrival pkg group) s = .next s) ∧
    (s.fabStopped pkg group = false → f.fail = false → pkg ∉ f.who → (pkg = s.pkg.pkgId → f.due = false) →
      (f.members = 0 → exec (.fabricBarrierArrival pkg group) s = .next (s.setFab { f with fail := true })) ∧
      (f.members ≠ 0 → f.count + 1 = f.members →
        exec (.fabricBarrierArrival pkg group) s = .next (s.setFab { f with
          count := 0, phase := f.phase + 1, who := [], due := f.due || (pkg :: f.who).contains s.pkg.pkgId })) ∧
      (f.members ≠ 0 → f.count + 1 ≠ f.members →
        exec (.fabricBarrierArrival pkg group) s = .next (s.setFab { f with count := f.count + 1, who := pkg :: f.who }))) ∧
    (f.due = true → ∃ t, exec (.fabricCompletionArrives group) s = .next t ∧ (t.barCtr 3 group).phase = (s.barCtr 3 group).phase + 1 ∧
      t.fab group = { f with due := false } ∧ t.core = s.core ∧ t.mem = s.mem) ∧
    (f.due = false → exec (.fabricCompletionArrives group) s = .next s) ∧
    (f.fail = true → Asleep3 s group → s.asyncNow = true → NoQueues s →
      ∃ t, exec (.barrierGroupFailureArrives group) s = .next t ∧ TrapTaken s t .c 0x15 0 0 s.core.c.pc) ∧
    (s.planeUp f.plane = true → exec (.groupCounterMove group) s = .next s) ∧
    (s.planeUp f.plane = false → (∀ n ∈ s.planes, (s.link n).stop.getLsbD 4 = false) →
      ((∀ n < 18, s.planeUp n = false) → exec (.groupCounterMove group) s = .next (s.setFab { f with fail := true })) ∧
      (∀ n < 18, n ≠ group.toNat % 18 → (∀ m < 18, s.planeUp m = true ↔ m = n) →
        exec (.groupCounterMove group) s = .next (s.setFab { f with plane := n })))

/-- R421: an Ethernet port that goes down is down, and its queue pairs send nothing; a congestion notification reduces its queue pair's rate (its operand:
log 76, DESIGN CHOICE), and a pause stops its priority alone until it is released. -/
def Sys2Proof.Claims.EthernetPortsReact : Prop :=
  ∀ (s : State) (port prio : BitVec 3) (qp : Nat),
    (s.pkg.eth.getLsbD port.toNat = true → NoQueues s →
      ∃ t, exec (.ethLinkDown port) s = .next t ∧ t.pkg.eth.getLsbD port.toNat = false ∧
        (∀ q : BitVec 3, q ≠ port → t.pkg.eth.getLsbD q.toNat = s.pkg.eth.getLsbD q.toNat) ∧ (∀ x, x.port = port → t.qpHeld x = true) ∧ t.mem = s.mem) ∧
    (∃ t, exec (.congestionNotificationPacket qp) s = .next t ∧ t.core = s.core ∧ t.mem = s.mem ∧
      ∀ (i : Nat) (x : QueuePair), s.pkg.qps[i]? = some x →
        t.pkg.qps[i]? = some (if x.part.toNat * 4096 + x.num = qp then { x with rate := x.rate + 1 } else x)) ∧
    (∀ pause, ∃ t, exec (.priorityFlowControlPause port prio pause) s = .next t ∧ ((port, prio) ∈ t.pkg.ethPause ↔ pause = true) ∧
      (∀ x, x ≠ (port, prio) → (x ∈ t.pkg.ethPause ↔ x ∈ s.pkg.ethPause)) ∧
      (pause = true → ∀ x, x.port = port → x.prio = prio → t.qpHeld x = true) ∧ t.core = s.core ∧ t.mem = s.mem)

namespace Sys2Proof.Claims

open Sys2Proof.Machine

/-- chxdbg has shown one more list, and nothing else has changed. -/
def Shown (s t : State) (l : List Nat) : Prop := t = s.setDbg { s.core.dbg with shown := l :: s.core.dbg.shown }

/-- chxdbg has shown trace lines, the first first, and nothing else has changed. -/
def ShownLines (s t : State) (ls : List TraceLine) : Prop :=
  t = s.setDbg { s.core.dbg with
    shown := (ls.map fun x => x.time :: x.what.length :: (x.what.toList.map Char.toNat ++ x.args)).reverse ++ s.core.dbg.shown }

/-- What chxdbg shows of a leaf: its address, the logarithm of its size, its physical address, and the stack, the channel and the first and the last row
of it (R328, R354). -/
def leafShown (va log pa : Nat) : List Nat :=
  [va, log, pa, pa / 2 ^ 36 % 16, pa / 2 ^ 31 % 32, pa / 2 ^ 16 % 2 ^ 15, (pa + 2 ^ log - 1) / 2 ^ 16 % 2 ^ 15]

end Sys2Proof.Claims

/-- R272 to R274, R300, R303, R304: chxdbg sets a stop on a cut bundle and refuses any other, injects cycles, launches a step in a free slot and is refused
without one, continues a stopped core, has one strand of it issue, and has its engines publish; a sampling marker is placed where a selected
strand stands. -/
def Obligations.DebuggerRunsTheCore : Prop :=
  ∀ s : State,
    (∀ va iter p v pa, s.ctxPa p v va = some pa →
      (va.toNat % 16 = 0 → (s.rd8 (pa + 15)).getLsbD 7 = true →
        exec (.breakCut va iter (some s.corenum.toNat) (some (p, v))) s =
          .next (s.setDbg { s.core.dbg with bps := s.core.dbg.bps ++ [⟨va, iter, p, v⟩] })) ∧
      (va.toNat % 16 ≠ 0 ∨ (s.rd8 (pa + 15)).getLsbD 7 = false →
        ∃ t, exec (.breakCut va iter none (some (p, v))) s = .next t ∧ Shown s t [0xffff, va.toNat])) ∧
    (∀ name n, ∃ t, exec (.inject name n) s = .next t ∧ t = s.setDbg { s.core.dbg with inject := t.core.dbg.inject } ∧
      ∀ x, (t.core.dbg.inject.find? (·.1 == x)).map (·.2) = if x = name then some n else (s.core.dbg.inject.find? (·.1 == x)).map (·.2)) ∧
    (∀ template k p v raw, s.ctxBytes p v template 128 = some raw →
      (s.core.ctx.slots.length < 2 → s.siteDrained = false →
        ∃ t l, exec (.launch template k s.corenum.toNat (some p) v) s = .next t ∧ t = s.setCtx { s.core.ctx with slots := s.core.ctx.slots ++ [l] } ∧
          l.part = p ∧ l.vf = v ∧ l.stage = .staging ∧ l.id.queue = none ∧ l.cast.pcs = (CastOn.ofBytes raw).pcs ∧
          ∀ i < 6, vget l.cast.k i 0 = k.getD i 0) ∧
      (2 ≤ s.core.ctx.slots.length →
        ∃ t, exec (.launch template k s.corenum.toNat (some p) v) s = .next t ∧ Shown s t [0xffff, template.toNat])) ∧
    exec .continueRun s = .next (s.setDbg { s.core.dbg with stopped := false }) ∧
    (∀ k, s.core.dbg.stopped = true →
      ∃ t, exec (.stepStrand k) s = .next t ∧ t.nextTurn.2 = .issue k ∧ t.core = s.core ∧ t.mem = s.mem) ∧
    (∀ c, s.core.dbg.stopped = true → s.core.eng.copy = [c] → s.core.eng.gather = [] → s.core.eng.nextPublish = some c → c.started = true →
      c.done = false → c.extra = 0 → (s.mayPublish fun d => d.seq == c.seq) = true → ∃ t, exec .stepPublish s = .next t ∧ exec .enginePublish s = .next t ∧ t.core.eng.copy = []) ∧
    (∀ k, k ≠ .v → s.stepOn = true → s.core.dbg.smpMask.getLsbD (strandCode k).toNat = true → s.core.dbg.marker = none → s.smpSoon = false →
      ∃ t m, exec (.stitchMarkerPlaced k) s = .next t ∧ t = s.setDbg { s.core.dbg with marker := some m, smpFrom := s.smpUnits } ∧ m.strand = k ∧ m.pc = s.pcOf k ∧
        m.stage = 0)

/-- R287, R306, R321, R354, R391: chxdbg allocates a zeroed page where none is mapped and is refused where one is, shares a page of another function, maps
and fills a section that fits its pages and drops the core's translations (one that does not fit is refused), submits a block as tsub does, which waits while its ring is full, stores a dword as the host does, and reads bytes. -/
def Obligations.DebuggerMapsAndAccesses : Prop :=
  ∀ (s : State) (p : BitVec 3) (v : BitVec 2) (va : Word64), va.toNat % 65536 = 0 →
    (s.leafNow p v va.toNat = none →
      (∀ pa, pa % 65536 = 0 → s.region pa = .hbm → pa < 2 ^ 51 → s.ownsAll p pa 65536 = true →
        ∃ u t : State, exec (.alloc va 65536 pa (some p) v) s = .next t ∧ u.core = { s.core with l1 := u.core.l1 } ∧ u.pkg = s.pkg ∧
          (∀ x ∈ u.mem.l2, ∀ i < 65536, x.line ≠ (pa + i) / 128) ∧
          (s.Inv → ∀ i < 65536, u.norm (pa + i) = pa + i → u.rd8 (pa + i) = 0) ∧ Shown (u.mapLeaf p v va.toNat pa 16 permRw) t (leafShown va.toNat 16 pa)) ∧
      (∀ va2 v2 log e, va2.toNat % 65536 = 0 → s.leafNow p v2 va2.toNat = some (log, e) →
        let pa := entryAddr e / 2 ^ log * 2 ^ log + va2.toNat % 2 ^ log
        ∃ t, exec (.allocShare va 65536 p v va2 v2) s = .next t ∧ Shown (s.mapLeaf p v va.toNat pa 16 permRw) t (leafShown va.toNat 16 pa))) ∧
    (∀ log e, s.leafNow p v va.toNat = some (log, e) →
      ∀ pa va2 v2, ∃ t, exec (.alloc va 65536 pa (some p) v) s = .next t ∧ exec (.allocShare va 65536 p v va2 v2) s = .next t ∧
        Shown s t [0xffff, va.toNat]) ∧
    (∀ pa kind bs e, bs.length ≤ 65536 → s.sectionFits p (va, pa, kind, bs) = true →
      let u := s.mapSection p v va.toNat pa (permOf kind) bs.length
      (∀ i < bs.length, u.leafNow p v (va.toNat + i) = some (16, e)) →
      ∃ t, exec (.load [(va, pa, kind, bs)] (some p) v) s = .next t ∧ t.core.mmu = ⟨[], []⟩ ∧
        t.mem = (u.memWrite ((List.range bs.length).map fun i => (entryAddr e / 65536 * 65536 + i, bs.getD i 0)) none false false).mem) ∧
    (∀ pa kind bs, s.sectionFits p (va, pa, kind, bs) = false →
      ∃ t, exec (.load [(va, pa, kind, bs)] (some p) v) s = .next t ∧ Shown s t [0xffff, va.toNat]) ∧
    (∀ q, (s.part p).mayUse v q = true →
      (∀ t, s.append p v ((s.part p).queue q) va = some t → exec (.submit va q (some p) v) s = .next t) ∧
      (s.append p v ((s.part p).queue q) va = none →
        exec (.submit va q (some p) v) s = .next (s.again (.env (.submitted va q p v))))) ∧
    (∀ value pa, s.Inv → Plain s → NoRowStep s → s.ctxPa p v va = some pa → Reaches s pa 8 → Unpoisoned s pa 8 →
      ∃ t, exec (.pokeW va value p v) s = .next t ∧ Wrote s t pa (leBytes 8 value.toNat) ∧ MemoryOnly s t) ∧
    (∀ len pa, (∀ i < len, s.ctxPa p v (va + BitVec.ofNat 64 i) = some (pa + i)) →
      ∃ t, exec (.peekX va len (some p) v) s = .next t ∧ Shown s t ((List.range len).map fun i => (s.rd8 (pa + i)).toNat))

/-- R355, R393, R406, R407: the traces are switched on, and what they hold, the near-bank records, the energies and the droop registers are shown. -/
def Sys2Proof.Claims.DebuggerTracesAndPrints : Prop :=
  ∀ (s : State) (p : BitVec 3) (q : BitVec 6) (i : BitVec 3) (lo hi : Nat),
    let me := s.corenum.toNat
    let d := s.core.dbg
    let here := s.pkg.die.toNat * 32 + s.pkg.site.toNat
    exec (.traceNb me) s = .next (s.setDbg { d with traceNb := true, nbLast := (s.nbRead 0 6).toNat }) ∧
    exec (.traceDroop me) s = .next (s.setDbg { d with traceDr := true }) ∧
    exec (.traceSwitch p me) s = .next (s.setDbg { d with traceSw := some (p, me) }) ∧
    exec (.traceIrq p) s = .next (s.setDbg { d with traceIrq := some p }) ∧
    (∃ t, exec (.printTraceNb lo hi) s = .next t ∧ ShownLines s t (d.nbLines.filter fun l => decide (lo ≤ l.time ∧ l.time ≤ hi))) ∧
    (∃ t, exec (.printTraceDroop lo hi) s = .next t ∧ ShownLines s t (d.drLines.filter fun l => decide (lo ≤ l.time ∧ l.time ≤ hi))) ∧
    (∃ t, exec (.printTrace true) s = .next t ∧ ShownLines s t d.irqLines) ∧
    (∃ t, exec (.printTrace false) s = .next t ∧ ShownLines s t d.swLines) ∧
    (∃ t, exec (.printNbRecord i) s = .next t ∧ Shown s t ((List.range 5).map fun k => (s.nbRead i.toNat (BitVec.ofNat 3 k)).toNat)) ∧
    (∃ t, exec (.printDroop here) s = .next t ∧
      Shown s t [s.core.csr.drLevel.toNat + 32768 * s.core.csr.drMt.toNat, s.pkg.droops.toNat]) ∧
    (∃ t, exec (.printEnergy p q) s = .next t ∧ Shown s t [s.time / 33, ((s.part p).queue q).energy.toNat, (s.part p).idleEnergy.toNat]) ∧
    (∀ value, exec (.setDroopth here value) s =
      .next (s.setCsr { s.core.csr with drLevel := value.extractLsb' 0 10, drMt := value.getLsbD 15 }))

/-- R375 to R377, R392, R393: chxdbg writes the selectors and counters of a virtual function, the live copy while it is resident and the saved one
otherwise, the counters of the fabric class excepted, and shows them, those of the fabric class as 0. -/
def Sys2Proof.Claims.DebuggerReadsAndWritesCounters : Prop :=
  ∀ (s : State) (p : BitVec 3) (v : BitVec 2) (vals : List Word64), s.sitePart = some p →
    let k := s.countersOf p v
    (k = if (s.part p).resident = v then s.core.perf else ((s.part p).vf v).perf.getD Counters.zero) ∧
    (∃ t, exec (.setCsel p v vals) s = .next t ∧ t.mem = s.mem ∧ t.core.c = s.core.c ∧ (t.countersOf p v).cnt = k.cnt ∧
      (∀ w, w ≠ v → t.countersOf p w = s.countersOf p w) ∧
      ∀ i < 32, vget (t.countersOf p v).csel i 0 = (match vals[i]? with | some x => x.extractLsb' 0 10 | none => vget k.csel i 0)) ∧
    (∃ t, exec (.setCnt p v vals) s = .next t ∧ t.mem = s.mem ∧ t.core.c = s.core.c ∧ (t.countersOf p v).csel = k.csel ∧
      (∀ w, w ≠ v → t.countersOf p w = s.countersOf p w) ∧
      ∀ i < 32, vget (t.countersOf p v).cnt i 0 =
        (match vals[i]? with | some x => if fabricEvent (vget k.csel i 0) = true then vget k.cnt i 0 else x.extractLsb' 0 48 | none => vget k.cnt i 0)) ∧
    (∃ t, exec (.printCnt p v) s = .next t ∧
      Shown s t (((List.range 4).map fun i => if fabricEvent (vget k.csel i 0) = true then 0 else (vget k.cnt i 0).toNat) ++
        [k.ovf.toNat, if (s.part p).resident = v then 1 else 0]))

namespace Sys2Proof.Claims

open Sys2Proof.Machine

/-- The step of `s` is strand `k`'s, `b` is the machine with the turn taken, and nothing comes before the strand's next unit: its turn stands
first in the agenda; or it is its turn in the rotation, which notes that it has looked (R31), and it waits for nothing (log 2, DESIGN CHOICE). -/
def Issues (s b : State) (k : Strand) : Prop :=
  b.permitted = true ∧
  ((∃ rest, s.agenda = .issue k :: rest ∧ b = { s with agenda := rest } ∧ b.mayIssue k = true) ∨
   ((∃ b0, s.nextTurn = (b0, .strand k) ∧ b = b0.looks k) ∧ b.core.dbg.stopped = false ∧
    match k with
    | .c => b.core.trap.wait = none ∧ (b.asyncNow = false ∨ b.core.trap.pend = 0) ∧ (b.stepOn = true ∨ b.sup = true) ∧ b.dogFull = false ∧
        b.core.c.run = .ready
    | .l => b.stepOn = true ∧ b.heldBack .l = false ∧ b.core.l.ended = false ∧ (∀ r rest, b.core.l.pend = r :: rest → r.data = false)
    | .s => b.stepOn = true ∧ b.heldBack .s = false ∧ b.core.s.ended = false ∧ (∀ r rest, b.core.s.pend = r :: rest → r.data = false)
    | .v => b.stepOn = true ∧ b.heldBack .v = false ∧ b.core.v.ended = false ∧ b.core.v.stretch = none ∧ b.core.v.drain = false ∧
        b.core.v.halted = false))

/-- C's words that only write a register: those of R96, R98, R99 and R100. -/
def registerWords (xd xa xb : XReg) (imm : BitVec 15) (sh : BitVec 5) : List Instr :=
  regWords.map (fun e => e.2.2.1 xd xa xb) ++ unaryWords.map (fun e => e.2.1 xd xa) ++ immWords.map (fun e => e.2.1 xd xa imm) ++
    [.addx xd xa xb sh, .lea xd imm]

/-- The accesses of C, with the bytes, the page-fault cause, the permissions, the sources and the destination of each, at the address in `xa` and
`off`, which an atomic has none of (R101, R102, R105, R106). -/
def accessWords (xd xa xb xc : XReg) (off : BitVec 12) : List (Instr × Nat × BitVec 8 × Need × List XReg × XReg) :=
  loadWords.map (fun e => (e.2.1 xd xa off, e.2.2.1, 0x06, .rd, [xa], xd)) ++
    storeWords.map (fun e => (e.2.1 xd xa off, e.2.2, 0x07, .wr, [xa, xd], 0)) ++
    (if off = 0 then
      amo64Words.map (fun e => (e.2 xd xa xb xc, 8, 0x07, .rdwr, [xa, xb, xc], xd)) ++
        amo32Words.map (fun e => (e.2 xd xa xb xc, 4, 0x07, .rdwr, [xa, xb, xc], xd)) ++
        [(.amoFaddF32 xd xa xb, 4, 0x07, .rdwr, [xa, xb, 0], xd), (.amoFaddBf16 xd xa xb, 2, 0x07, .rdwr, [xa, xb, 0], xd)]
    else [])

end Sys2Proof.Claims

/-- R47 to R51, R64: for every well-formed C word, at every value of its operands, decoding its encoding gives it back. -/
def Obligations.EncodedCWordsDecodeBack : Prop :=
  ∀ (i : Instr) (w : Word32), i.wf = true → encode i = some (.c w) → decode (.c w) = .ok i

/-- R52 to R54, R64: for every well-formed word of L or S, at every value of its operands, decoding its encoding gives it back. -/
def Obligations.EncodedDataWordsDecodeBack : Prop :=
  ∀ (i : Instr) (k : LS) (w : Word64), i.wf = true → encode i = some (.ls k w) → decode (.ls k w) = .ok i

/-- R55 to R61, R64, R83: for every well-formed bundle, and every slot instruction as the bundle that names only it, at every value of its operands,
decoding its encoding gives it back. -/
def Obligations.EncodedBundlesDecodeBack : Prop :=
  ∀ (i : Instr) (w : Word128), i.wf = true → encode i = some (.v w) → decode (.v w) = .ok i

/-- R48, R49, R51, R64: what decodes is well formed and encodes to the very unit it was read from, so that no bit of a unit is passed over and no two
units decode to one instruction. -/
def Sys2Proof.Claims.DecodedUnitsEncodeBack : Prop :=
  ∀ (u : Enc) (i : Instr), decode u = .ok i → i.wf = true ∧ encode i = some u

/-- R2, R324 (log 8, DESIGN CHOICE): every step of the machine keeps memory in its one canonical form. -/
def Obligations.EveryStepKeepsMemoryCanonical : Prop :=
  ∀ s t : State, s.Inv → step s = .next t → t.Inv

/-- R6, R34, R37, R226, R332, R335, R352, R356, R359, R366, R371, R397, R401 to R403: what package reset leaves, of what the spec gives a value for. -/
def Obligations.ResetHoldsTheStatedValues : Prop :=
  let s := State.reset
  s.Inv ∧ s.tstamp = 0 ∧
  (s.core.trap.cause = 0 ∧ s.core.trap.strand = 0 ∧ s.core.trap.pm = false ∧ s.core.trap.mode = false ∧ s.core.trap.frz = false ∧
    s.core.trap.pend = 0 ∧ s.core.trap.tepc = 0 ∧ s.core.trap.tfpc = 0 ∧ s.core.trap.tval = 0 ∧ s.core.trap.tvec = 0) ∧
  (∀ g : Fin 8, (s.core.lanes.get g).on = false) ∧ (s.core.csr.drLevel = 40 ∧ s.core.csr.drMt = false ∧ s.core.csr.permit = 16) ∧
  (s.pkg.pkgCap = 2400 ∧ s.pkg.droops = 0 ∧ ∀ d : Fin 4, s.pkg.overflow.get d = 64 * 2 ^ 20) ∧
  (∀ x ∈ s.pkg.hbm, x.mgth = 512 ∧ x.force = false ∧ x.pol = false ∧ ∀ p : Fin 8, x.psel.get p = 512) ∧
  (∀ d : Fin 4, (s.pkg.shsize.get d).toNat * 64 = 256) ∧
  (∀ p : BitVec 3, (s.part p).en = false ∧ (s.part p).quant = 100 ∧ (s.part p).ptrDie = 63 ∧ (s.part p).ptrCl = 63 ∧ (s.part p).tmo = 100 ∧
    (s.part p).fqEn = false ∧ (s.part p).cap = 0 ∧ (s.part p).pmin = 4 ∧ (s.part p).repMode = 0)

/-- A step whose turn brings a strand's unit to issue runs the instruction that the bytes at the strand's PC decode to, and then ends its turn: bytes
fetched now, or the bytes that L, V or S hold, or C has fetched ahead (R45, R46, R119). A unit fetched by L, V or S stays held. -/
def Obligations.StepRunsTheDecodedInstruction : Prop :=
  ∀ (s b : State) (k : Strand) (i : Instr), Issues s b k →
    (∀ bytes, (b.heldOf k).find? (fun h => h.1 == b.pcOf k) = some (b.pcOf k, bytes) → decode (unitOf k bytes) = .ok i →
      step s = turnOf (exec i b)) ∧
    (∀ pa, (b.heldOf k).find? (fun h => h.1 == b.pcOf k) = none →
      let u := b.fetchFill k (b.pcOf k)
      let bytes := u.rdBytes pa (unitBytes k)
      u.xlate (u.fetchWho k) (b.pcOf k) .ex = .ok pa → u.waitsAt true pa = false → decode (unitOf k bytes) = .ok i →
        step s = turnOf (exec i (if k = .c then u else u.setHeld k ((b.pcOf k, bytes) :: u.heldOf k))))

/-- The encodings that the spec writes out: the worked sequences of R100 and R121 and the example after R378. -/
def Sys2Proof.Claims.TheSpecsOwnWordsDecode : Prop :=
  decode (.c 0x20500100) = .ok (.addi 5 0 256) ∧ decode (.c 0x34529000) = .ok (.ldhi 5 5 0x1000) ∧
  decode (.c 0x6062a008) = .ok (.ldI32 6 5 8) ∧ decode (.c 0x21830000) = .ok (.addi 24 6 0) ∧ decode (.c 0x2fb30000) = .ok (.slti 27 6 0) ∧
  decode (.c 0x9002c810) = .ok (.amoAddI32 0 5 18) ∧ decode (.c 0xfa000003) = .ok .endC ∧ decode (.c 0xf8500800) = .ok (.csrr 5 0x800) ∧
  decode (.c 0xf8031840) = .ok (.csrw 0 6 0x840) ∧ decode (.c 0x1e000000) = .ok (.nop 0)

/-- R121: chxas's nop is 0x1e00_0000; every C word of major 0x0f is nop, and executes reading no register, popping no queue and pushing nothing, whatever
its fields name. -/
def Obligations.EveryHintWordIsANop : Prop :=
  encode (.nop 0) = some (.c 0x1e000000) ∧
  (∀ w : Word32, w.extractLsb' 25 7 = 0x0f → decode (.c w) = .ok (.nop (w.extractLsb' 0 25))) ∧
  ∀ (payload : BitVec 25) (s : State), s.Quiet →
    ∃ t, exec (.nop payload) s = .next t ∧ Retired s t [] 0 0 (s.core.c.pc + 4) ∧ t.core.q = s.core.q ∧ t.core.c.regs = s.core.c.regs ∧
      ∀ a, t.rd8 a = s.rd8 a

/-- R16, R14, R29: in task mode x0 reads zero, x24 to x27 read zero and pop nothing, x28 and x29 read and pop the heads of QVC and of the completion queue,
a write to x24, x25, x26 or x27 is the entry its queue takes last, one to x28 or x29 is discarded, and x30 takes the link of jal; a word with a
port that is empty or full holds. In supervisor mode x24 to x29 are registers of their own, and no queue moves. -/
def Obligations.RegistersAndPorts : Prop :=
  ∀ (xd xa xb : XReg) (s : State), s.Quiet →
    (s.xRead 0 = 0) ∧
    (s.sup = false →
      (∀ r : XReg, 24 ≤ r.toNat → r.toNat ≤ 27 → s.xRead r = 0) ∧
      (s.xRead 28 = s.core.q.qvc.headD 0) ∧ (s.xRead 29 = s.core.q.ecq.headD 0) ∧
      (∀ t, s.cReady [xa, xb] xd = true → exec (.add xd xa xb) s = .next t →
        let v := s.xRead xa + s.xRead xb
        t.core.q.qcl = (if xd = 24 then s.core.q.qcl ++ [v] else s.core.q.qcl) ∧
        t.core.q.qcv = (if xd = 25 then s.core.q.qcv ++ [v] else s.core.q.qcv) ∧
        t.core.q.qcs = (if xd = 26 then s.core.q.qcs ++ [v] else s.core.q.qcs) ∧
        t.core.q.qbr = (if xd = 27 then s.core.q.qbr ++ [v.extractLsb' 0 8] else s.core.q.qbr) ∧
        t.core.q.qvc = (if 28 ∈ [xa, xb] then s.core.q.qvc.tail else s.core.q.qvc) ∧
        t.core.q.ecq = (if 29 ∈ [xa, xb] then s.core.q.ecq.tail else s.core.q.ecq) ∧
        t.core.q.tok = s.core.q.tok ∧ t.core.q.sub = s.core.q.sub ∧
        (xd.toNat < 24 ∨ 29 < xd.toNat → t.core.c.regs = if xd = 0 then s.core.c.regs else s.core.c.regs.set xd.toNat v xd.isLt) ∧
        (24 ≤ xd.toNat → xd.toNat ≤ 29 → t.core.c.regs = s.core.c.regs)) ∧
      ((28 ∈ [xa, xb] ∧ s.core.q.qvc = []) ∨ (29 ∈ [xa, xb] ∧ s.core.q.ecq = []) ∨ (xd = 24 ∧ 16 ≤ s.core.q.qcl.length) ∨
          (xd = 25 ∧ 16 ≤ s.core.q.qcv.length) ∨ (xd = 26 ∧ 16 ≤ s.core.q.qcs.length) ∨ (xd = 27 ∧ 32 ≤ s.core.q.qbr.length) →
        exec (.add xd xa xb) s = .next (s.setC { s.core.c with blocked := true })) ∧
      (∀ off t, exec (.jal off) s = .next t → t.core.c.regs = s.core.c.regs.set 30 (s.core.c.pc + 4) (by decide))) ∧
    (s.sup = true →
      ∃ t, exec (.add xd xa xb) s = .next t ∧ t.core.q = s.core.q ∧
        (24 ≤ xd.toNat → xd.toNat ≤ 29 →
          t.core.c.regs = s.core.c.regs ∧ t.xRead xd = s.xRead xa + s.xRead xb ∧ ∀ r : XReg, r ≠ xd → t.xRead r = s.xRead r))

/-- The frame of C's register words (R93 to R100), whatever they meet: no memory but the pending store that a port push places, no strand but C, no register but
xd, and no trap, special, stream, engine or pool state changes. -/
def Obligations.RegisterWordsKeepTheRest : Prop :=
  ∀ (xd xa xb : XReg) (imm : BitVec 15) (sh : BitVec 5) (s t : State), s.Quiet →
    ∀ i ∈ registerWords xd xa xb imm sh, exec i s = .next t →
      ((∀ a, t.rd8 a = s.rd8 a) ∨ (24 ≤ xd.toNat ∧ xd.toNat ≤ 27 ∧ s.sup = false ∧ ∀ a, t.rd8 a = s.flushStore.rd8 a)) ∧
      t.core.l = s.core.l ∧ t.core.v = s.core.v ∧ t.core.s = s.core.s ∧ t.core.csr = s.core.csr ∧ t.core.pool = s.core.pool ∧
      t.core.str = s.core.str ∧ t.core.arr = s.core.arr ∧ t.core.eng = s.core.eng ∧ t.core.mig = s.core.mig ∧ t.core.mmu = s.core.mmu ∧
      t.core.ten = s.core.ten ∧ t.core.nb = s.core.nb ∧ t.core.fpc = s.core.fpc ∧ t.core.lanes = s.core.lanes ∧
      t.core.trap = { s.core.trap with dog := t.core.trap.dog, moved := t.core.trap.moved } ∧
      (∀ r : Fin 32, r.val ≠ xd.toNat → t.core.c.regs.get r = s.core.c.regs.get r)

/-- R102, R105, R106, R30, R31: in task mode a C access that is misaligned raises cause 0x05, and one that fails raises its cause, with the TVAL of the
table and no effect (of a remote atomic, which R106 leaves open: log 68, DESIGN CHOICE): at once, but for a page fault, which holds C until its freeze
(when it is not forwarded, R367). -/
def Obligations.FailingAccessesRaiseTheirCause : Prop :=
  ∀ (xd xa xb xc : XReg) (off : BitVec 12) (s : State), s.sup = false → s.core.trap.wait = none →
    ∀ e ∈ accessWords xd xa xb xc off, s.cReady e.2.2.2.2.1 e.2.2.2.2.2 = true →
      let ea := s.xRead xa + off.signExtend 64
      let u := s.cEvent ea
      (ea.toNat % e.2.1 ≠ 0 → ∃ t, exec e.1 s = .next t ∧ TrapTaken s t .c 0x05 s.core.c.pc ea s.core.c.pc) ∧
      (ea.toNat % e.2.1 = 0 →
        (u.xlate u.whoC ea e.2.2.2.1 = .error .prot → ∃ t, exec e.1 s = .next t ∧ TrapTaken u t .c 0x0b s.core.c.pc ea s.core.c.pc) ∧
        (∀ row, u.xlate u.whoC ea e.2.2.2.1 = .error (.guard row) →
          ∃ t, exec e.1 s = .next t ∧ TrapTaken u t .c 0x0a s.core.c.pc (BitVec.ofNat 64 row) s.core.c.pc) ∧
        (∀ pa, u.xlate u.whoC ea e.2.2.2.1 = .error (.poison pa) →
          ∃ t, exec e.1 s = .next t ∧ TrapTaken u t .c 0x13 s.core.c.pc (BitVec.ofNat 64 pa) s.core.c.pc) ∧
        (s.stepOn = true → s.core.dbg.stopped = false → u.xlate u.whoC ea e.2.2.2.1 = .error .remote →
          ∃ t, exec e.1 s = .next t ∧ TrapTaken u.reqOver t .c 0x15 s.core.c.pc ea s.core.c.pc) ∧
        (u.forwards e.2.2.1 = false → u.xlate u.whoC ea e.2.2.2.1 = .error .noTrans →
          exec e.1 s = .next ((u.setC { u.core.c with blocked := true }).setTrap
            { u.core.trap with wait := some ⟨e.2.2.1, .c, s.core.c.pc, ea, 0, none, false, false⟩ })))

/-- R41, R116, R362, R364, R365: trap and bkpt in supervisor mode are double traps: the step is abandoned; a restartable one that has been abandoned fewer
than seven times goes back to a slot with its cast-on record (which slot: log 63, DESIGN CHOICE); the record of type 0x30 shows the new cause, its TFPC and TVAL, and the CAUSE of the
trap whose handler was running. -/
def Sys2Proof.Claims.DoubleTrapsAbandonTheStep : Prop :=
  ∀ (imm : BitVec 15) (code : BitVec 25) (s : State) (id : StepId) (cast : CastOn),
    s.sup = true → s.core.trap.noStep = .no → s.core.c.store = none → s.core.ctx.running = some id → s.core.ctx.cast = some cast → id.gang = false →
    ∀ e ∈ [(Instr.trap imm, (0x04 : BitVec 8), imm.setWidth 64), (.bkpt code, 0x03, (cj 0x7f code).setWidth 64)],
      ∃ t, exec e.1 s = .next t ∧ CoreLeft t ∧ t.core.trap.mode = false ∧
        (id.rst = true → id.abandons < 7 →
          (∃ l, t.core.ctx.slots = l :: s.core.ctx.slots ∧ l.id = { id with abandons := id.abandons + 1 } ∧ l.cast = cast ∧ l.stage = .staging) ∧
          (s.fqRoom s.core.ctx.part = true →
            ∃ r, (t.part s.core.ctx.part).posted = r :: (s.part s.core.ctx.part).posted ∧ r.type = 0x30 ∧ r.tfpc = s.core.c.pc ∧ r.tval = e.2.2 ∧
              r.aux = s.core.trap.cause.setWidth 32 ∧ r.tstat.extractLsb' 0 8 = e.2.1 ∧ r.tstat.extractLsb' 8 2 = 0 ∧
              r.tstat.getLsbD 11 = true ∧ r.tstat.getLsbD 10 = s.core.trap.pm) ∧
          (s.fqRoom s.core.ctx.part = false → (t.part s.core.ctx.part).posted = (s.part s.core.ctx.part).posted))

/-- R41, R42, R120, R362, R364, R365: end in supervisor mode gives up the step: a record of type 0x31 shows TSTAT, TFPC and TVAL, and a restartable step that
has been abandoned fewer than seven times goes back to a slot with its cast-on record (which slot: log 63, DESIGN CHOICE). With no step on the core, eret and
end in supervisor mode return it to the state between steps, and no record is posted. -/
def Sys2Proof.Claims.SupervisorEndAndReturnWithNoStep : Prop :=
  ∀ s : State, s.sup = true →
    (∀ (id : StepId) (cast : CastOn), s.core.trap.noStep = .no → s.core.c.store = none → s.core.ctx.running = some id →
      s.core.ctx.cast = some cast → id.gang = false →
      ∃ t, exec .endC s = .next t ∧ CoreLeft t ∧ t.core.trap.mode = false ∧
        (id.rst = true → id.abandons < 7 →
          (∃ l, t.core.ctx.slots = l :: s.core.ctx.slots ∧ l.id = { id with abandons := id.abandons + 1 } ∧ l.cast = cast ∧ l.stage = .staging) ∧
          (s.fqRoom s.core.ctx.part = true →
            ∃ r, (t.part s.core.ctx.part).posted = r :: (s.part s.core.ctx.part).posted ∧ r.type = 0x31 ∧ r.await = false ∧
              r.tstat = tstatWord s.core.trap ∧ r.tfpc = s.core.trap.tfpc ∧ r.tval = s.core.trap.tval) ∧
          (s.fqRoom s.core.ctx.part = false → (t.part s.core.ctx.part).posted = (s.part s.core.ctx.part).posted))) ∧
    (s.core.trap.noStep ≠ .no →
      (∃ t, exec .endC s = .next t ∧
        t.core.trap = { s.core.trap with mode := false, pm := false, frz := false, noStep := .no } ∧
        t.core.c = { s.flushStore.core.c with run := .ended, blocked := false } ∧ (∀ p, (t.part p).posted = (s.flushStore.part p).posted) ∧
        ∀ a, t.rd8 a = s.flushStore.rd8 a) ∧
      (s.Quiet → ∃ t, exec .eret s = .next t ∧
        t.core.trap = { s.core.trap with mode := false, pm := false, frz := false, noStep := .no, dog := 0, moved := 15 } ∧
        t.core.c = { s.core.c with run := .ended, blocked := false } ∧ t.core.q = s.core.q ∧
        (∀ p, (t.part p).posted = (s.part p).posted) ∧ ∀ a, t.rd8 a = s.rd8 a))

/-- R29, R30, R42: a C word in task mode that leaves the core in supervisor mode has C at TVEC: the mode rises only by a trap. -/
def Obligations.SupervisorModeIsEnteredAtTvec : Prop :=
  ∀ (i : Instr) (w : Word32) (s t : State), encode i = some (.c w) → s.sup = false → exec i s = .next t → t.sup = true →
    t.core.c.pc = t.core.trap.tvec ∧ t.core.trap.frz = true

namespace Sys2Proof.Claims

open Sys2Proof.Machine

/-- Integer results of the A and B slots (R214 to R218): element `i` of an operation that lands in a register, of the format's width, is the exact
value wrapped (mode 0) or saturated (mode 1), the smaller or larger element, the bits' function, or the mask of a comparison; no other byte of
the pool and no byte of memory changes. -/
def IntegerResultsLand : Prop :=
  ∀ (f : Flight) (s : State) (ln : Lane) (op : ABOp) (d a b c : OpCode) (mode : BitVec 2) (i : Nat),
    d.toNat < 24 → f.op = .ab ln ⟨op, d, a, b, c, mode⟩ → f.shape.f ∈ [3, 4, 5, 6] → i < f.shape.elems →
    let fmt := f.shape.f
    let w := 8 * fmtSize fmt
    let v := fun c => intVal fmt (f.elem c fmt i)
    let t := s.land f
    let got := t.poolNat (d.toNat * f.shape.capBytes + i * fmtSize fmt) (fmtSize fmt)
    (∀ e ∈ [(ABOp.vadd, v a + v b), (.vsub, v a - v b), (.vmul, v a * v b), (.vfma, v a * v b + v c), (.vfms, v a * v b - v c)], op = e.1 →
      (mode = 0 → (2 ^ w : Int) ∣ intVal fmt got - e.2) ∧
      (mode = 1 → intVal fmt got = max (intRange fmt).1 (min (intRange fmt).2 e.2))) ∧
    (∀ e ∈ [(ABOp.vmin, min (v a) (v b)), (.vmax, max (v a) (v b)), (.vclamp, min (max (v a) (v b)) (v c))], op = e.1 → mode = 0 →
      intVal fmt got = e.2) ∧
    (∀ e ∈ [(ABOp.vand, f.elem a fmt i &&& f.elem b fmt i), (.vor, f.elem a fmt i ||| f.elem b fmt i), (.vxor, f.elem a fmt i ^^^ f.elem b fmt i),
        (.vmov, f.elem a fmt i), (.vsel, if f.elem c fmt i = 0 then f.elem b fmt i else f.elem a fmt i)], op = e.1 → got = e.2 % 2 ^ w) ∧
    (op = .vcmp → mode = 0 → c.toNat = 0 → got = if v a = v b then 2 ^ w - 1 else 0) ∧
    (op = .vcmp → mode = 0 → c.toNat = 2 → got = if v a < v b then 2 ^ w - 1 else 0) ∧
    (∀ o, op ∉ [.vcvt, .vpack, .vunpk] → o < d.toNat * f.shape.capBytes ∨ d.toNat * f.shape.capBytes + f.shape.elems * fmtSize fmt ≤ o →
      t.poolByte o = s.poolByte o) ∧
    t.mem = s.mem

/-- The one rounding keeps every number that its format holds, with no count (R163 to R165, R178); a NaN becomes the canonical NaN. -/
def RoundingKeepsWhatAFormatHolds : Prop :=
  ∀ (f : FFmt) (rm : Rm) (b : Nat), f ∈ [f32, bf16, f16] → b < 2 ^ f.w →
    f.round rm (f.dec b) = ⟨if f.dec b = .nan then f.nan else b, []⟩

end Sys2Proof.Claims

/-- R96, R97: the integer register words with two sources encode as the table says, and each retires with its result, whatever its operands; division never traps. R96: clz, ctz, popc and bswap retire with their results. -/
def Obligations.IntegerWordsRetireWithTheirResults : Prop := Claims.RegisterWordsRetireWithResult ∧ Claims.UnaryWordsRetireWithResult

/-- R98, R99, R100: addx, the immediate words and lea retire with their results. -/
def Obligations.ImmediateWordsRetireWithTheirResults : Prop := Claims.ImmediateWordsRetireWithResult

/-- R108: a branch compares xd with xa, goes to PC + 4·imm when taken and to PC + 4 when not, and writes no register. R109: jal links in x30 and jumps; jalr links in xd and jumps to an aligned target, and raises cause 0x05 with the target as TVAL at any other, xd unchanged. -/
def Obligations.BranchesAndJumpsGo : Prop := Claims.BranchesCompareAndGo ∧ Claims.JumpsLinkAndGo

/-- R105: a dword atomic whose access takes place writes the new value to memory in the same event as its read, and xd takes the old value. R105, R107: a word atomic outside the reduction window, or one that returns a value, does the same on 32 bits, its old value sign-extended; amo.add, amo.min and amo.max to x0 in the window are posted as reductions (kinds add, min and max of i32). R105, R107: amo.fadd adds in its own format, rounded to nearest even, and xd takes the old value zero-extended; to x0 in the window it is posted. The exceptions of the sum are counted. -/
def Obligations.AtomicsExchangeOrPost : Prop := Claims.DwordAtomicsExchange ∧ Claims.WordAtomicsExchangeOrPost ∧ Claims.FloatAtomicsAddOrPost

/-- R181 to R185: the words that configure, start, stop and read a stream. The fields of an inactive stream are written; sb.go starts a stream whose descriptor checks and commits a demand that reaches it; sb.stop stops a stream none of whose pops waits for data. R181, R183: a stream that is active takes no configuration word and no second start: cause 0x01, with the word as TVAL. R182, R183: a count, a stride or a scale stride out of its range raises cause 0x01 with nothing written, and so does sb.go of a descriptor that does not check. -/
def Obligations.StreamsAreConfiguredWhileInactive : Prop := Claims.StreamWordsConfigureAndStart ∧ Claims.ActiveStreamRejectsConfiguration ∧ Claims.StreamOperandsOutOfRangeTrap

/-- R344, R345, R348: nb.ld loads a checked microprogram into its slot; nb.go queues a command whose rows the rules allow; nb.rd returns the record or the queue's status. R344, R345: where nb.ld and nb.go raise a cause and do nothing else: a misaligned address; a microprogram that fails to load or does not check; a base row that is not translated, barred, a guard row, not allowed or not local HBM in device bias of the core's die; a row that R345 refuses. -/
def Obligations.NearBankWordsLoadGoAndRead : Prop := Claims.NearBankWordsAct ∧ Claims.NearBankWordsTrap

/-- R197, R198, R200: mig takes the first free entry of the table, counts a drop when there is none, and does nothing for a page in the TLB; mig.rd reads the counts and the number of entries in use; wrf.rd returns the start of a bank's refresh window. R268 to R270: dmd holds the demand its table divides, committed at once where the step has started what it reaches, redmd divides the held table again for a demand no less than the held one, and dmd.rd reads the division; an unmet demand is reported only when TRAPEN asks for it (the cut that an active stream waits for: log 35, DEDUCED; dmd.rd: log 40, DEDUCED). R268, R269: a misaligned table raises cause 0x05; a demand that is committed, a table that does not check, a re-demand with none held or for less than the held demand raise cause 0x01; a table that cannot be loaded raises the load's cause. Nothing else happens. R252: lsym.rd returns the status word; lsym.pin of a used symbol to a value within its bounds makes the request, pinned; lsym.free drops a pinned request and starts the monitor's counts again. -/
def Obligations.MigrateDemandAndSymbolWordsRetire : Prop := Claims.MigrateAndRefreshWordsRetire ∧ Claims.DemandWordsHoldAndDivide ∧ Claims.DemandWordsTrap ∧ Claims.LatencySymbolWordsReadPinFree

/-- R317, R347: a fence and nb.fence place C's pending store; when the completion point is reached they bring their effect about and retire, else C waits; a waiting fence completes when its point is reached. R317, R347: what each fence waits for and what it makes visible. fence.e and fence.s wait until every engine command has left its queue, has published or, deferred, has written its last element; fence.b waits, as nb.fence does, until no near-bank command of the core is left and no lease or flip is on a line that one has written; fence.f waits until no posted reduction of C's, or of S's under a token that C has popped, is on its way. fence.s takes every covered write of the core's agents to the memory-side cache (which writes count as covered: log 19, DEDUCED); fence.b and nb.fence place every waiting granule, fire the watch on a line so written, and leave no copy of such a line in an L2 or a memory-side cache (log 42, DEDUCED). -/
def Obligations.FencesWaitThenComplete : Prop := Claims.FenceWordsWait ∧ Claims.FencesReachTheirPoint

/-- R297: mon loads its dword and arms the watch on the line, as one event. R298: mwait returns 3 with no watch armed, 0 for a fired and 1 for a lost one, each with the watch disarmed; on an armed watch C sleeps, its source popped; a sleeping mwait wakes with 0, 1, 4 or, at its timeout, 2. The machine is not under replay. -/
def Obligations.LineWatchesArmAndReport : Prop := Claims.MonLoadsAndArms ∧ Claims.MwaitReturnsItsReason

/-- R30, R117: eret in supervisor mode restores the mode from PM and C's PC from TEPC, ends the freeze, leaves TFPC and TVAL, and releases L, V and S on the words they were frozen on. R22, R118 to R121: tlbi drops translations, icsync drops C's fetched-ahead words and marks new code for the next cut, nop changes nothing but the PC, and end takes C to the ended state. R41, R42, R120, R362, R364, R365: end in supervisor mode gives up the step: a record of type 0x31 shows TSTAT, TFPC and TVAL, and a restartable step that has been abandoned fewer than seven times goes back to a slot with its cast-on record (which slot: log 63, DESIGN CHOICE). With no step on the core, eret and end in supervisor mode return it to the state between steps, and no record is posted. -/
def Obligations.EretAndSystemWordsTakeEffect : Prop := Claims.EretRestoresModeAndPc ∧ Claims.SystemWordsTakeEffect ∧ Claims.SupervisorEndAndReturnWithNoStep

/-- R30, R32, R34, R66, R116: in task mode, with no freeze waited for, trap and bkpt take their trap: the mode goes to PM and becomes supervisor, L, V and S freeze, CAUSE and TVAL hold what the word says, TFPC its PC and TEPC the following PC, and C goes on at TVEC. R41, R116, R362, R364, R365: trap and bkpt in supervisor mode are double traps: the step is abandoned; a restartable one that has been abandoned fewer than seven times goes back to a slot with its cast-on record (which slot: log 63, DESIGN CHOICE); the record of type 0x30 shows the new cause, its TFPC and TVAL, and the CAUSE of the trap whose handler was running. -/
def Obligations.SoftwareTrapsEnterTheHandler : Prop := Claims.TrapAndBkptEnterTheHandler ∧ Claims.DoubleTrapsAbandonTheStep

/-- R122, R125, R126, R128 to R131, R133, R65: the y-register words, the loop words, end and hints of L and S. R130: closing one level by the unit at pc whose successor is at next: a level with iterations left goes back, one without is over. R66, R129 to R131, R38: a fifth lbeg, an lbeg of an active id, an lend of another level, an lbr of a level that is not active, and a marker beyond the active levels raise cause 0x01 with the word, before any change, whatever tokens or entries the word would wait for (R66 says the last of the all-ones word alone; for these words it is log 67, DEDUCED). -/
def Obligations.LoopWordsCloseAndLeaveLevels : Prop := Claims.RegisterAndLoopWordsRetireInOrder ∧ Claims.ClosingALoopGoesBackOrOn ∧ Claims.MisusedLoopWordsRaiseIllegal

/-- R163 to R165, R178, R211, R214 to R218: what the A and B slots write where they land, in the integer formats, and that the rounding of floating
results is exact on what the format holds. -/
def Obligations.VectorResultsLand : Prop := Claims.IntegerResultsLand ∧ Claims.RoundingKeepsWhatAFormatHolds

/-- R30, R32, R38, R45, R64: a unit that is no instruction traps with cause 0x01 and its word; a failed fetch traps with its cause, TFPC the strand's PC; cause 0x06 of C holds C and waits for its freeze (R31); a remote fetch of C that fails takes cause 0x15, and one of L, V or S, of which R36 lists it not, raises it on C's behalf and its unit waits unissued (log 68, DESIGN CHOICE). An mwait in which C sleeps returns 4 before any of these traps (log 75, DESIGN CHOICE). R31, R39, R40, R44: the lowest pending cause is taken in task mode, after a mwait in progress returns 4, with the TVAL it kept; a freeze waited for takes its trap when the other strands are stuck or 2^16 cycles have passed, an mwait of C returning 4 first (log 75, DESIGN CHOICE); PEND bit 22 is taken with the first stopped unit's cause and TVAL and stays set while another waits, and a completion store's 0x07 waits for its freeze with bit 22 set; the watchdog raises cause 0x11 with the occupancies. -/
def Obligations.FaultsAndWaitingCausesTrap : Prop := Claims.BadUnitsTrap ∧ Claims.WaitingCausesAreTaken

/-- R26, R248, R249, R253: a drained V reaches its cut: LASTDRAIN is the drain's ticks, at most 255; V stands at the cut; a cut with nothing asked of it changes nothing else but the demand that waits for it (R156, R241, R269; log 35, DEDUCED). R249, R251: at a cut, out of replay and with its trap not enabled, each symbol asked for a rebinding is bound to the value asked and its counts start again; the others stand; RETIME holds the record of the highest symbol changed. R243, R244, R246: a sample of a source is counted in ticks and taken by each symbol that names the source, within its upper bound; the other symbols stand; one beyond the bound counts in BOUNDX and marks its symbol there. LATENCY_SAMPLE is a sample that comes from outside (log 65, DESIGN CHOICE). -/
def Obligations.CutsRebindSampledSymbols : Prop := Claims.TheConsistentCutIsReached ∧ Claims.ACutRebindsWhatWasAsked ∧ Claims.SymbolsTakeTheirSamples

/-- R159, R188, R199: an engine starts the command that its range checker lets start and moves its elements; a command of length 0 is written at once, and published but for the cycles that chxdbg injects into it (R244); the last byte of cp.mp goes from memory to the pool, and that of cp.pm from the pool to the command's shadow, whose line pins a way of its set in the L2 (R314). R188 to R192: a written command publishes its shadow in one event when every earlier one has; a pub publishes all that are earlier; an ecw stores its value when the earlier commands have left; a finished command's entry enters the completion queue; what is injected into a command (R244, R273) holds its publish back. -/
def Obligations.EnginesMoveAndPublish : Prop := Claims.EnginesMoveTheirElements ∧ Claims.EnginesPublishAndComplete

/-- R197, R200: a migrate translation that lands brings its page to the TLB, frees its entry, and counts a slip past its deadline; one that may not be is dropped and counted; one of a page in host bias begins its flip first, and one whose page is in a flip waits. A refresh window's end: time has come to it. R315, R316, R339, R342, R343, R346: the oldest near-bank command not sent goes to its unit; a row step of the unit's oldest command moves its counters on; a suspended unit resumes when nothing waits at its pair or 2 microseconds have passed; a command at its program's end leaves its record and its entry, once what chxdbg injected into it (R273) has passed; the oldest write of some granule lands, when no flip and no lease holds it. -/
def Obligations.MigrationsAndNearBankUnitsWork : Prop := Claims.MigrationsLandAndWindowsEnd ∧ Claims.NearBankUnitsWork

/-- R287, R357, R358: a submission's address is appended to its ring and TAIL goes on as one event; the entry at HEAD is taken, zeroed, and enters the pending table with the PRED it then reads; a poll reads the PRED of every pending block, which is ready when it is 0. An append or a poll waits for a page in a flip, and a write for a lease (R308, R322). R278, R285, R286, R359, R360: the pointer goes to the chosen block's queue; the block goes to the die chosen for it, and a good block of this die that is no gang is assigned with its cluster's range of steps (log 47, DESIGN CHOICE); a block that its check refuses never runs; a complete block with no successor stores DONEVAL, which stands at the memory-side cache at once, and leaves; one that failed only leaves (log 61, DEDUCED). -/
def Obligations.SubmissionsBecomeAssignedBlocks : Prop := Claims.SubmissionsFlowThroughTheRings ∧ Claims.BlocksAreAssignedAndComplete

/-- R366 to R368: an answer 0 lets the waiting strand retry, 1 takes its trap once the freeze is in effect, 2 abandons the step, 3 is ignored; one that follows a host write still waiting waits with it; with no answer in TMO ms the trap is taken. A step that may run again goes back to the first of the slots (log 63, DESIGN CHOICE); an mwait of C returns 4 before the trap (log 75, DESIGN CHOICE). R282, R283, R365, R368: for a prologue's read, the answer 0 has the prologue run again, 1 refuses its step, and 2 abandons the step, which is staged again if it may run again, and else leaves its slot. R373, R374, R376, R377: at a quantum's end the next function's switch begins, or the quantum starts again; a step not at a cut 20 microseconds later has left, and the incoming function becomes resident, its quantum counted from there; an event of a function that is not resident counts in its saved copy. -/
def Obligations.ForwardedFaultsAndWorldSwitches : Prop := Claims.ForwardedFaultsAreAnswered ∧ Claims.PrologueFaultsAreAnswered ∧ Claims.WorldsSwitch

/-- R118, R381 to R383: a stage entry replaces the staged bytes it names and no others; a commit message makes each unit of its class that holds changes wait for its idle point when the CRC of its plane is the expected one, and roll back with result 2 otherwise; an abort drops every staged plane and image; an invalidation is tlbi on the named core. R389: a controller held in reset answers none of them. R382, R383, R386: at its idle point a waiting unit's staged plane becomes active under its generation, with result 1, and a staged image with it; one that has waited 10 ms has result 3, its staged plane kept. -/
def Obligations.ConfigMessagesCommitAtIdlePoints : Prop := Claims.ConfigMessagesStageAndCommit ∧ Claims.UnitsCommitAtTheirIdlePoint

/-- R389: after a package reset the machine is as State.reset has it, the numbers that name this core kept (log 11, DESIGN CHOICE; what State.reset holds where the spec gives no value: logs 3, 8 and 10, DESIGN CHOICE); each image that its signature verifies is installed and measured, the others are reported. R386 (log 26, DESIGN CHOICE: the version with which it is installed): no unit's security version goes back. R390 and log 26, DESIGN CHOICE: the responder answers version 1.3, then capabilities, algorithms, digests, certificate, challenge and measurements in that order of session; a request out of its order is answered with an error. -/
def Obligations.ResetAndAttestationAnswer : Prop := Claims.PackageResetStartsAgain ∧ Claims.AttestationAnswers

/-- R395, R398 to R400: as a microsecond ends, and not before, the estimate lowers an enabled partition's permit count above its cap, never below its minimum, and raises it by one, at most to 16, well below; the energy of a microsecond is added to the counter of its step's queue, a launched step's to IDLEENERGY (R274), and that of a unit to the queue it worked for; other cores' charges go only to a queue with a block or with one done with for less than 4 microseconds; a window's first cycle brings the count into force. The estimates and the energies are free values (log 14). R203, R401, R402: a trip counts and starts the response, whose six cycles are stretched and whose 64 that follow hold half the permits; one in a stretched cycle is only counted, one in a later cycle starts the response again; a lane group idle for 4,096 cycles is powered down. R404, R405: under replay, a recorded fabric arrival whose time has come is stored, a dword of 8 bytes (log 23, DESIGN CHOICE), and a recorded interrupt sent; a record of no type diverges; nothing is applied before its time. -/
def Obligations.PowerDroopAndReplayAct : Prop := Claims.PowerIsMetered ∧ Claims.DroopsAndIdleLanesAct ∧ Claims.ReplayedInputsApply

/-- R408, R410, R412, R418: what a link's events do: a failed flit is replayed, a failed replay of it is counted, the eighth retrains, a completed retraining brings the link up, and a link that does not retrain is down, with the groups failed that a package without a port had arrived at or is awaited in; a virtual channel stops and goes; this core's request without an answer is sent again and then fails; an answer is forgotten after 100 microseconds (the operand of ANSWERED_TAG_EXPIRY: log 76, DESIGN CHOICE). R421: an Ethernet port that goes down is down, and its queue pairs send nothing; a congestion notification reduces its queue pair's rate (its operand: log 76, DESIGN CHOICE), and a pause stops its priority alone until it is released. -/
def Obligations.LinksRequestsAndEthernetReact : Prop := Claims.LinksAndRequestsMove ∧ Claims.EthernetPortsReact

/-- R415, R416: a merged reduction is forwarded and applied at its home as one event in its format, to an address that no replay, no flip and no lease holds; a lost contribution gives its contributor cause 0x15 with its address, pending where it may not be taken now. R294, R417 to R419: the last arrival of a fabric group completes its phase, any other is counted, one sent again counts once, and one at a group with no members fails it; a completion brings a phase to the package that arrived in it; a failed group is told to a core asleep at it, with cause 0x15 and TVAL 0; a counter on a plane that is not up at every package moves, and its group fails with no such plane (log 57, DEDUCED). -/
def Obligations.ReductionsAndFabricBarriersAdvance : Prop := Claims.ReductionsReachTheirHome ∧ Claims.FabricBarriersAdvance

/-- R355, R393, R406, R407: the traces are switched on, and what they hold, the near-bank records, the energies and the droop registers are shown. R375 to R377, R392, R393: chxdbg writes the selectors and counters of a virtual function, the live copy while it is resident and the saved one otherwise, the counters of the fabric class excepted, and shows them, those of the fabric class as 0. -/
def Obligations.DebuggerTracesAndCounters : Prop := Claims.DebuggerTracesAndPrints ∧ Claims.DebuggerReadsAndWritesCounters

/-- R48, R49, R51, R64: what decodes is well formed and encodes to the very unit it was read from, so that no bit of a unit is passed over and no two units decode to one instruction. The encodings that the spec writes out: the worked sequences of R100 and R121 and the example after R378. -/
def Obligations.DecodedUnitsAreExact : Prop := Claims.DecodedUnitsEncodeBack ∧ Claims.TheSpecsOwnWordsDecode
end

