-- ==== Sys2Proof/Laws/Decode.lean ====
section
/-! SUPPORT. The fields of an encoded C word read back (R47): one lemma for each field of each format. -/

namespace Sys2Proof

@[simp] theorem cr_maj (maj : BitVec 7) (xd : BitVec 5) (xa : BitVec 5) (xb : BitVec 5) (xc : BitVec 5) (fn : BitVec 5) :
    (cr maj xd xa xb xc fn).extractLsb' 25 7 = maj := by
  ext i h
  rw [BitVec.getElem_extractLsb']
  change BitVec.getLsbD (w := 7 + 5 + 5 + 5 + 5 + 5) (maj ++ xd ++ xa ++ xb ++ xc ++ fn) _ = _
  grind
@[simp] theorem cr_xd (maj : BitVec 7) (xd : BitVec 5) (xa : BitVec 5) (xb : BitVec 5) (xc : BitVec 5) (fn : BitVec 5) :
    (cr maj xd xa xb xc fn).extractLsb' 20 5 = xd := by
  ext i h
  rw [BitVec.getElem_extractLsb']
  change BitVec.getLsbD (w := 7 + 5 + 5 + 5 + 5 + 5) (maj ++ xd ++ xa ++ xb ++ xc ++ fn) _ = _
  grind
@[simp] theorem cr_xa (maj : BitVec 7) (xd : BitVec 5) (xa : BitVec 5) (xb : BitVec 5) (xc : BitVec 5) (fn : BitVec 5) :
    (cr maj xd xa xb xc fn).extractLsb' 15 5 = xa := by
  ext i h
  rw [BitVec.getElem_extractLsb']
  change BitVec.getLsbD (w := 7 + 5 + 5 + 5 + 5 + 5) (maj ++ xd ++ xa ++ xb ++ xc ++ fn) _ = _
  grind
@[simp] theorem cr_xb (maj : BitVec 7) (xd : BitVec 5) (xa : BitVec 5) (xb : BitVec 5) (xc : BitVec 5) (fn : BitVec 5) :
    (cr maj xd xa xb xc fn).extractLsb' 10 5 = xb := by
  ext i h
  rw [BitVec.getElem_extractLsb']
  change BitVec.getLsbD (w := 7 + 5 + 5 + 5 + 5 + 5) (maj ++ xd ++ xa ++ xb ++ xc ++ fn) _ = _
  grind
@[simp] theorem cr_xc (maj : BitVec 7) (xd : BitVec 5) (xa : BitVec 5) (xb : BitVec 5) (xc : BitVec 5) (fn : BitVec 5) :
    (cr maj xd xa xb xc fn).extractLsb' 5 5 = xc := by
  ext i h
  rw [BitVec.getElem_extractLsb']
  change BitVec.getLsbD (w := 7 + 5 + 5 + 5 + 5 + 5) (maj ++ xd ++ xa ++ xb ++ xc ++ fn) _ = _
  grind
@[simp] theorem cr_fn (maj : BitVec 7) (xd : BitVec 5) (xa : BitVec 5) (xb : BitVec 5) (xc : BitVec 5) (fn : BitVec 5) :
    (cr maj xd xa xb xc fn).extractLsb' 0 5 = fn := by
  ext i h
  rw [BitVec.getElem_extractLsb']
  change BitVec.getLsbD (w := 7 + 5 + 5 + 5 + 5 + 5) (maj ++ xd ++ xa ++ xb ++ xc ++ fn) _ = _
  grind
@[simp] theorem ci_maj (maj : BitVec 7) (xd : BitVec 5) (xa : BitVec 5) (imm : BitVec 15) :
    (ci maj xd xa imm).extractLsb' 25 7 = maj := by
  ext i h
  rw [BitVec.getElem_extractLsb']
  change BitVec.getLsbD (w := 7 + 5 + 5 + 15) (maj ++ xd ++ xa ++ imm) _ = _
  grind
@[simp] theorem ci_xd (maj : BitVec 7) (xd : BitVec 5) (xa : BitVec 5) (imm : BitVec 15) :
    (ci maj xd xa imm).extractLsb' 20 5 = xd := by
  ext i h
  rw [BitVec.getElem_extractLsb']
  change BitVec.getLsbD (w := 7 + 5 + 5 + 15) (maj ++ xd ++ xa ++ imm) _ = _
  grind
@[simp] theorem ci_xa (maj : BitVec 7) (xd : BitVec 5) (xa : BitVec 5) (imm : BitVec 15) :
    (ci maj xd xa imm).extractLsb' 15 5 = xa := by
  ext i h
  rw [BitVec.getElem_extractLsb']
  change BitVec.getLsbD (w := 7 + 5 + 5 + 15) (maj ++ xd ++ xa ++ imm) _ = _
  grind
@[simp] theorem ci_imm (maj : BitVec 7) (xd : BitVec 5) (xa : BitVec 5) (imm : BitVec 15) :
    (ci maj xd xa imm).extractLsb' 0 15 = imm := by
  ext i h
  rw [BitVec.getElem_extractLsb']
  change BitVec.getLsbD (w := 7 + 5 + 5 + 15) (maj ++ xd ++ xa ++ imm) _ = _
  grind
@[simp] theorem cm_maj (maj : BitVec 7) (xd : BitVec 5) (xa : BitVec 5) (size : BitVec 3) (off : BitVec 12) :
    (cm maj xd xa size off).extractLsb' 25 7 = maj := by
  ext i h
  rw [BitVec.getElem_extractLsb']
  change BitVec.getLsbD (w := 7 + 5 + 5 + 3 + 12) (maj ++ xd ++ xa ++ size ++ off) _ = _
  grind
@[simp] theorem cm_xd (maj : BitVec 7) (xd : BitVec 5) (xa : BitVec 5) (size : BitVec 3) (off : BitVec 12) :
    (cm maj xd xa size off).extractLsb' 20 5 = xd := by
  ext i h
  rw [BitVec.getElem_extractLsb']
  change BitVec.getLsbD (w := 7 + 5 + 5 + 3 + 12) (maj ++ xd ++ xa ++ size ++ off) _ = _
  grind
@[simp] theorem cm_xa (maj : BitVec 7) (xd : BitVec 5) (xa : BitVec 5) (size : BitVec 3) (off : BitVec 12) :
    (cm maj xd xa size off).extractLsb' 15 5 = xa := by
  ext i h
  rw [BitVec.getElem_extractLsb']
  change BitVec.getLsbD (w := 7 + 5 + 5 + 3 + 12) (maj ++ xd ++ xa ++ size ++ off) _ = _
  grind
@[simp] theorem cm_size (maj : BitVec 7) (xd : BitVec 5) (xa : BitVec 5) (size : BitVec 3) (off : BitVec 12) :
    (cm maj xd xa size off).extractLsb' 12 3 = size := by
  ext i h
  rw [BitVec.getElem_extractLsb']
  change BitVec.getLsbD (w := 7 + 5 + 5 + 3 + 12) (maj ++ xd ++ xa ++ size ++ off) _ = _
  grind
@[simp] theorem cm_off (maj : BitVec 7) (xd : BitVec 5) (xa : BitVec 5) (size : BitVec 3) (off : BitVec 12) :
    (cm maj xd xa size off).extractLsb' 0 12 = off := by
  ext i h
  rw [BitVec.getElem_extractLsb']
  change BitVec.getLsbD (w := 7 + 5 + 5 + 3 + 12) (maj ++ xd ++ xa ++ size ++ off) _ = _
  grind
@[simp] theorem cj_maj (maj : BitVec 7) (off : BitVec 25) :
    (cj maj off).extractLsb' 25 7 = maj := by
  ext i h
  rw [BitVec.getElem_extractLsb']
  change BitVec.getLsbD (w := 7 + 25) (maj ++ off) _ = _
  grind
@[simp] theorem cj_off (maj : BitVec 7) (off : BitVec 25) :
    (cj maj off).extractLsb' 0 25 = off := by
  ext i h
  rw [BitVec.getElem_extractLsb']
  change BitVec.getLsbD (w := 7 + 25) (maj ++ off) _ = _
  grind
@[simp] theorem ce_maj (maj : BitVec 7) (xd : BitVec 5) (xa : BitVec 5) (xb : BitVec 5) (eng : BitVec 3) (sub : BitVec 7) :
    (ce maj xd xa xb eng sub).extractLsb' 25 7 = maj := by
  ext i h
  rw [BitVec.getElem_extractLsb']
  change BitVec.getLsbD (w := 7 + 5 + 5 + 5 + 3 + 7) (maj ++ xd ++ xa ++ xb ++ eng ++ sub) _ = _
  grind
@[simp] theorem ce_xd (maj : BitVec 7) (xd : BitVec 5) (xa : BitVec 5) (xb : BitVec 5) (eng : BitVec 3) (sub : BitVec 7) :
    (ce maj xd xa xb eng sub).extractLsb' 20 5 = xd := by
  ext i h
  rw [BitVec.getElem_extractLsb']
  change BitVec.getLsbD (w := 7 + 5 + 5 + 5 + 3 + 7) (maj ++ xd ++ xa ++ xb ++ eng ++ sub) _ = _
  grind
@[simp] theorem ce_xa (maj : BitVec 7) (xd : BitVec 5) (xa : BitVec 5) (xb : BitVec 5) (eng : BitVec 3) (sub : BitVec 7) :
    (ce maj xd xa xb eng sub).extractLsb' 15 5 = xa := by
  ext i h
  rw [BitVec.getElem_extractLsb']
  change BitVec.getLsbD (w := 7 + 5 + 5 + 5 + 3 + 7) (maj ++ xd ++ xa ++ xb ++ eng ++ sub) _ = _
  grind
@[simp] theorem ce_xb (maj : BitVec 7) (xd : BitVec 5) (xa : BitVec 5) (xb : BitVec 5) (eng : BitVec 3) (sub : BitVec 7) :
    (ce maj xd xa xb eng sub).extractLsb' 10 5 = xb := by
  ext i h
  rw [BitVec.getElem_extractLsb']
  change BitVec.getLsbD (w := 7 + 5 + 5 + 5 + 3 + 7) (maj ++ xd ++ xa ++ xb ++ eng ++ sub) _ = _
  grind
@[simp] theorem ce_eng (maj : BitVec 7) (xd : BitVec 5) (xa : BitVec 5) (xb : BitVec 5) (eng : BitVec 3) (sub : BitVec 7) :
    (ce maj xd xa xb eng sub).extractLsb' 7 3 = eng := by
  ext i h
  rw [BitVec.getElem_extractLsb']
  change BitVec.getLsbD (w := 7 + 5 + 5 + 5 + 3 + 7) (maj ++ xd ++ xa ++ xb ++ eng ++ sub) _ = _
  grind
@[simp] theorem ce_sub (maj : BitVec 7) (xd : BitVec 5) (xa : BitVec 5) (xb : BitVec 5) (eng : BitVec 3) (sub : BitVec 7) :
    (ce maj xd xa xb eng sub).extractLsb' 0 7 = sub := by
  ext i h
  rw [BitVec.getElem_extractLsb']
  change BitVec.getLsbD (w := 7 + 5 + 5 + 5 + 3 + 7) (maj ++ xd ++ xa ++ xb ++ eng ++ sub) _ = _
  grind
@[simp] theorem cx_maj (maj : BitVec 7) (xd : BitVec 5) (xa : BitVec 5) (s : BitVec 3) (dim : BitVec 2) (xb : BitVec 5) (fn : BitVec 5) :
    (cx maj xd xa s dim xb fn).extractLsb' 25 7 = maj := by
  ext i h
  rw [BitVec.getElem_extractLsb']
  change BitVec.getLsbD (w := 7 + 5 + 5 + 3 + 2 + 5 + 5) (maj ++ xd ++ xa ++ s ++ dim ++ xb ++ fn) _ = _
  grind
@[simp] theorem cx_xd (maj : BitVec 7) (xd : BitVec 5) (xa : BitVec 5) (s : BitVec 3) (dim : BitVec 2) (xb : BitVec 5) (fn : BitVec 5) :
    (cx maj xd xa s dim xb fn).extractLsb' 20 5 = xd := by
  ext i h
  rw [BitVec.getElem_extractLsb']
  change BitVec.getLsbD (w := 7 + 5 + 5 + 3 + 2 + 5 + 5) (maj ++ xd ++ xa ++ s ++ dim ++ xb ++ fn) _ = _
  grind
@[simp] theorem cx_xa (maj : BitVec 7) (xd : BitVec 5) (xa : BitVec 5) (s : BitVec 3) (dim : BitVec 2) (xb : BitVec 5) (fn : BitVec 5) :
    (cx maj xd xa s dim xb fn).extractLsb' 15 5 = xa := by
  ext i h
  rw [BitVec.getElem_extractLsb']
  change BitVec.getLsbD (w := 7 + 5 + 5 + 3 + 2 + 5 + 5) (maj ++ xd ++ xa ++ s ++ dim ++ xb ++ fn) _ = _
  grind
@[simp] theorem cx_s (maj : BitVec 7) (xd : BitVec 5) (xa : BitVec 5) (s : BitVec 3) (dim : BitVec 2) (xb : BitVec 5) (fn : BitVec 5) :
    (cx maj xd xa s dim xb fn).extractLsb' 12 3 = s := by
  ext i h
  rw [BitVec.getElem_extractLsb']
  change BitVec.getLsbD (w := 7 + 5 + 5 + 3 + 2 + 5 + 5) (maj ++ xd ++ xa ++ s ++ dim ++ xb ++ fn) _ = _
  grind
@[simp] theorem cx_dim (maj : BitVec 7) (xd : BitVec 5) (xa : BitVec 5) (s : BitVec 3) (dim : BitVec 2) (xb : BitVec 5) (fn : BitVec 5) :
    (cx maj xd xa s dim xb fn).extractLsb' 10 2 = dim := by
  ext i h
  rw [BitVec.getElem_extractLsb']
  change BitVec.getLsbD (w := 7 + 5 + 5 + 3 + 2 + 5 + 5) (maj ++ xd ++ xa ++ s ++ dim ++ xb ++ fn) _ = _
  grind
@[simp] theorem cx_xb (maj : BitVec 7) (xd : BitVec 5) (xa : BitVec 5) (s : BitVec 3) (dim : BitVec 2) (xb : BitVec 5) (fn : BitVec 5) :
    (cx maj xd xa s dim xb fn).extractLsb' 5 5 = xb := by
  ext i h
  rw [BitVec.getElem_extractLsb']
  change BitVec.getLsbD (w := 7 + 5 + 5 + 3 + 2 + 5 + 5) (maj ++ xd ++ xa ++ s ++ dim ++ xb ++ fn) _ = _
  grind
@[simp] theorem cx_fn (maj : BitVec 7) (xd : BitVec 5) (xa : BitVec 5) (s : BitVec 3) (dim : BitVec 2) (xb : BitVec 5) (fn : BitVec 5) :
    (cx maj xd xa s dim xb fn).extractLsb' 0 5 = fn := by
  ext i h
  rw [BitVec.getElem_extractLsb']
  change BitVec.getLsbD (w := 7 + 5 + 5 + 3 + 2 + 5 + 5) (maj ++ xd ++ xa ++ s ++ dim ++ xb ++ fn) _ = _
  grind

end Sys2Proof
end

