-- ==== Sys2Proof/Laws/State.lean ====
section
/-! SUPPORT. What each replacement of a part of the machine leaves in every field. -/

namespace Sys2Proof.Machine

@[simp] theorem State.setTrap_c (s : State) (x : Trap) : (s.setTrap x).core.c = s.core.c := rfl
@[simp] theorem State.setTrap_l (s : State) (x : Trap) : (s.setTrap x).core.l = s.core.l := rfl
@[simp] theorem State.setTrap_v (s : State) (x : Trap) : (s.setTrap x).core.v = s.core.v := rfl
@[simp] theorem State.setTrap_s (s : State) (x : Trap) : (s.setTrap x).core.s = s.core.s := rfl
@[simp] theorem State.setTrap_q (s : State) (x : Trap) : (s.setTrap x).core.q = s.core.q := rfl
@[simp] theorem State.setTrap_trap (s : State) (x : Trap) : (s.setTrap x).core.trap = x := rfl
@[simp] theorem State.setTrap_csr (s : State) (x : Trap) : (s.setTrap x).core.csr = s.core.csr := rfl
@[simp] theorem State.setTrap_perf (s : State) (x : Trap) : (s.setTrap x).core.perf = s.core.perf := rfl
@[simp] theorem State.setTrap_pool (s : State) (x : Trap) : (s.setTrap x).core.pool = s.core.pool := rfl
@[simp] theorem State.setTrap_str (s : State) (x : Trap) : (s.setTrap x).core.str = s.core.str := rfl
@[simp] theorem State.setTrap_arr (s : State) (x : Trap) : (s.setTrap x).core.arr = s.core.arr := rfl
@[simp] theorem State.setTrap_eng (s : State) (x : Trap) : (s.setTrap x).core.eng = s.core.eng := rfl
@[simp] theorem State.setTrap_mig (s : State) (x : Trap) : (s.setTrap x).core.mig = s.core.mig := rfl
@[simp] theorem State.setTrap_mmu (s : State) (x : Trap) : (s.setTrap x).core.mmu = s.core.mmu := rfl
@[simp] theorem State.setTrap_l1 (s : State) (x : Trap) : (s.setTrap x).core.l1 = s.core.l1 := rfl
@[simp] theorem State.setTrap_units (s : State) (x : Trap) : (s.setTrap x).core.units = s.core.units := rfl
@[simp] theorem State.setTrap_ten (s : State) (x : Trap) : (s.setTrap x).core.ten = s.core.ten := rfl
@[simp] theorem State.setTrap_nb (s : State) (x : Trap) : (s.setTrap x).core.nb = s.core.nb := rfl
@[simp] theorem State.setTrap_fpc (s : State) (x : Trap) : (s.setTrap x).core.fpc = s.core.fpc := rfl
@[simp] theorem State.setTrap_lanes (s : State) (x : Trap) : (s.setTrap x).core.lanes = s.core.lanes := rfl
@[simp] theorem State.setTrap_ctx (s : State) (x : Trap) : (s.setTrap x).core.ctx = s.core.ctx := rfl
@[simp] theorem State.setTrap_dbg (s : State) (x : Trap) : (s.setTrap x).core.dbg = s.core.dbg := rfl
@[simp] theorem State.setTrap_mem (s : State) (x : Trap) : (s.setTrap x).mem = s.mem := rfl
@[simp] theorem State.setTrap_pkg (s : State) (x : Trap) : (s.setTrap x).pkg = s.pkg := rfl
@[simp] theorem State.setTrap_agenda (s : State) (x : Trap) : (s.setTrap x).agenda = s.agenda := rfl
@[simp] theorem State.setTrap_waits (s : State) (x : Trap) : (s.setTrap x).waits = s.waits := rfl
@[simp] theorem State.setTrap_turn (s : State) (x : Trap) : (s.setTrap x).turn = s.turn := rfl
@[simp] theorem State.setTrap_free (s : State) (x : Trap) : (s.setTrap x).free = s.free := rfl
@[simp] theorem State.setTrap_time (s : State) (x : Trap) : (s.setTrap x).time = s.time := rfl
@[simp] theorem State.setTrap_remoteBad (s : State) (x : Trap) : (s.setTrap x).remoteBad = s.remoteBad := rfl

@[simp] theorem State.setC_c (s : State) (x : CStrand) : (s.setC x).core.c = x := rfl
@[simp] theorem State.setC_l (s : State) (x : CStrand) : (s.setC x).core.l = s.core.l := rfl
@[simp] theorem State.setC_v (s : State) (x : CStrand) : (s.setC x).core.v = s.core.v := rfl
@[simp] theorem State.setC_s (s : State) (x : CStrand) : (s.setC x).core.s = s.core.s := rfl
@[simp] theorem State.setC_q (s : State) (x : CStrand) : (s.setC x).core.q = s.core.q := rfl
@[simp] theorem State.setC_trap (s : State) (x : CStrand) : (s.setC x).core.trap = s.core.trap := rfl
@[simp] theorem State.setC_csr (s : State) (x : CStrand) : (s.setC x).core.csr = s.core.csr := rfl
@[simp] theorem State.setC_perf (s : State) (x : CStrand) : (s.setC x).core.perf = s.core.perf := rfl
@[simp] theorem State.setC_pool (s : State) (x : CStrand) : (s.setC x).core.pool = s.core.pool := rfl
@[simp] theorem State.setC_str (s : State) (x : CStrand) : (s.setC x).core.str = s.core.str := rfl
@[simp] theorem State.setC_arr (s : State) (x : CStrand) : (s.setC x).core.arr = s.core.arr := rfl
@[simp] theorem State.setC_eng (s : State) (x : CStrand) : (s.setC x).core.eng = s.core.eng := rfl
@[simp] theorem State.setC_mig (s : State) (x : CStrand) : (s.setC x).core.mig = s.core.mig := rfl
@[simp] theorem State.setC_mmu (s : State) (x : CStrand) : (s.setC x).core.mmu = s.core.mmu := rfl
@[simp] theorem State.setC_l1 (s : State) (x : CStrand) : (s.setC x).core.l1 = s.core.l1 := rfl
@[simp] theorem State.setC_units (s : State) (x : CStrand) : (s.setC x).core.units = s.core.units := rfl
@[simp] theorem State.setC_ten (s : State) (x : CStrand) : (s.setC x).core.ten = s.core.ten := rfl
@[simp] theorem State.setC_nb (s : State) (x : CStrand) : (s.setC x).core.nb = s.core.nb := rfl
@[simp] theorem State.setC_fpc (s : State) (x : CStrand) : (s.setC x).core.fpc = s.core.fpc := rfl
@[simp] theorem State.setC_lanes (s : State) (x : CStrand) : (s.setC x).core.lanes = s.core.lanes := rfl
@[simp] theorem State.setC_ctx (s : State) (x : CStrand) : (s.setC x).core.ctx = s.core.ctx := rfl
@[simp] theorem State.setC_dbg (s : State) (x : CStrand) : (s.setC x).core.dbg = s.core.dbg := rfl
@[simp] theorem State.setC_mem (s : State) (x : CStrand) : (s.setC x).mem = s.mem := rfl
@[simp] theorem State.setC_pkg (s : State) (x : CStrand) : (s.setC x).pkg = s.pkg := rfl
@[simp] theorem State.setC_agenda (s : State) (x : CStrand) : (s.setC x).agenda = s.agenda := rfl
@[simp] theorem State.setC_waits (s : State) (x : CStrand) : (s.setC x).waits = s.waits := rfl
@[simp] theorem State.setC_turn (s : State) (x : CStrand) : (s.setC x).turn = s.turn := rfl
@[simp] theorem State.setC_free (s : State) (x : CStrand) : (s.setC x).free = s.free := rfl
@[simp] theorem State.setC_time (s : State) (x : CStrand) : (s.setC x).time = s.time := rfl
@[simp] theorem State.setC_remoteBad (s : State) (x : CStrand) : (s.setC x).remoteBad = s.remoteBad := rfl

@[simp] theorem State.setV_c (s : State) (x : VStrand) : (s.setV x).core.c = s.core.c := rfl
@[simp] theorem State.setV_l (s : State) (x : VStrand) : (s.setV x).core.l = s.core.l := rfl
@[simp] theorem State.setV_v (s : State) (x : VStrand) : (s.setV x).core.v = x := rfl
@[simp] theorem State.setV_s (s : State) (x : VStrand) : (s.setV x).core.s = s.core.s := rfl
@[simp] theorem State.setV_q (s : State) (x : VStrand) : (s.setV x).core.q = s.core.q := rfl
@[simp] theorem State.setV_trap (s : State) (x : VStrand) : (s.setV x).core.trap = s.core.trap := rfl
@[simp] theorem State.setV_csr (s : State) (x : VStrand) : (s.setV x).core.csr = s.core.csr := rfl
@[simp] theorem State.setV_perf (s : State) (x : VStrand) : (s.setV x).core.perf = s.core.perf := rfl
@[simp] theorem State.setV_pool (s : State) (x : VStrand) : (s.setV x).core.pool = s.core.pool := rfl
@[simp] theorem State.setV_str (s : State) (x : VStrand) : (s.setV x).core.str = s.core.str := rfl
@[simp] theorem State.setV_arr (s : State) (x : VStrand) : (s.setV x).core.arr = s.core.arr := rfl
@[simp] theorem State.setV_eng (s : State) (x : VStrand) : (s.setV x).core.eng = s.core.eng := rfl
@[simp] theorem State.setV_mig (s : State) (x : VStrand) : (s.setV x).core.mig = s.core.mig := rfl
@[simp] theorem State.setV_mmu (s : State) (x : VStrand) : (s.setV x).core.mmu = s.core.mmu := rfl
@[simp] theorem State.setV_l1 (s : State) (x : VStrand) : (s.setV x).core.l1 = s.core.l1 := rfl
@[simp] theorem State.setV_units (s : State) (x : VStrand) : (s.setV x).core.units = s.core.units := rfl
@[simp] theorem State.setV_ten (s : State) (x : VStrand) : (s.setV x).core.ten = s.core.ten := rfl
@[simp] theorem State.setV_nb (s : State) (x : VStrand) : (s.setV x).core.nb = s.core.nb := rfl
@[simp] theorem State.setV_fpc (s : State) (x : VStrand) : (s.setV x).core.fpc = s.core.fpc := rfl
@[simp] theorem State.setV_lanes (s : State) (x : VStrand) : (s.setV x).core.lanes = s.core.lanes := rfl
@[simp] theorem State.setV_ctx (s : State) (x : VStrand) : (s.setV x).core.ctx = s.core.ctx := rfl
@[simp] theorem State.setV_dbg (s : State) (x : VStrand) : (s.setV x).core.dbg = s.core.dbg := rfl
@[simp] theorem State.setV_mem (s : State) (x : VStrand) : (s.setV x).mem = s.mem := rfl
@[simp] theorem State.setV_pkg (s : State) (x : VStrand) : (s.setV x).pkg = s.pkg := rfl
@[simp] theorem State.setV_agenda (s : State) (x : VStrand) : (s.setV x).agenda = s.agenda := rfl
@[simp] theorem State.setV_waits (s : State) (x : VStrand) : (s.setV x).waits = s.waits := rfl
@[simp] theorem State.setV_turn (s : State) (x : VStrand) : (s.setV x).turn = s.turn := rfl
@[simp] theorem State.setV_free (s : State) (x : VStrand) : (s.setV x).free = s.free := rfl
@[simp] theorem State.setV_time (s : State) (x : VStrand) : (s.setV x).time = s.time := rfl
@[simp] theorem State.setV_remoteBad (s : State) (x : VStrand) : (s.setV x).remoteBad = s.remoteBad := rfl

@[simp] theorem State.setQ_c (s : State) (x : Queues) : (s.setQ x).core.c = s.core.c := rfl
@[simp] theorem State.setQ_l (s : State) (x : Queues) : (s.setQ x).core.l = s.core.l := rfl
@[simp] theorem State.setQ_v (s : State) (x : Queues) : (s.setQ x).core.v = s.core.v := rfl
@[simp] theorem State.setQ_s (s : State) (x : Queues) : (s.setQ x).core.s = s.core.s := rfl
@[simp] theorem State.setQ_q (s : State) (x : Queues) : (s.setQ x).core.q = x := rfl
@[simp] theorem State.setQ_trap (s : State) (x : Queues) : (s.setQ x).core.trap = s.core.trap := rfl
@[simp] theorem State.setQ_csr (s : State) (x : Queues) : (s.setQ x).core.csr = s.core.csr := rfl
@[simp] theorem State.setQ_perf (s : State) (x : Queues) : (s.setQ x).core.perf = s.core.perf := rfl
@[simp] theorem State.setQ_pool (s : State) (x : Queues) : (s.setQ x).core.pool = s.core.pool := rfl
@[simp] theorem State.setQ_str (s : State) (x : Queues) : (s.setQ x).core.str = s.core.str := rfl
@[simp] theorem State.setQ_arr (s : State) (x : Queues) : (s.setQ x).core.arr = s.core.arr := rfl
@[simp] theorem State.setQ_eng (s : State) (x : Queues) : (s.setQ x).core.eng = s.core.eng := rfl
@[simp] theorem State.setQ_mig (s : State) (x : Queues) : (s.setQ x).core.mig = s.core.mig := rfl
@[simp] theorem State.setQ_mmu (s : State) (x : Queues) : (s.setQ x).core.mmu = s.core.mmu := rfl
@[simp] theorem State.setQ_l1 (s : State) (x : Queues) : (s.setQ x).core.l1 = s.core.l1 := rfl
@[simp] theorem State.setQ_units (s : State) (x : Queues) : (s.setQ x).core.units = s.core.units := rfl
@[simp] theorem State.setQ_ten (s : State) (x : Queues) : (s.setQ x).core.ten = s.core.ten := rfl
@[simp] theorem State.setQ_nb (s : State) (x : Queues) : (s.setQ x).core.nb = s.core.nb := rfl
@[simp] theorem State.setQ_fpc (s : State) (x : Queues) : (s.setQ x).core.fpc = s.core.fpc := rfl
@[simp] theorem State.setQ_lanes (s : State) (x : Queues) : (s.setQ x).core.lanes = s.core.lanes := rfl
@[simp] theorem State.setQ_ctx (s : State) (x : Queues) : (s.setQ x).core.ctx = s.core.ctx := rfl
@[simp] theorem State.setQ_dbg (s : State) (x : Queues) : (s.setQ x).core.dbg = s.core.dbg := rfl
@[simp] theorem State.setQ_mem (s : State) (x : Queues) : (s.setQ x).mem = s.mem := rfl
@[simp] theorem State.setQ_pkg (s : State) (x : Queues) : (s.setQ x).pkg = s.pkg := rfl
@[simp] theorem State.setQ_agenda (s : State) (x : Queues) : (s.setQ x).agenda = s.agenda := rfl
@[simp] theorem State.setQ_waits (s : State) (x : Queues) : (s.setQ x).waits = s.waits := rfl
@[simp] theorem State.setQ_turn (s : State) (x : Queues) : (s.setQ x).turn = s.turn := rfl
@[simp] theorem State.setQ_free (s : State) (x : Queues) : (s.setQ x).free = s.free := rfl
@[simp] theorem State.setQ_time (s : State) (x : Queues) : (s.setQ x).time = s.time := rfl
@[simp] theorem State.setQ_remoteBad (s : State) (x : Queues) : (s.setQ x).remoteBad = s.remoteBad := rfl

@[simp] theorem State.setCsr_c (s : State) (x : Csrs) : (s.setCsr x).core.c = s.core.c := rfl
@[simp] theorem State.setCsr_l (s : State) (x : Csrs) : (s.setCsr x).core.l = s.core.l := rfl
@[simp] theorem State.setCsr_v (s : State) (x : Csrs) : (s.setCsr x).core.v = s.core.v := rfl
@[simp] theorem State.setCsr_s (s : State) (x : Csrs) : (s.setCsr x).core.s = s.core.s := rfl
@[simp] theorem State.setCsr_q (s : State) (x : Csrs) : (s.setCsr x).core.q = s.core.q := rfl
@[simp] theorem State.setCsr_trap (s : State) (x : Csrs) : (s.setCsr x).core.trap = s.core.trap := rfl
@[simp] theorem State.setCsr_csr (s : State) (x : Csrs) : (s.setCsr x).core.csr = x := rfl
@[simp] theorem State.setCsr_perf (s : State) (x : Csrs) : (s.setCsr x).core.perf = s.core.perf := rfl
@[simp] theorem State.setCsr_pool (s : State) (x : Csrs) : (s.setCsr x).core.pool = s.core.pool := rfl
@[simp] theorem State.setCsr_str (s : State) (x : Csrs) : (s.setCsr x).core.str = s.core.str := rfl
@[simp] theorem State.setCsr_arr (s : State) (x : Csrs) : (s.setCsr x).core.arr = s.core.arr := rfl
@[simp] theorem State.setCsr_eng (s : State) (x : Csrs) : (s.setCsr x).core.eng = s.core.eng := rfl
@[simp] theorem State.setCsr_mig (s : State) (x : Csrs) : (s.setCsr x).core.mig = s.core.mig := rfl
@[simp] theorem State.setCsr_mmu (s : State) (x : Csrs) : (s.setCsr x).core.mmu = s.core.mmu := rfl
@[simp] theorem State.setCsr_l1 (s : State) (x : Csrs) : (s.setCsr x).core.l1 = s.core.l1 := rfl
@[simp] theorem State.setCsr_units (s : State) (x : Csrs) : (s.setCsr x).core.units = s.core.units := rfl
@[simp] theorem State.setCsr_ten (s : State) (x : Csrs) : (s.setCsr x).core.ten = s.core.ten := rfl
@[simp] theorem State.setCsr_nb (s : State) (x : Csrs) : (s.setCsr x).core.nb = s.core.nb := rfl
@[simp] theorem State.setCsr_fpc (s : State) (x : Csrs) : (s.setCsr x).core.fpc = s.core.fpc := rfl
@[simp] theorem State.setCsr_lanes (s : State) (x : Csrs) : (s.setCsr x).core.lanes = s.core.lanes := rfl
@[simp] theorem State.setCsr_ctx (s : State) (x : Csrs) : (s.setCsr x).core.ctx = s.core.ctx := rfl
@[simp] theorem State.setCsr_dbg (s : State) (x : Csrs) : (s.setCsr x).core.dbg = s.core.dbg := rfl
@[simp] theorem State.setCsr_mem (s : State) (x : Csrs) : (s.setCsr x).mem = s.mem := rfl
@[simp] theorem State.setCsr_pkg (s : State) (x : Csrs) : (s.setCsr x).pkg = s.pkg := rfl
@[simp] theorem State.setCsr_agenda (s : State) (x : Csrs) : (s.setCsr x).agenda = s.agenda := rfl
@[simp] theorem State.setCsr_waits (s : State) (x : Csrs) : (s.setCsr x).waits = s.waits := rfl
@[simp] theorem State.setCsr_turn (s : State) (x : Csrs) : (s.setCsr x).turn = s.turn := rfl
@[simp] theorem State.setCsr_free (s : State) (x : Csrs) : (s.setCsr x).free = s.free := rfl
@[simp] theorem State.setCsr_time (s : State) (x : Csrs) : (s.setCsr x).time = s.time := rfl
@[simp] theorem State.setCsr_remoteBad (s : State) (x : Csrs) : (s.setCsr x).remoteBad = s.remoteBad := rfl

@[simp] theorem State.setCtx_c (s : State) (x : StepCtx) : (s.setCtx x).core.c = s.core.c := rfl
@[simp] theorem State.setCtx_l (s : State) (x : StepCtx) : (s.setCtx x).core.l = s.core.l := rfl
@[simp] theorem State.setCtx_v (s : State) (x : StepCtx) : (s.setCtx x).core.v = s.core.v := rfl
@[simp] theorem State.setCtx_s (s : State) (x : StepCtx) : (s.setCtx x).core.s = s.core.s := rfl
@[simp] theorem State.setCtx_q (s : State) (x : StepCtx) : (s.setCtx x).core.q = s.core.q := rfl
@[simp] theorem State.setCtx_trap (s : State) (x : StepCtx) : (s.setCtx x).core.trap = s.core.trap := rfl
@[simp] theorem State.setCtx_csr (s : State) (x : StepCtx) : (s.setCtx x).core.csr = s.core.csr := rfl
@[simp] theorem State.setCtx_perf (s : State) (x : StepCtx) : (s.setCtx x).core.perf = s.core.perf := rfl
@[simp] theorem State.setCtx_pool (s : State) (x : StepCtx) : (s.setCtx x).core.pool = s.core.pool := rfl
@[simp] theorem State.setCtx_str (s : State) (x : StepCtx) : (s.setCtx x).core.str = s.core.str := rfl
@[simp] theorem State.setCtx_arr (s : State) (x : StepCtx) : (s.setCtx x).core.arr = s.core.arr := rfl
@[simp] theorem State.setCtx_eng (s : State) (x : StepCtx) : (s.setCtx x).core.eng = s.core.eng := rfl
@[simp] theorem State.setCtx_mig (s : State) (x : StepCtx) : (s.setCtx x).core.mig = s.core.mig := rfl
@[simp] theorem State.setCtx_mmu (s : State) (x : StepCtx) : (s.setCtx x).core.mmu = s.core.mmu := rfl
@[simp] theorem State.setCtx_l1 (s : State) (x : StepCtx) : (s.setCtx x).core.l1 = s.core.l1 := rfl
@[simp] theorem State.setCtx_units (s : State) (x : StepCtx) : (s.setCtx x).core.units = s.core.units := rfl
@[simp] theorem State.setCtx_ten (s : State) (x : StepCtx) : (s.setCtx x).core.ten = s.core.ten := rfl
@[simp] theorem State.setCtx_nb (s : State) (x : StepCtx) : (s.setCtx x).core.nb = s.core.nb := rfl
@[simp] theorem State.setCtx_fpc (s : State) (x : StepCtx) : (s.setCtx x).core.fpc = s.core.fpc := rfl
@[simp] theorem State.setCtx_lanes (s : State) (x : StepCtx) : (s.setCtx x).core.lanes = s.core.lanes := rfl
@[simp] theorem State.setCtx_ctx (s : State) (x : StepCtx) : (s.setCtx x).core.ctx = x := rfl
@[simp] theorem State.setCtx_dbg (s : State) (x : StepCtx) : (s.setCtx x).core.dbg = s.core.dbg := rfl
@[simp] theorem State.setCtx_mem (s : State) (x : StepCtx) : (s.setCtx x).mem = s.mem := rfl
@[simp] theorem State.setCtx_pkg (s : State) (x : StepCtx) : (s.setCtx x).pkg = s.pkg := rfl
@[simp] theorem State.setCtx_agenda (s : State) (x : StepCtx) : (s.setCtx x).agenda = s.agenda := rfl
@[simp] theorem State.setCtx_waits (s : State) (x : StepCtx) : (s.setCtx x).waits = s.waits := rfl
@[simp] theorem State.setCtx_turn (s : State) (x : StepCtx) : (s.setCtx x).turn = s.turn := rfl
@[simp] theorem State.setCtx_free (s : State) (x : StepCtx) : (s.setCtx x).free = s.free := rfl
@[simp] theorem State.setCtx_time (s : State) (x : StepCtx) : (s.setCtx x).time = s.time := rfl
@[simp] theorem State.setCtx_remoteBad (s : State) (x : StepCtx) : (s.setCtx x).remoteBad = s.remoteBad := rfl

@[simp] theorem State.setEng_c (s : State) (x : Engines) : (s.setEng x).core.c = s.core.c := rfl
@[simp] theorem State.setEng_l (s : State) (x : Engines) : (s.setEng x).core.l = s.core.l := rfl
@[simp] theorem State.setEng_v (s : State) (x : Engines) : (s.setEng x).core.v = s.core.v := rfl
@[simp] theorem State.setEng_s (s : State) (x : Engines) : (s.setEng x).core.s = s.core.s := rfl
@[simp] theorem State.setEng_q (s : State) (x : Engines) : (s.setEng x).core.q = s.core.q := rfl
@[simp] theorem State.setEng_trap (s : State) (x : Engines) : (s.setEng x).core.trap = s.core.trap := rfl
@[simp] theorem State.setEng_csr (s : State) (x : Engines) : (s.setEng x).core.csr = s.core.csr := rfl
@[simp] theorem State.setEng_perf (s : State) (x : Engines) : (s.setEng x).core.perf = s.core.perf := rfl
@[simp] theorem State.setEng_pool (s : State) (x : Engines) : (s.setEng x).core.pool = s.core.pool := rfl
@[simp] theorem State.setEng_str (s : State) (x : Engines) : (s.setEng x).core.str = s.core.str := rfl
@[simp] theorem State.setEng_arr (s : State) (x : Engines) : (s.setEng x).core.arr = s.core.arr := rfl
@[simp] theorem State.setEng_eng (s : State) (x : Engines) : (s.setEng x).core.eng = x := rfl
@[simp] theorem State.setEng_mig (s : State) (x : Engines) : (s.setEng x).core.mig = s.core.mig := rfl
@[simp] theorem State.setEng_mmu (s : State) (x : Engines) : (s.setEng x).core.mmu = s.core.mmu := rfl
@[simp] theorem State.setEng_l1 (s : State) (x : Engines) : (s.setEng x).core.l1 = s.core.l1 := rfl
@[simp] theorem State.setEng_units (s : State) (x : Engines) : (s.setEng x).core.units = s.core.units := rfl
@[simp] theorem State.setEng_ten (s : State) (x : Engines) : (s.setEng x).core.ten = s.core.ten := rfl
@[simp] theorem State.setEng_nb (s : State) (x : Engines) : (s.setEng x).core.nb = s.core.nb := rfl
@[simp] theorem State.setEng_fpc (s : State) (x : Engines) : (s.setEng x).core.fpc = s.core.fpc := rfl
@[simp] theorem State.setEng_lanes (s : State) (x : Engines) : (s.setEng x).core.lanes = s.core.lanes := rfl
@[simp] theorem State.setEng_ctx (s : State) (x : Engines) : (s.setEng x).core.ctx = s.core.ctx := rfl
@[simp] theorem State.setEng_dbg (s : State) (x : Engines) : (s.setEng x).core.dbg = s.core.dbg := rfl
@[simp] theorem State.setEng_mem (s : State) (x : Engines) : (s.setEng x).mem = s.mem := rfl
@[simp] theorem State.setEng_pkg (s : State) (x : Engines) : (s.setEng x).pkg = s.pkg := rfl
@[simp] theorem State.setEng_agenda (s : State) (x : Engines) : (s.setEng x).agenda = s.agenda := rfl
@[simp] theorem State.setEng_waits (s : State) (x : Engines) : (s.setEng x).waits = s.waits := rfl
@[simp] theorem State.setEng_turn (s : State) (x : Engines) : (s.setEng x).turn = s.turn := rfl
@[simp] theorem State.setEng_free (s : State) (x : Engines) : (s.setEng x).free = s.free := rfl
@[simp] theorem State.setEng_time (s : State) (x : Engines) : (s.setEng x).time = s.time := rfl
@[simp] theorem State.setEng_remoteBad (s : State) (x : Engines) : (s.setEng x).remoteBad = s.remoteBad := rfl

@[simp] theorem State.setNb_c (s : State) (x : NearBank) : (s.setNb x).core.c = s.core.c := rfl
@[simp] theorem State.setNb_l (s : State) (x : NearBank) : (s.setNb x).core.l = s.core.l := rfl
@[simp] theorem State.setNb_v (s : State) (x : NearBank) : (s.setNb x).core.v = s.core.v := rfl
@[simp] theorem State.setNb_s (s : State) (x : NearBank) : (s.setNb x).core.s = s.core.s := rfl
@[simp] theorem State.setNb_q (s : State) (x : NearBank) : (s.setNb x).core.q = s.core.q := rfl
@[simp] theorem State.setNb_trap (s : State) (x : NearBank) : (s.setNb x).core.trap = s.core.trap := rfl
@[simp] theorem State.setNb_csr (s : State) (x : NearBank) : (s.setNb x).core.csr = s.core.csr := rfl
@[simp] theorem State.setNb_perf (s : State) (x : NearBank) : (s.setNb x).core.perf = s.core.perf := rfl
@[simp] theorem State.setNb_pool (s : State) (x : NearBank) : (s.setNb x).core.pool = s.core.pool := rfl
@[simp] theorem State.setNb_str (s : State) (x : NearBank) : (s.setNb x).core.str = s.core.str := rfl
@[simp] theorem State.setNb_arr (s : State) (x : NearBank) : (s.setNb x).core.arr = s.core.arr := rfl
@[simp] theorem State.setNb_eng (s : State) (x : NearBank) : (s.setNb x).core.eng = s.core.eng := rfl
@[simp] theorem State.setNb_mig (s : State) (x : NearBank) : (s.setNb x).core.mig = s.core.mig := rfl
@[simp] theorem State.setNb_mmu (s : State) (x : NearBank) : (s.setNb x).core.mmu = s.core.mmu := rfl
@[simp] theorem State.setNb_l1 (s : State) (x : NearBank) : (s.setNb x).core.l1 = s.core.l1 := rfl
@[simp] theorem State.setNb_units (s : State) (x : NearBank) : (s.setNb x).core.units = s.core.units := rfl
@[simp] theorem State.setNb_ten (s : State) (x : NearBank) : (s.setNb x).core.ten = s.core.ten := rfl
@[simp] theorem State.setNb_nb (s : State) (x : NearBank) : (s.setNb x).core.nb = x := rfl
@[simp] theorem State.setNb_fpc (s : State) (x : NearBank) : (s.setNb x).core.fpc = s.core.fpc := rfl
@[simp] theorem State.setNb_lanes (s : State) (x : NearBank) : (s.setNb x).core.lanes = s.core.lanes := rfl
@[simp] theorem State.setNb_ctx (s : State) (x : NearBank) : (s.setNb x).core.ctx = s.core.ctx := rfl
@[simp] theorem State.setNb_dbg (s : State) (x : NearBank) : (s.setNb x).core.dbg = s.core.dbg := rfl
@[simp] theorem State.setNb_mem (s : State) (x : NearBank) : (s.setNb x).mem = s.mem := rfl
@[simp] theorem State.setNb_pkg (s : State) (x : NearBank) : (s.setNb x).pkg = s.pkg := rfl
@[simp] theorem State.setNb_agenda (s : State) (x : NearBank) : (s.setNb x).agenda = s.agenda := rfl
@[simp] theorem State.setNb_waits (s : State) (x : NearBank) : (s.setNb x).waits = s.waits := rfl
@[simp] theorem State.setNb_turn (s : State) (x : NearBank) : (s.setNb x).turn = s.turn := rfl
@[simp] theorem State.setNb_free (s : State) (x : NearBank) : (s.setNb x).free = s.free := rfl
@[simp] theorem State.setNb_time (s : State) (x : NearBank) : (s.setNb x).time = s.time := rfl
@[simp] theorem State.setNb_remoteBad (s : State) (x : NearBank) : (s.setNb x).remoteBad = s.remoteBad := rfl

@[simp] theorem State.setTen_c (s : State) (x : Tension) : (s.setTen x).core.c = s.core.c := rfl
@[simp] theorem State.setTen_l (s : State) (x : Tension) : (s.setTen x).core.l = s.core.l := rfl
@[simp] theorem State.setTen_v (s : State) (x : Tension) : (s.setTen x).core.v = s.core.v := rfl
@[simp] theorem State.setTen_s (s : State) (x : Tension) : (s.setTen x).core.s = s.core.s := rfl
@[simp] theorem State.setTen_q (s : State) (x : Tension) : (s.setTen x).core.q = s.core.q := rfl
@[simp] theorem State.setTen_trap (s : State) (x : Tension) : (s.setTen x).core.trap = s.core.trap := rfl
@[simp] theorem State.setTen_csr (s : State) (x : Tension) : (s.setTen x).core.csr = s.core.csr := rfl
@[simp] theorem State.setTen_perf (s : State) (x : Tension) : (s.setTen x).core.perf = s.core.perf := rfl
@[simp] theorem State.setTen_pool (s : State) (x : Tension) : (s.setTen x).core.pool = s.core.pool := rfl
@[simp] theorem State.setTen_str (s : State) (x : Tension) : (s.setTen x).core.str = s.core.str := rfl
@[simp] theorem State.setTen_arr (s : State) (x : Tension) : (s.setTen x).core.arr = s.core.arr := rfl
@[simp] theorem State.setTen_eng (s : State) (x : Tension) : (s.setTen x).core.eng = s.core.eng := rfl
@[simp] theorem State.setTen_mig (s : State) (x : Tension) : (s.setTen x).core.mig = s.core.mig := rfl
@[simp] theorem State.setTen_mmu (s : State) (x : Tension) : (s.setTen x).core.mmu = s.core.mmu := rfl
@[simp] theorem State.setTen_l1 (s : State) (x : Tension) : (s.setTen x).core.l1 = s.core.l1 := rfl
@[simp] theorem State.setTen_units (s : State) (x : Tension) : (s.setTen x).core.units = s.core.units := rfl
@[simp] theorem State.setTen_ten (s : State) (x : Tension) : (s.setTen x).core.ten = x := rfl
@[simp] theorem State.setTen_nb (s : State) (x : Tension) : (s.setTen x).core.nb = s.core.nb := rfl
@[simp] theorem State.setTen_fpc (s : State) (x : Tension) : (s.setTen x).core.fpc = s.core.fpc := rfl
@[simp] theorem State.setTen_lanes (s : State) (x : Tension) : (s.setTen x).core.lanes = s.core.lanes := rfl
@[simp] theorem State.setTen_ctx (s : State) (x : Tension) : (s.setTen x).core.ctx = s.core.ctx := rfl
@[simp] theorem State.setTen_dbg (s : State) (x : Tension) : (s.setTen x).core.dbg = s.core.dbg := rfl
@[simp] theorem State.setTen_mem (s : State) (x : Tension) : (s.setTen x).mem = s.mem := rfl
@[simp] theorem State.setTen_pkg (s : State) (x : Tension) : (s.setTen x).pkg = s.pkg := rfl
@[simp] theorem State.setTen_agenda (s : State) (x : Tension) : (s.setTen x).agenda = s.agenda := rfl
@[simp] theorem State.setTen_waits (s : State) (x : Tension) : (s.setTen x).waits = s.waits := rfl
@[simp] theorem State.setTen_turn (s : State) (x : Tension) : (s.setTen x).turn = s.turn := rfl
@[simp] theorem State.setTen_free (s : State) (x : Tension) : (s.setTen x).free = s.free := rfl
@[simp] theorem State.setTen_time (s : State) (x : Tension) : (s.setTen x).time = s.time := rfl
@[simp] theorem State.setTen_remoteBad (s : State) (x : Tension) : (s.setTen x).remoteBad = s.remoteBad := rfl

@[simp] theorem State.setDbg_c (s : State) (x : Debug) : (s.setDbg x).core.c = s.core.c := rfl
@[simp] theorem State.setDbg_l (s : State) (x : Debug) : (s.setDbg x).core.l = s.core.l := rfl
@[simp] theorem State.setDbg_v (s : State) (x : Debug) : (s.setDbg x).core.v = s.core.v := rfl
@[simp] theorem State.setDbg_s (s : State) (x : Debug) : (s.setDbg x).core.s = s.core.s := rfl
@[simp] theorem State.setDbg_q (s : State) (x : Debug) : (s.setDbg x).core.q = s.core.q := rfl
@[simp] theorem State.setDbg_trap (s : State) (x : Debug) : (s.setDbg x).core.trap = s.core.trap := rfl
@[simp] theorem State.setDbg_csr (s : State) (x : Debug) : (s.setDbg x).core.csr = s.core.csr := rfl
@[simp] theorem State.setDbg_perf (s : State) (x : Debug) : (s.setDbg x).core.perf = s.core.perf := rfl
@[simp] theorem State.setDbg_pool (s : State) (x : Debug) : (s.setDbg x).core.pool = s.core.pool := rfl
@[simp] theorem State.setDbg_str (s : State) (x : Debug) : (s.setDbg x).core.str = s.core.str := rfl
@[simp] theorem State.setDbg_arr (s : State) (x : Debug) : (s.setDbg x).core.arr = s.core.arr := rfl
@[simp] theorem State.setDbg_eng (s : State) (x : Debug) : (s.setDbg x).core.eng = s.core.eng := rfl
@[simp] theorem State.setDbg_mig (s : State) (x : Debug) : (s.setDbg x).core.mig = s.core.mig := rfl
@[simp] theorem State.setDbg_mmu (s : State) (x : Debug) : (s.setDbg x).core.mmu = s.core.mmu := rfl
@[simp] theorem State.setDbg_l1 (s : State) (x : Debug) : (s.setDbg x).core.l1 = s.core.l1 := rfl
@[simp] theorem State.setDbg_units (s : State) (x : Debug) : (s.setDbg x).core.units = s.core.units := rfl
@[simp] theorem State.setDbg_ten (s : State) (x : Debug) : (s.setDbg x).core.ten = s.core.ten := rfl
@[simp] theorem State.setDbg_nb (s : State) (x : Debug) : (s.setDbg x).core.nb = s.core.nb := rfl
@[simp] theorem State.setDbg_fpc (s : State) (x : Debug) : (s.setDbg x).core.fpc = s.core.fpc := rfl
@[simp] theorem State.setDbg_lanes (s : State) (x : Debug) : (s.setDbg x).core.lanes = s.core.lanes := rfl
@[simp] theorem State.setDbg_ctx (s : State) (x : Debug) : (s.setDbg x).core.ctx = s.core.ctx := rfl
@[simp] theorem State.setDbg_dbg (s : State) (x : Debug) : (s.setDbg x).core.dbg = x := rfl
@[simp] theorem State.setDbg_mem (s : State) (x : Debug) : (s.setDbg x).mem = s.mem := rfl
@[simp] theorem State.setDbg_pkg (s : State) (x : Debug) : (s.setDbg x).pkg = s.pkg := rfl
@[simp] theorem State.setDbg_agenda (s : State) (x : Debug) : (s.setDbg x).agenda = s.agenda := rfl
@[simp] theorem State.setDbg_waits (s : State) (x : Debug) : (s.setDbg x).waits = s.waits := rfl
@[simp] theorem State.setDbg_turn (s : State) (x : Debug) : (s.setDbg x).turn = s.turn := rfl
@[simp] theorem State.setDbg_free (s : State) (x : Debug) : (s.setDbg x).free = s.free := rfl
@[simp] theorem State.setDbg_time (s : State) (x : Debug) : (s.setDbg x).time = s.time := rfl
@[simp] theorem State.setDbg_remoteBad (s : State) (x : Debug) : (s.setDbg x).remoteBad = s.remoteBad := rfl

@[simp] theorem State.setPkg_core (s : State) (x : Pkg) : (s.setPkg x).core = s.core := rfl
@[simp] theorem State.setPkg_mem (s : State) (x : Pkg) : (s.setPkg x).mem = s.mem := rfl
@[simp] theorem State.setPkg_pkg (s : State) (x : Pkg) : (s.setPkg x).pkg = x := rfl
@[simp] theorem State.setPkg_agenda (s : State) (x : Pkg) : (s.setPkg x).agenda = s.agenda := rfl
@[simp] theorem State.setPkg_waits (s : State) (x : Pkg) : (s.setPkg x).waits = s.waits := rfl
@[simp] theorem State.setPkg_turn (s : State) (x : Pkg) : (s.setPkg x).turn = s.turn := rfl
@[simp] theorem State.setPkg_free (s : State) (x : Pkg) : (s.setPkg x).free = s.free := rfl
@[simp] theorem State.setPkg_time (s : State) (x : Pkg) : (s.setPkg x).time = s.time := rfl
@[simp] theorem State.setPkg_remoteBad (s : State) (x : Pkg) : (s.setPkg x).remoteBad = s.remoteBad := rfl

@[simp] theorem State.setMem_core (s : State) (x : Mem) : (s.setMem x).core = s.core := rfl
@[simp] theorem State.setMem_mem (s : State) (x : Mem) : (s.setMem x).mem = x := rfl
@[simp] theorem State.setMem_pkg (s : State) (x : Mem) : (s.setMem x).pkg = s.pkg := rfl
@[simp] theorem State.setMem_agenda (s : State) (x : Mem) : (s.setMem x).agenda = s.agenda := rfl
@[simp] theorem State.setMem_waits (s : State) (x : Mem) : (s.setMem x).waits = s.waits := rfl
@[simp] theorem State.setMem_turn (s : State) (x : Mem) : (s.setMem x).turn = s.turn := rfl
@[simp] theorem State.setMem_free (s : State) (x : Mem) : (s.setMem x).free = s.free := rfl
@[simp] theorem State.setMem_time (s : State) (x : Mem) : (s.setMem x).time = s.time := rfl
@[simp] theorem State.setMem_remoteBad (s : State) (x : Mem) : (s.setMem x).remoteBad = s.remoteBad := rfl

@[simp] theorem State.setLS_c (s : State) (k : LS) (x : LSStrand) : (s.setLS k x).core.c = s.core.c := by cases k <;> rfl
@[simp] theorem State.setLS_v (s : State) (k : LS) (x : LSStrand) : (s.setLS k x).core.v = s.core.v := by cases k <;> rfl
@[simp] theorem State.setLS_q (s : State) (k : LS) (x : LSStrand) : (s.setLS k x).core.q = s.core.q := by cases k <;> rfl
@[simp] theorem State.setLS_trap (s : State) (k : LS) (x : LSStrand) : (s.setLS k x).core.trap = s.core.trap := by cases k <;> rfl
@[simp] theorem State.setLS_csr (s : State) (k : LS) (x : LSStrand) : (s.setLS k x).core.csr = s.core.csr := by cases k <;> rfl
@[simp] theorem State.setLS_perf (s : State) (k : LS) (x : LSStrand) : (s.setLS k x).core.perf = s.core.perf := by cases k <;> rfl
@[simp] theorem State.setLS_pool (s : State) (k : LS) (x : LSStrand) : (s.setLS k x).core.pool = s.core.pool := by cases k <;> rfl
@[simp] theorem State.setLS_str (s : State) (k : LS) (x : LSStrand) : (s.setLS k x).core.str = s.core.str := by cases k <;> rfl
@[simp] theorem State.setLS_arr (s : State) (k : LS) (x : LSStrand) : (s.setLS k x).core.arr = s.core.arr := by cases k <;> rfl
@[simp] theorem State.setLS_eng (s : State) (k : LS) (x : LSStrand) : (s.setLS k x).core.eng = s.core.eng := by cases k <;> rfl
@[simp] theorem State.setLS_mig (s : State) (k : LS) (x : LSStrand) : (s.setLS k x).core.mig = s.core.mig := by cases k <;> rfl
@[simp] theorem State.setLS_mmu (s : State) (k : LS) (x : LSStrand) : (s.setLS k x).core.mmu = s.core.mmu := by cases k <;> rfl
@[simp] theorem State.setLS_ten (s : State) (k : LS) (x : LSStrand) : (s.setLS k x).core.ten = s.core.ten := by cases k <;> rfl
@[simp] theorem State.setLS_nb (s : State) (k : LS) (x : LSStrand) : (s.setLS k x).core.nb = s.core.nb := by cases k <;> rfl
@[simp] theorem State.setLS_fpc (s : State) (k : LS) (x : LSStrand) : (s.setLS k x).core.fpc = s.core.fpc := by cases k <;> rfl
@[simp] theorem State.setLS_lanes (s : State) (k : LS) (x : LSStrand) : (s.setLS k x).core.lanes = s.core.lanes := by cases k <;> rfl
@[simp] theorem State.setLS_ctx (s : State) (k : LS) (x : LSStrand) : (s.setLS k x).core.ctx = s.core.ctx := by cases k <;> rfl
@[simp] theorem State.setLS_dbg (s : State) (k : LS) (x : LSStrand) : (s.setLS k x).core.dbg = s.core.dbg := by cases k <;> rfl
@[simp] theorem State.setLS_mem (s : State) (k : LS) (x : LSStrand) : (s.setLS k x).mem = s.mem := by cases k <;> rfl
@[simp] theorem State.setLS_pkg (s : State) (k : LS) (x : LSStrand) : (s.setLS k x).pkg = s.pkg := by cases k <;> rfl
@[simp] theorem State.setLS_agenda (s : State) (k : LS) (x : LSStrand) : (s.setLS k x).agenda = s.agenda := by cases k <;> rfl
@[simp] theorem State.setLS_waits (s : State) (k : LS) (x : LSStrand) : (s.setLS k x).waits = s.waits := by cases k <;> rfl
@[simp] theorem State.setLS_turn (s : State) (k : LS) (x : LSStrand) : (s.setLS k x).turn = s.turn := by cases k <;> rfl
@[simp] theorem State.setLS_free (s : State) (k : LS) (x : LSStrand) : (s.setLS k x).free = s.free := by cases k <;> rfl
@[simp] theorem State.setLS_time (s : State) (k : LS) (x : LSStrand) : (s.setLS k x).time = s.time := by cases k <;> rfl
@[simp] theorem State.setLS_remoteBad (s : State) (k : LS) (x : LSStrand) : (s.setLS k x).remoteBad = s.remoteBad := by cases k <;> rfl
@[simp] theorem State.setLS_ls (s : State) (k : LS) (x : LSStrand) : (s.setLS k x).ls k = x := by cases k <;> rfl
@[simp] theorem State.setLS_l_l (s : State) (x : LSStrand) : (s.setLS .l x).core.l = x := rfl
@[simp] theorem State.setLS_l_s (s : State) (x : LSStrand) : (s.setLS .l x).core.s = s.core.s := rfl
@[simp] theorem State.setLS_s_s (s : State) (x : LSStrand) : (s.setLS .s x).core.s = x := rfl
@[simp] theorem State.setLS_s_l (s : State) (x : LSStrand) : (s.setLS .s x).core.l = s.core.l := rfl

@[simp] theorem State.setDesc_c (s : State) (r : SReg) (d : Desc) : (s.setDesc r d).core.c = s.core.c := rfl
@[simp] theorem State.setDesc_l (s : State) (r : SReg) (d : Desc) : (s.setDesc r d).core.l = s.core.l := rfl
@[simp] theorem State.setDesc_v (s : State) (r : SReg) (d : Desc) : (s.setDesc r d).core.v = s.core.v := rfl
@[simp] theorem State.setDesc_s (s : State) (r : SReg) (d : Desc) : (s.setDesc r d).core.s = s.core.s := rfl
@[simp] theorem State.setDesc_q (s : State) (r : SReg) (d : Desc) : (s.setDesc r d).core.q = s.core.q := rfl
@[simp] theorem State.setDesc_trap (s : State) (r : SReg) (d : Desc) : (s.setDesc r d).core.trap = s.core.trap := rfl
@[simp] theorem State.setDesc_csr (s : State) (r : SReg) (d : Desc) : (s.setDesc r d).core.csr = s.core.csr := rfl
@[simp] theorem State.setDesc_perf (s : State) (r : SReg) (d : Desc) : (s.setDesc r d).core.perf = s.core.perf := rfl
@[simp] theorem State.setDesc_pool (s : State) (r : SReg) (d : Desc) : (s.setDesc r d).core.pool = s.core.pool := rfl
@[simp] theorem State.setDesc_arr (s : State) (r : SReg) (d : Desc) : (s.setDesc r d).core.arr = s.core.arr := rfl
@[simp] theorem State.setDesc_eng (s : State) (r : SReg) (d : Desc) : (s.setDesc r d).core.eng = s.core.eng := rfl
@[simp] theorem State.setDesc_mig (s : State) (r : SReg) (d : Desc) : (s.setDesc r d).core.mig = s.core.mig := rfl
@[simp] theorem State.setDesc_mmu (s : State) (r : SReg) (d : Desc) : (s.setDesc r d).core.mmu = s.core.mmu := rfl
@[simp] theorem State.setDesc_l1 (s : State) (r : SReg) (d : Desc) : (s.setDesc r d).core.l1 = s.core.l1 := rfl
@[simp] theorem State.setDesc_units (s : State) (r : SReg) (d : Desc) : (s.setDesc r d).core.units = s.core.units := rfl
@[simp] theorem State.setDesc_ten (s : State) (r : SReg) (d : Desc) : (s.setDesc r d).core.ten = s.core.ten := rfl
@[simp] theorem State.setDesc_nb (s : State) (r : SReg) (d : Desc) : (s.setDesc r d).core.nb = s.core.nb := rfl
@[simp] theorem State.setDesc_fpc (s : State) (r : SReg) (d : Desc) : (s.setDesc r d).core.fpc = s.core.fpc := rfl
@[simp] theorem State.setDesc_lanes (s : State) (r : SReg) (d : Desc) : (s.setDesc r d).core.lanes = s.core.lanes := rfl
@[simp] theorem State.setDesc_ctx (s : State) (r : SReg) (d : Desc) : (s.setDesc r d).core.ctx = s.core.ctx := rfl
@[simp] theorem State.setDesc_dbg (s : State) (r : SReg) (d : Desc) : (s.setDesc r d).core.dbg = s.core.dbg := rfl
@[simp] theorem State.setDesc_mem (s : State) (r : SReg) (d : Desc) : (s.setDesc r d).mem = s.mem := rfl
@[simp] theorem State.setDesc_pkg (s : State) (r : SReg) (d : Desc) : (s.setDesc r d).pkg = s.pkg := rfl
@[simp] theorem State.setDesc_agenda (s : State) (r : SReg) (d : Desc) : (s.setDesc r d).agenda = s.agenda := rfl
@[simp] theorem State.setDesc_waits (s : State) (r : SReg) (d : Desc) : (s.setDesc r d).waits = s.waits := rfl
@[simp] theorem State.setDesc_turn (s : State) (r : SReg) (d : Desc) : (s.setDesc r d).turn = s.turn := rfl
@[simp] theorem State.setDesc_free (s : State) (r : SReg) (d : Desc) : (s.setDesc r d).free = s.free := rfl
@[simp] theorem State.setDesc_time (s : State) (r : SReg) (d : Desc) : (s.setDesc r d).time = s.time := rfl
@[simp] theorem State.setDesc_remoteBad (s : State) (r : SReg) (d : Desc) : (s.setDesc r d).remoteBad = s.remoteBad := rfl
@[simp] theorem State.desc_setDesc (s : State) (r : SReg) (d : Desc) : (s.setDesc r d).desc r = d :=
  Vector.getElem_set_self (xs := s.core.str) r.isLt
@[simp] theorem State.setPart_core (s : State) (p : BitVec 3) (x : Part) : (s.setPart p x).core = s.core := rfl
@[simp] theorem State.setPart_mem (s : State) (p : BitVec 3) (x : Part) : (s.setPart p x).mem = s.mem := rfl
@[simp] theorem State.setPart_agenda (s : State) (p : BitVec 3) (x : Part) : (s.setPart p x).agenda = s.agenda := rfl
@[simp] theorem State.setPart_waits (s : State) (p : BitVec 3) (x : Part) : (s.setPart p x).waits = s.waits := rfl
@[simp] theorem State.setPart_turn (s : State) (p : BitVec 3) (x : Part) : (s.setPart p x).turn = s.turn := rfl
@[simp] theorem State.setPart_free (s : State) (p : BitVec 3) (x : Part) : (s.setPart p x).free = s.free := rfl
@[simp] theorem State.setPart_time (s : State) (p : BitVec 3) (x : Part) : (s.setPart p x).time = s.time := rfl
@[simp] theorem State.setPart_remoteBad (s : State) (p : BitVec 3) (x : Part) : (s.setPart p x).remoteBad = s.remoteBad := rfl
@[simp] theorem State.part_setPart (s : State) (p : BitVec 3) (x : Part) : (s.setPart p x).part p = x :=
  Vector.getElem_set_self (xs := s.pkg.parts) p.isLt

@[simp] theorem State.setTrap_part (s : State) (x : Trap) (p : BitVec 3) : (s.setTrap x).part p = s.part p := rfl
@[simp] theorem State.setTrap_stepOn (s : State) (x : Trap) : (s.setTrap x).stepOn = s.stepOn := rfl
@[simp] theorem State.setTrap_rd8 (s : State) (x : Trap) (a : Nat) : (s.setTrap x).rd8 a = s.rd8 a := rfl
@[simp] theorem State.setC_part (s : State) (x : CStrand) (p : BitVec 3) : (s.setC x).part p = s.part p := rfl
@[simp] theorem State.setC_sup (s : State) (x : CStrand) : (s.setC x).sup = s.sup := rfl
@[simp] theorem State.setC_stepOn (s : State) (x : CStrand) : (s.setC x).stepOn = s.stepOn := rfl
@[simp] theorem State.setC_rd8 (s : State) (x : CStrand) (a : Nat) : (s.setC x).rd8 a = s.rd8 a := rfl
@[simp] theorem State.setV_part (s : State) (x : VStrand) (p : BitVec 3) : (s.setV x).part p = s.part p := rfl
@[simp] theorem State.setV_sup (s : State) (x : VStrand) : (s.setV x).sup = s.sup := rfl
@[simp] theorem State.setV_stepOn (s : State) (x : VStrand) : (s.setV x).stepOn = s.stepOn := rfl
@[simp] theorem State.setV_rd8 (s : State) (x : VStrand) (a : Nat) : (s.setV x).rd8 a = s.rd8 a := rfl
@[simp] theorem State.setQ_part (s : State) (x : Queues) (p : BitVec 3) : (s.setQ x).part p = s.part p := rfl
@[simp] theorem State.setQ_sup (s : State) (x : Queues) : (s.setQ x).sup = s.sup := rfl
@[simp] theorem State.setQ_stepOn (s : State) (x : Queues) : (s.setQ x).stepOn = s.stepOn := rfl
@[simp] theorem State.setQ_rd8 (s : State) (x : Queues) (a : Nat) : (s.setQ x).rd8 a = s.rd8 a := rfl
@[simp] theorem State.setCsr_part (s : State) (x : Csrs) (p : BitVec 3) : (s.setCsr x).part p = s.part p := rfl
@[simp] theorem State.setCsr_sup (s : State) (x : Csrs) : (s.setCsr x).sup = s.sup := rfl
@[simp] theorem State.setCsr_stepOn (s : State) (x : Csrs) : (s.setCsr x).stepOn = s.stepOn := rfl
@[simp] theorem State.setCsr_rd8 (s : State) (x : Csrs) (a : Nat) : (s.setCsr x).rd8 a = s.rd8 a := rfl
@[simp] theorem State.setCtx_part (s : State) (x : StepCtx) (p : BitVec 3) : (s.setCtx x).part p = s.part p := rfl
@[simp] theorem State.setCtx_sup (s : State) (x : StepCtx) : (s.setCtx x).sup = s.sup := rfl
@[simp] theorem State.setCtx_rd8 (s : State) (x : StepCtx) (a : Nat) : (s.setCtx x).rd8 a = s.rd8 a := rfl
@[simp] theorem State.setEng_part (s : State) (x : Engines) (p : BitVec 3) : (s.setEng x).part p = s.part p := rfl
@[simp] theorem State.setEng_sup (s : State) (x : Engines) : (s.setEng x).sup = s.sup := rfl
@[simp] theorem State.setEng_stepOn (s : State) (x : Engines) : (s.setEng x).stepOn = s.stepOn := rfl
@[simp] theorem State.setEng_rd8 (s : State) (x : Engines) (a : Nat) : (s.setEng x).rd8 a = s.rd8 a := rfl
@[simp] theorem State.setNb_part (s : State) (x : NearBank) (p : BitVec 3) : (s.setNb x).part p = s.part p := rfl
@[simp] theorem State.setNb_sup (s : State) (x : NearBank) : (s.setNb x).sup = s.sup := rfl
@[simp] theorem State.setNb_stepOn (s : State) (x : NearBank) : (s.setNb x).stepOn = s.stepOn := rfl
@[simp] theorem State.setNb_rd8 (s : State) (x : NearBank) (a : Nat) : (s.setNb x).rd8 a = s.rd8 a := rfl
@[simp] theorem State.setTen_part (s : State) (x : Tension) (p : BitVec 3) : (s.setTen x).part p = s.part p := rfl
@[simp] theorem State.setTen_sup (s : State) (x : Tension) : (s.setTen x).sup = s.sup := rfl
@[simp] theorem State.setTen_stepOn (s : State) (x : Tension) : (s.setTen x).stepOn = s.stepOn := rfl
@[simp] theorem State.setTen_rd8 (s : State) (x : Tension) (a : Nat) : (s.setTen x).rd8 a = s.rd8 a := rfl
@[simp] theorem State.setDbg_part (s : State) (x : Debug) (p : BitVec 3) : (s.setDbg x).part p = s.part p := rfl
@[simp] theorem State.setDbg_sup (s : State) (x : Debug) : (s.setDbg x).sup = s.sup := rfl
@[simp] theorem State.setDbg_stepOn (s : State) (x : Debug) : (s.setDbg x).stepOn = s.stepOn := rfl
@[simp] theorem State.setDbg_rd8 (s : State) (x : Debug) (a : Nat) : (s.setDbg x).rd8 a = s.rd8 a := rfl

end Sys2Proof.Machine
end

