-- ==== Sys2Proof/Laws/Memory.lean ====
section
/-! SUPPORT. The sparse lists and memory: a read after a write, what a write leaves alone, and that every memory operation keeps the
canonical form. -/

namespace Sys2Proof.Machine

variable {α : Type}

/-! ### Sparse lists -/

theorem kget_kset_same (l : List (Nat × α)) (k : Nat) (v d : α) : kget (kset l k v) k d = v := by
  induction l with
  | nil => simp [kset, kget]
  | cons h t ih =>
    obtain ⟨a, x⟩ := h
    simp only [kset]
    split
    · simp [kget]
    · split
      · simp [kget]
      · simp [kget, *]

theorem kget_kset_other (l : List (Nat × α)) {k j : Nat} (v d : α) (h : j ≠ k) : kget (kset l k v) j d = kget l j d := by
  induction l with
  | nil => simp only [kset, kget]; split <;> simp_all [eq_comm]
  | cons e t ih =>
    obtain ⟨a, x⟩ := e
    simp only [kset]
    split
    · rename_i hk
      simp only [kget]
      by_cases hj : j < k
      · simp [hj, Nat.lt_trans hj hk]
      · simp [hj, Ne.symm h]
    · split
      · rename_i ha
        subst ha
        simp [kget, Ne.symm h]
      · simp only [kget, ih]

theorem keysRise_le {l : List (Nat × α)} {a b : Nat} (h : a ≤ b) (hl : keysRise b l = true) : keysRise a l = true := by
  cases l with
  | nil => rfl
  | cons e t => simp only [keysRise, Bool.and_eq_true, decide_eq_true_eq] at *; exact ⟨by omega, hl.2⟩

theorem keysRise_kset {l : List (Nat × α)} {lo k : Nat} (v : α) (hk : lo ≤ k) (hl : keysRise lo l = true) : keysRise lo (kset l k v) = true := by
  induction l generalizing lo with
  | nil => simp [kset, keysRise, hk]
  | cons e t ih =>
    obtain ⟨a, x⟩ := e
    simp only [keysRise, Bool.and_eq_true, decide_eq_true_eq] at hl
    simp only [kset]
    split
    · simp only [keysRise, Bool.and_eq_true, decide_eq_true_eq]
      exact ⟨hk, by omega, hl.2⟩
    · split
      · rename_i h; subst h
        simp only [keysRise, Bool.and_eq_true, decide_eq_true_eq]; exact hl
      · simp only [keysRise, Bool.and_eq_true, decide_eq_true_eq]
        exact ⟨hl.1, ih (by omega) hl.2⟩

theorem keysRise_kdel {l : List (Nat × α)} {lo k : Nat} (hl : keysRise lo l = true) : keysRise lo (kdel l k) = true := by
  induction l generalizing lo with
  | nil => rfl
  | cons e t ih =>
    obtain ⟨a, x⟩ := e
    have h0 := hl
    simp only [keysRise, Bool.and_eq_true, decide_eq_true_eq] at hl
    simp only [kdel]
    split
    · exact h0
    · split
      · exact keysRise_le (by omega) hl.2
      · simp only [keysRise, Bool.and_eq_true, decide_eq_true_eq]
        exact ⟨hl.1, ih hl.2⟩

theorem kget_below {l : List (Nat × α)} {lo j : Nat} (d : α) (hl : keysRise lo l = true) (h : j < lo) : kget l j d = d := by
  cases l with
  | nil => rfl
  | cons e t =>
    obtain ⟨a, x⟩ := e
    simp only [keysRise, Bool.and_eq_true, decide_eq_true_eq] at hl
    simp [kget, show j < a by omega]

theorem kget_kdel_same {l : List (Nat × α)} {lo : Nat} (k : Nat) (d : α) (hl : keysRise lo l = true) : kget (kdel l k) k d = d := by
  induction l generalizing lo with
  | nil => rfl
  | cons e t ih =>
    obtain ⟨a, x⟩ := e
    simp only [keysRise, Bool.and_eq_true, decide_eq_true_eq] at hl
    simp only [kdel]
    split
    · simp [kget, *]
    · split
      · exact kget_below d hl.2 (by omega)
      · simp [kget, *, ih hl.2]

theorem kget_kdel_other {l : List (Nat × α)} {lo k j : Nat} (d : α) (hl : keysRise lo l = true) (h : j ≠ k) :
    kget (kdel l k) j d = kget l j d := by
  induction l generalizing lo with
  | nil => rfl
  | cons e t ih =>
    obtain ⟨a, x⟩ := e
    simp only [keysRise, Bool.and_eq_true, decide_eq_true_eq] at hl
    simp only [kdel]
    split
    · rfl
    · split
      · rename_i h2; subst h2
        simp only [kget, Ne.symm h, ite_false]
        split
        · exact kget_below d hl.2 (by omega)
        · rfl
      · simp only [kget, ih hl.2]

/-! ### The canonical form of memory -/

/-- The canonical form of a list of cells. -/
def cellsWf (l : List Host.Cell) : Bool := keysRise 0 l && l.all fun c => c.2 != unlistedByte

theorem Mem.wf_eq (m : Mem) : m.wf = cellsWf m.cells := rfl

theorem all_kset {p : Nat × α → Bool} {l : List (Nat × α)} {k : Nat} {v : α} (hl : l.all p = true) (hv : p (k, v) = true) :
    (kset l k v).all p = true := by
  induction l with
  | nil => simpa [kset] using hv
  | cons e t ih =>
    obtain ⟨a, x⟩ := e
    simp only [List.all_cons, Bool.and_eq_true] at hl
    simp only [kset]
    split
    · simp [hv, hl]
    · split <;> simp only [List.all_cons, Bool.and_eq_true]
      · exact ⟨hv, hl.2⟩
      · exact ⟨hl.1, ih hl.2⟩

theorem all_kdel {p : Nat × α → Bool} {l : List (Nat × α)} {k : Nat} (hl : l.all p = true) : (kdel l k).all p = true := by
  induction l with
  | nil => rfl
  | cons e t ih =>
    obtain ⟨a, x⟩ := e
    have h0 := hl
    simp only [List.all_cons, Bool.and_eq_true] at hl
    simp only [kdel]
    split
    · exact h0
    · split
      · exact hl.2
      · simp only [List.all_cons, Bool.and_eq_true]; exact ⟨hl.1, ih hl.2⟩

theorem cellsWf_cellSet {l : List Host.Cell} (a : Nat) (b : Byte) (h : cellsWf l = true) : cellsWf (cellSet l a b) = true := by
  simp only [cellsWf, Bool.and_eq_true] at *
  unfold cellSet
  split
  · exact ⟨keysRise_kdel h.1, all_kdel h.2⟩
  · exact ⟨keysRise_kset b (Nat.zero_le a) h.1, all_kset h.2 (by simpa using ‹_›)⟩

theorem cellsWf_foldl (cs : List Host.Cell) {l : List Host.Cell} (h : cellsWf l = true) :
    cellsWf (cs.foldl (fun x c => cellSet x c.1 c.2) l) = true := by
  induction cs generalizing l with
  | nil => exact h
  | cons c t ih => exact ih (cellsWf_cellSet c.1 c.2 h)

theorem keysRise_filter {l : List (Nat × α)} {lo : Nat} (p : Nat × α → Bool) (h : keysRise lo l = true) : keysRise lo (l.filter p) = true := by
  induction l generalizing lo with
  | nil => rfl
  | cons e t ih =>
    obtain ⟨a, x⟩ := e
    simp only [keysRise, Bool.and_eq_true, decide_eq_true_eq] at h
    rw [List.filter_cons]
    split
    · simp only [keysRise, Bool.and_eq_true, decide_eq_true_eq]; exact ⟨h.1, ih h.2⟩
    · exact keysRise_le (by omega) (ih h.2)

theorem cellsWf_filter {l : List Host.Cell} (p : Host.Cell → Bool) (h : cellsWf l = true) : cellsWf (l.filter p) = true := by
  simp only [cellsWf, Bool.and_eq_true, List.all_eq_true] at *
  exact ⟨keysRise_filter p h.1, fun x hx => h.2 x (List.mem_filter.mp hx).1⟩

/-- The byte written is the byte read. -/
theorem cellGet_cellSet_same {l : List Host.Cell} (a : Nat) (b : Byte) (h : cellsWf l = true) : cellGet (cellSet l a b) a = b := by
  simp only [cellsWf, Bool.and_eq_true] at h
  unfold cellSet cellGet
  split
  · rw [kget_kdel_same a _ h.1]; exact (‹b = unlistedByte›).symm
  · exact kget_kset_same _ _ _ _

/-- A write of one byte leaves every other alone. -/
theorem cellGet_cellSet_other {l : List Host.Cell} {a j : Nat} (b : Byte) (h : cellsWf l = true) (hj : j ≠ a) :
    cellGet (cellSet l a b) j = cellGet l j := by
  simp only [cellsWf, Bool.and_eq_true] at h
  unfold cellSet cellGet
  split
  · exact kget_kdel_other _ h.1 hj
  · exact kget_kset_other _ _ _ hj

/-- A list of writes leaves alone what it does not name. -/
theorem cellGet_foldl_other (cs : List Host.Cell) {l : List Host.Cell} {j : Nat} (h : cellsWf l = true) (hj : ∀ c ∈ cs, c.1 ≠ j) :
    cellGet (cs.foldl (fun x c => cellSet x c.1 c.2) l) j = cellGet l j := by
  induction cs generalizing l with
  | nil => rfl
  | cons c t ih =>
    rw [List.foldl_cons, ih (cellsWf_cellSet _ _ h) (fun x hx => hj x (List.mem_cons_of_mem _ hx)),
      cellGet_cellSet_other _ h (Ne.symm (hj c List.mem_cons_self))]

/-! ### Write events -/

/-- A write event leaves alone every byte at an address it does not name. -/
theorem State.memPut_rd8 {s : State} (cs : List Host.Cell) (o : Owner) (dev whole : Bool) (a : Nat) (h : s.mem.wf = true)
    (ha : ∀ c ∈ cs, s.norm c.1 ≠ s.norm a) : (s.memPut cs o dev whole).rd8 a = s.rd8 a := by
  apply cellGet_foldl_other _ h
  intro c hc
  obtain ⟨x, hx, rfl⟩ := List.mem_map.mp hc
  exact ha x hx

/-- Two machines that differ in memory, C's watch and the granules that wait alone. -/
def State.MemNear (s t : State) : Prop := ∃ m w g, t = { s with mem := m, core := { s.core with c := { s.core.c with watch := w }, nb := { s.core.nb with writes := g } } }

theorem State.MemNear.rfl' (s : State) : s.MemNear s := ⟨s.mem, s.core.c.watch, s.core.nb.writes, rfl⟩
theorem State.MemNear.trans {s t u : State} (h : s.MemNear t) (k : t.MemNear u) : s.MemNear u := by
  obtain ⟨m, w, g, rfl⟩ := h
  obtain ⟨m', w', g', rfl⟩ := k
  exact ⟨m', w', g', rfl⟩
theorem State.memPut_near (s : State) (cs : List Host.Cell) (o : Owner) (dev whole : Bool) : s.MemNear (s.memPut cs o dev whole) :=
  ⟨_, _, s.core.nb.writes, rfl⟩

/-- An event in the order of accesses changes the order book alone. -/
theorem State.orderAt_eq (s : State) (ag : Nat) (w : Bool) (pa : Nat) : ∃ o, s.orderAt ag w pa = { s with mem := { s.mem with order := o } } := by
  unfold State.orderAt
  split
  · exact ⟨s.mem.order, rfl⟩
  · split
    · rw [Bool.cond_eq_ite]; split
      · exact ⟨s.mem.order, rfl⟩
      · exact ⟨_, rfl⟩
    · exact ⟨s.mem.order, rfl⟩
theorem State.orderLines_eq (s : State) (ag : Nat) (w : Bool) (pas : List Nat) : ∃ o, s.orderLines ag w pas = { s with mem := { s.mem with order := o } } := by
  unfold State.orderLines
  split
  · exact ⟨s.mem.order, rfl⟩
  · have key : ∀ (l : List Nat) (s : State), ∃ o, l.foldl (fun s l => s.orderAt ag w (l * 128)) s = { s with mem := { s.mem with order := o } } := by
      intro l
      induction l with
      | nil => exact fun s => ⟨s.mem.order, rfl⟩
      | cons a t ih =>
        intro s
        obtain ⟨o, e⟩ := s.orderAt_eq ag w (a * 128)
        rw [List.foldl_cons, e]
        obtain ⟨o', e'⟩ := ih { s with mem := { s.mem with order := o } }
        exact ⟨o', e'⟩
    exact key _ s
/-- With no partition recording or replaying, no order is kept. -/
theorem State.orderAt_none {s : State} (ag : Nat) (w : Bool) (pa : Nat) (h : s.mem.order = none) : s.orderAt ag w pa = s := by
  unfold State.orderAt; rw [h]
theorem State.orderWaits_none {s : State} (ag pa : Nat) (h : s.mem.order = none) : s.orderWaits ag pa = false := by unfold State.orderWaits; rw [h]
theorem State.holdsAt_none {s : State} (ag pa : Nat) (reads writes : Bool) (h : s.mem.order = none) : s.holdsAt ag reads pa writes = s.waitsAt reads pa writes := by
  unfold State.holdsAt; rw [State.orderWaits_none _ _ h, Bool.or_false]

theorem State.granulePut_near (s : State) (g : Granule) : s.MemNear (s.granulePut g) := by
  obtain ⟨o, e⟩ := s.orderAt_eq 2 true g.pa
  unfold State.granulePut
  rw [e]
  exact ⟨_, _, s.core.nb.writes, rfl⟩

theorem State.granulePut_wf {s : State} (g : Granule) (h : s.mem.wf = true) : (s.granulePut g).mem.wf = true := by
  obtain ⟨o, e⟩ := s.orderAt_eq 2 true g.pa
  unfold State.granulePut
  rw [e]
  exact cellsWf_foldl _ h

/-- What precedes an ordinary write changes memory and the granules that wait (R315). -/
theorem State.rmwFirst_near (s : State) (pas : List Nat) : s.MemNear (s.rmwFirst pas) := by
  unfold State.rmwFirst
  dsimp only
  rw [Bool.cond_eq_ite]
  split
  · exact State.MemNear.rfl' s
  · have key : ∀ (l : List Granule) (u : State), u.MemNear (l.foldl State.granulePut u) := by
      intro l
      induction l with
      | nil => exact State.MemNear.rfl'
      | cons g t ih => exact fun u => (u.granulePut_near g).trans (ih _)
    exact State.MemNear.trans ⟨s.mem, s.core.c.watch, _, rfl⟩ (key _ _)
theorem State.rmwFirst_wf {s : State} (pas : List Nat) (h : s.mem.wf = true) : (s.rmwFirst pas).mem.wf = true := by
  unfold State.rmwFirst
  dsimp only
  rw [Bool.cond_eq_ite]
  split
  · exact h
  · have key : ∀ (l : List Granule) (u : State), u.mem.wf = true → (l.foldl State.granulePut u).mem.wf = true := by
      intro l
      induction l with
      | nil => exact fun _ h => h
      | cons g t ih => exact fun u hu => ih _ (State.granulePut_wf g hu)
    exact key _ _ h
/-- With no granule waiting, an ordinary write follows nothing. -/
theorem State.rmwFirst_none {s : State} (pas : List Nat) (h : s.core.nb.writes = []) : s.rmwFirst pas = s := by unfold State.rmwFirst; rw [h]; rfl

theorem State.memWrite_near (s : State) (cs : List Host.Cell) (o : Owner) (dev whole : Bool) : s.MemNear (s.memWrite cs o dev whole) :=
  (s.rmwFirst_near _).trans (State.memPut_near _ _ _ _ _)
/-- The canonical form of the machine's memory. -/
theorem State.memWrite_wf {s : State} (cs : List Host.Cell) (o : Owner) (dev whole : Bool) (h : s.mem.wf = true) :
    (s.memWrite cs o dev whole).mem.wf = true := cellsWf_foldl _ (State.rmwFirst_wf _ h)

@[simp] theorem State.rmwFirst_pkg (s : State) (pas : List Nat) : (s.rmwFirst pas).pkg = s.pkg := by
  obtain ⟨m, w, g, e⟩ := s.rmwFirst_near pas; rw [e]
@[simp] theorem State.rmwFirst_norm (s : State) (pas : List Nat) (a : Nat) : (s.rmwFirst pas).norm a = s.norm a := by
  unfold State.norm; rw [State.rmwFirst_pkg]

/-- A write event leaves alone every byte at an address it does not name, from what a near-bank row step that it follows has left (R315). -/
theorem State.memWrite_rd8 {s : State} (cs : List Host.Cell) (o : Owner) (dev whole : Bool) (a : Nat) (h : s.mem.wf = true)
    (ha : ∀ c ∈ cs, s.norm c.1 ≠ s.norm a) : (s.memWrite cs o dev whole).rd8 a = (s.rmwFirst (cs.map (·.1))).rd8 a :=
  State.memPut_rd8 _ _ _ _ _ (State.rmwFirst_wf _ h) (by simpa using ha)

@[simp] theorem State.memWrite_pkg (s : State) (cs : List Host.Cell) (o : Owner) (dev whole : Bool) : (s.memWrite cs o dev whole).pkg = s.pkg := by
  obtain ⟨m, w, g, e⟩ := s.memWrite_near cs o dev whole; rw [e]
@[simp] theorem State.memWrite_time (s : State) (cs : List Host.Cell) (o : Owner) (dev whole : Bool) : (s.memWrite cs o dev whole).time = s.time := by
  obtain ⟨m, w, g, e⟩ := s.memWrite_near cs o dev whole; rw [e]
@[simp] theorem State.memWrite_free (s : State) (cs : List Host.Cell) (o : Owner) (dev whole : Bool) : (s.memWrite cs o dev whole).free = s.free := by
  obtain ⟨m, w, g, e⟩ := s.memWrite_near cs o dev whole; rw [e]

/-! ### The memory-side cache and the L2 hold no bytes -/

/-- Two machines that differ in what the caches hold, in the stacks' trackers and selectors, and in C's watch; no byte of memory differs. -/
def State.CacheNear (s t : State) : Prop :=
  ∃ l2 mc st h w, t = { s with
    mem := { s.mem with l2 := l2, msc := mc, stale := st }, pkg := { s.pkg with hbm := h },
    core := { s.core with c := { s.core.c with watch := w } } }

theorem State.CacheNear.rfl' (s : State) : s.CacheNear s := ⟨_, _, _, _, _, rfl⟩
theorem State.CacheNear.trans {s t u : State} (h : s.CacheNear t) (k : t.CacheNear u) : s.CacheNear u := by
  obtain ⟨_, _, _, _, _, rfl⟩ := h
  obtain ⟨_, _, _, _, _, rfl⟩ := k
  exact ⟨_, _, _, _, _, rfl⟩
theorem State.CacheNear.wf {s t : State} (h : s.CacheNear t) (k : s.mem.wf = true) : t.mem.wf = true := by
  obtain ⟨_, _, _, _, _, rfl⟩ := h
  exact k

theorem State.mscDrop_near (s : State) (line : Nat) : s.CacheNear (s.mscDrop line) := by
  unfold State.mscDrop
  split
  · dsimp only; rw [Bool.cond_eq_ite]; split <;> exact ⟨_, _, _, _, _, rfl⟩
  · exact State.CacheNear.rfl' s
theorem State.mscPut_near (s : State) (line : Nat) (dirty mru : Bool) : s.CacheNear (s.mscPut line dirty mru) := by
  have key : ∀ u : State, s.CacheNear u → s.CacheNear (u.setMem { u.mem with msc := bif mru then ⟨line, dirty⟩ :: u.mem.msc else u.mem.msc ++ [⟨line, dirty⟩] }) :=
    fun u hu => hu.trans ⟨_, _, _, _, _, rfl⟩
  unfold State.mscPut
  apply key
  split
  · rw [Bool.cond_eq_ite]; split
    · exact s.mscDrop_near _
    · exact State.CacheNear.rfl' s
  · exact State.CacheNear.rfl' s
theorem State.mscAccess_near (s : State) (line : Nat) (p : Option (BitVec 3)) (w : Bool) : s.CacheNear (s.mscAccess line p w) := by
  unfold State.mscAccess
  split
  · exact ⟨_, _, _, _, _, rfl⟩
  · exact State.CacheNear.trans ⟨_, _, _, _, _, rfl⟩ (State.mscPut_near _ _ _ _)
theorem State.mscBack_near (s : State) (line : Nat) : s.CacheNear (s.mscBack line) := by
  unfold State.mscBack
  split
  · exact s.mscAccess_near _ _ _
  · split
    · exact State.CacheNear.trans ⟨_, _, _, _, _, rfl⟩ (State.mscPut_near _ _ _ _)
    · exact s.mscPut_near _ _ _
theorem State.l2Out_near (s : State) (x : L2Line) : s.CacheNear (s.l2Out x) := by
  unfold State.l2Out
  dsimp only
  rw [Bool.cond_eq_ite]
  split
  · exact ⟨_, _, _, _, _, rfl⟩
  · exact State.CacheNear.trans ⟨_, _, _, _, _, rfl⟩ (State.mscBack_near _ _)
theorem State.l2Leave_near (s : State) (line : Nat) : s.CacheNear (s.l2Leave line) := by
  unfold State.l2Leave
  split
  · exact s.l2Out_near _
  · exact State.CacheNear.rfl' s
/-- A write at the memory-side cache changes what the caches hold; its bytes take their place after (R321). -/
theorem State.atMsc_near (s : State) (pas : List Nat) : s.CacheNear (s.atMsc pas) := by
  unfold State.atMsc
  generalize ((pas.map fun a => lineOf (s.norm a)).eraseDups) = l
  refine State.CacheNear.trans (t := s.watchWrites pas) ⟨_, _, _, _, _, rfl⟩ ?_
  generalize s.watchWrites pas = s
  induction l generalizing s with
  | nil => exact State.CacheNear.rfl' s
  | cons a t ih =>
    rw [List.foldl_cons]
    refine State.CacheNear.trans ?_ (ih _)
    rw [Bool.cond_eq_ite]
    split
    · exact (s.l2Leave_near _).trans (State.mscAccess_near _ _ _ _)
    · exact State.CacheNear.rfl' s

/-- Two machines that differ in memory, in the stacks' trackers and selectors, in C's watch and in the granules that wait. -/
def State.UnitNear (s t : State) : Prop :=
  ∃ m h w g, t = { s with mem := m, pkg := { s.pkg with hbm := h }, core := { s.core with c := { s.core.c with watch := w }, nb := { s.core.nb with writes := g } } }
theorem State.CacheNear.unit {s t : State} (h : s.CacheNear t) : s.UnitNear t := by
  obtain ⟨_, _, _, _, _, rfl⟩ := h
  exact ⟨_, _, _, s.core.nb.writes, rfl⟩
theorem State.MemNear.unit {s t : State} (h : s.MemNear t) : s.UnitNear t := by
  obtain ⟨_, _, _, rfl⟩ := h
  exact ⟨_, s.pkg.hbm, _, _, rfl⟩
theorem State.UnitNear.trans {s t u : State} (h : s.UnitNear t) (k : t.UnitNear u) : s.UnitNear u := by
  obtain ⟨_, _, _, _, rfl⟩ := h
  obtain ⟨_, _, _, _, rfl⟩ := k
  exact ⟨_, _, _, _, rfl⟩
/-- What a unit's write event changes (R321). -/
theorem State.unitWrite_near (s : State) (cs : List Host.Cell) : s.UnitNear (s.unitWrite cs) :=
  (s.atMsc_near _).unit.trans (State.memWrite_near _ _ _ _ _).unit
theorem State.unitWrite_wf {s : State} (cs : List Host.Cell) (h : s.mem.wf = true) : (s.unitWrite cs).mem.wf = true :=
  State.memWrite_wf _ _ _ _ ((s.atMsc_near _).wf h)
@[simp] theorem State.unitWrite_parts (s : State) (cs : List Host.Cell) : (s.unitWrite cs).pkg.parts = s.pkg.parts := by
  obtain ⟨m, h, w, g, e⟩ := s.unitWrite_near cs; rw [e]
@[simp] theorem State.unitWrite_time (s : State) (cs : List Host.Cell) : (s.unitWrite cs).time = s.time := by
  obtain ⟨m, h, w, g, e⟩ := s.unitWrite_near cs; rw [e]

/-! ### Records, interrupts and posts keep the canonical form -/

@[simp] theorem State.msiRaw_mem (s : State) (p : BitVec 3) (v : BitVec 2) (n c : Nat) : (s.msiRaw p v n c).mem = s.mem := by
  unfold State.msiRaw; dsimp only; cases s.core.dbg.traceIrq == some p <;> rfl

theorem State.record_wf {s : State} (p : BitVec 3) (t : Nat) (c : Word32) (k a d : Word64) (h : s.mem.wf = true) : (s.record p t c k a d).mem.wf = true := by
  unfold State.record
  dsimp only
  simp only [Bool.cond_eq_ite]
  split
  · exact h
  · split
    · rw [State.msiRaw_mem, State.setPart_mem]; exact h
    · split <;> rw [State.setPart_mem]
      · exact State.unitWrite_wf _ h
      · exact h

theorem State.msi_wf {s : State} (p : BitVec 3) (v : BitVec 2) (n c : Nat) (h : s.mem.wf = true) : (s.msi p v n c).mem.wf = true := by
  unfold State.msi
  rw [Bool.cond_eq_ite]
  split
  · exact h
  · exact State.record_wf _ _ _ _ _ _ (by simpa using h)

theorem State.postNext_wf {s : State} (p : BitVec 3) (h : s.mem.wf = true) : (s.postNext p).mem.wf = true := by
  unfold State.postNext
  dsimp only
  simp only [Bool.cond_eq_ite]
  split
  · exact h
  · exact h
  · split
    · exact h
    · exact State.unitWrite_wf _ h
  · split
    · exact h
    · split
      · exact h
      · exact State.msi_wf _ _ _ _ (State.unitWrite_wf _ h)

theorem State.post_wf {s : State} (p : BitVec 3) (r : FaultRec) (h : s.mem.wf = true) : (s.post p r).mem.wf = true := by
  unfold State.post
  dsimp only
  simp only [Bool.cond_eq_ite]
  split
  · exact h
  · split <;> exact State.postNext_wf _ h

theorem State.memRec_wf {s : State} (t : BitVec 8) (pa : Nat) (h : s.mem.wf = true) : (s.memRec t pa).mem.wf = true := by
  unfold State.memRec
  split
  · exact State.post_wf _ _ h
  · exact h

/-- A write of bytes, with its records, keeps the canonical form. -/
theorem State.storeCells_wf {s : State} (cs : List Host.Cell) (o : Owner) (dev : Bool) (h : s.mem.wf = true) : (s.storeCells cs o dev).mem.wf = true := by
  unfold State.storeCells
  dsimp only
  have key : ∀ (l : List Nat) (u : State), u.mem.wf = true → (l.foldl (fun s l => s.memRec 0x21 (l * 128)) u).mem.wf = true := by
    intro l
    induction l with
    | nil => exact fun _ h => h
    | cons a t ih => exact fun u hu => ih _ (State.memRec_wf _ _ hu)
  exact key _ _ (State.memWrite_wf _ _ _ _ h)
/-- A store keeps the canonical form. -/
theorem State.store_wf {s : State} (pa : Nat) (bs : List Byte) (o : Owner) (dev : Bool) (h : s.mem.wf = true) : (s.store pa bs o dev).mem.wf = true :=
  State.storeCells_wf _ _ _ h
theorem State.unitStore_wf {s : State} (cs : List Host.Cell) (h : s.mem.wf = true) : (s.unitStore cs).mem.wf = true :=
  State.storeCells_wf _ _ _ ((s.atMsc_near _).wf h)

/-- C's pending store, taking place, keeps the canonical form. -/
theorem State.flushStore_wf {s : State} (h : s.mem.wf = true) : s.flushStore.mem.wf = true := by
  unfold State.flushStore
  split
  · exact h
  · rename_i st _
    obtain ⟨o, e⟩ := State.orderAt_eq (s.setC { s.core.c with store := none }) 0 true st.pa
    rw [e]
    exact State.store_wf _ _ _ _ h

end Sys2Proof.Machine
end

