-- ==== Sys2Proof/Laws/Ops.lean ====
section
/-! SUPPORT. What the shared operations on registers, queues, counters and traps can do, said once each. -/

namespace Sys2Proof.Machine

/-! ### Registers and queues of C -/

@[simp] theorem State.xRead_zero (s : State) : s.xRead 0 = 0 := rfl

@[simp] theorem State.xWrite_zero (s : State) (v : Word64) : s.xWrite 0 v = s := rfl

/-- A register that is no port, in the view of the mode, holds what was written to it. -/
theorem State.xRead_xWrite_same (s : State) (r : XReg) (v : Word64) (h0 : r ≠ 0) (hp : s.sup = true ∨ r.toNat < 24 ∨ 29 < r.toNat) :
    (s.xWrite r v).xRead r = v := by
  unfold State.xWrite
  rw [if_neg h0]
  split
  · rename_i hr
    have hs : s.sup = true := by rcases hp with h | h | h <;> [exact h; omega; omega]
    rw [hs]
    unfold State.xRead
    rw [if_neg h0, if_pos hr]
    simp only [cond_true, State.setC_sup, hs, State.setC_c, vget, vset]
    have : r.toNat - 24 < 6 := by omega
    simp [List.getD_eq_getElem?_getD, Vector.setIfInBounds, this]
  · rename_i hr
    unfold State.xRead
    rw [if_neg h0, if_neg hr]
    exact Vector.getElem_set_self (xs := s.core.c.regs) r.isLt

/-- A write of one register leaves every other register's value alone, whatever queue it pushes. -/
theorem State.xRead_xWrite_other (s : State) (r q : XReg) (v : Word64) (h : q ≠ r) (hq : q ≠ 28 ∧ q ≠ 29 ∨ s.sup = true) :
    (s.xWrite r v).xRead q = s.xRead q := by
  have hn : q.toNat ≠ r.toNat := fun e => h (BitVec.eq_of_toNat_eq e)
  unfold State.xWrite
  split
  · rfl
  · split
    · rename_i hr
      rw [Bool.cond_eq_ite]
      split
      · rename_i hs
        unfold State.xRead
        split
        · rfl
        · split
          · rename_i hq'
            simp only [State.setC_sup, hs, cond_true, State.setC_c, vget, vset]
            have h1 : r.toNat - 24 ≠ q.toNat - 24 := by omega
            simp [List.getD_eq_getElem?_getD, Vector.setIfInBounds, h1]
          · rfl
      · rename_i hs
        have hs : s.sup = false := by simpa using hs
        have hq : q ≠ 28 ∧ q ≠ 29 := hq.resolve_right (by simp [hs])
        have key : ∀ x : Queues, (s.setQ x).xRead q = s.xRead q := by
          intro x
          unfold State.xRead
          split
          · rfl
          · simp only [State.setQ_sup, hs, cond_false, if_neg hq.1, if_neg hq.2, State.setQ_c]
        repeat' split
        all_goals exact key _
    · rename_i hr
      unfold State.xRead
      split
      · rfl
      · split
        · rfl
        · exact Vector.getElem_set_ne (xs := s.core.c.regs) r.isLt q.isLt (Ne.symm hn)

/-! ### Counting and interrupts -/

/-- Out of record mode nothing is recorded. -/
theorem State.record_quiet {s : State} {p : BitVec 3} (t : Nat) (c : Word32) (k a d : Word64) (h : (s.part p).repMode ≠ 1) :
    s.record p t c k a d = s := by
  have hb : ((s.part p).repMode != 1) = true := by simpa using h
  unfold State.record
  simp only [hb, Bool.true_or, cond_true]

/-- Out of record mode an interrupt changes the messages sent or held off and the interrupt trace alone. -/
theorem State.msi_quiet {s : State} {p : BitVec 3} (v : BitVec 2) (n c : Nat) (h : (s.part p).repMode ≠ 1) :
    ∃ m d l, s.msi p v n c = { s with core := { s.core with dbg := { s.core.dbg with irqLines := l } }, pkg := { s.pkg with msi := m, heldMsi := d } } := by
  unfold State.msi
  rw [Bool.cond_eq_ite]
  split
  · exact ⟨s.pkg.msi, _, s.core.dbg.irqLines, rfl⟩
  · have hq : ((s.msiRaw p v n c).part p).repMode ≠ 1 := by
      unfold State.msiRaw; dsimp only; rw [Bool.cond_eq_ite]; split <;> exact h
    rw [State.record_quiet _ _ _ _ _ hq]
    unfold State.msiRaw
    dsimp only
    rw [Bool.cond_eq_ite]
    split
    · exact ⟨_, s.pkg.heldMsi, _, rfl⟩
    · exact ⟨_, s.pkg.heldMsi, s.core.dbg.irqLines, rfl⟩

theorem State.ovfInts_quiet {p : BitVec 3} (v : BitVec 2) (k : Vector (BitVec 10) 32) (w : List Nat) {s : State} (h : (s.part p).repMode ≠ 1) :
    ∃ m d l, s.ovfInts p v k w = { s with core := { s.core with dbg := { s.core.dbg with irqLines := l } }, pkg := { s.pkg with msi := m, heldMsi := d } } := by
  unfold State.ovfInts
  induction w generalizing s with
  | nil => exact ⟨s.pkg.msi, s.pkg.heldMsi, s.core.dbg.irqLines, rfl⟩
  | cons a t ih =>
    rw [List.foldl_cons, Bool.cond_eq_ite]
    split
    · obtain ⟨m, d, l, e⟩ := State.msi_quiet (s := s) v 1 a h
      rw [e]
      have h' : ((({ s with core := { s.core with dbg := { s.core.dbg with irqLines := l } }, pkg := { s.pkg with msi := m, heldMsi := d } } : State)).part p).repMode ≠ 1 := h
      obtain ⟨m', d', l', e'⟩ := ih h'
      exact ⟨m', d', l', e'⟩
    · exact ih h

/-- Out of record mode, counting an event changes the counters, the messages sent or held off and the interrupt trace alone (R375, R376, R378). -/
theorem State.count_quiet {s : State} (ev : BitVec 8) (n : Nat) (h : s.Quiet) :
    ∃ m d l, s.count ev n = { s with core := { s.core with perf := (s.core.perf.add ev n).1, units := unitCount s.core.units ev n,
                                                           dbg := { s.core.dbg with irqLines := l } },
                                     pkg := { s.pkg with msi := m, heldMsi := d } } := by
  unfold State.count
  have h' : (({ s with core := { s.core with perf := (s.core.perf.add ev n).1, units := unitCount s.core.units ev n } } : State).part s.perfOwner.1).repMode ≠ 1 := h _
  obtain ⟨m, d, l, e⟩ := State.ovfInts_quiet s.perfOwner.2 (s.core.perf.add ev n).1.csel (s.core.perf.add ev n).2 h'
  exact ⟨m, d, l, e⟩

/-- The retirement of a C word, out of record mode: the watchdog starts again, the word is counted, and C goes on (R44, R376). -/
theorem State.cGo_quiet {s : State} (pc : Word64) (h : s.Quiet) :
    ∃ m d l, s.cGo pc = { s with
      core := { s.core with perf := (s.core.perf.add 0x04 1).1, units := unitCount s.core.units 0x04 1,
                            dbg := { s.core.dbg with irqLines := l }, trap := { s.core.trap with dog := 0, moved := 15 },
                            ctx := { s.core.ctx with cWords := s.core.ctx.cWords + 1 },
                            c := { s.core.c with pc := pc, run := .ready, blocked := false } },
      pkg := { s.pkg with msi := m, heldMsi := d } } := by
  unfold State.cGo
  have h' : s.touch.Quiet := h
  obtain ⟨m, d, l, e⟩ := State.count_quiet 0x04 1 h'
  rw [e]
  exact ⟨m, d, l, rfl⟩

/-- The retirement of a C word leaves memory alone out of record mode. -/
theorem State.cGo_mem {s : State} (pc : Word64) (h : s.Quiet) : (s.cGo pc).mem = s.mem := by
  obtain ⟨m, d, l, e⟩ := State.cGo_quiet pc h; rw [e]

@[simp] theorem State.cGo_pc (s : State) (pc : Word64) : (s.cGo pc).core.c.pc = pc := rfl
@[simp] theorem State.cGo_run (s : State) (pc : Word64) : (s.cGo pc).core.c.run = .ready := rfl
@[simp] theorem State.cGo_blocked (s : State) (pc : Word64) : (s.cGo pc).core.c.blocked = false := rfl
@[simp] theorem State.cRetire_pc (s : State) (srcs : List XReg) (d : XReg) (v pc : Word64) : (s.cRetire srcs d v pc).core.c.pc = pc := rfl

/-- A C word that only computes answers a next state, always. -/
theorem State.cExec_next (s : State) (srcs : List XReg) (d : XReg) (v : Word64) : ∃ t, s.cExec srcs d v = .next t := ⟨_, rfl⟩

/-- A C word that only computes, its ports ready, retires. -/
theorem State.cExec_ready {s : State} {srcs : List XReg} {d : XReg} (v : Word64) (h : s.cReady srcs d = true) :
    s.cExec srcs d v = .next (s.cRetire srcs d v s.pc4) := by
  unfold State.cExec; rw [h]; rfl

/-- A stalled C word changes nothing but that C is blocked (R17). -/
theorem State.cStall_eq (s : State) : s.cStall = { s with core := { s.core with c := { s.core.c with blocked := true } } } := rfl

/-! ### Traps -/

@[simp] theorem State.takeTrap_mode (s : State) (k : Strand) (cause : BitVec 8) (a b c : Word64) : (s.takeTrap k cause a b c).core.trap.mode = true := rfl
@[simp] theorem State.takeTrap_frz (s : State) (k : Strand) (cause : BitVec 8) (a b c : Word64) : (s.takeTrap k cause a b c).core.trap.frz = true := rfl
@[simp] theorem State.takeTrap_cause (s : State) (k : Strand) (cause : BitVec 8) (a b c : Word64) : (s.takeTrap k cause a b c).core.trap.cause = cause := rfl
@[simp] theorem State.takeTrap_strand (s : State) (k : Strand) (cause : BitVec 8) (a b c : Word64) :
    (s.takeTrap k cause a b c).core.trap.strand = strandCode k := rfl
@[simp] theorem State.takeTrap_tfpc (s : State) (k : Strand) (cause : BitVec 8) (a b c : Word64) : (s.takeTrap k cause a b c).core.trap.tfpc = a := rfl
@[simp] theorem State.takeTrap_tval (s : State) (k : Strand) (cause : BitVec 8) (a b c : Word64) : (s.takeTrap k cause a b c).core.trap.tval = b := rfl
@[simp] theorem State.takeTrap_tepc (s : State) (k : Strand) (cause : BitVec 8) (a b c : Word64) : (s.takeTrap k cause a b c).core.trap.tepc = c := rfl
@[simp] theorem State.takeTrap_wait (s : State) (k : Strand) (cause : BitVec 8) (a b c : Word64) : (s.takeTrap k cause a b c).core.trap.wait = none := rfl
@[simp] theorem State.takeTrap_pc (s : State) (k : Strand) (cause : BitVec 8) (a b c : Word64) :
    (s.takeTrap k cause a b c).core.c.pc = s.flushStore.core.trap.tvec := rfl
@[simp] theorem State.takeTrap_run (s : State) (k : Strand) (cause : BitVec 8) (a b c : Word64) : (s.takeTrap k cause a b c).core.c.run = .ready := rfl

/-- Taking a trap keeps memory's canonical form. -/
theorem State.takeTrap_wf {s : State} (k : Strand) (cause : BitVec 8) (a b c : Word64) (h : s.mem.wf = true) :
    (s.takeTrap k cause a b c).mem.wf = true := State.flushStore_wf h

/-- Returning from a trap of a running step: the mode and C's PC are restored and the freeze ends (R30, R117). -/
theorem State.doEret_step {s : State} (h : s.core.trap.noStep = .no) :
    s.doEret.core.trap.mode = s.core.trap.pm ∧ s.doEret.core.trap.frz = false ∧ s.doEret.core.c.pc = s.core.trap.tepc &&& ~~~3 ∧
      s.doEret.core.c.run = .ready := by
  unfold State.doEret
  simp only [h]
  refine ⟨?_, ?_, ?_, ?_⟩ <;> trivial

/-- A cause raised with no wait in force, that is neither forwarded nor waits for its freeze, is a trap at C's instruction boundary (R30, R32). -/
theorem State.raise_trap {s : State} (k : Strand) (cause : BitVec 8) (tval tfpc : Word64) (aux : Word32) (hs : s.sup = false)
    (hw : s.core.trap.wait = none) (hc : cause ≠ 0x06 ∧ cause ≠ 0x07 ∧ cause ≠ 0x08 ∧ cause ≠ 0x16) :
    s.raise k cause tval tfpc aux = s.trapNow k cause tfpc tval := by
  have hf : s.forwards cause = false := by
    simp only [State.forwards, beq_eq_false_iff_ne.mpr hc.1, beq_eq_false_iff_ne.mpr hc.2.1, beq_eq_false_iff_ne.mpr hc.2.2.1,
      beq_eq_false_iff_ne.mpr hc.2.2.2, Bool.or_false, Bool.false_and]
  simp only [State.raise, hs, hw, hf, beq_eq_false_iff_ne.mpr hc.1, beq_eq_false_iff_ne.mpr hc.2.1, beq_eq_false_iff_ne.mpr hc.2.2.1,
    Bool.or_false, cond_false, Option.isSome_none]

/-- In supervisor mode a synchronous cause is a double trap (R41). -/
theorem State.raise_double {s : State} (k : Strand) (cause : BitVec 8) (tval tfpc : Word64) (aux : Word32) (hs : s.sup = true) :
    s.raise k cause tval tfpc aux = s.doubleTrap k cause tfpc tval := by
  unfold State.raise
  simp [hs]

end Sys2Proof.Machine
end

