-- ==== Sys2Proof/Laws/Events.lean ====
section
/-! SUPPORT. What a memory event, a record, an interrupt and a fault-queue record leave alone; what a retired C word leaves (Retired). -/

namespace Sys2Proof.Machine

/-! ### Partitions -/

theorem State.part_setPart_other (s : State) {p q : BitVec 3} (x : Part) (h : q ≠ p) : (s.setPart p x).part q = s.part q := by
  have hn : p.toNat ≠ q.toNat := fun e => h (BitVec.eq_of_toNat_eq e.symm)
  exact Vector.getElem_set_ne (xs := s.pkg.parts) p.isLt q.isLt hn

/-- A partition replaced by one in the same replay mode. -/
theorem State.setPart_rep (s : State) (p q : BitVec 3) (x : Part) (h : x.repMode = (s.part p).repMode) :
    ((s.setPart p x).part q).repMode = (s.part q).repMode := by
  by_cases e : q = p
  · subst e; rw [State.part_setPart]; exact h
  · rw [State.part_setPart_other s x e]

@[simp] theorem State.memWrite_part (s : State) (cs : List Host.Cell) (o : Owner) (dev whole : Bool) (q : BitVec 3) :
    (s.memWrite cs o dev whole).part q = s.part q := by unfold State.part; rw [State.memWrite_pkg]
@[simp] theorem State.unitWrite_part (s : State) (cs : List Host.Cell) (q : BitVec 3) : (s.unitWrite cs).part q = s.part q := by
  unfold State.part; rw [State.unitWrite_parts]
@[simp] theorem State.msiRaw_part (s : State) (p q : BitVec 3) (v : BitVec 2) (n c : Nat) : (s.msiRaw p v n c).part q = s.part q := by
  unfold State.msiRaw; dsimp only; cases s.core.dbg.traceIrq == some p <;> rfl

@[simp] theorem State.record_rep (s : State) (p q : BitVec 3) (t : Nat) (c : Word32) (k a d : Word64) :
    ((s.record p t c k a d).part q).repMode = (s.part q).repMode := by
  unfold State.record
  dsimp only
  simp only [Bool.cond_eq_ite]
  split
  · rfl
  · split
    · rw [State.msiRaw_part]; exact State.setPart_rep _ _ _ _ rfl
    · rw [State.setPart_rep _ _ _ _ (by rfl)]
      split
      · rw [State.unitWrite_part]
      · rfl
@[simp] theorem State.msi_rep (s : State) (p q : BitVec 3) (v : BitVec 2) (n c : Nat) : ((s.msi p v n c).part q).repMode = (s.part q).repMode := by
  unfold State.msi
  rw [Bool.cond_eq_ite]
  split
  · rfl
  · rw [State.record_rep, State.msiRaw_part]
@[simp] theorem State.postNext_rep (s : State) (p q : BitVec 3) : ((s.postNext p).part q).repMode = (s.part q).repMode := by
  unfold State.postNext
  dsimp only
  simp only [Bool.cond_eq_ite]
  split
  · rfl
  · exact State.setPart_rep _ _ _ _ rfl
  · split
    · rfl
    · rw [State.unitWrite_part]; exact State.setPart_rep _ _ _ _ rfl
  · split
    · exact State.setPart_rep _ _ _ _ rfl
    · split
      · rfl
      · rw [State.msi_rep, State.unitWrite_part]; exact State.setPart_rep _ _ _ _ rfl
@[simp] theorem State.post_rep (s : State) (p q : BitVec 3) (r : FaultRec) : ((s.post p r).part q).repMode = (s.part q).repMode := by
  unfold State.post
  dsimp only
  simp only [Bool.cond_eq_ite]
  split
  · rfl
  · split <;> rw [State.postNext_rep] <;> exact State.setPart_rep _ _ _ _ rfl
@[simp] theorem State.memRec_rep (s : State) (t : BitVec 8) (pa : Nat) (q : BitVec 3) : ((s.memRec t pa).part q).repMode = (s.part q).repMode := by
  unfold State.memRec
  split
  · exact State.post_rep _ _ _ _
  · rfl
@[simp] theorem State.storeCells_rep (s : State) (cs : List Host.Cell) (o : Owner) (dev : Bool) (q : BitVec 3) :
    ((s.storeCells cs o dev).part q).repMode = (s.part q).repMode := by
  have key : ∀ (l : List Nat) (u : State), ((l.foldl (fun s l => s.memRec 0x21 (l * 128)) u).part q).repMode = (u.part q).repMode := by
    intro l
    induction l with
    | nil => exact fun _ => rfl
    | cons a t ih => exact fun u => (ih _).trans (State.memRec_rep _ _ _ _)
  unfold State.storeCells
  dsimp only
  rw [key, State.memWrite_part]
@[simp] theorem State.store_rep (s : State) (pa : Nat) (bs : List Byte) (o : Owner) (dev : Bool) (q : BitVec 3) :
    ((s.store pa bs o dev).part q).repMode = (s.part q).repMode := State.storeCells_rep _ _ _ _ _
@[simp] theorem State.orderAt_part (s : State) (ag : Nat) (w : Bool) (pa : Nat) (q : BitVec 3) : (s.orderAt ag w pa).part q = s.part q := by
  obtain ⟨o, e⟩ := s.orderAt_eq ag w pa; rw [e]; rfl
@[simp] theorem State.flushStore_rep (s : State) (q : BitVec 3) : (s.flushStore.part q).repMode = (s.part q).repMode := by
  unfold State.flushStore
  split
  · rfl
  · rw [State.store_rep, State.orderAt_part]; rfl

/-! ### Time -/

@[simp] theorem State.msiRaw_time (s : State) (p : BitVec 3) (v : BitVec 2) (n c : Nat) : (s.msiRaw p v n c).time = s.time := by
  unfold State.msiRaw; dsimp only; cases s.core.dbg.traceIrq == some p <;> rfl
@[simp] theorem State.record_time (s : State) (p : BitVec 3) (t : Nat) (c : Word32) (k a d : Word64) : (s.record p t c k a d).time = s.time := by
  unfold State.record
  dsimp only
  simp only [Bool.cond_eq_ite]
  split
  · rfl
  · split
    · rw [State.msiRaw_time, State.setPart_time]
    · split <;> rw [State.setPart_time]
      rw [State.unitWrite_time]
@[simp] theorem State.msi_time (s : State) (p : BitVec 3) (v : BitVec 2) (n c : Nat) : (s.msi p v n c).time = s.time := by
  unfold State.msi
  rw [Bool.cond_eq_ite]
  split
  · rfl
  · rw [State.record_time, State.msiRaw_time]
@[simp] theorem State.postNext_time (s : State) (p : BitVec 3) : (s.postNext p).time = s.time := by
  unfold State.postNext
  dsimp only
  simp only [Bool.cond_eq_ite]
  split
  · rfl
  · rfl
  · split
    · rfl
    · rw [State.unitWrite_time]; rfl
  · split
    · rfl
    · split
      · rfl
      · rw [State.msi_time, State.unitWrite_time]; rfl
@[simp] theorem State.post_time (s : State) (p : BitVec 3) (r : FaultRec) : (s.post p r).time = s.time := by
  unfold State.post
  dsimp only
  simp only [Bool.cond_eq_ite]
  split
  · rfl
  · split <;> rw [State.postNext_time] <;> rfl
@[simp] theorem State.memRec_time (s : State) (t : BitVec 8) (pa : Nat) : (s.memRec t pa).time = s.time := by
  unfold State.memRec
  split
  · exact State.post_time _ _ _
  · rfl
@[simp] theorem State.storeCells_time (s : State) (cs : List Host.Cell) (o : Owner) (dev : Bool) : (s.storeCells cs o dev).time = s.time := by
  have key : ∀ (l : List Nat) (u : State), (l.foldl (fun s l => s.memRec 0x21 (l * 128)) u).time = u.time := by
    intro l
    induction l with
    | nil => exact fun _ => rfl
    | cons a t ih => exact fun u => (ih _).trans (State.memRec_time _ _ _)
  unfold State.storeCells
  dsimp only
  rw [key, State.memWrite_time]
@[simp] theorem State.store_time (s : State) (pa : Nat) (bs : List Byte) (o : Owner) (dev : Bool) : (s.store pa bs o dev).time = s.time :=
  State.storeCells_time _ _ _ _
@[simp] theorem State.orderAt_time (s : State) (ag : Nat) (w : Bool) (pa : Nat) : (s.orderAt ag w pa).time = s.time := by
  obtain ⟨o, e⟩ := s.orderAt_eq ag w pa; rw [e]
@[simp] theorem State.orderAt_core (s : State) (ag : Nat) (w : Bool) (pa : Nat) : (s.orderAt ag w pa).core = s.core := by
  obtain ⟨o, e⟩ := s.orderAt_eq ag w pa; rw [e]
@[simp] theorem State.flushStore_time (s : State) : s.flushStore.time = s.time := by
  unfold State.flushStore
  split
  · rfl
  · rw [State.store_time, State.orderAt_time]; rfl

/-! ### The core -/

/-- Two cores that differ in the watch, the near-bank granules that wait and the interrupt trace alone. -/
def Core.Near (a b : Core) : Prop :=
  ∃ w g l, b = { a with c := { a.c with watch := w }, nb := { a.nb with writes := g }, dbg := { a.dbg with irqLines := l } }

theorem Core.Near.rfl' (a : Core) : Core.Near a a := ⟨a.c.watch, a.nb.writes, a.dbg.irqLines, rfl⟩
theorem Core.Near.trans {a b c : Core} (h : Core.Near a b) (k : Core.Near b c) : Core.Near a c := by
  obtain ⟨w, g, l, rfl⟩ := h
  obtain ⟨w', g', l', rfl⟩ := k
  exact ⟨w', g', l', rfl⟩

theorem State.memWrite_core (s : State) (cs : List Host.Cell) (o : Owner) (dev whole : Bool) : Core.Near s.core (s.memWrite cs o dev whole).core := by
  obtain ⟨m, w, g, e⟩ := s.memWrite_near cs o dev whole
  rw [e]
  exact ⟨w, g, s.core.dbg.irqLines, rfl⟩
theorem State.unitWrite_core (s : State) (cs : List Host.Cell) : Core.Near s.core (s.unitWrite cs).core := by
  obtain ⟨m, h, w, g, e⟩ := s.unitWrite_near cs
  rw [e]
  exact ⟨w, g, s.core.dbg.irqLines, rfl⟩
theorem State.msiRaw_near (s : State) (p : BitVec 3) (v : BitVec 2) (n c : Nat) : Core.Near s.core (s.msiRaw p v n c).core := by
  unfold State.msiRaw
  dsimp only
  rw [Bool.cond_eq_ite]
  split
  · exact ⟨s.core.c.watch, s.core.nb.writes, _, rfl⟩
  · exact Core.Near.rfl' _
theorem State.record_near (s : State) (p : BitVec 3) (t : Nat) (c : Word32) (k a d : Word64) : Core.Near s.core (s.record p t c k a d).core := by
  unfold State.record
  dsimp only
  simp only [Bool.cond_eq_ite]
  split
  · exact Core.Near.rfl' _
  · split
    · exact State.msiRaw_near (s.setPart p _) p 0 3 2
    · split <;> rw [State.setPart_core]
      · exact State.unitWrite_core _ _
      · exact Core.Near.rfl' _
theorem State.msi_near (s : State) (p : BitVec 3) (v : BitVec 2) (n c : Nat) : Core.Near s.core (s.msi p v n c).core := by
  unfold State.msi
  rw [Bool.cond_eq_ite]
  split
  · exact Core.Near.rfl' _
  · exact (State.msiRaw_near s p v n c).trans (State.record_near _ _ _ _ _ _ _)
theorem State.postNext_near (s : State) (p : BitVec 3) : Core.Near s.core (s.postNext p).core := by
  unfold State.postNext
  dsimp only
  simp only [Bool.cond_eq_ite]
  split
  · exact Core.Near.rfl' _
  · exact Core.Near.rfl' _
  · split
    · exact Core.Near.rfl' _
    · exact State.unitWrite_core (s.setPart p _) _
  · split
    · exact Core.Near.rfl' _
    · split
      · exact Core.Near.rfl' _
      · exact (State.unitWrite_core (s.setPart p _) _).trans (State.msi_near _ _ _ _ _)
theorem State.post_near (s : State) (p : BitVec 3) (r : FaultRec) : Core.Near s.core (s.post p r).core := by
  unfold State.post
  dsimp only
  simp only [Bool.cond_eq_ite]
  split
  · exact Core.Near.rfl' _
  · split <;> exact State.postNext_near (s.setPart p _) p
theorem State.memRec_near (s : State) (t : BitVec 8) (pa : Nat) : Core.Near s.core (s.memRec t pa).core := by
  unfold State.memRec
  split
  · exact State.post_near _ _ _
  · exact Core.Near.rfl' _
theorem State.storeCells_near (s : State) (cs : List Host.Cell) (o : Owner) (dev : Bool) : Core.Near s.core (s.storeCells cs o dev).core := by
  have key : ∀ (l : List Nat) (u : State), Core.Near u.core (l.foldl (fun s l => s.memRec 0x21 (l * 128)) u).core := by
    intro l
    induction l with
    | nil => exact fun _ => Core.Near.rfl' _
    | cons a t ih => exact fun u => (State.memRec_near _ _ _).trans (ih _)
  exact (State.memWrite_core _ _ _ _ _).trans (key _ _)
theorem State.store_near (s : State) (pa : Nat) (bs : List Byte) (o : Owner) (dev : Bool) : Core.Near s.core (s.store pa bs o dev).core :=
  State.storeCells_near _ _ _ _

/-- Placing C's pending store changes of the core the store buffer, the watch, the near-bank granules that wait and the interrupt trace alone. -/
theorem State.flushStore_core (s : State) :
    ∃ w g l, s.flushStore.core = { s.core with
      c := { s.core.c with store := none, watch := w }, nb := { s.core.nb with writes := g }, dbg := { s.core.dbg with irqLines := l } } := by
  unfold State.flushStore
  split
  · rename_i h; exact ⟨s.core.c.watch, s.core.nb.writes, s.core.dbg.irqLines, by rw [← h]⟩
  · rename_i st h
    obtain ⟨w, g, l, e⟩ := State.store_near ((s.setC { s.core.c with store := none }).orderAt 0 true st.pa) st.pa st.bytes s.me true
    rw [State.orderAt_core] at e
    exact ⟨w, g, l, e⟩

@[simp] theorem State.flushStore_sup (s : State) : s.flushStore.sup = s.sup := by
  obtain ⟨w, g, l, e⟩ := s.flushStore_core; unfold State.sup; rw [e]
@[simp] theorem State.flushStore_q (s : State) : s.flushStore.core.q = s.core.q := by
  obtain ⟨w, g, l, e⟩ := s.flushStore_core; rw [e]
@[simp] theorem State.flushStore_pc (s : State) : s.flushStore.core.c.pc = s.core.c.pc := by
  obtain ⟨w, g, l, e⟩ := s.flushStore_core; rw [e]
@[simp] theorem State.flushStore_pc4 (s : State) : s.flushStore.pc4 = s.pc4 := by unfold State.pc4; rw [State.flushStore_pc]
@[simp] theorem State.flushStore_myPart (s : State) : s.flushStore.myPart = s.myPart := by
  obtain ⟨w, g, l, e⟩ := s.flushStore_core; unfold State.myPart; rw [e]
@[simp] theorem State.flushStore_regs (s : State) : s.flushStore.core.c.regs = s.core.c.regs := by
  obtain ⟨w, g, l, e⟩ := s.flushStore_core; rw [e]
@[simp] theorem State.flushStore_bank (s : State) : s.flushStore.core.c.bank = s.core.c.bank := by
  obtain ⟨w, g, l, e⟩ := s.flushStore_core; rw [e]
@[simp] theorem State.flushStore_store (s : State) : s.flushStore.core.c.store = none := by
  obtain ⟨w, g, l, e⟩ := s.flushStore_core; rw [e]

@[simp] theorem State.flushStore_xRead (s : State) (r : XReg) : s.flushStore.xRead r = s.xRead r := by
  unfold State.xRead; rw [State.flushStore_sup, State.flushStore_bank, State.flushStore_q, State.flushStore_regs]
@[simp] theorem State.flushStore_ctx (s : State) : s.flushStore.core.ctx = s.core.ctx := by
  obtain ⟨w, g, l, e⟩ := s.flushStore_core; rw [e]
@[simp] theorem State.flushStore_csr (s : State) : s.flushStore.core.csr = s.core.csr := by
  obtain ⟨w, g, l, e⟩ := s.flushStore_core; rw [e]
@[simp] theorem State.flushStore_trap (s : State) : s.flushStore.core.trap = s.core.trap := by
  obtain ⟨w, g, l, e⟩ := s.flushStore_core; rw [e]
@[simp] theorem State.flushStore_mig (s : State) : s.flushStore.core.mig = s.core.mig := by
  obtain ⟨w, g, l, e⟩ := s.flushStore_core; rw [e]

theorem State.Quiet.flushStore {s : State} (h : s.Quiet) : s.flushStore.Quiet := by
  intro p; rw [State.flushStore_rep]; exact h p

theorem State.Quiet.placedFor {s : State} (h : s.Quiet) (xd : XReg) : (s.placedFor xd).Quiet := by
  unfold State.placedFor; rw [Bool.cond_eq_ite]; split
  · exact h.flushStore
  · exact h

@[simp] theorem State.placedFor_sup (s : State) (xd : XReg) : (s.placedFor xd).sup = s.sup := by
  unfold State.placedFor; rw [Bool.cond_eq_ite]; split <;> simp
@[simp] theorem State.placedFor_zero (s : State) : s.placedFor 0 = s := by
  unfold State.placedFor; simp

/-- The pops of C's sources: of the queues, and nothing else (R16, R17). -/
theorem State.xPop_eq (b : State) (srcs : List XReg) : b.xPop srcs = { b with core := { b.core with q :=
    if b.sup = true then b.core.q
    else { b.core.q with qvc := if 28 ∈ srcs then b.core.q.qvc.tail else b.core.q.qvc,
                         vOut := if 28 ∈ srcs then b.core.q.vOut + 1 else b.core.q.vOut,
                         ecq := if 29 ∈ srcs then b.core.q.ecq.tail else b.core.q.ecq } } } := by
  unfold State.xPop
  simp only [Bool.cond_eq_ite, List.contains_eq_mem, decide_eq_true_eq]
  split
  · rfl
  · split <;> split <;> rfl

/-- The write of a C register (R16, R29, R93): of a register, a banked one or a queue, and nothing else. -/
theorem State.xWrite_eq (b : State) (xd : XReg) (v : Word64) : b.xWrite xd v = { b with core := { b.core with
    c := { b.core.c with
      regs := if xd = 0 ∨ isPort xd = true then b.core.c.regs else b.core.c.regs.set xd.toNat v xd.isLt,
      bank := if isPort xd = true ∧ b.sup = true then vset b.core.c.bank (xd.toNat - 24) v else b.core.c.bank },
    q := if b.sup = true then b.core.q
      else { b.core.q with
        qcl := if xd = 24 then b.core.q.qcl ++ [v] else b.core.q.qcl, qcv := if xd = 25 then b.core.q.qcv ++ [v] else b.core.q.qcv,
        qcs := if xd = 26 then b.core.q.qcs ++ [v] else b.core.q.qcs,
        qbr := if xd = 27 then b.core.q.qbr ++ [v.extractLsb' 0 8] else b.core.q.qbr } } } := by
  unfold State.xWrite
  by_cases h0 : xd = 0
  · subst h0
    simp [isPort]
  · rw [if_neg h0]
    by_cases hp : 24 ≤ xd.toNat ∧ xd.toNat ≤ 29
    · have hi : isPort xd = true := by unfold isPort; exact decide_eq_true hp
      rw [if_pos hp, Bool.cond_eq_ite]
      by_cases hs : b.sup = true
      · simp only [hs, hi, or_true, and_self, if_true]; rfl
      · simp only [hs, hi, or_true, and_false, if_true, Bool.false_eq_true, if_false]
        split
        · subst xd; rfl
        · split
          · subst xd; rfl
          · split
            · subst xd; rfl
            · split
              · subst xd; rfl
              · rfl
    · have hi : isPort xd = false := by unfold isPort; exact decide_eq_false hp
      have n : ∀ k : XReg, 24 ≤ k.toNat ∧ k.toNat ≤ 29 → xd ≠ k := fun k hk e => hp (e ▸ hk)
      simp only [if_neg hp, hi, h0, Bool.false_eq_true, or_self, false_and, if_false, if_neg (n 24 (by decide)), if_neg (n 25 (by decide)),
        if_neg (n 26 (by decide)), if_neg (n 27 (by decide)), ite_self]
      rfl

/-- THE RETIREMENT OF A C WORD (R16, R17, R29, R93, R94, R310, R376): what it leaves, whole. -/
theorem State.cRetire_retired {s : State} (srcs : List XReg) (xd : XReg) (v pc : Word64) (h : s.Quiet) :
    Retired s (s.cRetire srcs xd v pc) srcs xd v pc := by
  have hb := h.placedFor xd
  have hsup := s.placedFor_sup xd
  have e : s.cRetire srcs xd v pc = (((s.placedFor xd).xPop srcs).xWrite xd v).cGo pc := rfl
  unfold Retired
  generalize s.placedFor xd = b at *
  dsimp only
  rw [← hsup, e, State.xWrite_eq, State.xPop_eq]
  have hq' : ∀ c q, State.Quiet ({ b with core := { b.core with c := c, q := q } } : State) := fun _ _ => hb
  obtain ⟨m, d, l, e2⟩ := State.cGo_quiet pc (hq' _ _)
  erw [e2]
  refine ⟨rfl, rfl, ?_⟩
  unfold portsAfter
  change (if b.sup = true then _ else _) = _
  cases b.sup <;> rfl

/-- A retired C word leaves memory as it found it: as it was, with the pending store placed when the word pushes a port. -/
theorem Retired.mem {s t : State} {srcs : List XReg} {xd : XReg} {v pc : Word64} (h : Retired s t srcs xd v pc) : t.mem = (s.placedFor xd).mem := by
  have h := h.1
  unfold RetiredFrame at h
  rw [h]
theorem Retired.pkgId {s t : State} {srcs : List XReg} {xd : XReg} {v pc : Word64} (h : Retired s t srcs xd v pc) :
    t.pkg.pkgId = (s.placedFor xd).pkg.pkgId := by
  have h := h.1
  unfold RetiredFrame at h
  rw [h]
/-- Every byte reads as before, when no store is pending. -/
theorem Retired.rd8 {s t : State} {srcs : List XReg} {xd : XReg} {v pc : Word64} (h : Retired s t srcs xd v pc) (hs : s.core.c.store = none) (a : Nat) :
    t.rd8 a = s.rd8 a := by
  have e : s.placedFor xd = s := by
    unfold State.placedFor State.flushStore; rw [hs]; cases (!s.sup && decide (24 ≤ xd.toNat ∧ xd.toNat ≤ 27)) <;> rfl
  have hm := h.mem
  have hp := h.pkgId
  rw [e] at hm hp
  unfold State.rd8 State.norm
  rw [hm, hp]

/-! ### C's memory events -/

/-- Two machines that differ in what the caches, the TLB and the walker cache hold and count alone: leases, lines, stale bytes, the order of accesses, the
stacks' trackers and selectors, the counters with what a wrap sends or keeps back, the tags of requests that left, and the agenda; no byte of memory, and
of C the watch alone. -/
def State.Cached (s t : State) : Prop :=
  ∃ le l2 mc st od w pf un ir l1 mm ms hm hb tg rq ag, t = { s with
    mem := { s.mem with leases := le, l2 := l2, msc := mc, stale := st, order := od },
    core := { s.core with c := { s.core.c with watch := w }, perf := pf, units := un, l1 := l1, mmu := mm, dbg := { s.core.dbg with irqLines := ir } },
    pkg := { s.pkg with msi := ms, heldMsi := hm, hbm := hb, tag := tg, reqs := rq }, agenda := ag }

theorem State.Cached.rfl' (s : State) : s.Cached s := ⟨_, _, _, _, _, _, _, _, _, _, _, _, _, _, _, _, _, rfl⟩
theorem State.Cached.trans {s t u : State} (h : s.Cached t) (k : t.Cached u) : s.Cached u := by
  obtain ⟨_, _, _, _, _, _, _, _, _, _, _, _, _, _, _, _, _, rfl⟩ := h
  obtain ⟨_, _, _, _, _, _, _, _, _, _, _, _, _, _, _, _, _, rfl⟩ := k
  exact ⟨_, _, _, _, _, _, _, _, _, _, _, _, _, _, _, _, _, rfl⟩
theorem State.Cached.quiet {s t : State} (h : s.Cached t) (q : s.Quiet) : t.Quiet := by
  obtain ⟨_, _, _, _, _, _, _, _, _, _, _, _, _, _, _, _, _, rfl⟩ := h
  exact q
theorem State.Cached.rd8 {s t : State} (h : s.Cached t) (a : Nat) : t.rd8 a = s.rd8 a := by
  obtain ⟨_, _, _, _, _, _, _, _, _, _, _, _, _, _, _, _, _, rfl⟩ := h
  rfl
theorem State.Cached.c {s t : State} (h : s.Cached t) : ∃ w, t.core.c = { s.core.c with watch := w } := by
  obtain ⟨_, _, _, _, _, _, _, _, _, _, _, _, _, _, _, _, _, rfl⟩ := h
  exact ⟨_, rfl⟩
theorem State.Cached.sup {s t : State} (h : s.Cached t) : t.sup = s.sup := by
  obtain ⟨_, _, _, _, _, _, _, _, _, _, _, _, _, _, _, _, _, rfl⟩ := h
  rfl
theorem State.Cached.q {s t : State} (h : s.Cached t) : t.core.q = s.core.q := by
  obtain ⟨_, _, _, _, _, _, _, _, _, _, _, _, _, _, _, _, _, rfl⟩ := h
  rfl
/-- What the caches alone hold is no core of another kind: what they change of it they change of what they hold. -/
theorem State.CacheNear.cached {s t : State} (h : s.CacheNear t) : s.Cached t := by
  obtain ⟨_, _, _, _, _, rfl⟩ := h
  exact ⟨_, _, _, _, _, _, _, _, _, _, _, _, _, _, _, _, _, rfl⟩
theorem State.orderAt_cached (s : State) (ag : Nat) (w : Bool) (pa : Nat) : s.Cached (s.orderAt ag w pa) := by
  obtain ⟨o, e⟩ := s.orderAt_eq ag w pa
  rw [e]
  exact ⟨_, _, _, _, _, _, _, _, _, _, _, _, _, _, _, _, _, rfl⟩

theorem State.l2Count_cached {s : State} (o : Owner) (ev : BitVec 8) (h : s.Quiet) : s.Cached (s.l2Count o ev) := by
  unfold State.l2Count
  split
  · rw [Bool.cond_eq_ite]
    split
    · exact State.Cached.rfl' s
    · rw [Bool.cond_eq_ite]
      split
      · obtain ⟨m, d, l, e⟩ := State.count_quiet ev 1 h
        rw [e]
        exact ⟨_, _, _, _, _, _, _, _, _, _, _, _, _, _, _, _, _, rfl⟩
      · exact ⟨_, _, _, _, _, _, _, _, _, _, _, _, _, _, _, _, _, rfl⟩
  · exact State.Cached.rfl' s
theorem State.l2Evict_cached {s : State} (x : L2Line) (mine : Bool) (h : s.Quiet) : s.Cached (s.l2Evict x mine) := by
  have ho := (s.l2Out_near x).cached
  unfold State.l2Evict
  dsimp only
  rw [Bool.cond_eq_ite]
  split
  · exact ho.trans (State.l2Count_cached _ _ (ho.quiet h))
  · exact ho
theorem State.l2Alloc_cached {s : State} (line : Nat) (p : Option (BitVec 3)) (mine : Bool) (h : s.Quiet) : s.Cached (s.l2Alloc line p mine) := by
  have key : ∀ (l : List L2Line) (u : State), s.Cached u → s.Cached (l.foldl (fun s x => s.l2Evict x mine) u) := by
    intro l
    induction l with
    | nil => exact fun _ hu => hu
    | cons x t ih => exact fun u hu => ih _ (hu.trans (State.l2Evict_cached x mine (hu.quiet h)))
  unfold State.l2Alloc
  dsimp only
  rw [Bool.cond_eq_ite]
  split
  · exact State.Cached.rfl' s
  · exact (key _ s (State.Cached.rfl' s)).trans ⟨_, _, _, _, _, _, _, _, _, _, _, _, _, _, _, _, _, rfl⟩
/-- An access at the L2 changes what the caches hold and count; no byte of memory (R307, R333, R376). -/
theorem State.l2Access_cached {s : State} (pa : Nat) (p fill : Option (BitVec 3)) (mine : Bool) (h : s.Quiet) : s.Cached (s.l2Access pa p fill mine) := by
  unfold State.l2Access
  dsimp only
  simp only [Bool.cond_eq_ite]
  split
  · split
    · exact ⟨_, _, _, _, _, _, _, _, _, _, _, _, _, _, _, _, _, rfl⟩
    · exact State.Cached.rfl' s
  · split
    · exact (s.mscAccess_near _ _ _).cached
    · split
      · split
        · exact State.Cached.trans ⟨_, _, _, _, _, _, _, _, _, _, _, _, _, _, _, _, _, rfl⟩ (State.l2Count_cached _ _ h)
        · exact ⟨_, _, _, _, _, _, _, _, _, _, _, _, _, _, _, _, _, rfl⟩
      · have hm := (s.mscAccess_near (lineOf (s.norm pa)) fill false).cached
        exact hm.trans (State.l2Alloc_cached _ _ _ (hm.quiet h))
theorem State.l2Own_cached {s : State} (pa : Nat) (h : s.Quiet) : s.Cached (s.l2Own pa) := State.l2Access_cached _ _ _ _ h
theorem State.l2Hit_cached {s : State} (pa : Nat) (h : s.Quiet) : s.Cached (s.l2Hit pa) := by
  unfold State.l2Hit
  have ho := s.orderAt_cached 0 true pa
  have hq := ho.quiet h
  generalize s.orderAt 0 true pa = u at *
  exact ho.trans (State.l2Own_cached _ hq)
theorem State.l1Put_cached (s : State) (line : Nat) : s.Cached (s.l1Put line) := by
  unfold State.l1Put
  dsimp only
  rw [Bool.cond_eq_ite]
  split
  · exact State.Cached.rfl' s
  · exact ⟨_, _, _, _, _, _, _, _, _, _, _, _, _, _, _, _, _, rfl⟩
theorem State.lease_cached (s : State) (line : Nat) (b : Bool) : s.Cached (s.lease line b) := by
  unfold State.lease
  rw [Bool.cond_eq_ite]
  split
  · exact State.Cached.rfl' s
  · exact ⟨_, _, _, _, _, _, _, _, _, _, _, _, _, _, _, _, _, rfl⟩
/-- A read through the L1 region changes what the caches hold and count; no byte of memory (R149, R308). -/
theorem State.l1Hit_cached {s : State} (pa : Nat) (h : s.Quiet) : s.Cached (s.l1Hit pa) := by
  have ho := s.orderAt_cached 0 false pa
  have hq := ho.quiet h
  unfold State.l1Hit
  dsimp only
  simp only [Bool.cond_eq_ite]
  generalize s.orderAt 0 false pa = u at *
  split
  · exact ho.trans (State.l2Own_cached _ hq)
  · split
    · exact ho.trans (u.l1Put_cached _)
    · exact ho.trans (((State.l2Own_cached pa hq).trans (State.lease_cached _ _ _)).trans (State.l1Put_cached _ _))
theorem State.l2Hits_cached {s : State} (pas : List Nat) (h : s.Quiet) : s.Cached (s.l2Hits pas) := by
  unfold State.l2Hits
  generalize ((pas.map fun a => lineOf (s.norm a)).eraseDups) = l
  induction l generalizing s with
  | nil => exact State.Cached.rfl' s
  | cons a t ih => have c := State.l2Hit_cached (a * 128) h; exact c.trans (ih (c.quiet h))
theorem State.l1Hits_cached {s : State} (pas : List Nat) (h : s.Quiet) : s.Cached (s.l1Hits pas) := by
  unfold State.l1Hits
  generalize ((pas.map fun a => lineOf (s.norm a)).eraseDups) = l
  induction l generalizing s with
  | nil => exact State.Cached.rfl' s
  | cons a t ih => have c := State.l1Hit_cached (a * 128) h; exact c.trans (ih (c.quiet h))

/-- The walk of a page accesses what it reads; bringing the page in changes the TLB and the walker cache beside (R336). -/
theorem State.walkAccess_cached {s : State} (p : BitVec 3) (v : BitVec 2) (va : Word64) (h : s.Quiet) : s.Cached (s.walkAccess p v va) := by
  have key : ∀ (l : List Nat) (u : State), s.Cached u → s.Cached (l.foldl (fun s a => bif s.inFlip a then s else s.l2Access a (some p) (some p) true) u) := by
    intro l
    induction l with
    | nil => exact fun _ hu => hu
    | cons a t ih =>
      intro u hu
      refine ih _ ?_
      dsimp only
      rw [Bool.cond_eq_ite]
      split
      · exact hu
      · exact hu.trans (State.l2Access_cached _ _ _ _ (hu.quiet h))
  exact key _ s (State.Cached.rfl' s)
theorem State.fillTlb_cached {s : State} (p : BitVec 3) (v : BitVec 2) (va : Word64) (h : s.Quiet) : s.Cached (s.fillTlb p v va) := by
  have hw := State.walkAccess_cached p v va h
  unfold State.fillTlb
  split
  · exact State.Cached.rfl' s
  · rw [Bool.cond_eq_ite]
    split
    · exact State.Cached.rfl' s
    · split
      · exact hw.trans ⟨_, _, _, _, _, _, _, _, _, _, _, _, _, _, _, _, _, rfl⟩
      · exact hw

/-- The machine at a C memory event: C's pending store placed, and the page's walk done (R310, R336). -/
theorem State.cEvent_cached {s : State} (va : Word64) (h : s.Quiet) : s.flushStore.Cached (s.cEvent va) := State.fillTlb_cached _ _ _ h.flushStore
theorem State.Quiet.cEvent {s : State} (h : s.Quiet) (va : Word64) : (s.cEvent va).Quiet := (State.cEvent_cached va h).quiet h.flushStore
theorem State.cEvent_sup {s : State} (va : Word64) (h : s.Quiet) : (s.cEvent va).sup = s.sup :=
  (State.cEvent_cached va h).sup.trans s.flushStore_sup
theorem State.cEvent_pc {s : State} (va : Word64) (h : s.Quiet) : (s.cEvent va).core.c.pc = s.core.c.pc := by
  obtain ⟨w, e⟩ := (State.cEvent_cached va h).c
  rw [e]; exact s.flushStore_pc
theorem State.cEvent_store {s : State} (va : Word64) (h : s.Quiet) : (s.cEvent va).core.c.store = none := by
  obtain ⟨w, e⟩ := (State.cEvent_cached va h).c
  rw [e]; exact s.flushStore_store
theorem State.cEvent_q {s : State} (va : Word64) (h : s.Quiet) : (s.cEvent va).core.q = s.core.q :=
  (State.cEvent_cached va h).q.trans s.flushStore_q
theorem State.cEvent_rd8 {s : State} (va : Word64) (a : Nat) (h : s.Quiet) : (s.cEvent va).rd8 a = s.flushStore.rd8 a :=
  (State.cEvent_cached va h).rd8 a

@[simp] theorem State.fpCount_part (s : State) (ev : List Nat) (q : BitVec 3) : (s.fpCount ev).part q = s.part q := by
  unfold State.fpCount; split <;> rfl
@[simp] theorem State.fpCount_myPart (s : State) (ev : List Nat) : (s.fpCount ev).myPart = s.myPart := by
  unfold State.fpCount; split <;> rfl
theorem State.Quiet.fpCount {s : State} (h : s.Quiet) (ev : List Nat) : (s.fpCount ev).Quiet := by
  intro p; rw [State.fpCount_part]; exact h p
theorem State.Quiet.store {s : State} (h : s.Quiet) (pa : Nat) (bs : List Byte) (o : Owner) (dev : Bool) : (s.store pa bs o dev).Quiet := by
  intro p; rw [State.store_rep]; exact h p

/-- Taking a trap does what TrapTaken says (R30, R34). -/
theorem takeTrap_taken (b : State) (k : Strand) (cause : BitVec 8) (p v e : Word64) : TrapTaken b (b.takeTrap k cause p v e) k cause p v e := by
  unfold TrapTaken State.takeTrap
  obtain ⟨w, g, l, hc⟩ := b.flushStore_core
  intro u
  simp only [hc, u]
  refine ⟨?_, ⟨⟩, ⟨⟩, ⟨⟩, ⟨⟩, ⟨⟩, fun a => rfl⟩
  by_cases h1 : cause = 0x11
  · subst h1; rfl
  · by_cases h2 : cause = 0x14
    · subst h2; rfl
    · rw [if_neg (by rintro (h | h); exacts [h1 h, h2 h]), beq_eq_false_iff_ne.mpr h1, beq_eq_false_iff_ne.mpr h2]; rfl

end Sys2Proof.Machine
end

