-- ==== Sys2Proof/Laws/Strands.lean ====
section
/-! SUPPORT. What a word of L or S leaves at its issue and at its retirement (LsIssued, LsRetired). -/

namespace Sys2Proof.Machine

@[simp] theorem State.setLS_self (s : State) (k : LS) : s.setLS k (s.ls k) = s := by cases k <;> rfl
@[simp] theorem State.setLS_setLS (s : State) (k : LS) (x y : LSStrand) : (s.setLS k x).setLS k y = s.setLS k y := by cases k <;> rfl

/-- A y write of L or S: of the file, and nothing else (R15). -/
theorem State.yWrite_ls (s : State) (k : LS) (d : YReg) (v : Word32) :
    s.yWrite (lsStrand k) d v = s.setLS k { s.ls k with regs := fileAfter (s.ls k).regs (some (d, v)) } := by
  unfold State.yWrite fileAfter
  dsimp only
  split
  · exact (s.setLS_self k).symm
  · cases k <;> rfl

/-- The token FIFOs with one more token given by a push. -/
def fifosGiven (f : Vector Fifo 8) (on : Bool) (i : Nat) : Vector Fifo 8 :=
  if on = true then vset f i { vget f i ⟨0, 0, 0⟩ with occ := (vget f i ⟨0, 0, 0⟩).occ + 1, res := (vget f i ⟨0, 0, 0⟩).res - 1 } else f

/-- The pushes of a retiring unit (R126). -/
theorem State.tokRetire_eq (s : State) (k : Strand) (t : Tokens) : s.tokRetire k t =
    s.setQ { s.core.q with tok := fifosGiven (fifosGiven s.core.q.tok t.pushP (fifoTo k false)) t.pushN (fifoTo k true) } := by
  unfold State.tokRetire fifosGiven
  cases t.pushP <;> cases t.pushN <;> rfl

theorem State.Quiet.setLS {s : State} (h : s.Quiet) (k : LS) (x : LSStrand) : (s.setLS k x).Quiet := by cases k <;> exact h

/-- The retirement of a word of L or S, whole (R122). -/
theorem State.lsRetire_eq {s : State} (h : s.Quiet) (k : LS) (r : Retire) : ∃ m d l, s.lsRetire k r =
    (let x := s.ls k
     let b := s.setLS k { x with
       regs := fileAfter x.regs r.y, pc := r.next.elim x.pc (·.2), ended := x.ended || r.ends,
       loops := if r.ends = true then [] else r.next.elim x.loops (·.1) }
     { b with
       core := { b.core with
         q := { s.core.q with
           tok := fifosGiven (fifosGiven s.core.q.tok r.tok.pushP (fifoTo (lsStrand k) false)) r.tok.pushN (fifoTo (lsStrand k) true) },
         perf := (s.core.perf.add (lsEvent k) 1).1, units := unitCount s.core.units (lsEvent k) 1, dbg := { s.core.dbg with irqLines := l }, trap := { s.core.trap with dog := 0, moved := 15 } },
       pkg := { s.pkg with msi := m, heldMsi := d } }) := by
  have e1 : s.lsWrites k r.y = s.setLS k { s.ls k with regs := fileAfter (s.ls k).regs r.y } := by
    rcases r.y with _ | ⟨d, v⟩
    · exact (s.setLS_self k).symm
    · exact s.yWrite_ls k d v
  unfold State.lsRetire
  rw [e1, State.tokRetire_eq]
  have e2 : (s.setLS k { s.ls k with regs := fileAfter (s.ls k).regs r.y }).core.q = s.core.q := by cases k <;> rfl
  rw [e2]
  generalize fifosGiven (fifosGiven s.core.q.tok r.tok.pushP (fifoTo (lsStrand k) false)) r.tok.pushN (fifoTo (lsStrand k) true) = g
  have e3 : ∀ (y : State), y.lsGoes k r.next = y.setLS k { y.ls k with loops := r.next.elim (y.ls k).loops (·.1), pc := r.next.elim (y.ls k).pc (·.2) } := by
    intro y
    rcases r.next with _ | ⟨ls, pc⟩
    · exact (y.setLS_self k).symm
    · rfl
  have e4 : ∀ (y : State), y.lsEnds k r.ends = y.setLS k { y.ls k with ended := (y.ls k).ended || r.ends, loops := if r.ends = true then [] else (y.ls k).loops } := by
    intro y
    unfold State.lsEnds
    cases r.ends
    · rw [Bool.or_false]; exact (y.setLS_self k).symm
    · rw [Bool.or_true]; rfl
  rw [e3, e4]
  have fin : ∀ (X : State) (x : LSStrand), X = (s.setLS k x).setQ { s.core.q with tok := g } → ∃ m d l, X.touch.count (lsEvent k) 1 =
      (let b := s.setLS k x
       { b with
         core := { b.core with
           q := { s.core.q with tok := g },
           perf := (s.core.perf.add (lsEvent k) 1).1, units := unitCount s.core.units (lsEvent k) 1, dbg := { s.core.dbg with irqLines := l }, trap := { s.core.trap with dog := 0, moved := 15 } },
         pkg := { s.pkg with msi := m, heldMsi := d } }) := by
    intro X x hX
    have hx : X.touch.Quiet := by
      subst hX; cases k <;> exact h
    obtain ⟨m, d, l, e⟩ := State.count_quiet (lsEvent k) 1 hx
    refine ⟨m, d, l, ?_⟩
    rw [e]
    subst hX
    cases k <;> rfl
  exact fin _ _ (by cases k <;> rfl)

/-- The pop of a word's y12 (R15): of its queue and of selector 2's value. -/
theorem State.yPop_ls (s : State) (k : LS) (srcs : List YReg) : s.yPop (lsStrand k) srcs =
    (s.setLS k { s.ls k with hi := hiAfter s k srcs }).setQ (match k with
      | .l => { s.core.q with qcl := if 12 ∈ srcs then s.core.q.qcl.tail else s.core.q.qcl }
      | .s => { s.core.q with qcs := if 12 ∈ srcs then s.core.q.qcs.tail else s.core.q.qcs }) := by
  unfold State.yPop hiAfter
  rw [Bool.cond_eq_ite]
  simp only [List.contains_eq_mem, decide_eq_true_eq]
  split <;> cases k <;> rfl

/-- A token FIFO with one token taken. -/
def fifosTaken (f : Vector Fifo 8) (on : Bool) (i : Nat) : Vector Fifo 8 :=
  if on = true then vset f i { vget f i ⟨0, 0, 0⟩ with occ := (vget f i ⟨0, 0, 0⟩).occ - 1, out := (vget f i ⟨0, 0, 0⟩).out + 1 } else f
/-- A token FIFO with room for one token reserved. -/
def fifosReserved (f : Vector Fifo 8) (on : Bool) (i : Nat) : Vector Fifo 8 :=
  if on = true then vset f i { vget f i ⟨0, 0, 0⟩ with res := (vget f i ⟨0, 0, 0⟩).res + 1 } else f

/-- One token's step of an issue or a retirement. -/
theorem State.tokTake_eq (s : State) (k : Strand) (on next : Bool) : (bif on then s.tokTake k next else s) =
    s.setQ { s.core.q with tok := fifosTaken s.core.q.tok on (fifoFrom k next) } := by unfold fifosTaken; cases on <;> rfl
theorem State.tokReserve_eq (s : State) (k : Strand) (on next : Bool) : (bif on then s.tokReserve k next else s) =
    s.setQ { s.core.q with tok := fifosReserved s.core.q.tok on (fifoTo k next) } := by unfold fifosReserved; cases on <;> rfl

/-- The pops and reservations of an issuing unit (R126). -/
theorem State.tokIssue_eq (s : State) (k : Strand) (t : Tokens) : s.tokIssue k t =
    s.setQ { s.core.q with tok := fifosReserved (fifosReserved (fifosTaken (fifosTaken s.core.q.tok t.popP (fifoFrom k false)) t.popN
      (fifoFrom k true)) t.pushP (fifoTo k false)) t.pushN (fifoTo k true) } := by
  unfold State.tokIssue
  dsimp only
  rw [State.tokTake_eq, State.tokTake_eq, State.tokReserve_eq, State.tokReserve_eq]
  rfl

theorem fifo_ext {a b : Vector Fifo 8} (h : ∀ i : Fin 8, a.get i = b.get i) : a = b := by
  apply Vector.ext; intro i hi; exact h ⟨i, hi⟩
theorem fifo_vset (f : Vector Fifo 8) (i : Nat) (x : Fifo) (j : Fin 8) : (vset f i x).get j = if i = j.val then x else f.get j := by
  show (f.setIfInBounds i x)[j.val] = _
  rw [Vector.getElem_setIfInBounds]; rfl
theorem fifo_vget (f : Vector Fifo 8) (j : Fin 8) : vget f j.val ⟨0, 0, 0⟩ = f.get j := by
  unfold vget
  rw [List.getD_eq_getElem?_getD, List.getElem?_eq_getElem (by simp)]
  simp [Vector.get]
theorem fifosTaken_get (f : Vector Fifo 8) (on : Bool) (i : Nat) (j : Fin 8) :
    (fifosTaken f on i).get j = if on = true ∧ j.val = i then ⟨(f.get j).occ - 1, (f.get j).res, (f.get j).out + 1⟩ else f.get j := by
  unfold fifosTaken
  cases on
  · rfl
  · rw [if_pos rfl, fifo_vset]
    by_cases h : j.val = i
    · subst h; rw [if_pos rfl, if_pos ⟨rfl, rfl⟩, fifo_vget]
    · rw [if_neg (fun e => h e.symm), if_neg (fun e => h e.2)]
theorem fifosReserved_get (f : Vector Fifo 8) (on : Bool) (i : Nat) (j : Fin 8) :
    (fifosReserved f on i).get j = if on = true ∧ j.val = i then ⟨(f.get j).occ, (f.get j).res + 1, (f.get j).out⟩ else f.get j := by
  unfold fifosReserved
  cases on
  · rfl
  · rw [if_pos rfl, fifo_vset]
    by_cases h : j.val = i
    · subst h; rw [if_pos rfl, if_pos ⟨rfl, rfl⟩, fifo_vget]
    · rw [if_neg (fun e => h e.symm), if_neg (fun e => h e.2)]
theorem fifosGiven_get (f : Vector Fifo 8) (on : Bool) (i : Nat) (j : Fin 8) :
    (fifosGiven f on i).get j = if on = true ∧ j.val = i then ⟨(f.get j).occ + 1, (f.get j).res - 1, (f.get j).out⟩ else f.get j := by
  unfold fifosGiven
  cases on
  · rfl
  · rw [if_pos rfl, fifo_vset]
    by_cases h : j.val = i
    · subst h; rw [if_pos rfl, if_pos ⟨rfl, rfl⟩, fifo_vget]
    · rw [if_neg (fun e => h e.symm), if_neg (fun e => h e.2)]

/-- A strand's FIFOs are distinct. -/
theorem fifo_names (k : Strand) : fifoFrom k false ≠ fifoFrom k true ∧ fifoTo k false ≠ fifoTo k true ∧ fifoFrom k false ≠ fifoTo k false ∧
    fifoFrom k false ≠ fifoTo k true ∧ fifoFrom k true ≠ fifoTo k false ∧ fifoFrom k true ≠ fifoTo k true := by
  cases k <;> decide

/-- The token FIFOs as an issue leaves them (R126). -/
theorem fifos_issue (f : Vector Fifo 8) (k : Strand) (t : Tokens) :
    fifosReserved (fifosReserved (fifosTaken (fifosTaken f t.popP (fifoFrom k false)) t.popN (fifoFrom k true)) t.pushP (fifoTo k false))
      t.pushN (fifoTo k true) = tokensAfter f k t false := by
  apply fifo_ext
  intro i
  have e : (tokensAfter f k t false).get i = _ := Vector.get_ofFn _ _
  rw [e]
  simp only [fifosReserved_get, fifosTaken_get]
  obtain ⟨h1, h2, h3, h4, h5, h6⟩ := fifo_names k
  split_ifs <;> simp_all

/-- The token FIFOs as an issue and a retirement leave them (R126). -/
theorem fifos_retire (f : Vector Fifo 8) (k : Strand) (t : Tokens) :
    fifosGiven (fifosGiven (tokensAfter f k t false) t.pushP (fifoTo k false)) t.pushN (fifoTo k true) = tokensAfter f k t true := by
  apply fifo_ext
  intro i
  have e : (tokensAfter f k t true).get i = _ := Vector.get_ofFn _ _
  have e' : (tokensAfter f k t false).get i = _ := Vector.get_ofFn _ _
  rw [e]
  simp only [fifosGiven_get, e']
  obtain ⟨h1, h2, h3, h4, h5, h6⟩ := fifo_names k
  split_ifs <;> simp_all

/-! ### A word's issue -/

theorem State.lsReady_fresh (s : State) (k : LS) (tok : Tokens) (srcs : List YReg) : (fresh s k).lsReady k tok srcs = s.lsReady k tok srcs := by
  cases k <;> rfl
@[simp] theorem fresh_ls (s : State) (k : LS) : (fresh s k).ls k = { s.ls k with waits := false } := by cases k <;> rfl

/-- The machine at a word's issue, before it waits or retires. -/
def issued (b : State) (k : LS) (srcs : List YReg) (tok : Tokens) (stays : Bool) : State :=
  let x := b.ls k
  let d := b.setLS k { x with hi := hiAfter b k srcs, blocked := false, pc := bif stays then x.pc else x.pc + 8 }
  { d with core := { d.core with q := queuesAfter b.core.q k srcs tok false } }

theorem issued_eq (b : State) (k : LS) (srcs : List YReg) (tok : Tokens) (stays : Bool) :
    (let s := (b.yPop (lsStrand k) srcs).tokIssue (lsStrand k) tok
     s.setLS k { s.ls k with blocked := false, pc := bif stays then (s.ls k).pc else (s.ls k).pc + 8 }) = issued b k srcs tok stays := by
  unfold issued
  dsimp only
  rw [State.yPop_ls, State.tokIssue_eq, fifos_issue]
  cases k <;> rfl

/-- A word that may issue, its act done: what is left of its issue. -/
theorem State.lsIssue_ready (s : State) (w : LSWord) (ls : List Loop) (b : State) (y : Option (YReg × Word32))
    (hr : s.lsReady w.k w.tok w.srcs = true) (ho : w.own (s.ls w.k).loops = some ls) (hm : w.marker ≤ ls.length)
    (ha : w.act (fresh s w.k) = .go b y) : s.lsIssue w = b.lsGoOn w (w.keeps (s.ls w.k).pc ls y) := by
  have hr' : (fresh s w.k).lsReady w.k w.tok w.srcs = true := by rw [State.lsReady_fresh]; exact hr
  have ho' : (fresh s w.k).lsOrdered w.k = true := by
    unfold State.lsReady at hr'; simp only [Bool.and_eq_true] at hr'; exact hr'.1.1.1
  have hd : decide (ls.length < w.marker) = false := decide_eq_false (by omega)
  unfold State.lsIssue
  dsimp only
  rw [show s.setLS w.k { s.ls w.k with waits := false } = fresh s w.k from rfl, ho', hr', fresh_ls]
  simp only [Bool.not_true, cond_false, ho, hd, ha]

/-- A word that waits to retire (R122). -/
theorem State.lsGoOn_waits (b : State) (w : LSWord) (r : Retire) (hw : (b.ls w.k).waits = false) (he : r.ends = w.ends)
    (hp : w.data = true ∨ (b.ls w.k).pend ≠ []) : LsIssued b (b.lsGoOn w r) w.k w.srcs w.tok r := by
  have hz : (w.data || !(b.ls w.k).pend.isEmpty) = true := by
    rcases hp with h | h
    · rw [h]; rfl
    · rw [List.isEmpty_eq_false_iff.mpr h, Bool.not_false, Bool.or_true]
  have e := issued_eq b w.k w.srcs w.tok (r.next.isSome || w.ends)
  have hpd : ((issued b w.k w.srcs w.tok (r.next.isSome || w.ends)).ls w.k).pend = (b.ls w.k).pend := by
    unfold issued; cases w.k <;> rfl
  unfold State.lsGoOn LsIssued
  dsimp only at e ⊢
  rw [e, hpd, hz, cond_true, ← he]
  have hpc : (bif r.next.isSome || r.ends then (b.ls w.k).pc else (b.ls w.k).pc + 8) =
      if r.next.isSome = true ∨ r.ends = true then (b.ls w.k).pc else (b.ls w.k).pc + 8 := by
    cases r.next.isSome <;> cases r.ends <;> rfl
  have hm : (w.srcs.contains 12 || w.tok.popP || w.tok.popN) = decide (12 ∈ w.srcs ∨ w.tok.popP = true ∨ w.tok.popN = true) := by
    rw [List.contains_eq_mem]
    by_cases h : (12 : YReg) ∈ w.srcs <;> cases w.tok.popP <;> cases w.tok.popN <;> simp
  rw [hm, Bool.cond_decide]
  unfold issued
  revert hw hpc
  cases w.k
  · intro hw hpc
    have hw' : b.core.l.waits = false := hw
    dsimp only [State.ls] at hpc
    split <;> simp only [State.touch, State.setTrap, State.setLS, State.ls, hw', hpc]
  · intro hw hpc
    have hw' : b.core.s.waits = false := hw
    dsimp only [State.ls] at hpc
    split <;> simp only [State.touch, State.setTrap, State.setLS, State.ls, hw', hpc]

/-- A word that waits behind nothing (R122). -/
theorem State.lsGoOn_retires (b : State) (w : LSWord) (r : Retire) (hq : b.Quiet) (hw : (b.ls w.k).waits = false) (hd : w.data = false)
    (hp : (b.ls w.k).pend = []) (he : r.ends = w.ends) (ht : r.tok = w.tok) :
    LsRetired b (b.lsGoOn w r) w.k w.srcs w.tok r.y (r.next.elim (b.ls w.k).loops (·.1))
      (r.next.elim (if r.ends = true then (b.ls w.k).pc else (b.ls w.k).pc + 8) (·.2)) r.ends := by
  have e := issued_eq b w.k w.srcs w.tok (r.next.isSome || w.ends)
  have hpd : ((issued b w.k w.srcs w.tok (r.next.isSome || w.ends)).ls w.k).pend = (b.ls w.k).pend := by
    unfold issued; cases w.k <;> rfl
  unfold State.lsGoOn
  dsimp only at e ⊢
  rw [e, hpd, hd, hp]
  simp only [List.isEmpty_nil, Bool.not_true, Bool.or_self, cond_false]
  have hi : (issued b w.k w.srcs w.tok (r.next.isSome || w.ends)).Quiet := by unfold issued; cases w.k <;> exact hq
  obtain ⟨m, d, l, e2⟩ := State.lsRetire_eq hi w.k r
  rw [e2]
  have e3 : (issued b w.k w.srcs w.tok (r.next.isSome || w.ends)).core.q = queuesAfter b.core.q w.k w.srcs w.tok false := rfl
  have e4 : ({ queuesAfter b.core.q w.k w.srcs w.tok false with
      tok := fifosGiven (fifosGiven (queuesAfter b.core.q w.k w.srcs w.tok false).tok r.tok.pushP (fifoTo (lsStrand w.k) false)) r.tok.pushN
        (fifoTo (lsStrand w.k) true) } : Queues) = queuesAfter b.core.q w.k w.srcs w.tok true := by
    rw [ht]
    cases w.k
    · exact congrArg (fun t => ({ queuesAfter b.core.q .l w.srcs w.tok true with tok := t } : Queues)) (fifos_retire b.core.q.tok .l w.tok)
    · exact congrArg (fun t => ({ queuesAfter b.core.q .s w.srcs w.tok true with tok := t } : Queues)) (fifos_retire b.core.q.tok .s w.tok)
  rw [e3, e4]
  unfold LsRetired issued
  dsimp only
  have hn : (r.next.elim (bif r.next.isSome || w.ends then (b.ls w.k).pc else (b.ls w.k).pc + 8) (·.2)) =
      r.next.elim (if r.ends = true then (b.ls w.k).pc else (b.ls w.k).pc + 8) (·.2) := by
    rw [← he]
    cases r.next
    · show (bif _ then _ else _) = _; rw [Bool.cond_eq_ite]; simp
    · rfl
  rw [← hn]
  revert hw
  cases w.k
  · intro hw
    have hw' : b.core.l.waits = false := hw
    simp only [State.setLS, State.ls, hw']
  · intro hw
    have hw' : b.core.s.waits = false := hw
    simp only [State.setLS, State.ls, hw']

end Sys2Proof.Machine
end

