-- ==== Sys2Proof/Laws/Vector.lean ====
section
/-! SUPPORT. What a tick of V leaves alone, and what the parts of a bundle's issue do. -/

namespace Sys2Proof.Machine

theorem Core.Near.strands {a b : Core} (h : Core.Near a b) : b.strands = a.strands := by obtain ⟨w, g, l, rfl⟩ := h; rfl

/-- Counting an event changes the counters, the units counted, the watch and the interrupt trace of the core alone. -/
theorem State.count_near (s : State) (ev : BitVec 8) (n : Nat) : Core.Near { s.core with perf := (s.core.perf.add ev n).1, units := unitCount s.core.units ev n } (s.count ev n).core := by
  have key : ∀ (w : List Nat) (x : State) (p : BitVec 3) (v : BitVec 2) (k : Vector (BitVec 10) 32), Core.Near x.core (x.ovfInts p v k w).core := by
    intro w
    induction w with
    | nil => intro x p v k; exact Core.Near.rfl' _
    | cons i w ih =>
      intro x p v k
      unfold State.ovfInts
      rw [List.foldl_cons, Bool.cond_eq_ite]
      split
      · exact (State.msi_near _ _ _ _ _).trans (ih _ _ _ _)
      · exact ih _ _ _ _
  exact key _ { s with core := { s.core with perf := (s.core.perf.add ev n).1, units := unitCount s.core.units ev n } } _ _ _

@[simp] theorem State.count_strands (s : State) (ev : BitVec 8) (n : Nat) : (s.count ev n).core.strands = s.core.strands :=
  (s.count_near ev n).strands
@[simp] theorem State.store_strands (s : State) (pa : Nat) (bs : List Byte) (o : Owner) (dev : Bool) :
    (s.store pa bs o dev).core.strands = s.core.strands := (State.store_near s pa bs o dev).strands
@[simp] theorem State.fpCount_strands (s : State) (ev : List Nat) : (s.fpCount ev).core.strands = s.core.strands := by
  unfold State.fpCount; split <;> rfl
/-- A fold of steps that keep a thing keeps it. -/
theorem foldl_keeps {α β : Type} {γ : Sort _} (f : α → β → α) (g : α → γ) (h : ∀ a b, g (f a b) = g a) (l : List β) (a : α) :
    g (l.foldl f a) = g a := by
  induction l generalizing a with
  | nil => rfl
  | cons b l ih => rw [List.foldl_cons, ih, h]

@[simp] theorem State.setDesc_strands (s : State) (r : SReg) (d : Desc) : (s.setDesc r d).core.strands = s.core.strands := rfl
/-! The caches: their bookkeeping touches no strand. -/

theorem State.CacheNear.strands {s t : State} (h : s.CacheNear t) : t.core.strands = s.core.strands := by
  obtain ⟨_, _, _, _, _, rfl⟩ := h
  rfl
@[simp] theorem State.l2Count_strands (s : State) (o : Owner) (ev : BitVec 8) : (s.l2Count o ev).core.strands = s.core.strands := by
  unfold State.l2Count
  split
  · rw [Bool.cond_eq_ite]; split
    · rfl
    · rw [Bool.cond_eq_ite]; split <;> simp
  · rfl
@[simp] theorem State.l2Evict_strands (s : State) (x : L2Line) (m : Bool) : (s.l2Evict x m).core.strands = s.core.strands := by
  unfold State.l2Evict
  dsimp only
  rw [Bool.cond_eq_ite]
  split
  · rw [State.l2Count_strands]; exact (s.l2Out_near x).strands
  · exact (s.l2Out_near x).strands
@[simp] theorem State.l2Alloc_strands (s : State) (l : Nat) (p : Option (BitVec 3)) (m : Bool) : (s.l2Alloc l p m).core.strands = s.core.strands := by
  unfold State.l2Alloc
  dsimp only
  rw [Bool.cond_eq_ite]
  split
  · rfl
  · exact foldl_keeps _ (fun (x : State) => x.core.strands) (fun _ _ => State.l2Evict_strands _ _ _) _ s
@[simp] theorem State.l2Access_strands (s : State) (pa : Nat) (p fill : Option (BitVec 3)) (m : Bool) : (s.l2Access pa p fill m).core.strands = s.core.strands := by
  unfold State.l2Access
  dsimp only
  simp only [Bool.cond_eq_ite]
  split
  · split <;> rfl
  · split
    · exact (s.mscAccess_near _ _ _).strands
    · split
      · split
        · rw [State.l2Count_strands]; rfl
        · rfl
      · rw [State.l2Alloc_strands]; exact (s.mscAccess_near _ _ _).strands
@[simp] theorem State.l2Own_strands (s : State) (pa : Nat) : (s.l2Own pa).core.strands = s.core.strands := State.l2Access_strands _ _ _ _ _
@[simp] theorem State.l2Hit_strands (s : State) (pa : Nat) : (s.l2Hit pa).core.strands = s.core.strands := by
  unfold State.l2Hit; rw [State.l2Own_strands, State.orderAt_core]
@[simp] theorem State.fillTlb_strands (s : State) (p : BitVec 3) (v : BitVec 2) (va : Word64) :
    (s.fillTlb p v va).core.strands = s.core.strands := by
  have hw : (s.walkAccess p v va).core.strands = s.core.strands := by
    refine foldl_keeps _ (fun (x : State) => x.core.strands) (fun x a => ?_) _ s
    rw [Bool.cond_eq_ite]; split <;> simp
  unfold State.fillTlb
  split
  · rfl
  · rw [Bool.cond_eq_ite]
    split
    · rfl
    · split <;> exact hw
@[simp] theorem State.fillFor_strands (s : State) (d : Desc) (es : List Nat) : (s.fillFor d es).core.strands = s.core.strands := by
  unfold State.fillFor
  dsimp only
  refine foldl_keeps _ (fun (x : State) => x.core.strands) (fun x e => ?_) es s
  split
  · rw [Bool.cond_eq_ite]; split <;> simp
  · rfl
@[simp] theorem State.lease_strands (s : State) (l : Nat) (b : Bool) : (s.lease l b).core.strands = s.core.strands := by
  unfold State.lease; rw [Bool.cond_eq_ite]; split <;> rfl
@[simp] theorem State.l1Put_strands (s : State) (l : Nat) : (s.l1Put l).core.strands = s.core.strands := by
  unfold State.l1Put; dsimp only; rw [Bool.cond_eq_ite]; split <;> rfl
@[simp] theorem State.l1Hit_strands (s : State) (pa : Nat) : (s.l1Hit pa).core.strands = s.core.strands := by
  unfold State.l1Hit
  dsimp only
  simp only [Bool.cond_eq_ite]
  split
  · simp
  · split
    · simp
    · simp
@[simp] theorem State.l2Hits_strands (s : State) (l : List Nat) : (s.l2Hits l).core.strands = s.core.strands :=
  foldl_keeps _ (fun (x : State) => x.core.strands) (fun _ _ => State.l2Hit_strands _ _) _ s
@[simp] theorem State.l1Hits_strands (s : State) (l : List Nat) : (s.l1Hits l).core.strands = s.core.strands :=
  foldl_keeps _ (fun (x : State) => x.core.strands) (fun _ _ => State.l1Hit_strands _ _) _ s
@[simp] theorem State.fetchCounts_strands (s : State) (d : Desc) (ps : List Nat) : (s.fetchCounts d ps).core.strands = s.core.strands :=
  s.l1Hits_strands _

/-! Pushes. -/

@[simp] theorem State.storeCells_strands (s : State) (cs : List Host.Cell) (o : Owner) (dev : Bool) :
    (s.storeCells cs o dev).core.strands = s.core.strands := (State.storeCells_near s cs o dev).strands
@[simp] theorem State.coverAt_strands (s : State) (c : Cover) (l : List Nat) : (s.coverAt c l).core.strands = s.core.strands := rfl
@[simp] theorem State.pushElem_strands (s : State) (d : Desc) (e v : Nat) : (s.pushElem d e v).core.strands = s.core.strands := by
  unfold State.pushElem
  dsimp only
  rw [Bool.cond_eq_ite]
  split <;> exact State.storeCells_strands _ _ _ _
@[simp] theorem State.pushAll_strands (s : State) (r : SReg) (es : List (Nat × Nat)) (v : Nat → Nat) :
    (s.pushAll r es v).core.strands = s.core.strands := by
  unfold State.pushAll
  dsimp only
  rw [State.count_strands, State.setDesc_strands, State.coverAt_strands]
  exact (foldl_keeps _ (fun (x : State) => x.core.strands) (fun x e => State.pushElem_strands _ _ _ _) es _).trans (s.l2Hits_strands _)
@[simp] theorem State.poolWrite_strands (s : State) (o : Nat) (bs : List Byte) : (s.poolWrite o bs).core.strands = s.core.strands := rfl
@[simp] theorem State.deliverTo_strands (s : State) (f : Flight) (d : OpCode) (fmt : Nat) (rs : List FRes) :
    (s.deliverTo f d fmt rs).core.strands = s.core.strands := by
  unfold State.deliverTo
  dsimp only
  rw [State.fpCount_strands]
  split
  · rfl
  · split
    · exact State.pushAll_strands _ _ _ _
    · rfl
@[simp] theorem State.land_strands (s : State) (f : Flight) : (s.land f).core.strands = s.core.strands := by
  unfold State.land
  split
  · exact State.deliverTo_strands _ _ _ _ _
  · rfl
  · exact State.deliverTo_strands _ _ _ _ _
  · split <;> rfl
@[simp] theorem State.landings_strands (s : State) (t : Nat) : (s.landings t).core.strands = s.core.strands := by
  unfold State.landings
  dsimp only
  rw [Bool.cond_eq_ite]
  have h := foldl_keeps State.land (fun (x : State) => x.core.strands) State.land_strands (s.landingAt t) s
  split
  · exact h
  · exact h
@[simp] theorem State.grabs_strands (s : State) (t : Nat) : (s.grabs t).core.strands = s.core.strands := by
  unfold State.grabs
  refine foldl_keeps _ (fun (x : State) => x.core.strands) (fun x f => ?_) _ s
  split
  · rw [Bool.cond_eq_ite]; split
    · rfl
    · split
      · rw [Bool.cond_eq_ite]; split <;> rfl
      · rw [Bool.cond_eq_ite]; split
        · rw [State.fpCount_strands]; rfl
        · rfl
      · rw [Bool.cond_eq_ite]; split
        · rw [State.fpCount_strands]; rfl
        · rfl
      · rfl
  · rfl
@[simp] theorem State.beatCount_strands (s : State) (t n : Nat) : (s.beatCount t n).core.strands = s.core.strands := by
  unfold State.beatCount
  dsimp only
  rw [Bool.cond_eq_ite]; split <;> simp
@[simp] theorem State.wake_strands (s : State) (t : Nat) : (s.wake t).core.strands = s.core.strands := by
  unfold State.wake
  dsimp only
  rw [Bool.cond_eq_ite]
  split
  · unfold State.laneWakes
    rw [Bool.cond_eq_ite]; split
    · unfold State.trip
      dsimp only
      split
      · rw [Bool.cond_eq_ite]; split <;> rfl
      · rfl
    · rfl
  · rfl

/-- Scheduling M operations changes V's flights and what M has free, and nothing else (R232). -/
theorem State.mSchedule_eq (fs done : List Flight) (s : State) :
    ∃ fl fm af, s.mSchedule fs done = s.setV { s.core.v with flight := fl, freeM := fm, accFree := af } := by
  induction fs generalizing s done with
  | nil => exact ⟨_, _, _, rfl⟩
  | cons f t ih =>
    unfold State.mSchedule
    split
    · exact ih _ _
    · rw [Bool.cond_eq_ite]; split
      · exact ih _ _
      · rw [Bool.cond_eq_ite]; split
        · exact ⟨_, _, _, rfl⟩
        · dsimp only
          obtain ⟨a, b, c, e⟩ := ih ({ f with set := true, b0 := _, beats := _, land := _ } :: done) (s.setV { s.core.v with freeM := _, accFree := _ })
          exact ⟨a, b, c, by rw [e]; rfl⟩
@[simp] theorem State.mSchedule_strands (s : State) (fs done : List Flight) : (s.mSchedule fs done).core.strands = s.core.strands := by
  obtain ⟨a, b, c, e⟩ := State.mSchedule_eq fs done s; rw [e]; rfl

/-- A sample changes the symbols and BOUNDX of the CSRs, and the pending causes (R246). -/
theorem State.sampleSym_eq (s : State) (i : BitVec 3) (x : Nat) :
    ∃ c t, s.sampleSym i x = { s with core := { s.core with csr := c, trap := t } } := by
  unfold State.sampleSym
  dsimp only
  rw [Bool.cond_eq_ite]
  split
  · rw [Bool.cond_eq_ite]; split <;> exact ⟨_, _, rfl⟩
  · exact ⟨_, _, rfl⟩
theorem State.sampleFold_eq (p : State → BitVec 3 → Bool) (x : Nat) (l : List SReg) (s : State) :
    ∃ c t, l.foldl (fun s i => bif p s i then s.sampleSym i x else s) s = { s with core := { s.core with csr := c, trap := t } } := by
  induction l generalizing s with
  | nil => exact ⟨_, _, rfl⟩
  | cons i l ih =>
    rw [List.foldl_cons, Bool.cond_eq_ite]
    split
    · obtain ⟨c, t, e⟩ := s.sampleSym_eq i x
      obtain ⟨c', t', e'⟩ := ih (s.sampleSym i x)
      exact ⟨c', t', by rw [e', e]⟩
    · exact ih s
/-- What taking a sample changes, whichever symbols name its source (R243, R246). -/
theorem State.sampleAt_eq (s : State) (src : BitVec 4) (n k : Nat) :
    ∃ c t, s.sampleAt src n k = { s with core := { s.core with csr := c, trap := t } } := by
  unfold State.sampleAt
  dsimp only
  rw [Bool.cond_eq_ite]
  split
  · exact ⟨_, _, rfl⟩
  · exact State.sampleFold_eq (fun s i => (s.sym i).src == src) _ _ s
@[simp] theorem State.sampleAt_strands (s : State) (src : BitVec 4) (n k : Nat) : (s.sampleAt src n k).core.strands = s.core.strands := by
  obtain ⟨c, t, e⟩ := s.sampleAt_eq src n k; rw [e]; rfl
theorem State.copySample_eq (s : State) (c : Cmd) :
    ∃ x t, s.copySample c = { s with core := { s.core with csr := x, trap := t } } := State.sampleAt_eq s _ _ _
/-- The samples of copy-engine commands change no more than one sample does (R243). -/
theorem State.copySamples_eq (l : List Cmd) (s : State) :
    ∃ x t, l.foldl State.copySample s = { s with core := { s.core with csr := x, trap := t } } := by
  induction l generalizing s with
  | nil => exact ⟨_, _, rfl⟩
  | cons c l ih =>
    obtain ⟨x, t, e⟩ := s.copySample_eq c
    obtain ⟨x', t', e'⟩ := ih (s.copySample c)
    exact ⟨x', t', by rw [List.foldl_cons, e', e]⟩
theorem State.leaveSamples_eq (s : State) (l : List Cmd) :
    ∃ x t, s.leaveSamples l = { s with core := { s.core with csr := x, trap := t } } := State.copySamples_eq _ s
@[simp] theorem State.streamSample_strands (s : State) (x : Due) : (s.streamSample x).core.strands = s.core.strands :=
  State.sampleAt_strands _ _ _ _
@[simp] theorem State.arrive_strands (s : State) (r : SReg) : (s.arrive r).core.strands = s.core.strands := by
  unfold State.arrive
  dsimp only
  split
  · rfl
  · simp only [Bool.cond_eq_ite]
    split
    · rfl
    · split
      · rfl
      · split
        · rfl
        · refine (foldl_keeps _ (fun (x : State) => x.core.strands) (fun x p => State.sampleAt_strands _ _ _ _) _ _).trans ?_
          rw [State.setDesc_strands, State.fetchCounts_strands]
@[simp] theorem State.askBlocks_strands (s : State) (r : SReg) (n : Nat) : (s.askBlocks r n).core.strands = s.core.strands := by
  unfold State.askBlocks
  dsimp only
  simp only [Bool.cond_eq_ite]
  split
  · rw [State.arrive_strands]; split <;> rfl
  · rfl

theorem State.setFlight_strands (s : State) (fl : List Flight) : (s.setV { s.core.v with flight := fl }).core.strands = s.core.strands := rfl
theorem State.consume_strands (l : List Due) (s u : State) (h : s.consume l = .ok u) : u.core.strands = s.core.strands := by
  induction l generalizing s with
  | nil => cases h; rfl
  | cons x t ih =>
    unfold State.consume at h
    dsimp only at h
    rw [Bool.cond_eq_ite] at h
    split at h
    · cases h
    · split at h
      · cases h
      · split at h
        · cases h
        · cases h
        · rw [ih _ h, State.streamSample_strands, State.count_strands]
          rw [State.setFlight_strands, State.setDesc_strands, State.fetchCounts_strands, State.fillFor_strands]

@[simp] theorem State.tickBody_strands (s : State) (t : Nat) : (s.tickBody t).core.strands = s.core.strands := by
  unfold State.tickBody
  rw [State.landings_strands, State.grabs_strands, State.beatCount_strands, State.wake_strands, State.mSchedule_strands]
@[simp] theorem State.tickTaken_strands (s : State) : s.tickTaken.core.strands = s.core.strands := by
  unfold State.tickTaken
  dsimp only
  rw [Bool.cond_eq_ite]
  split
  · rfl
  · rw [State.count_strands]; rfl

@[simp] theorem State.tickAsks_strands (s : State) : s.tickAsks.core.strands = s.core.strands :=
  foldl_keeps _ (fun (x : State) => x.core.strands) (fun _ _ => State.askBlocks_strands _ _ _) _ s
theorem State.tickMade_strands {s u : State} (h : s.tickMade = .ok u) : u.core.strands = s.core.strands := by
  unfold State.tickMade at h
  dsimp only at h
  split at h
  · cases h
  · rename_i w hw
    split at h
    · cases h
    · cases h; exact State.consume_strands _ _ _ hw

/-- A tick that is taken: the blocks due have been asked for, its consumptions were all made and no push was held. -/
theorem State.vTick_took (s u : State) (h : s.vTick = .took u) :
    ∃ w, s.tickAsks.tickMade = .ok w ∧ u = (w.tickBody (s.tickAsks.vNow + 1)).tickTaken := by
  unfold State.vTick at h
  have held : ∀ (y : State) x, y.heldTick x ≠ .took u := by intro y x; unfold State.heldTick; split <;> exact fun h => by cases h
  dsimp only at h
  split at h
  · exact absurd h (held _ _)
  · rename_i w hw
    exact ⟨w, hw, (VTick.took.inj h).symm⟩

/-- A tick of V leaves the strands as they were (R206, R208). -/
theorem State.vTick_strands (s u : State) (h : s.vTick = .took u) : u.core.strands = s.core.strands := by
  obtain ⟨w, hw, rfl⟩ := State.vTick_took s u h
  rw [State.tickTaken_strands, State.tickBody_strands, State.tickMade_strands hw, State.tickAsks_strands]

end Sys2Proof.Machine
end

