-- ==== Sys2Proof/Tests/Slice0.lean ====
section
/-! SUPPORT. The model's own tests: ill-formed terms that WellFormed refuses, words that the spec's listings write out, one small machine for each
clause of a statement that has hypotheses, and single steps whose results are worked out by hand from the rule named. -/

namespace Sys2Proof.Tests

open Sys2Proof Sys2Proof.Machine Sys2Proof.Claims

set_option Elab.async false

/-- No token. -/
def quietTok : Tokens := ⟨false, false, false, false⟩
/-- push.next. -/
def pushNext : Tokens := ⟨false, false, false, true⟩

/-! ### WellFormed refuses each ill-formed term -/

theorem wf_refuses_c :
    (Instr.addx 5 6 7 5).wf = false ∧ (Instr.slli 5 6 64).wf = false ∧ (Instr.srli 5 6 64).wf = false ∧ (Instr.srai 5 6 (-1)).wf = false ∧
    (Instr.migRd 5 3).wf = false ∧ (Instr.dmdRd 5 5 0).wf = false ∧ (Instr.csrr 5 0x006).wf = false ∧ (Instr.csrw 5 6 0x820).wf = false ∧
    (Instr.csrs 5 6 0x861).wf = false ∧ (Instr.csrc 5 6 0xfff).wf = false := by decide

theorem wf_refuses_ls :
    (Instr.yrd .l ⟨false, false, false, false⟩ 0 1 4 0).wf = false ∧ (Instr.yrd .s ⟨false, false, false, false⟩ 0 1 2 1).wf = false ∧
    (Instr.vld ⟨false, false, false, false⟩ 0 24 0 1 0 true 0 0).wf = false ∧ (Instr.vld ⟨false, false, false, false⟩ 0 0 0 1 9 true 0 0).wf = false ∧
    (Instr.vld ⟨false, false, false, false⟩ 0 0 0 1 0 false 0 1).wf = false ∧ (Instr.pld ⟨false, false, false, false⟩ 0 31 1 0 0 0).wf = false ∧
    (Instr.wload ⟨false, false, false, false⟩ 0 0 1 9 0 0 0).wf = false ∧ (Instr.vst ⟨false, false, false, false⟩ 0 30 0 1 0 0 0 0).wf = false ∧
    (Instr.vst ⟨false, false, false, false⟩ 0 0 0 1 0 0 0 1).wf = false ∧ (Instr.pst ⟨false, false, false, false⟩ 0 24 1 0 0).wf = false ∧
    (Instr.vredAdd ⟨false, false, false, false⟩ 0 0 0 1 0 0 1).wf = false ∧ (Instr.vredMin ⟨false, false, false, false⟩ 0 24 0 1 0 0 0).wf = false ∧
    (Instr.vredMax ⟨false, false, false, false⟩ 0 0 0 1 9 0 0).wf = false := by decide

theorem wf_refuses_t_and_m :
    (Instr.tLend 0 false 7 false).wf = false ∧ (Instr.tLbr 0 1 true false).wf = false ∧ (Instr.ywait 4 0).wf = false ∧ (Instr.tYrd 1 4 0).wf = false ∧
    (Instr.tYrd 1 3 1).wf = false ∧ (Instr.mcfg true 5 0).wf = false ∧ (Instr.mcfg false 4 0).wf = false ∧ (Instr.mcfg false 5 3).wf = false ∧
    (Instr.mmacs false 0 0 24).wf = false ∧ (Instr.mdrain false 24 0 0 0 0).wf = false ∧ (Instr.mdrain false 31 0 7 0 0).wf = false := by decide

theorem wf_refuses_ab :
    (∀ op ∈ [ABOp.vadd, .vsub, .vmul, .vmin, .vmax, .vabs, .vneg, .vrsum, .vcsum, .vrmax, .vcmax, .vand, .vor, .vxor, .vnot, .vmov, .vtr, .vperm],
      (⟨op, 0, 1, 0, 1, 0⟩ : ABSlot).wf .b = false) ∧
    (∀ op ∈ [ABOp.vabs, .vneg, .vrsum, .vcsum, .vrmax, .vcmax, .vnot, .vmov, .vtr, .vidx, .vpack, .vunpk], (⟨op, 0, 1, 1, 2, 0⟩ : ABSlot).wf .a = false) ∧
    (∀ op ∈ [ABOp.vmin, .vmax, .vclamp, .vabs, .vneg, .vrmax, .vcmax, .vand, .vor, .vxor, .vnot, .vmov, .vtr, .vshl, .vshr, .vsra, .vcmp, .vsel,
        .vbrow, .vperm, .vshape, .vpack, .vunpk], (⟨op, 0, 1, 0, 0, 2⟩ : ABSlot).wf .a = false) ∧
    (Instr.vshl .a 0 1 2 3 false).wf = false ∧ (Instr.vshr .a 0 1 2 3 true).wf = false ∧ (Instr.vcmp .a 0 1 2 7 0).wf = false ∧
    (Instr.vimm .a 0 0 1).wf = false ∧ (Instr.vidx .a 0 0 3).wf = false ∧ (Instr.vshape .a 9 0 0).wf = false ∧ (Instr.vshape .a 0 13 0).wf = false ∧
    (Instr.vshape .a 0 0 7).wf = false ∧ (Instr.vcvt .a 0 1 false 7 0).wf = false ∧ (⟨.vscl, 0, 1, 2, 2, 0⟩ : ABSlot).wf .a = false ∧
    (Instr.vpack .a 0 1 1).wf = false ∧ (Instr.vunpk .a 0 1 9).wf = false ∧ (⟨.vexp, 0, 1, 0, 0, 0⟩ : ABSlot).wf .a = false ∧
    (⟨.verf, 0, 1, 1, 0, 0⟩ : ABSlot).wf .b = false ∧ (⟨.empty, 0, 1, 0, 0, 0⟩ : ABSlot).wf .a = false := by decide

/-- Two slots of one destination, a symbol with k = 0, and a bundle that a slot's own constructor stands for (R56, R62, R83). -/
theorem wf_refuses_bundles :
    (Instr.vBundleIssue { Bundle.bare with a := ⟨.vmov, 3, 1, 0, 0, 0⟩, b := ⟨.vmov, 3, 2, 0, 0, 0⟩ }).wf = false ∧
    (Instr.vBundleIssue { Bundle.bare with a := ⟨.vmov, 3, 1, 0, 0, 0⟩, m := .mdrain false 31 3 0 0 0 }).wf = false ∧
    (Instr.vBundleIssue { Bundle.bare with b := ⟨.vmov, 3, 1, 0, 0, 0⟩, m := .mdrain false 31 3 0 0 0 }).wf = false ∧
    (Instr.vBundleIssue { Bundle.bare with sym := 1, c := 1 }).wf = false ∧ (Instr.vBundleIssue Bundle.bare).wf = false ∧
    (Instr.vBundleIssue { Bundle.bare with a := ⟨.vmov, 3, 1, 0, 0, 0⟩ }).wf = false ∧
    (Instr.vBundleIssue { Bundle.bare with t := .halt }).wf = false := by decide

/-! ### The words of the spec's own listings decode to their instructions (sources: the file numbers beside them) -/

/-- C words: 02 (add, beq), 03 (end), 04 (ldhi, amo), 24 (ld.n32, fence.f, bar, amo.fadd). -/
theorem test_c_words_decode :
    decode (.c 0x02531c00) = .ok (.add 5 6 7) ∧ decode (.c 0x80537ffe) = .ok (.beq 5 6 (-2)) ∧ decode (.c 0xfa000003) = .ok .endC ∧
    decode (.c 0x34529000) = .ok (.ldhi 5 5 0x1000) ∧ decode (.c 0x60b56000) = .ok (.ldN32 11 10 0) ∧ decode (.c 0xe0000003) = .ok .fenceF ∧
    decode (.c 0xe6000003) = .ok (.bar 3) ∧ decode (.c 0x92052400) = .ok (.amoFaddF32 0 10 9) := by decide +kernel

/-- Stream, token, symbol and near-bank words: 08, 13, 18. -/
theorem test_stream_and_unit_words_decode :
    decode (.c 0xa0050000) = .ok (.sbBase 0 10) ∧ decode (.c 0xa2058180) = .ok (.sbDim 0 0 11 12) ∧ decode (.c 0xa40681c0) = .ok (.sbFmt 0 13 14) ∧
    decode (.c 0xa6089000) = .ok (.sbWin 1 17) ∧ decode (.c 0xa8001000) = .ok (.sbGo 1) ∧ decode (.c 0xad400001) = .ok (.sbRd 20 0 1) ∧
    decode (.c 0xec000001) = .ok (.tokPush true) ∧ decode (.c 0xee000001) = .ok (.tokPop true) ∧ decode (.c 0xde700000) = .ok (.lsymRd 7 0) ∧
    decode (.c 0xde049000) = .ok (.lsymPin 9 0) ∧ decode (.c 0xd0030000) = .ok (.nbLd 6 0) ∧ decode (.c 0xd2551c00) = .ok (.nbGo 5 10 7 false 0) ∧
    decode (.c 0xd4000000) = .ok .nbFence ∧ decode (.c 0xc14ad803) = .ok (.cpPp 20 21 22 false) := by decide +kernel

/-- System words: 18 (csrr, mon, mwait), and majors that R47 and R96 number (eret, a CSR that no row names). -/
theorem test_system_words_decode :
    decode (.c 0xf8900102) = .ok (.csrr 9 0x102) ∧ decode (.c 0xe2958000) = .ok (.mon 9 11) ∧ decode (.c 0xe5148000) = .ok (.mwait 17 9) ∧
    decode (.c 0xf8900006) = .error .limit ∧ (∃ e, decode (.c 0) = .error e) := by
  refine ⟨by decide +kernel, by decide +kernel, by decide +kernel, by decide +kernel, _, rfl⟩

/-- L and S words: 02 (yaddi), 05 (lbeg, vld, lend), 13 (wload, vst), 15 (wload of column sums). -/
theorem test_data_words_decode :
    decode (.ls .l 0x0843300000000010) = .ok (.yaddi .l pushNext 0 3 3 16) ∧ decode (.ls .l 0x1400200300000000) = .ok (.lbeg .l quietTok 3 2 0) ∧
    decode (.ls .l 0x4041905000000000) = .ok (.vld pushNext 0 3 1 0 5 false 0 0) ∧ decode (.ls .l 0x1800000300000000) = .ok (.lend .l quietTok 3) ∧
    decode (.ls .l 0x4a4f905000800000) = .ok (.wload ⟨true, false, false, true⟩ 0 1 0 5 0 4 0) ∧
    decode (.ls .l 0x484fc03300200000) = .ok (.wload pushNext 0 4 0 3 3 1 0) ∧
    decode (.ls .s 0x6281a00000000000) = .ok (.vst ⟨true, false, true, false⟩ 0 3 2 0 0 0 0 0) := by decide +kernel

/-- Bundles: 03 (ymov, halt), 09 (vshape), 10 (mmac, mdrain), 13 (mswap with vshape and lbeg), 23 (vimm). -/
theorem test_bundles_decode :
    decode (.v 0x000008000000000000000000060e0000) = .ok (.tYmov 1 12) ∧ decode (.v 0x00000800000000000000000002800000) = .ok .halt ∧
    decode (.v 0x00000800000706500000000000000000) = .ok (.vshape .a 3 5 0) ∧ decode (.v 0x00002180000000000000000000000000) = .ok (.mmac false 24 0) ∧
    decode (.v 0x022039f1b00000000000000000000000) =
      .ok (.vBundleIssue { Bundle.bare with c := 4, k := 1, m := .mdrain false 31 3 3 0 0 }) ∧
    decode (.v 0x00001800000702700000000000808038) =
      .ok (.vBundleIssue { Bundle.bare with m := .mswap, a := ⟨.vshape, 1, 7, 0, 0, 0⟩, t := .lbeg 1 0 3, tok := ⟨true, false, false, false⟩ }) := by decide +kernel

/-- 02: cut (+1+1*LD) a: vadd v3, v1, s0 ; pop.prev. -/
theorem test_cut_bundle_decodes :
    decode (.v 0x820808000000461c0000000000000008) = .ok (.vBundleIssue { Bundle.bare with
      cut := true, c := 1, k := 1, a := ⟨.vadd, 3, 1, 24, 0, 0⟩, tok := ⟨true, false, false, false⟩ }) := by decide +kernel

/-- The same words come from the encoder. -/
theorem test_words_encode :
    encode (.beq 5 6 (-2)) = some (.c 0x80537ffe) ∧ encode (.sbDim 0 0 11 12) = some (.c 0xa2058180) ∧
    encode (.vld pushNext 0 3 1 0 5 false 0 0) = some (.ls .l 0x4041905000000000) ∧
    encode (.vshape .a 3 5 0) = some (.v 0x00000800000706500000000000000000) ∧ encode .halt = some (.v 0x00000800000000000000000002800000) := by decide +kernel

/-! ### Small machines -/

/-- A page of 64 KiB at address 0 for reads, writes, execution and task mode (R325). -/
def page : Tlb := ⟨0, 0, 0, 16, 0x3f⟩

/-- A step in task mode on a machine that owns row group 0 and has page 0 in its TLB; C is ready, L, V and S have units to issue. -/
def task : State :=
  let s := State.reset
  { s with
    core := { s.core with
      c := { s.core.c with run := .ready, pc := 0x100 }, l := { s.core.l with ended := false, pc := 0x200 },
      v := { s.core.v with ended := false, pc := 0x300 }, s := { s.core.s with ended := false, pc := 0x400 },
      mmu := ⟨[page], []⟩, trap := { s.core.trap with tvec := 0x800 },
      ctx := { s.core.ctx with
        running := some ⟨0x1000, 0, true, false, some 0, 0⟩
        cast := some ⟨Vector.replicate 4 0, Vector.replicate 6 0, 0, 0, 0, Vector.replicate 8 0, Vector.replicate 3 0x18000, 0, Vector.replicate 4 0⟩ } },
    pkg := { s.pkg with rows := [⟨0, 0, true, false, 0⟩] } }

/-- The same step in supervisor mode, as a trap's handler. -/
def handler : State := task.setTrap { task.core.trap with mode := true, frz := true, tepc := 0x104 }

/-- A machine with C registers set. -/
def withX (s : State) (l : List (XReg × Word64)) : State := l.foldl (fun s x => s.xWrite x.1 x.2) s
/-- A machine with its queues changed. -/
def withQ (s : State) (f : Queues → Queues) : State := s.setQ (f s.core.q)

/-! ### A machine for each statement's hypotheses: C words -/

/-- Registers, ports at their last free entry, and supervisor mode. -/
theorem test_wit_register_words :
    (task.Quiet ∧ task.cReady [5, 6] 7 = true) ∧
    (let s := withQ task fun q => { q with qvc := [1], ecq := [2], qcl := List.replicate 15 0, qbr := List.replicate 31 0 }
     s.Quiet ∧ s.cReady [28, 29] 24 = true ∧ s.cReady [28] 27 = true) ∧
    (handler.Quiet ∧ handler.cReady [28, 29] 24 = true ∧ handler.cReady [] 5 = true) := by
  unfold State.Quiet; decide +kernel

/-- A load's access takes place at the last datum of each size in the page. -/
theorem test_wit_loads :
    ∀ e ∈ [((0xffff : Word64), 1), (0xfffe, 2), (0xfffc, 4), (0xfff8, 8)],
      let s := withX task [(5, e.1)]
      s.Quiet ∧ s.cReady [5] 6 = true ∧ Accesses s (s.cEvent (s.xRead 5 + (0 : BitVec 12).signExtend 64)) (s.xRead 5 + (0 : BitVec 12).signExtend 64) e.2
        .rd true false e.1.toNat := by
  unfold State.Quiet Accesses; decide +kernel

/-- A store's access takes place, at a page that is not remote. -/
theorem test_wit_stores :
    ∀ e ∈ [((0xffff : Word64), 1), (0, 2), (0xfffc, 4), (0xfff8, 8)],
      let s := withX task [(5, e.1), (6, 7)]
      let u := s.cEvent (s.xRead 5 + (0 : BitVec 12).signExtend 64)
      s.Quiet ∧ s.cReady [5, 6] 0 = true ∧ Accesses s u (s.xRead 5 + (0 : BitVec 12).signExtend 64) e.2 .wr false true e.1.toNat ∧
        u.region e.1.toNat = .hbm := by
  unfold State.Quiet Accesses; decide +kernel

/-- Branches, a jump to an aligned target and one to a misaligned target. -/
theorem test_wit_jumps :
    (task.Quiet ∧ task.cReady [5, 6] 0 = true) ∧
    (let s := withX task [(5, 0x1000)]
     s.Quiet ∧ s.cReady [5] 30 = true ∧ (s.xRead 5 + (4 : BitVec 15).signExtend 64).toNat % 4 = 0 ∧
       (s.xRead 5 + (-2 : BitVec 15).signExtend 64).toNat % 4 ≠ 0) := by
  unfold State.Quiet; decide +kernel

/-- The step's partition has a reduction window over page 0, and its level-3 group is that window's (R413). -/
def windowed : State :=
  let s := task
  let s := s.setPart 0 { s.part 0 with rwEn := true, rwBase := 0, rwLog := 0, rwGroup := 5 }
  s.setCsr { s.core.csr with domain := s.core.csr.domain.set 3 0x80000005 }

/-- Atomics of each width at their memory, in the window to x0, in it to another register, and outside it. -/
theorem test_wit_atomics :
    (∀ e ∈ [((0xfff8 : Word64), 8), (0xfffc, 4), (0xfffe, 2)],
      let s := withX task [(5, e.1), (6, 7)]
      s.Quiet ∧ s.cReady [5, 6, 0] 7 = true ∧ Accesses s (s.cEvent (s.xRead 5)) (s.xRead 5) e.2 .rdwr true true e.1.toNat ∧
        (s.cEvent (s.xRead 5)).inWindow (s.xRead 5) = false) ∧
    (∀ e ∈ [((0 : Word64), 4), (0xfffe, 2)],
      let s := withX windowed [(5, e.1), (6, 7)]
      s.Quiet ∧ s.cReady [5, 6, 0] 0 = true ∧ Posts s (s.cEvent (s.xRead 5)) (s.xRead 5) e.2 e.1.toNat ∧
        (s.cEvent (s.xRead 5)).inWindow (s.xRead 5) = true ∧ localRegion (bits e.1.toNat 42 0) = .hbm) := by
  unfold State.Quiet Accesses Posts; decide +kernel

/-- A stream descriptor that checks: one block of 4 by 4 f32 elements at address 0. -/
def goodDesc : Desc := { Desc.zero with base := 0, count := #v[4, 4, 1, 1], stride := #v[4, 16, 0, 0], block := 0x0404 }

/-! ### Streams, engines, migrate, demand, symbols, near-bank words -/

/-- No stream waits in flight, stream 0 has a descriptor that checks, and the operands of sb.dim and sb.base.sc stand at their limits. -/
theorem test_wit_stream_words :
    let s := withX (task.setDesc 0 goodDesc) [(5, 1), (6, 16777215), (7, (-8388608)), (8, 8388607), (9, (-2147483648)), (10, 2147483647)]
    s.Quiet ∧ (s.desc 0).active = false ∧ s.cReady [5, 6] 0 = true ∧ (s.desc 0).ok = true ∧
    -2147483648 ≤ (s.xRead 9).toInt ∧ (s.xRead 10).toInt ≤ 2147483647 ∧ 1 ≤ (s.xRead 5).toNat ∧ (s.xRead 6).toNat ≤ 16777215 ∧
    -8388608 ≤ (s.xRead 7).toInt ∧ (s.xRead 8).toInt ≤ 8388607 ∧ (s.core.v.flight.any fun f => f.await.any fun a => a.1 == 0) = false := by
  unfold State.Quiet; decide +kernel

/-- The operands of sb.base.sc and sb.dim one beyond each limit, and a descriptor that does not check. -/
theorem test_wit_stream_words_trap :
    let s := withX (task.setDesc 0 { goodDesc with win := 1 }) [(5, 0), (6, 16777216), (7, (-8388609)), (8, 8388608), (9, (-2147483649)), (10, 2147483648)]
    (s.desc 0).active = false ∧ s.cReady [5, 6] 0 = true ∧ (s.xRead 9).toInt < -2147483648 ∧ 2147483647 < (s.xRead 10).toInt ∧ (s.xRead 5).toNat = 0 ∧
      16777215 < (s.xRead 6).toNat ∧ (s.xRead 7).toInt < -8388608 ∧ 8388607 < (s.xRead 8).toInt ∧ (s.desc 0).ok = false := by
  decide +kernel

/-- An active stream: configuration words are refused, sb.stop is not. -/
def streaming : State := task.setDesc 0 (goodDesc.start task.core.ten 0)

theorem test_wit_active_stream :
    streaming.Quiet ∧ (streaming.desc 0).active = true ∧ streaming.cReady [5, 6] 0 = true ∧
    (streaming.core.v.flight.any fun f => f.await.any fun a => a.1 == 0) = false := by
  unfold State.Quiet; decide +kernel

/-- The scratchpad between PB0 and PB1 (R147). -/
def scratch : State := task.setCsr { task.core.csr with pb := #v[0x18000, 0x30000, 0x30000] }

/-- Copies of the scratchpad's last and first bytes, a gather and a scatter with their index list beside their elements, pub and ecw. -/
theorem test_wit_engine_words :
    let s := withX scratch [(5, 16), (6, 0x1000), (7, 0x2fff0), (8, 0x18000), (9, 0x1800000018100)]
    s.Quiet ∧
    MayEnter s .copy [5, 6, 7] (commandOf .mp (s.xRead 5) (s.xRead 6) (s.xRead 7) (bits (s.xRead 5).toNat 27 0) true false false 0 0) ∧
    MayEnter s .copy [5, 7, 6] (commandOf .pm (s.xRead 5) (s.xRead 7) (s.xRead 6) (bits (s.xRead 5).toNat 27 0) true true false 0 0) ∧
    MayEnter s .copy [5, 6, 6] (commandOf .mm (s.xRead 5) (s.xRead 6) (s.xRead 6) (bits (s.xRead 5).toNat 27 0) true false false 0 0) ∧
    MayEnter s .copy [5, 7, 8] (commandOf .pp (s.xRead 5) (s.xRead 7) (s.xRead 8) (bits (s.xRead 5).toNat 27 0) true false false 0 0) ∧
    bits (s.xRead 5).toNat 27 19 = 0 ∧
    MayEnter s .gather [5, 6, 9] (commandOf .gth (s.xRead 5) (s.xRead 6) (s.xRead 9) (bits (s.xRead 5).toNat 18 0) true false true 3 0) ∧
    MayEnter s .copy [5, 6, 9] (commandOf .sct (s.xRead 5) (s.xRead 6) (s.xRead 9) (bits (s.xRead 5).toNat 18 0) true false true 3 0) ∧
    MayEnter s .copy [5] (commandOf .pub (s.xRead 5) 0 0 0 true false false 0 0) ∧ (s.xRead 6).toNat % 8 = 0 ∧
    MayEnter s .copy [5, 6] { commandOf .ecw 0 (s.xRead 6) 0 0 false false false 0 0 with all := true, val := s.xRead 5 } ∧ s.cReady [] 5 = true := by
  unfold State.Quiet MayEnter; decide +kernel

/-- mig of a held page, of another page with entries free, and with none free. -/
theorem test_wit_migrate_words :
    (let s := withX task [(5, 0x10), (6, 0x20000)]
     s.Quiet ∧ s.cReady [5, 6] 0 = true ∧ canonical (s.xRead 5) = true ∧ (s.flushStore.tlbFind 0 0 (s.xRead 5)).isSome = true ∧
       (s.flushStore.tlbFind 0 0 (s.xRead 6)).isSome = false ∧ vget s.core.mig.table 0 none = none ∧ (s.part s.myPart).repMode ≠ 2) ∧
    (let s := { task with core := { task.core with mig := { task.core.mig with table := Vector.replicate 8 (some ⟨0x30000, 5, none⟩) } } }
     s.Quiet ∧ (∀ i < 8, (vget s.core.mig.table i none).isSome = true)) := by
  unfold State.Quiet; decide +kernel

/-- What a run of C loads gives, when it gives bytes. -/
def gotOf : CRead → Option (State × List Byte)
  | .got u b => some (u, b)
  | _ => none
theorem got_of {r : CRead} {x : State × List Byte} (h : gotOf r = some x) : r = .got x.1 x.2 := by
  cases r <;> simp [gotOf] at h; subst h; rfl

/-- A table of one node, an add that keeps the whole demand for itself (R258), at 0x1000. -/
def tabled : State := withX { task with mem := { task.mem with cells := [(0x1000, 1), (0x1001, 8)] } } [(5, 0x1000), (6, 100), (7, 0)]

/-- dmd of a demand and of none, with its trap not enabled; redmd of a held demand no less than the budget. -/
theorem test_wit_demand_words :
    (let s := tabled
     s.Quiet ∧ s.cReady [6, 5] 0 = true ∧ (s.xRead 5).toNat % 16 = 0 ∧ s.core.ten.committed = false ∧
       (gotOf (s.cBytes (s.xRead 5) 2)).map (fun x => tableOk x.2 1) = some true ∧ bits (s.xRead 7).toNat 11 0 = 0 ∧
       bits (s.xRead 6).toNat 11 0 ≠ 0 ∧ s.core.csr.trapen.getLsbD 2 = false ∧
       (let e := s.setCsr { s.core.csr with trapen := 4 }
        (e.divideHeld [⟨1, 0, 8, 0, Vector.replicate 3 ⟨0, 0, 0, 0⟩⟩] 4000).2 = true ∧ bits (4000 : Word64).toNat 11 0 = 4000 ∧ e.core.csr.trapen.getLsbD 2 = true)) ∧
    (let h : Held := ⟨[⟨1, 0, 8, 0, Vector.replicate 3 ⟨0, 0, 0, 0⟩⟩], 100, [{ NodeDiv.zero with budget := 100 }]⟩
     let s := tabled.setTen { tabled.core.ten with held := some h }
     s.core.ten.held = some h ∧ s.Quiet ∧ s.cReady [6] 0 = true ∧ (h.div.getD 0 NodeDiv.zero).budget ≤ bits (s.xRead 6).toNat 11 0 ∧
       s.core.csr.trapen.getLsbD 2 = false) := by
  unfold State.Quiet; decide +kernel

/-- Symbol 1 is used, of bounds 2 to 9 (R19, R20). -/
def symboled : State := task.setSym 1 { Sym.unused with lo := 2, hi := 9, bind := 4, src := 3 }

theorem test_wit_symbol_words :
    let s := withX symboled [(5, 2), (6, 9)]
    s.Quiet ∧ s.cReady [5] 6 = true ∧ (s.sym 1).src ≠ 0 ∧ (s.sym 1).lo.toNat ≤ (s.xRead 5).toNat ∧ (s.xRead 6).toNat ≤ (s.sym 1).hi.toNat := by
  unfold State.Quiet; decide +kernel

/-- A microprogram of one step, a fill of row 0 (R341), at 0x1000. -/
def programmed : State := withX { task with mem := { task.mem with cells := [(0x1000, 5)] } } [(5, 0x1000)]

theorem test_program_bytes :
    (gotOf (programmed.cBytes (programmed.xRead 5) 32)).map (·.2) = some (5 :: List.replicate 255 0) := by decide +kernel

/-- Those are the bytes of a run of loads that completes. -/
theorem program_got : ∃ u, programmed.cBytes (programmed.xRead 5) 32 = .got u (5 :: List.replicate 255 0) := by
  have h := test_program_bytes
  generalize programmed.cBytes (programmed.xRead 5) 32 = r at h ⊢
  cases r with
  | got u b => exact ⟨u, congrArg _ (Option.some.inj h)⟩
  | failed => cases h
  | waits => cases h
/-- The program of those bytes. -/
def programWords : List Word64 := (List.range 32).map fun i => BitVec.ofNat 64 (leAt (5 :: List.replicate 255 (0 : Byte)) (8 * i) 8)

theorem test_wit_nb_ld :
    (programmed.Quiet ∧ programmed.cReady [5] 0 = true ∧ (programmed.xRead 5).toNat % 256 = 0 ∧
      ∃ u, programmed.cBytes (programmed.xRead 5) 32 = .got u (5 :: List.replicate 255 0)) ∧
    nbChecked programWords = [5, 0] ∧ ∀ w ∈ nbChecked programWords, nbStepOk w = true := by
  have h : nbChecked programWords = [5, 0] := by decide +kernel
  exact ⟨⟨by unfold State.Quiet; decide +kernel, by decide +kernel, by decide +kernel, program_got⟩, h, List.all_eq_true.mp (by decide +kernel)⟩

theorem test_wit_nb_go :
    let s := withX (task.setNb { task.core.nb with slots := task.core.nb.slots.set 0 [5] }) [(5, 0x1000)]
    let u := s.cEvent (s.xRead 5)
    s.Quiet ∧ s.cReady [6, 5, 7] 0 = true ∧ (s.xRead 5).toNat % 4096 = 0 ∧ canonical (s.xRead 5) = true ∧
      u.leafFor s.core.ctx.part s.core.ctx.vf (s.xRead 5) = .leaf 16 0x3f ∧ leafAllows 0x3f .rdwr (!s.sup) = true ∧ u.region 0x1000 = .hbm ∧
      u.norm (entryAddr 0x3f / 2 ^ 16 * 2 ^ 16 + bits 0x1000 15 0) = 0x1000 ∧
      u.hostBias 0x1000 = false ∧ bits 0x1000 39 36 / 3 = u.pkg.die.toNat ∧ u.nbRefuse (.nbGo 6 5 7 true 0) (s.xRead 5) 16 0x1000 [5] = none ∧
      s.core.nb.cmds.length < 8 ∧ ((0x1000 / 65536) :: nbPages 0x1000 (nbSteps [5])).any (fun g => u.inFlip (g * 65536)) = false ∧
      s.cReady [5] 6 = true := by
  unfold State.Quiet; decide +kernel

/-- What a run of C loads fails by. -/
def failOf : CRead → Option (State × XFail × Word64)
  | .failed u f va => some (u, f, va)
  | _ => none
theorem fail_of {r : CRead} {x : State × XFail × Word64} (h : failOf r = some x) : r = .failed x.1 x.2.1 x.2.2 := by
  cases r <;> simp [failOf] at h; subst h; rfl
/-- A run of loads that fails, by neither a lost request nor a wait. -/
theorem failed_of {r : CRead} (h : (failOf r).any (fun x => decide (x.2.1 ≠ .remote ∧ x.2.1 ≠ .waits)) = true) :
    ∃ u f va, r = .failed u f va ∧ f ≠ .remote ∧ f ≠ .waits := by
  cases r <;> simp [failOf] at h
  exact ⟨_, _, _, rfl, h⟩
/-- A run of loads that gives bytes with a property. -/
theorem gotten_of {r : CRead} {p : List Byte → Bool} (h : (gotOf r).any (fun x => p x.2) = true) : ∃ u raw, r = .got u raw ∧ p raw = true := by
  cases r <;> simp [gotOf] at h
  exact ⟨_, _, rfl, h⟩

/-- A table that does not load or does not check, and a demand already committed; nothing held, and a held demand above the new one. -/
theorem test_wit_demand_words_trap :
    (let s := withX task [(5, 0x1008), (6, 0x1000), (7, 0x10000), (8, 99)]
     s.cReady [8, 5] 0 = true ∧ (s.xRead 5).toNat % 16 ≠ 0 ∧ (s.xRead 6).toNat % 16 = 0 ∧ (s.xRead 7).toNat % 16 = 0 ∧ s.core.ten.committed = false ∧
       s.core.ten.held = none ∧ (s.setTen { s.core.ten with committed := true }).core.ten.committed = true ∧
       (∃ u f va, s.cBytes (s.xRead 7) 2 = .failed u f va ∧ f ≠ .remote ∧ f ≠ .waits) ∧
       ∃ u raw, s.cBytes (s.xRead 6) 2 = .got u raw ∧ (!tableOk raw 1) = true) ∧
    (let h : Held := ⟨[⟨1, 0, 8, 0, Vector.replicate 3 ⟨0, 0, 0, 0⟩⟩], 100, [{ NodeDiv.zero with budget := 100 }]⟩
     let s := withX (task.setTen { task.core.ten with held := some h }) [(8, 99)]
     s.core.ten.held = some h ∧ s.cReady [8] 0 = true ∧ bits (s.xRead 8).toNat 11 0 < (h.div.getD 0 NodeDiv.zero).budget) := by
  refine ⟨⟨by decide +kernel, by decide +kernel, by decide +kernel, by decide +kernel, by decide +kernel, by decide +kernel, by decide +kernel,
    failed_of (by decide +kernel), gotten_of (by decide +kernel)⟩, by decide +kernel⟩

/-- A near-bank word's misaligned operand, a microprogram that does not load, and one whose first step is no step. -/
theorem test_wit_nb_words_trap :
    (let s := withX { task with mem := { task.mem with cells := [(0x1000, 0xff)] } } [(5, 0x80), (6, 0x1000), (7, 0x10000)]
     s.cReady [5, 6, 7] 0 = true ∧ (s.xRead 5).toNat % 256 ≠ 0 ∧ (s.xRead 5).toNat % 4096 ≠ 0 ∧ (s.xRead 6).toNat % 256 = 0 ∧ (s.xRead 7).toNat % 256 = 0 ∧
       (∃ u f va, s.cBytes (s.xRead 7) 32 = .failed u f va ∧ f ≠ .remote ∧ f ≠ .waits) ∧
       ∃ u raw, s.cBytes (s.xRead 6) 32 = .got u raw ∧
         ((nbChecked ((List.range 32).map fun i => BitVec.ofNat 64 (leAt raw (8 * i) 8))).any fun w => !nbStepOk w) = true) :=
  ⟨by decide +kernel, by decide +kernel, by decide +kernel, by decide +kernel, by decide +kernel, failed_of (by decide +kernel), gotten_of (by decide +kernel)⟩

/-- Base rows that nb.go turns away: not canonical, not mapped, mapped without permission, a guard row, and barred; and rows beyond the base's page. -/
theorem test_wit_nb_go_traps :
    (let s := withX task [(5, 1#64 <<< 60), (6, 0x10000)]
     (s.xRead 5).toNat % 4096 = 0 ∧ canonical (s.xRead 5) = false ∧ canonical (s.xRead 6) = true ∧
       (s.cEvent (s.xRead 6)).leafFor s.core.ctx.part s.core.ctx.vf (s.xRead 6) = .none) ∧
    (let s := { task with core := { task.core with mmu := ⟨[⟨0, 0, 0, 16, 0x3⟩], []⟩ } }
     (s.cEvent 0).leafFor s.core.ctx.part s.core.ctx.vf 0 = .leaf 16 0x3 ∧ leafAllows 0x3 .rdwr true = false) ∧
    (let root := fun (a : Word64) => { task with
       core := { task.core with mmu := ⟨[], []⟩ }, pkg := { task.pkg with rows := [⟨0, 0, true, true, 0⟩] } }.setPart 0
         ((task.part 0).setVf 0 { (task.part 0).vf 0 with ptbase := a })
     ((root 0x3f0000).cEvent 0).leafFor 0 0 0 = .guard 0x3f0000 ∧ ((root 0x100000000).cEvent 0).leafFor 0 0 0 = .barred) ∧
    (let u := task.cEvent 0
     u.leafFor task.core.ctx.part task.core.ctx.vf 0 = .leaf 16 0x3f ∧ leafAllows 0x3f .rdwr (!u.sup) = true ∧ u.region 0 = .hbm ∧ u.hostBias 0 = false ∧
       bits 0 39 36 / 3 = u.pkg.die.toNat ∧
       u.nbRefuse (.nbGo 6 5 7 true 0) 0 16 0 [5 + 511 * 2 ^ 36] = some (0x01, cWordOf (.nbGo 6 5 7 true 0))) := by
  decide +kernel

/-! ### Fences, watches, barriers, tokens, CSRs, privilege, traps -/

/-- A copy of one byte from the scratchpad to memory stands in the engine's queue. -/
def copying : State := task.setEng { task.core.eng with copy := [commandOf .pm 1 0x18000 0x1000 1 true false false 0 0], seq := 1 }
/-- A near-bank command is queued. -/
def nbQueued : NbCmd :=
  { prog := [5], row := 0, va := 0, s0 := 0, s1 := 0, tag := 3, done := true, planes := Vector.replicate 4 8, sent := false, running := false, step := 0,
    rstep := 0, suspended := false, asked := 0, halted := 0, told := false, acc := Vector.replicate 4 0, empty := 15,
    fpc := List.replicate 8 0, start := 0, extra := 0, fin := none, fault := none, payer := (0, none), gone := false }
/-- The step waits for its near-bank command. -/
def nearWaiting : State := task.setNb { task.core.nb with cmds := [nbQueued] }

/-- Each fence whose point is reached, each whose point is not, and C in each wait. -/
theorem test_wit_fences :
    (task.Quiet ∧ (∀ k ∈ [(0 : BitVec 2), 1, 2, 3], task.flushStore.fenceDone k = true) ∧ task.flushStore.nearFenced = true) ∧
    (copying.Quiet ∧ copying.flushStore.fenceDone 0 = false ∧ copying.flushStore.fenceDone 2 = false) ∧
    (nearWaiting.Quiet ∧ nearWaiting.flushStore.fenceDone 1 = false ∧ nearWaiting.flushStore.nearFenced = false) ∧
    (let s := { task with pkg := { task.pkg with red := [⟨0, 0, .add, 0, 0, 1, 0, false⟩] } }
     s.Quiet ∧ s.flushStore.fenceDone 3 = false) ∧
    (let s := (task.setNb { task.core.nb with lines := [7] }).setC { task.core.c with watch := .armed 7 }
     7 ∈ s.core.nb.lines ∧ s.core.c.watch = .armed 7 ∧ s.nearFenced = true) ∧
    (let s := task.setC { task.core.c with run := .fence 3 }
     s.Quiet ∧ s.core.c.run = .fence 3 ∧ s.fenceDone 3 = true) ∧
    (let s := task.setC { task.core.c with run := .nbFence }
     s.Quiet ∧ s.core.c.run = .nbFence ∧ s.nearFenced = true) := by
  unfold State.Quiet; decide +kernel

/-- mon's access; mwait on no watch, on a fired one, a lost one and an armed one; and C asleep, woken and timed out. -/
theorem test_wit_watches :
    (let s := withX task [(5, 0x80)]
     s.Quiet ∧ s.cReady [5] 6 = true ∧ Accesses s (s.cEvent (s.xRead 5)) (s.xRead 5) 8 .rd true false 0x80 ∧ s.core.c.watch = .none ∧
       (s.part s.myPart).repMode ≠ 2) ∧
    (let s := task.setC { task.core.c with watch := .armed 1 }
     s.flushStore.core.c.watch = .armed 1 ∧ s.core.c.watch = .armed 1 ∧ s.flushStore.yieldTo 1 = none) ∧
    (let s := task.setC { task.core.c with watch := .fired 1, run := .mwait 6 none }
     s.Quiet ∧ s.core.c.run = .mwait 6 none ∧ s.mwaitReason = some 0) ∧
    (let s := task.setC { task.core.c with watch := .lost 1, run := .mwait 6 none }
     s.mwaitReason = some 1) ∧
    (let s := task.setC { task.core.c with watch := .armed 1, run := .mwait 6 (some 0) }
     s.Quiet ∧ s.core.c.run = .mwait 6 (some 0) ∧ 0 ≤ s.tstamp) := by
  unfold State.Quiet Accesses; decide +kernel

/-- Level-0 group 7 of two members is valid. -/
def grouped : State := task.setCsr { task.core.csr with domain := task.core.csr.domain.set 0 0x80002007 }
/-- The core's own arrival stands, made by a bar. -/
def arrivedMid : State := grouped.barDo 0 true

/-- Barrier words that arrive, wait and sleep: the other member has arrived before, or comes later. -/
theorem test_wit_barriers :
    (grouped.Quiet ∧ domValid (grouped.domain 0) = true ∧ grouped.cReady [] 5 = true ∧ grouped.flushStore.barOver 0 = true ∧
      grouped.flushStore.barCovered = true ∧ grouped.flushStore.core.c.mid.getLsbD 0 = false ∧ (grouped.flushStore.barDo 0 true).barOver 0 = false) ∧
    (let s := grouped.setBar ⟨0, 7, 1, 4⟩
     domValid (s.domain 0) = true ∧ (s.flushStore.barDo 0 true).barOver 0 = true) ∧
    (domValid (arrivedMid.domain 0) = true ∧ arrivedMid.flushStore.barOver 0 = false ∧ arrivedMid.core.c.mid.getLsbD 0 = true) ∧
    (let s := (arrivedMid.barArrive 0 7 2).setC { (arrivedMid.barArrive 0 7 2).core.c with run := .bar (.bar 0) }
     s.Quiet ∧ domValid (s.domain 0) = true ∧ s.core.c.run = .bar (.bar 0) ∧ s.flushStore.core.c.mid.getLsbD 0 = true ∧ s.flushStore.barOver 0 = true) ∧
    (let s := (arrivedMid.barArrive 0 7 2).setC { (arrivedMid.barArrive 0 7 2).core.c with run := .bar (.barW 0) }
     s.core.c.run = .bar (.barW 0) ∧ s.flushStore.barOver 0 = true) := by
  unfold State.Quiet; decide +kernel

/-- A FIFO at its last free place and at its last token; a submission to queue 63; a tdep of the last dword of a block; a step that may yield. -/
theorem test_wit_tokens :
    (let s := withQ task fun q => { q with tok := (q.tok.set 0 ⟨7, 0, 0⟩).set 6 ⟨1, 0, 0⟩ }
     s.Quiet ∧ s.tokRoom .c true = true ∧ 0 < (s.fifo (fifoFrom .c false)).occ) ∧
    (let x := (task.part 0).setVf 0 { (task.part 0).vf 0 with qmask := 1#64 <<< 63 }
     let s := withX (task.setPart 0 { x with queues := [(63, ⟨0, true, 0, 0, 0, 0⟩)] }) [(5, 0xff00)]
     s.Quiet ∧ s.cReady [5] 0 = true ∧ (s.xRead 5).toNat % 256 = 0 ∧ (s.part s.myPart).mayUse s.core.ctx.vf 63 = true ∧ s.core.q.sub.length < 4) ∧
    (let s := withX task [(5, 0xff00)]
     s.cReady [5] 6 = true ∧ (s.xRead 5).toNat % 256 = 0 ∧ Accesses s (s.cEvent (s.xRead 5 + 0xc4)) (s.xRead 5 + 0xc4) 4 .rdwr true true 0xffc4) ∧
    task.core.ctx.running = some ⟨0x1000, 0, true, false, some 0, 0⟩ := by
  unfold State.Quiet Accesses; decide +kernel

/-- A CSR that task mode reads, one that only supervisor mode may, and the modes themselves. -/
theorem test_wit_csr_words :
    (task.Quiet ∧ (task.part task.myPart).repMode ≠ 2 ∧ (task.sup = true ∨ csrPriv 0x010 = false) ∧ task.cReady [5] 6 = true) ∧
    (handler.Quiet ∧ (handler.part handler.myPart).repMode ≠ 2 ∧ handler.sup = true ∧ handler.cReady [5] 6 = true) ∧
    (task.sup = false ∧ csrPriv 0x000 = true ∧ task.cReady [5] 6 = true) := by
  unfold State.Quiet; decide +kernel

/-- eret, tlbi, end, trap and bkpt: a handler with a step, and a step in task mode that waits for no freeze. -/
theorem test_wit_system_words :
    (handler.Quiet ∧ handler.sup = true ∧ handler.core.trap.noStep = .no) ∧
    (let s := handler.setTrap { handler.core.trap with noStep := .residue }
     s.Quiet ∧ s.sup = true ∧ s.core.trap.noStep ≠ .no) ∧ (task.Quiet ∧ task.sup = false ∧ task.core.trap.wait = none) := by
  unfold State.Quiet; decide +kernel

/-- The second trap of a restartable step: with room in the partition's fault queue, and with no queue. -/
theorem test_wit_double_trap :
    (∃ id cast, handler.sup = true ∧ handler.core.trap.noStep = .no ∧ handler.core.c.store = none ∧ handler.core.ctx.running = some id ∧
      handler.core.ctx.cast = some cast ∧ id.gang = false ∧ id.rst = true ∧ id.abandons < 7 ∧ handler.fqRoom handler.core.ctx.part = false) ∧
    (let s := handler.setPart 0 { handler.part 0 with fqEn := true, fqBase := 0x2000 }
     s.fqRoom s.core.ctx.part = true ∧ ∃ base pa, s.ctxPa s.core.ctx.part 0 (s.part s.core.ctx.part).fqBase = some base ∧
       s.ctxPa s.core.ctx.part 0 ((s.part s.core.ctx.part).fqBase +
         BitVec.ofNat 64 (0x80 + 64 * (s.rdNat base 8 % ringSize (s.part s.core.ctx.part).fqLog))) = some pa) :=
  ⟨⟨_, _, by decide +kernel, by decide +kernel, by decide +kernel, rfl, rfl, rfl, rfl, by decide +kernel, by decide +kernel⟩,
    by decide +kernel, 0x2000, 0x2080, by decide +kernel, by decide +kernel⟩

/-! ### L, S and data words -/

/-- Four levels of ids 1 to 4, the innermost with one iteration left. -/
def fourLoops : List Loop := [⟨4, 0x200, some 0x210, 1, 6⟩, ⟨3, 0x1f8, none, 2, 0⟩, ⟨2, 0x1f0, none, 0, 0⟩, ⟨1, 0x1e8, none, 0xffffffff, 0⟩]
/-- L inside those levels, with a word queued for y12. -/
def looping : State := withQ (task.setLS .l { task.core.l with loops := fourLoops }) fun q => { q with qcl := [5] }
/-- L with a word in flight that writes y3. -/
def behind : State := looping.setLS .l { looping.core.l with pend := [⟨true, false, some (3, 1), quietTok, none, false⟩] }

/-- A free word, one behind another, one that opens the fourth level, one that closes the innermost, and one that leaves one. -/
theorem test_wit_ls_words :
    (looping.Quiet ∧ looping.lsReady .l pushNext [12, 3] = true ∧ 3 ≤ (looping.ls .l).loops.length ∧ (looping.ls .l).pend = []) ∧
    (behind.lsReady .l pushNext [12] = true ∧ (behind.ls .l).pend ≠ []) ∧
    (let s := task.setLS .s { task.core.s with loops := fourLoops.tail }
     s.Quiet ∧ s.lsReady .s quietTok [1] = true ∧ (s.ls .s).loops.length < 4 ∧ loopFind (s.ls .s).loops 4 = none) ∧
    ((looping.ls .l).loops = fourLoops ∧ (⟨4, 0x200, some 0x210, 1, 6⟩ : Loop).id = 4 ∧ (loopFind (looping.ls .l).loops 1).isSome = true) := by
  unfold State.Quiet; decide +kernel

/-- A level with iterations left, one at its last, and the misuses of R129 to R131: a fifth level, an active id, another level's id, an id that is not
active, and a marker beyond the levels. -/
theorem test_wit_loops :
    (1 < (⟨3, 0, none, 2, 0⟩ : Loop).remaining.toNat ∧ (⟨4, 0, none, 1, 0⟩ : Loop).remaining.toNat ≤ 1) ∧
    (looping.lsOrdered .l = true ∧ 4 ≤ (looping.ls .l).loops.length ∧ (loopFind (looping.ls .l).loops 4).isSome = true) ∧
    (∀ l ls, (looping.ls .l).loops = l :: ls → l.id ≠ 9) ∧ loopFind (looping.ls .l).loops 9 = none ∧
    (task.lsOrdered .l = true ∧ (task.ls .l).loops.length < (1 : BitVec 2).toNat) := by
  refine ⟨by decide +kernel, by decide +kernel, ?_, by decide +kernel, by decide +kernel⟩
  intro l ls h
  have : l = ⟨4, 0x200, some 0x210, 1, 6⟩ := by have h' : fourLoops = l :: ls := h; injection h' with a _; exact a.symm
  subst this; decide

/-- A read that gives its blocks. -/
def gives : Pop → Bool | .ok _ => true | _ => false
theorem gives_some {p : Pop} (h : gives p = true) : ∃ bs, p = .ok bs := by cases p <;> simp_all [gives]

/-- A stream of one row of n elements in a format, from address 0. -/
def rowDesc (n : BitVec 24) (bc : BitVec 8) (fmt : BitVec 16) : Desc :=
  { Desc.zero with count := #v[n, 1, 1, 1], stride := #v[1, 0, 0, 0], block := bc ++ 0#8, ctl := 0x4000 ||| fmt }
/-- L may load: stream 0 has one block of four f32 elements, V's format is f32. -/
def loading : State := scratch.setDesc 0 (rowDesc 4 3 0)

theorem test_wit_vld :
    let s := loading
    let d := s.desc 0
    let nb := ceilDiv (dataLen 0 d.blockSize) d.blockSize
    let a := (fresh s .l).askBlocks 0 nb
    let d' := a.desc 0
    (s.lsReady .l pushNext [1] = true ∧ 0 ≤ (s.ls .l).loops.length ∧ d.active = true ∧ d.out = false ∧ d.fmt = (0 : BitVec 4).toNat ∧
      s.poolCause 23 0 (dataLen 0 d.blockSize) = none ∧ s.scratchBad (0x2fff0 + (s.yRead .l 1).toNat) (dataLen 0 d.blockSize) = none ∧
      d.positions nb d.at_ = some [0] ∧ a.blocksHere 0 nb = true) ∧
    ∃ bs, (a.fillFor d' (d'.carried [0])).readBlocks d' [0] d'.ahead [] = .ok bs :=
  ⟨by decide +kernel, gives_some (by decide +kernel)⟩

theorem test_wit_pld :
    let s := scratch
    s.lsReady .l quietTok [1] = true ∧ (0 : BitVec 4) = s.core.v.shape.fmt ∧ s.scratchBad (0x2ffc0 + (s.yRead .l 1).toNat) (dataLen 1 s.vcap) = none ∧
      s.poolCause 23 0 (dataLen 1 s.vcap) = none ∧ s.poolErr 0x2ffc0 (dataLen 1 s.vcap) = none := by decide +kernel

/-- The last row of sparsity indices; and what the last row of weights needs of its stream and of KW. -/
theorem test_wit_wload :
    (let s := task.setDesc 1 (rowDesc 12 11 0)
     let d := s.desc 1
     let a := (fresh s .l).askBlocks 1 (wloadRows 1)
     let d' := a.desc 1
     (s.lsReady .l quietTok [1] = true ∧ d.active = true ∧ d.out = false ∧
       (127 : BitVec 7).toNat + (s.yRead .l 1).toNat + wloadRows 1 ≤ (if (1 : BitVec 2).toNat < 2 then 128 else 4) ∧
       wloadFits d s.core.arr.shadow 1 0 = true ∧ d.positions (wloadRows 1) d.at_ = some [0] ∧ a.blocksHere 1 (wloadRows 1) = true ∧
       a.shadowBusy = false) ∧
     ∃ bs, (a.fillFor d' (d'.carried [0])).readBlocks d' [0] d'.ahead [] = .ok bs) ∧
    (wloadFits (rowDesc 128 127 5) task.core.arr.shadow 0 5 = true ∧ task.core.arr.shadow.kwSet = false) :=
  ⟨⟨by decide +kernel, gives_some (by decide +kernel)⟩, by decide +kernel⟩

/-- A check that passes. -/
def passes : Access Unit × Nat → Bool | (.ok _, 0) => true | _ => false
theorem passes_some {p : Access Unit × Nat} (h : passes p = true) : ∃ x, p = (.ok x, 0) := by
  obtain ⟨a, n⟩ := p
  cases a <;> cases n <;> simp_all [passes]

/-- S may store: stream 2 takes four f32 elements. -/
def storing : State := scratch.setDesc 2 (rowDesc 4 3 0x100)

theorem test_wit_store_words :
    (let s := scratch
     s.lsReady .s quietTok [1] = true ∧ s.scratchBad (0x18000 + (s.yRead .s 1).toNat) (dataLen 1 s.vcap) = none ∧ s.poolCause 0 0 (dataLen 1 s.vcap) = none ∧
       s.poolErr (s.vrOff 0) (dataLen 1 s.vcap) = none) ∧
    storing.lsReady .s quietTok [1] = true ∧
    PushSource (fresh storing .s) 3 2 0 0 0 .wr [(0, 0), (1, 1), (2, 2), (3, 3)] ∧
    (PushSource (fresh storing .s) 31 2 0x2fff0 0 0 .rdwr [(0, 0), (1, 1), (2, 2), (3, 3)] ∧ (storing.desc 2).fmt ∈ [0, 1, 3]) ∧
    (let w := (fresh storing .s).fillFor (storing.desc 2) [0, 1, 2, 3]
     w.redBad (storing.desc 2) [0, 1, 2, 3] = [] ∧
       ([0, 1, 2, 3].any fun x => w.inWindow ((storing.desc 2).elemVa x) && w.vcStopped 2 ((w.elemPas (storing.desc 2) x).headD 0)) = false) :=
  ⟨by decide +kernel, by decide +kernel,
    ⟨by decide +kernel, by decide +kernel, by decide +kernel, by decide +kernel, by decide +kernel, by decide +kernel, passes_some (by decide +kernel)⟩,
    ⟨⟨by decide +kernel, by decide +kernel, by decide +kernel, by decide +kernel, by decide +kernel, by decide +kernel, passes_some (by decide +kernel)⟩,
      by decide +kernel⟩, by decide +kernel⟩

/-- A word at the head of those in flight (R122). -/
theorem test_wit_retire : behind.Quiet ∧ (behind.ls .l).pend = ⟨true, false, some (3, 1), quietTok, none, false⟩ :: [] := by
  unfold State.Quiet; decide +kernel

/-! ### V -/

/-- Whether V may issue a bundle, as a computation. -/
def vMayB (s : State) (b : Bundle) : Bool :=
  let v := s.core.v
  let s1 := if b.cut = true ∧ v.atCut = false ∧ v.lookYield = true then
      (s.setCtx { s.core.ctx with yield_ := none }).setV { v with lookYield := false } else s
  !v.halted && !v.ended && !v.drain && (!b.cut || v.atCut || !v.look) && (b.k == 0 || (s.sym b.sym).isUsed) &&
    match s1.vAdvance (s.issueTick b - 1 - s.core.csr.tick.toNat) with
    | (w, true) => w.tReady b.t && w.tokReady .v b.tok && w.tOk b.t && (!w.guardOn b || (!w.mswapHeld b && (w.slotCause b).isNone)) &&
        match w.vTick with | .took _ => true | _ => false
    | _ => false

theorem vMay_of {s : State} {b : Bundle} (h : vMayB s b = true) : ∃ u, VMay s b u := by
  unfold vMayB at h
  simp only [Bool.and_eq_true] at h
  obtain ⟨⟨⟨⟨⟨h1, h2⟩, h3⟩, h4⟩, h5⟩, h6⟩ := h
  split at h6
  next w hw =>
    simp only [Bool.and_eq_true] at h6
    obtain ⟨⟨⟨⟨t1, t2⟩, t3⟩, t4⟩, t5⟩ := h6
    split at t5
    next u hu =>
      refine ⟨u, by simpa using h1, by simpa using h2, by simpa using h3, ?_, ?_, w, hw, t1, t2, t3, ?_, hu⟩
      · intro hc; simpa [hc] using h4
      · simpa using h5
      · intro hg; simpa [hg] using t4
    next => exact absurd t5 (by decide)
  next => exact absurd h6 (by decide)

/-- V's shape in a format. -/
def inFormat (s : State) (f : BitVec 4) : State := s.setV { s.core.v with shape := { s.core.v.shape with fmt := f } }
/-- V inside a loop, with a value and a branch entry queued and tick 7 taken. -/
def vector : State :=
  withQ (task.setV { task.core.v with loops := [⟨3, 0x2f0, none, 2, 0⟩], tPrev := 7 }) fun q => { q with qcv := [9], qbr := [1] }
/-- The same machine at tick 7. -/
def vecTask : State := vector.setCsr { vector.core.csr with tick := 7 }

/-- Each T slot instruction, one with a symbolic distance, and a bundle of four slots at a cut. -/
theorem test_wit_t_slots :
    (∀ op ∈ [TOp.hint 5, .ywait 1 1, .lbeg 4 12 127, .lend 3 true 2 true, .lend 3 false 0 false, .lbr 3 0 true false, .lbr 3 12 false true, .jmp (-1),
        .stgSet 254, .stgClr 1, .stgCond 12 2, .stgLoad 1 255, .tkr 4 (-3), .tsr 12 1, .yadd 3 12 1, .yaddi 15 1 (-1), .ymov 5 12, .yrd 1 0 3, .yrd 1 2 0,
        .halt], vMayB vecTask (tAlone op) = true) ∧
    vMayB (vecTask.setSym 2 { Sym.unused with bind := 3, src := 1 }) { Bundle.bare with k := 1, sym := 2, c := 1, a := ⟨.vimm, 0, 0, 0, 0, 0⟩ } = true ∧
    vMayB vecTask { Bundle.bare with
      cut := true, m := .mclr false false, a := ⟨.vimm, 0, 0, 0, 0, 0⟩, b := ⟨.vmov, 1, 2, 0, 0, 0⟩, t := .yadd 3 12 1, tok := pushNext } = true := by
  decide +kernel

/-- Each A and B slot instruction may issue in f32 or in i32. -/
theorem test_wit_ab_slots :
    ∀ e ∈ abInstrs .a 23 0 1 2 0 0 2 2 7 3 5 true ++ sfInstrs 23 0 0,
      (vMayB (inFormat vecTask 0) (abAlone .b e.2) || vMayB (inFormat vecTask 3) (abAlone .b e.2) || vMayB (inFormat vecTask 5) (abAlone .b e.2)) = true := by
  decide +kernel

/-- vshape, a hint and each M slot instruction. -/
theorem test_wit_m_slots :
    vMayB vecTask (abAlone .a ⟨.vshape, 5, 5, 0, 0, 0⟩) = true ∧ vMayB vecTask (abAlone .b ⟨.hint, 1, 2, 3, 4, 1⟩) = true ∧
    (∀ op ∈ [MOp.mnop, .mcfg false 5 2, .mcfg true 1 0, .mswap, .mclr true true], vMayB vecTask (mAlone op) = true) ∧
    (let s := vecTask.setV { vecTask.core.v with shape := { vecTask.core.v.shape with rlog := 5, clog := 7, fmt := 5 } }
     let f := { s with core := { s.core with arr := { s.core.arr with acc := Vector.replicate 2 ⟨true, []⟩ } } }
     vMayB s (mAlone (.mmac false 0 96)) = true ∧ vMayB f (mAlone (.mmacs true 0 96 23)) = true) ∧
    (let s := vecTask.setV { vecTask.core.v with shape := { vecTask.core.v.shape with rlog := 3, clog := 5, fmt := 3 } }
     vMayB s (mAlone (.mdrain false 31 3 3 0 63)) = true) := by
  decide +kernel

/-! ### Traps that wait, ticks and cuts -/

theorem test_wit_bad_units :
    task.sup = false ∧ task.core.trap.wait = none ∧ (∀ c ∈ fetchCauses, task.forwards c = false) ∧ task.forwards 0x06 = false ∧ task.asyncNow = true := by
  decide +kernel

/-- Bits 3 and 5 pend; a cause waits for its freeze with L, V and S stuck, for 2^16 cycles, and for a forwarded fault's answer; the watchdog is due. -/
theorem test_wit_waiting_causes :
    (let s := task.setTrap { task.core.trap with pend := 0x28 }
     s.asyncNow = true ∧ lowestPend s.core.trap.pend = some 3 ∧ 3 < 6) ∧
    (let s := { task with core := { task.core with
        l := { task.core.l with ended := true }, v := { task.core.v with ended := true }, s := { task.core.s with ended := true },
        trap := { task.core.trap with wait := some ⟨0x06, .c, 0x100, 0x5000, 0, none, false, false⟩ } } }
     s.core.trap.wait = some ⟨0x06, .c, 0x100, 0x5000, 0, none, false, false⟩ ∧ s.othersStuck .c = true) ∧
    2 ^ 16 ≤ (⟨0x06, .c, 0x100, 0x5000, 65536, none, false, false⟩ : FreezeWait).cycles ∧
    (let s := { task with core := { task.core with
        l := { task.core.l with blocked := true }, v := { task.core.v with blocked := true }, s := { task.core.s with ended := true },
        trap := { task.core.trap with wait := some ⟨0x06, .c, 0x100, 0x5000, 0, some 9, false, false⟩, moved := 0 } } }
     (s.core.trap.wait.bind (·.seq)) = some 9 ∧ s.othersStuck .c = true) ∧
    (let s := task.setTrap { task.core.trap with dog := 2 ^ 20 + 1 }
     s.asyncNow = true ∧ 2 ^ 20 < s.core.trap.dog) := by decide +kernel

/-- The core after a copy of one byte that a fault has stopped, and an earlier one, where there is one, whose trap has been taken. -/
def stoppedBy (cause : BitVec 8) : State :=
  let c := commandOf .mp 1 0x10000 0x18000 1 true false false 0 0
  (task.setEng { task.core.eng with copy := [{ c with fault := some ⟨cause, 0x10000, 0x10000, false, none⟩ }], seq := 1 }).setTrap
    { task.core.trap with pend := 0x40 }

/-- PEND bit 22 with a stopped unit whose cause is a trap at once, with one whose cause waits for its freeze, and in that wait; no trap now in
supervisor mode. -/
theorem test_wit_unit_causes :
    (∀ cause ∈ [(0x06 : BitVec 8), 0x07], let s := stoppedBy cause
      s.asyncNow = true ∧ lowestPend s.core.trap.pend = some 6 ∧ (s.core.nextUnitFault.map (·.1.cause)) = some cause) ∧
    (let s := { stoppedBy 0x07 with core := { (stoppedBy 0x07).core with
        l := { task.core.l with ended := true }, v := { task.core.v with ended := true }, s := { task.core.s with ended := true },
        trap := { (stoppedBy 0x07).core.trap with wait := some ⟨0x07, .c, 0, 0x10000, 65536, none, false, true⟩ } } }
     let w : FreezeWait := ⟨0x07, .c, 0, 0x10000, 65536, none, false, true⟩
     let u := s.setTrap { s.core.trap with wait := none }
     s.core.trap.wait = some w ∧ w.frozen = false ∧ w.seq = none ∧ w.unit = true ∧ u.core.nextUnitFault.isSome = true ∧
       s.othersStuck w.strand = true ∧ 2 ^ 16 ≤ w.cycles) ∧
    handler.asyncNow = false := by
  decide +kernel

/-- An operation that lands at tick 9, one f32 element of vimm into v0. -/
def landing : Flight :=
  { op := .ab .a ⟨.vimm, 0, 0, 0, 1, 0⟩, shape := { rlog := 0, clog := 0, fmt := 3, cap := 4 }, srcs := [], blocks := [], await := [], set := true, b0 := 8,
    beats := 1, land := 9, grab := none, old := false, seq := 0, pc := 0x2f0, since := 0, extra := [], word := 0 }
/-- V halted with that operation in flight. -/
def landingV : State := vecTask.setV { vecTask.core.v with halted := true, flight := [landing] }
/-- A tick that is taken. -/
def takes : VTick → Bool | .took _ => true | _ => false
theorem takes_some {x : VTick} (h : takes x = true) : ∃ u, x = .took u := by cases x <;> simp_all [takes]

theorem test_wit_v_moves :
    (landingV.vMoves = true ∧ (landingV.vAdvance (landingV.ticksTo true)).2 = true ∧ landingV.vNow + landingV.ticksTo true < 2 ^ 64 ∧
      (landingV.vAdvance (landingV.ticksTo false)).2 = true ∧ landingV.vNow + landingV.ticksTo false < 2 ^ 64) ∧
    (let s := vecTask.setV { vecTask.core.v with stretch := some 0 }
     let h := s.setV { s.core.v with halted := true }
     (h.vMoves = true ∧ h.core.v.stretch = some 0 ∧ (h.desc 0).late = false ∧ h.core.v.halted = true ∧ h.vNow + 1 < 2 ^ 64) ∧ ∃ u, h.vTick = .took u) ∧
    (let s := vecTask.setV { vecTask.core.v with stretch := some 0, held := [(0x300, [0, 0, 0x80, 2, 0, 0, 0, 0, 0, 0, 0, 0, 0, 8, 0, 0])] }
     s.vTurn = true ∧ (s.fetch .v).2.bind (·.bundle) = some (tAlone .halt) ∧ s.core.v.stretch = some 0 ∧ (s.desc 0).late = false ∧
       s.core.v.drain = false ∧ s.core.v.halted = false) ∧
    (let s := vecTask.setV { vecTask.core.v with blocked := true, held := [(0x300, [0, 0, 0x80, 2, 0, 0, 0, 0, 0, 0, 0, 0, 0, 8, 0, 0])] }
     s.vTurn = true ∧ s.core.v.blocked = true ∧ s.core.v.stretch = none ∧ (s.fetch .v).2.bind (·.bundle) = some (tAlone .halt)) :=
  ⟨by decide +kernel, ⟨by decide +kernel, takes_some (by decide +kernel)⟩, by decide +kernel, by decide +kernel⟩

/-- A drained V with nothing asked of its cut; and a machine with a rebinding asked of symbol 1 alone. -/
theorem test_wit_cut :
    (let s := vecTask.setV { vecTask.core.v with drain := true, drained := 300 }
     s.core.v.drain = true ∧ s.vMoves = true ∧ s.core.v.flight = [] ∧ CutIdle s.atBoundary) ∧
    (let s := task.setSym 1 { Sym.unused with lo := 2, hi := 9, bind := 4, src := 3, mon := { Mon.zero with req := some (9, false) } }
     (s.part s.myPart).repMode = 0 ∧ s.core.csr.trapen.getLsbD 1 = false ∧ (s.sym 1).mon.req = some (9, false) ∧ 9 ≠ (s.sym 1).bind ∧
       (∀ j : BitVec 3, 1 < j → (s.sym j).mon.req = none)) := by
  unfold CutIdle; decide +kernel

/-- A sample within the bound of every symbol of its source, and one beyond it, with its trap off. -/
theorem test_wit_samples :
    symboled.stepOn = true ∧ (3 : BitVec 4) ≠ 0 ∧
    (∀ i, (symboled.sym i).src = 3 → symboled.sampleTicks (9 + symboled.injected 3) symboled.core.ctx.live ≤ (symboled.sym i).hi.toNat) ∧
    (∀ j, (symboled.sym j).src = 3 ↔ j = 1) ∧ (symboled.sym 1).hi.toNat < symboled.sampleTicks (10 + symboled.injected 3) symboled.core.ctx.live ∧
    symboled.core.csr.trapen.getLsbD 0 = false := by decide +kernel

/-! ### Memory from outside, lines and pages, engines, near-bank units -/

/-- A store of two bytes waits; the host and a port reach the page's last bytes; and an address that no region has. -/
theorem test_wit_outside_writes :
    (let s := task.setC { task.core.c with store := some ⟨0x17e, [1, 2], 0⟩ }
     s.Inv ∧ s.core.c.store = some ⟨0x17e, [1, 2], 0⟩ ∧ Unpoisoned s 0x17e 2) ∧
    (Reaches task 0xfffe 2 ∧ Unpoisoned task 0xfffe 2 ∧ Plain task ∧ NoRowStep task) ∧ task.hostSees 0x00c000000000 = false := by
  unfold State.Inv Unpoisoned Reaches Plain NoRowStep; decide +kernel

/-- Reads of HBM4E's last bytes, of a poisoned line and of a guard row; requests of another package, new and repeated. -/
theorem test_wit_outside_reads :
    (Plain task ∧ ∀ i < 2, task.hostSees (0x00bffffffffe + i) = true ∧ task.inFlip (0x00bffffffffe + i) = false ∧
      task.homeOff (0x00bffffffffe + i) = false ∧ task.guardRow (0x00bffffffffe + i) = false) ∧
    (let s := task.setMem { task.mem with poison := [1] }
     Plain s ∧ (∀ i < 2, s.hostSees (0x7f + i) = true ∧ s.inFlip (0x7f + i) = false ∧ s.homeOff (0x7f + i) = false ∧ s.guardRow (0x7f + i) = false) ∧
       ∃ i < 2, s.poisoned (0x7f + i) = true) ∧
    (let s := { task with pkg := { task.pkg with rows := [⟨0, 0, true, true, 0⟩] } }
     Plain s ∧ (∀ i < 2, s.hostSees (0x3effff + i) = true ∧ s.inFlip (0x3effff + i) = false ∧ s.homeOff (0x3effff + i) = false) ∧
       ∃ i < 2, s.guardRow (0x3effff + i) = true) ∧
    (let s := { task with pkg := { task.pkg with domEn := true, answered := [⟨3, 8, [1], 0, 0⟩] } }
     s.pkg.domEn = true ∧ s.Inv ∧ Plain s ∧ s.vcStopped 1 0x80 = false ∧ (∀ a ∈ s.pkg.answered, a.pkg = 3 → a.tag ≠ 9) ∧
       (∀ i < 2, s.region (0x80 + i) = .hbm ∧ s.guardRow (0x80 + i) = false ∧ s.inFlip (0x80 + i) = false ∧ s.poisoned (0x80 + i) = false ∧
         s.homeOff (0x80 + i) = false ∧ s.leased (0x80 + i) = false ∧ s.hostBias (0x80 + i) = false ∧
         s.writeWaits (lineOf (s.norm (0x80 + i))) = false) ∧
       (s.pkg.answered.find? fun a => a.pkg == 3 && a.tag == 8) = some ⟨3, 8, [1], 0, 0⟩ ∧ s.region (4 * 2 ^ 40) ≠ .hbm) := by
  unfold State.Inv Plain; decide +kernel

/-- A host write to a watched line that the L2 holds fires the watch, and the line leaves the L2 (R297, R321). -/
theorem test_host_write_fires_watch :
    (let s := { (task.setC { task.core.c with watch := .armed 1 }) with mem := { task.mem with l2 := [⟨1, none, true, none⟩] } }
     let t := s.unitStore [(0x80, 5)]
     t.core.c.watch = .fired 1 ∧ t.mem.l2 = [] ∧ t.rd8 0x80 = 5) := by
  decide +kernel

/-- A dirty line that a watch is armed on, with no owner; pages in each bias, and one in a flip. -/
theorem test_wit_lines_and_pages :
    (let s := { (task.setC { task.core.c with watch := .armed 40000 }) with mem := { task.mem with l2 := [⟨40000, none, true, none⟩] } }
     (s.mem.l2.find? fun y => y.line == 40000) = some ⟨40000, none, true, none⟩ ∧ s.ownerOf (40000 * 128) = none ∧ s.core.c.watch = .armed 40000) ∧
    (let s := { task with mem := { task.mem with hostBias := [7], flips := [(9, true, 0)] } }
     (∀ f ∈ s.mem.flips, f.1 ≠ 7) ∧ 7 ∈ s.mem.hostBias ∧ 8 ∉ s.mem.hostBias ∧ (∀ f ∈ s.mem.flips, f.1 ≠ 8) ∧ s.nbNames 8 = false ∧
       s.core.c.store = none ∧ s.core.eng.copy = [] ∧ (∀ w ∈ s.core.nb.writes, w.pa / 65536 ≠ 8) ∧ (s.mem.flips.find? fun f => f.1 == 9) = some (9, true, 0)) ∧
    (let s := task.setNb { task.core.nb with cmds := [{ nbQueued with row := 0x80000, planes := Vector.replicate 4 1 }] }
     (∀ f ∈ s.mem.flips, f.1 ≠ 8) ∧ 8 ∉ s.mem.hostBias ∧ s.nbNames 8 = true) ∧
    task.tstamp < task.pkg.clearAt ∧ (let s := { task with time := 33 * 32000000 }; s.pkg.clearAt ≤ s.tstamp) := by
  decide +kernel

/-- The physical addresses that an access has. -/
def reachesAt : Access (List Nat) → Option (List Nat) | .ok l => some l | _ => none
theorem reachesAt_ok {x : Access (List Nat)} {l : List Nat} (h : reachesAt x = some l) : x = .ok l := by cases x <;> simp_all [reachesAt]

/-- The engine's only command. -/
def engineWith (c : Cmd) : State := scratch.setEng { scratch.core.eng with copy := [c], seq := 1 }
/-- cp.mp and cp.pm of one byte, a copy of none, a pub and an ecw. -/
def cpMp : Cmd := commandOf .mp 0 0x80 0x18000 1 true false false 0 0
def cpPm : Cmd := commandOf .pm 0 0x2ffff 0xffff 1 false false false 0 0
def cpNone : Cmd := commandOf .mm 0 0x80 0x90 0 true false false 0 0
def pubCmd : Cmd := commandOf .pub 0 0 0 0 true false false 0 0
def ecwCmd : Cmd := { commandOf .ecw 0 0x88 0 0 false false false 0 0 with val := 5 }

theorem test_wit_engines_move :
    ((engineWith cpNone).engPick .copy = some 0 ∧ ((engineWith cpNone).cmds .copy)[0]? = some cpNone ∧ cpNone.len = 0 ∧ cpNone.fault = none) ∧
    (LastElement (engineWith cpMp) .copy 0 cpMp ∧ cpMp.kind = .mp ∧ (engineWith cpMp).poolHeld .copy = false ∧
      (let s := engineWith cpMp
       let w := (s.setCmds .copy ((s.cmds .copy).set 0 { cpMp with started := true })).fillTlb s.core.ctx.part s.core.ctx.vf (cpMp.a + BitVec.ofNat 64 cpMp.pos)
       w.vaBytes w.whoT (cpMp.a + BitVec.ofNat 64 cpMp.pos) 1 .rd false 1 = .ok [0x80])) ∧
    (LastElement (engineWith cpPm) .copy 0 cpPm ∧ cpPm.kind = .pm ∧ (engineWith cpPm).poolBad (poolOff cpPm.a + cpPm.pos) 1 = none ∧
      (let s := engineWith cpPm
       let x := (s.setCmds .copy ((s.cmds .copy).set 0 { cpPm with started := true })).fillTlb s.core.ctx.part s.core.ctx.vf (cpPm.b + BitVec.ofNat 64 cpPm.pos)
       x.vaBytes x.whoT (cpPm.b + BitVec.ofNat 64 cpPm.pos) 1 .wr (!cpPm.done && !cpPm.defer) 1 = .ok [0xffff] ∧ x.shadowFits 0xffff = true)) := by
  unfold LastElement
  exact ⟨by decide +kernel, ⟨by decide +kernel, by decide +kernel, by decide +kernel, reachesAt_ok (by decide +kernel)⟩,
    by decide +kernel, by decide +kernel, by decide +kernel, reachesAt_ok (by decide +kernel), by decide +kernel⟩

theorem test_wit_engines_publish :
    (let c := { cpPm with written := true }
     (engineWith c).core.eng.nextPublish = some c ∧ ((engineWith c).mayPublish fun d => d.seq == c.seq) = true ∧
       (∀ d ∈ (engineWith c).core.eng.copy, d.seq = c.seq → (engineWith c).cmdDue d = true) ∧
      (let x := { c with extra := 5 }
       (engineWith x).core.eng.nextPublish = some x ∧ ((engineWith x).mayPublish fun d => d.seq == x.seq) = true ∧
         ∃ d ∈ (engineWith x).core.eng.copy, d.seq = x.seq ∧ (engineWith x).cmdDue d = false)) ∧
    ((engineWith pubCmd).core.eng.barrierHead = some pubCmd ∧ (∀ d ∈ (engineWith pubCmd).core.eng.copy, pubCmd.endsWith d = true → (engineWith pubCmd).cmdDue d = true) ∧
      ((engineWith pubCmd).mayPublish fun d => decide (d.seq < pubCmd.seq) && d.toMem) = true ∧ pubCmd.kind = .pub) ∧
    ((engineWith ecwCmd).core.eng.barrierHead = some ecwCmd ∧ (∀ d ∈ (engineWith ecwCmd).core.eng.copy, ecwCmd.endsWith d = true → (engineWith ecwCmd).cmdDue d = true) ∧
      ((engineWith ecwCmd).mayPublish fun d => decide (d.seq < ecwCmd.seq) && d.toMem) = true ∧ ecwCmd.kind = .ecw ∧ ecwCmd.fault = none ∧ (engineWith ecwCmd).core.eng.copy = [ecwCmd] ∧
      (engineWith ecwCmd).core.eng.gather = [] ∧
      (let s := engineWith ecwCmd
       let r := (s.publishCmds fun d => decide (d.seq < ecwCmd.seq) && d.toMem).reap
       let u := r.fillTlb r.core.ctx.part r.core.ctx.vf ecwCmd.a
       u.vaBytes u.whoT ecwCmd.a 8 .wr false 1 = .ok ((List.range 8).map (0x88 + ·)))) ∧
    (let c := { cpMp with written := true }
     (((engineWith c).cmds .copy).find? fun d => (engineWith c).mayLeave d && d.done) = some c ∧ (engineWith c).core.q.ecq.length < 16) :=
  ⟨by decide +kernel, by decide +kernel,
    ⟨by decide +kernel, by decide +kernel, by decide +kernel, by decide +kernel, by decide +kernel, by decide +kernel, by decide +kernel,
      reachesAt_ok (by decide +kernel)⟩, by decide +kernel⟩

/-- What a migrate entry's translation comes to. -/
def migOf : MigResult → Nat | .lands => 0 | .drops => 1 | .flips p => 4 + p | .waits => 3 | _ => 2
theorem migOf_lands {x : MigResult} (h : migOf x = 0) : x = .lands := by cases x <;> simp_all [migOf]
theorem migOf_drops {x : MigResult} (h : migOf x = 1) : x = .drops := by cases x <;> simp [migOf] at h ⊢; omega
theorem migOf_flips {x : MigResult} {p : Nat} (h : migOf x = 4 + p) : x = .flips p := by cases x <;> simp only [migOf] at h <;> first | omega | (congr; omega)
theorem migOf_waits {x : MigResult} (h : migOf x = 3) : x = .waits := by cases x <;> simp [migOf] at h ⊢; omega

/-- Entry 7 of the table names a page that is mapped, past its deadline; entry 0 one whose address is not canonical; and a window of bank 0 is open. -/
theorem test_wit_migrations :
    let s := { task with core := { task.core with mig := { task.core.mig with
      table := ((Vector.replicate 8 none).set 7 (some (⟨0x40, 5, none⟩ : MigEntry))).set 0 (some ⟨1#64 <<< 60, 5, none⟩) } } }
    vget s.core.mig.table 7 none = some ⟨0x40, 5, none⟩ ∧ s.migLook 0x40 = .lands ∧ vget s.core.mig.table 0 none = some ⟨1#64 <<< 60, 5, none⟩ ∧
      s.migLook (1#64 <<< 60) = .drops ∧ s.Quiet ∧ s.core.csr.str = false ∧ s.pkg.droop = none ∧ refreshStart 0 s.tstamp ≤ s.tstamp :=
  ⟨by decide +kernel, migOf_lands (by decide +kernel), by decide +kernel, migOf_drops (by decide +kernel), by unfold State.Quiet; decide +kernel,
    by decide +kernel, by decide +kernel, by decide +kernel⟩

/-- The page that a migrate entry names is in host bias, and in a flip. -/
theorem test_wit_migrations_flip :
    let s := { task with core := { task.core with
      mmu := ⟨[⟨0, 0, 0, 16, 0x7f⟩], []⟩
      mig := { task.core.mig with table := (Vector.replicate 8 none).set 7 (some (⟨0x40, 5, none⟩ : MigEntry)) } } }
    (vget s.core.mig.table 7 none = some ⟨0x40, 5, none⟩ ∧ (⟨0x40, 5, none⟩ : MigEntry).fault = none) ∧
    (s.setMem { s.mem with hostBias := [0] }).migLook 0x40 = .flips 0 ∧ (s.setMem { s.mem with flips := [(0, false, 0)] }).migLook 0x40 = .waits :=
  ⟨by decide +kernel, migOf_flips (by decide +kernel), migOf_waits (by decide +kernel)⟩

/-- A command not sent; one suspended; one at its first row; one at its program's end with its entry's place free; and a granule's write. -/
theorem test_wit_near_bank_units :
    (nearWaiting.core.nb.cmds = nbQueued :: [] ∧ nbQueued.sent = false ∧ nearWaiting.nbOff nbQueued = false) ∧
    (let c := { nbQueued with sent := true, running := true, suspended := true }
     let s := task.setNb { task.core.nb with cmds := [c] }
     s.nbCmd 0 = some c ∧ s.nbMayResume c = true) ∧
    (let c := { nbQueued with sent := true, running := true }
     let s := task.setNb { task.core.nb with cmds := [c] }
     s.nbCmd 0 = some c ∧ s.nbActive 0 c = true ∧ c.suspended = false ∧ c.fault = none ∧ c.gone = false ∧ c.prog[c.step]? = some 5 ∧ s.mem.poison = [] ∧
       s.nbOff c = false ∧ Plain s) ∧
    (let c := { nbQueued with sent := true, running := true, step := 1 }
     let s := withQ (task.setNb { task.core.nb with cmds := [c] }) fun q => { q with ecq := List.replicate 15 0 }
     s.nbActive 0 c = true ∧ c.gone = false ∧ s.nbDue c = true ∧ c.prog.length ≤ c.step ∧ c.told = false ∧ c.done = true ∧
       s.core.q.ecq.length < 16) ∧
    (let c := { nbQueued with sent := true, running := true, step := 1, extra := 5 }
     let s := task.setNb { task.core.nb with cmds := [c] }
     s.nbCmd 0 = some c ∧ s.nbActive 0 c = true ∧ s.nbDue c = false ∧ c.prog.length ≤ c.step ∧ c.fin = none) ∧
    (let s := task.setNb { task.core.nb with writes := [⟨0x80, [1, 2], false⟩] }
     s.Inv ∧ Plain s ∧ s.core.nb.writes ≠ [] ∧ ∀ g ∈ s.core.nb.writes, s.writeHeld [g.pa] = false) := by
  unfold State.Inv Plain; decide +kernel

/-! ### Distribution, steps, faults answered, worlds switched -/

/-- A block of one step at 0x8000: C's PC 0x100, V's PC 0x300, one tile in one dimension (R275 to R277). -/
def blockCells : List Host.Cell := [(0x8001, 1), (0x8011, 3), (0x8020, 1), (0x80c3, 1)]
/-- The block as its ring's entry brings it. -/
def block : Block :=
  { addr := 0x8000, queue := 63, head := 0, bytes := [], pred := 0, tw := some 0, ready := 0, assigned := false, lo := 0, hi := 1, next := 0, others := true,
    failed := false, group0 := 0, group1 := 0, check := none, guarded := false, excBad := false, excPost := false, exc := Vector.replicate 12 0,
    mates := true, alone := true, sole := true, cores := [], ended := none }
/-- Partition 0 is enabled, with queue 63 and its ring at 0x4000, the core's site among its sites. -/
def partOn (s : State) (blocks : List Block) : State :=
  s.setPart 0 { s.part 0 with en := true, sites := 1, queues := [(63, ⟨0x4000, true, 0, 0, 0, 0⟩)], blocks := blocks }
/-- The core with no step. -/
def free_ : State := partOn (task.setCtx { task.core.ctx with running := none }) []

/-- A submission with room in its ring, and an entry at HEAD. -/
theorem test_wit_rings :
    (let s := withQ free_ fun q => { q with sub := [(0x8000, 63)] }
     s.ring s.myPart s.core.ctx.vf ((s.part s.myPart).queue 63) = some (0x4000, 0x4040, 0, 0) ∧ 0 - 0 < ringSize ((s.part s.myPart).queue 63).logsz ∧
       s.ctxPa s.myPart s.core.ctx.vf (((s.part s.myPart).queue 63).entry 0) = some 0x4080 ∧ s.inFlip 0x4040 = false ∧
       s.taskHeld (span 0x4080 8 ++ span 0x4000 8) = false ∧
      (let f := s.setMem { s.mem with leases := [⟨129, 512, false⟩] }
       f.ring f.myPart f.core.ctx.vf ((f.part f.myPart).queue 63) = some (0x4000, 0x4040, 0, 0) ∧ f.inFlip 0x4040 = false ∧
         f.taskHeld (span 0x4080 8 ++ span 0x4000 8) = true)) ∧
    (let s := { free_ with mem := { free_.mem with cells := [(0x4081, 0x80)] } }
     s.taken 0 63 = some (0x4080, 0x4040, 0x8000, 0) ∧ (BitVec.ofNat 64 0x8000 : Word64).toNat % 256 = 0 ∧
       (let u := (s.orderLines 6 true [0x4080, 0x4040]).unitWrite (cellsAt 0x4080 (leBytes 8 0) ++ cellsAt 0x4040 (leBytes 8 1))
        u.xlate ⟨0, (s.part 0).vfOf 63, true⟩ (BitVec.ofNat 64 0x8000) .rd = .ok 0x8000 ∧
        u.xlate ⟨0, (s.part 0).vfOf 63, true⟩ (BitVec.ofNat 64 0x8000 + 0xc4) .rd = .ok 0x80c4)) ∧
    (let s := partOn task [block]
     block.assigned = false ∧ block.failed = false ∧
       s.xlate ⟨0, (s.part 0).vfOf block.queue, true⟩ (block.addr + 0xc4) .rd = .ok 0x80c4 ∧ s.inFlip 0x80c4 = false) := by decide +kernel

/-- A refused block's AUX and TVAL. -/
def badBlock : Block × Receipt → Option (Block × Nat × BitVec 8) | (b, .bad a c) => some (b, a, c) | _ => none
theorem badBlock_eq {x : Block × Receipt} {b : Block} {a : Nat} {c : BitVec 8} (h : badBlock x = some (b, a, c)) : x = (b, .bad a c) := by
  obtain ⟨d, r⟩ := x
  cases r <;> simp_all [badBlock]
/-- A block found good. -/
def goodBlock : Block × Receipt → Option Block | (b, .good) => some b | _ => none
theorem goodBlock_eq {x : Block × Receipt} {b : Block} (h : goodBlock x = some b) : x = (b, .good) := by
  obtain ⟨c, r⟩ := x
  cases r <;> simp_all [goodBlock]

/-- The block with the bytes that its check reads. -/
def checked : Block := { block with bytes := (List.range 256).map fun i => cellGet blockCells (0x8000 + i) }

/-- A machine with that block ready, its bytes in memory or not. -/
def ready_ (cells : List Host.Cell) : State := { partOn task [block] with mem := { task.mem with cells := cells } }
/-- The same with the partition's one site on die 1. -/
def readyAfar : State := (ready_ blockCells).setPart 0 { (ready_ blockCells).part 0 with sites := 1#68 <<< 17 }

/-- A block given to this die, one given to another, and one that its check refuses (its bytes are all zero). -/
theorem test_wit_block_assign :
    (let s := ready_ blockCells
     (s.part 0).en = true ∧ s.hasRoom 0 = true ∧ (s.part 0).choose (s.part 0).ptrDie s.tstamp (s.part 0).assignable = some block ∧
       s.dieFor 0 = some s.pkg.die.toNat ∧ (s.setPart 0 { s.part 0 with ptrDie := block.queue }).receipt 0 block = (checked, .good) ∧
       checked.gang = false ∧ checked.excRec = 0 ∧ (s.setPart 0 { s.part 0 with ptrDie := block.queue }).receivers 0 checked ≠ []) ∧
    (let s := readyAfar
     (s.part 0).en = true ∧ s.hasRoom 0 = true ∧ (s.part 0).choose (s.part 0).ptrDie s.tstamp (s.part 0).assignable = some block ∧
       s.dieFor 0 = some 1 ∧ 1 ≠ s.pkg.die.toNat) ∧
    (let s := ready_ []
     (s.part 0).en = true ∧ s.hasRoom 0 = true ∧ (s.part 0).choose (s.part 0).ptrDie s.tstamp (s.part 0).assignable = some block ∧
       s.dieFor 0 = some s.pkg.die.toNat ∧ ∃ c aux cause, (s.setPart 0 { s.part 0 with ptrDie := block.queue }).receipt 0 block = (c, .bad aux cause)) := by
  refine ⟨⟨by decide +kernel, by decide +kernel, by decide +kernel, by decide +kernel, goodBlock_eq (by decide +kernel), by decide +kernel,
    by decide +kernel⟩, by decide +kernel, by decide +kernel, by decide +kernel, by decide +kernel, by decide +kernel, ?_⟩
  have h : (badBlock (((ready_ []).setPart 0 { (ready_ []).part 0 with ptrDie := block.queue }).receipt 0 block)).isSome = true := by decide +kernel
  obtain ⟨⟨c, aux, cause⟩, hx⟩ := Option.isSome_iff_exists.mp h
  exact ⟨c, aux, cause, badBlock_eq hx⟩

/-- A complete block assigned here, as its bytes say with no successor and DONEADDR 0x88; and one that has failed. -/
def done : Block := { checked with assigned := true, next := 1, bytes := checked.bytes.set 0xd8 0x88 }

theorem test_wit_block_complete :
    (let s := partOn task [done]
     (allParts.findSome? fun q => (s.complete q done.addr).map fun d => (q, d)) = some (0, done) ∧ done.failed = false ∧ done.gang = false ∧
       done.nsucc = 0 ∧ done.doneAddr ≠ 0 ∧ s.diePa 0 ((s.part 0).vfOf done.queue) done.doneAddr .wr = some 0x88 ∧
       s.completeHeld 0 done = false) ∧
    (let s := partOn task [{ done with failed := true, others := false }]
     (allParts.findSome? fun q => (s.complete q done.addr).map fun d => (q, d)) = some (0, { done with failed := true, others := false })) := by
  decide +kernel

/-- A prologue that makes its slot runnable. -/
def readied : Except ProStop ShadowSlot → Option ShadowSlot | .ok l => some l | _ => none
theorem readied_eq {x : Except ProStop ShadowSlot} {l : ShadowSlot} (h : readied x = some l) : x = .ok l := by cases x <;> simp_all [readied]

/-- A launched step in a slot, its record filled: 0x18000 for each pool boundary (R19). -/
def launched : ShadowSlot :=
  { id := ⟨0, 0, false, false, none, 0⟩, cast := { CastOn.zero with pcs := #v[0x100, 0, 0x300, 0], pb := Vector.replicate 3 0x18000, slip := 0x8888 }, part := 0, vf := 0,
    binds := [], copies := [], table := [], demand := 0, filled := true, stage := .staging }
/-- The core free, with a slot. -/
def slotted (l : ShadowSlot) : State := free_.setCtx { free_.core.ctx with slots := [l] }

theorem test_wit_step_place :
    (slotted launched).stagingSlot = some (0, launched) ∧
      ((slotted launched).owe launched.part launched.id.queue).prologue launched = .ok { launched with stage := .runnable } :=
  ⟨by decide +kernel, readied_eq (by decide +kernel)⟩

/-- A block assigned here with one step to place, its template's pool boundaries at 0x9060. -/
def assigned : Block := { checked with assigned := true, bytes := checked.bytes.set 0xb1 0x90 }
/-- The core free, with that block. -/
def placing : State :=
  let s := partOn free_ [assigned]
  { s with mem := { s.mem with cells := [(0x9038, 0x88), (0x9039, 0x88), (0x9061, 0x80), (0x9062, 1), (0x9065, 0x80), (0x9066, 1), (0x9069, 0x80), (0x906a, 1)] } }

theorem test_wit_step_fill :
    placing.stagingSlot = none ∧ placing.mayFill = some 0 ∧ (placing.part 0).repMode = 0 ∧
    (placing.candidates 0).find? (·.guarded) = none ∧
    (placing.part 0).choose (placing.part 0).ptrCl placing.tstamp (placing.candidates 0) = some assigned ∧
    placing.savedOf 0 assigned.mine = none ∧ placing.backOf 0 assigned.mine = none ∧
    assigned.gang = false ∧
    ∃ l l', (placing.fillSlot 0).stagingSlot = some (0, l) ∧ ((placing.fillSlot 0).owe l.part l.id.queue).prologue l = .ok l' := by
  refine ⟨by decide +kernel, by decide +kernel, by decide +kernel, by decide +kernel, by decide +kernel, by decide +kernel, by decide +kernel,
    by decide +kernel, placedStep placing 0 assigned assigned.next, ?_⟩
  have h : (readied (((placing.fillSlot 0).owe 0 (some assigned.queue)).prologue (placedStep placing 0 assigned assigned.next))).isSome = true := by
    decide +kernel
  obtain ⟨l', hl⟩ := Option.isSome_iff_exists.mp h
  exact ⟨l', by decide +kernel, readied_eq hl⟩

/-- A gang of one step, given to no core of the cluster yet, and to this one. -/
def gangBlock (cores : List (BitVec 3)) : Block := { assigned with bytes := assigned.bytes.set 0xd4 2, cores := cores }
theorem test_wit_gang_fill :
    ∀ cores ∈ [[], [0]], let b := gangBlock cores
      let s := { partOn free_ [b] with mem := placing.mem }
      (s.part 0).repMode = 0 ∧ (s.candidates 0).find? (·.guarded) = none ∧
        (s.part 0).choose (s.part 0).ptrCl s.tstamp (s.candidates 0) = some b ∧ s.savedOf 0 b.mine = none ∧ s.backOf 0 b.mine = none ∧
        b.gang = true ∧ b.fits = decide (cores ≠ []) := by decide +kernel

/-- The context that the running step leaves when it freezes. -/
def frozen : List Saved := match exec .freeze task with | .next t => (t.part 0).saved | _ => []

/-- The next step to start: runnable, refused, and restored from its saved context. -/
theorem test_wit_step_start :
    (let l := { launched with stage := .runnable }
     (slotted l).coreFree = true ∧ (slotted l).nextStart = some l ∧ l.stage = .runnable ∧ l.table = [] ∧ l.copies = []) ∧
    (let l := { launched with stage := .refused 0x60 }
     (slotted l).coreFree = true ∧ (slotted l).nextStart = some l ∧ l.stage = .refused 0x60) ∧
    (let l := { launched with id := ⟨0x1000, 0, true, false, some 0, 0⟩, stage := .restored }
     let s := (slotted l).setPart 0 { (slotted l).part 0 with saved := frozen }
     (s.coreFree = true ∧ s.nextStart = some l ∧ l.stage = .restored) ∧ ∃ z, ((s.part l.part).saved.find? fun z => z.ctx.running == some l.id && z.vf == l.vf) = some z) :=
  ⟨by decide +kernel, by decide +kernel, by decide +kernel, Option.isSome_iff_exists.mp (by decide +kernel)⟩

/-- A step with every strand at its end: nothing left in a queue, and a token left in one; a step that may be stopped at a cut, frozen or abandoned. -/
def atEnd : State :=
  { task with core := { task.core with
    c := { task.core.c with run := .ended }, l := { task.core.l with ended := true }, v := { task.core.v with halted := true },
    s := { task.core.s with ended := true } } }

theorem test_wit_steps_end :
    (atEnd.Quiet ∧ atEnd.stepOn = true ∧ atEnd.bindOffReady = true ∧ atEnd.endHeld = false ∧ atEnd.core.eng.copy = [] ∧ atEnd.residue = false) ∧
    (let s := (atEnd.setNb { atEnd.core.nb with lines := [1] }).setMem { atEnd.mem with leases := [⟨1, 512, false⟩] }
     s.Quiet ∧ s.stepOn = true ∧ s.bindOffReady = true ∧ s.endHeld = true) ∧
    (let s := withQ atEnd fun q => { q with qbr := [0] }
     s.bindOffReady = true ∧ s.endHeld = false ∧ s.core.eng.copy = [] ∧ s.residue = true) ∧
    (task.Quiet ∧ task.stepOn = true ∧ task.core.trap.wait = none ∧ task.core.ctx.leave = none ∧ UnitsIdle task ∧ task.core.c.store = none ∧
      task.core.l.pend = [] ∧ task.core.s.pend = [] ∧ (∀ xd limit, task.core.c.run ≠ .mwait xd limit) ∧ (∃ id cast, task.core.ctx.running = some id ∧ task.core.ctx.cast = some cast ∧ id.rst = true ∧ id.gang = false ∧ id.abandons < 7)) ∧
    (let s := task.setCtx { task.core.ctx with running := some ⟨0x1000, 0, false, false, some 0, 0⟩ }
     s.Quiet ∧ s.stepOn = true ∧ UnitsIdle s ∧ s.core.c.store = none ∧ s.core.ctx.running = some ⟨0x1000, 0, false, false, some 0, 0⟩) ∧
    (let b := { assigned with tw := some 0 }
     let s := { partOn task [b] with time := 33 * 2792000 }
     let id : StepId := ⟨0x1000, 0, true, false, some 0, 0⟩
     s.core.ctx.running = some id ∧ s.myPart = 0 ∧ id.gang = false ∧ s.core.ctx.leave = none ∧ s.sup = false ∧ (∀ k ∈ (s.part 0).blocks, k.guarded = false) ∧
       s.core.ctx.slots.length < 2 ∧ ((s.candidates 0).find? fun b => !b.mine id &&
         decide (b.tw.getD s.tstamp + (7 - ((s.part 0).queue b.queue).prio.toNat) * 256000 + 1000000 ≤ s.tstamp)) = some b) := by
  unfold State.Quiet UnitsIdle
  exact ⟨by decide +kernel, by decide +kernel, by decide +kernel,
    ⟨by decide +kernel, by decide +kernel, by decide +kernel, by decide +kernel, by decide +kernel, by decide +kernel, by decide +kernel, by decide +kernel,
      fun _ _ h => CRun.noConfusion h, _, _, rfl, rfl, rfl, rfl, by decide +kernel⟩,
    by decide +kernel, by decide +kernel⟩

/-- A record of partition 0 awaits its answer, and the core its fault's, frozen, past TMO. -/
def awaiting : FaultRec := { plainRec 0x06 0x5000 0 0 with await := true, seq := 9 }
theorem test_wit_answers :
    ∀ frozen ∈ [true, false], let w : FreezeWait := ⟨0x06, .c, 0x100, 0x5000, 0, some 9, frozen, false⟩
    let s := { (task.setTrap { task.core.trap with wait := some w }).setPart 0 { task.part 0 with await := [awaiting] } with time := 33 * 100000000 }
    ((s.part 0).await.find? fun x => x.seq == 9) = some awaiting ∧ awaiting.seq = 9 ∧ s.core.trap.wait = some w ∧ w.seq = some 9 ∧ s.myPart = 0 ∧
      w.frozen = frozen ∧ awaiting.type ≠ 0x34 ∧ awaiting.stamp.toNat + (s.part 0).tmo.toNat * 1000000 ≤ s.tstamp ∧ s.hostWaits = false ∧
      { s with waits := [.event (.hostWrite 0x80 [1])] }.hostWaits = true ∧ s.core.ctx.cast.isSome = true ∧
      s.core.ctx.running = some ⟨0x1000, 0, true, false, some 0, 0⟩ ∧
      (s.setCtx { s.core.ctx with running := some ⟨0x1000, 0, false, false, some 0, 0⟩ }).hostWaits = false := by decide +kernel

/-- A slot whose prologue's read awaits that answer, of a step that may run again and of one that may not. -/
theorem test_wit_prologue_answers :
    ∀ l ∈ [{ launched with stage := .answer 9 1 }, { launched with stage := .answer 9 1, id := ⟨0x1000, 0, true, false, some 0, 6⟩ }],
      let s := (slotted l).setPart 0 { (slotted l).part 0 with await := [awaiting] }
      ((s.part 0).await.find? fun x => x.seq == 9) = some awaiting ∧ s.core.trap.wait = none ∧ s.slotAwaits 0 9 = some (0, l, 1) ∧
        s.hostWaits = false := by decide +kernel

/-- A quantum that ends with no other function to run, with one that has a ready block, a switch 20 microseconds old, and one that may restore. -/
theorem test_wit_worlds :
    (let s := { partOn task [] with time := 33 * 1000000 }
     (s.part 0).en = true ∧ (s.part 0).switch_ = none ∧ (s.part 0).quantEnd ≤ s.tstamp ∧ s.nextVf 0 = none) ∧
    (let x := (partOn task [block]).part 0
     let x := { x.setVf 1 { x.vf 1 with qmask := 1#64 <<< 63 } with vfen := 3 }
     let s := { (partOn task []).setPart 0 x with time := 33 * 1000000 }
     (s.part 0).en = true ∧ (s.part 0).switch_ = none ∧ (s.part 0).quantEnd ≤ s.tstamp ∧ s.nextVf 0 = some 1 ∧ s.stepOn = true ∧ s.myPart = 0 ∧
       s.core.ctx.leave = none) ∧
    (let s := { (partOn task []).setPart 0 { (partOn task []).part 0 with switch_ := some (1, 1, 5) } with time := 33 * 20005 }
     (s.part 0).switch_ = some (1, 1, 5) ∧ 5 + 20000 ≤ s.tstamp ∧ s.stepOn = true ∧ s.myPart = 0) ∧
    (let s := free_.setPart 0 { free_.part 0 with switch_ := some (1, 2, 5) }
     (s.part 0).switch_ = some (1, 2, 5) ∧ s.mayRestore 0 = true) ∧
    (free_.sitePart = some 0 ∧ (free_.part 0).repMode ≠ 1 ∧ (free_.part 0).resident = 0 ∧ (free_.part 0).resident ≠ 1) := by decide +kernel

/-! ### The package and the fabric -/

/-- No near-bank command runs. -/
def noneRuns (s : State) : Bool :=
  s.nbAccepted.all fun c => !c.running
/-- A unit of a free core that waits at no trap is idle, whichever unit it is, while no near-bank command runs. -/
theorem idle_of (s : State) (u : Nat) (h : s.stepOn = false) (g : s.core.trap.noStep = .no) (r : noneRuns s = true) : s.unitIdle u = true := by
  have hb : s.nbBusy u = false := by
    unfold State.nbBusy
    rw [List.any_eq_false]
    intro c hc
    have := List.all_eq_true.mp r c hc
    simp only [Bool.not_eq_true', Bool.and_eq_true] at this ⊢
    simp [this]
  simp [State.unitIdle, h, g, hb]

/-- A unit with a staged byte and a staged image, on a free core. -/
def stagedUnit : State :=
  let s := free_.setCfgUnit { free_.cfgUnit 0x2003 with staged := [(4, 1)], waiting := some (2, 7, 0) }
  s.setPkg { s.pkg with staged := [⟨0x2003, 1, []⟩] }

/-- A controller that runs and one that is held in reset; a stage entry of 256 bytes to a unit with none staged, no bytes, another core's number; a
unit with staged bytes, whose plane has some CRC; a unit that waits at its idle point, with an image and none, and for 10 ms. -/
theorem test_wit_config :
    (task.inReset Config.cfgController = false ∧ stagedUnit.inReset Config.cfgController = false) ∧
    ({ task with pkg := { task.pkg with bootFail := [Config.cfgController] } }.inReset Config.cfgController = true) ∧
    (∃ x ∈ stagedUnit.pkg.units, x.unit / 4096 = (2 : BitVec 4).toNat ∧ stagedUnit.unitStaged x = true ∧ (stagedUnit.pkg.units.map (·.unit)).Nodup ∧
      ∃ crc, Config.crc32c (stagedUnit.stagedPlane x) ≠ crc) ∧
    ((stagedUnit.cfgUnit 0x2003).waiting = some (2, 7, 0) ∧ stagedUnit.unitIdle 0x2003 = true ∧
      (stagedUnit.pkg.staged.find? fun j => j.unit == 0x2003) = some ⟨0x2003, 1, []⟩) ∧
    ((0x2003 : Nat) % 4096 ≠ 0xfff ∧ List.replicate 256 (1 : Byte) ≠ [] ∧ (List.replicate 256 (1 : Byte)).length ≤ 256 ∧
      keysRise 0 (task.cfgUnit 0x2003).staged = true) ∧ 5 ≠ task.corenum.toNat ∧
    (let x : CfgUnit := { task.cfgUnit 0x2003 with staged := [(4, 1)], waiting := some (2, 7, 0) }
     let s := { task.setCfgUnit x with time := 33 * 10000000 }
     (s.cfgUnit 0x2003).waiting = some (2, 7, 0) ∧ 0 + 10000000 ≤ s.tstamp) ∧ stagedUnit.tstamp < 0 + 10000000 ∧
    (let x : CfgUnit := { free_.cfgUnit 0x2003 with waiting := some (2, 7, 0) }
     ((free_.setCfgUnit x).cfgUnit 0x2003).waiting = some (2, 7, 0) ∧ (free_.setCfgUnit x).unitIdle 0x2003 = true) :=
  ⟨⟨rfl, rfl⟩, by simp [State.inReset], ⟨stagedUnit.cfgUnit 0x2003, by decide +kernel, by decide +kernel, by decide +kernel, by decide +kernel,
      Config.crc32c (stagedUnit.stagedPlane (stagedUnit.cfgUnit 0x2003)) + 1, by bv_omega⟩,
    ⟨by decide +kernel, idle_of _ _ (by decide +kernel) (by decide +kernel) (by decide +kernel), by decide +kernel⟩,
    by decide +kernel, by decide +kernel, by decide +kernel, by decide +kernel, by decide +kernel,
    idle_of _ _ (by decide +kernel) (by decide +kernel) (by decide +kernel)⟩

/-- Patches of a free core and of a running one, drained and repaired sites, an image of a lower version, and a page moved within its row group. Whether a
signature passes is a free value (log 15, DESIGN CHOICE): one of the two clauses about an image is met at every value. -/
theorem test_wit_service :
    (free_.stepOn = false ∧ task.stepOn = true) ∧
    ((1, 2) ∉ task.pkg.drained ∧ ((1 : BitVec 2), (2 : BitVec 5)) ≠ (task.pkg.die, task.pkg.site) ∧ (0, 0) = (task.pkg.die, task.pkg.site) ∧
      (0, 0) ∉ task.pkg.drained ∧ task.core.ctx.leave = none ∧ (∀ s : State, s.pkg.bootFail = [] → s.inReset Config.cfgController = false)) ∧
    (let s := { free_ with pkg := { free_.pkg with drained := [(0, 0), (1, 2)] } }
     (1, 2) ∈ s.pkg.drained ∧ (0, 0) ∈ s.pkg.drained ∧ s.pkg.spareUsed.getLsbD 0 = false ∧ s.pkg.spareUsed.getLsbD 1 = false ∧ s.stepOn = false) ∧
    (∀ image sig, Config.sigOk image sig = true ∨ Config.sigOk image sig = false) ∧
    0 < { task with pkg := { task.pkg with images := [⟨7, 1, []⟩] } }.installed 7 ∧
    (task.Inv ∧ 1 < 2 ^ 27 ∧ 2 < 2 ^ 27 ∧ 0x2400 < 2 ^ 43 ∧ 0x2400 % 8 = 0 ∧ 0x2400 / 65536 ≠ 2 ∧ task.region (1 * 65536) = .hbm ∧
      task.region (2 * 65536) = .hbm ∧ task.ownerOf (1 * 65536) = task.ownerOf (2 * 65536) ∧ task.core.c.store = none ∧ task.core.eng.copy = [] ∧
      task.core.nb.writes = [] ∧ task.nbNames 1 = false ∧
      (task.setNb { task.core.nb with cmds := [{ nbQueued with row := 0x10000, planes := Vector.replicate 4 1 }] }).nbNames 1 = true) := by
  unfold State.Inv
  exact ⟨by decide +kernel, ⟨by decide +kernel, by decide +kernel, by decide +kernel, by decide +kernel, by decide +kernel,
    fun s h => by simp [State.inReset, h]⟩, by decide +kernel, fun i g => by cases Config.sigOk i g <;> simp, by decide +kernel, by decide +kernel⟩

/-- The attestation session, request by request. -/
theorem test_wit_attestation :
    (task.pkg.spdm.version = false ∧ task.pkg.spdm.caps = false ∧ task.pkg.spdm.algs = false) ∧
    (let s := { task with pkg := { task.pkg with spdm := ⟨true, true, true, []⟩, measure := [(7, [1])] } }
     s.pkg.spdm.version = true ∧ s.pkg.spdm.caps = true ∧ s.pkg.spdm.algs = true ∧ 0 < s.pkg.measure.length ∧ 0 + 1 ≠ 0xff) := by decide +kernel

/-- A step of a queue and a launched one, for an estimate; permit windows; a droop's phases; a powered lane group. An estimate is a free value (log 14,
DESIGN CHOICE): below the caps the clause that raises the count is met at every value, and the clause that lowers it by some cap wherever the estimate is
above 1. -/
theorem test_wit_power :
    (task.stepOn = true ∧ task.myPart = 0 ∧ task.pkg.owed = [] ∧ (∃ id, task.core.ctx.running = some id ∧ id.queue = some 0) ∧
      task.tstamp < task.pkg.estAt ∧ (let s := { task with time := 33 * 1000 }; s.pkg.estAt ≤ s.tstamp)) ∧
    (let s := { task with core := { task.core with ctx := { task.core.ctx with running := none } }, pkg := { task.pkg with owed := [(0, some 5)] } }
     s.stepOn = false ∧ s.sitePart = none ∧ s.pkg.owed = [(0, some 5)]) ∧
    ((partOn task []).chargeable 0 63 = false ∧ (partOn task [{ block with assigned := true }]).chargeable 0 63 = true) ∧
    (let s := task.setCtx { task.core.ctx with running := some ⟨0, 0, false, false, none, 0⟩ }
     s.stepOn = true ∧ s.myPart = 0 ∧ ∃ id, s.core.ctx.running = some id ∧ id.queue = none) ∧
    (let s := (partOn task []).setPkg { (partOn task []).pkg with pkgCap := Config.watts 8 task.free }
     (s.part 0).en = true ∧ Config.watts 8 s.free ≤ s.pkg.pkgCap ∧ (s.part 0).cap.toNat = 0 ∧ (s.part 0).permit.toNat ≤ 16 ∧
       (1 < Config.watts 0 s.free → (1 : Nat) ≠ 0 ∧ 1 < Config.watts 0 s.free)) ∧
    ((partOn task []).part 0).en = true ∧ task.core.csr.cycle.toNat % 16 = 0 ∧ (vecTask.setCsr { vecTask.core.csr with cycle := 15 }).core.csr.cycle.toNat % 16 ≠ 0 ∧
    (task.Quiet ∧ task.core.dbg.traceDr = false ∧ task.pkg.again = false ∧ task.core.csr.drLevel ≠ 0 ∧ task.pkg.droop = none) ∧
    (task.setCsr { task.core.csr with drLevel := 0 }).core.csr.drLevel = 0 ∧
    (∀ n ∈ [0, 7], { task with pkg := { task.pkg with droop := some n } }.pkg.droop = some n) ∧
    (let s := { task with core := { task.core with lanes := Vector.replicate 8 ⟨true, 4095, true⟩ } }
     (s.core.lanes.get 0).on = true ∧ (s.core.lanes.get 0).idle ≤ 4095) := by
  unfold State.Quiet
  refine ⟨⟨by decide +kernel, by decide +kernel, by decide +kernel, ⟨_, rfl, rfl⟩, by decide +kernel, by decide +kernel⟩, by decide +kernel,
    by decide +kernel, ⟨by decide +kernel, by decide +kernel, _, rfl, rfl⟩, ⟨by decide +kernel, Nat.le_refl _, by decide +kernel, by decide +kernel, fun h => ⟨by decide, h⟩⟩, ?_⟩
  decide +kernel

/-- A replayed arrival, an interrupt and a record of no type whose time has come, and records whose time has not. -/
theorem test_wit_replay :
    (let s := task.setPart 0 { task.part 0 with repMode := 2, repBase := 0x8000 }
     let s := { s with mem := { s.mem with cells := [(0x8000, 2), (0x8010, 0x80), (0x8018, 5)] } }
     allParts.find? s.replayDue = some 0 ∧ s.repNext 0 = (2, 0, 0, 0x80, 5)) ∧
    (∀ fn ∈ [(1 : Byte), 32], let s := task.setPart 0 { task.part 0 with repMode := 2, repBase := 0x8000 }
     let s := { s with mem := { s.mem with cells := [(0x8000, 3), (0x8010, fn), (0x8018, 2)] } }
     allParts.find? s.replayDue = some 0 ∧ s.repNext 0 = (3, 0, 0, fn.toNat, 2)) ∧
    (let s := task.setPart 0 { task.part 0 with repMode := 2, repBase := 0x8000 }
     allParts.find? s.replayDue = some 0 ∧ (s.repNext 0).1 = 0) ∧
    (∀ type ∈ [(1 : Byte), 3], let s := task.setPart 0 { task.part 0 with repMode := 2, repBase := 0x8000 }
     let s := { s with mem := { s.mem with cells := [(0x8000, type), (0x8008, 9)] } }
     ∀ p : BitVec 3, (s.part p).repMode = 2 → (1 ≤ (s.repNext p).1 ∧ (s.repNext p).1 ≤ 3 ∧ s.tstamp < (s.repNext p).2.2.1)) := by
  decide +kernel

/-- Links that are up, failing, retraining, alone and not alone; requests with and without an earlier try. -/
theorem test_wit_links :
    (let s := { task with pkg := { task.pkg with links := task.pkg.links.set 17 ⟨.up, true, 8, 0⟩, portUp := 0,
                                                  fabs := [⟨5, 3, 1, false, 7, 5, [task.pkg.pkgId], false⟩] } }
     (linkOf s 17).state = .up ∧ 8 ≤ (linkOf s 17).fails ∧ (linkOf s 3).state = .retraining ∧ NoQueues s ∧
       s.inReset (Config.cfgPort 3) = false ∧ (∀ q < 18, q ≠ 3 → s.pkg.portUp.getLsbD q = false) ∧
       (∀ f ∈ s.pkg.fabs, s.pkg.pkgId ∈ f.who) ∧ (4 : BitVec 3).toNat < 5 ∧ (∀ r ∈ s.pkg.reqs, r.tag ≠ s.pkg.tag) ∧ 6 ≠ s.pkg.tag) ∧
    (∀ at_ ∈ [0, 1], let s := { task with pkg := { task.pkg with reqs := [⟨task.pkg.tag, 1, at_⟩] }, time := 33 * 20000 }
     (s.pkg.reqs.find? fun r => r.tag == s.pkg.tag) = some ⟨s.pkg.tag, 1, at_⟩ ∧ (at_ + 20000 ≤ s.tstamp ↔ at_ = 0)) := by
  unfold NoQueues
  exact ⟨⟨by decide +kernel, by decide +kernel, by decide +kernel, by decide +kernel, rfl, by decide +kernel⟩, by decide +kernel⟩

/-- A contribution of this core's that has been sent, one of another's, and the core in supervisor mode. -/
theorem test_wit_reductions :
    (let s := { task with pkg := { task.pkg with red := [⟨0x80, 0x80, .add, 0, 0, 1, 0, true⟩, ⟨0x84, 0, .min, 3, 0, 0, 0, false⟩] } }
     s.pkg.red[0]? = some ⟨0x80, 0x80, .add, 0, 0, 1, 0, true⟩ ∧ s.pkg.red[1]? = some ⟨0x84, 0, .min, 3, 0, 0, 0, false⟩ ∧ Plain s ∧
       s.inFlip 0x80 = false ∧ s.leased 0x80 = false ∧ Unpoisoned s 0x80 (fmtSize (0 : BitVec 4).toNat) ∧ s.Inv) ∧
    (let s := { handler with pkg := { handler.pkg with red := [⟨0x80, 0x80, .add, 0, 0, 1, 0, true⟩] } }
     s.pkg.red[0]? = some ⟨0x80, 0x80, .add, 0, 0, 1, 0, true⟩ ∧ s.sup = true ∧ NoQueues s) := by
  unfold Plain State.Inv NoQueues Unpoisoned; decide +kernel

/-- Fabric groups with no members, with one left and with two left to arrive, this package's own arrival sent again and stopped; a failed group with a core
asleep at it; a completion that is due; planes up, all down, one up. -/
theorem test_wit_fabric :
    ((task.fab 5).fail = false ∧ (task.fab 5).members = 0 ∧ task.fabStopped 2 5 = false ∧ 2 ∉ (task.fab 5).who ∧ 2 ≠ task.pkg.pkgId ∧
      (task.fab 5).due = false) ∧
    (let s := task.setFab ⟨5, 2, 1, false, 7, 5, [1], false⟩
     s.fabStopped 2 5 = false ∧ (s.fab 5).fail = false ∧ 2 ∉ (s.fab 5).who ∧ (s.fab 5).members ≠ 0 ∧ (s.fab 5).count + 1 = (s.fab 5).members) ∧
    (let s := task.setFab ⟨5, 3, 1, false, 7, 5, [1], true⟩
     s.fabStopped 2 5 = false ∧ (s.fab 5).members ≠ 0 ∧ (s.fab 5).count + 1 ≠ (s.fab 5).members ∧ 1 ∈ (s.fab 5).who ∧ (s.fab 5).due = true) ∧
    (let s := { task with pkg := { task.pkg with links := task.pkg.links.set 5 ⟨.up, false, 0, 8⟩ } }
     s.fabStopped s.pkg.pkgId 5 = true) ∧
    (let s := (windowed.setFab ⟨5, 2, 1, true, 7, 5, [1], false⟩).setC { windowed.core.c with run := .bar (.bar 3) }
     (s.fab 5).fail = true ∧ Asleep3 s 5 ∧ s.asyncNow = true ∧ NoQueues s) ∧
    (let s := fun (up : BitVec 18) => { task with pkg := { task.pkg with domEn := true, portUp := up } }
     (s 0x20).planeUp ((s 0x20).fab 5).plane = true ∧
     ((s 0).planeUp ((s 0).fab 5).plane = false ∧ (∀ n ∈ (s 0).planes, ((s 0).link n).stop.getLsbD 4 = false) ∧ ∀ n < 18, (s 0).planeUp n = false) ∧
     ((s 0x200).planeUp ((s 0x200).fab 5).plane = false ∧ (∀ n ∈ (s 0x200).planes, ((s 0x200).link n).stop.getLsbD 4 = false) ∧ 9 < 18 ∧
       9 ≠ (5 : BitVec 12).toNat % 18 ∧ (∀ m < 18, (s 0x200).planeUp m = true ↔ m = 9))) := by
  unfold Asleep3 NoQueues; decide +kernel

theorem test_wit_ethernet : task.pkg.eth.getLsbD (7 : BitVec 3).toNat = true ∧ NoQueues task := by
  unfold NoQueues; decide +kernel

/-! ### The debugger -/

/-- A copy in memory's bytes of a bundle at 0x300 with the cut bit, and one at 0x310 without it. -/
def bundled : State := { task with mem := { task.mem with cells := [(0x30f, 0x80)] } }

theorem test_wit_debugger_runs :
    (bundled.ctxPa 0 0 0x300 = some 0x300 ∧ (0x300 : Word64).toNat % 16 = 0 ∧ (bundled.rd8 (0x300 + 15)).getLsbD 7 = true) ∧
    (bundled.ctxPa 0 0 0x310 = some 0x310 ∧ (bundled.rd8 (0x310 + 15)).getLsbD 7 = false) ∧
    (bundled.ctxPa 0 0 0x308 = some 0x308 ∧ (0x308 : Word64).toNat % 16 ≠ 0) ∧
    ((task.ctxBytes 0 0 0x8000 128).isSome = true ∧ task.core.ctx.slots.length < 2 ∧ task.siteDrained = false) ∧
    (let s := slotted launched
     let s := s.setCtx { s.core.ctx with slots := [launched, launched] }
     (s.ctxBytes 0 0 0x8000 128).isSome = true ∧ 2 ≤ s.core.ctx.slots.length) ∧
    (task.setDbg { task.core.dbg with stopped := true }).core.dbg.stopped = true ∧
    (let c := { cpPm with started := true, written := true }
     let s := (engineWith c).setDbg { task.core.dbg with stopped := true }
     s.core.dbg.stopped = true ∧ s.core.eng.copy = [c] ∧ s.core.eng.gather = [] ∧ s.core.eng.nextPublish = some c ∧ c.started = true ∧ c.done = false ∧
       c.extra = 0 ∧ (s.mayPublish fun d => d.seq == c.seq) = true) ∧
    (let s := { task with core := { task.core with dbg := { task.core.dbg with smpMask := 0xf }, units := Vector.replicate 4 32 } }
     s.stepOn = true ∧ (∀ k ∈ [Strand.c, .l, .s], s.core.dbg.smpMask.getLsbD (strandCode k).toNat = true) ∧ s.core.dbg.marker = none ∧
       s.smpSoon = false) := by
  decide +kernel

/-- A table whose leaf maps address 0x10000 to page 3; nothing maps 0x30000. -/
def mapped : State :=
  let s := task.setPart 0 ((task.part 0).setVf 0 { (task.part 0).vf 0 with ptbase := 0x40000 })
  s.mapLeaf 0 0 0x10000 0x30000 16 permRw

theorem test_wit_debugger_maps :
    (mapped.leafNow 0 0 0x30000 = none ∧ (0x30000 : Word64).toNat % 65536 = 0 ∧ 0x50000 % 65536 = 0 ∧ mapped.region 0x50000 = .hbm ∧
      0x50000 < 2 ^ 51 ∧ mapped.ownsAll 0 0x50000 65536 = true ∧ mapped.Inv) ∧
    (mapped.sectionFits 0 (0x30000, 0x50000, 1, [1, 2]) = true ∧ mapped.sectionFits 0 (0x30000, 0x50000, 3, [1, 2]) = false ∧
      mapped.sectionFits 0 (0x30000, 0x50080, 1, []) = false) ∧
    (mapped.leafNow 0 0 0x10000).isSome = true ∧
    (let u := mapped.mapSection 0 0 0x30000 0x50000 (permOf 1) 2
     ((u.leafNow 0 0 (0x30000 + 0)).map (·.1)) = some 16 ∧ u.leafNow 0 0 (0x30000 + 1) = u.leafNow 0 0 (0x30000 + 0)) ∧
    (let x := (mapped.part 0).setVf 0 { (mapped.part 0).vf 0 with qmask := 1#64 <<< 63 }
     let s := mapped.setPart 0 { x with queues := [(63, ⟨0x4000, true, 0, 0, 0, 0⟩)] }
     (s.part 0).mayUse 0 63 = true ∧ (s.append 0 0 ((s.part 0).queue 63) 0x10000).isSome = true ∧
      (let f := { s with mem := { s.mem with cells := [(0x4000, 64)] } }
       (f.append 0 0 ((f.part 0).queue 63) 0x10000).isNone = true)) ∧
    (task.Inv ∧ Plain task ∧ NoRowStep task ∧ task.ctxPa 0 0 0 = some 0 ∧ Reaches task 0 8 ∧ Unpoisoned task 0 8) ∧
    (∀ i < 3, task.ctxPa 0 0 ((0 : Word64) + BitVec.ofNat 64 i) = some (0 + i)) := by
  unfold State.Inv Plain NoRowStep Reaches Unpoisoned; decide +kernel

/-- The core's site runs partition 0, whose function 0 is resident and function 1 is not. -/
theorem test_wit_counters :
    (partOn task []).sitePart = some 0 ∧ ((partOn task []).part 0).resident = 0 ∧ ((partOn task []).part 0).resident ≠ 1 := by decide +kernel

/-! ### Steps, decoding, memory, registers -/

/-- addi at 0x100, yaddi at 0x200, halt at 0x300 and vst at 0x400, and the strand whose turn it is. -/
def stored (r : Rota) : State :=
  { task.memWrite (cellsAt 0x100 (leBytes 4 0x20500100) ++ cellsAt 0x200 (leBytes 8 0x0843300000000010) ++
      cellsAt 0x300 (leBytes 16 0x00000800000000000000000002800000) ++ cellsAt 0x400 (leBytes 8 0x6281a00000000000)) none false false with turn := r }
/-- The turn has passed from that strand, which has looked. -/
def turned (r : Rota) (k : Strand) : State := (stored r).nextTurn.1.looks k
/-- A turn of the agenda for a strand of a core that chxdbg has stopped. -/
def asked (k : Strand) : State := { (stored .units).setDbg { task.core.dbg with stopped := true } with agenda := [.issue k] }
/-- The units of the four strands. -/
def strandUnits : List (Strand × Instr) :=
  [(.c, .addi 5 0 256), (.l, .yaddi .l pushNext 0 3 3 16), (.v, .halt), (.s, .vst ⟨true, false, true, false⟩ 0 3 2 0 0 0 0 0)]

/-- A step that reaches the unit at its strand's PC. -/
theorem test_wit_step_turns :
    Issues (stored .c) (turned .c .c) .c ∧ Issues (stored .l) (turned .l .l) .l ∧ Issues (stored .v) (turned .v .v) .v ∧
      Issues (stored .s) (turned .s .s) .s := by
  have turn : ∀ r k, ((stored r).nextTurn).2 = .strand k →
      ∃ b0, (stored r).nextTurn = (b0, .strand k) ∧ turned r k = b0.looks k := fun r k h => ⟨(stored r).nextTurn.1, Prod.ext rfl h, rfl⟩
  refine ⟨⟨by decide +kernel, .inr ⟨turn _ _ (by decide +kernel), by decide +kernel, ?_⟩⟩,
    ⟨by decide +kernel, .inr ⟨turn _ _ (by decide +kernel), by decide +kernel, ?_⟩⟩,
    ⟨by decide +kernel, .inr ⟨turn _ _ (by decide +kernel), by decide +kernel, ?_⟩⟩,
    ⟨by decide +kernel, .inr ⟨turn _ _ (by decide +kernel), by decide +kernel, ?_⟩⟩⟩
  · exact ⟨by decide +kernel, by decide +kernel, by decide +kernel, by decide +kernel, by decide +kernel⟩
  · exact ⟨by decide +kernel, by decide +kernel, by decide +kernel, fun r rest h => nomatch h⟩
  · exact ⟨by decide +kernel, by decide +kernel, by decide +kernel, by decide +kernel, by decide +kernel, by decide +kernel⟩
  · exact ⟨by decide +kernel, by decide +kernel, by decide +kernel, fun r rest h => nomatch h⟩

/-- A turn of the agenda, with the core stopped. -/
theorem test_wit_step_asked (k : Strand) : Issues (asked k) { asked k with agenda := [] } k := by
  cases k <;> exact ⟨by decide +kernel, .inl ⟨[], rfl, rfl, by decide +kernel⟩⟩

/-- An address translated. -/
def goesTo : Except XFail Nat → Option Nat | .ok a => some a | _ => none
theorem goesTo_ok {x : Except XFail Nat} {a : Nat} (h : goesTo x = some a) : x = .ok a := by cases x <;> simp_all [goesTo]
/-- A unit decoded. -/
def decoded : Except Reject Instr → Option Instr | .ok i => some i | _ => none
theorem decoded_ok {x : Except Reject Instr} {i : Instr} (h : decoded x = some i) : x = .ok i := by cases x <;> simp_all [decoded]

/-- Each strand's unit is had from memory, and from what the strand holds. -/
theorem test_wit_step_fetches :
    ∀ e ∈ [(Strand.c, 0x100, Instr.addi 5 0 256), (.l, 0x200, .yaddi .l pushNext 0 3 3 16), (.v, 0x300, .halt),
        (.s, 0x400, .vst ⟨true, false, true, false⟩ 0 3 2 0 0 0 0 0)],
      let b := stored .units
      let u := b.fetchFill e.1 (b.pcOf e.1)
      let bytes := u.rdBytes e.2.1 (unitBytes e.1)
      let h := b.setHeld e.1 [(b.pcOf e.1, bytes)]
      (b.heldOf e.1).find? (fun h => h.1 == b.pcOf e.1) = none ∧ goesTo (u.xlate (u.fetchWho e.1) (b.pcOf e.1) .ex) = some e.2.1 ∧
        u.waitsAt true e.2.1 = false ∧ decoded (decode (unitOf e.1 bytes)) = some e.2.2 ∧
        (h.heldOf e.1).find? (fun x => x.1 == h.pcOf e.1) = some (h.pcOf e.1, bytes) := by
  decide +kernel

/-- Why an access fails, as a number, and its TVAL where the failure has one. -/
def failsBy : Except XFail Nat → Nat × Nat
  | .error .prot => (1, 0) | .error (.guard r) => (2, r) | .error (.poison p) => (3, p) | .error .remote => (4, 0) | .error .noTrans => (5, 0) | _ => (0, 0)

/-- Accesses that are misaligned, not permitted, in a guard row, at poison, lost on their way, and without a translation. -/
theorem test_wit_failing_accesses :
    (task.sup = false ∧ task.core.trap.wait = none ∧ ∀ e ∈ accessWords 7 5 6 0 0, task.cReady e.2.2.2.2.1 e.2.2.2.2.2 = true) ∧
    (∀ e ∈ accessWords 7 5 6 0 1, task.cReady e.2.2.2.2.1 e.2.2.2.2.2 = true) ∧ (∀ e ∈ accessWords 7 5 6 0 0, 2 ≤ e.2.1 → 1 % e.2.1 ≠ 0) ∧
    (let s := { task with core := { task.core with mmu := ⟨[⟨0, 0, 0, 16, 0x3⟩], []⟩ } }
     ∀ n ∈ [Need.rd, .wr, .rdwr], failsBy ((s.cEvent 0).xlate (s.cEvent 0).whoC 0 n) = (1, 0)) ∧
    (let s := { task with core := { task.core with mmu := ⟨[⟨0, 0, 0, 30, 0x3f⟩], []⟩ }, pkg := { task.pkg with rows := [⟨0, 0, true, true, 0⟩] } }
     ∀ n ∈ [Need.rd, .wr, .rdwr], (failsBy ((s.cEvent 0x3f0000).xlate (s.cEvent 0x3f0000).whoC 0x3f0000 n)).1 = 2) ∧
    (let s := task.setMem { task.mem with poison := [0] }
     ∀ n ∈ [Need.rd, .rdwr], failsBy ((s.cEvent 0x78).xlate (s.cEvent 0x78).whoC 0x78 n) = (3, 0x78)) ∧
    (∀ n ∈ [Need.rd, .wr, .rdwr], failsBy ((task.cEvent 0x10000).xlate (task.cEvent 0x10000).whoC 0x10000 n) = (5, 0) ∧
      (task.cEvent 0x10000).forwards 0x06 = false ∧ (task.cEvent 0x10000).forwards 0x07 = false) := by
  decide +kernel

/-- An access that another package does not answer, to its HBM4E (R412). -/
theorem test_wit_remote_access :
    ∀ lost ∈ [(true, []), (false, [⟨task.pkg.tag, 2, 0⟩])],
    let s := { task with core := { task.core with mmu := ⟨[⟨0, 0, 0, 16, 0x808000000003f⟩], []⟩ }, remoteBad := lost.1,
                         pkg := { task.pkg with domEn := true, portUp := 2, reqs := lost.2 } }
    s.stepOn = true ∧ s.core.dbg.stopped = false ∧ ∀ n ∈ [Need.rd, .wr, .rdwr], failsBy ((s.cEvent 0).xlate (s.cEvent 0).whoC 0 n) = (4, 0) := by
  decide +kernel

/-- Memory in its canonical form, a step that answers, and a step that enters supervisor mode by a C word; ports empty and full. -/
theorem test_wit_steps_and_modes :
    (task.Inv ∧ ∃ t, step task = .next t) ∧
    (encode (.trap 3) = some (.c 0xfc000003) ∧ task.sup = false ∧ ∃ t, exec (.trap 3) task = .next t ∧ t.sup = true) ∧
    (28 ∈ [(28 : XReg), 5] ∧ task.core.q.qvc = [] ∧ task.core.q.ecq = [] ∧ 16 ≤ (withQ task fun q => { q with qcl := List.replicate 16 0 }).core.q.qcl.length ∧
      32 ≤ (withQ task fun q => { q with qbr := List.replicate 32 0 }).core.q.qbr.length) ∧
    (∃ t, exec (.add 5 6 7) task = .next t) ∧ (∃ t, exec (.jal 4) task = .next t) := by
  unfold State.Inv
  exact ⟨⟨by decide +kernel, _, rfl⟩, ⟨by decide +kernel, by decide +kernel, _, rfl, by decide +kernel⟩, by decide +kernel, ⟨_, rfl⟩, ⟨_, rfl⟩⟩

/-- Units of each shape that are well formed and encode. -/
theorem test_wit_encodings :
    ((Instr.beq 5 6 (-2)).wf = true ∧ (encode (.beq 5 6 (-2))).isSome = true) ∧ ((Instr.lend .l quietTok 3).wf = true ∧ (encode (.lend .l quietTok 3)).isSome = true) ∧
    (Instr.halt.wf = true ∧ (encode .halt).isSome = true) ∧ decoded (decode (.c 0x02531c00)) = some (.add 5 6 7) ∧
    (0x1fffffff : Word32).extractLsb' 25 7 = 0x0f := by decide +kernel

/-- An i32 operation of one element that lands, and a number that f32 holds. -/
theorem test_wit_vector_results :
    (let f : Flight := { landing with op := .ab .a ⟨.vadd, 23, 1, 2, 0, 1⟩, shape := { landing.shape with fmt := 5 } }
     (23 : OpCode).toNat < 24 ∧ f.op = .ab .a ⟨.vadd, 23, 1, 2, 0, 1⟩ ∧ f.shape.f ∈ [3, 4, 5, 6] ∧ 0 < f.shape.elems) ∧
    (0x3f800000 < 2 ^ f32.w ∧ f32 ∈ [f32, bf16, f16]) := by decide +kernel

/-! ### Single steps and definitions on the spec's own worked examples -/

/-- The machine after an instruction. -/
def did (i : Instr) (s : State) : State := Out.orElse (exec i s) s

/-- The examples of R97, and its corners: division by zero and the most negative number by −1. -/
theorem test_division_examples :
    let s := withX task [(5, -7), (6, 2), (7, 0xfffffffffffffff9), (8, 0x8000000000000000), (9, -1)]
    (did (.div 10 5 6) s).xRead 10 = -3 ∧ (did (.rem 10 5 6) s).xRead 10 = -1 ∧ (did (.divn 10 7 6) s).xRead 10 = 0x7ffffffffffffffc ∧
    (did (.remn 10 7 6) s).xRead 10 = 1 ∧ (did (.div 10 8 9) s).xRead 10 = 0x8000000000000000 ∧ (did (.rem 10 8 9) s).xRead 10 = 0 ∧
    (did (.rem 10 5 0) s).xRead 10 = -7 := by decide +kernel

/-- The example after R17: `add x24, x28, x28` pops one entry and pushes its double. -/
theorem test_add_through_ports :
    let s := withQ task fun q => { q with qvc := [21, 9] }
    (did (.add 24 28 28) s).core.q.qvc = [9] ∧ (did (.add 24 28 28) s).core.q.qcl = [42] := by decide +kernel

/-- The example of R200: bank 5's window at three values of TSTAMP. -/
theorem test_refresh_windows :
    ∀ e ∈ [(1234567, (1237000 : Word64)), (1237100, 1237000), (1237192, 1253000)],
      (did (.wrfRd 5 6) { withX task [(6, 5)] with time := 33 * e.1 }).xRead 5 = e.2 := by decide +kernel

/-- The example of R395: with P = 12 the cycles 0, 4, 8 and 12 of a window hold no permit, and 40 cycles are 30 ticks (R244). -/
theorem test_twelve_permits :
    (∀ j < 16, capPermit 12 j = decide (j % 4 ≠ 0)) ∧ (task.setCsr { task.core.csr with permit := 12, cycle := 40 }).sampleTicks 40 40 = 30 := by decide +kernel

/-- The example of R155: a 3×3 kernel of stride 2 and padding 1 over a 7×7×2 image. -/
theorem test_window_pattern :
    let d := { Desc.zero with count := #v[2, 7, 7, 1], stride := #v[1, 2, 14, 98], win := 0x04924933, ctl := 0x1003 }
    d.oh = 4 ∧ d.ow = 4 ∧ d.mRows = 16 ∧ d.kCols = 18 := by decide +kernel

/-- The example of R147: PB0 = 0x1_9000 gives a capacity of 4 KiB. -/
theorem test_capacity : (task.setCsr { task.core.csr with pb := #v[0x19000, 0x30000, 0x30000] }).vcap = 4096 := by decide +kernel

/-- The examples of R169 and R224: element 37 holds −77, in bit 2 of the bytes 16·(7 − p) + 5; with 5 planes it reads −76. -/
theorem test_planes :
    (let img := planeSet (List.replicate 128 0) 37 0xb3 8
     ([5, 21, 37, 53, 69, 85, 101, 117].map fun i => (img.getD i 0).toNat) = [4, 0, 4, 4, 0, 0, 4, 4] ∧ planeElem img 37 8 = 0xb3) ∧
    reconstruct (-77) 5 = -76 ∧ reconstruct (-80) 8 = -80 := by decide +kernel

/-- The example of R174: weights 3 and −2, the planes' −10 and 5, a column sum of 1: d = −316. -/
theorem test_integer_pass :
    let p := { Plane.zero with w := [(0, 3), (128, 0xfe)], csum := [(0, 1)] }
    let a : ActRow := ⟨fun i => if i = 0 then -10 else if i = 1 then 5 else 0, fun _ => 0, 5, none⟩
    (intPass p false a 0 0 0).1 = BitVec.ofInt 48 (-316) := by decide +kernel

/-- The examples of R214: i8 100 · −3 saturates to −128 and wraps to 0xd4; bf16 3 · 3 + 1 is 10. -/
theorem test_vector_arithmetic :
    (let get := fun (c : OpCode) (_ _ : Nat) => if c = 1 then 100 else 0xfd
     let x := fun (m : BitVec 2) => abElem ⟨.vmul, 3, 1, 2, 0, m⟩ { rlog := 0, clog := 0, fmt := 5, cap := 4 } (0, 0) get 0
     (x 1).bits = 0x80 ∧ (x 0).bits = 0xd4) ∧
    (abElem ⟨.vfma, 4, 1, 1, 2, 0⟩ { rlog := 0, clog := 0, fmt := 1, cap := 4 } (0, 0) (fun c _ _ => if c = 1 then 0x4040 else 0x3f80) 0).bits = 0x4120 := by
  decide +kernel

/-- The example of `vimm v4, 0.5`: its slot value. -/
theorem test_vimm_slot : (⟨.vimm, 4, 0x0f, 0x18, 0, 2⟩ : ABSlot).enc = 0x508fc02 := by decide +kernel

/-- The example of R206: a vadd issued at tick 50 lands at 55, or at 61 with 32 × 32 elements of f32. -/
theorem test_vadd_landings :
    ∀ e ∈ [((3 : BitVec 4), (0 : BitVec 4), 55), (5, 0, 61), (5, 5, 55)],
      let s := task.setV { task.core.v with shape := { rlog := e.1, clog := 5, fmt := e.2.1, cap := 4 }, flight := [] }
      (s.startAB Bundle.bare .a ⟨.vadd, 3, 1, 2, 0, 0⟩ 50).core.v.flight.map (·.land) = [e.2.2] := by decide +kernel

/-- The example of R25: with tick 100 taken and LD bound at 4, bundles at (+0) and, after 101, at (+1+1*LD), issue at 101 and 107. -/
theorem test_issue_ticks :
    let s := fun (t : Nat) => (task.setSym 0 { Sym.unused with lo := 1, hi := 9, bind := 4, src := 1 }).setV { task.core.v with tPrev := t }
    (s 100).issueTick Bundle.bare = 101 ∧ (s 101).issueTick { Bundle.bare with c := 1, k := 1 } = 107 := by decide +kernel

/-- The table of R135's example: the predicates after each back-edge. -/
theorem test_rotation :
    rotateStages 0x03 4 2 = 0x07 ∧ rotateStages 0x07 3 2 = 0x0f ∧ (rotateStages 0x0f 2 2).extractLsb' 0 4 = 0x0d ∧
    (rotateStages 0x0d 1 2).extractLsb' 0 4 = 0x09 := by decide +kernel

/-- R66: the all-ones word raises cause 0x01 with no loop level active, and waits for none of its tokens. -/
theorem test_all_ones_word :
    let i := Instr.lsHint .l ⟨true, true, true, true⟩ 3 0xfffffffffffff
    encode i = some (.ls .l 0xffffffffffffffff) ∧ (did i task).core.trap.cause = 1 ∧ (did i task).core.trap.tval = 0xffffffffffffffff := by decide +kernel

/-- R243, R246: a block of s2 consumed 3 live cycles after its issue, with 10 injected, is a sample of 13 above the bound of 9. -/
theorem test_stream_sample :
    let s := (symboled.setDesc 2 { Desc.zero with came := 8 }).streamSample ⟨0, 2, 0, 5, 10⟩
    (s.sym 1).mon.win = [13] ∧ s.core.csr.boundx = 0x10002 := by decide +kernel

end Sys2Proof.Tests
end

section
/-! C's ports and registers in both modes (R14, R16, R17, R29): what a port reads, when a word with a port is ready, and what a retired word
leaves in C's registers and queues. -/

namespace Sys2Proof.Machine

/-! ### What a port reads, and when it holds its word -/

theorem isPort_iff {r : XReg} : isPort r = true ↔ 24 ≤ r.toNat ∧ r.toNat ≤ 29 := decide_eq_true_iff

theorem State.xRead_task_push {s : State} {r : XReg} (hs : s.sup = false) (hl : 24 ≤ r.toNat) (hh : r.toNat ≤ 27) : s.xRead r = 0 := by
  have h28 : r ≠ 28 := by rintro rfl; exact absurd hh (by decide)
  have h29 : r ≠ 29 := by rintro rfl; exact absurd hh (by decide)
  have hp : 24 ≤ r.toNat ∧ r.toNat ≤ 29 := ⟨hl, by omega⟩
  rw [State.xRead, if_pos hp, hs, cond_false, if_neg h28, if_neg h29, ite_self]

theorem State.xRead_task_qvc {s : State} (hs : s.sup = false) : s.xRead 28 = s.core.q.qvc.headD 0 := by
  simp [State.xRead, hs]

theorem State.xRead_task_ecq {s : State} (hs : s.sup = false) : s.xRead 29 = s.core.q.ecq.headD 0 := by
  simp [State.xRead, hs]

theorem State.cReady_sup {s : State} (hs : s.sup = true) (srcs : List XReg) (xd : XReg) : s.cReady srcs xd = true := by
  simp [State.cReady, State.xCanPop, State.xCanPush, hs]

theorem State.xCanPop_task_iff {s : State} (hs : s.sup = false) (srcs : List XReg) :
    s.xCanPop srcs = true ↔ (28 ∈ srcs → s.core.q.qvc ≠ []) ∧ (29 ∈ srcs → s.core.q.ecq ≠ []) := by
  simp [State.xCanPop, hs, ← imp_iff_not_or]

theorem State.xCanPush_task_iff {s : State} (hs : s.sup = false) (xd : XReg) :
    s.xCanPush xd = true ↔ (xd = 24 → s.core.q.qcl.length < 16) ∧ (xd = 25 → s.core.q.qcv.length < 16) ∧
      (xd = 26 → s.core.q.qcs.length < 16) ∧ (xd = 27 → s.core.q.qbr.length < 32) := by
  unfold State.xCanPush
  rw [hs, Bool.false_or]
  split
  · subst xd; simp
  · split
    · subst xd; simp
    · split
      · subst xd; simp
      · split
        · subst xd; simp
        · simp only [*, false_implies, and_self]

/-- A word is ready in task mode exactly when no source port is empty and its destination port has room (R17). -/
theorem State.cReady_task_iff {s : State} (hs : s.sup = false) (srcs : List XReg) (xd : XReg) :
    s.cReady srcs xd = true ↔ ((28 ∈ srcs → s.core.q.qvc ≠ []) ∧ (29 ∈ srcs → s.core.q.ecq ≠ [])) ∧
      (xd = 24 → s.core.q.qcl.length < 16) ∧ (xd = 25 → s.core.q.qcv.length < 16) ∧
      (xd = 26 → s.core.q.qcs.length < 16) ∧ (xd = 27 → s.core.q.qbr.length < 32) := by
  rw [State.cReady, Bool.and_eq_true, State.xCanPop_task_iff hs, State.xCanPush_task_iff hs]

/-- A port that is empty or full keeps its word from being ready (R17). -/
theorem State.not_cReady_of_port {s : State} (hs : s.sup = false) {srcs : List XReg} {xd : XReg}
    (h : (28 ∈ srcs ∧ s.core.q.qvc = []) ∨ (29 ∈ srcs ∧ s.core.q.ecq = []) ∨ (xd = 24 ∧ 16 ≤ s.core.q.qcl.length) ∨
      (xd = 25 ∧ 16 ≤ s.core.q.qcv.length) ∨ (xd = 26 ∧ 16 ≤ s.core.q.qcs.length) ∨ (xd = 27 ∧ 32 ≤ s.core.q.qbr.length)) :
    s.cReady srcs xd = false := by
  rw [← Bool.not_eq_true, State.cReady_task_iff hs]
  rintro ⟨⟨hqvc, hecq⟩, hqcl, hqcv, hqcs, hqbr⟩
  rcases h with ⟨hm, he⟩ | ⟨hm, he⟩ | ⟨hd, hf⟩ | ⟨hd, hf⟩ | ⟨hd, hf⟩ | ⟨hd, hf⟩
  · exact hqvc hm he
  · exact hecq hm he
  · exact absurd (hqcl hd) (by omega)
  · exact absurd (hqcv hd) (by omega)
  · exact absurd (hqcs hd) (by omega)
  · exact absurd (hqbr hd) (by omega)

theorem State.cExec_stalls {s : State} {srcs : List XReg} {xd : XReg} (v : Word64) (h : s.cReady srcs xd = false) :
    s.cExec srcs xd v = .next s.cStall := by
  rw [State.cExec, h, cond_false]

/-! ### What a retired word leaves in C's registers and queues -/

@[simp] theorem State.placedFor_q (s : State) (xd : XReg) : (s.placedFor xd).core.q = s.core.q := by
  unfold State.placedFor; rw [Bool.cond_eq_ite]; split <;> simp
@[simp] theorem State.placedFor_regs (s : State) (xd : XReg) : (s.placedFor xd).core.c.regs = s.core.c.regs := by
  unfold State.placedFor; rw [Bool.cond_eq_ite]; split <;> simp
theorem State.placedFor_of_sup {s : State} (hs : s.sup = true) (xd : XReg) : s.placedFor xd = s := by
  simp [State.placedFor, hs]

section
variable {s t : State} {srcs : List XReg} {xd : XReg} {v pc : Word64}

theorem Retired.q (h : Retired s t srcs xd v pc) : t.core.q = portsAfter s srcs xd v := by
  obtain ⟨-, -, hq⟩ := h
  rw [hq, portsAfter, portsAfter, State.placedFor_sup, State.placedFor_q]

theorem Retired.regs (h : Retired s t srcs xd v pc) :
    t.core.c.regs = if xd = 0 ∨ isPort xd = true then s.core.c.regs else s.core.c.regs.set xd.toNat v xd.isLt := by
  obtain ⟨-, hc, -⟩ := h
  rw [hc]
  simp only [State.placedFor_regs]

theorem Retired.regs_port (h : Retired s t srcs xd v pc) (hp : isPort xd = true) : t.core.c.regs = s.core.c.regs := by
  rw [h.regs, if_pos (.inr hp)]

theorem Retired.regs_of_not_port (h : Retired s t srcs xd v pc) (hp : isPort xd = false) :
    t.core.c.regs = if xd = 0 then s.core.c.regs else s.core.c.regs.set xd.toNat v xd.isLt := by
  simp only [h.regs, hp, Bool.false_eq_true, or_false]

end

theorem portsAfter_sup {s : State} (hs : s.sup = true) (srcs : List XReg) (xd : XReg) (v : Word64) : portsAfter s srcs xd v = s.core.q := by
  rw [portsAfter, hs, cond_true]

/-- The retirement of a word counts and goes on, and no register reads otherwise for it. -/
theorem State.cGo_xRead {s : State} (pc : Word64) (h : s.Quiet) (r : XReg) : (s.cGo pc).xRead r = s.xRead r := by
  obtain ⟨m, d, l, e⟩ := State.cGo_quiet pc h
  rw [e]
  rfl

theorem State.Quiet.xWrite {s : State} (h : s.Quiet) (xd : XReg) (v : Word64) : (s.xWrite xd v).Quiet := by
  rw [State.xWrite_eq]
  exact h

/-- In supervisor mode a word pops nothing and places no store: C's registers read as after the one write (R29). -/
theorem State.cRetire_xRead_sup {s : State} (h : s.Quiet) (hs : s.sup = true) (srcs : List XReg) (xd r : XReg) (v pc : Word64) :
    (s.cRetire srcs xd v pc).xRead r = (s.xWrite xd v).xRead r := by
  have hpop : s.xPop srcs = s := by rw [State.xPop, hs, cond_true]
  have e : s.cRetire srcs xd v pc = (((s.placedFor xd).xPop srcs).xWrite xd v).cGo pc := rfl
  rw [e, State.placedFor_of_sup hs, hpop, State.cGo_xRead pc (h.xWrite xd v)]

/-! ### add and jal -/

theorem exec_add (xd xa xb : XReg) (s : State) : exec (.add xd xa xb) s = s.cExec [xa, xb] xd (s.xRead xa + s.xRead xb) := rfl

theorem exec_jal (off : BitVec 25) (s : State) : exec (.jal off) s = .next (s.cRetire [] 30 s.pc4 (s.core.c.pc + sext off * 4)) := rfl

theorem exec_add_retired {s t : State} {xd xa xb : XReg} (h : s.Quiet) (hr : s.cReady [xa, xb] xd = true)
    (ht : exec (.add xd xa xb) s = .next t) : Retired s t [xa, xb] xd (s.xRead xa + s.xRead xb) s.pc4 := by
  rw [exec_add, State.cExec_ready _ hr] at ht
  obtain rfl := Host.Outcome.next.inj ht
  exact State.cRetire_retired _ _ _ _ h

theorem exec_jal_retired {s t : State} {off : BitVec 25} (h : s.Quiet) (ht : exec (.jal off) s = .next t) :
    Retired s t [] 30 s.pc4 (s.core.c.pc + sext off * 4) := by
  rw [exec_jal] at ht
  obtain rfl := Host.Outcome.next.inj ht
  exact State.cRetire_retired _ _ _ _ h

end Sys2Proof.Machine

open Sys2Proof Sys2Proof.Machine

/-- Settles O57: what each port reads is said by the mode; `add` either stalls at its ports or leaves what every retired word leaves (`Retired`), and
`jal` does so with x30 as its destination. -/
theorem registersAndPorts : Obligations.RegistersAndPorts := by
  intro xd xa xb s hq
  refine ⟨State.xRead_zero s, fun hs => ⟨fun r hl hh => State.xRead_task_push hs hl hh, State.xRead_task_qvc hs, State.xRead_task_ecq hs, ?_, ?_, ?_⟩,
    fun hs => ?_⟩
  · intro t hr ht v
    have hret := exec_add_retired hq hr ht
    rw [hret.q, portsAfter, hs, cond_false]
    refine ⟨rfl, rfl, rfl, rfl, rfl, rfl, rfl, rfl, fun hn => hret.regs_of_not_port ?_, fun hl hh => hret.regs_port (isPort_iff.mpr ⟨hl, hh⟩)⟩
    rw [← Bool.not_eq_true, isPort_iff]
    omega
  · intro hport
    rw [exec_add, State.cExec_stalls _ (State.not_cReady_of_port hs hport), State.cStall]
  · intro off t ht
    exact (exec_jal_retired hq ht).regs_of_not_port rfl
  · have hr := State.cReady_sup hs [xa, xb] xd
    have ht := (exec_add xd xa xb s).trans (State.cExec_ready _ hr)
    have hret := exec_add_retired hq hr ht
    refine ⟨_, ht, hret.q.trans (portsAfter_sup hs _ _ _), fun hl hh => ⟨hret.regs_port (isPort_iff.mpr ⟨hl, hh⟩), ?_, fun r hne => ?_⟩⟩
    · have h0 : xd ≠ 0 := by rintro rfl; exact absurd hl (by decide)
      rw [State.cRetire_xRead_sup hq hs, State.xRead_xWrite_same s xd _ h0 (.inl hs)]
    · rw [State.cRetire_xRead_sup hq hs, State.xRead_xWrite_other s xd r _ hne (.inr hs)]
end

section
/-! C's integer register words and its hints (R96, R97, R121): each result of the model in the words of the table, what the words encode as and what
they execute, and the one meaning that every hint word decodes to. -/

namespace Sys2Proof

/-! ### The decoder's acceptance, and the hint words -/

/-- An instruction within its limits is accepted as the unit that it encodes to (R64). -/
theorem accept_of_encode {u : Enc} {i : Instr} (hwf : i.wf = true) (henc : encode i = some u) : accept u i = .ok i := by
  rw [accept, hwf, henc, beq_self_eq_true]
  rfl

/-- A C word is its major and the 25 bits below it (R47). -/
theorem cj_of_fields (w : Word32) : cj (w.extractLsb' 25 7) (w.extractLsb' 0 25) = w := by
  rw [cj, BitVec.extractLsb'_append_extractLsb'_eq_extractLsb' (by rfl)]
  exact BitVec.extractLsb'_eq_self

theorem rawC_of_hint {w : Word32} (h : w.extractLsb' 25 7 = 0x0f) : rawC w = .ok (.nop (w.extractLsb' 0 25)) := by
  rw [rawC, h]
  rfl

theorem encode_nop (payload : BitVec 25) : encode (.nop payload) = some (.c (cj 0x0f payload)) := rfl

theorem decode_hint {w : Word32} (h : w.extractLsb' 25 7 = 0x0f) : decode (.c w) = .ok (.nop (w.extractLsb' 0 25)) := by
  have henc : encode (.nop (w.extractLsb' 0 25)) = some (.c w) := by
    rw [encode_nop, ← h, cj_of_fields]
  rw [decode, decodeC, rawC_of_hint h]
  exact accept_of_encode rfl henc

end Sys2Proof

namespace Sys2Proof.Machine

open Sys2Proof.Claims

/-! ### A retired word that names no port -/

theorem portsAfter_none (s : State) (v : Word64) : portsAfter s [] 0 v = s.core.q := by
  unfold portsAfter
  cases s.sup <;> rfl

/-- A word that pushes no port leaves every byte as it was, a pending store or not (R310). -/
theorem Retired.rd8_of_placedFor {s t : State} {srcs : List XReg} {xd : XReg} {v pc : Word64} (h : Retired s t srcs xd v pc)
    (hp : s.placedFor xd = s) (a : Nat) : t.rd8 a = s.rd8 a := by
  have hmem := h.mem
  have hid := h.pkgId
  rw [hp] at hmem hid
  rw [State.rd8, State.rd8, State.norm, State.norm, hmem, hid]

/-- To go on is to retire with no source and with x0 as the destination. -/
theorem State.cRetire_none (s : State) (v pc : Word64) : s.cRetire [] 0 v pc = s.cGo pc := by
  have hpop : s.xPop [] = s := by
    unfold State.xPop
    cases s.sup <;> rfl
  have e : s.cRetire [] 0 v pc = (((s.placedFor 0).xPop []).xWrite 0 v).cGo pc := rfl
  rw [e, State.placedFor_zero, hpop, State.xWrite_zero]

theorem exec_nop (payload : BitVec 25) (s : State) : exec (.nop payload) s = .next (s.cGo s.pc4) := rfl

/-! ### The results of R96 in the table's words -/

/-- The shift count is the six low bits (R96). -/
theorem toNat_extract_six (b : Word64) : (b.extractLsb' 0 6).toNat = b.toNat % 64 := by
  rw [BitVec.extractLsb'_toNat, Nat.shiftRight_zero]

theorem ofBool64_decide (p : Prop) [Decidable p] : ofBool64 (decide p) = if p then 1 else 0 := by
  rw [ofBool64, Bool.cond_decide]

theorem sllVal_eq (a b : Word64) : sllVal a b = a <<< (b.extractLsb' 0 6).toNat := by
  rw [sllVal, toNat_extract_six]

theorem srlVal_eq (a b : Word64) : srlVal a b = a >>> (b.extractLsb' 0 6).toNat := by
  rw [srlVal, toNat_extract_six]

theorem sraVal_eq (a b : Word64) : sraVal a b = a.sshiftRight (b.extractLsb' 0 6).toNat := by
  rw [sraVal, toNat_extract_six]

theorem sltVal_eq (a b : Word64) : sltVal a b = if a.toInt < b.toInt then 1 else 0 := ofBool64_decide _

theorem sltnVal_eq (a b : Word64) : sltnVal a b = if a.toNat < b.toNat then 1 else 0 := ofBool64_decide _

theorem minVal_eq (a b : Word64) : minVal a b = if a.toInt < b.toInt then a else b := Bool.cond_decide ..

theorem maxVal_eq (a b : Word64) : maxVal a b = if a.toInt < b.toInt then b else a := Bool.cond_decide ..

theorem minnVal_eq (a b : Word64) : minnVal a b = if a.toNat < b.toNat then a else b := Bool.cond_decide ..

theorem maxnVal_eq (a b : Word64) : maxnVal a b = if a.toNat < b.toNat then b else a := Bool.cond_decide ..

theorem remVal_eq (a b : Word64) : remVal a b = if b = 0 then a else BitVec.ofInt 64 (a.toInt - b.toInt * a.toInt.tdiv b.toInt) := by
  rw [remVal, remS, Int.tmod_def]

/-! ### The counts and the byte reversal of R96 -/

/-- Counting from bit n-1 down stops at the first one bit: the number of zero bits met until then. -/
theorem lead0_eq (a : Word64) (n : Nat) : lead0 a n = ((List.range n).reverse.takeWhile fun i => !a.getLsbD i).length := by
  induction n with
  | zero => rfl
  | succ n ih =>
    rw [lead0, List.range_succ, List.reverse_append, List.reverse_singleton, List.singleton_append, List.takeWhile_cons]
    cases a.getLsbD n with
    | true => rfl
    | false => rw [cond_false, ih, Bool.not_false, if_pos rfl, List.length_cons]

/-- Counting from bit i up stops at the first one bit. -/
theorem trail0_eq (a : Word64) (i n : Nat) : trail0 a i n = ((List.range' i n).takeWhile fun j => !a.getLsbD j).length := by
  induction n generalizing i with
  | zero => rfl
  | succ n ih =>
    rw [trail0, List.range'_succ, List.takeWhile_cons]
    cases a.getLsbD i with
    | true => rfl
    | false => rw [cond_false, ih, Bool.not_false, if_pos rfl, List.length_cons]

theorem ones_eq (a : Word64) (n : Nat) : ones a n = ((List.range n).filter fun i => a.getLsbD i).length := by
  induction n with
  | zero => rfl
  | succ n ih =>
    rw [ones, ih, List.range_succ, List.filter_append, List.length_append, List.filter_singleton, Nat.add_comm]
    cases a.getLsbD n <;> rfl

/-- The little-endian bytes of a value from byte `k` up are its bytes in their order (R2). -/
theorem leBytes_eq_bytes (a : Word64) (k n : Nat) : leBytes n (a.toNat / 2 ^ (8 * k)) = (List.range' k n).map (byteOf a) := by
  induction n generalizing k with
  | zero => rfl
  | succ n ih =>
    have hhead : BitVec.ofNat 8 (a.toNat / 2 ^ (8 * k)) = byteOf a k := by
      rw [byteOf, BitVec.extractLsb', Nat.shiftRight_eq_div_pow]
    have hrest : a.toNat / 2 ^ (8 * k) / 256 = a.toNat / 2 ^ (8 * (k + 1)) := by
      rw [Nat.div_div_eq_div_mul, Nat.mul_add, Nat.pow_add]
    rw [leBytes, hhead, hrest, ih, List.range'_succ, List.map_cons]

/-- A byte appended below a word shifts the word up by one byte. -/
theorem toNat_append_byte {n : Nat} (x : BitVec n) (b : Byte) : (x ++ b).toNat = b.toNat + 256 * x.toNat := by
  rw [BitVec.toNat_append, ← Nat.shiftLeft_add_eq_or_of_lt b.isLt, Nat.shiftLeft_eq, Nat.mul_comm, Nat.add_comm]

theorem clzVal_eq (a : Word64) : clzVal a = BitVec.ofNat 64 (leadingZeros a) := by
  rw [clzVal, lead0_eq, leadingZeros]

theorem ctzVal_eq (a : Word64) : ctzVal a = BitVec.ofNat 64 (trailingZeros a) := by
  rw [ctzVal, trail0_eq, trailingZeros, List.range_eq_range']

theorem popcVal_eq (a : Word64) : popcVal a = BitVec.ofNat 64 (oneCount a) := by
  rw [popcVal, ones_eq, oneCount]

/-- The bytes read backwards are the bytes appended forwards: byte 0 becomes the most significant. -/
theorem bswapVal_eq (a : Word64) : bswapVal a =
    byteOf a 0 ++ byteOf a 1 ++ byteOf a 2 ++ byteOf a 3 ++ byteOf a 4 ++ byteOf a 5 ++ byteOf a 6 ++ byteOf a 7 := by
  have hbytes : leBytes 8 a.toNat = [byteOf a 0, byteOf a 1, byteOf a 2, byteOf a 3, byteOf a 4, byteOf a 5, byteOf a 6, byteOf a 7] := by
    simpa [List.range'] using leBytes_eq_bytes a 0 8
  have hnat : leNat (leBytes 8 a.toNat).reverse =
      (byteOf a 0 ++ byteOf a 1 ++ byteOf a 2 ++ byteOf a 3 ++ byteOf a 4 ++ byteOf a 5 ++ byteOf a 6 ++ byteOf a 7).toNat := by
    simp only [hbytes, List.reverse_cons, List.reverse_nil, List.nil_append, List.cons_append, leNat, toNat_append_byte, Nat.mul_zero, Nat.add_zero]
  rw [bswapVal, byteSwap, hnat]
  exact BitVec.ofNat_toNat ..

/-! ### The words of R96: what they encode as and what they execute -/

theorem encode_regWord : ∀ e ∈ regWords, ∀ xd xa xb : XReg, encode (e.2.2.1 xd xa xb) = some (.c (cr e.1 xd xa xb 0 e.2.1)) := by
  simp only [regWords, List.forall_mem_cons, List.not_mem_nil, false_implies, implies_true, and_true]
  and_intros <;> intros <;> rfl

theorem encode_unaryWord : ∀ e ∈ unaryWords, ∀ xd xa : XReg, encode (e.2.1 xd xa) = some (.c (cr 0x03 xd xa 0 0 e.1)) := by
  simp only [unaryWords, List.forall_mem_cons, List.not_mem_nil, false_implies, implies_true, and_true]
  and_intros <;> intros <;> rfl

/-- Every word of R96 with two sources computes its result and nothing else: the words whose definition is the table's own text by unfolding, and the
rest by the lemma on their result. -/
theorem exec_regWord : ∀ e ∈ regWords, ∀ (xd xa xb : XReg) (s : State),
    exec (e.2.2.1 xd xa xb) s = s.cExec [xa, xb] xd (e.2.2.2 (s.xRead xa) (s.xRead xb)) := by
  simp only [regWords, List.forall_mem_cons, List.not_mem_nil, false_implies, implies_true, and_true, ← sllVal_eq, ← srlVal_eq, ← sraVal_eq,
    ← sltVal_eq, ← sltnVal_eq, ← minVal_eq, ← maxVal_eq, ← minnVal_eq, ← maxnVal_eq, ← remVal_eq]
  and_intros <;> intros <;> rfl

theorem exec_unaryWord : ∀ e ∈ unaryWords, ∀ (xd xa : XReg) (s : State),
    exec (e.2.1 xd xa) s = s.cExec [xa] xd (e.2.2 (s.xRead xa)) := by
  simp only [unaryWords, List.forall_mem_cons, List.not_mem_nil, false_implies, implies_true, and_true, ← clzVal_eq, ← ctzVal_eq,
    ← popcVal_eq, ← bswapVal_eq]
  and_intros <;> intros <;> rfl

/-- A word that only computes, its ports ready, retires with its result (R93, R94). -/
theorem State.cExec_retired {s : State} {srcs : List XReg} {xd : XReg} {v : Word64} {o : Out} (ho : o = s.cExec srcs xd v) (hq : s.Quiet)
    (hr : s.cReady srcs xd = true) : ∃ t, o = .next t ∧ Retired s t srcs xd v (s.core.c.pc + 4) :=
  ⟨_, ho.trans (State.cExec_ready v hr), State.cRetire_retired srcs xd v s.pc4 hq⟩

end Sys2Proof.Machine

open Sys2Proof Sys2Proof.Machine

/-- Settles O1: each word of the tables encodes as its row says and executes as a word that only computes, with the row's result. -/
theorem integerWordsRetireWithTheirResults : Obligations.IntegerWordsRetireWithTheirResults :=
  ⟨fun e he xd xa xb s => ⟨encode_regWord e he xd xa xb, State.cExec_retired (exec_regWord e he xd xa xb s)⟩,
    fun e he xd xa s => ⟨encode_unaryWord e he xd xa, State.cExec_retired (exec_unaryWord e he xd xa s)⟩⟩

/-- Settles O56: a word of major 0x0f decodes to `nop`, and `nop` retires with no source and no destination, so that queues, registers and memory stand. -/
theorem everyHintWordIsANop : Obligations.EveryHintWordIsANop := by
  refine ⟨by decide, fun w => decode_hint, fun payload s hq => ?_⟩
  have ht : exec (.nop payload) s = .next (s.cRetire [] 0 0 s.pc4) := by rw [State.cRetire_none, exec_nop]
  have hret := State.cRetire_retired [] 0 0 s.pc4 hq
  exact ⟨_, ht, hret, hret.q.trans (portsAfter_none s 0), hret.regs.trans (if_pos (.inl rfl)), hret.rd8_of_placedFor s.placedFor_zero⟩
end

section
/-! The decoder on what the encoder writes (R47 to R51, R64): the fields of each C word name the word they were written from. -/

namespace Sys2Proof

/-! ### Fields within fields -/

theorem ci_size (maj : BitVec 7) (xd xa : BitVec 5) (imm : BitVec 15) :
    (ci maj xd xa imm).extractLsb' 12 3 = imm.extractLsb' 12 3 :=
  BitVec.extractLsb'_append_eq_of_add_le (by decide)

theorem ci_off (maj : BitVec 7) (xd xa : BitVec 5) (imm : BitVec 15) :
    (ci maj xd xa imm).extractLsb' 0 12 = imm.extractLsb' 0 12 :=
  BitVec.extractLsb'_append_eq_of_add_le (by decide)

/-- The selector of `dmd.rd` stands above its node (R270). -/
theorem extract_dmdRd_sel (sel : BitVec 3) (node : BitVec 4) : (0#8 ++ sel ++ node : BitVec 15).extractLsb' 4 3 = sel :=
  (BitVec.extractLsb'_append_eq_of_le (Nat.le_refl 4)).trans BitVec.extractLsb'_append_eq_right

/-- The bits above a scatter's element size: done, defer and the width of its indices (R187). -/
theorem getLsbD_sct_sub (done defer iw : Bool) (sz : BitVec 3) :
    (BitVec.ofBool done ++ 0#1 ++ BitVec.ofBool defer ++ BitVec.ofBool iw ++ sz : BitVec 7).getLsbD 6 = done ∧
    (BitVec.ofBool done ++ 0#1 ++ BitVec.ofBool defer ++ BitVec.ofBool iw ++ sz : BitVec 7).getLsbD 4 = defer ∧
    (BitVec.ofBool done ++ 0#1 ++ BitVec.ofBool defer ++ BitVec.ofBool iw ++ sz : BitVec 7).getLsbD 3 = iw := by
  simp only [BitVec.getLsbD_append]
  cases done <;> cases defer <;> cases iw <;> exact ⟨rfl, rfl, rfl⟩

/-- The bits above a gather's element size: done and the width of its indices (R187). -/
theorem getLsbD_gth_sub (done iw : Bool) (sz : BitVec 3) :
    (BitVec.ofBool done ++ 0#2 ++ BitVec.ofBool iw ++ sz : BitVec 7).getLsbD 6 = done ∧
    (BitVec.ofBool done ++ 0#2 ++ BitVec.ofBool iw ++ sz : BitVec 7).getLsbD 3 = iw := by
  simp only [BitVec.getLsbD_append]
  cases done <;> cases iw <;> exact ⟨rfl, rfl⟩

/-- The done bit of `nb.go` stands above its slot (R344). -/
theorem getLsbD_nbGo_sub (done : Bool) (slot : BitVec 2) : (BitVec.ofBool done ++ 0#4 ++ slot : BitVec 7).getLsbD 6 = done := by
  simp only [BitVec.getLsbD_append]
  cases done <;> rfl

/-! ### C words: those of majors below 0x50 compute, move or jump; the others command a unit or the system -/

theorem rawC_of_encode_lo {i : Instr} {w : Word32} (h : encode i = some (.c w)) (hm : (w.extractLsb' 25 7).toNat < 0x50) : rawC w = .ok i := by
  cases i
  all_goals cases h
  case add | sub | and | or | xor | andn | sll | srl | sra | slt | sltn | min | max | minn | maxn | mul | mulh | mulhn | div | divn | rem | remn |
      clz | ctz | popc | bswap | addx | amoAdd | amoAddI32 | amoAnd | amoAndI32 | amoOr | amoOrI32 | amoXor | amoXorI32 | amoMin | amoMinI32 |
      amoMax | amoMaxI32 | amoSwap | amoSwapI32 | amoCas | amoCasI32 | amoFaddF32 | amoFaddBf16 =>
    rw [rawC, cr_maj, cr_xd, cr_xa, cr_xb, cr_xc, cr_fn]
    rfl
  case addi | andi | ori | xori | slli | srli | srai | slti | sltni | muli | ldhi | lea | beq | bne | blt | bge | bltn | bgen | jalr =>
    rw [rawC, ci_maj, ci_xd, ci_xa, ci_imm]
    rfl
  case ldI8 | ldI16 | ldI32 | ld | ldN8 | ldN16 | ldN32 | stI8 | stI16 | stI32 | st =>
    rw [rawC, cm_maj, cm_xd, cm_xa, cm_size, cm_off]
    rfl
  case jal | nop =>
    rw [rawC, cj_maj, cj_off]
    rfl
  all_goals
    simp only [cr_maj, ci_maj, cj_maj, ce_maj, cx_maj] at hm
    exact absurd hm (by decide)

theorem rawC_of_encode_hi {i : Instr} {w : Word32} (h : encode i = some (.c w)) (hm : 0x50 ≤ (w.extractLsb' 25 7).toNat) : rawC w = .ok i := by
  cases i
  all_goals cases h
  case eret | tlbi | icsync | endC =>
    rw [rawC, cr_maj, cr_xa, cr_fn]
    rfl
  case redmd | fenceE | fenceB | fenceS | fenceF | mon | mwait | tdep | trap =>
    rw [rawC, ci_maj, ci_xd, ci_xa, ci_imm]
    rfl
  case dmd | bar | barA | barW | tsub =>
    rw [rawC, ci_maj, ci_xd, ci_xa, ci_imm, BitVec.extractLsb'_append_eq_right]
    rfl
  case dmdRd =>
    rw [rawC, ci_maj, ci_xd, ci_imm, extract_dmdRd_sel, BitVec.extractLsb'_append_eq_right]
    rfl
  case lsymRd | lsymPin | lsymFree =>
    rw [rawC, ci_maj, ci_xd, ci_xa, ci_imm, ci_size, BitVec.extractLsb'_append_eq_of_le (by decide), BitVec.extractLsb'_append_eq_right]
    rfl
  case csrr | csrw | csrs | csrc =>
    rw [rawC, ci_maj, ci_xd, ci_xa, ci_size, ci_off, BitVec.extractLsb'_append_eq_left, BitVec.extractLsb'_append_eq_right]
    rfl
  case tokPush b | tokPop b | yield b =>
    rw [rawC, ci_maj, ci_imm]
    cases b <;> rfl
  case bkpt =>
    rw [rawC, cj_maj, cj_off]
    rfl
  case sbBase | sbBaseSc | sbDim | sbFmt | sbWin | sbGo | sbStop =>
    rw [rawC, cx_maj, cx_xa, cx_s, cx_dim, cx_xb, cx_fn]
    rfl
  case sbRd =>
    rw [rawC, cx_maj, cx_xd, cx_s, cx_fn, BitVec.extractLsb'_append_eq_right]
    rfl
  case mig | wrfRd | nbFence =>
    rw [rawC, ce_maj, ce_xd, ce_xa, ce_xb, ce_eng]
    rfl
  case migRd | nbLd | nbRd =>
    rw [rawC, ce_maj, ce_xd, ce_xa, ce_eng, ce_sub, BitVec.extractLsb'_append_eq_right]
    rfl
  case cpMp done | cpPp done | pub done | ecw done =>
    rw [rawC, ce_maj, ce_xd, ce_xa, ce_xb, ce_sub]
    cases done <;> rfl
  case cpPm done defer | cpMm done defer =>
    rw [rawC, ce_maj, ce_xd, ce_xa, ce_xb, ce_sub]
    cases done <;> cases defer <;> rfl
  case eqRd gather sel =>
    rw [rawC, ce_maj, ce_xd, ce_eng, ce_sub, BitVec.extractLsb'_append_eq_right]
    cases gather <;> rfl
  case nbGo done slot =>
    rw [rawC, ce_maj, ce_xd, ce_xa, ce_xb, ce_sub, BitVec.extractLsb'_append_eq_right, getLsbD_nbGo_sub]
    rfl
  case gth done iw sz =>
    obtain ⟨hdone, hiw⟩ := getLsbD_gth_sub done iw sz
    rw [rawC, ce_maj, ce_xd, ce_xa, ce_xb, ce_sub, BitVec.extractLsb'_append_eq_right, hdone, hiw]
    rfl
  case sct done defer iw sz =>
    obtain ⟨hdone, hdefer, hiw⟩ := getLsbD_sct_sub done defer iw sz
    rw [rawC, ce_maj, ce_xd, ce_xa, ce_xb, ce_sub, BitVec.extractLsb'_append_eq_right, hdone, hdefer, hiw]
    rfl
  all_goals
    simp only [cr_maj, ci_maj, cm_maj, cj_maj] at hm
    exact absurd hm (by decide)

theorem rawC_of_encode {i : Instr} {w : Word32} (h : encode i = some (.c w)) : rawC w = .ok i :=
  (Nat.lt_or_ge (w.extractLsb' 25 7).toNat 0x50).elim (rawC_of_encode_lo h) (rawC_of_encode_hi h)

end Sys2Proof

open Sys2Proof Sys2Proof.Machine

/-- Settles O49: the fields of an encoded C word name the word, and a well-formed word is accepted as what it encodes to. -/
theorem encodedCWordsDecodeBack : Obligations.EncodedCWordsDecodeBack := by
  intro i w hwf henc
  rw [decode, decodeC, rawC_of_encode henc]
  exact accept_of_encode hwf henc
end

section
/-! The decoder on what the encoder writes (R52 to R54, R64): the fields of each L and S word name the word they were written from. -/

namespace Sys2Proof

/-! ### The fields of the LY layout -/

section
variable (op : BitVec 6) (tok : Tokens) (mk : BitVec 2) (yd ya yb : YReg) (lid : BitVec 8) (imm : BitVec 32)

theorem ly_op : (ly op tok mk yd ya yb lid imm).extractLsb' 58 6 = op := by
  unfold ly
  iterate 10 rw [BitVec.extractLsb'_append_eq_of_le (by decide)]
  exact BitVec.extractLsb'_eq_self
theorem ly_mk : (ly op tok mk yd ya yb lid imm).extractLsb' 52 2 = mk := by
  unfold ly
  iterate 5 rw [BitVec.extractLsb'_append_eq_of_le (by decide)]
  exact BitVec.extractLsb'_append_eq_right
theorem ly_yd : (ly op tok mk yd ya yb lid imm).extractLsb' 48 4 = yd := by
  unfold ly
  iterate 4 rw [BitVec.extractLsb'_append_eq_of_le (by decide)]
  exact BitVec.extractLsb'_append_eq_right
theorem ly_ya : (ly op tok mk yd ya yb lid imm).extractLsb' 44 4 = ya := by
  unfold ly
  iterate 3 rw [BitVec.extractLsb'_append_eq_of_le (by decide)]
  exact BitVec.extractLsb'_append_eq_right
theorem ly_yb : (ly op tok mk yd ya yb lid imm).extractLsb' 40 4 = yb := by
  unfold ly
  iterate 2 rw [BitVec.extractLsb'_append_eq_of_le (by decide)]
  exact BitVec.extractLsb'_append_eq_right
theorem ly_lid : (ly op tok mk yd ya yb lid imm).extractLsb' 32 8 = lid := by
  unfold ly
  rw [BitVec.extractLsb'_append_eq_of_le (by decide)]
  exact BitVec.extractLsb'_append_eq_right
theorem ly_imm : (ly op tok mk yd ya yb lid imm).extractLsb' 0 32 = imm := BitVec.extractLsb'_append_eq_right
theorem ly_tok : tokensLS (ly op tok mk yd ya yb lid imm) = tok := by
  simp only [tokensLS, ly, BitVec.getLsbD_append]
  obtain ⟨_ | _, _ | _, _ | _, _ | _⟩ := tok <;> rfl
end

/-! ### The fields of the LM layout -/

section
variable (op : BitVec 6) (tok : Tokens) (mk : BitVec 2) (vr : BitVec 5) (s : BitVec 3) (ya : YReg) (fmt md : BitVec 4) (len : BitVec 11) (off : BitVec 21)

theorem lm_op : (lm op tok mk vr s ya fmt md len off).extractLsb' 58 6 = op := by
  unfold lm
  iterate 12 rw [BitVec.extractLsb'_append_eq_of_le (by decide)]
  exact BitVec.extractLsb'_eq_self
theorem lm_mk : (lm op tok mk vr s ya fmt md len off).extractLsb' 52 2 = mk := by
  unfold lm
  iterate 7 rw [BitVec.extractLsb'_append_eq_of_le (by decide)]
  exact BitVec.extractLsb'_append_eq_right
theorem lm_vr : (lm op tok mk vr s ya fmt md len off).extractLsb' 47 5 = vr := by
  unfold lm
  iterate 6 rw [BitVec.extractLsb'_append_eq_of_le (by decide)]
  exact BitVec.extractLsb'_append_eq_right
theorem lm_s : (lm op tok mk vr s ya fmt md len off).extractLsb' 44 3 = s := by
  unfold lm
  iterate 5 rw [BitVec.extractLsb'_append_eq_of_le (by decide)]
  exact BitVec.extractLsb'_append_eq_right
theorem lm_ya : (lm op tok mk vr s ya fmt md len off).extractLsb' 40 4 = ya := by
  unfold lm
  iterate 4 rw [BitVec.extractLsb'_append_eq_of_le (by decide)]
  exact BitVec.extractLsb'_append_eq_right
theorem lm_fmt : (lm op tok mk vr s ya fmt md len off).extractLsb' 36 4 = fmt := by
  unfold lm
  iterate 3 rw [BitVec.extractLsb'_append_eq_of_le (by decide)]
  exact BitVec.extractLsb'_append_eq_right
theorem lm_len : (lm op tok mk vr s ya fmt md len off).extractLsb' 21 11 = len := by
  unfold lm
  rw [BitVec.extractLsb'_append_eq_of_le (by decide)]
  exact BitVec.extractLsb'_append_eq_right
theorem lm_off : (lm op tok mk vr s ya fmt md len off).extractLsb' 0 21 = off := BitVec.extractLsb'_append_eq_right
/-- The row of `wload` is the low part of the offset field (R144). -/
theorem lm_row : (lm op tok mk vr s ya fmt md len off).extractLsb' 0 7 = off.extractLsb' 0 7 := BitVec.extractLsb'_append_eq_of_add_le (by decide)
/-- The low bits of the mode field: a part, a rounding mode or a reduction. -/
theorem lm_mode : (lm op tok mk vr s ya fmt md len off).extractLsb' 32 2 = md.extractLsb' 0 2 := by
  unfold lm
  iterate 2 rw [BitVec.extractLsb'_append_eq_of_le (by decide)]
  exact BitVec.extractLsb'_append_eq_of_add_le (by decide)
theorem lm_mode_bit : (lm op tok mk vr s ya fmt md len off).getLsbD 32 = md.getLsbD 0 := by
  simp only [lm, BitVec.getLsbD_append]
  rfl
theorem lm_tok : tokensLS (lm op tok mk vr s ya fmt md len off) = tok := by
  simp only [tokensLS, lm, BitVec.getLsbD_append]
  obtain ⟨_ | _, _ | _, _ | _, _ | _⟩ := tok <;> rfl
end

/-! ### The fields of a hint word -/

section
variable (op : BitVec 6) (tok : Tokens) (mk : BitVec 2) (payload : BitVec 52)

theorem lh_op : (lh op tok mk payload).extractLsb' 58 6 = op := by
  unfold lh
  iterate 6 rw [BitVec.extractLsb'_append_eq_of_le (by decide)]
  exact BitVec.extractLsb'_eq_self
theorem lh_mk : (lh op tok mk payload).extractLsb' 52 2 = mk := by
  unfold lh
  rw [BitVec.extractLsb'_append_eq_of_le (by decide)]
  exact BitVec.extractLsb'_append_eq_right
theorem lh_payload : (lh op tok mk payload).extractLsb' 0 52 = payload := BitVec.extractLsb'_append_eq_right
theorem lh_tok : tokensLS (lh op tok mk payload) = tok := by
  simp only [tokensLS, lh, BitVec.getLsbD_append]
  obtain ⟨_ | _, _ | _, _ | _, _ | _⟩ := tok <;> rfl
end

/-! ### L and S words -/

theorem rawLS_of_encode {i : Instr} {k : LS} {w : Word64} (h : encode i = some (.ls k w)) : rawLS k w = .ok i := by
  cases i
  all_goals cases h
  case yadd | yaddi | ymov | yrd | lbeg | lend | lbr | lsEnd =>
    unfold rawLS
    rw [ly_op, ly_tok, ly_mk, ly_yd, ly_ya, ly_yb, ly_lid, ly_imm]
    rfl
  case pld | pst =>
    unfold rawLS
    rw [lm_op, lm_tok, lm_mk, lm_vr, lm_ya, lm_fmt, lm_len, lm_off]
    rfl
  case vld toPool _ _ =>
    unfold rawLS
    rw [lm_op, lm_tok, lm_mk, lm_vr, lm_s, lm_ya, lm_fmt, lm_mode_bit, lm_len, lm_off]
    cases toPool <;> rfl
  case wload =>
    unfold rawLS
    rw [lm_op, lm_tok, lm_mk, lm_s, lm_ya, lm_fmt, lm_mode, lm_len, lm_row, BitVec.extractLsb'_append_eq_right, BitVec.extractLsb'_append_eq_right]
    rfl
  case vst =>
    unfold rawLS
    rw [lm_op, lm_tok, lm_mk, lm_vr, lm_s, lm_ya, lm_fmt, lm_mode, lm_len, lm_off, BitVec.extractLsb'_append_eq_right]
    rfl
  case vredAdd | vredMin | vredMax =>
    unfold rawLS
    rw [lm_op, lm_tok, lm_mk, lm_vr, lm_s, lm_ya, lm_fmt, lm_mode, lm_len, lm_off]
    rfl
  case lsHint =>
    unfold rawLS
    rw [lh_op, lh_tok, lh_mk, lh_payload]
    rfl

end Sys2Proof

open Sys2Proof Sys2Proof.Machine

/-- Settles O50: the fields of an encoded word of L or S name the word, and a well-formed word is accepted as what it encodes to. -/
theorem encodedDataWordsDecodeBack : Obligations.EncodedDataWordsDecodeBack := by
  intro i k w hwf henc
  rw [decode, decodeLS, rawLS_of_encode henc]
  exact accept_of_encode hwf henc
end

section
/-! The decoder on what the encoder writes (R55 to R61, R64, R83): the fields of each slot and of a bundle name them, and a bundle that names one
slot only is that slot's instruction. -/

namespace Sys2Proof

/-! ### The fields of slots and bundles -/

theorem rawT_enc (t : TOp) : rawT t.enc = .ok t := by
  cases t
  case lend lid q e rot =>
    unfold rawT TOp.enc
    simp only [BitVec.extractLsb'_append_eq_of_le, BitVec.extractLsb'_append_eq_right, BitVec.extractLsb'_eq_self, BitVec.getLsbD_append,
      Nat.reduceLeDiff, Nat.reduceSub]
    cases q <;> cases rot <;> rfl
  case lbr lid ya q inv =>
    unfold rawT TOp.enc
    simp only [BitVec.extractLsb'_append_eq_of_le, BitVec.extractLsb'_append_eq_right, BitVec.extractLsb'_eq_self, BitVec.getLsbD_append,
      Nat.reduceLeDiff, Nat.reduceSub]
    cases q <;> cases inv <;> rfl
  all_goals
    unfold rawT TOp.enc
    simp only [BitVec.extractLsb'_append_eq_of_le, BitVec.extractLsb'_append_eq_right, BitVec.extractLsb'_eq_self, Nat.reduceLeDiff, Nat.reduceSub]
    rfl

theorem rawM_enc (m : MOp) : rawM m.enc = .ok m := by
  cases m
  case mnop | mswap => rfl
  case mcfg float wfmt sparse =>
    unfold rawM MOp.enc
    simp only [BitVec.extractLsb'_append_eq_of_le, BitVec.extractLsb'_append_eq_right, BitVec.extractLsb'_eq_self, BitVec.getLsbD_append,
      Nat.reduceLeDiff, Nat.reduceSub]
    cases float <;> rfl
  case mmac acc _ _ | mmacs acc _ _ _ | mdrain acc _ _ _ _ _ =>
    unfold rawM MOp.enc
    simp only [BitVec.extractLsb'_append_eq_of_le, BitVec.extractLsb'_append_eq_right, BitVec.extractLsb'_eq_self, BitVec.getLsbD_append,
      Nat.reduceLeDiff, Nat.reduceSub]
    cases acc <;> rfl
  case mclr acc float => cases acc <;> cases float <;> rfl

theorem abOp_code (op : ABOp) : abOp op.code = .ok op := by cases op <;> rfl

theorem rawAB_enc (x : ABSlot) : rawAB x.enc = .ok x := by
  unfold rawAB ABSlot.enc
  simp only [BitVec.extractLsb'_append_eq_of_le, BitVec.extractLsb'_append_eq_right, BitVec.extractLsb'_eq_self, Nat.reduceLeDiff, Nat.reduceSub,
    abOp_code]
  rfl

theorem rawV_enc (b : Bundle) : rawV b.enc = .ok b := by
  obtain ⟨cut, sym, k, c, guard, m, a, b, t, tok⟩ := b
  unfold rawV Bundle.enc
  simp only [BitVec.extractLsb'_append_eq_of_le, BitVec.extractLsb'_append_eq_right, BitVec.getLsbD_append,
    Nat.reduceLeDiff, Nat.reduceSub, rawM_enc, rawAB_enc, rawT_enc]
  obtain ⟨_ | _, _ | _, _ | _, _ | _⟩ := tok <;> cases cut <;> rfl

/-! ### A bundle that names one slot only (R83) -/

theorem instr_aBundle {x : ABSlot} {i : Instr} (hne : x.op ≠ .empty) (h : abInstr .a x = some i) : (abBundle .a x).instr = i := by
  have hm : (abBundle .a x).soleM = false := beq_eq_false_iff_ne.mpr fun e => hne (congrArg (fun b : Bundle => b.a.op) e)
  have ha : (abBundle .a x).soleA = true := Bool.and_eq_true_iff.mpr ⟨beq_self_eq_true _, bne_iff_ne.mpr hne⟩
  rw [Bundle.instr, hm, ha]
  exact congrArg (Option.getD · _) h

theorem instr_bBundle {x : ABSlot} {i : Instr} (hne : x.op ≠ .empty) (h : abInstr .b x = some i) : (abBundle .b x).instr = i := by
  have hm : (abBundle .b x).soleM = false := beq_eq_false_iff_ne.mpr fun e => hne (congrArg (fun b : Bundle => b.b.op) e)
  have ha : (abBundle .b x).soleA = false := Bool.and_eq_false_iff.mpr (.inr rfl)
  have hb : (abBundle .b x).soleB = true := Bool.and_eq_true_iff.mpr ⟨beq_self_eq_true _, bne_iff_ne.mpr hne⟩
  rw [Bundle.instr, hm, ha, hb]
  exact congrArg (Option.getD · _) h

theorem instr_abBundle {ln : Lane} {x : ABSlot} {i : Instr} (h : abInstr ln x = some i) : (abBundle ln x).instr = i := by
  have hne : x.op ≠ .empty := by
    intro e
    rw [abInstr, e] at h
    exact nomatch h
  cases ln
  · exact instr_aBundle hne h
  · exact instr_bBundle hne h

theorem instr_tBundle {t : TOp} {i : Instr} (h : t.instr = some i) : ({ Bundle.bare with t := t } : Bundle).instr = i := by
  have hne : t ≠ .empty := by
    rintro rfl
    exact nomatch h
  have hm : ({ Bundle.bare with t := t } : Bundle).soleM = false := beq_eq_false_iff_ne.mpr fun e => hne (congrArg Bundle.t e)
  have ha : ({ Bundle.bare with t := t } : Bundle).soleA = false := Bool.and_eq_false_iff.mpr (.inr rfl)
  have hb : ({ Bundle.bare with t := t } : Bundle).soleB = false := Bool.and_eq_false_iff.mpr (.inr rfl)
  have ht : ({ Bundle.bare with t := t } : Bundle).soleT = true := Bool.and_eq_true_iff.mpr ⟨beq_self_eq_true _, bne_iff_ne.mpr hne⟩
  rw [Bundle.instr, hm, ha, hb, ht]
  exact congrArg (Option.getD · _) h

theorem instr_mBundle (m : MOp) : ({ Bundle.bare with m := m } : Bundle).instr = m.instr := by
  have hm : ({ Bundle.bare with m := m } : Bundle).soleM = true := beq_self_eq_true _
  rw [Bundle.instr, hm]
  rfl

theorem instr_of_not_sole {b : Bundle} (h : b.sole = false) : b.instr = .vBundleIssue b := by
  simp only [Bundle.sole, Bool.or_eq_false_iff] at h
  obtain ⟨⟨⟨hm, ha⟩, hb⟩, ht⟩ := h
  rw [Bundle.instr, hm, ha, hb, ht]
  rfl

/-! ### Slots whose fields the instruction's operands are spread over -/

theorem bif_beq_one {n : Nat} (h : (0 : BitVec n) ≠ 1) (b : Bool) : ((bif b then (1 : BitVec n) else 0) == 1) = b := by
  cases b
  · exact beq_eq_false_iff_ne.mpr h
  · exact beq_self_eq_true _

theorem fields_vimm (imm : BitVec 15) : imm.extractLsb' 10 5 ++ imm.extractLsb' 5 5 ++ imm.extractLsb' 0 5 = imm := by
  rw [BitVec.extractLsb'_append_extractLsb'_eq_extractLsb' (by rfl), BitVec.extractLsb'_append_extractLsb'_eq_extractLsb' (by rfl)]
  exact BitVec.extractLsb'_eq_self

theorem fields_vbrow (idx : BitVec 10) : idx.extractLsb' 5 5 ++ idx.extractLsb' 0 5 = idx := by
  rw [BitVec.extractLsb'_append_extractLsb'_eq_extractLsb' (by rfl)]
  exact BitVec.extractLsb'_eq_self

theorem fields_vbcol (idx : BitVec 12) : idx.extractLsb' 10 2 ++ idx.extractLsb' 5 5 ++ idx.extractLsb' 0 5 = idx := by
  rw [BitVec.extractLsb'_append_extractLsb'_eq_extractLsb' (by rfl), BitVec.extractLsb'_append_extractLsb'_eq_extractLsb' (by rfl)]
  exact BitVec.extractLsb'_eq_self

theorem fields_abHint (payload : BitVec 22) :
    payload.extractLsb' 17 5 ++ payload.extractLsb' 12 5 ++ payload.extractLsb' 7 5 ++ payload.extractLsb' 2 5 ++ payload.extractLsb' 0 2 = payload := by
  iterate 4 rw [BitVec.extractLsb'_append_extractLsb'_eq_extractLsb' (by rfl)]
  exact BitVec.extractLsb'_eq_self

/-! ### Bundles -/

theorem bundle_of_encode {i : Instr} {w : Word128} (h : encode i = some (.v w)) : ∃ b, i.bundle = some b ∧ b.enc = w := by
  cases i
  all_goals cases h
  all_goals exact ⟨_, rfl, rfl⟩

theorem bundle_instr {i : Instr} {b : Bundle} (hwf : i.wf = true) (h : i.bundle = some b) : b.instr = i := by
  cases i
  all_goals cases h
  case vBundleIssue =>
    rw [Instr.wf, Bool.and_eq_true, Bool.not_eq_true'] at hwf
    exact instr_of_not_sole hwf.2
  case mnop | mswap | mcfg | mmac | mmacs | mclr | mdrain => exact instr_mBundle _
  case tLbeg | tLend | tLbr | jmp | halt | stgSet | stgClr | stgCond | stgLoad | tkr | tsr | ywait | tYadd | tYaddi | tYmov | tYrd | tHint =>
    exact instr_tBundle rfl
  case vshl | vshr | vsra | vcvt | vscl => exact instr_abBundle (by rw [abInstr, bif_beq_one (by decide)])
  case vimm => exact instr_abBundle (by rw [abInstr, fields_vimm])
  case vbrow => exact instr_abBundle (by rw [abInstr, fields_vbrow])
  case vbcol => exact instr_abBundle (by rw [abInstr, fields_vbcol])
  case abHint => exact instr_abBundle (by rw [abInstr, fields_abHint])
  all_goals exact instr_abBundle rfl

end Sys2Proof

open Sys2Proof Sys2Proof.Machine

/-- Settles O51: the fields of an encoded bundle are the bundle's, the bundle of a slot instruction stands for that instruction, and what is well formed
is accepted as what it encodes to. -/
theorem encodedBundlesDecodeBack : Obligations.EncodedBundlesDecodeBack := by
  intro i w hwf henc
  obtain ⟨b, hb, rfl⟩ := bundle_of_encode henc
  rw [decode, decodeV, rawV_enc]
  refine Eq.trans ?_ (accept_of_encode hwf henc)
  rw [← bundle_instr hwf hb]
  rfl
end

section
/-! What decodes is exact (R48 to R51, R64), and the words that the spec writes out (R100, R121, R378). -/

namespace Sys2Proof

/-- What is accepted keeps its limits and encodes to the unit itself (R64). -/
theorem of_accept {u : Enc} {i j : Instr} (h : accept u i = .ok j) : j.wf = true ∧ encode j = some u := by
  unfold accept at h
  cases hwf : i.wf
  · rw [hwf] at h
    exact nomatch h
  · cases henc : encode i == some u
    · rw [hwf, henc] at h
      exact nomatch h
    · rw [hwf, henc] at h
      obtain rfl := Except.ok.inj h
      exact ⟨hwf, beq_iff_eq.mp henc⟩

theorem exists_of_bind_ok {ε α β : Type} {x : Except ε α} {f : α → Except ε β} {b : β} (h : x.bind f = .ok b) : ∃ a, f a = .ok b := by
  cases x with
  | error e => exact nomatch h
  | ok a => exact ⟨a, h⟩

theorem decode_exact {u : Enc} {i : Instr} (h : decode u = .ok i) : i.wf = true ∧ encode i = some u := by
  cases u with
  | c w => exact of_accept (exists_of_bind_ok h).choose_spec
  | ls k w => exact of_accept (exists_of_bind_ok h).choose_spec
  | v w => exact of_accept (exists_of_bind_ok h).choose_spec

theorem specWordsDecode : Claims.TheSpecsOwnWordsDecode := by
  refine ⟨?_, ?_, ?_, ?_, ?_, ?_, ?_, ?_, ?_, ?_⟩ <;> decide
end Sys2Proof

open Sys2Proof Sys2Proof.Machine

/-- Settles O52: whatever decodes has been accepted, and the ten words of the spec decode by evaluation. -/
theorem decodedUnitsAreExact : Obligations.DecodedUnitsAreExact :=
  ⟨fun _ _ => decode_exact, specWordsDecode⟩
end

section
/-! C's words with an immediate, `addx` and `lea` (R98 to R100): their results in the words of the table; and
what a word that pushes a port does to the near-bank granules that wait for it. -/

namespace Sys2Proof.Machine

open Sys2Proof.Claims

/-! ### The results of R98 to R100 in the table's words -/

theorem toInt_sext (imm : BitVec 15) : (sext imm).toInt = imm.toInt := BitVec.toInt_signExtend_of_le (by decide)

theorem sltiVal_eq (a : Word64) (imm : BitVec 15) : sltiVal a imm = if a.toInt < imm.toInt then 1 else 0 := by
  rw [← toInt_sext]
  exact ofBool64_decide _

theorem sltniVal_eq (a : Word64) (imm : BitVec 15) : sltniVal a imm = if a.toNat < (imm.signExtend 64).toNat then 1 else 0 := ofBool64_decide _

theorem muliVal_eq (a : Word64) (imm : BitVec 15) : muliVal a imm = BitVec.ofInt 64 (a.toInt * imm.toInt) := by
  rw [← toInt_sext, BitVec.ofInt_mul, BitVec.ofInt_toInt, BitVec.ofInt_toInt]
  rfl

theorem leaVal_eq (pc : Word64) (imm : BitVec 15) : leaVal pc imm = pc + 4 * imm.signExtend 64 := by
  rw [leaVal, BitVec.mul_comm]
  rfl

theorem encode_immWord : ∀ e ∈ immWords, ∀ (xd xa : XReg) (imm : BitVec 15), encode (e.2.1 xd xa imm) = some (.c (ci e.1 xd xa imm)) := by
  simp only [immWords, List.forall_mem_cons, List.not_mem_nil, false_implies, implies_true, and_true]
  and_intros <;> intros <;> rfl

theorem exec_immWord : ∀ e ∈ immWords, ∀ (xd xa : XReg) (imm : BitVec 15) (s : State),
    exec (e.2.1 xd xa imm) s = s.cExec [xa] xd (e.2.2 (s.xRead xa) imm) := by
  simp only [immWords, List.forall_mem_cons, List.not_mem_nil, false_implies, implies_true, and_true, ← sltiVal_eq, ← sltniVal_eq, ← muliVal_eq]
  and_intros <;> intros <;> rfl

theorem exec_lea (xd : XReg) (imm : BitVec 15) (s : State) : exec (.lea xd imm) s = s.cExec [] xd (s.core.c.pc + 4 * imm.signExtend 64) := by
  rw [← leaVal_eq]
  rfl

theorem exec_addx (xd xa xb : XReg) (sh : BitVec 5) (s : State) :
    exec (.addx xd xa xb sh) s = s.cExec [xa, xb] xd (s.xRead xa + s.xRead xb <<< sh.toNat) := rfl

/-! ### A word that places a pending store at a near-bank granule -/

/-- C's store to byte 0 pends, and a near-bank row step that has read the byte has its write of it still to come. -/
def storeAtGranule : State :=
  { State.reset with core := { Core.reset with
      c := { CStrand.idle with store := some ⟨0, [0], 0⟩ }
      nb := { NearBank.zero with writes := [⟨0, [0], true⟩] } } }

/-- At reset no partition records (R403). -/
theorem part_reset (p : BitVec 3) : State.reset.part p = Part.reset := Vector.getElem_replicate ..

theorem storeAtGranule_quiet : storeAtGranule.Quiet := fun p => by
  rw [show storeAtGranule.part p = Part.reset from part_reset p]
  decide

theorem exec_add_storeAtGranule : exec (.add 24 0 0) storeAtGranule = .next (storeAtGranule.cRetire [0, 0] 24 0 4) := rfl

/-- The push places the store, and the granule before it. -/
theorem writes_after_push : (storeAtGranule.cRetire [0, 0] 24 0 4).core.nb.writes = [] := by decide +kernel

end Sys2Proof.Machine

open Sys2Proof Sys2Proof.Machine

/-- Settles O2: each word encodes as its row says and executes as a word that only computes, with the row's result. -/
theorem immediateWordsRetireWithTheirResults : Obligations.ImmediateWordsRetireWithTheirResults :=
  ⟨fun e he xd xa imm s => ⟨encode_immWord e he xd xa imm, State.cExec_retired (exec_immWord e he xd xa imm s)⟩,
    fun xd imm s => State.cExec_retired (exec_lea xd imm s),
    fun xd xa xb sh s => State.cExec_retired (exec_addx xd xa xb sh s)⟩

/-- Refutes O58: C's store to a byte that a near-bank row step has read still pends when `add` pushes QCL; it takes place then, and the row step's granule, which
comes before it (R315), leaves the granules that wait: of the near-bank state something changes. -/
theorem not_registerWordsKeepTheRest : ¬ Obligations.RegisterWordsKeepTheRest := by
  intro h
  obtain ⟨-, -, -, -, -, -, -, -, -, -, -, -, hnb, -⟩ := h 24 0 0 0 0 storeAtGranule _ storeAtGranule_quiet (.add 24 0 0) (List.mem_cons_self ..) exec_add_storeAtGranule
  have hwrites := congrArg NearBank.writes hnb
  rw [writes_after_push] at hwrites
  exact absurd hwrites (by decide)
end

section
/-! C's loads, stores, branches and jumps (R101 to R104, R108, R109): what the words encode as, and each where its access takes place. -/

namespace Sys2Proof.Machine

open Sys2Proof.Claims

/-! ### What the caches leave alone -/

section
variable {s t : State}

theorem State.Cached.time (h : s.Cached t) : t.time = s.time := by
  obtain ⟨_, _, _, _, _, _, _, _, _, _, _, _, _, _, _, _, _, rfl⟩ := h
  rfl
theorem State.Cached.region (h : s.Cached t) (a : Nat) : t.region a = s.region a := by
  obtain ⟨_, _, _, _, _, _, _, _, _, _, _, _, _, _, _, _, _, rfl⟩ := h
  rfl
theorem State.Cached.store (h : s.Cached t) : t.core.c.store = s.core.c.store := by
  obtain ⟨w, e⟩ := h.c
  rw [e]
theorem State.Cached.pc (h : s.Cached t) : t.core.c.pc = s.core.c.pc := by
  obtain ⟨w, e⟩ := h.c
  rw [e]

theorem State.cEvent_time (va : Word64) (h : s.Quiet) : (s.cEvent va).time = s.time :=
  (State.cEvent_cached va h).time.trans s.flushStore_time
theorem State.cEvent_pc4 (va : Word64) (h : s.Quiet) : (s.cEvent va).pc4 = s.core.c.pc + 4 := by
  rw [State.pc4, State.cEvent_pc va h]

end

/-- A size that divides the address: the access is not misaligned (R102). -/
theorem misaligned_of_mod {ea : Word64} {n : Nat} (h : ea.toNat % n = 0) : misaligned ea n = false := by
  rw [misaligned, h]
  rfl
theorem misaligned_of_mod_ne {ea : Word64} {n : Nat} (h : ea.toNat % n ≠ 0) : misaligned ea n = true := by
  rw [misaligned, bne_iff_ne]
  exact h

/-! ### Loads -/

theorem encode_loadWord : ∀ e ∈ loadWords, ∀ (xd xa : XReg) (off : BitVec 12), encode (e.2.1 xd xa off) = some (.c (cm 0x30 xd xa e.1 off)) := by
  simp only [loadWords, List.forall_mem_cons, List.not_mem_nil, false_implies, implies_true, and_true]
  and_intros <;> intros <;> rfl

/-- Each load is `cLoad` of its size, and widens its datum as the table says. -/
theorem exec_loadWord : ∀ e ∈ loadWords, ∃ signed, (∀ v, loadVal e.2.2.1 signed v = e.2.2.2 v) ∧
    ∀ (xd xa : XReg) (off : BitVec 12) (s : State), exec (e.2.1 xd xa off) s = .next (s.cLoad xd xa off e.2.2.1 signed) := by
  simp only [loadWords, List.forall_mem_cons, List.not_mem_nil, false_implies, implies_true, and_true]
  refine ⟨⟨true, ?_⟩, ⟨true, ?_⟩, ⟨true, ?_⟩, ⟨false, ?_⟩, ⟨false, ?_⟩, ⟨false, ?_⟩, ⟨false, ?_⟩⟩
  all_goals exact ⟨fun _ => rfl, fun _ _ _ _ => rfl⟩

section
variable {s u : State} {xd xa : XReg} {off : BitVec 12} {n pa : Nat}

theorem State.cLoad_of_accesses (signed : Bool) (hr : s.cReady [xa] xd = true)
    (h : Accesses s u (s.xRead xa + off.signExtend 64) n .rd true false pa) :
    s.cLoad xd xa off n signed = (u.l1Hit pa).cRetire [xa] xd (loadVal n signed (u.rdNat pa n)) u.pc4 := by
  obtain ⟨hal, rfl, hx, hh⟩ := h
  unfold State.cLoad State.cmEa sext
  simp only [hr, misaligned_of_mod hal, hx, hh, Bool.not_true, cond_false]

theorem State.cLoad_retired (signed : Bool) (hq : s.Quiet) (hr : s.cReady [xa] xd = true)
    (h : Accesses s u (s.xRead xa + off.signExtend 64) n .rd true false pa) :
    Retired (u.l1Hit pa) (s.cLoad xd xa off n signed) [xa] xd (loadVal n signed (u.rdNat pa n)) (s.core.c.pc + 4) ∧
      ∀ a, (s.cLoad xd xa off n signed).rd8 a = s.flushStore.rd8 a := by
  rw [State.cLoad_of_accesses signed hr h]
  obtain ⟨-, rfl, -, -⟩ := h
  have hl := State.l1Hit_cached pa (hq.cEvent (s.xRead xa + off.signExtend 64))
  have hret := State.cRetire_retired [xa] xd (loadVal n signed ((s.cEvent (s.xRead xa + off.signExtend 64)).rdNat pa n))
    (s.cEvent (s.xRead xa + off.signExtend 64)).pc4 (hl.quiet (hq.cEvent _))
  rw [← State.cEvent_pc4 (s.xRead xa + off.signExtend 64) hq]
  exact ⟨hret, fun a => (hret.rd8 (hl.store.trans (State.cEvent_store _ hq)) a).trans ((hl.rd8 a).trans (State.cEvent_rd8 _ a hq))⟩

end

/-! ### Stores -/

theorem encode_storeWord : ∀ e ∈ storeWords, ∀ (xd xa : XReg) (off : BitVec 12), encode (e.2.1 xd xa off) = some (.c (cm 0x31 xd xa e.1 off)) := by
  simp only [storeWords, List.forall_mem_cons, List.not_mem_nil, false_implies, implies_true, and_true]
  and_intros <;> intros <;> rfl

theorem exec_storeWord : ∀ e ∈ storeWords, ∀ (xd xa : XReg) (off : BitVec 12) (s : State),
    exec (e.2.1 xd xa off) s = .next (s.cStoreOp xd xa off e.2.2) := by
  simp only [storeWords, List.forall_mem_cons, List.not_mem_nil, false_implies, implies_true, and_true]
  and_intros <;> intros <;> rfl

/-- A store to a line of this package pends (R310). -/
theorem State.putStore_local {s : State} {pa : Nat} (bs : List Byte) (h : ∀ k, s.region pa ≠ .remote k) :
    s.putStore pa bs = s.setC { s.core.c with store := some ⟨pa, bs, s.time⟩ } := by
  unfold State.putStore
  split
  case h_1 k hk => exact absurd hk (h k)
  case h_2 => rfl

section
variable {s u : State} {xd xa : XReg} {off : BitVec 12} {n pa : Nat}

theorem State.cStoreOp_of_accesses (hr : s.cReady [xa, xd] 0 = true)
    (h : Accesses s u (s.xRead xa + off.signExtend 64) n .wr false true pa) :
    s.cStoreOp xd xa off n = ((u.l2Own pa).putStore pa (leBytes n (s.xRead xd).toNat)).cRetire [xa, xd] 0 0 u.pc4 := by
  obtain ⟨hal, rfl, hx, hh⟩ := h
  unfold State.cStoreOp State.cmEa sext
  simp only [hr, misaligned_of_mod hal, hx, Bool.not_true, cond_false]
  rw [show State.holdsAt _ 0 false pa = false from hh, cond_false]

theorem State.cStoreOp_retired (hq : s.Quiet) (hr : s.cReady [xa, xd] 0 = true)
    (h : Accesses s u (s.xRead xa + off.signExtend 64) n .wr false true pa) (hloc : ∀ k, u.region pa ≠ .remote k) :
    Retired ((u.l2Own pa).setC { (u.l2Own pa).core.c with store := some ⟨pa, leBytes n (s.xRead xd).toNat, s.time⟩ }) (s.cStoreOp xd xa off n)
        [xa, xd] 0 0 (s.core.c.pc + 4) ∧
      ∀ a, (s.cStoreOp xd xa off n).rd8 a = s.flushStore.rd8 a := by
  rw [State.cStoreOp_of_accesses hr h]
  obtain ⟨-, rfl, -, -⟩ := h
  have ho := State.l2Own_cached pa (hq.cEvent (s.xRead xa + off.signExtend 64))
  rw [State.putStore_local _ fun k => (ho.region pa).symm ▸ hloc k, ho.time, State.cEvent_time _ hq, ← State.cEvent_pc4 (s.xRead xa + off.signExtend 64) hq]
  have hret := State.cRetire_retired [xa, xd] 0 0 (s.cEvent (s.xRead xa + off.signExtend 64)).pc4
    (s := ((s.cEvent (s.xRead xa + off.signExtend 64)).l2Own pa).setC
      { ((s.cEvent (s.xRead xa + off.signExtend 64)).l2Own pa).core.c with store := some ⟨pa, leBytes n (s.xRead xd).toNat, s.time⟩ })
    (ho.quiet (hq.cEvent _))
  exact ⟨hret, fun a => (hret.rd8_of_placedFor (State.placedFor_zero _) a).trans ((ho.rd8 a).trans (State.cEvent_rd8 _ a hq))⟩

end

/-! ### Branches and jumps -/

theorem encode_branchWord : ∀ e ∈ branchWords, ∀ (xd xa : XReg) (imm : BitVec 15), encode (e.2.1 xd xa imm) = some (.c (ci e.1 xd xa imm)) := by
  simp only [branchWords, List.forall_mem_cons, List.not_mem_nil, false_implies, implies_true, and_true]
  and_intros <;> intros <;> rfl

theorem not_slt_eq (a b : Word64) : (!a.slt b) = decide (b.toInt ≤ a.toInt) := by
  rw [BitVec.slt, ← decide_not, decide_eq_decide, Int.not_lt]
theorem not_ult_eq (a b : Word64) : (!a.ult b) = decide (b.toNat ≤ a.toNat) := by
  rw [BitVec.ult, ← decide_not, decide_eq_decide, Nat.not_lt]
theorem bne_eq_decide_ne (a b : Word64) : (a != b) = decide (a ≠ b) := by
  rw [bne, beq_eq_decide, decide_not]

/-- Each branch compares its two sources as the table says. -/
theorem exec_branchWord : ∀ e ∈ branchWords, ∀ (xd xa : XReg) (imm : BitVec 15) (s : State),
    exec (e.2.1 xd xa imm) s = s.cBranch xd xa imm (e.2.2 (s.xRead xd) (s.xRead xa)) := by
  simp only [branchWords, List.forall_mem_cons, List.not_mem_nil, false_implies, implies_true, and_true, ← not_slt_eq, ← not_ult_eq, ← beq_eq_decide,
    ← bne_eq_decide_ne]
  and_intros <;> intros <;> rfl

theorem branchTarget_eq (pc : Word64) (imm : BitVec 15) : branchTarget pc imm = pc + 4 * imm.signExtend 64 := leaVal_eq pc imm

theorem State.cBranch_retired {s : State} {xd xa : XReg} (imm : BitVec 15) (taken : Bool) (hq : s.Quiet) (hr : s.cReady [xa, xd] 0 = true) :
    ∃ t, s.cBranch xd xa imm taken = .next t ∧
      Retired s t [xa, xd] 0 0 (if taken = true then s.core.c.pc + 4 * imm.signExtend 64 else s.core.c.pc + 4) := by
  rw [State.cBranch, hr, cond_true, ← branchTarget_eq, ← Bool.cond_eq_ite]
  exact ⟨_, rfl, State.cRetire_retired _ _ _ _ hq⟩

section
variable {s : State} {xd xa : XReg} {imm : BitVec 15}

theorem exec_jalr_aligned (hr : s.cReady [xa] xd = true) (h : (s.xRead xa + imm.signExtend 64).toNat % 4 = 0) :
    exec (.jalr xd xa imm) s = .next (s.cRetire [xa] xd s.pc4 (s.xRead xa + imm.signExtend 64)) := by
  have hm : misaligned (s.xRead xa + sext imm) 4 = false := misaligned_of_mod h
  rw [show exec (.jalr xd xa imm) s = execJalr xd xa imm s from rfl, execJalr]
  simp only [hr, hm, Bool.not_true, cond_false]
  rfl

theorem exec_jalr_misaligned (hr : s.cReady [xa] xd = true) (h : (s.xRead xa + imm.signExtend 64).toNat % 4 ≠ 0) :
    exec (.jalr xd xa imm) s = .next (s.cRaise 0x05 (s.xRead xa + imm.signExtend 64)) := by
  have hm : misaligned (s.xRead xa + sext imm) 4 = true := misaligned_of_mod_ne h
  rw [show exec (.jalr xd xa imm) s = execJalr xd xa imm s from rfl, execJalr]
  simp only [hr, hm, Bool.not_true, cond_false, cond_true]
  rfl

end

end Sys2Proof.Machine

open Sys2Proof Sys2Proof.Machine

/-- Settles O3: a load whose access takes place retires, from the machine whose caches have served it, with its datum widened. -/
theorem loadsReturnTheirDatum : Obligations.LoadsReturnTheirDatum := by
  intro e he xd xa off s u pa
  refine ⟨encode_loadWord e he xd xa off, fun hq hr hacc => ?_⟩
  obtain ⟨signed, hval, hexec⟩ := exec_loadWord e he
  rw [← hval]
  exact ⟨_, hexec xd xa off s, State.cLoad_retired signed hq hr hacc⟩

/-- Settles O4: a store whose access takes place retires with its bytes in the store buffer; the store before it has been placed by the access. -/
theorem storesRetireWithTheirBytes : Obligations.StoresRetireWithTheirBytes := by
  intro e he xd xa off s u pa
  refine ⟨encode_storeWord e he xd xa off, fun hq hr hacc hloc => ?_⟩
  exact ⟨_, exec_storeWord e he xd xa off s, State.cStoreOp_retired hq hr hacc hloc⟩

/-- Settles O5: a branch retires with no destination at the PC that its comparison chooses; `jal` and an aligned `jalr` retire with the link, and a misaligned
`jalr` raises before it writes. -/
theorem branchesAndJumpsGo : Obligations.BranchesAndJumpsGo := by
  refine ⟨fun e he xd xa imm s => ⟨encode_branchWord e he xd xa imm, fun hq hr => ?_⟩, fun off s hq => ?_, fun xd xa imm s hq hr => ⟨fun h => ?_, exec_jalr_misaligned hr⟩⟩
  · rw [exec_branchWord e he]
    exact State.cBranch_retired imm _ hq hr
  · rw [exec_jal, show sext off * 4 = 4 * off.signExtend 64 from BitVec.mul_comm _ _]
    exact ⟨_, rfl, State.cRetire_retired _ _ _ _ hq⟩
  · exact ⟨_, exec_jalr_aligned hr h, State.cRetire_retired _ _ _ _ hq⟩
end

section
/-! C's atomics (R105 to R107) and its CSR words (R112 to R115, R117, R118). -/

namespace Sys2Proof.Machine

open Sys2Proof.Claims

/-! ### One atomic: it exchanges memory with its result, or it is posted -/

section
variable {s u : State} {xd xa xb xc : XReg} {n pa : Nat} {red : Option (RedOp × BitVec 4)} {f : Nat → FRes} {out : Nat → Word64}

/-- An atomic that is not posted reads, writes and counts as one event (R105). -/
theorem State.cAmo_of_accesses (hr : s.cReady [xa, xb, xc] xd = true) (h : Accesses s u (s.xRead xa) n .rdwr true true pa)
    (hred : (red.isSome && xd == 0 && u.inWindow (s.xRead xa)) = false) :
    s.cAmo xd xa xb xc n red f out =
      (((u.l2Hit pa).store pa (leBytes n (f (found u pa n)).bits) u.me true).fpCount (f (found u pa n)).ev).cRetire [xa, xb, xc] xd
        (out (found u pa n)) u.pc4 := by
  obtain ⟨hal, rfl, hx, hh⟩ := h
  unfold State.cAmo
  simp only [hr, misaligned_of_mod hal, hx, hred, State.amoWaits, hh, Bool.not_true, cond_false]
  cases red with
  | none => rfl
  | some r =>
    rw [Option.isSome_some, Bool.true_and] at hred
    simp only [hred, cond_false]
    rfl

/-- An atomic to x0 in the reduction window is posted (R107). -/
theorem State.cAmo_of_posts {op : RedOp} {fmt : BitVec 4} (hr : s.cReady [xa, xb, xc] 0 = true) (h : Posts s u (s.xRead xa) n pa)
    (hw : u.inWindow (s.xRead xa) = true) (hloc : localRegion (bits pa 42 0) = .hbm) :
    s.cAmo 0 xa xb xc n (some (op, fmt)) f out =
      (u.contribute pa (s.xRead xa) op fmt ((s.xRead xb).extractLsb' 0 32)).cRetire [xa, xb, xc] 0 0 u.pc4 := by
  obtain ⟨hal, rfl, hx, hflip, hvc⟩ := h
  unfold State.cAmo
  simp only [hr, misaligned_of_mod hal, hx, hw, State.amoWaits, hflip, hvc, hloc, Option.isSome_some, beq_self_eq_true, Bool.and_self, Bool.or_self,
    Bool.not_true, cond_false, cond_true]

theorem State.cAmo_retired (hq : s.Quiet) (hr : s.cReady [xa, xb, xc] xd = true) (h : Accesses s u (s.xRead xa) n .rdwr true true pa)
    (hred : (red.isSome && xd == 0 && u.inWindow (s.xRead xa)) = false) :
    Retired (((u.l2Hit pa).store pa (leBytes n (f (found u pa n)).bits) u.me true).fpCount (f (found u pa n)).ev)
      (s.cAmo xd xa xb xc n red f out) [xa, xb, xc] xd (out (found u pa n)) (s.core.c.pc + 4) := by
  rw [State.cAmo_of_accesses hr h hred]
  obtain ⟨-, rfl, -, -⟩ := h
  rw [← State.cEvent_pc4 (s.xRead xa) hq]
  exact State.cRetire_retired _ _ _ _ ((((State.l2Hit_cached pa (hq.cEvent _)).quiet (hq.cEvent _)).store _ _ _ _).fpCount _)

/-- An integer atomic counts no exception. -/
theorem State.cAmo_retired_exact (g : Nat → Nat) (hq : s.Quiet) (hr : s.cReady [xa, xb, xc] xd = true)
    (h : Accesses s u (s.xRead xa) n .rdwr true true pa) (hred : (red.isSome && xd == 0 && u.inWindow (s.xRead xa)) = false) :
    Retired ((u.l2Hit pa).store pa (leBytes n (g (found u pa n))) u.me true) (s.cAmo xd xa xb xc n red (fun old => ⟨g old, []⟩) out)
      [xa, xb, xc] xd (out (found u pa n)) (s.core.c.pc + 4) :=
  State.cAmo_retired (f := fun old => ⟨g old, []⟩) hq hr h hred

theorem State.cAmo_posted {op : RedOp} {fmt : BitVec 4} (hq : s.Quiet) (hr : s.cReady [xa, xb, xc] 0 = true) (h : Posts s u (s.xRead xa) n pa)
    (hw : u.inWindow (s.xRead xa) = true) (hloc : localRegion (bits pa 42 0) = .hbm) :
    Retired (u.contribute pa (s.xRead xa) op fmt ((s.xRead xb).extractLsb' 0 32)) (s.cAmo 0 xa xb xc n (some (op, fmt)) f out) [xa, xb, xc] 0 0
      (s.core.c.pc + 4) := by
  rw [State.cAmo_of_posts hr h hw hloc]
  obtain ⟨-, rfl, -⟩ := h
  rw [← State.cEvent_pc4 (s.xRead xa) hq]
  exact State.cRetire_retired (s := (s.cEvent (s.xRead xa)).contribute pa (s.xRead xa) op fmt ((s.xRead xb).extractLsb' 0 32)) _ _ _ _ (hq.cEvent _)

end

/-! ### The operations of majors 0x48 -/

/-- The operation of a number (R105). -/
def amoOpOf : Nat → AmoOp
  | 0 => .add
  | 1 => .and
  | 2 => .or
  | 3 => .xor
  | 4 => .min
  | 5 => .max
  | 6 => .swap
  | _ => .cas

/-- The operation with the number computes the table's new value. -/
theorem amoNew_amoOpOf (k : Nat) {n : Nat} (old b c : BitVec n) : amoNew (amoOpOf k) old b c = amoValue k old b c := by
  unfold amoOpOf amoValue
  split
  case h_5 | h_6 => simp only [amoNew, BitVec.slt, Bool.cond_decide]
  case h_8 => simp only [amoNew, Bool.cond_eq_ite, beq_iff_eq]
  all_goals rfl

/-- The reduction that a word atomic is when it is posted (R107). -/
def redOf (k : Nat) : Option (RedOp × BitVec 4) :=
  match amoOpOf k with
  | .add => some (.add, 3)
  | .min => some (.min, 3)
  | .max => some (.max, 3)
  | _ => none

theorem State.amo64_eq (s : State) (op : AmoOp) (xd xa xb xc : XReg) :
    s.amo64 op xd xa xb xc = s.cAmo xd xa xb xc 8 none
      (fun old => ⟨(amoNew op (BitVec.ofNat 64 old) (s.xRead xb) (s.xRead xc)).toNat, []⟩) (fun old => BitVec.ofNat 64 old) := rfl

theorem State.amo32_amoOpOf (s : State) (k : Nat) (xd xa xb xc : XReg) :
    s.amo32 (amoOpOf k) xd xa xb xc = s.cAmo xd xa xb xc 4 (redOf k)
      (fun old => ⟨(amoNew (amoOpOf k) (BitVec.ofNat 32 old) ((s.xRead xb).extractLsb' 0 32) ((s.xRead xc).extractLsb' 0 32)).toNat, []⟩)
      (fun old => sext (BitVec.ofNat 32 old)) := rfl

theorem encode_amo64Word : ∀ e ∈ amo64Words, ∀ xd xa xb xc : XReg, (e.1 ≠ 7 → xc = 0) →
    encode (e.2 xd xa xb xc) = some (.c (cr 0x48 xd xa xb xc (BitVec.ofNat 5 e.1))) := by
  simp only [amo64Words, List.forall_mem_cons, List.not_mem_nil, false_implies, implies_true, and_true]
  refine ⟨?_, ?_, ?_, ?_, ?_, ?_, ?_, fun xd xa xb xc _ => rfl⟩
  all_goals
    intro xd xa xb xc hc
    obtain rfl := hc (by decide)
    rfl

theorem encode_amo32Word : ∀ e ∈ amo32Words, ∀ xd xa xb xc : XReg, (e.1 ≠ 7 → xc = 0) →
    encode (e.2 xd xa xb xc) = some (.c (cr 0x48 xd xa xb xc (BitVec.ofNat 5 (16 + e.1)))) := by
  simp only [amo32Words, List.forall_mem_cons, List.not_mem_nil, false_implies, implies_true, and_true]
  refine ⟨?_, ?_, ?_, ?_, ?_, ?_, ?_, fun xd xa xb xc _ => rfl⟩
  all_goals
    intro xd xa xb xc hc
    obtain rfl := hc (by decide)
    rfl

theorem exec_amo64Word : ∀ e ∈ amo64Words, ∀ (xd xa xb xc : XReg) (s : State), (e.1 ≠ 7 → xc = 0) →
    exec (e.2 xd xa xb xc) s = .next (s.amo64 (amoOpOf e.1) xd xa xb xc) := by
  simp only [amo64Words, List.forall_mem_cons, List.not_mem_nil, false_implies, implies_true, and_true]
  refine ⟨?_, ?_, ?_, ?_, ?_, ?_, ?_, fun xd xa xb xc s _ => rfl⟩
  all_goals
    intro xd xa xb xc s hc
    obtain rfl := hc (by decide)
    rfl

theorem exec_amo32Word : ∀ e ∈ amo32Words, ∀ (xd xa xb xc : XReg) (s : State), (e.1 ≠ 7 → xc = 0) →
    exec (e.2 xd xa xb xc) s = .next (s.amo32 (amoOpOf e.1) xd xa xb xc) := by
  simp only [amo32Words, List.forall_mem_cons, List.not_mem_nil, false_implies, implies_true, and_true]
  refine ⟨?_, ?_, ?_, ?_, ?_, ?_, ?_, fun xd xa xb xc s _ => rfl⟩
  all_goals
    intro xd xa xb xc s hc
    obtain rfl := hc (by decide)
    rfl

/-- `amo.add`, `amo.min` and `amo.max` of words alone may be posted (R107). -/
theorem redOf_eq : ∀ e ∈ amo32Words, redOf e.1 =
    if e.1 ∈ [0, 4, 5] then some (if e.1 = 0 then .add else if e.1 = 4 then .min else .max, 3) else none := by
  simp only [amo32Words, List.forall_mem_cons, List.not_mem_nil, false_implies, implies_true, and_true]
  and_intros <;> rfl

theorem dwordAtomicsExchange : DwordAtomicsExchange := by
  intro e he xd xa xb xc s u pa hc
  refine ⟨encode_amo64Word e he xd xa xb xc hc, fun hq hr hacc => ⟨_, exec_amo64Word e he xd xa xb xc s hc, ?_⟩⟩
  rw [← amoNew_amoOpOf, State.amo64_eq]
  exact State.cAmo_retired_exact (out := fun old => BitVec.ofNat 64 old)
    (fun old => (amoNew (amoOpOf e.1) (BitVec.ofNat 64 old) (s.xRead xb) (s.xRead xc)).toNat) hq hr hacc rfl

theorem wordAtomicsExchangeOrPost : WordAtomicsExchangeOrPost := by
  intro e he xd xa xb xc s u pa hc
  refine ⟨encode_amo32Word e he xd xa xb xc hc, fun hq hr => ⟨fun hacc hno => ?_, fun hpost hyes hloc => ?_⟩⟩
  · refine ⟨_, exec_amo32Word e he xd xa xb xc s hc, ?_⟩
    rw [State.amo32_amoOpOf, ← amoNew_amoOpOf]
    refine State.cAmo_retired_exact (out := fun old => sext (BitVec.ofNat 32 old))
      (fun old => (amoNew (amoOpOf e.1) (BitVec.ofNat 32 old) ((s.xRead xb).extractLsb' 0 32) ((s.xRead xc).extractLsb' 0 32)).toNat) hq hr hacc ?_
    rw [redOf_eq e he]
    by_cases hm : e.1 ∈ [0, 4, 5]
    · rw [if_pos hm, Option.isSome_some, Bool.true_and, ← Bool.not_eq_true, Bool.and_eq_true, beq_iff_eq]
      exact fun h => hno ⟨hm, h⟩
    · rw [if_neg hm]
      rfl
  · obtain ⟨hm, rfl, hw⟩ := hyes
    refine ⟨_, exec_amo32Word e he 0 xa xb xc s hc, ?_⟩
    rw [State.amo32_amoOpOf, redOf_eq e he, if_pos hm]
    exact State.cAmo_posted hq hr hpost hw hloc

section
variable {s u : State} {xd xa xb : XReg} {n pa : Nat} {fmt : FFmt} (code : BitVec 4)

theorem State.amoF_retired (hn : fmt.w = 8 * n) (hq : s.Quiet) (hr : s.cReady [xa, xb, 0] xd = true)
    (hacc : Accesses s u (s.xRead xa) n .rdwr true true pa) (hno : ¬ (xd = 0 ∧ u.inWindow (s.xRead xa) = true)) :
    Retired (((u.l2Hit pa).store pa (leBytes n (fmt.sum .rne (found u pa n) ((s.xRead xb).toNat % 2 ^ (8 * n))).bits) u.me true).fpCount
        (fmt.sum .rne (found u pa n) ((s.xRead xb).toNat % 2 ^ (8 * n))).ev)
      (s.amoF fmt code xd xa xb) [xa, xb, 0] xd (BitVec.ofNat 64 (found u pa n)) (s.core.c.pc + 4) := by
  have hdiv : fmt.w / 8 = n := by omega
  rw [State.amoF, hdiv, ← hn]
  refine State.cAmo_retired (f := fun old => fmt.sum .rne old ((s.xRead xb).toNat % 2 ^ fmt.w)) (out := fun old => BitVec.ofNat 64 old) hq hr hacc ?_
  rw [Option.isSome_some, Bool.true_and, ← Bool.not_eq_true, Bool.and_eq_true, beq_iff_eq]
  exact hno

theorem State.amoF_posted (hn : fmt.w = 8 * n) (hq : s.Quiet) (hr : s.cReady [xa, xb, 0] 0 = true) (hpost : Posts s u (s.xRead xa) n pa)
    (hw : u.inWindow (s.xRead xa) = true) (hloc : localRegion (bits pa 42 0) = .hbm) :
    Retired (u.contribute pa (s.xRead xa) .add code ((s.xRead xb).extractLsb' 0 32)) (s.amoF fmt code 0 xa xb) [xa, xb, 0] 0 0 (s.core.c.pc + 4) := by
  have hdiv : fmt.w / 8 = n := by omega
  rw [State.amoF, hdiv]
  exact State.cAmo_posted hq hr hpost hw hloc

end

theorem floatAtomicsAddOrPost : FloatAtomicsAddOrPost := by
  intro e he xd xa xb s u pa
  simp only [List.mem_cons, List.not_mem_nil, or_false] at he
  obtain rfl | rfl := he
  · refine ⟨rfl, fun hq hr => ⟨fun hacc hno => ⟨_, rfl, State.amoF_retired 0 rfl hq hr hacc hno⟩, ?_⟩⟩
    rintro hpost rfl hw hloc
    exact ⟨_, rfl, State.amoF_posted 0 rfl hq hr hpost hw hloc⟩
  · refine ⟨rfl, fun hq hr => ⟨fun hacc hno => ⟨_, rfl, State.amoF_retired 1 rfl hq hr hacc hno⟩, ?_⟩⟩
    rintro hpost rfl hw hloc
    exact ⟨_, rfl, State.amoF_posted 1 rfl hq hr hpost hw hloc⟩

end Sys2Proof.Machine
open Sys2Proof Sys2Proof.Machine

/-- Settles O6: an atomic whose access takes place is one event of read, write and count; one to x0 in the window is posted; the operations are the table's. -/
theorem atomicsExchangeOrPost : Obligations.AtomicsExchangeOrPost :=
  ⟨dwordAtomicsExchange, wordAtomicsExchangeOrPost, floatAtomicsAddOrPost⟩
end

section
/-! C's CSR words (R112 to R115), the words that supervisor mode alone may run (R117, R118), and a failing access of a core that sleeps. -/

namespace Sys2Proof.Machine

open Sys2Proof.Claims

/-! ### CSR words -/

/-- What holds of both branches of a `bif` holds of it. -/
theorem cond_induction {α : Type} {P : α → Prop} {b : Bool} {x y : α} (hx : b = true → P x) (hy : b = false → P y) : P (bif b then x else y) := by
  cases b with
  | true => exact hx rfl
  | false => exact hy rfl

/-- Two machines that differ in the trap registers that a CSR word may write, the core's CSRs and the counters alone. -/
def CsrsNear (s t : State) : Prop :=
  ∃ pm pend tepc tvec x p, t = { s with core := { s.core with
    trap := { s.core.trap with pm := pm, pend := pend, tepc := tepc, tvec := tvec }, csr := x, perf := p } }

/-- A write to a CSR changes those and nothing else (R112). -/
theorem State.writeCsr_near (s : State) (n : BitVec 12) (v : Word64) : CsrsNear s (s.writeCsr n v) := by
  unfold State.writeCsr
  dsimp only
  iterate 8 refine iteInduction (fun _ => ⟨_, _, _, _, _, _, rfl⟩) fun _ => ?_
  refine iteInduction (fun _ => cond_induction (fun _ => ⟨_, _, _, _, _, _, rfl⟩) fun _ => ⟨_, _, _, _, _, _, rfl⟩) fun _ => ?_
  iterate 2 refine iteInduction (fun _ => ⟨_, _, _, _, _, _, rfl⟩) fun _ => ?_
  exact ⟨_, _, _, _, _, _, rfl⟩

theorem State.writeCsr_quiet {s : State} (n : BitVec 12) (v : Word64) (h : s.Quiet) : (s.writeCsr n v).Quiet := by
  obtain ⟨_, _, _, _, _, _, e⟩ := s.writeCsr_near n v
  rw [e]
  exact h

theorem State.writeCsr_c (s : State) (n : BitVec 12) (v : Word64) : (s.writeCsr n v).core.c = s.core.c := by
  obtain ⟨_, _, _, _, _, _, e⟩ := s.writeCsr_near n v
  rw [e]

section
variable {s : State} {n : BitVec 12} {v : Word64}

/-- A CSR word that reads TSTAMP reads the time, out of record and of replay (R115). -/
theorem State.csrValue_quiet (hq : s.Quiet) (hrep : (s.part s.myPart).repMode ≠ 2) :
    s.csrValue n = (s, if n = 0x102 then BitVec.ofNat 64 s.tstamp else s.readCsr n) := by
  have hlive : ((s.part s.core.ctx.part).repMode == 2) = false := beq_eq_false_iff_ne.mpr hrep
  rw [State.csrValue, Bool.cond_eq_ite]
  simp only [beq_iff_eq]
  split
  · rw [State.replayed]
    dsimp only
    rw [hlive, cond_false, State.record_quiet _ _ _ _ _ (hq _)]
  · rfl

theorem State.csrOp_allowed {i : Instr} {xd : XReg} {srcs : List XReg} {f : Option (Word64 → Word64)} (hm : s.sup = true ∨ csrPriv n = false)
    (hr : s.cReady srcs xd = true) (hv : s.csrValue n = (s, v)) :
    s.csrOp i n xd srcs f =
      (match f with | some f => (if s.sup = true ∨ n = 0x010 then s.writeCsr n (f v) else s) | none => s).cRetire srcs xd v s.pc4 := by
  have hmode : (!s.sup && csrPriv n) = false := by
    obtain h | h := hm <;> simp [h]
  rw [State.csrOp, hmode, hr, hv]
  simp only [Bool.not_true, cond_false]
  cases f with
  | none => rfl
  | some f =>
    have hwr : (s.sup || csrTaskWrites n) = decide (s.sup = true ∨ n = 0x010) := by
      rw [csrTaskWrites, beq_eq_decide, Bool.decide_or, Bool.decide_eq_true]
    have hpc : (if s.sup = true ∨ n = 0x010 then s.writeCsr n (f v) else s).pc4 = s.pc4 :=
      iteInduction (motive := fun t => State.pc4 t = s.pc4) (fun _ => by rw [State.pc4, State.writeCsr_c, State.pc4]) fun _ => rfl
    dsimp only
    rw [hwr, Bool.cond_decide, hpc]

end

/-- A CSR word of a mode that may name the CSR returns the old value and leaves what it wrote. -/
theorem State.csrOp_returns {s : State} {n : BitVec 12} (i : Instr) (xd : XReg) (srcs : List XReg) (f : Option (Word64 → Word64)) (hq : s.Quiet)
    (hrep : (s.part s.myPart).repMode ≠ 2) (hm : s.sup = true ∨ csrPriv n = false) (hr : s.cReady srcs xd = true) {b : State}
    (hb : b = match f with
      | some f => if s.sup = true ∨ n = 0x010 then s.writeCsr n (f (if n = 0x102 then BitVec.ofNat 64 s.tstamp else s.readCsr n)) else s
      | none => s) :
    Retired b (s.csrOp i n xd srcs f) srcs xd (if n = 0x102 then BitVec.ofNat 64 s.tstamp else s.readCsr n) (s.core.c.pc + 4) := by
  rw [State.csrOp_allowed hm hr (State.csrValue_quiet hq hrep)]
  have hbq : b.Quiet := by
    rw [hb]
    split
    · split
      · exact State.writeCsr_quiet _ _ hq
      · exact hq
    · exact hq
  rw [← hb]
  exact State.cRetire_retired _ _ _ _ hbq

/-! ### Words of the supervisor -/

theorem State.csrOp_task {s : State} {i : Instr} {n : BitVec 12} {xd : XReg} {srcs : List XReg} {f : Option (Word64 → Word64)} (hs : s.sup = false)
    (hn : csrPriv n = true) : s.csrOp i n xd srcs f = s.cRaise 0x02 (cWordOf i) := by
  rw [State.csrOp, hs, hn]
  rfl

theorem State.privileged_task {s : State} (i : Instr) (f : State → State) (hs : s.sup = false) : s.privileged i f = s.cRaise 0x02 (cWordOf i) := by
  rw [State.privileged, hs, cond_false]
theorem State.privileged_sup {s : State} (i : Instr) (f : State → State) (hs : s.sup = true) : s.privileged i f = f s := by
  rw [State.privileged, hs, cond_true]

/-! ### A failing access of a core that sleeps in mwait -/

/-- C sleeps in `mwait`, no trap is under way, and no store pends. -/
def asleepInMwait : State := { State.reset with core := { Core.reset with c := { CStrand.idle with run := .mwait 5 none } } }

/-- Its `mwait` returns 4 before the trap of a misaligned load, which then has the word after it as the one to go on at (R298). -/
theorem tepc_of_misaligned_asleep (t : State) (h : exec (.ldI16 5 0 1) asleepInMwait = .next t) : t.core.trap.tepc = 4 := by
  have hval : (match exec (.ldI16 5 0 1) asleepInMwait with | .next t => t.core.trap.tepc | _ => 0) = 4 := by decide +kernel
  rw [h] at hval
  exact hval

end Sys2Proof.Machine

open Sys2Proof Sys2Proof.Machine

/-- Settles O15: a CSR word reads and writes as `readCsr` and `writeCsr` say, and retires from what it wrote. -/
theorem csrWordsReadAndWrite : Obligations.CsrWordsReadAndWrite := by
  intro xd xa n s hq hrep hm old wr
  exact ⟨fun hr => ⟨_, rfl, State.csrOp_returns _ _ _ none hq hrep hm hr rfl⟩,
    fun hr => ⟨⟨_, rfl, State.csrOp_returns _ _ _ (some fun _ => s.xRead xa) hq hrep hm hr rfl⟩,
      ⟨_, rfl, State.csrOp_returns _ _ _ (some fun old => old ||| s.xRead xa) hq hrep hm hr rfl⟩,
      ⟨_, rfl, State.csrOp_returns _ _ _ (some fun old => old &&& ~~~(s.xRead xa)) hq hrep hm hr rfl⟩⟩⟩

/-- Settles O16: in task mode the privilege check comes first and raises with the word. -/
theorem taskModeMayNotUsePrivilegedWords : Obligations.TaskModeMayNotUsePrivilegedWords := by
  intro xd xa n s hs
  refine ⟨fun hn => ⟨?_, ?_, ?_, ?_⟩, ?_, ?_⟩
  · exact congrArg Host.Outcome.next (State.csrOp_task hs hn)
  · exact congrArg Host.Outcome.next (State.csrOp_task hs hn)
  · exact congrArg Host.Outcome.next (State.csrOp_task hs hn)
  · exact congrArg Host.Outcome.next (State.csrOp_task hs hn)
  · exact congrArg Host.Outcome.next (State.privileged_task _ _ hs)
  · exact congrArg Host.Outcome.next (State.privileged_task _ _ hs)

/-- Refutes O59: the statement covers a core that sleeps in `mwait`; its `mwait` returns first (R298, log 75), so that TEPC is the word after it, and not the PC at
which the access failed. -/
theorem not_failingAccessesRaiseTheirCause : ¬ Obligations.FailingAccessesRaiseTheirCause := by
  intro h
  obtain ⟨hmis, -⟩ := h 5 0 0 0 1 asleepInMwait rfl rfl (.ldI16 5 0 1, 2, 0x06, .rd, [0], 5) (by simp [Claims.accessWords, Claims.loadWords]) (by decide)
  obtain ⟨t, ht, htrap, -⟩ := hmis (by decide)
  have htepc := tepc_of_misaligned_asleep t ht
  rw [htrap] at htepc
  exact absurd htepc (by decide)
end

section
/-! What package reset leaves (R6, R34, R37, R226, R332, R335, R352, R356, R359, R366, R371, R397, R401 to R403). -/

namespace Sys2Proof.Machine

/-- Every stack is as a stack at reset. -/
theorem mem_hbm_reset {x : Stack} (h : x ∈ State.reset.pkg.hbm) : x = Stack.reset := (Vector.mem_replicate.mp h).2

theorem lanes_reset (g : Fin 8) : (State.reset.core.lanes.get g).on = false := by
  rw [show State.reset.core.lanes.get g = ⟨false, 0, false⟩ from Vector.getElem_replicate ..]

theorem overflow_reset (d : Fin 4) : State.reset.pkg.overflow.get d = 64 * 2 ^ 20 := Vector.getElem_replicate ..

theorem shsize_reset (d : Fin 4) : State.reset.pkg.shsize.get d = 4 := Vector.getElem_replicate ..

theorem psel_reset (p : Fin 8) : Stack.reset.psel.get p = 512 := Vector.getElem_replicate ..

end Sys2Proof.Machine

open Sys2Proof Sys2Proof.Machine

/-- Settles O54: each table at reset holds one value in every entry, and the rest is read off the reset state. -/
theorem resetHoldsTheStatedValues : Obligations.ResetHoldsTheStatedValues := by
  refine ⟨rfl, rfl, ⟨rfl, rfl, rfl, rfl, rfl, rfl, rfl, rfl, rfl, rfl⟩, lanes_reset, ⟨rfl, rfl, rfl⟩, ⟨rfl, rfl, overflow_reset⟩, ?_, ?_, ?_⟩
  · intro x hx
    obtain rfl := mem_hbm_reset hx
    exact ⟨rfl, rfl, rfl, psel_reset⟩
  · intro d
    rw [shsize_reset]
    rfl
  · intro p
    rw [part_reset]
    exact ⟨rfl, rfl, rfl, rfl, rfl, rfl, rfl, rfl, rfl⟩
end

section
/-! C's system words (R116 to R121): software traps, returns, and the steps that leave the core by them (R41, R42, R362, R364, R365). -/

namespace Sys2Proof.Machine

open Sys2Proof.Claims

/-! ### What a record posted leaves of the partitions -/

/-- A function of a partition that a replacement of one partition keeps there reads everywhere as before. -/
theorem State.setPart_congr {β : Type} (g : Part → β) (s : State) (p q : BitVec 3) (x : Part) (h : g x = g (s.part p)) :
    g ((s.setPart p x).part q) = g (s.part q) := by
  by_cases e : q = p
  · subst e
    rw [State.part_setPart]
    exact h
  · rw [State.part_setPart_other s x e]

/-- A partition but for its replay buffer and the records that wait to be written. -/
def Part.atRest (x : Part) : Part := { x with repPos := 0, repFull := false, reps := [], posts := [] }

theorem State.record_atRest (s : State) (p q : BitVec 3) (t : Nat) (c : Word32) (k a d : Word64) :
    ((s.record p t c k a d).part q).atRest = (s.part q).atRest := by
  unfold State.record
  dsimp only
  simp only [Bool.cond_eq_ite]
  split
  · rfl
  · split
    · rw [State.msiRaw_part]
      exact State.setPart_congr Part.atRest _ _ _ _ rfl
    · refine (State.setPart_congr Part.atRest _ _ _ _ (by rfl)).trans ?_
      split
      · rw [State.unitWrite_part]
      · rfl

theorem State.msi_atRest (s : State) (p q : BitVec 3) (v : BitVec 2) (n c : Nat) : ((s.msi p v n c).part q).atRest = (s.part q).atRest := by
  unfold State.msi
  rw [Bool.cond_eq_ite]
  split
  · rfl
  · rw [State.record_atRest, State.msiRaw_part]

theorem State.postNext_atRest (s : State) (p q : BitVec 3) : ((s.postNext p).part q).atRest = (s.part q).atRest := by
  unfold State.postNext
  dsimp only
  simp only [Bool.cond_eq_ite]
  split
  · rfl
  · exact State.setPart_congr Part.atRest _ _ _ _ rfl
  · split
    · rfl
    · rw [State.unitWrite_part]
      exact State.setPart_congr Part.atRest _ _ _ _ rfl
  · split
    · exact State.setPart_congr Part.atRest _ _ _ _ rfl
    · split
      · rfl
      · rw [State.msi_atRest, State.unitWrite_part]
        exact State.setPart_congr Part.atRest _ _ _ _ rfl

theorem State.postNext_posted (s : State) (p q : BitVec 3) : ((s.postNext p).part q).posted = (s.part q).posted := by
  have h := congrArg Part.posted (s.postNext_atRest p q)
  exact h

/-- A record posted where the queue has room is the last of the records posted (R366). -/
theorem State.post_posted_room {s : State} {p : BitVec 3} (r : FaultRec) (h : s.fqRoom p = true) :
    ((s.post p r).part p).posted = { r with seq := (s.part p).seq, stamp := BitVec.ofNat 64 s.tstamp } :: (s.part p).posted := by
  have hroom := h
  rw [State.fqRoom, Bool.and_eq_true, Bool.and_eq_true, Option.isSome_iff_ne_none] at h
  obtain ⟨⟨hen, hbase⟩, -⟩ := h
  have hon : (!(s.part p).fqEn || (s.ctxPa p 0 (s.part p).fqBase).isNone) = false := by
    rw [hen, Option.isNone_eq_false_iff.mpr (Option.isSome_iff_ne_none.mpr hbase)]
    rfl
  unfold State.post
  dsimp only
  rw [hon, cond_false, hroom, cond_true, State.postNext_posted, State.part_setPart]

/-- A record for which there is no room is not posted (R367). -/
theorem State.post_posted_full {s : State} {p : BitVec 3} (r : FaultRec) (h : s.fqRoom p = false) (q : BitVec 3) :
    ((s.post p r).part q).posted = (s.part q).posted := by
  unfold State.post
  dsimp only
  rw [h, cond_false]
  refine cond_induction (P := fun t : State => (t.part q).posted = (s.part q).posted) (fun _ => rfl) fun _ => ?_
  rw [State.postNext_posted]
  exact State.setPart_congr Part.posted _ _ _ _ rfl

theorem State.post_ctx (s : State) (p : BitVec 3) (r : FaultRec) : (s.post p r).core.ctx = s.core.ctx := by
  obtain ⟨w, g, l, e⟩ := s.post_near p r
  rw [e]
theorem State.post_store (s : State) (p : BitVec 3) (r : FaultRec) : (s.post p r).core.c.store = s.core.c.store := by
  obtain ⟨w, g, l, e⟩ := s.post_near p r
  rw [e]

theorem State.flushStore_of_none {s : State} (h : s.core.c.store = none) : s.flushStore = s := by
  unfold State.flushStore
  rw [h]

/-! ### A step that leaves the core -/

theorem CoreLeft.near {s t : State} (h : CoreLeft s) (hn : Core.Near s.core t.core) : CoreLeft t := by
  obtain ⟨w, g, l, e⟩ := hn
  unfold CoreLeft
  rw [e]
  exact h

theorem State.offCore_left (s : State) : CoreLeft s.offCore := ⟨rfl, rfl, rfl, rfl, rfl, rfl⟩

theorem State.failStep_near (s : State) (p : BitVec 3) (id : StepId) : ∃ d, Core.Near { s.core with dbg := d } (s.failStep p id).core := by
  unfold State.failStep
  split
  · exact ⟨_, Core.Near.rfl' _⟩
  · exact ⟨s.core.dbg, State.post_near (s.setPart p _) _ _⟩

theorem State.failStep_left {s : State} (p : BitVec 3) (id : StepId) (h : CoreLeft s) : CoreLeft (s.failStep p id) := by
  obtain ⟨d, hd⟩ := s.failStep_near p id
  exact CoreLeft.near (s := s.setDbg d) h hd

theorem State.failStep_mode (s : State) (p : BitVec 3) (id : StepId) : (s.failStep p id).core.trap = s.core.trap := by
  obtain ⟨d, w, g, l, e⟩ := s.failStep_near p id
  rw [e]

section
variable {b : State} {id : StepId} {cast : CastOn} (faultPath : Bool)

theorem State.abandonStep_eq (hrun : b.core.ctx.running = some id) (hcast : b.core.ctx.cast = some cast) (hgang : id.gang = false) :
    b.abandonStep faultPath = bif decide (8 ≤ id.abandons + 1) || (faultPath && !id.rst) then
        b.offCore.failStep b.core.ctx.part { id with abandons := id.abandons + 1 }
      else b.offCore.setCtx { b.offCore.core.ctx with
        slots := ⟨{ id with abandons := id.abandons + 1 }, cast, b.core.ctx.part, b.core.ctx.vf, [], [], [], 0, true, .staging⟩ :: b.core.ctx.slots } := by
  unfold State.abandonStep
  rw [hrun, hcast]
  dsimp only
  rw [hgang, cond_false]

/-- However often it has been, an abandoned step is off the core, in task mode (R41, R362). -/
theorem State.abandonStep_left (hrun : b.core.ctx.running = some id) (hcast : b.core.ctx.cast = some cast) (hgang : id.gang = false) :
    CoreLeft (b.abandonStep faultPath) ∧ (b.abandonStep faultPath).core.trap.mode = false := by
  rw [State.abandonStep_eq faultPath hrun hcast hgang]
  refine cond_induction (P := fun t : State => CoreLeft t ∧ t.core.trap.mode = false) (fun _ => ?_) fun _ => ⟨b.offCore_left, rfl⟩
  refine ⟨State.failStep_left _ _ b.offCore_left, ?_⟩
  rw [State.failStep_mode]
  rfl

/-- A restartable step that has been abandoned fewer than seven times goes back to the first slot. -/
theorem State.abandonStep_rerun (hrun : b.core.ctx.running = some id) (hcast : b.core.ctx.cast = some cast) (hgang : id.gang = false)
    (hrst : id.rst = true) (hfew : id.abandons < 7) :
    b.abandonStep faultPath = b.offCore.setCtx { b.offCore.core.ctx with
      slots := ⟨{ id with abandons := id.abandons + 1 }, cast, b.core.ctx.part, b.core.ctx.vf, [], [], [], 0, true, .staging⟩ :: b.core.ctx.slots } := by
  have hmay : (decide (8 ≤ id.abandons + 1) || (faultPath && !id.rst)) = false := by
    rw [hrst, Bool.not_true, Bool.and_false, Bool.or_false, decide_eq_false_iff_not]
    omega
  rw [State.abandonStep_eq faultPath hrun hcast hgang, hmay, cond_false]

end

/-- A step that leaves with no store pending posts nothing. -/
theorem State.offCore_posted {b : State} (h : b.core.c.store = none) (q : BitVec 3) : (b.offCore.part q).posted = (b.part q).posted := by
  unfold State.offCore State.emptyCore
  dsimp only
  rw [State.flushStore_of_none (by exact h)]
  exact State.setPart_congr Part.posted _ _ _ _ rfl

/-- A record posted, and the step abandoned: what both of the supervisor's ways out of a step leave (R41, R120). -/
theorem State.postAbandon_left {s : State} {id : StepId} {cast : CastOn} (r : FaultRec) (hstore : s.core.c.store = none)
    (hrun : s.core.ctx.running = some id) (hcast : s.core.ctx.cast = some cast) (hgang : id.gang = false) :
    let t := (s.post s.core.ctx.part r).abandonStep true
    CoreLeft t ∧ t.core.trap.mode = false ∧
      (id.rst = true → id.abandons < 7 →
        (∃ l, t.core.ctx.slots = l :: s.core.ctx.slots ∧ l.id = { id with abandons := id.abandons + 1 } ∧ l.cast = cast ∧ l.stage = .staging) ∧
        (s.fqRoom s.core.ctx.part = true → (t.part s.core.ctx.part).posted =
          { r with seq := (s.part s.core.ctx.part).seq, stamp := BitVec.ofNat 64 s.tstamp } :: (s.part s.core.ctx.part).posted) ∧
        (s.fqRoom s.core.ctx.part = false → (t.part s.core.ctx.part).posted = (s.part s.core.ctx.part).posted)) := by
  intro t
  have hctx := s.post_ctx s.core.ctx.part r
  have hrun' : (s.post s.core.ctx.part r).core.ctx.running = some id := by rw [hctx, hrun]
  have hcast' : (s.post s.core.ctx.part r).core.ctx.cast = some cast := by rw [hctx, hcast]
  obtain ⟨hleft, hmode⟩ := State.abandonStep_left true hrun' hcast' hgang
  refine ⟨hleft, hmode, fun hrst hfew => ?_⟩
  have ht : t = _ := State.abandonStep_rerun true hrun' hcast' hgang hrst hfew
  have hposted : ∀ q, (t.part q).posted = ((s.post s.core.ctx.part r).part q).posted := fun q => by
    rw [ht]
    exact State.offCore_posted ((s.post_store _ _).trans hstore) q
  refine ⟨?_, fun hroom => ?_, fun hfull => ?_⟩
  · rw [ht, hctx]
    exact ⟨_, rfl, rfl, rfl, rfl⟩
  · rw [hposted, State.post_posted_room r hroom]
  · rw [hposted, State.post_posted_full r hfull]

/-! ### The status word -/

/-- A status word as a sum of its fields at their places (R34). -/
theorem toNat_tstatWord (t : Trap) : (tstatWord t).toNat = t.cause.toNat + 256 * t.strand.toNat + 1024 * t.pm.toNat + 2048 * t.mode.toNat +
    4096 * t.frz.toNat + 65536 * t.pend.toNat := by
  have hc := t.cause.isLt
  have hs := t.strand.isLt
  have hp := t.pend.isLt
  have h1 := t.pm.toNat_lt
  have h2 := t.mode.toNat_lt
  have h3 := t.frz.toNat_lt
  rw [tstatWord, BitVec.toNat_ofNat]
  omega

theorem tstatWord_cause (t : Trap) : (tstatWord t).extractLsb' 0 8 = t.cause := by
  apply BitVec.eq_of_toNat_eq
  have hc := t.cause.isLt
  rw [BitVec.extractLsb'_toNat, Nat.shiftRight_zero, toNat_tstatWord]
  omega

theorem tstatWord_strand (t : Trap) : (tstatWord t).extractLsb' 8 2 = t.strand := by
  apply BitVec.eq_of_toNat_eq
  have hc := t.cause.isLt
  have hs := t.strand.isLt
  rw [BitVec.extractLsb'_toNat, Nat.shiftRight_eq_div_pow, toNat_tstatWord]
  omega

theorem tstatWord_pm (t : Trap) : (tstatWord t).getLsbD 10 = t.pm := by
  have hc := t.cause.isLt
  have hs := t.strand.isLt
  have h1 := t.pm.toNat_lt
  have hbit : (tstatWord t).toNat / 2 ^ 10 % 2 = t.pm.toNat := by
    rw [toNat_tstatWord]
    omega
  rw [BitVec.getLsbD, Nat.testBit_eq_decide_div_mod_eq, hbit]
  cases t.pm <;> rfl

theorem tstatWord_mode (t : Trap) : (tstatWord t).getLsbD 11 = t.mode := by
  have hc := t.cause.isLt
  have hs := t.strand.isLt
  have h1 := t.pm.toNat_lt
  have h2 := t.mode.toNat_lt
  have hbit : (tstatWord t).toNat / 2 ^ 11 % 2 = t.mode.toNat := by
    rw [toNat_tstatWord]
    omega
  rw [BitVec.getLsbD, Nat.testBit_eq_decide_div_mod_eq, hbit]
  cases t.mode <;> rfl

/-! ### trap and bkpt -/

section
variable {s : State} (cause : BitVec 8) (tval : Word64)

theorem State.softTrap_task (hs : s.sup = false) (hw : s.core.trap.wait = none) :
    s.softTrap cause tval = s.flushStore.takeTrap .c cause s.core.c.pc tval s.pc4 := by
  rw [State.softTrap, State.flushStore_sup, hs, State.flushStore_trap, hw, State.flushStore_pc, State.flushStore_pc4]
  rfl

theorem State.softTrap_double (hs : s.sup = true) (hn : s.core.trap.noStep = .no) (hstore : s.core.c.store = none) :
    s.softTrap cause tval = (s.post s.core.ctx.part (s.recOf 0x30 false 0 (s.core.trap.cause.setWidth 32)
      (tstatWord { s.core.trap with cause := cause, strand := 0, mode := true }) s.core.c.pc tval)).abandonStep true := by
  rw [State.softTrap, State.flushStore_of_none hstore, hs, cond_true, State.doubleTrap]
  dsimp only
  rw [State.flushStore_of_none hstore, hn]
  rfl

/-- In task mode, with no freeze waited for, `trap` and `bkpt` are taken at once, the following PC kept (R32, R116). -/
theorem State.softTrap_enters (hs : s.sup = false) (hw : s.core.trap.wait = none) (h11 : cause ≠ 0x11) (h14 : cause ≠ 0x14) :
    (s.softTrap cause tval).core.trap = { s.core.trap with
      pm := false, mode := true, frz := true, cause := cause, strand := 0, tval := tval, tfpc := s.core.c.pc, tepc := s.core.c.pc + 4,
      wait := none, dog := 0 } ∧
    (s.softTrap cause tval).core.c = { s.flushStore.core.c with pc := s.core.trap.tvec, run := .ready, blocked := false } ∧
    (s.softTrap cause tval).core.l = s.core.l ∧ (s.softTrap cause tval).core.v = s.core.v ∧ (s.softTrap cause tval).core.s = s.core.s ∧
    (s.softTrap cause tval).core.q = s.core.q ∧ ∀ a, (s.softTrap cause tval).rd8 a = s.flushStore.rd8 a := by
  obtain ⟨htrap, hc, hl, hv, hls, hq, hmem⟩ := takeTrap_taken s.flushStore .c cause s.core.c.pc tval s.pc4
  have hstore := State.flushStore_of_none s.flushStore_store
  obtain ⟨w, g, l, hcore⟩ := s.flushStore_core
  have hmode : s.core.trap.mode = false := hs
  rw [State.softTrap_task cause tval hs hw, htrap, hc, hl, hv, hls, hq]
  rw [hstore, State.flushStore_trap, hmode, if_neg (by rintro (h | h); exacts [h11 h, h14 h])]
  refine ⟨rfl, rfl, ?_, ?_, ?_, s.flushStore_q, fun a => (hmem a).trans (by rw [hstore])⟩
  all_goals rw [hcore]

end

/-! ### eret and end -/

theorem State.doEret_no {s : State} (h : s.core.trap.noStep = .no) : s.doEret = { s with core := { s.core with
    trap := { s.core.trap with mode := s.core.trap.pm, frz := false, dog := 0 }
    c := { s.core.c with pc := s.core.trap.tepc &&& ~~~3, run := .ready, blocked := false }
    l := { s.core.l with blocked := false }
    s := { s.core.s with blocked := false }
    v := { s.core.v with blocked := false }
    eng := { s.core.eng with copy := s.core.eng.copy.map fun c => { c with fault := faultRelease c.fault },
                             gather := s.core.eng.gather.map fun c => { c with fault := faultRelease c.fault } }
    mig := { s.core.mig with table := s.core.mig.table.map fun e => e.map fun e => { e with fault := faultRelease e.fault } }
    nb := { s.core.nb with cmds := s.core.nb.cmds.map fun c => { c with fault := faultRelease c.fault } } } } := by
  unfold State.doEret
  dsimp only
  rw [h]

theorem State.doEret_between {s : State} (h : s.core.trap.noStep ≠ .no) : s.doEret = s.betweenSteps := by
  unfold State.doEret
  dsimp only
  split
  case h_1 hn => exact absurd hn h
  case h_2 => rfl

/-- What `eret` counts, out of record mode, before it returns. -/
theorem exec_eret_sup {s : State} (hq : s.Quiet) (hs : s.sup = true) : ∃ m d l, exec .eret s = .next (State.doEret { s with
    core := { s.core with perf := (s.core.perf.add 0x04 1).1, units := unitCount s.core.units 0x04 1,
                          dbg := { s.core.dbg with irqLines := l }, trap := { s.core.trap with dog := 0, moved := 15 },
                          ctx := { s.core.ctx with cWords := s.core.ctx.cWords + 1 } },
    pkg := { s.pkg with msi := m, heldMsi := d } }) := by
  obtain ⟨m, d, l, e⟩ := State.count_quiet (s := s.touch) 0x04 1 hq
  refine ⟨m, d, l, ?_⟩
  rw [show exec .eret s = execEret s from rfl, execEret, State.privileged_sup _ _ hs]
  dsimp only
  rw [e]
  rfl

theorem eretRestoresModeAndPc : EretRestoresModeAndPc := by
  intro s hq hs hn
  obtain ⟨m, d, l, e⟩ := exec_eret_sup hq hs
  refine ⟨_, e, ?_⟩
  rw [State.doEret_no (by exact hn)]
  exact ⟨rfl, rfl, rfl, rfl, rfl, rfl, rfl, rfl, fun _ => rfl⟩

theorem State.Quiet.invalidate {s : State} (h : s.Quiet) (va : Option Word64) : (s.invalidate va).Quiet := h

theorem State.flushStore_stepOn (s : State) : s.flushStore.stepOn = s.stepOn := by
  rw [State.stepOn, State.stepOn, State.flushStore_ctx]

theorem exec_tlbi_sup {s : State} (xa : XReg) (hs : s.sup = true) : exec (.tlbi xa) s =
    .next ((s.flushStore.invalidate (if xa = 0 then none else some (s.xRead xa))).cRetire [xa] 0 0 s.pc4) := by
  rw [show exec (.tlbi xa) s = execTlbi xa s from rfl, execTlbi, State.privileged_sup _ _ hs]
  dsimp only
  rw [State.flushStore_xRead, State.flushStore_pc4, beq_eq_decide, Bool.cond_decide]

theorem exec_icsync (s : State) : exec .icsync s = .next (((s.flushStore.setC { s.flushStore.core.c with held := [] }).setCtx
    { s.flushStore.core.ctx with newCode := s.flushStore.core.ctx.newCode || s.stepOn }).cRetire [] 0 0 s.pc4) := by
  rw [← s.flushStore_pc4, ← s.flushStore_stepOn]
  rfl

theorem exec_endC_task {s : State} (hs : s.sup = false) (hq : s.Quiet) : ∃ m d l, exec .endC s = .next { s.flushStore with
    core := { s.flushStore.core with
      perf := (s.flushStore.core.perf.add 0x04 1).1, units := unitCount s.flushStore.core.units 0x04 1,
      dbg := { s.flushStore.core.dbg with irqLines := l }, trap := { s.flushStore.core.trap with dog := 0, moved := 15 },
      ctx := { s.flushStore.core.ctx with cWords := s.flushStore.core.ctx.cWords + 1 },
      c := { s.flushStore.core.c with run := .ended, blocked := false } },
    pkg := { s.flushStore.pkg with msi := m, heldMsi := d } } := by
  obtain ⟨m, d, l, e⟩ := State.count_quiet (s := s.flushStore.touch) 0x04 1 hq.flushStore
  refine ⟨m, d, l, ?_⟩
  rw [show exec .endC s = execEndC s from rfl, execEndC]
  dsimp only
  rw [State.flushStore_sup, hs, cond_false, e]
  rfl

theorem systemWordsTakeEffect : SystemWordsTakeEffect := by
  intro xa payload s hq
  refine ⟨⟨_, exec_nop payload s, ?_⟩, fun hs => ⟨_, exec_tlbi_sup xa hs, ?_⟩, ⟨_, exec_icsync s, ?_⟩, fun hs => ?_⟩
  · rw [← State.cRetire_none s 0]
    exact State.cRetire_retired [] 0 0 s.pc4 hq
  · exact State.cRetire_retired _ _ _ _ (hq.flushStore.invalidate _)
  · exact State.cRetire_retired (s := (s.flushStore.setC _).setCtx _) _ _ _ _ hq.flushStore
  · obtain ⟨m, d, l, e⟩ := exec_endC_task hs hq
    exact ⟨_, e, rfl, s.flushStore_q, fun _ => rfl⟩

section
variable {s : State} (hs : s.sup = true)
include hs

theorem exec_endC_sup (hn : s.core.trap.noStep = .no) (hstore : s.core.c.store = none) : exec .endC s =
    .next ((s.post s.core.ctx.part (s.recOf 0x31 false 0 0 (tstatWord s.core.trap) s.core.trap.tfpc s.core.trap.tval)).abandonStep true) := by
  rw [show exec .endC s = execEndC s from rfl, execEndC]
  dsimp only
  rw [State.flushStore_of_none hstore, hs, cond_true, hn]

theorem exec_endC_noStep (hn : s.core.trap.noStep ≠ .no) : exec .endC s = .next s.flushStore.betweenSteps := by
  have hn' : s.flushStore.core.trap.noStep ≠ .no := by rwa [State.flushStore_trap]
  rw [show exec .endC s = execEndC s from rfl, execEndC]
  dsimp only
  rw [State.flushStore_sup, hs, cond_true]
  split
  case h_1 h => exact absurd h hn'
  case h_2 => rfl

end

theorem supervisorEndAndReturnWithNoStep : SupervisorEndAndReturnWithNoStep := by
  intro s hs
  refine ⟨fun id cast hn hstore hrun hcast hgang => ?_, fun hn => ⟨⟨_, exec_endC_noStep hs hn, ?_⟩, fun hq => ?_⟩⟩
  · obtain ⟨hleft, hmode, hre⟩ := State.postAbandon_left
      (s.recOf 0x31 false 0 0 (tstatWord s.core.trap) s.core.trap.tfpc s.core.trap.tval) hstore hrun hcast hgang
    refine ⟨_, exec_endC_sup hs hn hstore, hleft, hmode, fun hrst hfew => ?_⟩
    obtain ⟨hslot, hroom, hfull⟩ := hre hrst hfew
    exact ⟨hslot, fun h => ⟨_, hroom h, rfl, rfl, rfl, rfl, rfl⟩, hfull⟩
  · refine ⟨?_, rfl, fun _ => rfl, fun _ => rfl⟩
    rw [← s.flushStore_trap]
    rfl
  · obtain ⟨m, d, l, e⟩ := exec_eret_sup hq hs
    refine ⟨_, e, ?_⟩
    rw [State.doEret_between (by exact hn)]
    exact ⟨rfl, rfl, rfl, fun _ => rfl, fun _ => rfl⟩

theorem trapAndBkptEnterTheHandler : TrapAndBkptEnterTheHandler := by
  intro imm code s hs hw e he
  simp only [List.mem_cons, List.not_mem_nil, or_false] at he
  obtain rfl | rfl := he
  · exact ⟨_, rfl, State.softTrap_enters _ _ hs hw (by decide) (by decide)⟩
  · exact ⟨_, rfl, State.softTrap_enters _ _ hs hw (by decide) (by decide)⟩

theorem doubleTrapsAbandonTheStep : DoubleTrapsAbandonTheStep := by
  intro imm code s id cast hs hn hstore hrun hcast hgang e he
  have hexec : exec e.1 s = .next (s.softTrap e.2.1 e.2.2) := by
    simp only [List.mem_cons, List.not_mem_nil, or_false] at he
    obtain rfl | rfl := he <;> rfl
  obtain ⟨hleft, hmode, hre⟩ := State.postAbandon_left (s.recOf 0x30 false 0 (s.core.trap.cause.setWidth 32)
    (tstatWord { s.core.trap with cause := e.2.1, strand := 0, mode := true }) s.core.c.pc e.2.2) hstore hrun hcast hgang
  rw [hexec, State.softTrap_double _ _ hs hn hstore]
  refine ⟨_, rfl, hleft, hmode, fun hrst hfew => ?_⟩
  obtain ⟨hslot, hroom, hfull⟩ := hre hrst hfew
  exact ⟨hslot, fun h => ⟨_, hroom h, rfl, rfl, rfl, rfl, tstatWord_cause _, tstatWord_strand _, tstatWord_mode _, tstatWord_pm _⟩, hfull⟩

end Sys2Proof.Machine

open Sys2Proof Sys2Proof.Machine

/-- Settles O17: `eret` restores what the trap saved; the other system words retire with their one effect; `end` in supervisor mode posts its record and abandons. -/
theorem eretAndSystemWordsTakeEffect : Obligations.EretAndSystemWordsTakeEffect :=
  ⟨eretRestoresModeAndPc, systemWordsTakeEffect, supervisorEndAndReturnWithNoStep⟩

/-- Settles O18: a software trap is taken at once in task mode, and in supervisor mode posts its record and abandons the step. -/
theorem softwareTrapsEnterTheHandler : Obligations.SoftwareTrapsEnterTheHandler := ⟨trapAndBkptEnterTheHandler, doubleTrapsAbandonTheStep⟩
end

section
/-! The mode rises by a trap alone (R29, R30, R42): which operations leave the trap registers alone, and where C stands after each of its words. -/

namespace Sys2Proof.Machine

/-! ### Operations that leave the trap registers alone -/

theorem Core.Near.trap {a b : Core} (h : Core.Near a b) : b.trap = a.trap := by
  obtain ⟨w, g, l, rfl⟩ := h
  rfl
theorem State.CacheNear.trap {s t : State} (h : s.CacheNear t) : t.core.trap = s.core.trap := by
  obtain ⟨_, _, _, _, _, rfl⟩ := h
  rfl

@[simp] theorem State.count_trap (s : State) (ev : BitVec 8) (n : Nat) : (s.count ev n).core.trap = s.core.trap := (s.count_near ev n).trap
@[simp] theorem State.record_trap (s : State) (p : BitVec 3) (t : Nat) (c : Word32) (k a d : Word64) : (s.record p t c k a d).core.trap = s.core.trap :=
  (s.record_near p t c k a d).trap
@[simp] theorem State.post_trap (s : State) (p : BitVec 3) (r : FaultRec) : (s.post p r).core.trap = s.core.trap := (s.post_near p r).trap
@[simp] theorem State.store_trap (s : State) (pa : Nat) (bs : List Byte) (o : Owner) (dev : Bool) : (s.store pa bs o dev).core.trap = s.core.trap :=
  (s.store_near pa bs o dev).trap
@[simp] theorem State.fpCount_trap (s : State) (ev : List Nat) : (s.fpCount ev).core.trap = s.core.trap := by
  unfold State.fpCount
  split <;> rfl
@[simp] theorem State.rmwFirst_trap (s : State) (pas : List Nat) : (s.rmwFirst pas).core.trap = s.core.trap := by
  obtain ⟨m, w, g, e⟩ := s.rmwFirst_near pas
  rw [e]

@[simp] theorem State.l2Count_trap (s : State) (o : Owner) (ev : BitVec 8) : (s.l2Count o ev).core.trap = s.core.trap := by
  unfold State.l2Count
  split
  · exact cond_induction (P := fun t : State => t.core.trap = s.core.trap) (fun _ => rfl) fun _ =>
      cond_induction (P := fun t : State => t.core.trap = s.core.trap) (fun _ => s.count_trap ev 1) fun _ => rfl
  · rfl
@[simp] theorem State.l2Evict_trap (s : State) (x : L2Line) (m : Bool) : (s.l2Evict x m).core.trap = s.core.trap :=
  cond_induction (P := fun t : State => t.core.trap = s.core.trap) (fun _ => (State.l2Count_trap _ _ _).trans (s.l2Out_near x).trap) fun _ =>
    (s.l2Out_near x).trap
@[simp] theorem State.l2Alloc_trap (s : State) (l : Nat) (p : Option (BitVec 3)) (m : Bool) : (s.l2Alloc l p m).core.trap = s.core.trap :=
  cond_induction (P := fun t : State => t.core.trap = s.core.trap) (fun _ => rfl) fun _ =>
    foldl_keeps _ (fun (x : State) => x.core.trap) (fun _ _ => State.l2Evict_trap _ _ _) _ s
@[simp] theorem State.l2Access_trap (s : State) (pa : Nat) (p fill : Option (BitVec 3)) (m : Bool) :
    (s.l2Access pa p fill m).core.trap = s.core.trap := by
  unfold State.l2Access
  refine cond_induction (P := fun t : State => t.core.trap = s.core.trap) (fun _ => ?_) fun _ => ?_
  · exact cond_induction (P := fun t : State => t.core.trap = s.core.trap) (fun _ => rfl) fun _ => rfl
  · refine cond_induction (P := fun t : State => t.core.trap = s.core.trap) (fun _ => (s.mscAccess_near _ _ _).trap) fun _ => ?_
    split
    · exact cond_induction (P := fun t : State => t.core.trap = s.core.trap) (fun _ => State.l2Count_trap _ _ _) fun _ => rfl
    · exact (State.l2Alloc_trap _ _ _ _).trans (s.mscAccess_near _ _ _).trap
@[simp] theorem State.l2Own_trap (s : State) (pa : Nat) : (s.l2Own pa).core.trap = s.core.trap := State.l2Access_trap _ _ _ _ _
@[simp] theorem State.l2Hit_trap (s : State) (pa : Nat) : (s.l2Hit pa).core.trap = s.core.trap := by
  rw [State.l2Hit, State.l2Own_trap, State.orderAt_core]
@[simp] theorem State.walkAccess_trap (s : State) (p : BitVec 3) (v : BitVec 2) (va : Word64) : (s.walkAccess p v va).core.trap = s.core.trap :=
  foldl_keeps _ (fun (x : State) => x.core.trap) (fun x _ => cond_induction (P := fun t : State => t.core.trap = x.core.trap) (fun _ => rfl) fun _ =>
    State.l2Access_trap _ _ _ _ _) _ s
@[simp] theorem State.fillTlb_trap (s : State) (p : BitVec 3) (v : BitVec 2) (va : Word64) : (s.fillTlb p v va).core.trap = s.core.trap := by
  unfold State.fillTlb
  split
  · rfl
  · refine cond_induction (P := fun t : State => t.core.trap = s.core.trap) (fun _ => rfl) fun _ => ?_
    dsimp only
    split <;> exact s.walkAccess_trap p v va
@[simp] theorem State.lease_trap (s : State) (l : Nat) (b : Bool) : (s.lease l b).core.trap = s.core.trap :=
  cond_induction (P := fun t : State => t.core.trap = s.core.trap) (fun _ => rfl) fun _ => rfl
@[simp] theorem State.l1Put_trap (s : State) (l : Nat) : (s.l1Put l).core.trap = s.core.trap :=
  cond_induction (P := fun t : State => t.core.trap = s.core.trap) (fun _ => rfl) fun _ => rfl
@[simp] theorem State.l1Hit_trap (s : State) (pa : Nat) : (s.l1Hit pa).core.trap = s.core.trap := by
  refine cond_induction (P := fun t : State => t.core.trap = s.core.trap) (fun _ => ?_) fun _ =>
    cond_induction (P := fun t : State => t.core.trap = s.core.trap) (fun _ => ?_) fun _ => ?_
  · simp
  · simp
  · simp
@[simp] theorem State.cEvent_trap (s : State) (va : Word64) : (s.cEvent va).core.trap = s.core.trap := by
  rw [State.cEvent, State.fillTlb_trap, State.flushStore_trap]

@[simp] theorem State.diverge_trap (s : State) (p : BitVec 3) (r : Nat × Nat × Nat × Nat × Nat) (e : List Nat) :
    (s.diverge p r e).core.trap = s.core.trap := by
  have hraw : ((s.setPart p { s.part p with repDiv := true }).msiRaw p 0 3 3).core.trap = s.core.trap :=
    ((s.setPart p { s.part p with repDiv := true }).msiRaw_near p 0 3 3).trap
  exact cond_induction (P := fun t : State => t.core.trap = s.core.trap) (fun _ => hraw) fun _ => hraw
@[simp] theorem State.repTakeAt_trap (s : State) (p : BitVec 3) (i : Nat) : (s.repTakeAt p i).core.trap = s.core.trap :=
  cond_induction (P := fun t : State => t.core.trap = s.core.trap) (fun _ => rfl) fun _ => rfl
@[simp] theorem State.replayed_trap (s : State) (t : Nat) (k a v : Word64) : (s.replayed t k a v).1.core.trap = s.core.trap := by
  unfold State.replayed
  refine cond_induction (P := fun r : State × Word64 => r.1.core.trap = s.core.trap) (fun _ => ?_) fun _ => s.record_trap _ _ _ _ _ _
  dsimp only
  split
  · exact cond_induction (P := fun r : State × Word64 => r.1.core.trap = s.core.trap) (fun _ => s.repTakeAt_trap _ _) fun _ => s.diverge_trap _ _ _
  · exact s.diverge_trap _ _ _

/-- The mode is the trap registers': an operation that leaves them alone leaves the mode. -/
theorem State.sup_of_trap {s t : State} (h : t.core.trap = s.core.trap) : t.sup = s.sup := by
  rw [State.sup, State.sup, h]

/-! ### Where C stands after its word -/

/-- A core in supervisor mode stands at TVEC, with its freeze in effect (R29, R30). -/
def State.AtTvec (t : State) : Prop := t.sup = true → t.core.c.pc = t.core.trap.tvec ∧ t.core.trap.frz = true

theorem State.AtTvec.of_task {t : State} (h : t.sup = false) : t.AtTvec := fun ht => by
  rw [h] at ht
  exact absurd ht (by decide)

theorem State.takeTrap_atTvec (s : State) (k : Strand) (cause : BitVec 8) (a b c : Word64) : (s.takeTrap k cause a b c).AtTvec := fun _ => ⟨rfl, rfl⟩

theorem State.trapNow_atTvec (s : State) (k : Strand) (cause : BitVec 8) (a b : Word64) : (s.trapNow k cause a b).AtTvec :=
  State.takeTrap_atTvec _ _ _ _ _ _

@[simp] theorem State.cGo_sup (s : State) (pc : Word64) : (s.cGo pc).sup = s.sup := by
  have h : (s.touch.count 0x04 1).core.trap = s.touch.core.trap := State.count_trap _ _ _
  have hmode : (s.touch.count 0x04 1).core.trap.mode = s.touch.core.trap.mode := congrArg Trap.mode h
  rw [State.sup, State.sup, State.cGo]
  exact hmode

@[simp] theorem State.cRetire_sup (s : State) (srcs : List XReg) (xd : XReg) (v pc : Word64) : (s.cRetire srcs xd v pc).sup = s.sup := by
  have e : s.cRetire srcs xd v pc = (((s.placedFor xd).xPop srcs).xWrite xd v).cGo pc := rfl
  rw [e, State.cGo_sup, State.xWrite_eq, State.xPop_eq, ← State.placedFor_sup s xd]
  rfl

@[simp] theorem State.cStall_sup (s : State) : s.cStall.sup = s.sup := rfl
@[simp] theorem State.hold_sup (s : State) (k : Strand) : (s.hold k).sup = s.sup := by
  cases k <;> rfl

section
variable {s : State} (hs : s.sup = false)
include hs

theorem State.cRetire_atTvec (srcs : List XReg) (xd : XReg) (v pc : Word64) : (s.cRetire srcs xd v pc).AtTvec :=
  .of_task ((s.cRetire_sup srcs xd v pc).trans hs)

theorem State.cStall_atTvec : s.cStall.AtTvec := .of_task hs

theorem State.raise_atTvec (k : Strand) (cause : BitVec 8) (tval tfpc : Word64) (aux : Word32) (addr : Word64) :
    (s.raise k cause tval tfpc aux addr).AtTvec := by
  have hhold : (s.hold k).sup = false := (s.hold_sup k).trans hs
  unfold State.raise
  rw [hs, cond_false]
  refine cond_induction (fun _ => .of_task hhold) fun _ => ?_
  refine cond_induction (fun _ => .of_task ?_) fun _ => ?_
  · have hpost : (s.post s.core.ctx.part (s.recOf cause true addr aux 0 tfpc tval)).sup = false := (State.sup_of_trap (s.post_trap _ _)).trans hs
    exact ((State.hold_sup _ k).trans hpost : ((s.post s.core.ctx.part (s.recOf cause true addr aux 0 tfpc tval)).hold k).sup = false)
  · exact cond_induction (fun _ => .of_task hhold) fun _ => s.trapNow_atTvec _ _ _ _

theorem State.cRaise_atTvec (cause : BitVec 8) (tval : Word64) : (s.cRaise cause tval).AtTvec := State.raise_atTvec hs _ _ _ _ _ _

theorem State.async_atTvec (bit : Nat) (tval : Word64) : (s.async bit tval).AtTvec :=
  cond_induction (fun _ => s.trapNow_atTvec _ _ _ _) fun _ => .of_task hs

theorem State.cFail_atTvec (f : XFail) (page : BitVec 8) (va : Word64) : (s.cFail f page va).AtTvec := by
  unfold State.cFail
  split
  · exact cond_induction (fun _ => State.takeTrap_atTvec _ _ _ _ _ _) fun _ => .of_task hs
  · exact State.cStall_atTvec hs
  · exact State.cRaise_atTvec hs _ _

end

/-- Every next state of an answer has C where `AtTvec` says. -/
def EntersAtTvec (o : Out) : Prop := ∀ t, o = .next t → t.AtTvec

theorem EntersAtTvec.next {t : State} (h : t.AtTvec) : EntersAtTvec (.next t) := fun _ e => Host.Outcome.next.inj e ▸ h


/-! ### Operations of C's words -/

theorem State.setFifo_trap (s : State) (i : Nat) (f : Fifo) : (s.setFifo i f).core.trap = s.core.trap := rfl

theorem State.applyDemand_trap (s : State) : s.applyDemand.core.trap = s.core.trap := by
  unfold State.applyDemand
  dsimp only
  rw [State.setTen_trap]
  exact foldl_keeps _ (fun (x : State) => x.core.trap) (fun x r => cond_induction (P := fun t : State => t.core.trap = x.core.trap) (fun _ => rfl)
    fun _ => x.setDesc_trap _ _) allStreams s
theorem State.divideHeld_trap (s : State) (tab : List TNode) (b : Nat) : (s.divideHeld tab b).1.core.trap = s.core.trap := by
  unfold State.divideHeld
  dsimp only
  rw [State.setCsr_trap, State.setTen_trap]

/-- The state that a run of loads leaves. -/
def CRead.state : CRead → State
  | .got s _ => s
  | .failed s _ _ => s
  | .waits s => s

theorem State.cBytes_trap (s : State) (va : Word64) (n : Nat) : (s.cBytes va n).state.core.trap = s.core.trap := by
  induction n generalizing s va with
  | zero => rfl
  | succ n ih =>
    unfold State.cBytes
    dsimp only
    split
    · exact s.cEvent_trap va
    · rename_i pa hx
      refine cond_induction (P := fun r : CRead => r.state.core.trap = s.core.trap) (fun _ => s.cEvent_trap va) fun _ => ?_
      have hstep : ∀ pa, (((s.cEvent va).l1Hit pa).cBytes (va + 8) n).state.core.trap = s.core.trap := fun pa => by
        rw [ih, State.l1Hit_trap, State.cEvent_trap]
      split
      · next hgot =>
        have h := hstep pa
        rw [hgot] at h
        exact h
      · exact hstep _

theorem State.MemNear.trap {s t : State} (h : s.MemNear t) : t.core.trap = s.core.trap := by
  obtain ⟨_, _, _, e⟩ := h
  rw [e]
theorem State.granulePut_trap (s : State) (g : Granule) : (s.granulePut g).core.trap = s.core.trap := (s.granulePut_near g).trap

theorem State.bankFence_trap (s : State) : s.bankFence.core.trap = s.core.trap := by
  have hdrop : ∀ (x : State) (l : Nat), ((x.l2Leave l).mscDrop l).core.trap = x.core.trap := fun x l =>
    ((x.l2Leave l).mscDrop_near l).trap.trans (x.l2Leave_near l).trap
  unfold State.bankFence
  dsimp only
  exact (foldl_keeps _ (fun (x : State) => x.core.trap) (fun x l => hdrop x l) _ _).trans
    (foldl_keeps _ (fun (x : State) => x.core.trap) State.granulePut_trap _ _)

theorem State.fenceEffect_trap (s : State) (kind : BitVec 2) : (s.fenceEffect kind).core.trap = s.core.trap :=
  iteInduction (motive := fun t : State => t.core.trap = s.core.trap) (fun _ => s.bankFence_trap) fun _ =>
    iteInduction (motive := fun t : State => t.core.trap = s.core.trap) (fun _ => rfl) fun _ => rfl

theorem State.requestLeave_trap (s : State) (r : Leave) : (s.requestLeave r).core.trap = s.core.trap :=
  cond_induction (P := fun t : State => t.core.trap = s.core.trap) (fun _ => rfl) fun _ => rfl
theorem State.swTrace_trap (s : State) (p : BitVec 3) (what : String) (l : List Nat) : (s.swTrace p what l).core.trap = s.core.trap := by
  unfold State.swTrace
  split
  · exact cond_induction (P := fun t : State => t.core.trap = s.core.trap) (fun _ => rfl) fun _ => rfl
  · rfl
theorem State.beginSwitch_trap (s : State) (p : BitVec 3) (v : BitVec 2) : (s.beginSwitch p v).core.trap = s.core.trap :=
  cond_induction (P := fun t : State => t.core.trap = s.core.trap) (fun _ => (State.requestLeave_trap _ _).trans (State.swTrace_trap _ _ _ _)) fun _ =>
    State.swTrace_trap _ _ _ _
theorem State.directedYield_trap (s : State) (line : Nat) : (s.directedYield line).core.trap = s.core.trap := by
  unfold State.directedYield
  dsimp only
  split
  · exact cond_induction (P := fun t : State => t.core.trap = s.core.trap) (fun _ => rfl) fun _ => State.beginSwitch_trap _ _ _
  · rfl

theorem State.barDo_trap (s : State) (l : BitVec 2) (mid : Bool) : (s.barDo l mid).core.trap = s.core.trap := by
  have hsend : ∀ (x : State) (g : BitVec 12), (x.fabSend g).core.trap = x.core.trap := fun x g => by
    refine cond_induction (P := fun t : State => t.core.trap = x.core.trap) (fun _ => rfl) fun _ => ?_
    iterate 3 refine cond_induction (P := fun t : State => t.core.trap = x.core.trap) (fun _ => rfl) fun _ => ?_
    rfl
  refine iteInduction (motive := fun t : State => t.core.trap = s.core.trap) (fun _ => ?_) fun _ => ?_
  · exact cond_induction (P := fun t : State => t.core.trap = s.core.trap) (fun _ => hsend _ _) fun _ => rfl
  · exact cond_induction (P := fun t : State => t.core.trap = s.core.trap) (fun _ => rfl) fun _ => rfl

theorem State.nbTrace_trap (s : State) (what : String) : (s.nbTrace what).core.trap = s.core.trap :=
  cond_induction (P := fun t : State => t.core.trap = s.core.trap) (fun _ => rfl) fun _ =>
    cond_induction (P := fun t : State => t.core.trap = s.core.trap) (fun _ => rfl) fun _ => rfl

theorem State.writeCsr_sup (s : State) (n : BitVec 12) (v : Word64) : (s.writeCsr n v).sup = s.sup := by
  obtain ⟨_, _, _, _, _, _, e⟩ := s.writeCsr_near n v
  rw [State.sup, State.sup, e]

theorem State.csrValue_trap (s : State) (n : BitVec 12) : (s.csrValue n).1.core.trap = s.core.trap :=
  cond_induction (P := fun r : State × Word64 => r.1.core.trap = s.core.trap) (fun _ => s.replayed_trap _ _ _ _) fun _ => rfl

theorem State.setCmds_trap (s : State) (e : Eng) (l : List Cmd) : (s.setCmds e l).core.trap = s.core.trap := by
  cases e <;> rfl

theorem State.setDesc_sup (s : State) (r : SReg) (d : Desc) : (s.setDesc r d).sup = s.sup := rfl
theorem State.setSym_sup (s : State) (i : BitVec 3) (x : Sym) : (s.setSym i x).sup = s.sup := rfl
theorem State.tokTake_sup (s : State) (k : Strand) (next : Bool) : (s.tokTake k next).sup = s.sup := rfl
theorem State.tokReserve_sup (s : State) (k : Strand) (next : Bool) : (s.tokReserve k next).sup = s.sup := rfl
theorem State.tokGive_sup (s : State) (k : Strand) (next : Bool) : (s.tokGive k next).sup = s.sup := rfl
theorem State.predSeen_sup (s : State) (p : BitVec 3) (f : BitVec 2) (a : Word64) (v : Nat) : (s.predSeen p f a v).sup = s.sup := rfl
theorem State.contribute_sup (s : State) (pa : Nat) (va : Word64) (op : RedOp) (fmt : BitVec 4) (b : Word32) (need : Nat) :
    (s.contribute pa va op fmt b need).sup = s.sup := rfl
theorem State.xPop_sup (s : State) (srcs : List XReg) : (s.xPop srcs).sup = s.sup := by
  rw [State.xPop_eq]
  rfl

end Sys2Proof.Machine
end

section
namespace Sys2Proof.Machine
/-! ### Each kind of word -/

section
variable {s : State} (hs : s.sup = false)
include hs

theorem State.cExec_enters (srcs : List XReg) (xd : XReg) (v : Word64) : EntersAtTvec (s.cExec srcs xd v) :=
  .next (cond_induction (fun _ => State.cRetire_atTvec hs _ _ _ _) fun _ => State.cStall_atTvec hs)

theorem State.cBranch_enters (xd xa : XReg) (imm : BitVec 15) (taken : Bool) : EntersAtTvec (s.cBranch xd xa imm taken) :=
  .next (cond_induction (fun _ => State.cRetire_atTvec hs _ _ _ _) fun _ => State.cStall_atTvec hs)

theorem State.cLoad_atTvec (xd xa : XReg) (off : BitVec 12) (n : Nat) (signed : Bool) : (s.cLoad xd xa off n signed).AtTvec := by
  refine cond_induction (fun _ => State.cStall_atTvec hs) fun _ => cond_induction (fun _ => State.cRaise_atTvec hs _ _) fun _ => ?_
  have ht : (s.cEvent (s.cmEa xa off)).sup = false := (State.sup_of_trap (s.cEvent_trap _)).trans hs
  dsimp only
  split
  · exact State.cFail_atTvec ht _ _ _
  · refine cond_induction (fun _ => State.cStall_atTvec ht) fun _ => State.cRetire_atTvec ?_ _ _ _ _
    exact (State.sup_of_trap (State.l1Hit_trap _ _)).trans ht

theorem State.putStore_sup (pa : Nat) (bs : List Byte) : (s.putStore pa bs).sup = false := by
  unfold State.putStore
  split
  · exact (State.sup_of_trap (State.store_trap _ _ _ _ _)).trans hs
  · exact hs

theorem State.cStoreOp_atTvec (xd xa : XReg) (off : BitVec 12) (n : Nat) : (s.cStoreOp xd xa off n).AtTvec := by
  refine cond_induction (fun _ => State.cStall_atTvec hs) fun _ => cond_induction (fun _ => State.cRaise_atTvec hs _ _) fun _ => ?_
  have ht : (s.cEvent (s.cmEa xa off)).sup = false := (State.sup_of_trap (s.cEvent_trap _)).trans hs
  dsimp only
  split
  · exact State.cFail_atTvec ht _ _ _
  · refine cond_induction (fun _ => State.cStall_atTvec ht) fun _ => State.cRetire_atTvec ?_ _ _ _ _
    exact State.putStore_sup ((State.sup_of_trap (State.l2Own_trap _ _)).trans ht) _ _

theorem execJalr_enters (xd xa : XReg) (imm : BitVec 15) : EntersAtTvec (execJalr xd xa imm s) :=
  .next (cond_induction (fun _ => State.cStall_atTvec hs) fun _ => cond_induction (fun _ => State.cRaise_atTvec hs _ _) fun _ =>
    State.cRetire_atTvec hs _ _ _ _)

theorem State.cAmo_atTvec (xd xa xb xc : XReg) (n : Nat) (red : Option (RedOp × BitVec 4)) (f : Nat → FRes) (out : Nat → Word64) :
    (s.cAmo xd xa xb xc n red f out).AtTvec := by
  refine cond_induction (fun _ => State.cStall_atTvec hs) fun _ => cond_induction (fun _ => State.cRaise_atTvec hs _ _) fun _ => ?_
  have ht : (s.cEvent (s.xRead xa)).sup = false := (State.sup_of_trap (s.cEvent_trap _)).trans hs
  dsimp only
  split
  · exact State.cFail_atTvec ht _ _ _
  · refine cond_induction (fun _ => State.cStall_atTvec ht) fun _ => ?_
    have hdone : ∀ (pa : Nat) (bs : List Byte) (ev : List Nat) (v pc : Word64) (o : Owner),
        (((((s.cEvent (s.xRead xa)).l2Hit pa).store pa bs o true).fpCount ev).cRetire [xa, xb, xc] xd v pc).AtTvec := fun pa bs ev v pc o => by
      refine State.cRetire_atTvec ?_ _ _ _ _
      rw [State.sup_of_trap (State.fpCount_trap _ _), State.sup_of_trap (State.store_trap _ _ _ _ _), State.sup_of_trap (State.l2Hit_trap _ _), ht]
    split
    · refine cond_induction (fun _ => ?_) fun _ => hdone _ _ _ _ _ _
      split
      · exact State.cRetire_atTvec ((State.contribute_sup _ _ _ _ _ _ _).trans ht) _ _ _ _
      · exact State.cRaise_atTvec ht _ _
    · exact hdone _ _ _ _ _ _

theorem State.amo64_atTvec (op : AmoOp) (xd xa xb xc : XReg) : (s.amo64 op xd xa xb xc).AtTvec := by
  unfold State.amo64
  exact State.cAmo_atTvec hs _ _ _ _ _ _ _ _
theorem State.amo32_atTvec (op : AmoOp) (xd xa xb xc : XReg) : (s.amo32 op xd xa xb xc).AtTvec := by
  unfold State.amo32
  exact State.cAmo_atTvec hs _ _ _ _ _ _ _ _
theorem State.amoF_atTvec (f : FFmt) (code : BitVec 4) (xd xa xb : XReg) : (s.amoF f code xd xa xb).AtTvec := by
  unfold State.amoF
  exact State.cAmo_atTvec hs _ _ _ _ _ _ _ _

theorem State.sbWrite_atTvec (i : Instr) (srcs : List XReg) (r : SReg) (bad : Bool) (f : Desc → Desc) : (s.sbWrite i srcs r bad f).AtTvec :=
  cond_induction (fun _ => State.cStall_atTvec hs) fun _ => cond_induction (fun _ => State.cRaise_atTvec hs _ _) fun _ =>
    State.cRetire_atTvec ((State.setDesc_sup _ _ _).trans hs) _ _ _ _

theorem execSbGo_enters (r : SReg) : EntersAtTvec (execSbGo r s) :=
  .next (cond_induction (fun _ => State.cRaise_atTvec hs _ _) fun _ => State.cRetire_atTvec ((State.setTen_sup _ _).trans ((State.setDesc_sup _ _ _).trans hs)) _ _ _ _)

theorem execSbStop_enters (r : SReg) : EntersAtTvec (execSbStop r s) :=
  cond_induction (fun _ => .next (State.cStall_atTvec hs)) fun _ => .next (State.cRetire_atTvec
    (cond_induction (P := fun t : State => t.sup = false) (fun _ => (State.setDesc_sup _ _ _).trans hs) fun _ => hs) _ _ _ _)

theorem State.engWord_atTvec (e : Eng) (srcs : List XReg) (bad : Option (BitVec 8 × Word64)) (c : Cmd) : (s.engWord e srcs bad c).AtTvec := by
  refine cond_induction (fun _ => State.cStall_atTvec hs) fun _ => ?_
  split
  · exact State.cRaise_atTvec hs _ _
  · split
    · exact State.cRaise_atTvec hs _ _
    · refine State.cRetire_atTvec ((State.setEng_sup _ _).trans ?_) _ _ _ _
      exact (State.sup_of_trap (State.setCmds_trap _ _ _)).trans (s.flushStore_sup.trans hs)

theorem execMig_enters (xa xb : XReg) : EntersAtTvec (execMig xa xb s) :=
  .next (cond_induction (fun _ => State.cStall_atTvec hs) fun _ => State.cRetire_atTvec (by exact s.flushStore_sup.trans hs) _ _ _ _)

theorem execWrfRd_enters (xd xa : XReg) : EntersAtTvec (execWrfRd xd xa s) :=
  .next (cond_induction (fun _ => State.cStall_atTvec hs) fun _ => State.cRetire_atTvec
    ((State.sup_of_trap (State.replayed_trap _ _ _ _ _)).trans (s.flushStore_sup.trans hs)) _ _ _ _)

theorem execNbLd_enters (xa : XReg) (slot : BitVec 2) : EntersAtTvec (execNbLd xa slot s) := by
  refine .next (cond_induction (fun _ => State.cStall_atTvec hs) fun _ => cond_induction (fun _ => State.cRaise_atTvec hs _ _) fun _ => ?_)
  have ht : (s.cBytes (s.xRead xa) 32).state.sup = false := (State.sup_of_trap (s.cBytes_trap _ _)).trans hs
  split
  · next h => rw [h] at ht; exact State.cFail_atTvec ht _ _ _
  · next h => rw [h] at ht; exact State.cStall_atTvec ht
  · next h =>
    rw [h] at ht
    exact cond_induction (fun _ => State.cRaise_atTvec ht _ _) fun _ => State.cRetire_atTvec ((State.setNb_sup _ _).trans ht) _ _ _ _

theorem execNbGo_enters (xd xa xb : XReg) (done : Bool) (slot : BitVec 2) : EntersAtTvec (execNbGo xd xa xb done slot s) := by
  refine .next (cond_induction (fun _ => State.cStall_atTvec hs) fun _ => cond_induction (fun _ => State.cRaise_atTvec hs _ _) fun _ =>
    cond_induction (fun _ => State.cRaise_atTvec hs _ _) fun _ => ?_)
  have ht : (s.cEvent (s.xRead xa)).sup = false := (State.sup_of_trap (s.cEvent_trap _)).trans hs
  dsimp only
  split
  · exact State.cRaise_atTvec ht _ _
  · exact State.cRaise_atTvec ht _ _
  · exact State.cRaise_atTvec ht _ _
  · exact State.cStall_atTvec ht
  · refine cond_induction (fun _ => State.cRaise_atTvec ht _ _) fun _ => cond_induction (fun _ => State.cRaise_atTvec ht _ _) fun _ => ?_
    split
    · exact State.cRaise_atTvec ht _ _
    · refine cond_induction (fun _ => State.cStall_atTvec ht) fun _ => .of_task ?_
      exact (State.sup_of_trap (State.nbTrace_trap _ _)).trans ((State.cRetire_sup _ _ _ _ _).trans ((State.setNb_sup _ _).trans ht))

theorem execNbRd_enters (xd xa : XReg) (sel : BitVec 3) : EntersAtTvec (execNbRd xd xa sel s) :=
  .next (cond_induction (fun _ => State.cRetire_atTvec (s.flushStore_sup.trans hs) _ _ _ _) fun _ => State.cStall_atTvec hs)

theorem State.unmetCause_atTvec (unmet : Bool) : (s.unmetCause unmet).AtTvec :=
  cond_induction (fun _ => State.async_atTvec hs _ _) fun _ => .of_task hs

theorem execDmd_enters (xd xa : XReg) (n : BitVec 4) : EntersAtTvec (execDmd xd xa n s) := by
  refine .next (cond_induction (fun _ => State.cStall_atTvec hs) fun _ => cond_induction (fun _ => State.cRaise_atTvec hs _ _) fun _ =>
    cond_induction (fun _ => State.cRaise_atTvec hs _ _) fun _ => ?_)
  have ht : (s.cBytes (s.xRead xa) (2 * (n.toNat + 1))).state.sup = false := (State.sup_of_trap (s.cBytes_trap _ _)).trans hs
  split
  · next h => rw [h] at ht; exact State.cFail_atTvec ht _ _ _
  · next h => rw [h] at ht; exact State.cStall_atTvec ht
  · next h =>
    rw [h] at ht
    refine cond_induction (fun _ => State.cRaise_atTvec ht _ _) fun _ => cond_induction (fun _ => ?_) fun _ => ?_
    · exact State.cRetire_atTvec ((State.sup_of_trap (State.applyDemand_trap _)).trans ((State.setTen_sup _ _).trans ht)) _ _ _ _
    · refine State.unmetCause_atTvec ((State.cRetire_sup _ _ _ _ _).trans ?_) _
      exact (State.setTen_sup _ _).trans ((State.sup_of_trap (State.applyDemand_trap _)).trans ((State.sup_of_trap (State.divideHeld_trap _ _ _)).trans ht))

theorem execRedmd_enters (xd : XReg) : EntersAtTvec (execRedmd xd s) := by
  refine .next (cond_induction (fun _ => State.cStall_atTvec hs) fun _ => ?_)
  split
  · exact State.cRaise_atTvec hs _ _
  · exact cond_induction (fun _ => State.cRaise_atTvec hs _ _) fun _ =>
      State.unmetCause_atTvec ((State.cRetire_sup _ _ _ _ _).trans ((State.setTen_sup _ _).trans ((State.sup_of_trap (State.divideHeld_trap _ _ _)).trans hs))) _

theorem execLsymPin_enters (xa : XReg) (i : BitVec 3) : EntersAtTvec (execLsymPin xa i s) :=
  .next (cond_induction (fun _ => State.cStall_atTvec hs) fun _ => cond_induction (fun _ => State.cRaise_atTvec hs _ _) fun _ =>
    State.cRetire_atTvec ((State.setSym_sup _ _ _).trans hs) _ _ _ _)

theorem execLsymFree_enters (i : BitVec 3) : EntersAtTvec (execLsymFree i s) :=
  .next (cond_induction (fun _ => State.cRaise_atTvec hs _ _) fun _ => State.cRetire_atTvec ((State.setSym_sup _ _ _).trans hs) _ _ _ _)

theorem State.fence_atTvec (kind : BitVec 2) : (s.fence kind).AtTvec :=
  cond_induction (fun _ => State.cRetire_atTvec ((State.sup_of_trap (State.fenceEffect_trap _ _)).trans (s.flushStore_sup.trans hs)) _ _ _ _) fun _ =>
    .of_task ((State.setC_sup _ _).trans (s.flushStore_sup.trans hs))

theorem execNbFence_enters : EntersAtTvec (execNbFence s) :=
  .next (cond_induction (fun _ => State.cRetire_atTvec ((State.sup_of_trap (State.bankFence_trap _)).trans (s.flushStore_sup.trans hs)) _ _ _ _) fun _ =>
    .of_task ((State.setC_sup _ _).trans (s.flushStore_sup.trans hs)))

theorem execMon_enters (xd xa : XReg) : EntersAtTvec (execMon xd xa s) := by
  refine .next (cond_induction (fun _ => State.cStall_atTvec hs) fun _ => cond_induction (fun _ => State.cRaise_atTvec hs _ _) fun _ => ?_)
  have ht : (s.cEvent (s.xRead xa)).sup = false := (State.sup_of_trap (s.cEvent_trap _)).trans hs
  dsimp only
  split
  · exact State.cFail_atTvec ht _ _ _
  · refine cond_induction (fun _ => State.cStall_atTvec ht) fun _ => State.cRetire_atTvec ((State.setC_sup _ _).trans ?_) _ _ _ _
    exact (State.sup_of_trap (State.l1Hit_trap _ _)).trans ht

theorem State.mwaitReturn_atTvec (xd : XReg) (srcs : List XReg) (reason : Nat) : (s.mwaitReturn xd srcs reason).AtTvec :=
  State.cRetire_atTvec ((State.setC_sup _ _).trans ((State.sup_of_trap (State.replayed_trap _ _ _ _ _)).trans hs)) _ _ _ _

theorem execMwait_enters (xd xa : XReg) : EntersAtTvec (execMwait xd xa s) := by
  refine .next (cond_induction (fun _ => State.cStall_atTvec hs) fun _ => cond_induction (fun _ => State.mwaitReturn_atTvec hs _ _ _) fun _ => ?_)
  split
  · exact State.mwaitReturn_atTvec hs _ _ _
  · exact State.mwaitReturn_atTvec hs _ _ _
  · exact State.mwaitReturn_atTvec hs _ _ _
  · have hf : s.flushStore.sup = false := s.flushStore_sup.trans hs
    dsimp only
    split
    · refine .of_task ((State.sup_of_trap (State.directedYield_trap _ _)).trans ?_)
      exact (State.setC_sup _ _).trans ((State.xPop_sup _ _).trans hf)
    · exact State.mwaitReturn_atTvec hf _ _ _

theorem State.barWait_atTvec (i : Instr) (l : BitVec 2) : (s.barWait i l).AtTvec :=
  cond_induction (fun _ => State.cRetire_atTvec ((State.setC_sup _ _).trans hs) _ _ _ _) fun _ => .of_task ((State.setC_sup _ _).trans hs)

theorem State.barA_atTvec (xd : XReg) (l : BitVec 2) : (s.barA xd l).AtTvec :=
  cond_induction (fun _ => State.cStall_atTvec hs) fun _ => cond_induction (fun _ => State.cRaise_atTvec hs _ _) fun _ =>
    cond_induction (fun _ => State.cRetire_atTvec ((State.sup_of_trap (State.barDo_trap _ _ _)).trans (s.flushStore_sup.trans hs)) _ _ _ _) fun _ =>
      .of_task ((State.setC_sup _ _).trans (s.flushStore_sup.trans hs))

theorem State.barW_atTvec (l : BitVec 2) : (s.barW l).AtTvec :=
  cond_induction (fun _ => State.cRaise_atTvec hs _ _) fun _ => State.barWait_atTvec (s.flushStore_sup.trans hs) _ _

theorem State.barAW_atTvec (l : BitVec 2) : (s.barAW l).AtTvec := by
  have hf : s.flushStore.sup = false := s.flushStore_sup.trans hs
  exact cond_induction (fun _ => State.cRaise_atTvec hs _ _) fun _ => cond_induction (fun _ => State.barWait_atTvec hf _ _) fun _ =>
    cond_induction (fun _ => State.barWait_atTvec ((State.sup_of_trap (State.barDo_trap _ _ _)).trans hf) _ _) fun _ => .of_task ((State.setC_sup _ _).trans hf)

theorem execTokPush_enters (next : Bool) : EntersAtTvec (execTokPush next s) :=
  .next (cond_induction (fun _ => State.cRetire_atTvec
      ((State.tokGive_sup _ _ _).trans ((State.tokReserve_sup _ _ _).trans (s.flushStore_sup.trans hs))) _ _ _ _)
    fun _ => State.cStall_atTvec hs)

theorem execTokPop_enters (next : Bool) : EntersAtTvec (execTokPop next s) :=
  .next (cond_induction (fun _ => State.cRetire_atTvec ((State.tokTake_sup _ _ _).trans hs) _ _ _ _) fun _ => State.cStall_atTvec hs)

theorem execTsub_enters (xa : XReg) (q : BitVec 6) : EntersAtTvec (execTsub xa q s) :=
  .next (cond_induction (fun _ => State.cStall_atTvec hs) fun _ => cond_induction (fun _ => State.cRaise_atTvec hs _ _) fun _ =>
    cond_induction (fun _ => State.cRaise_atTvec hs _ _) fun _ => cond_induction (fun _ => State.cStall_atTvec hs) fun _ =>
      State.cRetire_atTvec ((State.setQ_sup _ _).trans (s.flushStore_sup.trans hs)) _ _ _ _)

theorem execTdep_enters (xd xa : XReg) : EntersAtTvec (execTdep xd xa s) := by
  refine .next (cond_induction (fun _ => State.cStall_atTvec hs) fun _ => cond_induction (fun _ => State.cRaise_atTvec hs _ _) fun _ => ?_)
  have ht : (s.cEvent (s.xRead xa + 0xc4)).sup = false := (State.sup_of_trap (s.cEvent_trap _)).trans hs
  dsimp only
  split
  · exact State.cFail_atTvec ht _ _ _
  · refine cond_induction (fun _ => State.cStall_atTvec ht) fun _ => State.cRetire_atTvec ((State.predSeen_sup _ _ _ _ _).trans ?_) _ _ _ _
    have hw : ∀ pa, (((s.cEvent (s.xRead xa + 0xc4)).l2Hit pa).rmwFirst (span pa 4)).sup = false := fun pa => by
      rw [State.sup_of_trap (State.rmwFirst_trap _ _), State.sup_of_trap (State.l2Hit_trap _ _), ht]
    exact cond_induction (P := fun t : State => t.sup = false) (fun _ => hw _) fun _ => (State.sup_of_trap (State.store_trap _ _ _ _ _)).trans (hw _)

theorem execYield_enters (strict : Bool) : EntersAtTvec (execYield strict s) :=
  .next (State.cRetire_atTvec ((State.flushStore_sup _).trans (cond_induction (P := fun t : State => t.sup = false) (fun _ => hs) fun _ =>
    (State.setV_sup _ _).trans ((State.setCtx_sup _ _).trans hs))) _ _ _ _)

theorem State.csrOp_atTvec (i : Instr) (n : BitVec 12) (xd : XReg) (srcs : List XReg) (f : Option (Word64 → Word64)) :
    (s.csrOp i n xd srcs f).AtTvec := by
  refine cond_induction (fun _ => State.cRaise_atTvec hs _ _) fun _ => cond_induction (fun _ => State.cStall_atTvec hs) fun _ =>
    State.cRetire_atTvec ?_ _ _ _ _
  have hr : (s.csrValue n).1.sup = false := (State.sup_of_trap (s.csrValue_trap n)).trans hs
  split
  · exact cond_induction (P := fun t : State => t.sup = false) (fun _ => (State.writeCsr_sup _ _ _).trans hr) fun _ => hr
  · exact hr

theorem State.privileged_atTvec (i : Instr) (f : State → State) : (s.privileged i f).AtTvec := by
  rw [State.privileged_task i f hs]
  exact State.cRaise_atTvec hs _ _

theorem execIcsync_enters : EntersAtTvec (execIcsync s) :=
  .next (State.cRetire_atTvec ((State.setCtx_sup _ _).trans ((State.setC_sup _ _).trans (s.flushStore_sup.trans hs))) _ _ _ _)

theorem execEndC_enters : EntersAtTvec (execEndC s) := by
  have hf : s.flushStore.sup = false := s.flushStore_sup.trans hs
  refine .next ?_
  dsimp only
  rw [hf, cond_false]
  have hc : (s.flushStore.touch.count 0x04 1).sup = false := (State.sup_of_trap (State.count_trap _ _ _)).trans hf
  exact .of_task ((State.setC_sup _ _).trans ((State.setCtx_sup _ _).trans hc))

theorem State.softTrap_atTvec (cause : BitVec 8) (tval : Word64) : (s.softTrap cause tval).AtTvec := by
  have hf : s.flushStore.sup = false := s.flushStore_sup.trans hs
  unfold State.softTrap
  dsimp only
  rw [hf, cond_false]
  exact cond_induction (fun _ => .of_task hf) fun _ => State.takeTrap_atTvec _ _ _ _ _ _

end

/-- After any C word of task mode, a core in supervisor mode stands at TVEC. -/
theorem exec_enters {i : Instr} {w : Word32} {s : State} (h : encode i = some (.c w)) (hs : s.sup = false) : EntersAtTvec (exec i s) := by
  cases i
  all_goals cases h
  case add | sub | and | or | xor | andn | sll | srl | sra | slt | sltn | min | max | minn | maxn | mul | mulh | mulhn | div | divn | rem | remn | clz | ctz |
      popc | bswap | addx | addi | andi | ori | xori | slli | srli | srai | slti | sltni | muli | ldhi | lea | sbRd | dmdRd | lsymRd =>
    exact State.cExec_enters hs _ _ _
  case migRd | eqRd => exact State.cExec_enters (s.flushStore_sup.trans hs) _ _ _
  case ldI8 | ldI16 | ldI32 | ld | ldN8 | ldN16 | ldN32 => exact .next (State.cLoad_atTvec hs _ _ _ _ _)
  case stI8 | stI16 | stI32 | st => exact .next (State.cStoreOp_atTvec hs _ _ _ _)
  case beq | bne | blt | bge | bltn | bgen => exact State.cBranch_enters hs _ _ _ _
  case jal => exact .next (State.cRetire_atTvec hs _ _ _ _)
  case jalr => exact execJalr_enters hs _ _ _
  case amoAdd | amoAnd | amoOr | amoXor | amoMin | amoMax | amoSwap | amoCas => exact .next (State.amo64_atTvec hs _ _ _ _ _)
  case amoAddI32 | amoAndI32 | amoOrI32 | amoXorI32 | amoMinI32 | amoMaxI32 | amoSwapI32 | amoCasI32 => exact .next (State.amo32_atTvec hs _ _ _ _ _)
  case amoFaddF32 | amoFaddBf16 => exact .next (State.amoF_atTvec hs _ _ _ _ _)
  case sbBase | sbBaseSc | sbDim | sbFmt | sbWin => exact .next (State.sbWrite_atTvec hs _ _ _ _ _)
  case sbGo => exact execSbGo_enters hs _
  case sbStop => exact execSbStop_enters hs _
  case cpMp | cpPm | cpMm | cpPp | gth | sct | pub | ecw => exact .next (State.engWord_atTvec hs _ _ _ _)
  case mig => exact execMig_enters hs _ _
  case wrfRd => exact execWrfRd_enters hs _ _
  case nbLd => exact execNbLd_enters hs _ _
  case nbGo => exact execNbGo_enters hs _ _ _ _ _
  case nbFence => exact execNbFence_enters hs
  case nbRd => exact execNbRd_enters hs _ _ _
  case dmd => exact execDmd_enters hs _ _ _
  case redmd => exact execRedmd_enters hs _
  case lsymPin => exact execLsymPin_enters hs _ _
  case lsymFree => exact execLsymFree_enters hs _
  case fenceE | fenceB | fenceS | fenceF => exact .next (State.fence_atTvec hs _)
  case mon => exact execMon_enters hs _ _
  case mwait => exact execMwait_enters hs _ _
  case bar => exact .next (State.barAW_atTvec hs _)
  case barA => exact .next (State.barA_atTvec hs _ _)
  case barW => exact .next (State.barW_atTvec hs _)
  case tokPush => exact execTokPush_enters hs _
  case tokPop => exact execTokPop_enters hs _
  case tsub => exact execTsub_enters hs _ _
  case tdep => exact execTdep_enters hs _ _
  case yield => exact execYield_enters hs _
  case csrr | csrw | csrs | csrc => exact .next (State.csrOp_atTvec hs _ _ _ _ _)
  case eret | tlbi => exact .next (State.privileged_atTvec hs _ _)
  case icsync => exact execIcsync_enters hs
  case endC => exact execEndC_enters hs
  case trap | bkpt => exact .next (State.softTrap_atTvec hs _ _)
  case nop => exact .next (.of_task ((State.cGo_sup _ _).trans hs))

end Sys2Proof.Machine

open Sys2Proof Sys2Proof.Machine

/-- Settles O60: of what C's words do, taking a trap alone raises the mode, and it leaves C at TVEC with its freeze in effect. -/
theorem supervisorModeIsEnteredAtTvec : Obligations.SupervisorModeIsEnteredAtTvec := fun _ _ _ t henc hs ht => exec_enters henc hs t ht
end

section
/-! The words that configure, start, stop and read a stream (R181 to R185). -/

namespace Sys2Proof.Machine

open Sys2Proof.Claims

/-- A word that writes no register and pops `srcs` has gone on. -/
theorem goesOn_of_cRetire {i : Instr} {s b : State} {srcs : List XReg} (hq : b.Quiet) (h : exec i s = .next (b.cRetire srcs 0 0 s.pc4)) :
    GoesOn i s b srcs := ⟨_, h, State.cRetire_retired _ _ _ _ hq⟩

/-- A word that only computes returns its value when its ports are ready. -/
theorem returns_of_cExec {i : Instr} {s : State} {srcs : List XReg} {xd : XReg} {v : Word64} (hq : s.Quiet) (hr : s.cReady srcs xd = true)
    (h : exec i s = s.cExec srcs xd v) : Returns i s s srcs xd v := ⟨_, h.trans (State.cExec_ready v hr), State.cRetire_retired _ _ _ _ hq⟩

section
variable {s : State} {i : Instr} {srcs : List XReg} {r : SReg} {bad : Bool} {f : Desc → Desc}

/-- A write form of sb.* that may write (R181). -/
theorem State.sbWrite_writes (hr : s.cReady srcs 0 = true) (ha : (s.desc r).active = false) (hb : bad = false) :
    s.sbWrite i srcs r bad f = (s.setDesc r (f (s.desc r))).cRetire srcs 0 0 s.pc4 := by
  rw [State.sbWrite, hr, ha, hb]
  rfl
/-- A write form of sb.* of an active stream, or with an operand out of its range (R182). -/
theorem State.sbWrite_raises (hr : s.cReady srcs 0 = true) (h : ((s.desc r).active || bad) = true) :
    s.sbWrite i srcs r bad f = s.cRaise 0x01 (cWordOf i) := by
  rw [State.sbWrite, hr, h]
  rfl

theorem goesOn_of_sbWrite (hq : s.Quiet) (h : exec i s = .next (s.sbWrite i srcs r bad f)) (hr : s.cReady srcs 0 = true)
    (ha : (s.desc r).active = false) (hb : bad = false) : GoesOn i s (s.setDesc r (f (s.desc r))) srcs :=
  goesOn_of_cRetire hq (h.trans (congrArg _ (State.sbWrite_writes hr ha hb)))

end

/-- The scale stride that sb.base.sc takes, and the count and stride that sb.dim takes (R182). -/
theorem scaleStride_ok {b : Int} (h : -2147483648 ≤ b) (h' : b ≤ 2147483647) : decide (b < -2147483648 ∨ 2147483647 < b) = false := by
  rw [decide_eq_false_iff_not]
  omega
theorem dim_ok {a : Nat} {b : Int} (h1 : 1 ≤ a) (h2 : a ≤ 16777215) (h3 : -8388608 ≤ b) (h4 : b ≤ 8388607) :
    decide (a = 0 ∨ 16777215 < a ∨ b < -8388608 ∨ 8388607 < b) = false := by
  rw [decide_eq_false_iff_not]
  omega

section
variable {s : State} {r : SReg}

/-- sb.go of an active stream, or of a descriptor that does not check (R183). -/
theorem exec_sbGo_raises (h : ((s.desc r).active || !(s.desc r).ok) = true) : exec (.sbGo r) s = .next (s.cRaise 0x01 (cWordOf (.sbGo r))) := by
  rw [show exec (.sbGo r) s = execSbGo r s from rfl, execSbGo]
  dsimp only
  rw [h, cond_true]
theorem exec_sbGo_starts (ha : (s.desc r).active = false) (hok : (s.desc r).ok = true) : exec (.sbGo r) s =
    .next (((s.setDesc r ((s.desc r).start s.core.ten r)).setTen { s.core.ten with
      committed := s.core.ten.committed || (s.core.ten.held.bind fun h => h.streamShare r).isSome, started := r :: s.core.ten.started,
      later := s.core.ten.later.filter (· != r) }).cRetire [] 0 0 s.pc4) := by
  rw [show exec (.sbGo r) s = execSbGo r s from rfl, execSbGo]
  dsimp only
  rw [ha, hok]
  rfl

/-- sb.stop of a stream none of whose pops waits for data (R184). -/
theorem exec_sbStop (h : (s.core.v.flight.any fun f => f.await.any fun a => a.1 == r) = false) : exec (.sbStop r) s =
    .next ((bif (s.desc r).active then s.setDesc r { (s.desc r).setActive false with ahead := [], late := false, req := [] } else s).cRetire [] 0 0 s.pc4) := by
  rw [show exec (.sbStop r) s = execSbStop r s from rfl, execSbStop, h, cond_false]
  dsimp only
  cases (s.desc r).active <;> rfl

end

theorem streamWordsConfigureAndStart : StreamWordsConfigureAndStart := by
  intro r xd xa xb dim n s hq
  refine ⟨fun ha => ⟨fun hr => ?_, fun hr h1 h2 => ?_, fun hr h1 h2 h3 h4 => ?_, fun hr => ?_, fun hr => ?_, fun hok => ?_, fun h => ?_⟩, fun ha h => ?_, fun hr => ?_⟩
  · exact goesOn_of_sbWrite (i := .sbBase r xa) hq rfl hr ha rfl
  · exact goesOn_of_sbWrite (i := .sbBaseSc r xa xb) hq rfl hr ha (scaleStride_ok h1 h2)
  · exact goesOn_of_sbWrite (i := .sbDim r dim xa xb) hq rfl hr ha (dim_ok h1 h2 h3 h4)
  · exact goesOn_of_sbWrite (i := .sbFmt r xa xb) hq rfl hr ha rfl
  · exact goesOn_of_sbWrite (i := .sbWin r xa) hq rfl hr ha rfl
  · exact goesOn_of_cRetire hq (exec_sbGo_starts ha hok)
  · exact goesOn_of_cRetire hq ((exec_sbStop h).trans (by rw [ha]; rfl))
  · exact goesOn_of_cRetire hq ((exec_sbStop h).trans (by rw [ha]; rfl))
  · exact returns_of_cExec hq hr rfl

theorem activeStreamRejectsConfiguration : ActiveStreamRejectsConfiguration := by
  intro r xa xb dim s ha
  have h (bad : Bool) : ((s.desc r).active || bad) = true := by rw [ha]; rfl
  refine ⟨fun hr => ?_, fun hr => ?_, fun hr => ?_, fun hr => ?_, fun hr => ?_, exec_sbGo_raises (h _)⟩
  all_goals exact congrArg Host.Outcome.next (State.sbWrite_raises hr (h _))

theorem streamOperandsOutOfRangeTrap : StreamOperandsOutOfRangeTrap := by
  intro r xa xb dim s _
  have h {p : Prop} [Decidable p] (hp : p) : ((s.desc r).active || decide p) = true := by rw [decide_eq_true hp, Bool.or_true]
  refine ⟨fun hr hb => congrArg Host.Outcome.next (State.sbWrite_raises hr (h hb)), fun hr hb => congrArg Host.Outcome.next (State.sbWrite_raises hr (h hb)), fun hok => ?_⟩
  exact exec_sbGo_raises (by rw [hok]; exact Bool.or_true _)

end Sys2Proof.Machine

open Sys2Proof Sys2Proof.Machine

/-- Settles O7: each configuration word writes one descriptor or raises, as the stream is inactive with its operands in range or not; `sb.go` starts what checks. -/
theorem streamsAreConfiguredWhileInactive : Obligations.StreamsAreConfiguredWhileInactive :=
  ⟨streamWordsConfigureAndStart, activeStreamRejectsConfiguration, streamOperandsOutOfRangeTrap⟩
end

section
/-! What serving C's accesses leaves of the core, and the words of the engines, of migrate, and of demands and latency symbols (R158, R186 to R200, R252, R268 to R270). -/

namespace Sys2Proof.Machine

open Sys2Proof.Claims

/-! ### What an access of C leaves of the core -/

/-- A core as the accesses of C leave it: the store buffer, the watch, the granules that wait, what the L1 region and the TLB hold, the counters and the interrupt trace
may differ. -/
def Core.Served (a b : Core) : Prop :=
  ∃ st w g pf un l1 mm ir, b = { a with
    c := { a.c with store := st, watch := w }, nb := { a.nb with writes := g }, perf := pf, units := un, l1 := l1, mmu := mm, dbg := { a.dbg with irqLines := ir } }

section
variable {a b c : Core} {s t u : State}

theorem Core.Served.rfl' (a : Core) : a.Served a := ⟨_, _, _, _, _, _, _, _, rfl⟩
theorem Core.Served.trans (h : a.Served b) (k : b.Served c) : a.Served c := by
  obtain ⟨_, _, _, _, _, _, _, _, rfl⟩ := h
  obtain ⟨_, _, _, _, _, _, _, _, rfl⟩ := k
  exact ⟨_, _, _, _, _, _, _, _, rfl⟩
theorem Core.Served.pc (h : a.Served b) : b.c.pc = a.c.pc := by
  obtain ⟨_, _, _, _, _, _, _, _, rfl⟩ := h
  rfl
theorem Core.Served.csr (h : a.Served b) : b.csr = a.csr := by
  obtain ⟨_, _, _, _, _, _, _, _, rfl⟩ := h
  rfl
theorem Core.Served.ctx (h : a.Served b) : b.ctx = a.ctx := by
  obtain ⟨_, _, _, _, _, _, _, _, rfl⟩ := h
  rfl
theorem Core.Served.ten (h : a.Served b) : b.ten = a.ten := by
  obtain ⟨_, _, _, _, _, _, _, _, rfl⟩ := h
  rfl
theorem Core.Served.trap (h : a.Served b) : b.trap = a.trap := by
  obtain ⟨_, _, _, _, _, _, _, _, rfl⟩ := h
  rfl
theorem Core.Served.nb (h : a.Served b) : ∃ g, b.nb = { a.nb with writes := g } := by
  obtain ⟨_, _, g, _, _, _, _, _, rfl⟩ := h
  exact ⟨g, rfl⟩
theorem Core.Served.injected (h : s.core.Served t.core) (src : BitVec 4) : t.injected src = s.injected src := by
  obtain ⟨_, _, _, _, _, _, _, _, e⟩ := h
  unfold State.injected State.declares State.sym
  rw [e]

theorem State.flushStore_served (s : State) : s.core.Served s.flushStore.core := by
  obtain ⟨w, g, l, e⟩ := s.flushStore_core
  exact ⟨none, w, g, s.core.perf, s.core.units, s.core.l1, s.core.mmu, l, e⟩
theorem State.Cached.served (h : s.Cached t) : s.core.Served t.core := by
  obtain ⟨_, _, _, _, _, w, pf, un, ir, l1, mm, _, _, _, _, _, _, rfl⟩ := h
  exact ⟨_, w, _, pf, un, l1, mm, ir, rfl⟩
theorem State.cEvent_served (va : Word64) (hq : s.Quiet) : s.core.Served (s.cEvent va).core := s.flushStore_served.trans (State.cEvent_cached va hq).served

/-- A run of loads leaves the machine quiet, and of the core what they have served. -/
theorem State.cBytes_quiet_served (va : Word64) (n : Nat) (hq : s.Quiet) : (s.cBytes va n).state.Quiet ∧ s.core.Served (s.cBytes va n).state.core := by
  induction n generalizing s va with
  | zero => exact ⟨hq, Core.Served.rfl' _⟩
  | succ n ih =>
    have hev : (s.cEvent va).Quiet ∧ s.core.Served (s.cEvent va).core := ⟨hq.cEvent va, State.cEvent_served va hq⟩
    unfold State.cBytes
    dsimp only
    split
    · exact hev
    · rename_i pa hx
      refine cond_induction (P := fun r : CRead => r.state.Quiet ∧ s.core.Served r.state.core) (fun _ => hev) fun _ => ?_
      have hl := State.l1Hit_cached pa hev.1
      obtain ⟨hq', hs'⟩ := ih (va + 8) (hl.quiet hev.1)
      have hstep := And.intro hq' ((hev.2.trans hl.served).trans hs')
      split
      · next hgot =>
        rw [hgot] at hstep
        exact hstep
      · exact hstep
theorem State.cBytes_got {va : Word64} {n : Nat} {raw : List Byte} (hq : s.Quiet) (h : s.cBytes va n = .got u raw) : u.Quiet ∧ s.core.Served u.core := by
  have key := State.cBytes_quiet_served va n hq
  rw [h] at key
  exact key

@[simp] theorem State.flushStore_eng (s : State) : s.flushStore.core.eng = s.core.eng := by
  obtain ⟨w, g, l, e⟩ := s.flushStore_core
  rw [e]
@[simp] theorem State.flushStore_cReady (s : State) (srcs : List XReg) (xd : XReg) : s.flushStore.cReady srcs xd = s.cReady srcs xd := by
  unfold State.cReady State.xCanPop State.xCanPush
  rw [State.flushStore_sup, State.flushStore_q]
@[simp] theorem State.flushStore_tstamp (s : State) : s.flushStore.tstamp = s.tstamp := by rw [State.tstamp, State.flushStore_time, State.tstamp]

/-- A word that places the pending store and then only computes. -/
theorem returns_of_flushStore_cExec {i : Instr} {srcs : List XReg} {xd : XReg} {v : Word64} (hq : s.Quiet) (hr : s.cReady srcs xd = true)
    (h : exec i s = s.flushStore.cExec srcs xd v) : Returns i s s.flushStore srcs xd v := by
  refine ⟨_, h.trans (State.cExec_ready v ((s.flushStore_cReady srcs xd).trans hr)), ?_⟩
  rw [State.flushStore_pc4]
  exact State.cRetire_retired _ _ _ _ hq.flushStore

end

/-! ### Engine words -/

section
variable {s : State} {e : Eng} {i : Instr} {srcs : List XReg} {bad : Option (BitVec 8 × Word64)} {c : Cmd}

/-- The queue of an engine longer by a command, and the numbers of commands gone on. -/
theorem entered_eq (s : State) (e : Eng) (c : Cmd) : entered s e c =
    (s.flushStore.setCmds e (s.flushStore.cmds e ++ [{ c with since := s.flushStore.core.ctx.live, extra := match e with | .copy => s.flushStore.injected 0xb | .gather => 0 }])).setEng
      { (s.flushStore.setCmds e (s.flushStore.cmds e ++ [{ c with since := s.flushStore.core.ctx.live, extra := match e with | .copy => s.flushStore.injected 0xb | .gather => 0 }])).core.eng with
        seq := s.flushStore.core.eng.seq + 1 } := by
  cases e <;> rfl
theorem entered_quiet (e : Eng) (c : Cmd) (hq : s.Quiet) : (entered s e c).Quiet := by
  cases e <;> exact hq.flushStore
theorem entered_pc4 (s : State) (e : Eng) (c : Cmd) : (entered s e c).pc4 = s.pc4 := by
  cases e <;> exact s.flushStore_pc4

/-- An engine word that may enter enters (R158, R188). -/
theorem State.engWord_enters (h : MayEnter s e srcs c) (hb : bad = none) : s.engWord e srcs bad c = (entered s e c).cRetire srcs 0 0 (entered s e c).pc4 := by
  obtain ⟨hr, hl, hp⟩ := h
  have hd : decide (engDepth e ≤ (s.cmds e).length) = false := decide_eq_false (Nat.not_le.mpr hl)
  have hf : (c.ranges.1 ++ c.ranges.2).findSome? (fun r => s.scratchBad r.1 r.2) = none := List.findSome?_eq_none_iff.mpr hp
  unfold State.engWord
  rw [hr, hd, hb]
  dsimp only [Bool.not_true, Bool.or_false, cond_false]
  rw [hf]
  cases e <;> rfl

theorem goesOn_of_engWord (hq : s.Quiet) (hx : exec i s = .next (s.engWord e srcs bad c)) (hb : bad = none) (h : MayEnter s e srcs c) :
    GoesOn i s (entered s e c) srcs :=
  goesOn_of_cRetire (entered_quiet e c hq) ((hx.trans (congrArg Host.Outcome.next (State.engWord_enters h hb))).trans (by rw [entered_pc4]))

end

end Sys2Proof.Machine

open Sys2Proof Sys2Proof.Machine Sys2Proof.Claims

/-- Settles O8: every engine word is `engWord` of the command its operands describe, refused by no operand here; eq.rd reads the queue as it found it. -/
theorem engineWordsEnterTheirQueue : Obligations.EngineWordsEnterTheirQueue := by
  intro xd xa xb done defer iw all gather sz sel s hq
  have hlen {x : Nat} (i : Instr) (h : x = 0) : (bif x != 0 then some ((0x01 : BitVec 8), cWordOf i) else none) = none := by
    rw [h]
    rfl
  refine ⟨goesOn_of_engWord hq rfl rfl, goesOn_of_engWord hq rfl rfl, goesOn_of_engWord hq rfl rfl, goesOn_of_engWord hq rfl rfl,
    fun h => goesOn_of_engWord hq rfl (hlen _ h), fun h => goesOn_of_engWord hq rfl (hlen _ h), goesOn_of_engWord hq rfl rfl, fun h => ?_, fun hr => ?_⟩
  · exact goesOn_of_engWord hq (i := .ecw xd xa all) rfl (by rw [h]; rfl)
  · refine returns_of_flushStore_cExec hq hr ?_
    rw [← Bool.cond_eq_ite]
    rfl
end

section
/-! The words of migrate, of demands and of latency symbols (R197, R198, R200, R252, R268 to R270). -/

namespace Sys2Proof.Machine

open Sys2Proof.Claims

/-! ### Migrate and refresh windows -/

section
variable {s : State} {xa xb xd : XReg}

/-- The migrate unit replaced. -/
def State.setMig (s : State) (m : Migrate) : State := { s with core := { s.core with mig := m } }

/-- The page of a mig is in the TLB already (R197). -/
def State.migHeld (s : State) (page : Word64) : Prop := canonical page = true ∧ (s.flushStore.tlbFind s.core.ctx.part s.core.ctx.vf page).isSome = true

/-- The table's first free entry. -/
def Migrate.firstFree (m : Migrate) : Option Nat := (List.range 8).find? fun i => (vget m.table i none).isNone

theorem Migrate.firstFree_none {m : Migrate} (h : ∀ i < 8, (vget m.table i none).isSome = true) : m.firstFree = none :=
  List.find?_range_eq_none.mpr fun i hi => by rw [Option.not_isNone]; exact h i hi
theorem Migrate.firstFree_some {m : Migrate} {i : Nat} (hi : i < 8) (h : vget m.table i none = none) (hb : ∀ j < i, (vget m.table j none).isSome = true) :
    m.firstFree = some i :=
  List.find?_range_eq_some.mpr ⟨by rw [h]; rfl, List.mem_range.mpr hi, fun j hj => by rw [Option.not_isNone]; exact hb j hj⟩

/-- A mig by the two things it looks at: whether its page is in the TLB, and the first free entry. -/
theorem exec_mig (hr : s.cReady [xa, xb] 0 = true) : exec (.mig xa xb) s = .next ((s.flushStore.setMig
    (bif canonical (s.xRead xa) && (s.flushStore.tlbFind s.core.ctx.part s.core.ctx.vf (s.xRead xa)).isSome then s.flushStore.core.mig
      else match s.flushStore.core.mig.firstFree with
        | none => { s.flushStore.core.mig with drop := satAdd s.flushStore.core.mig.drop 1 }
        | some i => { s.flushStore.core.mig with table := vset s.flushStore.core.mig.table i (some ⟨s.xRead xa, s.xRead xb, none⟩) })).cRetire [xa, xb] 0 0 s.pc4) := by
  rw [show exec (.mig xa xb) s = execMig xa xb s from rfl, execMig, hr, ← s.flushStore_pc4, ← s.flushStore_xRead xb]
  rfl

theorem migHeld_bool (h : s.migHeld (s.xRead xa)) :
    (canonical (s.xRead xa) && (s.flushStore.tlbFind s.core.ctx.part s.core.ctx.vf (s.xRead xa)).isSome) = true := Bool.and_eq_true_iff.mpr h
theorem not_migHeld_bool (h : ¬ s.migHeld (s.xRead xa)) :
    (canonical (s.xRead xa) && (s.flushStore.tlbFind s.core.ctx.part s.core.ctx.vf (s.xRead xa)).isSome) = false :=
  Bool.eq_false_iff.mpr fun e => h (Bool.and_eq_true_iff.mp e)

theorem mig_held (hq : s.Quiet) (hr : s.cReady [xa, xb] 0 = true) (h : s.migHeld (s.xRead xa)) : GoesOn (.mig xa xb) s s.flushStore [xa, xb] :=
  goesOn_of_cRetire hq.flushStore ((exec_mig hr).trans (by rw [migHeld_bool h]; rfl))
theorem mig_full (hq : s.Quiet) (hr : s.cReady [xa, xb] 0 = true) (h : ¬ s.migHeld (s.xRead xa)) (hf : ∀ i < 8, (vget s.core.mig.table i none).isSome = true) :
    GoesOn (.mig xa xb) s (s.flushStore.setMig { s.core.mig with drop := satAdd s.core.mig.drop 1 }) [xa, xb] :=
  goesOn_of_cRetire hq.flushStore ((exec_mig hr).trans (by rw [not_migHeld_bool h, State.flushStore_mig, Migrate.firstFree_none hf]; rfl))
theorem mig_takes {i : Nat} (hq : s.Quiet) (hr : s.cReady [xa, xb] 0 = true) (h : ¬ s.migHeld (s.xRead xa)) (hi : i < 8) (hn : vget s.core.mig.table i none = none)
    (hf : ∀ j < i, (vget s.core.mig.table j none).isSome = true) :
    GoesOn (.mig xa xb) s (s.flushStore.setMig { s.core.mig with table := vset s.core.mig.table i (some ⟨s.xRead xa, s.xRead xb, none⟩) }) [xa, xb] :=
  goesOn_of_cRetire hq.flushStore ((exec_mig hr).trans (by rw [not_migHeld_bool h, State.flushStore_mig, Migrate.firstFree_some hi hn hf]; rfl))

/-- A machine that neither records nor replays: an input of C is the live one (R404, R405). -/
theorem State.replayed_live (type : Nat) (key addr live : Word64) (hq : s.Quiet) (hp : (s.part s.myPart).repMode ≠ 2) : s.replayed type key addr live = (s, live) := by
  have hb : ((s.part s.core.ctx.part).repMode == 2) = false := beq_eq_false_iff_ne.mpr hp
  rw [State.replayed]
  dsimp only
  rw [hb, cond_false, State.record_quiet _ _ _ _ _ (hq _)]

theorem wrfRd_returns (hq : s.Quiet) (hr : s.cReady [xa] xd = true) (hp : (s.part s.myPart).repMode ≠ 2) :
    Returns (.wrfRd xd xa) s s.flushStore [xa] xd (BitVec.ofNat 64 (refreshStart (bits (s.xRead xa).toNat 3 0) (s.tstamp % 2 ^ 64))) := by
  have hp' : (s.flushStore.part s.flushStore.myPart).repMode ≠ 2 := by rw [State.flushStore_rep, State.flushStore_myPart]; exact hp
  refine ⟨_, ?_, State.cRetire_retired _ _ _ _ hq.flushStore⟩
  rw [show exec (.wrfRd xd xa) s = execWrfRd xd xa s from rfl, execWrfRd, hr]
  dsimp only [Bool.not_true, cond_false]
  rw [State.replayed_live _ _ _ _ hq.flushStore hp', State.flushStore_pc4, BitVec.toNat_ofNat, State.flushStore_tstamp]
  rfl

end

theorem migrateAndRefreshWordsRetire : MigrateAndRefreshWordsRetire := by
  intro xd xa xb sel s hq
  refine ⟨fun hr => ⟨mig_held hq hr, fun h hf => mig_full hq hr h hf, fun h i hi hn hf => mig_takes hq hr h hi hn hf⟩, fun hr => ?_, fun hr hp => wrfRd_returns hq hr hp⟩
  exact returns_of_flushStore_cExec hq hr rfl

/-! ### Demands -/

section
variable {s u : State} {xa xd : XReg} {n : BitVec 4} {raw : List Byte}

theorem State.setDesc_csr_c_pkg (s : State) (r : SReg) (d : Desc) :
    ((s.setDesc r d).core.csr, (s.setDesc r d).core.c, (s.setDesc r d).pkg) = (s.core.csr, s.core.c, s.pkg) := rfl
/-- Apply() changes streams and the held demand's settings alone. -/
theorem State.applyDemand_keeps (s : State) :
    (s.applyDemand.core.csr, s.applyDemand.core.c, s.applyDemand.pkg) = (s.core.csr, s.core.c, s.pkg) := by
  unfold State.applyDemand
  exact foldl_keeps _ (fun (x : State) => (x.core.csr, x.core.c, x.pkg))
    (fun x r => cond_induction (P := fun t : State => (t.core.csr, t.core.c, t.pkg) = (x.core.csr, x.core.c, x.pkg)) (fun _ => rfl) fun _ => x.setDesc_csr_c_pkg r _) allStreams s
theorem State.applyDemand_csr (s : State) : s.applyDemand.core.csr = s.core.csr := congrArg (·.1) s.applyDemand_keeps
theorem State.applyDemand_quiet (hq : s.Quiet) : s.applyDemand.Quiet := fun p => by
  rw [State.part, show s.applyDemand.pkg = s.pkg from congrArg (·.2.2) s.applyDemand_keeps]
  exact hq p

theorem State.commitHeld_csr (s : State) : s.commitHeld.core.csr = s.core.csr := rfl
theorem State.commitHeld_quiet (hq : s.Quiet) : s.commitHeld.Quiet := hq
/-- A division changes what is held and DMDX. -/
theorem State.divideHeld_trapen (s : State) (tab : List TNode) (b : Nat) : (s.divideHeld tab b).1.core.csr.trapen = s.core.csr.trapen := by
  unfold State.divideHeld
  generalize divideTable tab s.core.ten.kw b = r
  rfl
theorem State.divideHeld_quiet (tab : List TNode) (b : Nat) (hq : s.Quiet) : (s.divideHeld tab b).1.Quiet := by
  unfold State.divideHeld
  generalize divideTable tab s.core.ten.kw b = r
  exact hq

/-- C's word retires and keeps the traps that are enabled. -/
theorem Retired.csr {b t : State} {srcs : List XReg} {v pc : Word64} (h : Retired b t srcs 0 v pc) : t.core.csr = b.core.csr := by
  have h := h.1
  rw [State.placedFor_zero, RetiredFrame] at h
  rw [h]

theorem State.unmetCause_not {b : Bool} (h : b = false ∨ s.core.csr.trapen.getLsbD 2 = false) : s.unmetCause b = s := by
  rw [State.unmetCause]
  rcases h with h | h
  · rw [h]
    rfl
  · rw [h, Bool.and_false]
    rfl
theorem State.unmetCause_traps (h : s.core.csr.trapen.getLsbD 2 = true) : s.unmetCause true = s.async 2 s.core.csr.dmdx := by
  rw [State.unmetCause, h]
  rfl

/-- A dmd whose table may be loaded and checks (R268). -/
theorem exec_dmd (hr : s.cReady [xd, xa] 0 = true) (hal : (s.xRead xa).toNat % 16 = 0) (hc : s.core.ten.committed = false)
    (hl : s.cBytes (s.xRead xa) (2 * (n.toNat + 1)) = .got u raw) (ht : tableOk raw (n.toNat + 1) = true) : exec (.dmd xd xa n) s = .next (
      bif bits (s.xRead xd).toNat 11 0 == 0 then (u.setTen { u.core.ten with held := none, pending := false }).applyDemand.cRetire [xd, xa] 0 0 u.pc4
      else ((u.divideHeld (parseTable raw (n.toNat + 1)) (bits (s.xRead xd).toNat 11 0)).1.applyDemand.commitHeld.cRetire [xd, xa] 0 0 u.pc4).unmetCause
        (u.divideHeld (parseTable raw (n.toNat + 1)) (bits (s.xRead xd).toNat 11 0)).2) := by
  have hm : execDmd.misalignedBy (s.xRead xa) 16 = false := by rw [execDmd.misalignedBy, hal]; rfl
  rw [show exec (.dmd xd xa n) s = execDmd xd xa n s from rfl, execDmd]
  dsimp only
  rw [hr, hm, hc, hl]
  dsimp only [Bool.not_true, cond_false]
  rw [ht]
  rfl

/-- What a word that retires with an unmet demand's cause does: it goes on when the demand is met or the cause not enabled. -/
theorem goesOn_of_unmet {i : Instr} {b : State} {srcs : List XReg} {un : Bool} (hq : b.Quiet) (hb : b.core.csr.trapen = s.core.csr.trapen)
    (h : exec i s = .next ((b.cRetire srcs 0 0 s.pc4).unmetCause un)) (hu : un = false ∨ s.core.csr.trapen.getLsbD 2 = false) : GoesOn i s b srcs := by
  have hret := State.cRetire_retired srcs 0 0 s.pc4 hq
  refine ⟨_, h, ?_⟩
  rw [State.unmetCause_not (hu.imp_right fun he => by rw [hret.csr, hb]; exact he)]
  exact hret

section
variable (hq : s.Quiet) (hr : s.cReady [xd, xa] 0 = true) (hal : (s.xRead xa).toNat % 16 = 0) (hc : s.core.ten.committed = false)
  (hl : s.cBytes (s.xRead xa) (2 * (n.toNat + 1)) = .got u raw) (ht : tableOk raw (n.toNat + 1) = true)
include hq hr hal hc hl ht

theorem dmd_zero (hb : bits (s.xRead xd).toNat 11 0 = 0) :
    GoesOn (.dmd xd xa n) s (u.setTen { u.core.ten with held := none, pending := false }).applyDemand [xd, xa] := by
  obtain ⟨huq, hus⟩ := State.cBytes_got hq hl
  refine goesOn_of_cRetire (State.applyDemand_quiet (s := u.setTen _) huq) ?_
  rw [exec_dmd hr hal hc hl ht, hb, State.pc4, hus.pc]
  rfl

theorem exec_dmd_demand (hb : bits (s.xRead xd).toNat 11 0 ≠ 0) : exec (.dmd xd xa n) s = .next (
    ((u.divideHeld (parseTable raw (n.toNat + 1)) (bits (s.xRead xd).toNat 11 0)).1.applyDemand.commitHeld.cRetire [xd, xa] 0 0 s.pc4).unmetCause
      (u.divideHeld (parseTable raw (n.toNat + 1)) (bits (s.xRead xd).toNat 11 0)).2) := by
  obtain ⟨huq, hus⟩ := State.cBytes_got hq hl
  rw [exec_dmd hr hal hc hl ht, beq_eq_false_iff_ne.mpr hb, cond_false, State.pc4, hus.pc]
  rfl
omit hr hal hc ht in
theorem dmd_division : let b := (u.divideHeld (parseTable raw (n.toNat + 1)) (bits (s.xRead xd).toNat 11 0)).1.applyDemand.commitHeld
    b.Quiet ∧ b.core.csr.trapen = s.core.csr.trapen := by
  obtain ⟨huq, hus⟩ := State.cBytes_got hq hl
  refine ⟨State.commitHeld_quiet (State.applyDemand_quiet (State.divideHeld_quiet _ _ huq)), ?_⟩
  rw [State.commitHeld_csr, State.applyDemand_csr, State.divideHeld_trapen, hus.csr]

end

/-- A redmd of a held demand, for no less than it holds (R269). -/
theorem exec_redmd {h : Held} (hr : s.cReady [xd] 0 = true) (hh : s.core.ten.held = some h) (hb : (h.div.getD 0 NodeDiv.zero).budget ≤ bits (s.xRead xd).toNat 11 0) :
    exec (.redmd xd) s = .next (State.unmetCause
      (((s.divideHeld h.tab (bits (s.xRead xd).toNat 11 0)).1.setTen { (s.divideHeld h.tab (bits (s.xRead xd).toNat 11 0)).1.core.ten with
        pending := (s.divideHeld h.tab (bits (s.xRead xd).toNat 11 0)).1.core.ten.pending || s.redemandWaits h }).cRetire [xd] 0 0
          (s.divideHeld h.tab (bits (s.xRead xd).toNat 11 0)).1.pc4)
      (s.divideHeld h.tab (bits (s.xRead xd).toNat 11 0)).2) := by
  rw [show exec (.redmd xd) s = execRedmd xd s from rfl, execRedmd]
  dsimp only
  rw [hr, hh]
  dsimp only [Bool.not_true, cond_false]
  rw [decide_eq_false (Nat.not_lt.mpr hb)]
  rfl
theorem State.divideHeld_pc4 (s : State) (tab : List TNode) (b : Nat) : (s.divideHeld tab b).1.pc4 = s.pc4 := by
  unfold State.divideHeld
  generalize divideTable tab s.core.ten.kw b = r
  rfl

theorem redmd_goesOn {h : Held} (hq : s.Quiet) (hr : s.cReady [xd] 0 = true) (hh : s.core.ten.held = some h)
    (hb : (h.div.getD 0 NodeDiv.zero).budget ≤ bits (s.xRead xd).toNat 11 0)
    (hu : (s.divideHeld h.tab (bits (s.xRead xd).toNat 11 0)).2 = false ∨ s.core.csr.trapen.getLsbD 2 = false) :
    GoesOn (.redmd xd) s ((s.divideHeld h.tab (bits (s.xRead xd).toNat 11 0)).1.setTen { (s.divideHeld h.tab (bits (s.xRead xd).toNat 11 0)).1.core.ten with
      pending := (s.divideHeld h.tab (bits (s.xRead xd).toNat 11 0)).1.core.ten.pending || s.redemandWaits h }) [xd] := by
  have hx := exec_redmd hr hh hb
  have hdq := State.divideHeld_quiet h.tab (bits (s.xRead xd).toNat 11 0) hq
  have hdt := State.divideHeld_trapen s h.tab (bits (s.xRead xd).toNat 11 0)
  rw [State.divideHeld_pc4] at hx
  generalize s.divideHeld h.tab (bits (s.xRead xd).toNat 11 0) = r at *
  exact goesOn_of_unmet hdq hdt hx hu

end

theorem demandWordsHoldAndDivide : DemandWordsHoldAndDivide := by
  intro xd xa n sel sl s hq
  refine ⟨fun u raw hr hal hc hl ht => ?_, fun h hh hr hb hu => redmd_goesOn hq hr hh hb hu, fun hr => returns_of_cExec hq hr rfl⟩
  obtain ⟨hdq, hdt⟩ := dmd_division (xd := xd) hq hl
  refine ⟨dmd_zero hq hr hal hc hl ht, fun hb hu => goesOn_of_unmet hdq hdt (exec_dmd_demand hq hr hal hc hl ht hb) hu, fun hb hu he => ?_⟩
  have hx := exec_dmd_demand hq hr hal hc hl ht hb
  have hret := State.cRetire_retired [xd, xa] 0 0 s.pc4 hdq
  rw [hu, State.unmetCause_traps (by rw [hret.csr, hdt]; exact he)] at hx
  exact ⟨_, hret, hx⟩

/-- An access that fails, but not for want of an answer, raises its cause (R102). -/
theorem State.cFail_raises {s : State} {f : XFail} (page : BitVec 8) (va : Word64) (hr : f ≠ .remote) (hw : f ≠ .waits) :
    s.cFail f page va = s.cRaise (xfailCause f page va).1 (xfailCause f page va).2 := by
  cases f with
  | remote => exact absurd rfl hr
  | waits => exact absurd rfl hw
  | noTrans => rfl
  | prot => rfl
  | guard row => rfl
  | poison pa => rfl

section
variable {s u : State} {xa xd : XReg} {n : BitVec 4} {raw : List Byte}

theorem exec_dmd_misaligned (hr : s.cReady [xd, xa] 0 = true) (h : (s.xRead xa).toNat % 16 ≠ 0) : exec (.dmd xd xa n) s = .next (s.cRaise 0x05 (s.xRead xa)) := by
  have hm : execDmd.misalignedBy (s.xRead xa) 16 = true := bne_iff_ne.mpr h
  rw [show exec (.dmd xd xa n) s = execDmd xd xa n s from rfl, execDmd]
  dsimp only
  rw [hr, hm]
  rfl
theorem exec_dmd_committed (hr : s.cReady [xd, xa] 0 = true) (hal : (s.xRead xa).toNat % 16 = 0) (hc : s.core.ten.committed = true) :
    exec (.dmd xd xa n) s = .next (s.cRaise 0x01 (cWordOf (.dmd xd xa n))) := by
  have hm : execDmd.misalignedBy (s.xRead xa) 16 = false := by rw [execDmd.misalignedBy, hal]; rfl
  rw [show exec (.dmd xd xa n) s = execDmd xd xa n s from rfl, execDmd]
  dsimp only
  rw [hr, hm, hc]
  rfl
theorem exec_dmd_fails {f : XFail} {va : Word64} (hr : s.cReady [xd, xa] 0 = true) (hal : (s.xRead xa).toNat % 16 = 0) (hc : s.core.ten.committed = false)
    (hl : s.cBytes (s.xRead xa) (2 * (n.toNat + 1)) = .failed u f va) : exec (.dmd xd xa n) s = .next (u.cFail f 0x06 va) := by
  have hm : execDmd.misalignedBy (s.xRead xa) 16 = false := by rw [execDmd.misalignedBy, hal]; rfl
  rw [show exec (.dmd xd xa n) s = execDmd xd xa n s from rfl, execDmd]
  dsimp only
  rw [hr, hm, hc, hl]
  rfl
theorem exec_dmd_badTable (hr : s.cReady [xd, xa] 0 = true) (hal : (s.xRead xa).toNat % 16 = 0) (hc : s.core.ten.committed = false)
    (hl : s.cBytes (s.xRead xa) (2 * (n.toNat + 1)) = .got u raw) (ht : tableOk raw (n.toNat + 1) = false) :
    exec (.dmd xd xa n) s = .next (u.cRaise 0x01 (cWordOf (.dmd xd xa n))) := by
  have hm : execDmd.misalignedBy (s.xRead xa) 16 = false := by rw [execDmd.misalignedBy, hal]; rfl
  rw [show exec (.dmd xd xa n) s = execDmd xd xa n s from rfl, execDmd]
  dsimp only
  rw [hr, hm, hc, hl]
  dsimp only [Bool.not_true, cond_false]
  rw [ht]
  rfl

theorem exec_redmd_none (hr : s.cReady [xd] 0 = true) (h : s.core.ten.held = none) : exec (.redmd xd) s = .next (s.cRaise 0x01 (cWordOf (.redmd xd))) := by
  rw [show exec (.redmd xd) s = execRedmd xd s from rfl, execRedmd]
  dsimp only
  rw [hr, h]
  rfl
theorem exec_redmd_less {h : Held} (hr : s.cReady [xd] 0 = true) (hh : s.core.ten.held = some h)
    (hb : bits (s.xRead xd).toNat 11 0 < (h.div.getD 0 NodeDiv.zero).budget) : exec (.redmd xd) s = .next (s.cRaise 0x01 (cWordOf (.redmd xd))) := by
  rw [show exec (.redmd xd) s = execRedmd xd s from rfl, execRedmd]
  dsimp only
  rw [hr, hh]
  dsimp only [Bool.not_true, cond_false]
  rw [decide_eq_true hb]
  rfl

end

theorem demandWordsTrap : DemandWordsTrap := by
  intro xd xa n s
  refine ⟨fun hr => ⟨exec_dmd_misaligned hr, exec_dmd_committed hr, fun hal hc => ⟨fun u f va hl hf hw => ?_, fun u raw => exec_dmd_badTable hr hal hc⟩⟩,
    fun hr => ⟨exec_redmd_none hr, fun h => exec_redmd_less hr⟩⟩
  rw [exec_dmd_fails hr hal hc hl, State.cFail_raises _ _ hf hw]

/-! ### Latency symbols -/

section
variable {s : State} {xa : XReg} {i : BitVec 3}

theorem exec_lsymPin (hr : s.cReady [xa] 0 = true) (hu : (s.sym i).src ≠ 0) (hlo : (s.sym i).lo.toNat ≤ (s.xRead xa).toNat)
    (hhi : (s.xRead xa).toNat ≤ (s.sym i).hi.toNat) : exec (.lsymPin xa i) s =
      .next ((s.setSym i { s.sym i with mon := { (s.sym i).mon with req := some (BitVec.ofNat 6 (s.xRead xa).toNat, true) } }).cRetire [xa] 0 0 s.pc4) := by
  have h63 : (s.sym i).hi.toNat < 64 := (s.sym i).hi.isLt
  have hd : decide (63 < (s.xRead xa).toNat ∨ (s.xRead xa).toNat < (s.sym i).lo.toNat ∨ (s.sym i).hi.toNat < (s.xRead xa).toNat) = false := by
    rw [decide_eq_false_iff_not]
    omega
  have hused : (s.sym i).isUsed = true := bne_iff_ne.mpr hu
  rw [show exec (.lsymPin xa i) s = execLsymPin xa i s from rfl, execLsymPin]
  dsimp only
  rw [hr, hused, hd]
  rfl
theorem exec_lsymFree (hu : (s.sym i).src ≠ 0) : exec (.lsymFree i) s = .next ((s.setSym i { s.sym i with mon := { (s.sym i).mon with
    req := match (s.sym i).mon.req with | some (_, true) => none | r => r, pinned := false, a := 0, b := 0 } }).cRetire [] 0 0 s.pc4) := by
  have hused : (s.sym i).isUsed = true := bne_iff_ne.mpr hu
  rw [show exec (.lsymFree i) s = execLsymFree i s from rfl, execLsymFree]
  dsimp only
  rw [hused]
  rfl

end

theorem latencySymbolWordsReadPinFree : LatencySymbolWordsReadPinFree := by
  intro xd xa i s hq
  exact ⟨fun hr => returns_of_cExec hq hr rfl, fun hr hu hlo hhi => goesOn_of_cRetire hq (exec_lsymPin hr hu hlo hhi), fun hu => goesOn_of_cRetire hq (exec_lsymFree hu)⟩

end Sys2Proof.Machine

open Sys2Proof Sys2Proof.Machine

/-- Settles O10: each word's table, demand or symbol decides whether it retires with its effect or raises. -/
theorem migrateDemandAndSymbolWordsRetire : Obligations.MigrateDemandAndSymbolWordsRetire :=
  ⟨migrateAndRefreshWordsRetire, demandWordsHoldAndDivide, demandWordsTrap, latencySymbolWordsReadPinFree⟩
end

section
/-! The near-bank words of C (R344, R345, R348). -/

namespace Sys2Proof.Machine

open Sys2Proof.Claims

section
variable {s u : State} {xd xa xb : XReg} {slot : BitVec 2} {done : Bool} {raw : List Byte}

/-- The microprogram that nb.ld reads in the bytes it has loaded. -/
def nbProgram (raw : List Byte) : List Word64 := (List.range 32).map fun i => BitVec.ofNat 64 (leAt raw (8 * i) 8)

theorem exec_nbLd_misaligned (hr : s.cReady [xa] 0 = true) (h : (s.xRead xa).toNat % 256 ≠ 0) : exec (.nbLd xa slot) s = .next (s.cRaise 0x05 (s.xRead xa)) := by
  rw [show exec (.nbLd xa slot) s = execNbLd xa slot s from rfl, execNbLd]
  dsimp only
  rw [hr, misaligned_of_mod_ne h]
  rfl
theorem exec_nbLd_fails {f : XFail} {va : Word64} (hr : s.cReady [xa] 0 = true) (hal : (s.xRead xa).toNat % 256 = 0)
    (hl : s.cBytes (s.xRead xa) 32 = .failed u f va) : exec (.nbLd xa slot) s = .next (u.cFail f 0x06 va) := by
  rw [show exec (.nbLd xa slot) s = execNbLd xa slot s from rfl, execNbLd]
  dsimp only
  rw [hr, misaligned_of_mod hal, hl]
  rfl
theorem exec_nbLd (hr : s.cReady [xa] 0 = true) (hal : (s.xRead xa).toNat % 256 = 0) (hl : s.cBytes (s.xRead xa) 32 = .got u raw) :
    exec (.nbLd xa slot) s = .next (bif (nbChecked (nbProgram raw)).all nbStepOk then
      (u.setNb { u.core.nb with slots := u.core.nb.slots.set slot.toNat (nbProgram raw) slot.isLt }).cRetire [xa] 0 0 u.pc4
      else u.cRaise 0x01 (cWordOf (.nbLd xa slot))) := by
  rw [show exec (.nbLd xa slot) s = execNbLd xa slot s from rfl, execNbLd]
  dsimp only
  rw [hr, misaligned_of_mod hal, hl]
  dsimp only [Bool.not_true, cond_false]
  rw [show ((List.range 32).map fun i => BitVec.ofNat 64 (leAt raw (8 * i) 8)) = nbProgram raw from rfl]
  cases (nbChecked (nbProgram raw)).all nbStepOk <;> rfl

theorem nbLd_goesOn (hq : s.Quiet) (hr : s.cReady [xa] 0 = true) (hal : (s.xRead xa).toNat % 256 = 0) (hl : s.cBytes (s.xRead xa) 32 = .got u raw)
    (hok : ∀ w ∈ nbChecked (nbProgram raw), nbStepOk w = true) :
    GoesOn (.nbLd xa slot) s (u.setNb { u.core.nb with slots := u.core.nb.slots.set slot.toNat (nbProgram raw) slot.isLt }) [xa] := by
  obtain ⟨huq, hus⟩ := State.cBytes_got hq hl
  refine goesOn_of_cRetire huq ((exec_nbLd hr hal hl).trans ?_)
  rw [List.all_eq_true.mpr hok, cond_true, State.pc4, hus.pc]
  rfl
theorem exec_nbLd_badStep (hr : s.cReady [xa] 0 = true) (hal : (s.xRead xa).toNat % 256 = 0) (hl : s.cBytes (s.xRead xa) 32 = .got u raw)
    (hbad : ∃ w ∈ nbChecked (nbProgram raw), nbStepOk w = false) : exec (.nbLd xa slot) s = .next (u.cRaise 0x01 (cWordOf (.nbLd xa slot))) := by
  have h : (nbChecked (nbProgram raw)).all nbStepOk = false := List.all_eq_false.mpr (hbad.imp fun w h => ⟨h.1, Bool.eq_false_iff.mp h.2⟩)
  rw [exec_nbLd hr hal hl, h, cond_false]

/-! ### nb.go -/

theorem exec_nbGo_misaligned (hr : s.cReady [xd, xa, xb] 0 = true) (h : (s.xRead xa).toNat % 4096 ≠ 0) :
    exec (.nbGo xd xa xb done slot) s = .next (s.cRaise 0x05 (s.xRead xa)) := by
  rw [show exec (.nbGo xd xa xb done slot) s = execNbGo xd xa xb done slot s from rfl, execNbGo]
  dsimp only
  rw [hr, misaligned_of_mod_ne h]
  rfl
theorem exec_nbGo_notCanonical (hr : s.cReady [xd, xa, xb] 0 = true) (hal : (s.xRead xa).toNat % 4096 = 0) (hc : canonical (s.xRead xa) = false) :
    exec (.nbGo xd xa xb done slot) s = .next (s.cRaise 0x0b (s.xRead xa)) := by
  rw [show exec (.nbGo xd xa xb done slot) s = execNbGo xd xa xb done slot s from rfl, execNbGo]
  dsimp only
  rw [hr, misaligned_of_mod hal, hc]
  rfl

section
variable {log : Nat} {e : Word64} (hr : s.cReady [xd, xa, xb] 0 = true) (hal : (s.xRead xa).toNat % 4096 = 0) (hc : canonical (s.xRead xa) = true)
include hr hal hc

theorem exec_nbGo_none (hl : (s.cEvent (s.xRead xa)).leafFor (s.cEvent (s.xRead xa)).core.ctx.part (s.cEvent (s.xRead xa)).core.ctx.vf (s.xRead xa) = .none) :
    exec (.nbGo xd xa xb done slot) s = .next ((s.cEvent (s.xRead xa)).cRaise 0x07 (s.xRead xa)) := by
  rw [show exec (.nbGo xd xa xb done slot) s = execNbGo xd xa xb done slot s from rfl, execNbGo]
  dsimp only
  rw [hr, misaligned_of_mod hal, hc, hl]
  rfl
theorem exec_nbGo_guard {row : Nat}
    (hl : (s.cEvent (s.xRead xa)).leafFor (s.cEvent (s.xRead xa)).core.ctx.part (s.cEvent (s.xRead xa)).core.ctx.vf (s.xRead xa) = .guard row) :
    exec (.nbGo xd xa xb done slot) s = .next ((s.cEvent (s.xRead xa)).cRaise 0x0a (BitVec.ofNat 64 row)) := by
  rw [show exec (.nbGo xd xa xb done slot) s = execNbGo xd xa xb done slot s from rfl, execNbGo]
  dsimp only
  rw [hr, misaligned_of_mod hal, hc, hl]
  rfl
theorem exec_nbGo_barred
    (hl : (s.cEvent (s.xRead xa)).leafFor (s.cEvent (s.xRead xa)).core.ctx.part (s.cEvent (s.xRead xa)).core.ctx.vf (s.xRead xa) = .barred) :
    exec (.nbGo xd xa xb done slot) s = .next ((s.cEvent (s.xRead xa)).cRaise 0x0b (s.xRead xa)) := by
  rw [show exec (.nbGo xd xa xb done slot) s = execNbGo xd xa xb done slot s from rfl, execNbGo]
  dsimp only
  rw [hr, misaligned_of_mod hal, hc, hl]
  rfl

/-- The base row that a leaf gives may be used by nb.go: RDWR is allowed, and it is local HBM in device bias, of the core's die (R345). -/
def State.nbBaseOk (u : State) (e : Word64) (pa : Nat) : Prop :=
  leafAllows e .rdwr (!u.sup) = true ∧ u.region pa = .hbm ∧ u.hostBias pa = false ∧ bits pa 39 36 / 3 = u.pkg.die.toNat

omit hr hal hc in
/-- The base row as nb.go tests it. -/
theorem State.nbBaseOk_place (u : State) (pa : Nat) : (decide (u.region pa ≠ .hbm) || u.hostBias pa || bits pa 39 36 / 3 != u.pkg.die.toNat) = false ↔
    u.region pa = .hbm ∧ u.hostBias pa = false ∧ bits pa 39 36 / 3 = u.pkg.die.toNat := by
  rw [Bool.or_eq_false_iff, Bool.or_eq_false_iff, decide_eq_false_iff_not, not_not, bne_eq_false_iff_eq, and_assoc]

variable (hl : (s.cEvent (s.xRead xa)).leafFor (s.cEvent (s.xRead xa)).core.ctx.part (s.cEvent (s.xRead xa)).core.ctx.vf (s.xRead xa) = .leaf log e)
include hl

theorem exec_nbGo_base
    (h : ¬ (s.cEvent (s.xRead xa)).nbBaseOk e ((s.cEvent (s.xRead xa)).norm (entryAddr e / 2 ^ log * 2 ^ log + bits (s.xRead xa).toNat (log - 1) 0))) :
    exec (.nbGo xd xa xb done slot) s = .next ((s.cEvent (s.xRead xa)).cRaise 0x0b (s.xRead xa)) := by
  rw [show exec (.nbGo xd xa xb done slot) s = execNbGo xd xa xb done slot s from rfl, execNbGo]
  dsimp only
  rw [hr, misaligned_of_mod hal, hc, hl]
  dsimp only [Bool.not_true, cond_false]
  cases ha : leafAllows e .rdwr (!(s.cEvent (s.xRead xa)).sup)
  case false => rfl
  case true =>
    have hp := mt (State.nbBaseOk_place (s.cEvent (s.xRead xa)) _).mp fun k => h ⟨ha, k⟩
    rw [Bool.not_eq_false] at hp
    rw [hp]
    rfl

section
variable (hb : (s.cEvent (s.xRead xa)).nbBaseOk e ((s.cEvent (s.xRead xa)).norm (entryAddr e / 2 ^ log * 2 ^ log + bits (s.xRead xa).toNat (log - 1) 0)))
include hb

theorem exec_nbGo_refused {cause : BitVec 8} {tval : Word64}
    (h : (s.cEvent (s.xRead xa)).nbRefuse (.nbGo xd xa xb done slot) (s.xRead xa) log
      ((s.cEvent (s.xRead xa)).norm (entryAddr e / 2 ^ log * 2 ^ log + bits (s.xRead xa).toNat (log - 1) 0))
      ((s.cEvent (s.xRead xa)).core.nb.slots.get ⟨slot.toNat, slot.isLt⟩) = some (cause, tval)) :
    exec (.nbGo xd xa xb done slot) s = .next ((s.cEvent (s.xRead xa)).cRaise cause tval) := by
  obtain ⟨ha, hp⟩ := hb
  rw [show exec (.nbGo xd xa xb done slot) s = execNbGo xd xa xb done slot s from rfl, execNbGo]
  dsimp only
  rw [hr, misaligned_of_mod hal, hc, hl]
  dsimp only [Bool.not_true, cond_false]
  rw [ha, (State.nbBaseOk_place _ _).mpr hp, h]
  rfl

theorem nbGo_enters (hq : s.Quiet)
    (h : (s.cEvent (s.xRead xa)).nbRefuse (.nbGo xd xa xb done slot) (s.xRead xa) log
      ((s.cEvent (s.xRead xa)).norm (entryAddr e / 2 ^ log * 2 ^ log + bits (s.xRead xa).toNat (log - 1) 0))
      (s.core.nb.slots.get ⟨slot.toNat, slot.isLt⟩) = none) (hlen : s.core.nb.cmds.length < 8)
    (hfl : (((s.cEvent (s.xRead xa)).norm (entryAddr e / 2 ^ log * 2 ^ log + bits (s.xRead xa).toNat (log - 1) 0) / 65536) ::
      nbPages ((s.cEvent (s.xRead xa)).norm (entryAddr e / 2 ^ log * 2 ^ log + bits (s.xRead xa).toNat (log - 1) 0))
        (nbSteps (s.core.nb.slots.get ⟨slot.toNat, slot.isLt⟩))).any (fun g => (s.cEvent (s.xRead xa)).inFlip (g * 65536)) = false) :
    let ea := s.xRead xa
    let u := s.cEvent ea
    let pa := u.norm (entryAddr e / 2 ^ log * 2 ^ log + bits ea.toNat (log - 1) 0)
    let p := s.core.nb.slots.get ⟨slot.toNat, slot.isLt⟩
    ∃ t, exec (.nbGo xd xa xb done slot) s = .next (t.nbTrace "enter") ∧ Retired
      (u.setNb { u.core.nb with cmds := u.core.nb.cmds ++ [
        { prog := nbSteps p, row := pa, va := ea, s0 := (s.xRead xb).extractLsb' 0 32, s1 := (s.xRead xb).extractLsb' 32 32,
          tag := (s.xRead xd).extractLsb' 32 16, done := done, planes := Vector.ofFn fun i => s.core.ten.nbPlanes i.val, sent := false,
          running := false, step := 0, rstep := 0, suspended := false, asked := 0, halted := 0, told := false,
          acc := Vector.replicate 4 0, empty := 15, fpc := List.replicate 8 0, start := s.core.ctx.live, extra := s.injected 0x9,
          fin := none, fault := none, payer := (u.myPart, u.payer), gone := false }] }) t [xd, xa, xb] 0 0 (s.core.c.pc + 4) := by
  obtain ⟨ha, hp⟩ := hb
  have hs := State.cEvent_served (s.xRead xa) hq
  obtain ⟨g, hnb⟩ := hs.nb
  have hslots : (s.cEvent (s.xRead xa)).core.nb.slots = s.core.nb.slots := by rw [hnb]
  have hcmds : (s.cEvent (s.xRead xa)).core.nb.cmds.length = s.core.nb.cmds.length := by rw [hnb]
  refine ⟨_, ?_, State.cRetire_retired _ _ _ _ (hq.cEvent (s.xRead xa))⟩
  rw [show exec (.nbGo xd xa xb done slot) s = execNbGo xd xa xb done slot s from rfl, execNbGo]
  dsimp only
  rw [hr, misaligned_of_mod hal, hc, hl]
  dsimp only [Bool.not_true, cond_false]
  rw [ha, (State.nbBaseOk_place _ _).mpr hp, hslots, h]
  dsimp only [Bool.not_true, cond_false]
  rw [hfl, hcmds, decide_eq_false (Nat.not_le.mpr hlen), hs.ten, hs.ctx, hs.injected, State.cEvent_pc4 _ hq]
  rfl

end
end
end

theorem nearBankWordsTrap : NearBankWordsTrap := by
  intro xd xa xb done slot s
  refine ⟨fun hr => ⟨exec_nbLd_misaligned hr, fun u f va hal hl hf hw => ?_, fun u raw => exec_nbLd_badStep hr⟩,
    fun hr => ⟨exec_nbGo_misaligned hr, exec_nbGo_notCanonical hr, fun hal hc => ⟨exec_nbGo_none hr hal hc, fun row => exec_nbGo_guard hr hal hc,
      exec_nbGo_barred hr hal hc, fun log e hl => ⟨exec_nbGo_base hr hal hc hl, fun cause tval hb => exec_nbGo_refused hr hal hc hl hb⟩⟩⟩⟩
  rw [exec_nbLd_fails hr hal hl, State.cFail_raises _ _ hf hw]

theorem nearBankWordsAct : NearBankWordsAct := by
  intro xd xa xb done slot sel s hq
  have hctx := (State.cEvent_served (s.xRead xa) hq).ctx
  have hsup := State.cEvent_sup (s.xRead xa) hq
  refine ⟨fun u raw hr hal hl hok => nbLd_goesOn hq hr hal hl hok, fun log e => ?_, fun hr => ?_⟩
  · intro ea u pa p hr hal hc hl ha hreg hbias hdie hrefuse hlen hfl
    exact nbGo_enters hr hal hc (by rw [hctx]; exact hl) ⟨by rw [hsup]; exact ha, hreg, hbias, hdie⟩ hq hrefuse hlen hfl
  · refine ⟨_, ?_, State.cRetire_retired _ _ _ _ hq.flushStore⟩
    rw [show exec (.nbRd xd xa sel) s = execNbRd xd xa sel s from rfl, execNbRd, hr]
    rfl

end Sys2Proof.Machine

open Sys2Proof Sys2Proof.Machine

/-- Settles O9: nb.ld and nb.go are taken through their checks in order, from the operand's alignment to the rows that the microprogram names. -/
theorem nearBankWordsLoadGoAndRead : Obligations.NearBankWordsLoadGoAndRead := ⟨nearBankWordsAct, nearBankWordsTrap⟩
end

section
/-! The fences of C: what each waits for, and what its completion brings about (R317, R347). -/

namespace Sys2Proof.Machine

open Sys2Proof.Claims

/-! ### What an L2 line and a memory-side cache line leave alone as they go -/

/-- The memory-side cache may have taken in one line, and lost others; the core and the L2 stand. -/
def State.MscTook (s t : State) (line : Nat) : Prop := t.core = s.core ∧ t.mem.l2 = s.mem.l2 ∧ ∀ x ∈ t.mem.msc, x.line = line ∨ x ∈ s.mem.msc

section
variable {s : State} {line : Nat}

theorem State.MscTook.rfl' (s : State) (line : Nat) : s.MscTook s line := ⟨rfl, rfl, fun _ => Or.inr⟩
theorem State.MscTook.trans {s t u : State} (h : s.MscTook t line) (k : t.MscTook u line) : s.MscTook u line := by
  obtain ⟨hc, hl, hm⟩ := h
  obtain ⟨kc, kl, km⟩ := k
  exact ⟨kc.trans hc, kl.trans hl, fun x hx => (km x hx).elim Or.inl (hm x)⟩

theorem State.mscDrop_took (s : State) (l line : Nat) : s.MscTook (s.mscDrop l) line := by
  unfold State.mscDrop
  split
  · exact cond_induction (P := fun t => s.MscTook t line) (fun _ => ⟨rfl, rfl, fun x hx => Or.inr (List.mem_filter.mp hx).1⟩)
      fun _ => ⟨rfl, rfl, fun x hx => Or.inr (List.mem_filter.mp hx).1⟩
  · exact State.MscTook.rfl' s line
theorem State.mscPut_took (s : State) (line : Nat) (dirty mru : Bool) : s.MscTook (s.mscPut line dirty mru) line := by
  have put (t : State) (h : s.MscTook t line) :
      s.MscTook (t.setMem { t.mem with msc := bif mru then ⟨line, dirty⟩ :: t.mem.msc else t.mem.msc ++ [⟨line, dirty⟩] }) line := by
    obtain ⟨hc, hl, hm⟩ := h
    refine ⟨hc, hl, fun x hx => ?_⟩
    cases mru with
    | true => exact (List.mem_cons.mp hx).elim (fun e => Or.inl (by rw [e])) (hm x)
    | false => exact (List.mem_append.mp hx).elim (hm x) fun e => Or.inl (by rw [List.mem_singleton.mp e])
  unfold State.mscPut
  dsimp only
  split
  · exact put _ (cond_induction (P := fun t => s.MscTook t line) (fun _ => s.mscDrop_took _ line) fun _ => State.MscTook.rfl' s line)
  · exact put s (State.MscTook.rfl' s line)
theorem State.mscAccess_took (s : State) (line : Nat) (p : Option (BitVec 3)) (w : Bool) : s.MscTook (s.mscAccess line p w) line := by
  unfold State.mscAccess
  split
  · exact ⟨rfl, rfl, fun x hx => (List.mem_cons.mp hx).elim (fun e => Or.inl (by rw [e])) fun e => Or.inr (List.mem_filter.mp e).1⟩
  · exact State.MscTook.trans (t := (s.stackUpd _ _).activate _) ⟨rfl, rfl, fun _ => Or.inr⟩ (State.mscPut_took _ _ _ _)
theorem State.mscBack_took (s : State) (line : Nat) : s.MscTook (s.mscBack line) line := by
  unfold State.mscBack
  split
  · exact s.mscAccess_took _ _ _
  · split
    · exact State.MscTook.trans (t := s.stackUpd _ _) ⟨rfl, rfl, fun _ => Or.inr⟩ (State.mscPut_took _ _ _ _)
    · exact s.mscPut_took _ _ _

/-- A line that leaves the L2 takes no other line with it and puts no other into the memory-side cache; of the core it touches the watch alone. -/
theorem State.l2Out_leaves (s : State) (x : L2Line) :
    (s.l2Out x).core = { s.core with c := { s.core.c with watch := watchEvicted s.core.c.watch x.line } } ∧
      (∀ y ∈ (s.l2Out x).mem.l2, y.line ≠ x.line ∧ y ∈ s.mem.l2) ∧ ∀ y ∈ (s.l2Out x).mem.msc, y.line = x.line ∨ y ∈ s.mem.msc := by
  have out (t : State) (hc : t.core = { s.core with c := { s.core.c with watch := watchEvicted s.core.c.watch x.line } })
      (hl : t.mem.l2 = s.mem.l2.filter fun y => y.line != x.line) (hm : ∀ y ∈ t.mem.msc, y.line = x.line ∨ y ∈ s.mem.msc) :
      t.core = { s.core with c := { s.core.c with watch := watchEvicted s.core.c.watch x.line } } ∧
        (∀ y ∈ t.mem.l2, y.line ≠ x.line ∧ y ∈ s.mem.l2) ∧ ∀ y ∈ t.mem.msc, y.line = x.line ∨ y ∈ s.mem.msc := by
    refine ⟨hc, fun y hy => ?_, hm⟩
    rw [hl] at hy
    exact ⟨bne_iff_ne.mp (List.mem_filter.mp hy).2, (List.mem_filter.mp hy).1⟩
  unfold State.l2Out
  dsimp only
  cases x.dirty with
  | false => exact out _ rfl rfl fun _ => Or.inr
  | true =>
    rw [Bool.not_true, cond_false]
    obtain ⟨hc, hl, hm⟩ := State.mscBack_took
      (((s.setMem { s.mem with l2 := s.mem.l2.filter fun y => y.line != x.line }).setC { s.core.c with watch := watchEvicted s.core.c.watch x.line }).setMem
        { s.mem with l2 := s.mem.l2.filter fun y => y.line != x.line, stale := s.mem.stale.filter fun c => lineOf c.1 != x.line }) x.line
    exact out _ hc hl hm

/-- A copy of the line stands in neither cache. -/
def State.Uncached (s : State) (line : Nat) : Prop := (∀ x ∈ s.mem.l2, x.line ≠ line) ∧ ∀ x ∈ s.mem.msc, x.line ≠ line

theorem State.l2Leave_leaves (s : State) (line : Nat) :
    (∀ y ∈ (s.l2Leave line).mem.l2, y.line ≠ line ∧ y ∈ s.mem.l2) ∧ ∀ y ∈ (s.l2Leave line).mem.msc, y.line = line ∨ y ∈ s.mem.msc := by
  unfold State.l2Leave
  split
  · next x h =>
    have hx : x.line = line := beq_iff_eq.mp (List.find?_some (p := fun x : L2Line => x.line == line) h)
    obtain ⟨-, hl, hm⟩ := s.l2Out_leaves x
    rw [hx] at hl hm
    exact ⟨hl, hm⟩
  · next h => exact ⟨fun y hy => ⟨fun e => List.find?_eq_none.mp h y hy (beq_iff_eq.mpr e), hy⟩, fun _ => Or.inr⟩
theorem State.mscDrop_leaves (s : State) (line : Nat) :
    (s.mscDrop line).mem.l2 = s.mem.l2 ∧ ∀ y ∈ (s.mscDrop line).mem.msc, y.line ≠ line ∧ y ∈ s.mem.msc := by
  unfold State.mscDrop
  split
  · refine cond_induction (P := fun t : State => t.mem.l2 = s.mem.l2 ∧ ∀ y ∈ t.mem.msc, y.line ≠ line ∧ y ∈ s.mem.msc) (fun _ => ⟨rfl, fun y hy => ?_⟩)
      fun _ => ⟨rfl, fun y hy => ?_⟩
    all_goals exact ⟨bne_iff_ne.mp (List.mem_filter.mp hy).2, (List.mem_filter.mp hy).1⟩
  · next h => exact ⟨rfl, fun y hy => ⟨fun e => List.find?_eq_none.mp h y hy (beq_iff_eq.mpr e), hy⟩⟩

/-- A line leaves both caches (R333, R347). -/
def State.uncache (s : State) (l : Nat) : State := (s.l2Leave l).mscDrop l

theorem State.uncache_same (s : State) (l : Nat) : (s.uncache l).Uncached l := by
  obtain ⟨hl, hm⟩ := (s.l2Leave l).mscDrop_leaves l
  refine ⟨fun x hx => ?_, fun x hx => (hm x hx).1⟩
  rw [State.uncache, hl] at hx
  exact ((s.l2Leave_leaves l).1 x hx).1
theorem State.Uncached.uncache {l : Nat} (h : s.Uncached l) (k : Nat) : (s.uncache k).Uncached l := by
  by_cases e : k = l
  · rw [e]
    exact s.uncache_same l
  · obtain ⟨hl, hm⟩ := (s.l2Leave k).mscDrop_leaves k
    obtain ⟨kl, km⟩ := s.l2Leave_leaves k
    refine ⟨fun x hx => ?_, fun x hx => ?_⟩
    · rw [State.uncache, hl] at hx
      exact h.1 x (kl x hx).2
    · exact (km x (hm x hx).2).elim (fun hk => hk ▸ e) (h.2 x)
theorem State.uncache_near (s : State) (l : Nat) : s.CacheNear (s.uncache l) := (s.l2Leave_near l).trans (State.mscDrop_near _ l)

/-- A fired watch stays fired as lines leave. -/
theorem State.uncache_watch {l : Nat} (k : Nat) (h : s.core.c.watch = .fired l) : (s.uncache k).core.c.watch = .fired l := by
  rw [State.uncache, ((s.l2Leave k).mscDrop_took k k).1]
  unfold State.l2Leave
  split
  · next x _ =>
    rw [(s.l2Out_leaves x).1, h]
    rfl
  · exact h

section
variable (ls : List Nat)

theorem State.foldl_uncache_near (s : State) : s.CacheNear (ls.foldl State.uncache s) := by
  induction ls generalizing s with
  | nil => exact State.CacheNear.rfl' s
  | cons l t ih => exact (s.uncache_near l).trans (ih _)
theorem State.foldl_uncache_keeps {l : Nat} (h : s.Uncached l) : (ls.foldl State.uncache s).Uncached l := by
  induction ls generalizing s with
  | nil => exact h
  | cons k t ih => exact ih (h.uncache k)
theorem State.foldl_uncache_mem {l : Nat} (h : l ∈ ls) (s : State) : (ls.foldl State.uncache s).Uncached l := by
  induction ls generalizing s with
  | nil => exact absurd h List.not_mem_nil
  | cons k t ih =>
    rcases List.mem_cons.mp h with e | hm
    · rw [e]
      exact State.foldl_uncache_keeps t (s.uncache_same k)
    · exact ih hm _
theorem State.foldl_uncache_watch {l : Nat} (h : s.core.c.watch = .fired l) : (ls.foldl State.uncache s).core.c.watch = .fired l := by
  induction ls generalizing s with
  | nil => exact h
  | cons k t ih => exact ih (s.uncache_watch k h)

end

end

/-! ### Granules -/

/-- A granule's write leaves the core as it is: the watch on its line waits for the bank fence (R297, R316). -/
theorem State.granulePut_core (s : State) (g : Granule) : (s.granulePut g).core = s.core := by
  obtain ⟨o, e⟩ := s.orderAt_eq 2 true g.pa
  unfold State.granulePut
  rw [e]
  rfl
theorem State.granulePut_pkg (s : State) (g : Granule) : (s.granulePut g).pkg = s.pkg := by
  obtain ⟨o, e⟩ := s.orderAt_eq 2 true g.pa
  unfold State.granulePut
  rw [e]
  rfl
/-- What a granule writes depends on the bytes of memory and the package alone. -/
theorem State.granulePut_cells (s : State) (g : Granule) :
    (s.granulePut g).mem.cells = ((cellsAt g.pa g.bytes).map fun c => (s.norm c.1, c.2)).foldl (fun x c => cellSet x c.1 c.2) s.mem.cells := by
  obtain ⟨o, e⟩ := s.orderAt_eq 2 true g.pa
  unfold State.granulePut
  rw [e]
  rfl
theorem State.foldl_granulePut_core (ws : List Granule) (s : State) : (ws.foldl State.granulePut s).core = s.core :=
  foldl_keeps _ (fun (x : State) => x.core) (fun x g => x.granulePut_core g) ws s
theorem State.foldl_granulePut_pkg (ws : List Granule) (s : State) : (ws.foldl State.granulePut s).pkg = s.pkg :=
  foldl_keeps _ (fun (x : State) => x.pkg) (fun x g => x.granulePut_pkg g) ws s
theorem State.foldl_granulePut_cells (ws : List Granule) {s t : State} (hm : s.mem.cells = t.mem.cells) (hp : s.pkg = t.pkg) :
    (ws.foldl State.granulePut s).mem.cells = (ws.foldl State.granulePut t).mem.cells := by
  induction ws generalizing s t with
  | nil => exact hm
  | cons g ws ih =>
    have hn (a : Nat) : s.norm a = t.norm a := by rw [State.norm, hp, State.norm]
    refine ih ?_ ?_
    · simp only [State.granulePut_cells, hm, hn]
    · rw [State.granulePut_pkg, State.granulePut_pkg, hp]

/-! ### The bank fence -/

/-- The machine with every waiting granule placed, and the watch told of the lines written; the caches still hold those lines. -/
def State.bankPlaced (s : State) : State :=
  let t := s.core.nb.writes.foldl State.granulePut (s.setNb { s.core.nb with writes := [], lines := [] })
  t.setC { t.core.c with watch := watchAfter t.core.c.watch (s.core.nb.lines.map fun l => l * 128) }

section
variable {s : State}

theorem State.bankFence_eq (s : State) : s.bankFence = s.core.nb.lines.eraseDups.foldl State.uncache s.bankPlaced := rfl
theorem State.bankPlaced_core (s : State) : s.bankPlaced.core = { s.core with
    nb := { s.core.nb with writes := [], lines := [] }, c := { s.core.c with watch := watchAfter s.core.c.watch (s.core.nb.lines.map fun l => l * 128) } } := by
  rw [State.bankPlaced]
  dsimp only
  rw [State.setC, State.foldl_granulePut_core]
  rfl
theorem State.bankPlaced_pkg (s : State) : s.bankPlaced.pkg = s.pkg := State.foldl_granulePut_pkg _ _
theorem State.bankPlaced_rd8 (s : State) (a : Nat) : s.bankPlaced.rd8 a = (s.core.nb.writes.foldl State.granulePut s).rd8 a := by
  have hc : s.bankPlaced.mem.cells = (s.core.nb.writes.foldl State.granulePut s).mem.cells := State.foldl_granulePut_cells _ rfl rfl
  rw [State.rd8, State.rd8, hc, State.norm, State.norm, State.bankPlaced_pkg, State.foldl_granulePut_pkg]
theorem watchAfter_mem {l : Nat} {ls : List Nat} (h : l ∈ ls) : watchAfter (.armed l) (ls.map fun l => l * 128) = .fired l := by
  have ha : ((ls.map fun l => l * 128).any fun a => lineOf a == l) = true :=
    List.any_eq_true.mpr ⟨l * 128, List.mem_map_of_mem h, beq_iff_eq.mpr (Nat.mul_div_cancel l (by decide))⟩
  rw [watchAfter, ha, cond_true]

theorem State.bankFence_near (s : State) : s.bankPlaced.CacheNear s.bankFence := State.foldl_uncache_near _ _
theorem State.bankFence_quiet (hq : s.Quiet) : s.bankFence.Quiet :=
  s.bankFence_near.cached.quiet fun p => by rw [State.part, State.bankPlaced_pkg]; exact hq p
theorem State.bankFence_nb (s : State) : s.bankFence.core.nb.writes = [] ∧ s.bankFence.core.nb.lines = [] := by
  obtain ⟨_, _, _, _, _, e⟩ := s.bankFence_near
  rw [e]
  exact ⟨congrArg (·.nb.writes) s.bankPlaced_core, congrArg (·.nb.lines) s.bankPlaced_core⟩
theorem State.bankFence_rd8 (s : State) (a : Nat) : s.bankFence.rd8 a = (s.core.nb.writes.foldl State.granulePut s).rd8 a :=
  (s.bankFence_near.cached.rd8 a).trans (s.bankPlaced_rd8 a)
theorem State.bankFence_uncached {l : Nat} (h : l ∈ s.core.nb.lines) : s.bankFence.Uncached l :=
  State.foldl_uncache_mem _ (List.mem_eraseDups.mpr h) _
theorem State.bankFence_watch {l : Nat} (h : l ∈ s.core.nb.lines) (hw : s.core.c.watch = .armed l) : s.bankFence.core.c.watch = .fired l := by
  have hp : s.bankPlaced.core.c.watch = watchAfter s.core.c.watch (s.core.nb.lines.map fun l => l * 128) := congrArg (·.c.watch) s.bankPlaced_core
  exact State.foldl_uncache_watch _ (hp.trans (by rw [hw]; exact watchAfter_mem h))

end

/-! ### The system fence -/

/-- The last place at which a test holds: it holds at no later one. -/
theorem find_reverse_range {n i j : Nat} {p : Nat → Bool} (h : (List.range n).reverse.find? p = some i) (hij : i < j) (hj : j < n) : p j = false := by
  obtain ⟨-, as, bs, hl, has⟩ := List.find?_eq_some_iff_append.mp h
  have hpw : (as ++ i :: bs).Pairwise (· > ·) := by
    rw [← hl]
    exact List.pairwise_reverse.mpr List.pairwise_lt_range
  have hmem : j ∈ as ++ i :: bs := by
    rw [← hl]
    exact List.mem_reverse.mpr (List.mem_range.mpr hj)
  rcases List.mem_append.mp hmem with ha | hb
  · exact (Bool.not_eq_true' _).mp (has j ha)
  · rcases List.mem_cons.mp hb with e | hbs
    · omega
    · have := (List.pairwise_cons.mp (List.pairwise_append.mp hpw).2.1).1 j hbs
      omega

/-- What is left of a byte's writes after the last of which a test holds has reached: none of which it holds (R317). -/
theorem Stale.reach_left {done : StaleWrite → Bool} {x y : Stale} (h : x.reach done = some y) : ∀ w ∈ y.writes, done w = false := by
  have at_ {j : Nat} (hj : j < x.writes.length) : (x.writes[j]?).any done = done x.writes[j] := by rw [List.getElem?_eq_getElem hj, Option.any_some]
  unfold Stale.reach at h
  split at h
  · next i hi =>
    cases hb : i + 1 == x.writes.length with
    | true =>
      rw [hb, cond_true] at h
      exact absurd h nofun
    | false =>
      rw [hb, cond_false] at h
      obtain rfl := Option.some.inj h
      intro w hw
      obtain ⟨k, hk, rfl⟩ := List.mem_iff_getElem.mp hw
      rw [List.length_drop] at hk
      rw [List.getElem_drop, ← at_]
      exact find_reverse_range hi (by omega) (by omega)
  · next hn =>
    obtain rfl := Option.some.inj h
    intro w hw
    obtain ⟨i, hi, rfl⟩ := List.mem_iff_getElem.mp hw
    rw [← at_ hi]
    exact Bool.eq_false_iff.mpr (List.find?_eq_none.mp hn i (List.mem_reverse.mpr (List.mem_range.mpr hi)))

/-- fence.s leaves no covered write of the core's agents (R317). -/
theorem State.systemFence_stale {s : State} {x : Nat × Stale} (hx : x ∈ s.systemFence.mem.stale) {w : StaleWrite} (hw : w ∈ x.2.writes) (hm : w.mine = true) :
    s.covered w.cover = false := by
  obtain ⟨y, -, hy⟩ := List.mem_filterMap.mp hx
  obtain ⟨z, hz, rfl⟩ := Option.map_eq_some_iff.mp hy
  have := Stale.reach_left hz w hw
  rwa [hm, Bool.true_and] at this

/-! ### Waiting and completing -/

theorem State.fenceEffect_quiet {s : State} (k : BitVec 2) (hq : s.Quiet) : (s.fenceEffect k).Quiet := by
  unfold State.fenceEffect
  exact iteInduction (motive := State.Quiet) (fun _ => State.bankFence_quiet hq) fun _ => iteInduction (motive := State.Quiet) (fun _ => hq) fun _ => hq

theorem exec_fenceWord : ∀ e ∈ fenceWords, ∀ s : State, exec e.1 s = .next (s.fence e.2) := by
  simp only [fenceWords, List.forall_mem_cons, List.not_mem_nil, false_implies, implies_true, and_true]
  and_intros <;> intros <;> rfl

section
variable {s : State} {k : BitVec 2}

theorem State.fence_done (h : s.flushStore.fenceDone k = true) : s.fence k = (s.flushStore.fenceEffect k).cRetire [] 0 0 s.pc4 := by
  rw [State.fence, h, cond_true, State.flushStore_pc4]
theorem State.fence_waits (h : s.flushStore.fenceDone k = false) : s.fence k = s.flushStore.setC { s.flushStore.core.c with run := .fence k, blocked := true } := by
  rw [State.fence, h, cond_false]
theorem exec_fenceComplete (hr : s.core.c.run = .fence k) (h : s.fenceDone k = true) : exec .fenceComplete s = .next ((s.fenceEffect k).cRetire [] 0 0 s.pc4) := by
  rw [show exec .fenceComplete s = execFenceComplete s from rfl, execFenceComplete, hr]
  dsimp only
  rw [h, cond_true]
theorem exec_nbFence_done (h : s.flushStore.nearFenced = true) : exec .nbFence s = .next (s.flushStore.bankFence.cRetire [] 0 0 s.pc4) := by
  rw [show exec .nbFence s = execNbFence s from rfl, execNbFence, h, State.flushStore_pc4, cond_true]
theorem exec_nbFence_waits (h : s.flushStore.nearFenced = false) :
    exec .nbFence s = .next (s.flushStore.setC { s.flushStore.core.c with run := .nbFence, blocked := true }) := by
  rw [show exec .nbFence s = execNbFence s from rfl, execNbFence, h, cond_false]
theorem exec_nbFenceComplete (hr : s.core.c.run = .nbFence) (h : s.nearFenced = true) : exec .fenceComplete s = .next (s.bankFence.cRetire [] 0 0 s.pc4) := by
  rw [show exec .fenceComplete s = execFenceComplete s from rfl, execFenceComplete, hr]
  dsimp only
  rw [h, cond_true]

end

theorem fenceWordsWait : FenceWordsWait := by
  intro s hq
  refine ⟨fun e he => ⟨fun h => ?_, fun h => ?_, fun hr h => ?_⟩, fun h => ?_, exec_nbFence_waits, fun hr h => ?_⟩
  · exact goesOn_of_cRetire (State.fenceEffect_quiet _ hq.flushStore) ((exec_fenceWord e he s).trans (by rw [State.fence_done h]))
  · rw [exec_fenceWord e he, State.fence_waits h]
  · exact goesOn_of_cRetire (State.fenceEffect_quiet _ hq) (exec_fenceComplete hr h)
  · exact goesOn_of_cRetire (State.bankFence_quiet hq.flushStore) (exec_nbFence_done h)
  · exact goesOn_of_cRetire (State.bankFence_quiet hq) (exec_nbFenceComplete hr h)

/-! ### Completion points -/

section
variable (s : State)

theorem State.enginesFenced_iff : s.enginesFenced = true ↔
    (∀ c ∈ s.core.eng.copy, c.published = true ∨ c.defer = true ∧ c.written = true) ∧ s.core.eng.gather = [] := by
  simp only [State.enginesFenced, Cmd.fenced, Bool.and_eq_true, List.all_eq_true, Bool.or_eq_true, List.isEmpty_iff]
theorem State.nearFenced_iff : s.nearFenced = true ↔ s.core.nb.cmds = [] ∧ s.writeHeld (s.core.nb.lines.map fun l => l * 128) = false := by
  simp only [State.nearFenced, State.bankQuiet, Bool.and_eq_true, List.isEmpty_iff, Bool.not_eq_true']
theorem State.reductionsFenced_iff : s.reductionsFenced = true ↔ ∀ c ∈ s.pkg.red, c.own = 0 ∨ (s.fifo 6).out < c.need := by
  simp only [State.reductionsFenced, List.all_eq_true, Bool.or_eq_true, beq_iff_eq, decide_eq_true_eq]

end

theorem fencesReachTheirPoint : FencesReachTheirPoint := by
  intro s
  refine ⟨fun k hk => ?_, ⟨rfl, s.nearFenced_iff⟩, s.reductionsFenced_iff, ⟨rfl, rfl, rfl⟩, fun a => rfl, fun x hx w hw hm => State.systemFence_stale hx hw hm, s.bankFence_nb,
    s.bankFence_rd8, fun l hl => ⟨(State.bankFence_uncached hl).1, (State.bankFence_uncached hl).2, State.bankFence_watch hl⟩⟩
  rcases List.mem_cons.mp hk with rfl | hk
  · exact s.enginesFenced_iff
  · rw [List.mem_singleton.mp hk]
    exact s.enginesFenced_iff

end Sys2Proof.Machine

open Sys2Proof Sys2Proof.Machine

/-- Settles O11: a fence is its point and its effect; of the bank fence, each line written leaves both caches after the watch has been told of it. -/
theorem fencesWaitThenComplete : Obligations.FencesWaitThenComplete := ⟨fenceWordsWait, fencesReachTheirPoint⟩
end

section
/-! Line watches, barriers, tokens, submission and yielding (R287 to R298). -/

namespace Sys2Proof.Machine

open Sys2Proof.Claims

/-! ### Line watches -/

section
variable {s u : State} {xd xa : XReg} {pa : Nat}

theorem State.Cached.norm {t : State} (h : s.Cached t) (a : Nat) : t.norm a = s.norm a := by
  obtain ⟨_, _, _, _, _, _, _, _, _, _, _, _, _, _, _, _, _, rfl⟩ := h
  rfl
theorem State.Cached.rdNat {t : State} (h : s.Cached t) (a n : Nat) : t.rdNat a n = s.rdNat a n := by
  unfold State.rdNat State.rdBytes
  simp only [h.rd8]

theorem exec_mon (hq : s.Quiet) (hr : s.cReady [xa] xd = true) (h : Accesses s u (s.xRead xa) 8 .rd true false pa) :
    exec (.mon xd xa) s = .next (((u.l1Hit pa).setC { (u.l1Hit pa).core.c with watch := .armed (lineOf (u.norm pa)) }).cRetire [xa] xd
      (BitVec.ofNat 64 (u.rdNat pa 8)) (s.core.c.pc + 4)) := by
  obtain ⟨hal, rfl, hx, hh⟩ := h
  have hl := State.l1Hit_cached pa (hq.cEvent (s.xRead xa))
  rw [show exec (.mon xd xa) s = execMon xd xa s from rfl, execMon]
  dsimp only
  rw [hr, misaligned_of_mod hal, hx]
  dsimp only [Bool.not_true, cond_false]
  rw [show State.holdsAt _ 0 true pa = false from hh, cond_false, hl.norm, hl.rdNat, State.pc4, hl.pc, State.cEvent_pc _ hq]
  rfl

end

theorem monLoadsAndArms : MonLoadsAndArms := by
  intro xd xa s u pa hq hr h
  have hu : u.Quiet := h.2.1 ▸ hq.cEvent _
  exact ⟨_, exec_mon hq hr h, State.cRetire_retired _ _ _ _ ((State.l1Hit_cached pa hu).quiet hu)⟩

section
variable {s : State} {xd xa : XReg} {srcs : List XReg}

/-- An mwait that returns at once, out of replay (R298). -/
theorem State.mwaitReturn_live (reason : Nat) (hq : s.Quiet) (hp : (s.part s.myPart).repMode ≠ 2) :
    s.mwaitReturn xd srcs reason = (s.setC { s.core.c with watch := .none }).cRetire srcs xd (BitVec.ofNat 64 reason) s.pc4 := by
  rw [State.mwaitReturn]
  dsimp only
  rw [State.replayed_live _ _ _ _ hq hp]
/-- An mwait in progress that ends (R298). -/
theorem State.endMwait_quiet {limit : Option Nat} (reason : Nat) (hq : s.Quiet) (hr : s.core.c.run = .mwait xd limit) :
    s.endMwait reason = (s.setC { s.core.c with watch := .none }).cRetire [] xd (BitVec.ofNat 64 reason) s.pc4 := by
  rw [State.endMwait, hr]
  dsimp only
  rw [State.record_quiet _ _ _ _ _ (hq _)]
  rfl

/-- mwait, as the watch is (R298). -/
theorem exec_mwait (hr : s.cReady [xa] xd = true) (hp : (s.part s.myPart).repMode ≠ 2) : exec (.mwait xd xa) s = .next (match s.core.c.watch with
    | .none => s.mwaitReturn xd [xa] 3
    | .fired _ => s.mwaitReturn xd [xa] 0
    | .lost _ => s.mwaitReturn xd [xa] 1
    | .armed line => match s.flushStore.core.c.watch with
      | .armed _ => ((s.flushStore.xPop [xa]).setC { (s.flushStore.xPop [xa]).core.c with
          run := .mwait xd (bif (s.xRead xa).toNat == 0 then none else some ((s.flushStore.xPop [xa]).tstamp + (s.xRead xa).toNat)), blocked := true }).directedYield line
      | _ => s.flushStore.mwaitReturn xd [xa] 0) := by
  rw [show exec (.mwait xd xa) s = execMwait xd xa s from rfl, execMwait]
  dsimp only
  rw [hr, beq_eq_false_iff_ne.mpr hp]
  rfl

theorem mwait_returns {reason : Nat} (hq : s.Quiet) (hp : (s.part s.myPart).repMode ≠ 2) (h : exec (.mwait xd xa) s = .next (s.mwaitReturn xd [xa] reason)) :
    Returns (.mwait xd xa) s (s.setC { s.core.c with watch := .none }) [xa] xd (BitVec.ofNat 64 reason) :=
  ⟨_, h.trans (by rw [State.mwaitReturn_live _ hq hp]; rfl), State.cRetire_retired _ _ _ _ hq⟩

/-- With no other context's line watched, mwait asks no switch (R299). -/
theorem State.directedYield_none {l : Nat} (h : s.yieldTo l = none) : s.directedYield l = s := by
  unfold State.directedYield
  rw [h]

theorem exec_mwait_sleeps {l : Nat} (hr : s.cReady [xa] xd = true) (hp : (s.part s.myPart).repMode ≠ 2) (hf : s.flushStore.core.c.watch = .armed l)
    (hw : s.core.c.watch = .armed l) (hy : s.flushStore.yieldTo l = none) :
    exec (.mwait xd xa) s = .next ((s.flushStore.xPop [xa]).setC { s.flushStore.core.c with
      run := .mwait xd (if s.xRead xa = 0 then none else some (s.tstamp + (s.xRead xa).toNat)), blocked := true }) := by
  have ht : (s.flushStore.xPop [xa]).tstamp = s.tstamp := by rw [State.xPop_eq, ← s.flushStore_tstamp]; rfl
  have hc : (s.flushStore.xPop [xa]).core.c = s.flushStore.core.c := by rw [State.xPop_eq]
  have h0 : ((s.xRead xa).toNat == 0) = decide (s.xRead xa = 0) := by rw [beq_eq_decide, decide_eq_decide, BitVec.toNat_eq]; rfl
  rw [exec_mwait hr hp, hw]
  dsimp only
  rw [hf]
  dsimp only
  rw [hc, ht, h0, Bool.cond_decide]
  refine (congrArg Host.Outcome.next (State.directedYield_none ?_)).trans (by rw [hf])
  rw [State.xPop_eq]
  exact hy

end

theorem mwaitReturnsItsReason : MwaitReturnsItsReason := by
  intro xd xa s hq hp
  refine ⟨fun hr => ⟨fun hw => ?_, fun l hw => ?_, fun l hw => ?_, fun l hf hw hy => exec_mwait_sleeps hr hp hf hw hy⟩, fun limit reason hrun hreason => ?_,
    fun limit hrun hle => ?_⟩
  · exact mwait_returns hq hp ((exec_mwait hr hp).trans (by rw [hw]))
  · exact mwait_returns hq hp ((exec_mwait hr hp).trans (by rw [hw]))
  · exact mwait_returns hq hp ((exec_mwait hr hp).trans (by rw [hw]))
  · refine ⟨_, ?_, State.cRetire_retired _ _ _ _ hq⟩
    rw [show exec .mwaitWake s = execMwaitWake s from rfl, execMwaitWake, hreason, hrun]
    dsimp only
    rw [State.endMwait_quiet _ hq hrun]
    rfl
  · refine ⟨_, ?_, State.cRetire_retired _ _ _ _ hq⟩
    rw [show exec .mwaitTimeout s = execMwaitTimeout s from rfl, execMwaitTimeout, hrun]
    dsimp only
    rw [decide_eq_true hle, cond_true, State.endMwait_quiet _ hq hrun]
    rfl

/-! ### Barriers -/

section
variable (s : State) (l : BitVec 2)

/-- An arrival changes the counters of barriers, what is sent over the fabric, and what waits to be sent (R294). -/
theorem State.fabSend_keeps (g : BitVec 12) : ((s.fabSend g).core, (s.fabSend g).pkg.parts) = (s.core, s.pkg.parts) := by
  refine cond_induction (P := fun t : State => (t.core, t.pkg.parts) = (s.core, s.pkg.parts)) (fun _ => rfl) fun _ => ?_
  iterate 3 refine cond_induction (P := fun t : State => (t.core, t.pkg.parts) = (s.core, s.pkg.parts)) (fun _ => rfl) fun _ => ?_
  rfl
theorem State.barArrive_keeps (g : BitVec 12) (n : Nat) : ((s.barArrive l g n).core, (s.barArrive l g n).pkg.parts) = (s.core, s.pkg.parts) := by
  refine iteInduction (motive := fun t : State => (t.core, t.pkg.parts) = (s.core, s.pkg.parts)) (fun _ => ?_) fun _ => ?_
  · exact cond_induction (P := fun t : State => (t.core, t.pkg.parts) = (s.core, s.pkg.parts)) (fun _ => State.fabSend_keeps _ _) fun _ => rfl
  · exact cond_induction (P := fun t : State => (t.core, t.pkg.parts) = (s.core, s.pkg.parts)) (fun _ => rfl) fun _ => rfl
theorem State.barArrive_core (g : BitVec 12) (n : Nat) : (s.barArrive l g n).core = s.core := congrArg Prod.fst (s.barArrive_keeps l g n)
theorem State.barDo_pc4 (mid : Bool) : (s.barDo l mid).pc4 = s.pc4 := by
  rw [State.pc4, State.barDo]
  dsimp only
  rw [State.barArrive_core]
  rfl

end

section
variable {s : State} {l : BitVec 2} {xd : XReg} {i : Instr}

theorem State.barDo_quiet (mid : Bool) (hq : s.Quiet) : (s.barDo l mid).Quiet := fun p => by
  have h : (s.barDo l mid).pkg.parts = s.pkg.parts := congrArg Prod.snd (State.barArrive_keeps _ _ _ _)
  rw [State.part, h]
  exact hq p

/-- The machine once a level's arrival is no longer outstanding. -/
def State.barPast (s : State) (l : BitVec 2) : State :=
  s.setC { s.core.c with arrived := s.core.c.arrived.set l.toNat none l.isLt, mid := s.core.c.mid &&& ~~~(1#4 <<< l.toNat) }

theorem State.barWait_over (h : s.barOver l = true) : s.barWait i l = (s.barPast l).cRetire [] 0 0 s.pc4 := by
  rw [State.barWait, h]
  rfl
theorem State.barWait_sleeps (h : s.barOver l = false) : s.barWait i l = s.barSleep i := by
  rw [State.barWait, h]
  rfl

section
variable (hv : domValid (s.domain l) = true)
include hv

theorem State.barA_eq (hr : s.cReady [] xd = true) : s.barA xd l = bif s.flushStore.barOver l && s.flushStore.barCovered then
    (s.flushStore.barDo l false).cRetire [] xd (BitVec.ofNat 64 (s.flushStore.barShown l)) s.pc4 else s.flushStore.barSleep (.barA xd l) := by
  rw [State.barA, hr, hv, ← s.flushStore_pc4]
  rfl
theorem State.barW_eq : s.barW l = s.flushStore.barWait (.barW l) l := by
  rw [State.barW, hv]
  rfl
theorem State.barAW_eq : s.barAW l = bif s.flushStore.core.c.mid.getLsbD l.toNat then s.flushStore.barWait (.bar l) l
    else bif s.flushStore.barOver l && s.flushStore.barCovered then (s.flushStore.barDo l true).barWait (.bar l) l else s.flushStore.barSleep (.bar l) := by
  rw [State.barAW, hv]
  rfl

end

theorem goesOn_of_barWait {b : State} (j : Instr) (hq : b.Quiet) (hpc : b.pc4 = s.pc4) (h : exec i s = .next (b.barWait j l)) (ho : b.barOver l = true) :
    GoesOn i s (b.barPast l) [] :=
  goesOn_of_cRetire (b := b.barPast l) hq (h.trans (by rw [State.barWait_over ho, hpc]))

end

/-! ### Tokens, submission and yielding -/

section
variable {s : State} {xa xd : XReg} {q : BitVec 6}

theorem fifoTo_lt (k : Strand) (n : Bool) : fifoTo k n < 8 := by cases k <;> cases n <;> decide
/-- A token whose room is reserved and which is given at once. -/
theorem State.tokReserve_tokGive (s : State) (k : Strand) (n : Bool) :
    (s.tokReserve k n).tokGive k n = s.setFifo (fifoTo k n) { s.fifo (fifoTo k n) with occ := (s.fifo (fifoTo k n)).occ + 1 } := by
  have hi := fifoTo_lt k n
  have hget : (s.tokReserve k n).fifo (fifoTo k n) = { s.fifo (fifoTo k n) with res := (s.fifo (fifoTo k n)).res + 1 } := by
    rw [State.fifo, fifo_vget _ ⟨_, hi⟩]
    exact (fifo_vset _ _ _ ⟨_, hi⟩).trans (if_pos rfl)
  rw [State.tokGive]
  dsimp only
  rw [hget, Nat.add_sub_cancel, State.tokReserve]
  exact congrArg (fun f => s.setQ { s.core.q with tok := f }) (fifo_ext fun j => by
    simp only [fifo_vset, State.setFifo, State.setQ]
    by_cases hj : fifoTo k n = j.val
    · rw [if_pos hj, if_pos hj]
    · rw [if_neg hj, if_neg hj, if_neg hj])

/-- A word's submission (R287). -/
theorem exec_tsub (hr : s.cReady [xa] 0 = true) (hal : (s.xRead xa).toNat % 256 = 0) (hm : (s.part s.myPart).mayUse s.core.ctx.vf q = true)
    (hl : s.core.q.sub.length < 4) :
    exec (.tsub xa q) s = .next ((s.flushStore.setQ { s.flushStore.core.q with sub := s.core.q.sub ++ [(s.xRead xa, q)] }).cRetire [xa] 0 0 s.pc4) := by
  rw [show exec (.tsub xa q) s = execTsub xa q s from rfl, execTsub]
  dsimp only
  rw [hr, misaligned_of_mod hal, show (s.part s.core.ctx.part).mayUse s.core.ctx.vf q = true from hm, decide_eq_false (Nat.not_le.mpr hl)]
  dsimp only [Bool.not_true, cond_false]
  rw [State.flushStore_q, ← s.flushStore_pc4]
  rfl

theorem Core.Near.served {a b : Core} (h : a.Near b) : a.Served b := by
  obtain ⟨w, g, l, rfl⟩ := h
  exact ⟨_, w, g, _, _, _, _, l, rfl⟩
theorem State.MemNear.served {s t : State} (h : s.MemNear t) : s.core.Served t.core := by
  obtain ⟨m, w, g, rfl⟩ := h
  exact ⟨_, w, g, _, _, _, _, _, rfl⟩

/-- tdep's machine once PRED has been read and one predecessor released in memory (R288). -/
def State.released (u : State) (pa : Nat) : State :=
  let w := (u.l2Hit pa).rmwFirst (span pa 4)
  if w.rdNat pa 4 = 0 then w else w.store pa (leBytes 4 (w.rdNat pa 4 - 1)) w.me true

theorem State.released_eq (u : State) (pa : Nat) : u.released pa = bif ((u.l2Hit pa).rmwFirst (span pa 4)).rdNat pa 4 == 0 then (u.l2Hit pa).rmwFirst (span pa 4)
    else ((u.l2Hit pa).rmwFirst (span pa 4)).store pa (leBytes 4 (((u.l2Hit pa).rmwFirst (span pa 4)).rdNat pa 4 - 1)) ((u.l2Hit pa).rmwFirst (span pa 4)).me true := by
  rw [beq_eq_decide, Bool.cond_decide]
  rfl
theorem State.released_quiet_served {u : State} (pa : Nat) (hq : u.Quiet) : (u.released pa).Quiet ∧ u.core.Served (u.released pa).core := by
  have hl := State.l2Hit_cached pa hq
  have hw : ((u.l2Hit pa).rmwFirst (span pa 4)).Quiet ∧ u.core.Served ((u.l2Hit pa).rmwFirst (span pa 4)).core :=
    ⟨fun p => by rw [State.part, State.rmwFirst_pkg]; exact hl.quiet hq p, hl.served.trans (State.rmwFirst_near _ _).served⟩
  exact iteInduction (motive := fun t : State => t.Quiet ∧ u.core.Served t.core) (fun _ => hw) fun _ =>
    ⟨fun p => by rw [State.store_rep]; exact hw.1 p, hw.2.trans (State.store_near _ _ _ _ _).served⟩

theorem State.predSeen_quiet {s : State} (p : BitVec 3) (f : BitVec 2) (a : Word64) (v : Nat) (hq : s.Quiet) : (s.predSeen p f a v).Quiet := fun r => by
  have h : ((s.predSeen p f a v).part r).repMode = (s.part r).repMode := State.setPart_rep _ _ _ _ rfl
  rw [h]
  exact hq r

theorem tdep_returns {u : State} {pa : Nat} (hq : s.Quiet) (hr : s.cReady [xa] xd = true) (hal : (s.xRead xa).toNat % 256 = 0)
    (h : Accesses s u (s.xRead xa + 0xc4) 4 .rdwr true true pa) :
    Returns (.tdep xd xa) s ((u.released pa).predSeen s.myPart s.core.ctx.vf (s.xRead xa) (((u.l2Hit pa).rmwFirst (span pa 4)).rdNat pa 4 - 1)) [xa] xd
      (BitVec.ofNat 64 (((u.l2Hit pa).rmwFirst (span pa 4)).rdNat pa 4)) := by
  obtain ⟨-, rfl, hx, hh⟩ := h
  obtain ⟨huq, hus⟩ := State.released_quiet_served pa (hq.cEvent (s.xRead xa + 0xc4))
  have hs := (State.cEvent_served (s.xRead xa + 0xc4) hq).trans hus
  refine ⟨_, ?_, State.cRetire_retired _ _ _ _ (State.predSeen_quiet _ _ _ _ huq)⟩
  rw [show exec (.tdep xd xa) s = execTdep xd xa s from rfl, execTdep]
  dsimp only
  rw [hr, misaligned_of_mod hal, hx]
  dsimp only [Bool.not_true, cond_false]
  rw [hh, cond_false, ← hs.pc, State.myPart, ← hs.ctx, ← State.released_eq]
  rfl

/-- yield, of a step that runs (R290). -/
theorem exec_yield {id : StepId} {strict : Bool} (h : s.core.ctx.running = some id) : exec (.yield strict) s = .next
    ((if id.gang = true then s.flushStore else ((s.setCtx { s.core.ctx with yield_ := some strict }).setV { s.core.v with lookYield := false }).flushStore).cRetire [] 0 0 s.pc4) := by
  rw [show exec (.yield strict) s = execYield strict s from rfl, execYield, h, ← Bool.cond_eq_ite]
  dsimp only
  cases id.gang <;> rfl

end

end Sys2Proof.Machine

open Sys2Proof Sys2Proof.Machine

/-- Settles O12: mon is a load that arms; mwait's three answers and its sleep follow the watch, and a sleeping mwait ends with its reason. -/
theorem lineWatchesArmAndReport : Obligations.LineWatchesArmAndReport := ⟨monLoadsAndArms, mwaitReturnsItsReason⟩

/-- Settles O13: what a barrier word does follows from whether its level is over and covered, at the machine whose pending store is placed. -/
theorem barriersArriveAndWait : Obligations.BarriersArriveAndWait := by
  intro xd l s hq hv u past sleeps
  have huq := hq.flushStore
  have hpc := s.flushStore_pc4
  refine ⟨fun hr ho hc => ?_, fun hr h => ?_, fun ho => ?_, fun ho => ?_, fun hm ho hc => ⟨fun hn => ?_, fun hn => ?_⟩, fun hm ho => ?_, fun hrun hm ho => ?_, fun hrun ho => ?_⟩
  · refine ⟨_, ?_, State.cRetire_retired _ _ _ _ (State.barDo_quiet false huq)⟩
    rw [show exec (.barA xd l) s = .next (s.barA xd l) from rfl, State.barA_eq hv hr, ho, hc]
    rfl
  · rw [show exec (.barA xd l) s = .next (s.barA xd l) from rfl, State.barA_eq hv hr, h]
    rfl
  · exact goesOn_of_barWait (.barW l) huq hpc (congrArg Host.Outcome.next (State.barW_eq hv)) ho
  · rw [show exec (.barW l) s = .next (s.barW l) from rfl, State.barW_eq hv, State.barWait_sleeps ho]
    rfl
  · refine goesOn_of_barWait (.bar l) (State.barDo_quiet true huq) ((State.barDo_pc4 _ _ _).trans hpc) ?_ hn
    rw [show exec (.bar l) s = .next (s.barAW l) from rfl, State.barAW_eq hv, hm, ho, hc]
    rfl
  · rw [show exec (.bar l) s = .next (s.barAW l) from rfl, State.barAW_eq hv, hm, ho, hc]
    exact congrArg Host.Outcome.next (State.barWait_sleeps hn)
  · refine goesOn_of_barWait (.bar l) huq hpc ?_ ho
    rw [show exec (.bar l) s = .next (s.barAW l) from rfl, State.barAW_eq hv, hm]
    rfl
  · refine goesOn_of_barWait (.bar l) huq hpc ?_ ho
    rw [show exec .barrierWake s = execBarrierWake s from rfl, execBarrierWake, hrun]
    dsimp only
    rw [State.barAW_eq hv, hm]
    rfl
  · refine goesOn_of_barWait (.barW l) huq hpc ?_ ho
    rw [show exec .barrierWake s = execBarrierWake s from rfl, execBarrierWake, hrun]
    exact congrArg Host.Outcome.next (State.barW_eq hv)

/-- Settles O14: each word is one change of a queue, of a block or of what the next cut is asked. -/
theorem tokensSubmissionsAndYield : Obligations.TokensSubmissionsAndYield := by
  intro xd xa q next strict s hq
  refine ⟨fun hr => ?_, fun ho => ?_, fun hr hal hm hl => goesOn_of_cRetire hq.flushStore (exec_tsub hr hal hm hl), fun u pa hr hal h => tdep_returns hq hr hal h,
    fun id hid => ?_⟩
  · refine goesOn_of_cRetire hq.flushStore ?_
    rw [show exec (.tokPush next) s = execTokPush next s from rfl, execTokPush, hr, cond_true, State.tokReserve_tokGive, State.fifo, State.flushStore_q]
    rfl
  · refine goesOn_of_cRetire hq ?_
    rw [show exec (.tokPop next) s = execTokPop next s from rfl, execTokPop, State.tokHas, decide_eq_true ho, cond_true]
    rfl
  · refine goesOn_of_cRetire ?_ (exec_yield hid)
    exact iteInduction (motive := State.Quiet) (fun _ => hq.flushStore)
      fun _ => State.Quiet.flushStore (s := (s.setCtx { s.core.ctx with yield_ := some strict }).setV { s.core.v with lookYield := false }) hq
end

section
/-! The words of L and S that move no data, and the retirement of data words (R122 to R131). -/

namespace Sys2Proof.Machine

open Sys2Proof.Claims

section
variable {s t : State} {k : LS} {w : LSWord} {y : Option (YReg × Word32)}

/-! ### A word that moves no data -/

/-- What a word finds is the same whether or not a hold for data was remembered. -/
theorem lsRetired_fresh {srcs : List YReg} {tok : Tokens} {ls : List Loop} {pc : Word64} {ends : Bool} :
    LsRetired (fresh s k) t k srcs tok y ls pc ends ↔ LsRetired s t k srcs tok y ls pc ends := by
  cases k <;> exact Iff.rfl
theorem lsIssued_fresh {srcs : List YReg} {tok : Tokens} {r : Retire} : LsIssued (fresh s k) t k srcs tok r ↔ LsIssued s t k srcs tok r := by
  cases k <;> exact Iff.rfl

/-- What a word keeps of its levels, by its own change of them and its marker (R122, R130). -/
theorem LSWord.keeps_next {own : Option (List Loop)} (hs : w.loops.isSome = own.isSome) :
    (w.keeps (s.ls k).pc (own.getD (s.ls k).loops) y).next = closingKept s k w.marker own := by
  show (bif w.loops.isSome || w.marker != 0 then _ else none) = _
  rw [closingKept, hs]
  simp only [Bool.cond_eq_ite, Bool.or_eq_true, bne_iff_ne]
  rfl

theorem LSWord.keeps_eq {own : Option (List Loop)} (hs : w.loops.isSome = own.isSome) :
    w.keeps (s.ls k).pc (own.getD (s.ls k).loops) y = ⟨w.data, w.wload, y, w.tok, closingKept s k w.marker own, w.ends⟩ := by
  rw [← LSWord.keeps_next (y := y) hs]
  rfl
theorem fresh_quiet (hq : s.Quiet) : (fresh s k).Quiet := hq.setLS k _

/-- With nothing left to close, a word goes on to the next. -/
theorem closing_none (s : State) (k : LS) : closing s k 0 none = ((s.ls k).loops, (s.ls k).pc + 8) := rfl
theorem closingKept_elim (mk : Nat) (own : Option (List Loop)) (ends : Bool) :
    (closingKept s k mk own).elim (s.ls k).loops (·.1) = (closing s k mk own).1 ∧
      (closingKept s k mk own).elim (if ends = true then (s.ls k).pc else (s.ls k).pc + 8) (·.2) =
        if ends = true ∧ mk = 0 ∧ own = none then (s.ls k).pc else (closing s k mk own).2 := by
  unfold closingKept
  split
  case isTrue h =>
    refine ⟨rfl, (if_neg fun hn => ?_).symm⟩
    rcases h with h | h
    · rw [hn.2.2] at h
      exact absurd h (by decide)
    · exact h hn.2.1
  case isFalse h =>
    rw [not_or, not_not, Bool.not_eq_true, Option.isSome_eq_false_iff, Option.isNone_iff_eq_none] at h
    obtain ⟨rfl, rfl⟩ := h
    exact ⟨rfl, by simp only [and_true]; rfl⟩

/-- A word that moves no data and whose act changes nothing but a y register. -/
theorem lsGoes_of_word {own : Option (List Loop)} {i : Instr} (hq : s.Quiet) (hx : exec i s = .next (s.lsIssue w)) (hd : w.data = false) (hwl : w.wload = false)
    (hs : w.loops.isSome = own.isSome) (ho : w.own (s.ls w.k).loops = some (own.getD (s.ls w.k).loops)) (ha : w.act (fresh s w.k) = .go (fresh s w.k) y) :
    LsGoes i s w.k w.srcs w.tok w.marker y own w.ends := by
  intro hr hm
  have hf : (fresh s w.k).ls w.k = { s.ls w.k with waits := false } := fresh_ls s w.k
  have hw : ((fresh s w.k).ls w.k).waits = false := by rw [hf]
  have hi := State.lsIssue_ready s w _ _ y hr ho hm ha
  have hn := LSWord.keeps_next (s := s) (k := w.k) (y := y) hs
  obtain ⟨hl, hpc⟩ := closingKept_elim (s := s) (k := w.k) w.marker own w.ends
  refine ⟨fun hp => ⟨_, hx, ?_⟩, fun hp => ⟨_, hx, ?_⟩⟩
  · have hret := State.lsGoOn_retires (fresh s w.k) w (w.keeps (s.ls w.k).pc (own.getD (s.ls w.k).loops) y) (fresh_quiet hq) hw hd (by rw [hf]; exact hp) rfl rfl
    rw [hn, hf] at hret
    rw [hi, ← hl, ← hpc]
    exact lsRetired_fresh.mp hret
  · have hwait := State.lsGoOn_waits (fresh s w.k) w (w.keeps (s.ls w.k).pc (own.getD (s.ls w.k).loops) y) hw rfl (Or.inr (by rw [hf]; exact hp))
    rw [LSWord.keeps_eq hs, hd, hwl] at hwait
    rw [hi, LSWord.keeps_eq hs, hd, hwl]
    exact lsIssued_fresh.mp hwait

end

/-! ### The words -/

section
variable {s : State} {k : LS} {tok : Tokens} {mk : BitVec 2} {i : Instr} {srcs : List YReg}

/-- A word that writes one y register (R125). -/
theorem lsGoes_of_lsY {yd : YReg} {v : Word32} (hq : s.Quiet) (hx : exec i s = s.lsY k i tok mk srcs yd v) : LsGoes i s k srcs tok mk.toNat (some (yd, v)) none false :=
  lsGoes_of_word (w := { k := k, i := i, tok := tok, marker := mk.toNat, srcs := srcs, act := fun s => .go s (some (yd, v)) }) hq hx rfl rfl rfl rfl rfl

theorem special_index (s : State) (k : LS) (lid : BitVec 8) : s.special (lsStrand k) 0 lid = (loopFind (s.ls k).loops lid).elim 0 (·.index) := by
  cases k
  · show (match loopFind s.core.l.loops lid with | some l => l.index | none => 0) = _
    rw [State.ls]
    cases loopFind s.core.l.loops lid <;> rfl
  · show (match loopFind s.core.s.loops lid with | some l => l.index | none => 0) = _
    rw [State.ls]
    cases loopFind s.core.s.loops lid <;> rfl
theorem special_remaining (s : State) (k : LS) (lid : BitVec 8) : s.special (lsStrand k) 1 lid = (loopFind (s.ls k).loops lid).elim 0 (·.remaining) := by
  cases k
  · show (match loopFind s.core.l.loops lid with | some l => l.remaining | none => 0) = _
    rw [State.ls]
    cases loopFind s.core.l.loops lid <;> rfl
  · show (match loopFind s.core.s.loops lid with | some l => l.remaining | none => 0) = _
    rw [State.ls]
    cases loopFind s.core.s.loops lid <;> rfl
theorem special_hi (s : State) (k : LS) (lid : BitVec 8) : s.special (lsStrand k) 2 lid = (s.ls k).hi := by cases k <;> rfl
theorem special_tick (s : State) (k : LS) (lid : BitVec 8) : s.special (lsStrand k) 3 lid = s.core.csr.tick.extractLsb' 0 32 := rfl

/-- An lbeg that may open its level (R128, R129). -/
theorem lbeg_goes {lid : BitVec 8} {ya : YReg} {imm : BitVec 32} (hq : s.Quiet) (hl : (s.ls k).loops.length < 4) (hf : loopFind (s.ls k).loops lid = none) :
    LsGoes (.lbeg k tok lid ya imm) s k [ya] tok 0 none
      (some (⟨lid, (s.ls k).pc + 8, none, if s.yRead (lsStrand k) ya + imm = 0 then 1 else s.yRead (lsStrand k) ya + imm, 0⟩ :: (s.ls k).loops)) false := by
  have hc : loopCount (s.yRead (lsStrand k) ya) imm = if s.yRead (lsStrand k) ya + imm = 0 then 1 else s.yRead (lsStrand k) ya + imm := by
    rw [loopCount, beq_eq_decide, Bool.cond_decide]
  refine lsGoes_of_word (w :=
    { k := k, i := .lbeg k tok lid ya imm, tok := tok, marker := 0, srcs := [ya], act := fun s => .go s none,
      loops := some fun ls => loopPush ls lid (loopCount (s.yRead (lsStrand k) ya) imm) ((s.ls k).pc + 8) }) hq rfl rfl rfl rfl ?_ rfl
  show loopPush (s.ls k).loops lid _ _ = _
  rw [loopPush, decide_eq_false (Nat.not_le.mpr hl), hf, hc]
  rfl
/-- An lend of the innermost level (R130). -/
theorem lend_goes {lid : BitVec 8} {l : Loop} {ls : List Loop} (hq : s.Quiet) (hl : (s.ls k).loops = l :: ls) (hid : l.id = lid) :
    LsGoes (.lend k tok lid) s k [] tok 1 none (some (l :: ls)) false := by
  refine lsGoes_of_word (w :=
    { k := k, i := .lend k tok lid, tok := tok, marker := 1, srcs := [], act := fun s => .go s none,
      loops := some fun ls => match ls with | l :: _ => bif l.id == lid then some ls else none | [] => none }) hq rfl rfl rfl rfl ?_ rfl
  show (match (s.ls k).loops with | l :: _ => bif l.id == lid then some (s.ls k).loops else none | [] => none) = _
  rw [hl]
  dsimp only
  rw [hid, beq_self_eq_true]
  rfl
/-- An lbr of an active level (R131). -/
theorem lbr_goes {lid : BitVec 8} {ya : YReg} (hq : s.Quiet) (hf : (loopFind (s.ls k).loops lid).isSome = true) :
    LsGoes (.lbr k tok mk lid ya) s k [ya] tok mk.toNat none
      (some (if s.yRead (lsStrand k) ya ≠ 0 then (s.ls k).loops.map (fun l => if l.id = lid then { l with remaining := 1 } else l) else (s.ls k).loops)) false := by
  have hb (ls : List Loop) : loopBreak ls lid = ls.map fun l => if l.id = lid then { l with remaining := 1 } else l := by
    simp only [loopBreak, beq_eq_decide, Bool.cond_decide]
  refine lsGoes_of_word (w :=
    { k := k, i := .lbr k tok mk lid ya, tok := tok, marker := mk.toNat, srcs := [ya], act := fun s => .go s none,
      loops := some fun ls => bif (loopFind ls lid).isSome then some (bif s.yRead (lsStrand k) ya != 0 then loopBreak ls lid else ls) else none }) hq rfl rfl rfl rfl ?_ rfl
  show (bif (loopFind (s.ls k).loops lid).isSome then some (bif s.yRead (lsStrand k) ya != 0 then loopBreak (s.ls k).loops lid else (s.ls k).loops) else none) = _
  rw [hf, cond_true, hb]
  simp only [Bool.cond_eq_ite, bne_iff_ne]
  rfl

end

theorem registerAndLoopWordsRetireInOrder : RegisterAndLoopWordsRetireInOrder := by
  intro k tok mk yd ya yb imm lid payload s hq
  refine ⟨lsGoes_of_lsY hq rfl, lsGoes_of_lsY hq rfl, lsGoes_of_lsY hq rfl, ?_, ?_, ?_, ?_, lbeg_goes hq, fun l ls => lend_goes hq, lbr_goes hq, ?_, ?_⟩
  · rw [← special_index]
    exact lsGoes_of_lsY hq rfl
  · rw [← special_remaining]
    exact lsGoes_of_lsY hq rfl
  · rw [← special_hi s k lid]
    exact lsGoes_of_lsY hq rfl
  · exact lsGoes_of_lsY hq rfl
  · exact lsGoes_of_word (w := { k := k, i := .lsEnd k tok mk, tok := tok, marker := mk.toNat, srcs := [], ends := true, act := fun s => .go s none }) hq rfl rfl rfl rfl rfl rfl
  · exact lsGoes_of_word (w := { k := k, i := .lsHint k tok mk payload, tok := tok, marker := mk.toNat, srcs := [], act := fun s => .go s none }) hq rfl rfl rfl rfl rfl rfl

theorem closingALoopGoesBackOrOn : ClosingALoopGoesBackOrOn := by
  intro l ls pc next m
  refine ⟨fun h => ?_, fun h => ?_, rfl⟩
  · rw [loopClose, decide_eq_true h]
    rfl
  · rw [loopClose, decide_eq_false (Nat.not_lt.mpr h)]
    rfl

/-! ### Misused loop words -/

section
variable {s : State} {w : LSWord}

/-- A word that its levels do not allow raises cause 0x01 (R129 to R131). -/
theorem State.lsIssue_notOwn (ho : s.lsOrdered w.k = true) (h : w.own (s.ls w.k).loops = none) :
    s.lsIssue w = (fresh s w.k).raise (lsStrand w.k) 0x01 (lsWordOf w.i) (s.ls w.k).pc := by
  have ho' : (fresh s w.k).lsOrdered w.k = true := by rw [State.lsOrdered, fresh_ls]; exact ho
  unfold State.lsIssue
  dsimp only
  rw [show s.setLS w.k { s.ls w.k with waits := false } = fresh s w.k from rfl, ho', fresh_ls, h]
  rfl
/-- A word whose marker closes more levels than are active raises cause 0x01 (R130). -/
theorem State.lsIssue_overMarked {ls : List Loop} (ho : s.lsOrdered w.k = true) (h : w.own (s.ls w.k).loops = some ls) (hm : ls.length < w.marker) :
    s.lsIssue w = (fresh s w.k).raise (lsStrand w.k) 0x01 (lsWordOf w.i) (s.ls w.k).pc := by
  have ho' : (fresh s w.k).lsOrdered w.k = true := by rw [State.lsOrdered, fresh_ls]; exact ho
  unfold State.lsIssue
  dsimp only
  rw [show s.setLS w.k { s.ls w.k with waits := false } = fresh s w.k from rfl, ho', fresh_ls, h]
  dsimp only
  rw [decide_eq_true hm]
  rfl

end

theorem misusedLoopWordsRaiseIllegal : MisusedLoopWordsRaiseIllegal := by
  intro k tok mk yd ya yb imm lid payload s ho loops bad
  refine ⟨fun h => ?_, fun h => ?_, fun h => ?_, fun h => ⟨?_, ?_, ?_, ?_⟩⟩
  · refine congrArg Host.Outcome.next (State.lsIssue_notOwn ho ?_)
    show loopPush loops lid _ _ = none
    have hb : (decide (4 ≤ loops.length) || (loopFind loops lid).isSome) = true := by rw [Bool.or_eq_true, decide_eq_true_eq]; exact h
    rw [loopPush, hb, cond_true]
  · refine congrArg Host.Outcome.next (State.lsIssue_notOwn ho ?_)
    show (match loops with | l :: _ => bif l.id == lid then some loops else none | [] => none) = none
    cases hl : loops with
    | nil => rfl
    | cons l ls =>
      dsimp only
      rw [beq_eq_false_iff_ne.mpr (h l ls hl), cond_false]
  · refine congrArg Host.Outcome.next (State.lsIssue_notOwn ho ?_)
    show (bif (loopFind loops lid).isSome then _ else none) = none
    rw [h]
    rfl
  all_goals exact congrArg Host.Outcome.next (State.lsIssue_overMarked ho rfl h)

/-! ### Retirement -/

/-- Words behind no data word in flight retire in order, up to the next data word (R122). -/
theorem State.lsDrain_eq (k : LS) (rest : List Retire) (s : State) : State.lsDrain k rest s =
    let b := (rest.takeWhile (!·.data)).foldl (fun b r => b.lsRetire k r) s
    b.setLS k { b.ls k with pend := rest.dropWhile (!·.data) } := by
  induction rest generalizing s with
  | nil => rfl
  | cons r rest ih =>
    rw [State.lsDrain]
    cases hr : r.data with
    | true => rw [List.takeWhile_cons, List.dropWhile_cons, hr]; rfl
    | false => rw [List.takeWhile_cons, List.dropWhile_cons, hr]; exact ih _

end Sys2Proof.Machine

open Sys2Proof Sys2Proof.Machine

/-- Settles O19: a word that moves no data is its sources, its y write and its change of the levels; the causes of its levels come before all else. -/
theorem loopWordsCloseAndLeaveLevels : Obligations.LoopWordsCloseAndLeaveLevels :=
  ⟨registerAndLoopWordsRetireInOrder, closingALoopGoesBackOrOn, misusedLoopWordsRaiseIllegal⟩

/-- Settles O22, by induction on the words behind the head. -/
theorem dataWordsRetireInOrder : Obligations.DataWordsRetireInOrder := by
  intro k s r rest hp
  refine ⟨congrArg Host.Outcome.next ?_, fun hq => State.lsRetire_eq hq k r⟩
  rw [State.lsDataDone, hp]
  exact State.lsDrain_eq k rest _
end

section
/-! What the operations on memory, the caches and the counters leave of the machine, in every state: of the core what serving an access may change, and memory in
its canonical form. -/

namespace Sys2Proof.Machine

/-- An operation on memory, the caches or the counters: of the core it changes what serving an access may change, and it keeps memory's canonical form. -/
def State.Serves (s t : State) : Prop := s.core.Served t.core ∧ (s.Inv → t.Inv)

section
variable {s t u : State}

theorem State.Serves.rfl' (s : State) : s.Serves s := ⟨Core.Served.rfl' _, id⟩
theorem State.Serves.trans (h : s.Serves t) (k : t.Serves u) : s.Serves u := by
  obtain ⟨hs, hi⟩ := h
  obtain ⟨ks, ki⟩ := k
  exact ⟨hs.trans ks, fun i => ki (hi i)⟩
theorem State.Serves.foldl {α : Type} {f : State → α → State} (h : ∀ (x : State) (a : α), x.Serves (f x a)) (l : List α) (s : State) : s.Serves (l.foldl f s) := by
  induction l generalizing s with
  | nil => exact State.Serves.rfl' s
  | cons a l ih => exact (h s a).trans (ih _)
theorem State.Serves.cond {b : Bool} {x y : State} (hx : s.Serves x) (hy : s.Serves y) : s.Serves (bif b then x else y) :=
  cond_induction (P := fun t => s.Serves t) (fun _ => hx) fun _ => hy
/-- An operation that touches neither the core nor a byte of memory. -/
theorem State.Serves.of_eq (hc : t.core = s.core) (hm : t.mem.cells = s.mem.cells) : s.Serves t :=
  ⟨hc ▸ Core.Served.rfl' _, fun h => (congrArg cellsWf hm).trans h⟩
theorem State.Serves.of_near (hc : s.core.Near t.core) (hm : s.Inv → t.Inv) : s.Serves t := ⟨hc.served, hm⟩
theorem State.CacheNear.serves (h : s.CacheNear t) : s.Serves t := ⟨h.cached.served, h.wf⟩

end

section
variable (s : State)

theorem State.orderAt_serves (ag : Nat) (w : Bool) (pa : Nat) : s.Serves (s.orderAt ag w pa) := by
  obtain ⟨o, e⟩ := s.orderAt_eq ag w pa
  rw [e]
  exact .of_eq rfl rfl
theorem State.orderLines_serves (ag : Nat) (w : Bool) (pas : List Nat) : s.Serves (s.orderLines ag w pas) := by
  obtain ⟨o, e⟩ := s.orderLines_eq ag w pas
  rw [e]
  exact .of_eq rfl rfl
theorem State.granulePut_serves (g : Granule) : s.Serves (s.granulePut g) := ⟨(s.granulePut_near g).served, State.granulePut_wf g⟩
theorem State.rmwFirst_serves (pas : List Nat) : s.Serves (s.rmwFirst pas) := ⟨(s.rmwFirst_near pas).served, State.rmwFirst_wf pas⟩
theorem State.memWrite_serves (cs : List Host.Cell) (o : Owner) (dev whole : Bool) : s.Serves (s.memWrite cs o dev whole) :=
  ⟨(s.memWrite_near cs o dev whole).served, State.memWrite_wf cs o dev whole⟩
theorem State.unitWrite_serves (cs : List Host.Cell) : s.Serves (s.unitWrite cs) := .of_near (s.unitWrite_core cs) (State.unitWrite_wf cs)
theorem State.msiRaw_serves (p : BitVec 3) (v : BitVec 2) (n c : Nat) : s.Serves (s.msiRaw p v n c) :=
  .of_near (s.msiRaw_near p v n c) fun h => by rw [State.Inv, State.msiRaw_mem]; exact h
theorem State.record_serves (p : BitVec 3) (t : Nat) (c : Word32) (k a d : Word64) : s.Serves (s.record p t c k a d) :=
  .of_near (s.record_near p t c k a d) (State.record_wf p t c k a d)
theorem State.msi_serves (p : BitVec 3) (v : BitVec 2) (n c : Nat) : s.Serves (s.msi p v n c) := .of_near (s.msi_near p v n c) (State.msi_wf p v n c)
theorem State.postNext_serves (p : BitVec 3) : s.Serves (s.postNext p) := .of_near (s.postNext_near p) (State.postNext_wf p)
theorem State.post_serves (p : BitVec 3) (r : FaultRec) : s.Serves (s.post p r) := .of_near (s.post_near p r) (State.post_wf p r)
theorem State.memRec_serves (t : BitVec 8) (pa : Nat) : s.Serves (s.memRec t pa) := .of_near (s.memRec_near t pa) (State.memRec_wf t pa)
theorem State.storeCells_serves (cs : List Host.Cell) (o : Owner) (dev : Bool) : s.Serves (s.storeCells cs o dev) :=
  .of_near (s.storeCells_near cs o dev) (State.storeCells_wf cs o dev)
theorem State.store_serves (pa : Nat) (bs : List Byte) (o : Owner) (dev : Bool) : s.Serves (s.store pa bs o dev) :=
  .of_near (s.store_near pa bs o dev) (State.store_wf pa bs o dev)
theorem State.atMsc_serves (pas : List Nat) : s.Serves (s.atMsc pas) := (s.atMsc_near pas).serves
theorem State.unitStore_serves (cs : List Host.Cell) : s.Serves (s.unitStore cs) := (s.atMsc_serves _).trans (State.storeCells_serves _ _ _ _)
theorem State.flushStore_serves : s.Serves s.flushStore := ⟨s.flushStore_served, State.flushStore_wf⟩

/-! ### Counters -/

theorem State.ovfInts_serves (p : BitVec 3) (v : BitVec 2) (k : Vector (BitVec 10) 32) (w : List Nat) : s.Serves (s.ovfInts p v k w) :=
  .foldl (fun x i => .cond (x.msi_serves p v 1 i) (.rfl' x)) w s
theorem State.count_serves (ev : BitVec 8) (n : Nat) : s.Serves (s.count ev n) := by
  refine State.Serves.trans (t := { s with core := { s.core with perf := (s.core.perf.add ev n).1, units := unitCount s.core.units ev n } }) ?_ (State.ovfInts_serves _ _ _ _ _)
  exact ⟨⟨_, _, _, _, _, _, _, _, rfl⟩, id⟩
theorem State.fallCount_serves (off n : Nat) : s.Serves (s.fallCount off n) := .cond (.rfl' s) (s.count_serves _ _)
theorem State.coverAt_serves (c : Cover) (pas : List Nat) : s.Serves (s.coverAt c pas) := .of_eq rfl rfl

/-! ### Caches and translation -/

theorem State.l2Count_serves (o : Owner) (ev : BitVec 8) : s.Serves (s.l2Count o ev) := by
  unfold State.l2Count
  split
  · exact .cond (.rfl' s) (.cond (s.count_serves ev 1) (.of_eq rfl rfl))
  · exact .rfl' s
theorem State.l2Evict_serves (x : L2Line) (mine : Bool) : s.Serves (s.l2Evict x mine) :=
  .cond ((s.l2Out_near x).serves.trans (State.l2Count_serves _ _ _)) (s.l2Out_near x).serves
theorem State.l2Trim_serves (key : Nat) (mine : Bool) : s.Serves (s.l2Trim key mine) := .foldl (fun x l => x.l2Evict_serves l mine) _ s
theorem State.l2Alloc_serves (line : Nat) (p : Option (BitVec 3)) (mine : Bool) : s.Serves (s.l2Alloc line p mine) :=
  .cond (.rfl' s) (State.Serves.trans (.foldl (fun x l => x.l2Evict_serves l mine) _ s) (.of_eq rfl rfl))
theorem State.l2Access_serves (pa : Nat) (p fill : Option (BitVec 3)) (mine : Bool) : s.Serves (s.l2Access pa p fill mine) := by
  unfold State.l2Access
  refine .cond (.cond (.of_eq rfl rfl) (.rfl' s)) (.cond (s.mscAccess_near _ _ _).serves ?_)
  split
  · exact .cond (State.Serves.trans (.of_eq rfl rfl) (State.l2Count_serves _ _ _)) (.of_eq rfl rfl)
  · exact (s.mscAccess_near _ _ _).serves.trans (State.l2Alloc_serves _ _ _ _)
theorem State.l2Own_serves (pa : Nat) : s.Serves (s.l2Own pa) := s.l2Access_serves _ _ _ _
theorem State.l2Hit_serves (pa : Nat) : s.Serves (s.l2Hit pa) := (s.orderAt_serves 0 true pa).trans (State.l2Own_serves _ pa)
theorem State.l2Hits_serves (pas : List Nat) : s.Serves (s.l2Hits pas) := .foldl (fun x l => x.l2Hit_serves (l * 128)) _ s
theorem State.l2Engine_serves (pa : Nat) (mine : Bool) : s.Serves (s.l2Engine pa mine) := s.l2Access_serves _ _ _ _
theorem State.walkAccess_serves (p : BitVec 3) (v : BitVec 2) (va : Word64) : s.Serves (s.walkAccess p v va) :=
  .foldl (fun x _ => .cond (.rfl' x) (x.l2Access_serves _ _ _ _)) _ s
theorem State.fillTlb_serves (p : BitVec 3) (v : BitVec 2) (va : Word64) : s.Serves (s.fillTlb p v va) := by
  unfold State.fillTlb
  split
  · exact .rfl' s
  · refine .cond (.rfl' s) ?_
    have hw := s.walkAccess_serves p v va
    dsimp only
    split
    · exact hw.trans ⟨⟨_, _, _, _, _, _, _, _, rfl⟩, id⟩
    · exact hw
theorem State.cEvent_serves (va : Word64) : s.Serves (s.cEvent va) := s.flushStore_serves.trans (State.fillTlb_serves _ _ _ _)
theorem State.lease_serves (line : Nat) (own : Bool) : s.Serves (s.lease line own) := .cond (.rfl' s) (.of_eq rfl rfl)
theorem State.l1Put_serves (line : Nat) : s.Serves (s.l1Put line) := .cond (.rfl' s) ⟨⟨_, _, _, _, _, _, _, _, rfl⟩, id⟩
theorem State.l1Hit_serves (pa : Nat) : s.Serves (s.l1Hit pa) := by
  have ho := s.orderAt_serves 0 false pa
  unfold State.l1Hit
  exact .cond (ho.trans (State.l2Own_serves _ pa)) (.cond (ho.trans (State.l1Put_serves _ _))
    (((ho.trans (State.l2Own_serves _ pa)).trans (State.lease_serves _ _ true)).trans (State.l1Put_serves _ _)))
theorem State.l1Hits_serves (pas : List Nat) : s.Serves (s.l1Hits pas) := .foldl (fun x l => x.l1Hit_serves (l * 128)) _ s
theorem State.fillFor_serves (d : Desc) (es : List Nat) : s.Serves (s.fillFor d es) := by
  refine .foldl (fun x e => ?_) es s
  split
  · exact .cond ((x.fillTlb_serves _ _ _).trans (State.fillTlb_serves _ _ _ _)) (x.fillTlb_serves _ _ _)
  · exact .rfl' x
theorem State.fetchCounts_serves (d : Desc) (ps : List Nat) : s.Serves (s.fetchCounts d ps) := s.l1Hits_serves _

end

end Sys2Proof.Machine
end

section
/-! The data words of L and S (R138 to R145): what moves at their issue. -/

namespace Sys2Proof.Machine

open Sys2Proof.Claims

/-! ### The strands L and S stand -/

/-- L, S, the array's planes and the step's demand as they were. -/
def State.LsKept (s t : State) : Prop := t.core.l = s.core.l ∧ t.core.s = s.core.s ∧ t.core.arr = s.core.arr ∧ t.core.ten = s.core.ten
/-- L and S as they were. -/
def State.LsSame (s t : State) : Prop := t.core.l = s.core.l ∧ t.core.s = s.core.s

section
variable {s t u : State} {k : LS}

theorem State.LsKept.rfl' (s : State) : s.LsKept s := ⟨rfl, rfl, rfl, rfl⟩
theorem State.LsKept.trans (h : s.LsKept t) (k : t.LsKept u) : s.LsKept u := by
  obtain ⟨hl, hs, ha, ht⟩ := h
  obtain ⟨kl, ks, ka, kt⟩ := k
  exact ⟨kl.trans hl, ks.trans hs, ka.trans ha, kt.trans ht⟩
theorem State.LsKept.same (h : s.LsKept t) : s.LsSame t := ⟨h.1, h.2.1⟩
theorem State.LsSame.trans (h : s.LsSame t) (k : t.LsSame u) : s.LsSame u := ⟨k.1.trans h.1, k.2.trans h.2⟩
theorem State.LsKept.cond {b : Bool} {x y : State} (hx : s.LsKept x) (hy : s.LsKept y) : s.LsKept (bif b then x else y) :=
  cond_induction (P := fun t => s.LsKept t) (fun _ => hx) fun _ => hy
theorem State.LsKept.ite {p : Prop} [Decidable p] {x y : State} (hx : s.LsKept x) (hy : s.LsKept y) : s.LsKept (if p then x else y) :=
  iteInduction (motive := fun t => s.LsKept t) (fun _ => hx) fun _ => hy
theorem State.LsKept.foldl {α : Type} {f : State → α → State} (h : ∀ (x : State) (a : α), x.LsKept (f x a)) (l : List α) (s : State) : s.LsKept (l.foldl f s) := by
  induction l generalizing s with
  | nil => exact State.LsKept.rfl' s
  | cons a l ih => exact (h s a).trans (ih _)
theorem Core.Served.ls (h : s.core.Served t.core) : s.LsKept t := by
  obtain ⟨_, _, _, _, _, _, _, _, e⟩ := h
  rw [State.LsKept, e]
  exact ⟨rfl, rfl, rfl, rfl⟩
theorem State.Serves.ls (h : s.Serves t) : s.LsKept t := h.1.ls
theorem State.LsSame.waits (h : (fresh s k).LsSame t) : (t.ls k).waits = false := by
  obtain ⟨hl, hs⟩ := h
  cases k
  · show t.core.l.waits = false
    rw [hl]
    rfl
  · show t.core.s.waits = false
    rw [hs]
    rfl

/-- A sample changes symbols and what is pending. -/
theorem State.sampleAt_ls (s : State) (src : BitVec 4) (n at_ : Nat) : s.LsKept (s.sampleAt src n at_) := by
  refine .cond (.rfl' s) (.foldl (fun x i => .cond ?_ (.rfl' x)) allStreams s)
  exact .cond (.cond ⟨rfl, rfl, rfl, rfl⟩ ⟨rfl, rfl, rfl, rfl⟩) ⟨rfl, rfl, rfl, rfl⟩
theorem State.setDesc_ls (s : State) (r : SReg) (d : Desc) : s.LsKept (s.setDesc r d) := ⟨rfl, rfl, rfl, rfl⟩
theorem State.arrive_ls (s : State) (r : SReg) : s.LsKept (s.arrive r) := by
  unfold State.arrive
  dsimp only
  split
  · exact .rfl' s
  · refine .cond (.rfl' s) (.cond (s.setDesc_ls r _) (.cond (.rfl' s) ?_))
    exact ((s.fetchCounts_serves _ _).ls.trans (State.setDesc_ls _ r _)).trans (.foldl (fun x _ => x.sampleAt_ls _ _ _) _ _)
theorem State.askBlocks_ls (s : State) (r : SReg) (n : Nat) : s.LsKept (s.askBlocks r n) := by
  have h (x : State) (hx : s.LsKept x) : s.LsKept (x.arrive r) := hx.trans (x.arrive_ls r)
  exact .cond (h _ (.cond (.rfl' s) (s.setDesc_ls r _))) (.rfl' s)
theorem State.poolWrite_ls (s : State) (off : Nat) (bs : List Byte) : s.LsKept (s.poolWrite off bs) := ⟨rfl, rfl, rfl, rfl⟩
theorem State.fpCount_ls (s : State) (ev : List Nat) : s.LsKept (s.fpCount ev) := by
  unfold State.fpCount
  split <;> exact ⟨rfl, rfl, rfl, rfl⟩

/-! ### A word that moves data -/

/-- A data word, its act given. -/
theorem lsMoves_of_word {i j : Instr} {tok : Tokens} {mk : Nat} {ya : YReg} {wload : Bool} {act : State → LSAct} {b : State}
    (hx : exec i s = .next (s.lsIssue { k := k, i := j, tok := tok, marker := mk, srcs := [ya], data := true, wload := wload, act := act }))
    (ha : act (fresh s k) = .go b none) (hb : (fresh s k).LsSame b) : LsMoves i s b k ya tok mk wload := by
  intro hr hm
  have hi := State.lsIssue_ready s { k := k, i := j, tok := tok, marker := mk, srcs := [ya], data := true, wload := wload, act := act } _ b none hr rfl hm ha
  have hwait := State.lsGoOn_waits b { k := k, i := j, tok := tok, marker := mk, srcs := [ya], data := true, wload := wload, act := act }
    ⟨true, wload, none, tok, closingKept s k mk none, false⟩ hb.waits rfl (Or.inl rfl)
  have hk := LSWord.keeps_eq (s := s) (k := k) (y := none) (own := none)
    (w := { k := k, i := j, tok := tok, marker := mk, srcs := [ya], data := true, wload := wload, act := act }) rfl
  exact ⟨_, hx.trans (congrArg Host.Outcome.next (hi.trans (congrArg _ hk))), hwait⟩

end

section
variable (s : State) (k : LS)

/-- What a word looks up at its issue is what it was before. -/
theorem fresh_yRead (t : Strand) (ya : YReg) : (fresh s k).yRead t ya = s.yRead t ya := by cases k <;> cases t <;> rfl
theorem fresh_vcap : (fresh s k).vcap = s.vcap := by cases k <;> rfl
theorem fresh_core_v : (fresh s k).core.v = s.core.v := by cases k <;> rfl
theorem fresh_desc (r : SReg) : (fresh s k).desc r = s.desc r := by cases k <;> rfl
theorem fresh_scratchBad (off n : Nat) : (fresh s k).scratchBad off n = s.scratchBad off n := by cases k <;> rfl
theorem fresh_poolCause (vr : BitVec 5) (off n : Nat) : (fresh s k).poolCause vr off n = s.poolCause vr off n := by cases k <;> rfl
theorem fresh_poolErr (off n : Nat) : (fresh s k).poolErr off n = s.poolErr off n := by cases k <;> rfl
theorem fresh_vrOff (vr : BitVec 5) : (fresh s k).vrOff vr = s.vrOff vr := by cases k <;> rfl

end

theorem dataLen_eq (len : BitVec 11) (n : Nat) : (if len = 0 then n else len.toNat * 64) = dataLen len n := rfl

section
variable {s : State} {tok : Tokens} {mk : BitVec 2} {vr : BitVec 5} {r : SReg} {ya : YReg} {fmt : BitVec 4} {len : BitVec 11} {off : BitVec 21}

theorem pld_moves (hf : fmt = s.core.v.shape.fmt) (hsc : s.scratchBad (off.toNat + (s.yRead .l ya).toNat) (dataLen len s.vcap) = none)
    (hp : s.poolCause vr 0 (dataLen len s.vcap) = none) (he : s.poolErr (off.toNat + (s.yRead .l ya).toNat) (dataLen len s.vcap) = none) :
    LsMoves (.pld tok mk vr ya fmt len off) s
      (((fresh s .l).poolWrite ((fresh s .l).vrOff vr) ((fresh s .l).poolBytes (off.toNat + (s.yRead .l ya).toNat) (dataLen len s.vcap))).fallCount
        (off.toNat + (s.yRead .l ya).toNat) (dataLen len s.vcap)) .l ya tok mk.toNat false := by
  refine lsMoves_of_word (hx := rfl) ?_ ((State.poolWrite_ls _ _ _).trans (State.fallCount_serves _ _ _).ls).same
  dsimp only
  rw [fresh_core_v, bne_eq_false_iff_eq.mpr hf, cond_false, dataLen_eq, fresh_vcap, fresh_yRead, fresh_scratchBad, fresh_poolCause, fresh_poolErr, hsc, hp, he]

/-- A stream that is active, of the direction named and of the format named is not misused (R139). -/
theorem Desc.not_misused {d : Desc} {out : Bool} (ha : d.active = true) (ho : d.out = out) : d.misused out = false := by
  rw [Desc.misused, ha, ho, bne_self_eq_false]
  rfl

/-- The pool writes of a vld: its register, and its pool range (R139). -/
def State.vldPut (b : State) (vr : BitVec 5) (toPool : Bool) (at_ n : Nat) (bytes : List Byte) : State :=
  let b := if vr = 31 then b else b.poolWrite (b.vrOff vr) bytes
  if toPool = true then (b.poolWrite at_ bytes).fallCount at_ n else b
theorem State.vldPut_ls (b : State) (vr : BitVec 5) (toPool : Bool) (at_ n : Nat) (bytes : List Byte) : b.LsKept (b.vldPut vr toPool at_ n bytes) := by
  have h : b.LsKept (if vr = 31 then b else b.poolWrite (b.vrOff vr) bytes) := .ite (.rfl' b) (b.poolWrite_ls _ _)
  exact .ite (h.trans ((State.poolWrite_ls _ _ _).trans (State.fallCount_serves _ _ _).ls)) h

theorem vld_moves {toPool : Bool} {ps : List Nat} {bs : List Block_} : let d := s.desc r
    let at_ := off.toNat + (s.yRead .l ya).toNat
    let n := dataLen len d.blockSize
    let nb := ceilDiv n d.blockSize
    let a := (fresh s .l).askBlocks r nb
    let d' := a.desc r
    let es := d'.carried ps
    let w := a.fillFor d' es
    d.active = true → d.out = false → d.fmt = fmt.toNat → (vr ≠ 31 → s.poolCause vr 0 n = none) →
    (toPool = true → s.scratchBad at_ n = none) → d.positions nb d.at_ = some ps → a.blocksHere r nb = true → w.readBlocks d' ps d'.ahead [] = .ok bs →
      LsMoves (.vld tok mk vr r ya fmt toPool len off) s
        ((((w.fetchCounts d' (d'.missing nb)).setDesc r (d'.popped nb es.length)).vldPut vr toPool at_ n ((bs.flatMap d'.blockBytes).take n)).count 0x0a nb)
        .l ya tok mk.toNat false := by
  intro d at_ n nb a d' es w ha ho hf hp hsc hps hh hb
  have hm : (d.misused false || d.fmt != fmt.toNat) = false := by rw [Desc.not_misused ha ho, hf, bne_self_eq_false]; rfl
  have hreg : (if vr = 31 then none else s.poolCause vr 0 n) = none := by
    split
    · rfl
    · next h => exact hp h
  have hpool : (if toPool = true then (s.scratchBad at_ n).map (BitVec.ofNat 64) else none) = none := by
    split
    · next h => rw [hsc h]; rfl
    · rfl
  refine lsMoves_of_word (hx := rfl) ?_ ?_
  · dsimp only
    rw [fresh_desc, fresh_yRead, dataLen_eq, fresh_poolCause, fresh_scratchBad]
    rw [show ((s.desc r).misused false || (s.desc r).fmt != fmt.toNat) = false from hm, cond_false]
    rw [show (if vr = 31 then none else s.poolCause vr 0 (dataLen len (s.desc r).blockSize)) = none from hreg]
    rw [show (if toPool = true then (s.scratchBad (off.toNat + (s.yRead .l ya).toNat) (dataLen len (s.desc r).blockSize)).map (BitVec.ofNat 64) else none) = none from hpool]
    rw [show (s.desc r).positions (ceilDiv (dataLen len (s.desc r).blockSize) (s.desc r).blockSize) (s.desc r).at_ = some ps from hps]
    rw [show (none : Option Word64).orElse (fun _ => none) = none from rfl]
    dsimp only
    rw [show State.blocksHere _ _ _ = true from hh, Bool.not_true, cond_false]
    rw [show State.readBlocks _ _ _ _ _ = .ok bs from hb]
    cases toPool <;> rfl
  · exact ((((State.askBlocks_ls _ _ _).trans (State.fillFor_serves _ _ _).ls).trans (State.fetchCounts_serves _ _ _).ls).trans (State.setDesc_ls _ _ _)).trans
      ((State.vldPut_ls _ _ _ _ _ _).trans (State.count_serves _ _ _).ls) |>.same

/-- What a wload leaves of the shadow plane, the format of its part and a demand that waits for it (R140, R227, R228). -/
def State.wloadPut (b : State) (first : Prop) [Decidable first] (held : Bool) (r : SReg) (kw : Nat) (p : Plane) : State :=
  let b := { b with core := { b.core with arr := { b.core.arr with shadow := p } } }
  let b := if first then b.setTen { b.core.ten with kw := vset b.core.ten.kw r.toNat (some kw) } else b
  if first ∧ held = true then b.setTen { b.core.ten with committed := true } else b
theorem State.wloadPut_ls (b : State) (first : Prop) [Decidable first] (held : Bool) (r : SReg) (kw : Nat) (p : Plane) :
    b.LsSame (b.wloadPut first held r kw p) := by
  unfold State.wloadPut
  dsimp only
  split <;> split <;> exact ⟨rfl, rfl⟩
/-- The demand that a wload consults is the one held before. -/
theorem State.wloadPut_eq (b : State) (first : Prop) [Decidable first] (r : SReg) (kw : Nat) (p : Plane) {f : Bool} {ten : Tension} (hf : f = decide first)
    (h : b.core.ten = ten) :
    (let b := { b with core := { b.core with arr := { b.core.arr with shadow := p } } }
     let b := bif f then b.setTen { b.core.ten with kw := vset b.core.ten.kw r.toNat (some kw) } else b
     bif f && (match b.core.ten.held with | some h => h.stationary r | none => false) then b.setTen { b.core.ten with committed := true } else b) =
      b.wloadPut first (ten.held.elim false fun h => h.stationary r) r kw p := by
  subst h hf
  by_cases hp : first
  · dsimp only [State.wloadPut, State.setTen]
    rw [if_pos hp, decide_eq_true hp]
    cases b.core.ten.held with
    | none => simp [hp]
    | some x => cases hx : x.stationary r <;> simp [hp, hx]
  · dsimp only [State.wloadPut]
    rw [if_neg hp, decide_eq_false hp, if_neg fun h => hp h.1]
    rfl

end

section
variable {s : State} {tok : Tokens} {mk : BitVec 2} {vr : BitVec 5} {r : SReg} {ya : YReg} {fmt : BitVec 4} {len : BitVec 11} {off : BitVec 21}

theorem wload_moves {part : BitVec 2} {rows : BitVec 11} {row : BitVec 7} {ps : List Nat} {bs : List Block_} :
    let d := s.desc r
    let p := s.core.arr.shadow
    let n := wloadRows rows
    let r0 := row.toNat + (s.yRead .l ya).toNat
    let a := (fresh s .l).askBlocks r n
    let d' := a.desc r
    let es := d'.carried ps
    let w := a.fillFor d' es
    d.active = true → d.out = false → r0 + n ≤ (if part.toNat < 2 then 128 else 4) → wloadFits d p part.toNat fmt.toNat = true →
    (part = 0 → p.kwSet = true → p.kw.toNat = d.kwOf) → d.positions n d.at_ = some ps → a.blocksHere r n = true →
    a.shadowBusy = false → w.readBlocks d' ps d'.ahead [] = .ok bs →
      let q := if part = 0 then { p with kw := BitVec.ofNat 4 d'.kwOf, kwSet := true } else p
      LsMoves (.wload tok mk r ya fmt part rows row) s
        ((((w.fetchCounts d' (d'.missing n)).setDesc r (d'.popped n es.length)).wloadPut (part = 0 ∧ p.kwSet = false)
          (s.core.ten.held.elim false fun h => h.stationary r) r d'.kwOf
          ((List.range n).foldl (fun p j => p.row part.toNat (r0 + j) (bs.getD j (0, [], [])).2.1) q)).count 0x0a n) .l ya tok mk.toNat true := by
  intro d p n r0 a d' es w ha ho hr hf hk hps hh hbusy hb q
  have hkw : (part == 0 && p.kwSet && p.kw.toNat != d.kwOf) = false := by
    rw [Bool.eq_false_iff]
    intro h
    simp only [Bool.and_eq_true, beq_iff_eq, bne_iff_ne] at h
    exact h.2 (hk h.1.1 h.1.2)
  have hbad : (d.misused false || decide ((if part.toNat < 2 then 128 else 4) < r0 + n) || !wloadFits d p part.toNat fmt.toNat ||
      (part == 0 && p.kwSet && p.kw.toNat != d.kwOf)) = false := by
    rw [Desc.not_misused ha ho, decide_eq_false (Nat.not_lt.mpr hr), hf, hkw]
    rfl
  have hfirst : (part == 0 && !s.core.arr.shadow.kwSet) = decide (part = 0 ∧ s.core.arr.shadow.kwSet = false) := by
    rw [Bool.decide_and]
    cases s.core.arr.shadow.kwSet <;> rfl
  have hpart (x y : Plane) : (bif part == 0 then x else y) = if part = 0 then x else y := by by_cases h : part = 0 <;> simp [h]
  have hask := State.askBlocks_ls (fresh s .l) r n
  have hput : (fresh s .l).LsKept ((w.fetchCounts d' (d'.missing n)).setDesc r (d'.popped n es.length)) :=
    ((hask.trans (State.fillFor_serves _ _ _).ls).trans (State.fetchCounts_serves _ _ _).ls).trans (State.setDesc_ls _ _ _)
  have hw := hask.trans (State.fillFor_serves a d' es).ls
  refine lsMoves_of_word (hx := rfl) ?_ (hput.same.trans ((State.wloadPut_ls _ _ _ _ _ _).trans (State.count_serves _ _ _).ls.same))
  dsimp only
  rw [fresh_desc, fresh_yRead, show (fresh s .l).core.arr = s.core.arr from rfl]
  rw [show ((s.desc r).misused false || _ || _ || _) = false from hbad, cond_false]
  rw [show (s.desc r).positions (wloadRows rows) (s.desc r).at_ = some ps from hps]
  dsimp only
  rw [show State.blocksHere _ _ _ = true from hh, show State.shadowBusy _ = false from hbusy]
  rw [Bool.not_true, Bool.or_false, cond_false, show State.readBlocks _ _ _ _ _ = .ok bs from hb]
  dsimp only
  rw [show Core.arr _ = s.core.arr from hw.2.2.1, hpart]
  dsimp only [w, es, d', a, n, p, q, r0] at hput ⊢
  generalize State.setDesc (State.fetchCounts _ _ _) _ _ = x at hput ⊢
  exact congrArg (fun b => LSAct.go (State.count b 0x0a _) none) (State.wloadPut_eq x _ r _ _ hfirst hput.2.2.2)

end

/-! ### S's pushes (R142 to R145) -/

section
variable (s : State)

theorem State.pushElem_serves (d : Desc) (e v : Nat) : s.Serves (s.pushElem d e v) := .cond (s.storeCells_serves _ _ _) (s.storeCells_serves _ _ _)
theorem State.pushAll_ls (r : SReg) (es : List (Nat × Nat)) (v : Nat → Nat) : s.LsKept (s.pushAll r es v) := by
  unfold State.pushAll
  dsimp only
  have h (x : State) : x.Serves (es.foldl (fun x e => x.pushElem (s.desc r) e.1 (v e.2)) x) := by
    refine State.Serves.foldl (f := fun x (e : Nat × Nat) => x.pushElem (s.desc r) e.1 (v e.2)) ?_ es x
    intro x e
    exact x.pushElem_serves (s.desc r) e.1 (v e.2)
  refine State.LsKept.trans ?_ (State.count_serves _ _ _).ls
  refine State.LsKept.trans ?_ (State.setDesc_ls _ r _)
  exact (((s.l2Hits_serves _).trans (h _)).trans (State.coverAt_serves _ _ _)).ls
theorem State.contribute_serves (pa : Nat) (va : Word64) (op : RedOp) (fmt : BitVec 4) (b : Word32) (need : Nat) : s.Serves (s.contribute pa va op fmt b need) :=
  .of_eq rfl rfl
theorem State.redElem_ls (d : Desc) (op : RedOp) (e v : Nat) : s.LsKept (s.redElem d op e v) :=
  .cond (s.contribute_serves _ _ _ _ _ _).ls
    ((((s.l2Hits_serves _).trans (State.storeCells_serves _ _ _ _)).trans (State.coverAt_serves _ _ _)).ls.trans (State.fpCount_ls _ _))

end

theorem State.Serves.desc {s t : State} (h : s.Serves t) (r : SReg) : t.desc r = s.desc r := by
  obtain ⟨⟨_, _, _, _, _, _, _, _, e⟩, -⟩ := h
  rw [State.desc, e]
  rfl

/-- A push whose source and elements check does its act on them (R143 to R145). -/
theorem State.pushWord_go {s : State} {i : Instr} {vr : BitVec 5} {r : SReg} {at_ : Nat} {fmt : BitVec 4} {len : BitVec 11} {need : Need} {bad : Bool}
    {more : State → Desc → List Nat → List (XFail × Nat × Bool × Word64)} {f : State → List (Nat × Nat) → List Byte → LSAct} {es : List (Nat × Nat)}
    (h : PushSource s vr r at_ fmt len need es) (hb : bad = false) (hm : more (s.fillFor (s.desc r) (es.map (·.1))) (s.desc r) (es.map (·.1)) = []) :
    let n := srcBytes (s.desc r) fmt.toNat len
    let w := s.fillFor (s.desc r) (es.map (·.1))
    s.pushWord i vr r at_ fmt.toNat len need bad more f =
      f (w.fallCount (w.poolAt vr at_) (if vr = 31 then n else 0)) es (w.poolBytes (w.poolAt vr at_) n) := by
  obtain ⟨ha, ho, hv, hp, he, hes, x, hc⟩ := h
  have hfmt : (vr != 31 && fmt.toNat != s.core.v.shape.fmt.toNat) = false := by
    rcases hv with hv | hv
    · rw [hv]; rfl
    · rw [hv, bne_self_eq_false, Bool.and_false]
  have hn (n : Nat) : (bif vr == 31 then n else 0) = if vr = 31 then n else 0 := by by_cases h : vr = 31 <;> simp [h]
  unfold State.pushWord
  dsimp only
  rw [Desc.not_misused ha ho, hb, hfmt, Bool.or_self, Bool.or_false, cond_false, hp, hes, he]
  dsimp only
  rw [hc, hm, hn]

section
variable {s : State} {tok : Tokens} {mk : BitVec 2} {vr : BitVec 5} {r : SReg} {ya : YReg} {fmt : BitVec 4} {len : BitVec 11} {off : BitVec 21}

theorem pst_moves (hsc : s.scratchBad (off.toNat + (s.yRead .s ya).toNat) (dataLen len s.vcap) = none)
    (hp : s.poolCause vr 0 (dataLen len s.vcap) = none) (he : s.poolErr (s.vrOff vr) (dataLen len s.vcap) = none) :
    LsMoves (.pst tok mk vr ya len off) s
      (((fresh s .s).poolWrite (off.toNat + (s.yRead .s ya).toNat) ((fresh s .s).poolBytes ((fresh s .s).vrOff vr) (dataLen len s.vcap))).fallCount
        (off.toNat + (s.yRead .s ya).toNat) (dataLen len s.vcap)) .s ya tok mk.toNat false := by
  refine lsMoves_of_word (hx := rfl) ?_ ((State.poolWrite_ls _ _ _).trans (State.fallCount_serves _ _ _).ls).same
  dsimp only
  rw [dataLen_eq, fresh_vcap, fresh_yRead, fresh_scratchBad, fresh_poolCause, fresh_poolErr, fresh_vrOff, hsc, hp, he]

theorem vst_moves {rm : BitVec 2} {es : List (Nat × Nat)} :
    let u := fresh s .s
    let at_ := off.toNat + (s.yRead .s ya).toNat
    let d := s.desc r
    let w := u.fillFor d (es.map (·.1))
    let src := w.poolBytes (w.poolAt vr at_) (srcBytes d fmt.toNat len)
    let conv := fun e => convert fmt.toNat (srcElem fmt.toNat src e) d.fmt (Rm.of rm)
    let v := w.fallCount (w.poolAt vr at_) (if vr = 31 then srcBytes d fmt.toNat len else 0)
    PushSource u vr r at_ fmt len .wr es →
      LsMoves (.vst tok mk vr r ya fmt rm len off) s ((v.pushAll r es fun e => (conv e).bits).fpCount (es.flatMap fun x => (conv x.2).ev)) .s ya tok mk.toNat false := by
  intro u at_ d w src conv v h
  have hv : u.Serves v := (u.fillFor_serves d _).trans (State.fallCount_serves _ _ _)
  refine lsMoves_of_word (hx := rfl) ?_ (hv.ls.trans ((State.pushAll_ls _ _ _ _).trans (State.fpCount_ls _ _))).same
  dsimp only
  rw [fresh_yRead, State.pushWord_go h rfl rfl]
  rw [show u.desc r = d from fresh_desc s .s r]
  rw [show State.desc (State.fallCount _ _ _) r = d from hv.desc r]

theorem State.vred_moves {i : Instr} {op : RedOp} {es : List (Nat × Nat)} (hx : exec i s = s.vred i op tok mk vr r ya fmt len off) :
    let u := fresh s .s
    let at_ := off.toNat + (s.yRead .s ya).toNat
    let d := s.desc r
    let w := u.fillFor d (es.map (·.1))
    let src := w.poolBytes (w.poolAt vr at_) (srcBytes d fmt.toNat len)
    let conv := fun e => convert fmt.toNat (srcElem fmt.toNat src e) d.fmt .rne
    let v := w.fallCount (w.poolAt vr at_) (if vr = 31 then srcBytes d fmt.toNat len else 0)
    PushSource u vr r at_ fmt len .rdwr es → d.fmt ∈ [0, 1, 3] → w.redBad d (es.map (·.1)) = [] →
    (es.any fun x => v.inWindow (d.elemVa x.1) && v.vcStopped 2 ((v.elemPas d x.1).headD 0)) = false →
      let b := es.foldl (fun b x => (b.redElem d op x.1 (conv x.2).bits).fpCount (conv x.2).ev) v
      LsMoves i s ((b.setDesc r { b.desc r with pos := BitVec.ofNat 64 ((d.at_ + es.length) % 2 ^ 48) }).count 0x0a (ceilDiv es.length (d.br * d.bc)))
        .s ya tok mk.toNat false := by
  intro u at_ d w src conv v h hf hred hvc b
  have hv : u.Serves v := (u.fillFor_serves d _).trans (State.fallCount_serves _ _ _)
  have hb : v.LsKept b := by
    refine State.LsKept.foldl (f := fun b (x : Nat × Nat) => (b.redElem d op x.1 (conv x.2).bits).fpCount (conv x.2).ev) ?_ es v
    intro x e
    exact (x.redElem_ls d op e.1 (conv e.2).bits).trans (State.fpCount_ls _ _)
  have hbad : (d.fmt != 0 && d.fmt != 1 && d.fmt != 3) = false := by
    simp only [List.mem_cons, List.not_mem_nil, or_false] at hf
    rcases hf with hf | hf | hf <;> rw [hf] <;> rfl
  refine lsMoves_of_word (hx := hx) ?_ (((hv.ls.trans hb).trans (State.setDesc_ls _ _ _)).trans (State.count_serves _ _ _).ls).same
  dsimp only
  rw [fresh_yRead, fresh_desc, State.pushWord_go h hbad hred]
  rw [show u.desc r = d from fresh_desc s .s r]
  rw [show State.desc (State.fallCount _ _ _) r = d from hv.desc r]
  rw [show List.any es _ = false from hvc, cond_false]

end

end Sys2Proof.Machine

open Sys2Proof Sys2Proof.Machine

/-- Settles O20: each word, its checks passed, moves what it reads at its issue. -/
theorem loadDataWordsMoveTheirData : Obligations.LoadDataWordsMoveTheirData := by
  intro tok mk vr r ya fmt len off s u at_ d
  refine ⟨pld_moves, fun _ ps bs => vld_moves, fun part rows row ps bs => ?_⟩
  intro p n r0 a d' es w ha ho hr hf hk hps hh hbusy hb first q q' b b1 b2 b3
  show Sys2Proof.Claims.LsMoves _ _ (State.count (b.wloadPut first _ r d'.kwOf q') _ _) _ _ _ _ _
  exact wload_moves ha ho hr hf hk hps hh hbusy hb

/-- Settles O21: each word, its source and its elements checked, moves or posts what it reads at its issue. -/
theorem storeDataWordsMoveTheirData : Obligations.StoreDataWordsMoveTheirData := by
  intro tok mk vr r ya fmt len off s u at_ d
  refine ⟨pst_moves, fun rm es => vst_moves, fun es h hf => ?_⟩
  intro w src conv v hred hvc posted
  exact ⟨State.vred_moves rfl h hf hred hvc, State.vred_moves rfl h hf hred hvc, State.vred_moves rfl h hf hred hvc⟩
end

section
/-! The step of a strand's issue (R45, R46, R119): which instruction comes to issue. -/

namespace Sys2Proof.Machine

open Sys2Proof.Claims

/-! ### What trap state has no part in

A page brought into the TLB neither reads nor changes the trap state. -/

section
variable (s : State) (x : Trap)

theorem setTrap_cond (b : Bool) (p q : State) : (bif b then p.setTrap x else q.setTrap x) = (bif b then p else q).setTrap x := by cases b <;> rfl
theorem foldl_setTrap {α : Type} {f : State → α → State} (h : ∀ (s : State) (a : α), f (s.setTrap x) a = (f s a).setTrap x) (l : List α) (s : State) :
    l.foldl f (s.setTrap x) = (l.foldl f s).setTrap x := by
  induction l generalizing s with
  | nil => rfl
  | cons a l ih => rw [List.foldl_cons, List.foldl_cons, h, ih]

theorem State.mscDrop_setTrap (line : Nat) : (s.setTrap x).mscDrop line = (s.mscDrop line).setTrap x := by
  unfold State.mscDrop
  rw [State.setTrap_mem]
  cases s.mem.msc.find? fun y => y.line == line with
  | none => rfl
  | some y =>
    dsimp only
    cases y.dirty <;> rfl
theorem State.mscPut_setTrap (line : Nat) (dirty mru : Bool) : (s.setTrap x).mscPut line dirty mru = (s.mscPut line dirty mru).setTrap x := by
  unfold State.mscPut
  rw [State.setTrap_mem]
  dsimp only
  cases (s.mem.msc.filter fun y => mscSame y.line line).getLast? with
  | none => rfl
  | some y =>
    dsimp only
    rw [State.mscDrop_setTrap, setTrap_cond]
    rfl
theorem State.mscAccess_setTrap (line : Nat) (p : Option (BitVec 3)) (w : Bool) : (s.setTrap x).mscAccess line p w = (s.mscAccess line p w).setTrap x := by
  unfold State.mscAccess
  rw [State.setTrap_mem]
  cases s.mem.msc.find? fun y => y.line == line with
  | none =>
    exact State.mscPut_setTrap
      ((s.stackUpd (bits (line * 128) 39 36) fun _ => ((vget s.pkg.hbm (bits (line * 128) 39 36) Stack.reset).insertAt (mscSet (line * 128)) p).1).activate (line * 128))
      x _ _ _
  | some y => rfl
theorem State.mscBack_setTrap (line : Nat) : (s.setTrap x).mscBack line = (s.mscBack line).setTrap x := by
  unfold State.mscBack
  rw [State.setTrap_mem, show (s.setTrap x).ownerOf (line * 128) = s.ownerOf (line * 128) from rfl]
  cases s.mem.msc.find? fun y => y.line == line with
  | some y => exact s.mscAccess_setTrap x _ _ _
  | none =>
    cases s.ownerOf (line * 128) with
    | none => exact s.mscPut_setTrap x _ _ _
    | some p =>
      exact State.mscPut_setTrap
        (s.stackUpd (bits (line * 128) 39 36) fun _ => ((vget s.pkg.hbm (bits (line * 128) 39 36) Stack.reset).placeAt (mscSet (line * 128)) p).1) x _ _ _
theorem State.l2Out_setTrap (y : L2Line) : (s.setTrap x).l2Out y = (s.l2Out y).setTrap x := by
  unfold State.l2Out
  dsimp only
  cases y.dirty with
  | false => rfl
  | true =>
    let u := s.setMem { s.mem with l2 := s.mem.l2.filter fun z => z.line != y.line }
    let v := u.setC { u.core.c with watch := watchEvicted u.core.c.watch y.line }
    exact State.mscBack_setTrap (v.setMem { v.mem with stale := v.mem.stale.filter fun c => lineOf c.1 != y.line }) x y.line
theorem State.l2Leave_setTrap (line : Nat) : (s.setTrap x).l2Leave line = (s.l2Leave line).setTrap x := by
  unfold State.l2Leave
  rw [State.setTrap_mem]
  cases s.mem.l2.find? fun y => y.line == line with
  | none => rfl
  | some y => exact s.l2Out_setTrap x y
theorem State.orderAt_setTrap (ag : Nat) (w : Bool) (pa : Nat) : (s.setTrap x).orderAt ag w pa = (s.orderAt ag w pa).setTrap x := by
  unfold State.orderAt
  rw [State.setTrap_mem, show (s.setTrap x).ownerOf pa = s.ownerOf pa from rfl]
  cases s.mem.order with
  | none => rfl
  | some b =>
    cases s.ownerOf pa with
    | none => rfl
    | some p =>
      dsimp only
      rw [State.setTrap_part]
      cases (s.part p).repMode == 0 <;> rfl
theorem State.granulePut_setTrap (g : Granule) : (s.setTrap x).granulePut g = (s.granulePut g).setTrap x := by
  unfold State.granulePut
  rw [State.orderAt_setTrap]
  rfl
theorem State.rmwFirst_setTrap (pas : List Nat) : (s.setTrap x).rmwFirst pas = (s.rmwFirst pas).setTrap x := by
  unfold State.rmwFirst
  dsimp only
  rw [State.setTrap_nb, show (s.setTrap x).norm = s.norm from rfl]
  generalize rmwSplit _ s.core.nb.writes = r
  rw [show List.foldl State.granulePut ((s.setTrap x).setNb { s.core.nb with writes := r.2 }) r.1 = _ from
    foldl_setTrap x (fun s g => s.granulePut_setTrap x g) r.1 (s.setNb { s.core.nb with writes := r.2 })]
  exact setTrap_cond x _ _ _
theorem State.memWrite_setTrap (cs : List Host.Cell) (o : Owner) (dev whole : Bool) : (s.setTrap x).memWrite cs o dev whole = (s.memWrite cs o dev whole).setTrap x := by
  unfold State.memWrite
  rw [State.rmwFirst_setTrap]
  rfl
theorem State.atMsc_setTrap (pas : List Nat) : (s.setTrap x).atMsc pas = (s.atMsc pas).setTrap x := by
  refine foldl_setTrap x (fun s l => ?_) _ (s.watchWrites pas)
  rw [State.l2Leave_setTrap, State.mscAccess_setTrap]
  exact setTrap_cond x _ ((s.l2Leave l).mscAccess l (s.ownerOf (l * 128)) true) s
theorem State.unitWrite_setTrap (cs : List Host.Cell) : (s.setTrap x).unitWrite cs = (s.unitWrite cs).setTrap x := by
  unfold State.unitWrite
  rw [State.atMsc_setTrap, State.memWrite_setTrap]
theorem State.msiRaw_setTrap (p : BitVec 3) (v : BitVec 2) (n c : Nat) : (s.setTrap x).msiRaw p v n c = (s.msiRaw p v n c).setTrap x := by
  unfold State.msiRaw
  dsimp only
  rw [State.setTrap_dbg]
  cases s.core.dbg.traceIrq == some p <;> rfl
theorem State.record_setTrap (p : BitVec 3) (t : Nat) (c : Word32) (k a d : Word64) : (s.setTrap x).record p t c k a d = (s.record p t c k a d).setTrap x := by
  have hfull (y : Part) : ((s.setTrap x).setPart p y).msiRaw p 0 3 2 = ((s.setPart p y).msiRaw p 0 3 2).setTrap x := (s.setPart p y).msiRaw_setTrap x p 0 3 2
  have hpa (va : Word64) : (s.setTrap x).ctxPa p 0 va = s.ctxPa p 0 va := rfl
  unfold State.record
  dsimp only
  rw [State.setTrap_part, hfull, hpa]
  cases (s.part p).repMode != 1 || (s.part p).repFull with
  | true => rfl
  | false =>
    cases decide (2 ^ ((s.part p).repLog.toNat + 16) < ((s.part p).repPos.toNat + 1) * 32) with
    | true => rfl
    | false =>
      dsimp only [cond_false]
      cases s.ctxPa p 0 ((s.part p).repBase + BitVec.ofNat 64 (32 * (s.part p).repPos.toNat)) with
      | none => rfl
      | some pa =>
        dsimp only
        rw [State.unitWrite_setTrap]
        generalize s.unitWrite _ = u
        rfl
theorem State.msi_setTrap (p : BitVec 3) (v : BitVec 2) (n c : Nat) : (s.setTrap x).msi p v n c = (s.msi p v n c).setTrap x := by
  unfold State.msi
  rw [State.msiRaw_setTrap, show (s.setTrap x).tstamp = s.tstamp from rfl, State.record_setTrap, State.setTrap_part]
  cases (s.part p).repMode == 2 <;> rfl
theorem State.count_setTrap (ev : BitVec 8) (n : Nat) : (s.setTrap x).count ev n = (s.count ev n).setTrap x := by
  refine foldl_setTrap x (fun s i => ?_) _ { s with core := { s.core with perf := (s.core.perf.add ev n).1, units := unitCount s.core.units ev n } }
  rw [State.msi_setTrap]
  exact setTrap_cond x _ _ _
theorem State.l2Count_setTrap (o : Owner) (ev : BitVec 8) : (s.setTrap x).l2Count o ev = (s.l2Count o ev).setTrap x := by
  unfold State.l2Count
  cases o with
  | none => rfl
  | some o =>
    dsimp only
    rw [State.count_setTrap, State.setTrap_ctx]
    cases o.1 != s.core.ctx.part
    · cases o.2 == s.core.ctx.vf <;> rfl
    · rfl
theorem State.l2Evict_setTrap (y : L2Line) (mine : Bool) : (s.setTrap x).l2Evict y mine = (s.l2Evict y mine).setTrap x := by
  unfold State.l2Evict
  dsimp only
  rw [State.l2Out_setTrap, State.l2Count_setTrap]
  exact setTrap_cond x _ _ _
theorem State.l2Alloc_setTrap (line : Nat) (p : Option (BitVec 3)) (mine : Bool) : (s.setTrap x).l2Alloc line p mine = (s.l2Alloc line p mine).setTrap x := by
  unfold State.l2Alloc
  dsimp only
  rw [show (s.setTrap x).pinnedWays = s.pinnedWays from rfl, show (s.setTrap x).othersWays = s.othersWays from rfl,
    show (s.setTrap x).l2Kept = s.l2Kept from rfl, State.setTrap_mem, foldl_setTrap x fun s l => s.l2Evict_setTrap x l mine]
  cases 16 - s.pinnedWays line - s.othersWays p == 0 <;> rfl
theorem State.l2Access_setTrap (pa : Nat) (p fill : Option (BitVec 3)) (mine : Bool) : (s.setTrap x).l2Access pa p fill mine = (s.l2Access pa p fill mine).setTrap x := by
  unfold State.l2Access
  dsimp only
  rw [State.mscAccess_setTrap, State.l2Alloc_setTrap, State.setTrap_mem, show (s.setTrap x).norm = s.norm from rfl,
    show (s.setTrap x).region = s.region from rfl, show (s.setTrap x).hostBias = s.hostBias from rfl]
  cases decide (s.region (s.norm pa) ≠ .hbm)
  · cases s.hostBias (s.norm pa)
    · cases s.mem.l2.find? fun y => y.line == lineOf (s.norm pa) with
      | none => rfl
      | some y =>
        cases mine
        · rfl
        · exact State.l2Count_setTrap (s.setMem { s.mem with l2 := y :: s.mem.l2.filter fun z => z.line != lineOf (s.norm pa) }) x y.owner 0x10
    · rfl
  · cases mine && bits (s.norm pa) 51 51 == 1 <;> rfl
theorem State.walkAccess_setTrap (p : BitVec 3) (v : BitVec 2) (va : Word64) : (s.setTrap x).walkAccess p v va = (s.walkAccess p v va).setTrap x := by
  refine foldl_setTrap x (fun s a => ?_) _ s
  rw [State.l2Access_setTrap]
  exact setTrap_cond x _ s _
theorem State.fillTlb_setTrap (p : BitVec 3) (v : BitVec 2) (va : Word64) : (s.setTrap x).fillTlb p v va = (s.fillTlb p v va).setTrap x := by
  unfold State.fillTlb
  rw [show (s.setTrap x).tlbFind p v va = s.tlbFind p v va from rfl, show (s.setTrap x).walk p v va true = s.walk p v va true from rfl, State.walkAccess_setTrap]
  cases s.tlbFind p v va with
  | some e => rfl
  | none =>
    dsimp only
    cases !canonical va
    · rcases s.walk p v va true with ⟨w, path⟩
      cases w <;> rfl
    · rfl

end

/-! ### What comes to issue -/

section
variable {s b b0 : State} {k : Strand} {i : Instr}

/-- What a strand fetches does not depend on whether it has looked. -/
theorem State.fetch_looks (s : State) (k : Strand) : (s.looks k).fetch k = ((s.fetch k).1.looks k, (s.fetch k).2) := by
  have hfill (va : Word64) : (s.looks k).fetchFill k va = (s.fetchFill k va).looks k := by
    obtain ⟨⟨_, _, _, _, _, _, _, _, e⟩, -⟩ := s.fillTlb_serves (s.fetchWho k).part (s.fetchWho k).vf va
    have ht : (s.fetchFill k va).core.trap = s.core.trap := (congrArg Core.trap e :)
    rw [State.looks, State.looks, ht]
    cases k <;> exact s.fillTlb_setTrap _ _ _ va
  have hheld : (s.looks k).heldOf k = s.heldOf k := by cases k <;> rfl
  have hpc : (s.looks k).pcOf k = s.pcOf k := by cases k <;> rfl
  unfold State.fetch
  rw [hheld, hpc]
  dsimp only
  cases (s.heldOf k).find? fun h => h.1 == s.pcOf k with
  | some h => rfl
  | none =>
    dsimp only
    rw [hfill]
    generalize s.fetchFill k (s.pcOf k) = u
    have hx : (u.looks k).xlate ((u.looks k).fetchWho k) (s.pcOf k) .ex = u.xlate (u.fetchWho k) (s.pcOf k) .ex := by cases k <;> rfl
    rw [hx]
    cases u.xlate (u.fetchWho k) (s.pcOf k) .ex with
    | error e => cases e <;> rfl
    | ok pa =>
      dsimp only
      rw [show (u.looks k).waitsAt true pa = u.waitsAt true pa from rfl, show (u.looks k).rdBytes = u.rdBytes from rfl]
      cases u.waitsAt true pa
      · cases k <;> rfl
      · rfl

/-- A turn of the rotation brings to issue what the strand fetches. -/
theorem pickOf_of_waitsFor (hp : b0.permitted = true) (hstop : b0.core.dbg.stopped = false)
    (h : match k with
      | .c => b0.core.trap.wait = none ∧ (b0.asyncNow = false ∨ b0.core.trap.pend = 0) ∧ (b0.stepOn = true ∨ b0.sup = true) ∧ b0.dogFull = false ∧
          b0.core.c.run = .ready
      | .l => b0.stepOn = true ∧ b0.heldBack .l = false ∧ b0.core.l.ended = false ∧ (∀ r rest, b0.core.l.pend = r :: rest → r.data = false)
      | .s => b0.stepOn = true ∧ b0.heldBack .s = false ∧ b0.core.s.ended = false ∧ (∀ r rest, b0.core.s.pend = r :: rest → r.data = false)
      | .v => b0.stepOn = true ∧ b0.heldBack .v = false ∧ b0.core.v.ended = false ∧ b0.core.v.stretch = none ∧ b0.core.v.drain = false ∧
          b0.core.v.halted = false) : b0.pickOf k = b0.fetch k := by
  have hnext (k : Strand) : b0.nextUnit k = b0.fetch k := by rw [State.nextUnit, hp, cond_true]
  have hls (k : LS) (hs : b0.stepOn = true) (hh : b0.heldBack (lsStrand k) = false) (he : (b0.ls k).ended = false)
      (hd : ∀ r rest, (b0.ls k).pend = r :: rest → r.data = false) : b0.pickLS k = b0.fetch (lsStrand k) := by
    unfold State.pickLS
    dsimp only
    rw [hs, hstop, hh, he, hnext]
    cases hq : (b0.ls k).pend with
    | nil => rfl
    | cons r rest =>
      dsimp only
      rw [hd r rest hq]
      rfl
  cases k with
  | c =>
    obtain ⟨hw, ha, hs, hdog, hr⟩ := h
    have hpend : (b0.asyncNow && b0.core.trap.pend != 0) = false := by
      rcases ha with ha | ha
      · rw [ha, Bool.false_and]
      · rw [ha, bne_self_eq_false, Bool.and_false]
    have hon : (!b0.stepOn && !b0.sup) = false := by rcases hs with hs | hs <;> simp [hs]
    show b0.pickC = _
    unfold State.pickC
    rw [hstop, hw, hr]
    dsimp only [cond_false]
    rw [hpend, hon, hdog]
    exact hnext .c
  | l => exact hls .l h.1 h.2.1 h.2.2.1 h.2.2.2
  | s => exact hls .s h.1 h.2.1 h.2.2.1 h.2.2.2
  | v =>
    obtain ⟨hs, hh, he, hst, hd, hhalt⟩ := h
    show b0.pickV = _
    unfold State.pickV
    dsimp only
    rw [hstop, hs, he, hh, hp, hst, hd, hhalt]
    rfl

/-- A step at a strand's issue runs the unit that the strand fetches (R45, R46). -/
theorem step_of_fetch {t : State} (h : Issues s b k) (hf : b.fetch k = (t, some i)) : step s = turnOf (exec i t) := by
  obtain ⟨hp, ⟨rest, ha, hb, hm⟩ | ⟨⟨b0, hn, hb⟩, hstop, hc⟩⟩ := h
  · have hn : s.nextTurn = (b, .issue k) := by rw [State.nextTurn, ha, hb]
    have hpick : b.pick (.issue k) = (t, some i) := by
      show b.pickIssue k = _
      rw [State.pickIssue, hm, hp]
      exact hf
    rw [step, hn]
    dsimp only
    rw [hpick]
  · subst hb
    have hof : b0.pickOf k = b0.fetch k := pickOf_of_waitsFor hp hstop (by cases k <;> exact hc)
    rw [State.fetch_looks] at hf
    have hi : (b0.fetch k).2 = some i := congrArg Prod.snd hf
    have hpick : b0.pick (.strand k) = (t, some i) := by
      show b0.pickStrand k = _
      rw [State.pickStrand, hof, hi, Option.isSome_some, Bool.true_or, cond_true]
      exact hi ▸ hf
    rw [step, hn]
    dsimp only
    rw [hpick]

theorem unitInstr_of_decode {bytes : List Byte} (hd : decode (unitOf k bytes) = .ok i) : unitInstr k bytes = i := by rw [unitInstr, hd]

end

end Sys2Proof.Machine

open Sys2Proof Sys2Proof.Machine

/-- Settles O55: the turn brings to issue what the strand fetches, which its having looked has no part in. -/
theorem stepRunsTheDecodedInstruction : Obligations.StepRunsTheDecodedInstruction := by
  intro s b k i hi
  refine ⟨fun bytes hh hd => step_of_fetch hi ?_, fun pa hh => ?_⟩
  · rw [State.fetch, hh]
    dsimp only
    rw [unitInstr_of_decode hd]
  · intro u bytes hx hw hd
    refine step_of_fetch hi ?_
    rw [State.fetch, hh]
    dsimp only
    rw [show (b.fetchFill k (b.pcOf k)).xlate ((b.fetchFill k (b.pcOf k)).fetchWho k) (b.pcOf k) .ex = .ok pa from hx]
    dsimp only
    rw [show (b.fetchFill k (b.pcOf k)).waitsAt true pa = false from hw, cond_false, unitInstr_of_decode hd]
    cases k <;> rfl
end

section
/-! Memory's canonical form (R2, R324; log 8, DESIGN CHOICE) and what keeps it: the operations of the machine, in the order of their definitions. -/

namespace Sys2Proof.Machine

/-! ### How the form is shown -/

/-- What an instruction answers keeps the form. -/
def OutInv (o : Out) : Prop := ∀ t, o = .next t → t.Inv

section
variable {s t : State}

/-- Only the bytes of memory have a form. -/
theorem State.Inv.of_cells (h : s.Inv) {c : Core} {st : List (Nat × Stale)} {po hb : List Nat} {fl : List (Nat × Bool × Nat)} {l2 : List L2Line} {ms
    : List MscLine}
    {le : List Lease} {an : List (List Byte × Nat)} {od : Option OrderBook} {p : Pkg} {a w : List Turn} {r : Rota} {f ti : Nat} {rb : Bool} :
    (State.mk c ⟨s.mem.cells, st, po, hb, fl, l2, ms, le, an, od⟩ p a w r f ti rb).Inv := h
theorem State.Inv.of_mem (h : s.Inv) {c : Core} {p : Pkg} {a w : List Turn} {r : Rota} {f ti : Nat} {rb : Bool} :
    (State.mk c s.mem p a w r f ti rb).Inv :=
  h
theorem State.Inv.cond {b : Bool} {x y : State} (hx : x.Inv) (hy : y.Inv) : (bif b then x else y).Inv := by cases b <;> assumption
theorem State.Inv.ite {p : Prop} [Decidable p] {x y : State} (hx : x.Inv) (hy : y.Inv) : (if p then x else y).Inv := by split <;> assumption
theorem State.Inv.cond_fst {α : Type} {b : Bool} {x y : State × α} (hx : x.1.Inv) (hy : y.1.Inv) : (bif b then x else y).1.Inv :=
  by cases b <;> assumption
theorem State.Inv.ite_fst {α : Type} {p : Prop} [Decidable p] {x y : State × α} (hx : x.1.Inv) (hy : y.1.Inv) : (if p then x else y).1.Inv :=
  by split <;> assumption
theorem State.Inv.foldl {α : Type} {f : State → α → State} (hf : ∀ (x : State) (a : α), x.Inv → (f x a).Inv) (l : List α) {s : State} (h : s.Inv) :
    (l.foldl f s).Inv := by
  induction l generalizing s with
  | nil => exact h
  | cons a l ih => exact ih (hf s a h)
theorem State.Inv.next (h : t.Inv) : OutInv (.next t) := fun u e => by cases e; exact h
theorem outInv_fault (f : Fault) : OutInv (.fault f) := by intro t e; cases e
theorem outInv_refused (r : Refusal) : OutInv (.refused r) := by intro t e; cases e
theorem OutInv.cond {b : Bool} {x y : Out} (hx : OutInv x) (hy : OutInv y) : OutInv (bif b then x else y) := by cases b <;> assumption
theorem OutInv.ite {p : Prop} [Decidable p] {x y : Out} (hx : OutInv x) (hy : OutInv y) : OutInv (if p then x else y) := by split <;> assumption

end

/-! ### The operations on the state, the caches and the records -/

section
variable {s : State}

theorem State.Inv.setTrap (h : s.Inv) (t : Trap) : (s.setTrap t).Inv := h.of_mem
theorem State.Inv.setC (h : s.Inv) (c : CStrand) : (s.setC c).Inv := h.of_mem
theorem State.Inv.setV (h : s.Inv) (v : VStrand) : (s.setV v).Inv := h.of_mem
theorem State.Inv.setLS (h : s.Inv) (k : LS) (x : LSStrand) : (s.setLS k x).Inv := by
  unfold State.setLS
  split
  · exact h.of_mem
  · exact h.of_mem
theorem State.Inv.setQ (h : s.Inv) (q : Queues) : (s.setQ q).Inv := h.of_mem
theorem State.Inv.setCsr (h : s.Inv) (x : Csrs) : (s.setCsr x).Inv := h.of_mem
theorem State.Inv.setCtx (h : s.Inv) (x : StepCtx) : (s.setCtx x).Inv := h.of_mem
theorem State.Inv.setEng (h : s.Inv) (x : Engines) : (s.setEng x).Inv := h.of_mem
theorem State.Inv.setNb (h : s.Inv) (x : NearBank) : (s.setNb x).Inv := h.of_mem
theorem State.Inv.setTen (h : s.Inv) (x : Tension) : (s.setTen x).Inv := h.of_mem
theorem State.Inv.setDbg (h : s.Inv) (x : Debug) : (s.setDbg x).Inv := h.of_mem
theorem State.Inv.setPkg (h : s.Inv) (x : Pkg) : (s.setPkg x).Inv := h.of_mem
theorem State.Inv.setMem (h : s.Inv) {st : List (Nat × Stale)} {po hb : List Nat} {fl : List (Nat × Bool × Nat)} {l2 : List L2Line}
    {ms : List MscLine} {le : List Lease} {an : List (List Byte × Nat)} {od : Option OrderBook} :
    (s.setMem ⟨s.mem.cells, st, po, hb, fl, l2, ms, le, an, od⟩).Inv := h
theorem State.Inv.setDesc (h : s.Inv) (r : SReg) (d : Desc) : (s.setDesc r d).Inv := h.of_mem
theorem State.Inv.setPart (h : s.Inv) (p : BitVec 3) (x : Part) : (s.setPart p x).Inv := h.of_mem
theorem State.Inv.show (h : s.Inv) (l : List Nat) : (s.show l).Inv := h.setDbg _
theorem State.Inv.reqOver (h : s.Inv) : (s.reqOver).Inv := h.setPkg _
theorem State.Inv.stackUpd (h : s.Inv) (i : Nat) (f : Stack → Stack) : (s.stackUpd i f).Inv := h.setPkg _
theorem State.Inv.activate (h : s.Inv) (pa : Nat) : (s.activate pa).Inv := h.stackUpd _ _
theorem State.Inv.mscDrop (h : s.Inv) (line : Nat) : (s.mscDrop line).Inv := by
  unfold State.mscDrop
  dsimp only
  split
  · exact State.Inv.cond (h.setMem.activate _) h.setMem
  · exact h
theorem State.Inv.mscPut (h : s.Inv) (line : Nat) (dirty mru : Bool) : (s.mscPut line dirty mru).Inv := (s.mscPut_near line dirty mru).wf h
theorem State.Inv.mscAccess (h : s.Inv) (line : Nat) (part : Option (BitVec 3)) (write : Bool) : (s.mscAccess line part write).Inv := by
  unfold State.mscAccess
  dsimp only
  split
  · exact h.setMem
  · exact ((h.stackUpd _ _).activate _).mscPut _ _ _
theorem State.Inv.mscBack (h : s.Inv) (line : Nat) : (s.mscBack line).Inv := by
  unfold State.mscBack
  dsimp only
  split
  · exact h.mscAccess _ _ _
  · split
    · exact (h.stackUpd _ _).mscPut _ _ _
    · exact h.mscPut _ _ _
theorem State.Inv.l2Out (h : s.Inv) (x : L2Line) : (s.l2Out x).Inv :=
  State.Inv.cond (h.setMem.setC _) (((h.setMem.setC _).setMem).mscBack _)
theorem State.Inv.l2Leave (h : s.Inv) (line : Nat) : (s.l2Leave line).Inv := by
  unfold State.l2Leave
  split
  · exact h.l2Out _
  · exact h
theorem State.Inv.orderAt (h : s.Inv) (ag : Nat) (w : Bool) (pa : Nat) : (s.orderAt ag w pa).Inv := (State.orderAt_serves s ag w pa).2 h
theorem State.Inv.orderLines (h : s.Inv) (ag : Nat) (w : Bool) (pas : List Nat) : (s.orderLines ag w pas).Inv :=
  (State.orderLines_serves s ag w pas).2 h
theorem State.Inv.granulePut (h : s.Inv) (g : Granule) : (s.granulePut g).Inv := (State.granulePut_serves s g).2 h
theorem State.Inv.rmwFirst (h : s.Inv) (pas : List Nat) : (s.rmwFirst pas).Inv := (State.rmwFirst_serves s pas).2 h
theorem State.Inv.memWrite (h : s.Inv) (cs : List Host.Cell) (o : Owner) (dev whole : Bool) : (s.memWrite cs o dev whole).Inv :=
  (State.memWrite_serves s cs o dev whole).2 h
theorem State.Inv.unitWrite (h : s.Inv) (cs : List Host.Cell) : (s.unitWrite cs).Inv := (State.unitWrite_serves s cs).2 h
theorem State.Inv.owe (h : s.Inv) (p : BitVec 3) (q : Option (BitVec 6)) : (s.owe p q).Inv := State.Inv.cond h (h.setPkg _)
theorem State.Inv.msiRaw (h : s.Inv) (p : BitVec 3) (v : BitVec 2) (vec cause : Nat) : (s.msiRaw p v vec cause).Inv :=
  (State.msiRaw_serves s p v vec cause).2 h
theorem State.Inv.record (h : s.Inv) (p : BitVec 3) (type : Nat) (core : Word32) (key addr data : Word64) :
    (s.record p type core key addr data).Inv :=
  (State.record_serves s p type core key addr data).2 h
theorem State.Inv.msi (h : s.Inv) (p : BitVec 3) (v : BitVec 2) (vec cause : Nat) : (s.msi p v vec cause).Inv :=
  (State.msi_serves s p v vec cause).2 h
theorem State.Inv.swTrace (h : s.Inv) (p : BitVec 3) (what : String) (args : List Nat) : (s.swTrace p what args).Inv := by
  unfold State.swTrace
  split
  · exact State.Inv.cond (h.setDbg _) h
  · exact h
theorem State.Inv.ovfInts (h : s.Inv) (p : BitVec 3) (v : BitVec 2) (csel : Vector (BitVec 10) 32) (wraps : List Nat) :
    (s.ovfInts p v csel wraps).Inv :=
  (State.ovfInts_serves s p v csel wraps).2 h
theorem State.Inv.count (h : s.Inv) (ev : BitVec 8) (n : Nat) : (s.count ev n).Inv := (State.count_serves s ev n).2 h
theorem State.Inv.touch (h : s.Inv) : (s.touch).Inv := h.setTrap _
theorem State.Inv.stir (h : s.Inv) : (s.stir).Inv := h.setTrap _
theorem State.Inv.looks (h : s.Inv) (k : Strand) : (s.looks k).Inv := h.setTrap _
theorem State.Inv.xPop (h : s.Inv) (rs : List XReg) : (s.xPop rs).Inv := State.Inv.cond h (h.setQ _)
theorem State.Inv.xWrite (h : s.Inv) (r : XReg) (v : Word64) : (s.xWrite r v).Inv :=
  State.Inv.ite h (State.Inv.ite (State.Inv.cond (h.setC _) (State.Inv.ite (h.setQ _) (State.Inv.ite (h.setQ _) (State.Inv.ite (h.setQ _)
    (State.Inv.ite (h.setQ _) h))))) (h.setC _))
theorem State.Inv.cStall (h : s.Inv) : (s.cStall).Inv := h.setC _
theorem State.Inv.cGo (h : s.Inv) (pc : Word64) : (s.cGo pc).Inv := ((h.touch.count _ _).setCtx _).setC _
theorem State.Inv.setQOf (h : s.Inv) (k : Strand) (q : List Word64) : (s.setQOf k q).Inv := by
  unfold State.setQOf
  split
  · exact h
  · exact h.setQ _
  · exact h.setQ _
  · exact h.setQ _
theorem State.Inv.yWrite (h : s.Inv) (k : Strand) (r : YReg) (v : Word32) : (s.yWrite k r v).Inv := by
  unfold State.yWrite
  refine State.Inv.ite h ?_
  split
  · exact h
  · exact h.setLS _ _
  · exact h.setLS _ _
  · exact h.setV _
theorem State.Inv.yPop (h : s.Inv) (k : Strand) (rs : List YReg) : (s.yPop k rs).Inv := by
  unfold State.yPop
  dsimp only
  refine State.Inv.cond ?_ h
  split
  · exact h.setQOf _ _
  · exact (h.setQOf _ _).setLS _ _
  · exact (h.setQOf _ _).setLS _ _
  · exact (h.setQOf _ _).setV _
theorem State.Inv.setFifo (h : s.Inv) (i : Nat) (f : Fifo) : (s.setFifo i f).Inv := h.setQ _
theorem State.Inv.tokTake (h : s.Inv) (k : Strand) (next : Bool) : (s.tokTake k next).Inv := h.setFifo _ _
theorem State.Inv.tokReserve (h : s.Inv) (k : Strand) (next : Bool) : (s.tokReserve k next).Inv := h.setFifo _ _
theorem State.Inv.tokGive (h : s.Inv) (k : Strand) (next : Bool) : (s.tokGive k next).Inv := h.setFifo _ _
theorem State.Inv.tokIssue (h : s.Inv) (k : Strand) (t : Tokens) : (s.tokIssue k t).Inv := by
  have take : ∀ (b next : Bool) {x : State}, x.Inv → State.Inv (bif b then x.tokTake k next else x) :=
    fun _ _ _ hx => State.Inv.cond (hx.tokTake _ _) hx
  have reserve : ∀ (b next : Bool) {x : State}, x.Inv → State.Inv (bif b then x.tokReserve k next else x) :=
    fun _ _ _ hx => State.Inv.cond (hx.tokReserve _ _) hx
  exact reserve _ _ (reserve _ _ (take _ _ (take _ _ h)))
theorem State.Inv.tokRetire (h : s.Inv) (k : Strand) (t : Tokens) : (s.tokRetire k t).Inv :=
  State.Inv.cond ((State.Inv.cond (h.tokGive _ _) h).tokGive _ _) (State.Inv.cond (h.tokGive _ _) h)
theorem State.Inv.postNext (h : s.Inv) (p : BitVec 3) : (s.postNext p).Inv := (State.postNext_serves s p).2 h
theorem State.Inv.postsGo (h : s.Inv) : (s.postsGo).Inv := State.Inv.foldl (fun _ _ hx => (State.Inv.cond hx (hx.postNext _))) _ h
theorem State.Inv.post (h : s.Inv) (p : BitVec 3) (r : FaultRec) : (s.post p r).Inv := (State.post_serves s p r).2 h
theorem State.Inv.memRec (h : s.Inv) (type : BitVec 8) (pa : Nat) : (s.memRec type pa).Inv := (State.memRec_serves s type pa).2 h
theorem State.Inv.storeCells (h : s.Inv) (cs : List Host.Cell) (o : Owner) (dev : Bool) : (s.storeCells cs o dev).Inv :=
  (State.storeCells_serves s cs o dev).2 h
theorem State.Inv.store (h : s.Inv) (pa : Nat) (bs : List Byte) (o : Owner) (dev : Bool) : (s.store pa bs o dev).Inv :=
  (State.store_serves s pa bs o dev).2 h
theorem State.Inv.unitStore (h : s.Inv) (cs : List Host.Cell) : (s.unitStore cs).Inv := (State.unitStore_serves s cs).2 h
theorem State.Inv.coverAt (h : s.Inv) (c : Cover) (pas : List Nat) : (s.coverAt c pas).Inv := (State.coverAt_serves s c pas).2 h
theorem State.Inv.coverAll (h : s.Inv) : (s.coverAll).Inv := h.setMem.setPkg _
theorem State.Inv.flushStore (h : s.Inv) : (s.flushStore).Inv := (State.flushStore_serves s).2 h
theorem State.Inv.cRetire (h : s.Inv) (srcs : List XReg) (dst : XReg) (v pc : Word64) : (s.cRetire srcs dst v pc).Inv :=
  (((State.Inv.cond h.flushStore h).xPop _).xWrite _ _).cGo _
theorem State.Inv.cExec (h : s.Inv) (srcs : List XReg) (dst : XReg) (v : Word64) : OutInv (s.cExec srcs dst v) :=
  (State.Inv.cond (h.cRetire _ _ _ _) h.cStall).next
theorem State.Inv.repTakeAt (h : s.Inv) (p : BitVec 3) (i : Nat) : (s.repTakeAt p i).Inv := State.Inv.cond (h.setPart _ _) (h.setPart _ _)
theorem State.Inv.repTake (h : s.Inv) (p : BitVec 3) : (s.repTake p).Inv := h.repTakeAt _ _
theorem State.Inv.again (h : s.Inv) (t : Turn) : (s.again t).Inv := h.of_mem
theorem State.Inv.acked (h : s.Inv) : (s.acked).Inv := State.Inv.cond ((h.setDbg _).show _) h
theorem State.Inv.patchMoves (h : s.Inv) : (s.patchMoves).Inv := by
  unfold State.patchMoves
  refine State.Inv.cond h.acked ?_
  split
  · exact State.Inv.cond ((h.setDbg _).show _) h
  · exact h
theorem State.Inv.diverge (h : s.Inv) (p : BitVec 3) (r : Nat × Nat × Nat × Nat × Nat) (event : List Nat) : (s.diverge p r event).Inv :=
  State.Inv.cond ((((h.setPart _ _).msiRaw _ _ _ _).show _).setDbg _) (((h.setPart _ _).msiRaw _ _ _ _).show _)
theorem State.Inv.orderGo (h : s.Inv) (x : BitVec 3 × Nat × Nat) : (s.orderGo x).Inv := by
  unfold State.orderGo
  dsimp only
  refine State.Inv.cond ?_ (h.record _ _ _ _ _ _)
  split
  · exact h.repTakeAt _ _
  · exact h
theorem State.Inv.ordersGo (h : s.Inv) : (s.ordersGo).Inv := by
  unfold State.ordersGo
  split
  · exact State.Inv.cond h (State.Inv.foldl (fun _ _ hx => hx.orderGo _) _ h.setMem)
  · exact h
theorem State.Inv.replayed (h : s.Inv) (type : Nat) (key addr live : Word64) : (s.replayed type key addr live).1.Inv := by
  unfold State.replayed
  dsimp only
  refine State.Inv.cond_fst ?_ (h.record _ _ _ _ _ _)
  split
  · exact State.Inv.cond_fst (h.repTakeAt _ _) (h.diverge _ _ _)
  · exact h.diverge _ _ _
theorem State.Inv.emptyCore (h : s.Inv) : (s.emptyCore).Inv := h.flushStore.coverAll.of_mem
theorem State.Inv.offCore (h : s.Inv) : (s.offCore).Inv := ((h.setPart _ _).setNb _).emptyCore
theorem State.Inv.failStep (h : s.Inv) (p : BitVec 3) (id : StepId) : (s.failStep p id).Inv := by
  unfold State.failStep
  dsimp only
  split
  · exact h.show _
  · exact (h.setPart _ _).post _ _
theorem State.Inv.gangReset (h : s.Inv) (i : StepId) : (s.gangReset i).Inv := by
  unfold State.gangReset
  dsimp only
  split
  · exact (h.setPart _ _).setPkg _
  · exact h
theorem State.Inv.abandonStep (h : s.Inv) (faultPath : Bool) : (s.abandonStep faultPath).Inv := by
  unfold State.abandonStep
  dsimp only
  split
  · exact State.Inv.cond (((State.Inv.cond (h.gangReset _) h).offCore).failStep _ _) (((State.Inv.cond (h.gangReset _) h).offCore).setCtx _)
  · exact h.offCore
theorem State.Inv.endMwait (h : s.Inv) (reason : Nat) : (s.endMwait reason).Inv := by
  unfold State.endMwait
  dsimp only
  split
  · exact ((h.record _ _ _ _ _ _).setC _).cRetire _ _ _ _
  · exact h
theorem State.Inv.takeTrap (h : s.Inv) (k : Strand) (cause : BitVec 8) (tfpc tval tepc : Word64) : (s.takeTrap k cause tfpc tval tepc).Inv :=
  h.flushStore.of_mem
theorem State.Inv.trapNow (h : s.Inv) (k : Strand) (cause : BitVec 8) (tfpc tval : Word64) : (s.trapNow k cause tfpc tval).Inv :=
  (h.endMwait _).takeTrap _ _ _ _ _
theorem State.Inv.takeTrapNoStep (h : s.Inv) (why : NoStep) (cause : BitVec 8) (tval tepc tvec : Word64) (tq : Word32) :
    (s.takeTrapNoStep why cause tval tepc tvec tq).Inv :=
  h.of_mem
theorem State.Inv.betweenSteps (h : s.Inv) : (s.betweenSteps).Inv := h.of_mem
theorem State.Inv.doubleTrap (h : s.Inv) (k : Strand) (cause : BitVec 8) (tfpc tval : Word64) : (s.doubleTrap k cause tfpc tval).Inv := by
  unfold State.doubleTrap
  dsimp only
  split
  · exact (h.flushStore.post _ _).abandonStep _
  · exact (h.flushStore.post _ _).betweenSteps
theorem State.Inv.hold (h : s.Inv) (k : Strand) : (s.hold k).Inv := by
  unfold State.hold
  split
  · exact h.cStall
  · exact h.setLS _ _
  · exact h.setLS _ _
  · exact h.setV _
theorem State.Inv.raise (h : s.Inv) (k : Strand) (cause : BitVec 8) (tval tfpc : Word64) (aux : Word32) (addr : Word64) :
    (s.raise k cause tval tfpc aux addr).Inv :=
  State.Inv.cond (h.doubleTrap _ _ _ _) (State.Inv.cond (h.hold _) (State.Inv.cond (((h.post _ _).hold _).setTrap _) (State.Inv.cond ((h.hold
    _).setTrap _) (h.trapNow _ _ _ _))))
theorem State.Inv.cRaise (h : s.Inv) (cause : BitVec 8) (tval : Word64) : (s.cRaise cause tval).Inv := h.raise _ _ _ _ _ _
theorem State.Inv.setPend (h : s.Inv) (bit : Nat) (tval : Word64) : (s.setPend bit tval).Inv := h.setTrap _
theorem State.Inv.takePending (h : s.Inv) (bit : Nat) : (s.takePending bit).Inv := (h.setTrap _).trapNow _ _ _ _
theorem State.Inv.endCauses (h : s.Inv) : (s.endCauses).Inv := by
  unfold State.endCauses
  split
  · exact State.Inv.cond (h.takePending _) h
  · exact h
theorem State.Inv.async (h : s.Inv) (bit : Nat) (tval : Word64) : (s.async bit tval).Inv := State.Inv.cond (h.trapNow _ _ _ _) (h.setPend _ _)
theorem State.Inv.unitTrap (h : s.Inv) : (s.unitTrap).Inv := by
  unfold State.unitTrap
  dsimp only
  split
  · exact h.setTrap _
  · exact (h.of_mem.trapNow _ _ _ _).setTrap _
theorem State.Inv.takeUnitFault (h : s.Inv) : (s.takeUnitFault).Inv := by
  unfold State.takeUnitFault
  dsimp only
  split
  · exact State.Inv.cond ((h.endMwait _).setTrap _) h.unitTrap
  · exact h.unitTrap
theorem State.Inv.deliverUnits (h : s.Inv) : (s.deliverUnits).Inv := State.Inv.cond h (State.Inv.cond h.takeUnitFault (h.setTrap _))
theorem State.Inv.doEret (h : s.Inv) : (s.doEret).Inv := by
  unfold State.doEret
  dsimp only
  split
  · exact h.of_mem
  · exact h.betweenSteps
theorem State.Inv.cFail (h : s.Inv) (f : XFail) (page : BitVec 8) (va : Word64) : (s.cFail f page va).Inv := by
  unfold State.cFail
  dsimp only
  split
  · exact State.Inv.cond (h.reqOver.takeTrap _ _ _ _ _) (h.reqOver.setPend _ _)
  · exact h.cStall
  · exact h.cRaise _ _
theorem State.Inv.setSym (h : s.Inv) (i : BitVec 3) (x : Sym) : (s.setSym i x).Inv := h.setCsr _

end


/-! ### What C does, streams and time -/

section
variable {s : State}

theorem execAdd_inv (h : s.Inv) (xd xa xb : XReg) : OutInv (execAdd xd xa xb s) := h.cExec _ _ _
theorem execSub_inv (h : s.Inv) (xd xa xb : XReg) : OutInv (execSub xd xa xb s) := h.cExec _ _ _
theorem execAnd_inv (h : s.Inv) (xd xa xb : XReg) : OutInv (execAnd xd xa xb s) := h.cExec _ _ _
theorem execOr_inv (h : s.Inv) (xd xa xb : XReg) : OutInv (execOr xd xa xb s) := h.cExec _ _ _
theorem execXor_inv (h : s.Inv) (xd xa xb : XReg) : OutInv (execXor xd xa xb s) := h.cExec _ _ _
theorem execAndn_inv (h : s.Inv) (xd xa xb : XReg) : OutInv (execAndn xd xa xb s) := h.cExec _ _ _
theorem execSll_inv (h : s.Inv) (xd xa xb : XReg) : OutInv (execSll xd xa xb s) := h.cExec _ _ _
theorem execSrl_inv (h : s.Inv) (xd xa xb : XReg) : OutInv (execSrl xd xa xb s) := h.cExec _ _ _
theorem execSra_inv (h : s.Inv) (xd xa xb : XReg) : OutInv (execSra xd xa xb s) := h.cExec _ _ _
theorem execSlt_inv (h : s.Inv) (xd xa xb : XReg) : OutInv (execSlt xd xa xb s) := h.cExec _ _ _
theorem execSltn_inv (h : s.Inv) (xd xa xb : XReg) : OutInv (execSltn xd xa xb s) := h.cExec _ _ _
theorem execMin_inv (h : s.Inv) (xd xa xb : XReg) : OutInv (execMin xd xa xb s) := h.cExec _ _ _
theorem execMax_inv (h : s.Inv) (xd xa xb : XReg) : OutInv (execMax xd xa xb s) := h.cExec _ _ _
theorem execMinn_inv (h : s.Inv) (xd xa xb : XReg) : OutInv (execMinn xd xa xb s) := h.cExec _ _ _
theorem execMaxn_inv (h : s.Inv) (xd xa xb : XReg) : OutInv (execMaxn xd xa xb s) := h.cExec _ _ _
theorem execMul_inv (h : s.Inv) (xd xa xb : XReg) : OutInv (execMul xd xa xb s) := h.cExec _ _ _
theorem execMulh_inv (h : s.Inv) (xd xa xb : XReg) : OutInv (execMulh xd xa xb s) := h.cExec _ _ _
theorem execMulhn_inv (h : s.Inv) (xd xa xb : XReg) : OutInv (execMulhn xd xa xb s) := h.cExec _ _ _
theorem execDiv_inv (h : s.Inv) (xd xa xb : XReg) : OutInv (execDiv xd xa xb s) := h.cExec _ _ _
theorem execDivn_inv (h : s.Inv) (xd xa xb : XReg) : OutInv (execDivn xd xa xb s) := h.cExec _ _ _
theorem execRem_inv (h : s.Inv) (xd xa xb : XReg) : OutInv (execRem xd xa xb s) := h.cExec _ _ _
theorem execRemn_inv (h : s.Inv) (xd xa xb : XReg) : OutInv (execRemn xd xa xb s) := h.cExec _ _ _
theorem execClz_inv (h : s.Inv) (xd xa : XReg) : OutInv (execClz xd xa s) := h.cExec _ _ _
theorem execCtz_inv (h : s.Inv) (xd xa : XReg) : OutInv (execCtz xd xa s) := h.cExec _ _ _
theorem execPopc_inv (h : s.Inv) (xd xa : XReg) : OutInv (execPopc xd xa s) := h.cExec _ _ _
theorem execBswap_inv (h : s.Inv) (xd xa : XReg) : OutInv (execBswap xd xa s) := h.cExec _ _ _
theorem execAddx_inv (h : s.Inv) (xd xa xb : XReg) (sh : BitVec 5) : OutInv (execAddx xd xa xb sh s) := h.cExec _ _ _
theorem execAddi_inv (h : s.Inv) (xd xa : XReg) (imm : BitVec 15) : OutInv (execAddi xd xa imm s) := h.cExec _ _ _
theorem execAndi_inv (h : s.Inv) (xd xa : XReg) (imm : BitVec 15) : OutInv (execAndi xd xa imm s) := h.cExec _ _ _
theorem execOri_inv (h : s.Inv) (xd xa : XReg) (imm : BitVec 15) : OutInv (execOri xd xa imm s) := h.cExec _ _ _
theorem execXori_inv (h : s.Inv) (xd xa : XReg) (imm : BitVec 15) : OutInv (execXori xd xa imm s) := h.cExec _ _ _
theorem execSlli_inv (h : s.Inv) (xd xa : XReg) (imm : BitVec 15) : OutInv (execSlli xd xa imm s) := h.cExec _ _ _
theorem execSrli_inv (h : s.Inv) (xd xa : XReg) (imm : BitVec 15) : OutInv (execSrli xd xa imm s) := h.cExec _ _ _
theorem execSrai_inv (h : s.Inv) (xd xa : XReg) (imm : BitVec 15) : OutInv (execSrai xd xa imm s) := h.cExec _ _ _
theorem execSlti_inv (h : s.Inv) (xd xa : XReg) (imm : BitVec 15) : OutInv (execSlti xd xa imm s) := h.cExec _ _ _
theorem execSltni_inv (h : s.Inv) (xd xa : XReg) (imm : BitVec 15) : OutInv (execSltni xd xa imm s) := h.cExec _ _ _
theorem execMuli_inv (h : s.Inv) (xd xa : XReg) (imm : BitVec 15) : OutInv (execMuli xd xa imm s) := h.cExec _ _ _
theorem execLdhi_inv (h : s.Inv) (xd xa : XReg) (imm : BitVec 15) : OutInv (execLdhi xd xa imm s) := h.cExec _ _ _
theorem execLea_inv (h : s.Inv) (xd : XReg) (imm : BitVec 15) : OutInv (execLea xd imm s) := h.cExec _ _ _
theorem execNop_inv (h : s.Inv) (_payload : BitVec 25) : OutInv (execNop _payload s) := (h.cGo _).next
theorem State.Inv.l2Trim (h : s.Inv) (key : Nat) (mine : Bool) : (s.l2Trim key mine).Inv := (State.l2Trim_serves s key mine).2 h
theorem State.Inv.l2Access (h : s.Inv) (pa : Nat) (p fill : Option (BitVec 3)) (mine : Bool) : (s.l2Access pa p fill mine).Inv :=
  (State.l2Access_serves s pa p fill mine).2 h
theorem State.Inv.l2Own (h : s.Inv) (pa : Nat) : (s.l2Own pa).Inv := (State.l2Own_serves s pa).2 h
theorem State.Inv.l2Hit (h : s.Inv) (pa : Nat) : (s.l2Hit pa).Inv := (State.l2Hit_serves s pa).2 h
theorem State.Inv.l2Engine (h : s.Inv) (pa : Nat) (mine : Bool) : (s.l2Engine pa mine).Inv := (State.l2Engine_serves s pa mine).2 h
theorem State.Inv.l2Hits (h : s.Inv) (pas : List Nat) : (s.l2Hits pas).Inv := (State.l2Hits_serves s pas).2 h
theorem State.Inv.fillTlb (h : s.Inv) (p : BitVec 3) (v : BitVec 2) (va : Word64) : (s.fillTlb p v va).Inv := (State.fillTlb_serves s p v va).2 h
theorem State.Inv.lease (h : s.Inv) (line : Nat) (own : Bool) : (s.lease line own).Inv := (State.lease_serves s line own).2 h
theorem State.Inv.l1Hit (h : s.Inv) (pa : Nat) : (s.l1Hit pa).Inv := (State.l1Hit_serves s pa).2 h
theorem State.Inv.l1Hits (h : s.Inv) (pas : List Nat) : (s.l1Hits pas).Inv := (State.l1Hits_serves s pas).2 h
theorem State.Inv.fallCount (h : s.Inv) (off n : Nat) : (s.fallCount off n).Inv := (State.fallCount_serves s off n).2 h
theorem State.Inv.fpCount (h : s.Inv) (ev : List Nat) : (s.fpCount ev).Inv := by
  unfold State.fpCount
  split
  · exact h
  · exact h.of_mem
theorem State.Inv.cEvent (h : s.Inv) (va : Word64) : (s.cEvent va).Inv := (State.cEvent_serves s va).2 h
theorem State.Inv.cLoad (h : s.Inv) (xd xa : XReg) (off : BitVec 12) (n : Nat) (signed : Bool) : (s.cLoad xd xa off n signed).Inv := by
  unfold State.cLoad
  dsimp only
  refine State.Inv.cond h.cStall (State.Inv.cond (h.cRaise _ _) ?_)
  split
  · exact (h.cEvent _).cFail _ _ _
  · exact State.Inv.cond (h.cEvent _).cStall (((h.cEvent _).l1Hit _).cRetire _ _ _ _)
/-- What a run of C loads gives keeps the form. -/
def CRead.Inv : CRead → Prop
  | .got s _ => s.Inv
  | .failed s _ _ => s.Inv
  | .waits s => s.Inv
theorem State.Inv.cBytes (h : s.Inv) (va : Word64) (n : Nat) : (s.cBytes va n).Inv := by
  induction n generalizing s va with
  | zero => exact h
  | succ n ih =>
    have he := h.cEvent va
    unfold State.cBytes
    dsimp only
    split
    · exact he
    · next pa _ =>
      have hr := ih (he.l1Hit pa) (va + 8)
      cases (s.cEvent va).holdsAt 0 true pa
      · rw [cond_false]
        split
        · next e => rwa [e] at hr
        · exact hr
      · exact he
theorem State.Inv.putStore (h : s.Inv) (pa : Nat) (bs : List Byte) : (s.putStore pa bs).Inv := by
  unfold State.putStore
  split
  · exact h.store _ _ _ _
  · exact h.setC _
theorem State.Inv.cStoreOp (h : s.Inv) (xd xa : XReg) (off : BitVec 12) (n : Nat) : (s.cStoreOp xd xa off n).Inv := by
  unfold State.cStoreOp
  dsimp only
  refine State.Inv.cond h.cStall ?_
  refine State.Inv.cond (h.cRaise _ _) ?_
  split
  · exact (h.cEvent _).cFail _ _ _
  · exact State.Inv.cond ((h.cEvent _).cStall) ((((h.cEvent _).l2Own _).putStore _ _).cRetire _ _ _ _)
theorem execLdI8_inv (h : s.Inv) (xd xa : XReg) (off : BitVec 12) : OutInv (execLdI8 xd xa off s) := (h.cLoad _ _ _ _ _).next
theorem execLdI16_inv (h : s.Inv) (xd xa : XReg) (off : BitVec 12) : OutInv (execLdI16 xd xa off s) := (h.cLoad _ _ _ _ _).next
theorem execLdI32_inv (h : s.Inv) (xd xa : XReg) (off : BitVec 12) : OutInv (execLdI32 xd xa off s) := (h.cLoad _ _ _ _ _).next
theorem execLd_inv (h : s.Inv) (xd xa : XReg) (off : BitVec 12) : OutInv (execLd xd xa off s) := (h.cLoad _ _ _ _ _).next
theorem execLdN8_inv (h : s.Inv) (xd xa : XReg) (off : BitVec 12) : OutInv (execLdN8 xd xa off s) := (h.cLoad _ _ _ _ _).next
theorem execLdN16_inv (h : s.Inv) (xd xa : XReg) (off : BitVec 12) : OutInv (execLdN16 xd xa off s) := (h.cLoad _ _ _ _ _).next
theorem execLdN32_inv (h : s.Inv) (xd xa : XReg) (off : BitVec 12) : OutInv (execLdN32 xd xa off s) := (h.cLoad _ _ _ _ _).next
theorem execStI8_inv (h : s.Inv) (xd xa : XReg) (off : BitVec 12) : OutInv (execStI8 xd xa off s) := (h.cStoreOp _ _ _ _).next
theorem execStI16_inv (h : s.Inv) (xd xa : XReg) (off : BitVec 12) : OutInv (execStI16 xd xa off s) := (h.cStoreOp _ _ _ _).next
theorem execStI32_inv (h : s.Inv) (xd xa : XReg) (off : BitVec 12) : OutInv (execStI32 xd xa off s) := (h.cStoreOp _ _ _ _).next
theorem execSt_inv (h : s.Inv) (xd xa : XReg) (off : BitVec 12) : OutInv (execSt xd xa off s) := (h.cStoreOp _ _ _ _).next
theorem State.Inv.cBranch (h : s.Inv) (xd xa : XReg) (imm : BitVec 15) (taken : Bool) : OutInv (s.cBranch xd xa imm taken) :=
  (State.Inv.cond (h.cRetire _ _ _ _) h.cStall).next
theorem execBeq_inv (h : s.Inv) (xd xa : XReg) (imm : BitVec 15) : OutInv (execBeq xd xa imm s) := h.cBranch _ _ _ _
theorem execBne_inv (h : s.Inv) (xd xa : XReg) (imm : BitVec 15) : OutInv (execBne xd xa imm s) := h.cBranch _ _ _ _
theorem execBlt_inv (h : s.Inv) (xd xa : XReg) (imm : BitVec 15) : OutInv (execBlt xd xa imm s) := h.cBranch _ _ _ _
theorem execBge_inv (h : s.Inv) (xd xa : XReg) (imm : BitVec 15) : OutInv (execBge xd xa imm s) := h.cBranch _ _ _ _
theorem execBltn_inv (h : s.Inv) (xd xa : XReg) (imm : BitVec 15) : OutInv (execBltn xd xa imm s) := h.cBranch _ _ _ _
theorem execBgen_inv (h : s.Inv) (xd xa : XReg) (imm : BitVec 15) : OutInv (execBgen xd xa imm s) := h.cBranch _ _ _ _
theorem execJal_inv (h : s.Inv) (off : BitVec 25) : OutInv (execJal off s) := (h.cRetire _ _ _ _).next
theorem execJalr_inv (h : s.Inv) (xd xa : XReg) (imm : BitVec 15) : OutInv (execJalr xd xa imm s) :=
  (State.Inv.cond h.cStall (State.Inv.cond (h.cRaise _ _) (h.cRetire _ _ _ _))).next
theorem State.Inv.contribute (h : s.Inv) (pa : Nat) (va : Word64) (op : RedOp) (fmt : BitVec 4) (b : Word32) (need : Nat) :
    (s.contribute pa va op fmt b need).Inv :=
  (State.contribute_serves s pa va op fmt b need).2 h
theorem State.Inv.cAmo (h : s.Inv) (xd xa xb xc : XReg) (n : Nat) (red : Option (RedOp × BitVec 4)) (f : Nat → FRes) (out : Nat → Word64) :
    (s.cAmo xd xa xb xc n red f out).Inv := by
  unfold State.cAmo
  dsimp only
  refine State.Inv.cond h.cStall ?_
  refine State.Inv.cond (h.cRaise _ _) ?_
  split
  · exact (h.cEvent _).cFail _ _ _
  · refine State.Inv.cond ((h.cEvent _).cStall) ?_
    split
    · refine State.Inv.cond ?_ (((((h.cEvent _).l2Hit _).store _ _ _ _).fpCount _).cRetire _ _ _ _)
      split
      · exact ((h.cEvent _).contribute _ _ _ _ _ _).cRetire _ _ _ _
      · exact (h.cEvent _).cRaise _ _
    · exact ((((h.cEvent _).l2Hit _).store _ _ _ _).fpCount _).cRetire _ _ _ _
theorem State.Inv.amo64 (h : s.Inv) (op : AmoOp) (xd xa xb xc : XReg) : (s.amo64 op xd xa xb xc).Inv := h.cAmo _ _ _ _ _ _ _ _
theorem State.Inv.amo32 (h : s.Inv) (op : AmoOp) (xd xa xb xc : XReg) : (s.amo32 op xd xa xb xc).Inv := by
  unfold State.amo32
  exact h.cAmo _ _ _ _ _ _ _ _
theorem State.Inv.amoF (h : s.Inv) (f : FFmt) (code : BitVec 4) (xd xa xb : XReg) : (s.amoF f code xd xa xb).Inv := h.cAmo _ _ _ _ _ _ _ _
theorem execAmoAdd_inv (h : s.Inv) (xd xa xb : XReg) : OutInv (execAmoAdd xd xa xb s) := (h.amo64 _ _ _ _ _).next
theorem execAmoAddI32_inv (h : s.Inv) (xd xa xb : XReg) : OutInv (execAmoAddI32 xd xa xb s) := by
  unfold execAmoAddI32
  exact (h.amo32 _ _ _ _ _).next
theorem execAmoAnd_inv (h : s.Inv) (xd xa xb : XReg) : OutInv (execAmoAnd xd xa xb s) := (h.amo64 _ _ _ _ _).next
theorem execAmoAndI32_inv (h : s.Inv) (xd xa xb : XReg) : OutInv (execAmoAndI32 xd xa xb s) := by
  unfold execAmoAndI32
  exact (h.amo32 _ _ _ _ _).next
theorem execAmoOr_inv (h : s.Inv) (xd xa xb : XReg) : OutInv (execAmoOr xd xa xb s) := (h.amo64 _ _ _ _ _).next
theorem execAmoOrI32_inv (h : s.Inv) (xd xa xb : XReg) : OutInv (execAmoOrI32 xd xa xb s) := by
  unfold execAmoOrI32
  exact (h.amo32 _ _ _ _ _).next
theorem execAmoXor_inv (h : s.Inv) (xd xa xb : XReg) : OutInv (execAmoXor xd xa xb s) := (h.amo64 _ _ _ _ _).next
theorem execAmoXorI32_inv (h : s.Inv) (xd xa xb : XReg) : OutInv (execAmoXorI32 xd xa xb s) := by
  unfold execAmoXorI32
  exact (h.amo32 _ _ _ _ _).next
theorem execAmoMin_inv (h : s.Inv) (xd xa xb : XReg) : OutInv (execAmoMin xd xa xb s) := (h.amo64 _ _ _ _ _).next
theorem execAmoMinI32_inv (h : s.Inv) (xd xa xb : XReg) : OutInv (execAmoMinI32 xd xa xb s) := by
  unfold execAmoMinI32
  exact (h.amo32 _ _ _ _ _).next
theorem execAmoMax_inv (h : s.Inv) (xd xa xb : XReg) : OutInv (execAmoMax xd xa xb s) := (h.amo64 _ _ _ _ _).next
theorem execAmoMaxI32_inv (h : s.Inv) (xd xa xb : XReg) : OutInv (execAmoMaxI32 xd xa xb s) := by
  unfold execAmoMaxI32
  exact (h.amo32 _ _ _ _ _).next
theorem execAmoSwap_inv (h : s.Inv) (xd xa xb : XReg) : OutInv (execAmoSwap xd xa xb s) := (h.amo64 _ _ _ _ _).next
theorem execAmoSwapI32_inv (h : s.Inv) (xd xa xb : XReg) : OutInv (execAmoSwapI32 xd xa xb s) := by
  unfold execAmoSwapI32
  exact (h.amo32 _ _ _ _ _).next
theorem execAmoCas_inv (h : s.Inv) (xd xa xb xc : XReg) : OutInv (execAmoCas xd xa xb xc s) := (h.amo64 _ _ _ _ _).next
theorem execAmoCasI32_inv (h : s.Inv) (xd xa xb xc : XReg) : OutInv (execAmoCasI32 xd xa xb xc s) := by
  unfold execAmoCasI32
  exact (h.amo32 _ _ _ _ _).next
theorem execAmoFaddF32_inv (h : s.Inv) (xd xa xb : XReg) : OutInv (execAmoFaddF32 xd xa xb s) := (h.amoF _ _ _ _ _).next
theorem execAmoFaddBf16_inv (h : s.Inv) (xd xa xb : XReg) : OutInv (execAmoFaddBf16 xd xa xb s) := (h.amoF _ _ _ _ _).next
theorem State.Inv.writeCsr (h : s.Inv) (n : BitVec 12) (v : Word64) : (s.writeCsr n v).Inv :=
  State.Inv.ite (h.setTrap _) (State.Inv.ite (h.setTrap _) (State.Inv.ite (h.setTrap _) (State.Inv.ite (h.setCsr _) (State.Inv.ite (h.setCsr _)
    (State.Inv.ite (h.setCsr _) (State.Inv.ite (h.setCsr _) (State.Inv.ite (h.setCsr _) (State.Inv.ite (State.Inv.cond h h.of_mem) (State.Inv.ite
      h.of_mem (State.Inv.ite h.of_mem h))))))))))
theorem State.Inv.csrValue (h : s.Inv) (n : BitVec 12) : (s.csrValue n).1.Inv := State.Inv.cond_fst (h.replayed _ _ _ _) h
theorem State.Inv.csrOp (h : s.Inv) (i : Instr) (n : BitVec 12) (xd : XReg) (srcs : List XReg) (f : Option (Word64 → Word64)) :
    (s.csrOp i n xd srcs f).Inv := by
  refine State.Inv.cond (h.cRaise _ _) (State.Inv.cond h.cStall ?_)
  cases f with
  | none => exact (h.csrValue _).cRetire _ _ _ _
  | some f => exact (State.Inv.cond ((h.csrValue _).writeCsr _ _) (h.csrValue _)).cRetire _ _ _ _
theorem execCsrr_inv (h : s.Inv) (xd : XReg) (n : BitVec 12) : OutInv (execCsrr xd n s) := (h.csrOp _ _ _ _ _).next
theorem execCsrw_inv (h : s.Inv) (xd xa : XReg) (n : BitVec 12) : OutInv (execCsrw xd xa n s) := (h.csrOp _ _ _ _ _).next
theorem execCsrs_inv (h : s.Inv) (xd xa : XReg) (n : BitVec 12) : OutInv (execCsrs xd xa n s) := (h.csrOp _ _ _ _ _).next
theorem execCsrc_inv (h : s.Inv) (xd xa : XReg) (n : BitVec 12) : OutInv (execCsrc xd xa n s) := (h.csrOp _ _ _ _ _).next
theorem State.Inv.privileged (h : s.Inv) (i : Instr) {f : State → State} (hf : (f s).Inv) : (s.privileged i f).Inv := State.Inv.cond hf (h.cRaise _ _)
theorem execEret_inv (h : s.Inv) : OutInv (execEret s) := (h.privileged .eret ((h.touch.count _ _).setCtx _).doEret).next
theorem State.Inv.invalidate (h : s.Inv) (va : Option Word64) : (s.invalidate va).Inv := h.of_mem
theorem execTlbi_inv (h : s.Inv) (xa : XReg) : OutInv (execTlbi xa s) := (h.privileged (.tlbi xa) ((h.flushStore.invalidate _).cRetire _ _ _ _)).next
theorem execIcsync_inv (h : s.Inv) : OutInv (execIcsync s) := (((h.flushStore.setC _).setCtx _).cRetire _ _ _ _).next
theorem execEndC_inv (h : s.Inv) : OutInv (execEndC s) := by
  unfold execEndC
  dsimp only
  refine State.Inv.next ?_
  refine State.Inv.cond ?_ (((h.flushStore.touch.count _ _).setCtx _).setC _)
  split
  · exact (h.flushStore.post _ _).abandonStep _
  · exact h.flushStore.betweenSteps
theorem State.Inv.softTrap (h : s.Inv) (cause : BitVec 8) (tval : Word64) : (s.softTrap cause tval).Inv :=
  State.Inv.cond (h.flushStore.doubleTrap _ _ _ _) (State.Inv.cond (h.flushStore.hold _) (h.flushStore.takeTrap _ _ _ _ _))
theorem execTrap_inv (h : s.Inv) (imm : BitVec 15) : OutInv (execTrap imm s) := (h.softTrap _ _).next
theorem execBkpt_inv (h : s.Inv) (code : BitVec 25) : OutInv (execBkpt code s) := (h.softTrap _ _).next
theorem execUnassignedEncoding_inv (h : s.Inv) (k : Strand) (word : Word64) : OutInv (execUnassignedEncoding k word s) := (h.raise _ _ _ _ _ _).next
theorem execInstructionFetchFault_inv (h : s.Inv) (k : Strand) (cause : BitVec 8) (tval : Word64) :
    OutInv (execInstructionFetchFault k cause tval s) := by
  unfold execInstructionFetchFault
  refine State.Inv.next ?_
  refine State.Inv.cond ?_ (h.raise _ _ _ _ _ _)
  split
  · exact h.cFail _ _ _
  · exact (h.reqOver.async _ _).hold _
theorem State.Inv.applyDemand (h : s.Inv) : (s.applyDemand).Inv := (State.Inv.foldl (fun _ _ hx => (State.Inv.cond hx (hx.setDesc _ _))) _ h).setTen _
theorem State.Inv.divideHeld (h : s.Inv) (tab : List TNode) (b : Nat) : (s.divideHeld tab b).1.Inv := (h.setTen _).setCsr _
theorem State.Inv.unmetCause (h : s.Inv) (unmet : Bool) : (s.unmetCause unmet).Inv := State.Inv.cond (h.async _ _) h
theorem State.Inv.commitHeld (h : s.Inv) : (s.commitHeld).Inv := h.setTen _
theorem execDmd_inv (h : s.Inv) (xd xa : XReg) (n : BitVec 4) : OutInv (execDmd xd xa n s) := by
  have hb := h.cBytes (s.xRead xa) (2 * (n.toNat + 1))
  refine State.Inv.next (State.Inv.cond h.cStall (State.Inv.cond (h.cRaise _ _) (State.Inv.cond (h.cRaise _ _) ?_)))
  split
  · next t f va e =>
    rw [e] at hb
    exact State.Inv.cFail hb _ _ _
  · next t e =>
    rw [e] at hb
    exact State.Inv.cStall hb
  · next t raw e =>
    rw [e] at hb
    have ht : t.Inv := hb
    exact State.Inv.cond (ht.cRaise _ _) (State.Inv.cond ((ht.setTen _).applyDemand.cRetire _ _ _ _)
      (((ht.divideHeld _ _).applyDemand.commitHeld.cRetire _ _ _ _).unmetCause _))
theorem execRedmd_inv (h : s.Inv) (xd : XReg) : OutInv (execRedmd xd s) := by
  refine State.Inv.next (State.Inv.cond h.cStall ?_)
  split
  · exact h.cRaise _ _
  · exact State.Inv.cond (h.cRaise _ _) ((((h.divideHeld _ _).setTen _).cRetire _ _ _ _).unmetCause _)
theorem State.Inv.demandAtCut (h : s.Inv) : s.demandAtCut.Inv := by
  refine State.Inv.setTen (State.Inv.cond (State.Inv.foldl (fun x r hx => ?_) _ ?_) ?_) _
  · split
    · exact State.Inv.cond (hx.setDesc _ _) hx
    · exact hx
  · exact State.Inv.foldl (fun _ _ hx => State.Inv.cond (hx.setDesc _ _) hx) _ h
  · exact State.Inv.foldl (fun _ _ hx => State.Inv.cond (hx.setDesc _ _) hx) _ h
theorem execDmdRd_inv (h : s.Inv) (xd : XReg) (sel : BitVec 3) (node : BitVec 4) : OutInv (execDmdRd xd sel node s) := h.cExec _ _ _
theorem State.Inv.poolWrite (h : s.Inv) (off : Nat) (bs : List Byte) : (s.poolWrite off bs).Inv := h.of_mem
theorem State.Inv.streamFault (h : s.Inv) (k : Strand) (r : SReg) (f : XFail) (e : Nat) (scale : Bool) (va tfpc : Word64) :
    (s.streamFault k r f e scale va tfpc).Inv := by
  unfold State.streamFault
  dsimp only
  split
  · exact ((h.setDesc _ _).reqOver.async _ _).hold _
  · exact (h.setDesc _ _).raise _ _ _ _ _ _
theorem State.Inv.fillFor (h : s.Inv) (d : Desc) (es : List Nat) : (s.fillFor d es).Inv := (State.fillFor_serves s d es).2 h
theorem State.Inv.sbWrite (h : s.Inv) (i : Instr) (srcs : List XReg) (r : SReg) (bad : Bool) (f : Desc → Desc) : (s.sbWrite i srcs r bad f).Inv :=
  State.Inv.cond h.cStall (State.Inv.cond (h.cRaise _ _) ((h.setDesc _ _).cRetire _ _ _ _))
theorem execSbBase_inv (h : s.Inv) (r : SReg) (xa : XReg) : OutInv (execSbBase r xa s) := (h.sbWrite _ _ _ _ _).next
theorem execSbBaseSc_inv (h : s.Inv) (r : SReg) (xa xb : XReg) : OutInv (execSbBaseSc r xa xb s) := (h.sbWrite _ _ _ _ _).next
theorem execSbDim_inv (h : s.Inv) (r : SReg) (dim : BitVec 2) (xa xb : XReg) : OutInv (execSbDim r dim xa xb s) := (h.sbWrite _ _ _ _ _).next
theorem execSbFmt_inv (h : s.Inv) (r : SReg) (xa xb : XReg) : OutInv (execSbFmt r xa xb s) := (h.sbWrite _ _ _ _ _).next
theorem execSbWin_inv (h : s.Inv) (r : SReg) (xa : XReg) : OutInv (execSbWin r xa s) := (h.sbWrite _ _ _ _ _).next
theorem execSbGo_inv (h : s.Inv) (r : SReg) : OutInv (execSbGo r s) :=
  (State.Inv.cond (h.cRaise _ _) (((h.setDesc _ _).setTen _).cRetire _ _ _ _)).next
theorem execSbStop_inv (h : s.Inv) (r : SReg) : OutInv (execSbStop r s) :=
  OutInv.cond h.cStall.next (((State.Inv.cond (h.setDesc _ _) h).cRetire _ _ _ _).next)
theorem execSbRd_inv (h : s.Inv) (xd : XReg) (r : SReg) (n : BitVec 3) : OutInv (execSbRd xd r n s) := h.cExec _ _ _
theorem State.Inv.setDroop (h : s.Inv) (d : Option Nat) : (s.setDroop d).Inv := (h.setPkg _).setCsr _
theorem State.Inv.trip (h : s.Inv) : (s.trip).Inv := by
  unfold State.trip
  dsimp only
  split
  · exact State.Inv.cond (h.setPkg _) ((h.setPkg _).setPkg _)
  · exact ((h.setPkg _).setDroop _).setDbg _
theorem State.Inv.laneWakes (h : s.Inv) : (s.laneWakes).Inv := State.Inv.cond ((h.setCsr _).trip) h
theorem State.Inv.droopLine (h : s.Inv) (on : Bool) (n : Nat) : (s.droopLine on n).Inv := State.Inv.cond (h.setDbg _) h
theorem State.Inv.droopTrace (h : s.Inv) : (s.droopTrace).Inv := by
  unfold State.droopTrace
  dsimp only
  split
  · exact State.Inv.cond (((State.Inv.cond (h.droopLine _ _) h).droopLine _ _).setDbg _) (h.droopLine _ _)
  · exact h
theorem State.Inv.droopNext (h : s.Inv) : (s.droopNext).Inv := by
  unfold State.droopNext
  split
  · exact State.Inv.cond ((h.setPkg _).setDroop _) (h.setDroop _)
  · exact h
theorem State.Inv.permitWindow (h : s.Inv) : (s.permitWindow).Inv := State.Inv.cond (h.setCsr _) h
theorem State.Inv.stretchCycle (h : s.Inv) : (s.stretchCycle).Inv := State.Inv.cond (h.setCsr _) h
theorem State.Inv.waitCycle (h : s.Inv) : (s.waitCycle).Inv := h.setTrap _
theorem State.Inv.liveCycle (h : s.Inv) : (s.liveCycle).Inv := State.Inv.cond (h.setCtx _) h
theorem State.Inv.passCycle (h : s.Inv) : (s.passCycle).Inv :=
  ((((h.droopTrace.of_mem.setCsr _).count _ _).stretchCycle.waitCycle.liveCycle).droopNext.of_mem).permitWindow
theorem State.Inv.passCycles (h : s.Inv) (n : Nat) : (State.passCycles n s).Inv := by
  induction n generalizing s with
  | zero => exact h
  | succ n ih => exact ih h.passCycle
theorem State.Inv.sampleSym (h : s.Inv) (i : BitVec 3) (x : Nat) : (s.sampleSym i x).Inv :=
  State.Inv.cond (State.Inv.cond (((h.setSym _ _).setCsr _).setPend _ _) ((h.setSym _ _).setCsr _)) (h.setSym _ _)
theorem State.Inv.sampleAt (h : s.Inv) (src : BitVec 4) (n at_ : Nat) : (s.sampleAt src n at_).Inv :=
  State.Inv.cond h (State.Inv.foldl (fun _ _ hx => (State.Inv.cond (hx.sampleSym _ _) hx)) _ h)
theorem State.Inv.takeSample (h : s.Inv) (src : BitVec 4) (n : Nat) : (s.takeSample src n).Inv := h.sampleAt _ _ _

end


/-! ### Engines, synchronization, fetch and the near-bank units -/

section
variable {s : State}

theorem State.Inv.setCmds (h : s.Inv) (e : Eng) (l : List Cmd) : (s.setCmds e l).Inv := by
  unfold State.setCmds
  split
  · exact h.setEng _
  · exact h.setEng _
theorem State.Inv.copySample (h : s.Inv) (c : Cmd) : (s.copySample c).Inv := h.takeSample _ _
theorem State.Inv.leaveSamples (h : s.Inv) (l : List Cmd) : (s.leaveSamples l).Inv := State.Inv.foldl (fun _ _ hx => hx.copySample _) _ h
theorem State.Inv.reap (h : s.Inv) : (s.reap).Inv := State.Inv.cond ((h.leaveSamples _).setEng _) (((h.leaveSamples _).setEng _).touch)
theorem State.Inv.engWord (h : s.Inv) (e : Eng) (srcs : List XReg) (bad : Option (BitVec 8 × Word64)) (c : Cmd) : (s.engWord e srcs bad c).Inv := by
  unfold State.engWord
  dsimp only
  refine State.Inv.cond h.cStall ?_
  split
  · exact h.cRaise _ _
  · split
    · exact h.cRaise _ _
    · exact ((h.flushStore.setCmds _ _).setEng _).cRetire _ _ _ _
theorem State.Inv.cpWord (h : s.Inv) (k : CmdKind) (xd xa xb : XReg) (done defer : Bool) : (s.cpWord k xd xa xb done defer).Inv := h.engWord _ _ _ _
theorem execCpMp_inv (h : s.Inv) (xd xa xb : XReg) (done : Bool) : OutInv (execCpMp xd xa xb done s) := (h.cpWord _ _ _ _ _ _).next
theorem execCpPm_inv (h : s.Inv) (xd xa xb : XReg) (done defer : Bool) : OutInv (execCpPm xd xa xb done defer s) := (h.cpWord _ _ _ _ _ _).next
theorem execCpMm_inv (h : s.Inv) (xd xa xb : XReg) (done defer : Bool) : OutInv (execCpMm xd xa xb done defer s) := (h.cpWord _ _ _ _ _ _).next
theorem execCpPp_inv (h : s.Inv) (xd xa xb : XReg) (done : Bool) : OutInv (execCpPp xd xa xb done s) := (h.cpWord _ _ _ _ _ _).next
theorem State.Inv.gsWord (h : s.Inv) (e : Eng) (k : CmdKind) (i : Instr) (xd xa xb : XReg) (done defer iw : Bool) (sz : BitVec 3) :
    (s.gsWord e k i xd xa xb done defer iw sz).Inv :=
  h.engWord _ _ _ _
theorem execGth_inv (h : s.Inv) (xd xa xb : XReg) (done iw : Bool) (sz : BitVec 3) : OutInv (execGth xd xa xb done iw sz s) :=
  (h.gsWord _ _ _ _ _ _ _ _ _ _).next
theorem execSct_inv (h : s.Inv) (xd xa xb : XReg) (done defer iw : Bool) (sz : BitVec 3) : OutInv (execSct xd xa xb done defer iw sz s) :=
  (h.gsWord _ _ _ _ _ _ _ _ _ _).next
theorem execPub_inv (h : s.Inv) (xd : XReg) (done : Bool) : OutInv (execPub xd done s) := (h.engWord _ _ _ _).next
theorem execEcw_inv (h : s.Inv) (xd xa : XReg) (all : Bool) : OutInv (execEcw xd xa all s) := (h.engWord _ _ _ _).next
theorem execEqRd_inv (h : s.Inv) (xd : XReg) (gather : Bool) (sel : BitVec 2) : OutInv (execEqRd xd gather sel s) := h.flushStore.cExec _ _ _
theorem State.Inv.engFault (h : s.Inv) (e : Eng) (i : Nat) (c : Cmd) (f : XFail) (va : Word64) : (s.engFault e i c f va).Inv := by
  have hr : State.Inv (match f with | .remote => s.reqOver | _ => s) := by
    cases f with
    | remote => exact h.reqOver
    | _ => exact h
  exact ((State.Inv.cond (hr.post _ _) hr).setCmds _ _).deliverUnits
theorem State.Inv.advance (h : s.Inv) (e : Eng) (i : Nat) (c : Cmd) : (s.advance e i c).Inv := h.setCmds _ _
theorem State.Inv.engPoolFault (h : s.Inv) (e : Eng) (i : Nat) (c : Cmd) (off : Nat) : (s.engPoolFault e i c off).Inv := (h.setCmds _ _).deliverUnits
theorem State.Inv.engRead (h : s.Inv) (e : Eng) (i : Nat) (c : Cmd) (va : Word64) (n : Nat) {f : State → List Byte → State × Bool}
    (hf : ∀ x bs, x.Inv → (f x bs).1.Inv) : (s.engRead e i c va n f).1.Inv := by
  have ht := h.fillTlb s.core.ctx.part s.core.ctx.vf va
  unfold State.engRead
  dsimp only
  split
  · exact ht.engFault _ _ _ _ _
  · exact ht
  · exact hf _ _ (ht.orderLines _ _ _)
theorem State.Inv.engShade (h : s.Inv) (e : Eng) (i : Nat) (c : Cmd) (va : Word64) (bs : List Byte) : (s.engShade e i c va bs).1.Inv := by
  unfold State.engShade
  dsimp only
  split
  · exact (h.fillTlb _ _ _).engFault _ _ _ _ _
  · exact h.fillTlb _ _ _
  · exact State.Inv.cond_fst (State.Inv.foldl (fun _ _ hx => hx.l2Trim _ _) _ ((h.fillTlb _ _ _).advance _ _ _)) (h.fillTlb _ _ _)
theorem State.Inv.engPool (h : s.Inv) (e : Eng) (i : Nat) (c : Cmd) (off n : Nat) {f : State → List Byte → State × Bool}
    (hf : ∀ bs, (f s bs).1.Inv) : (s.engPool e i c off n f).1.Inv := by
  unfold State.engPool
  split
  · exact h.engPoolFault _ _ _ _
  · exact hf _
theorem State.Inv.engPoolWrite (h : s.Inv) (e : Eng) (i : Nat) (c : Cmd) (off : Nat) (bs : List Byte) : (s.engPoolWrite e i c off bs).1.Inv :=
  State.Inv.cond_fst h ((h.poolWrite _ _).advance _ _ _)
theorem State.Inv.ppByte (h : s.Inv) (e : Eng) (i : Nat) (c : Cmd) {f : State → List Byte → State × Bool} (hf : ∀ bs, (f s bs).1.Inv) :
    (s.ppByte e i c f).1.Inv := State.Inv.cond_fst (h.engPool e i c _ 1 hf) (hf _)
theorem State.Inv.moveOne (h : s.Inv) (e : Eng) (i : Nat) : (s.moveOne e i).1.Inv := by
  unfold State.moveOne
  split
  · exact h
  · refine State.Inv.cond_fst h ?_
    split
    · exact h.engRead _ _ _ _ _ fun _ _ hx => hx.engPoolWrite _ _ _ _ _
    · exact h.engPool _ _ _ _ _ fun _ => h.engShade _ _ _ _ _
    · exact h.engRead _ _ _ _ _ fun _ _ hx => hx.engShade _ _ _ _ _
    · exact State.Inv.cond_fst (h.setCmds _ _) (h.ppByte _ _ _ fun _ => h.engPoolWrite _ _ _ _ _)
    · exact h.engPool _ _ _ _ _ fun _ => h.engRead _ _ _ _ _ fun _ _ hx => hx.engPoolWrite _ _ _ _ _
    · exact h.engPool _ _ _ _ _ fun _ => h.engPool _ _ _ _ _ fun _ => h.engShade _ _ _ _ _
    all_goals exact h
theorem State.Inv.moveMany (h : s.Inv) (e : Eng) (i n : Nat) : (State.moveMany e i n s).Inv := by
  induction n generalizing s with
  | zero => exact h
  | succ n ih => exact State.Inv.cond (ih (h.moveOne e i)) (h.moveOne e i)
theorem State.Inv.engCounts (h : s.Inv) (c : Cmd) (upto : Nat) : (s.engCounts c upto).Inv :=
  State.Inv.cond h (State.Inv.foldl (fun _ _ hx => hx.fallCount _ _) _ (State.Inv.foldl (fun _ _ hx => hx.l2Engine _ _) _ h))
theorem State.Inv.engRun (h : s.Inv) (e : Eng) (n : Nat) : (s.engRun e n).Inv := by
  unfold State.engRun
  split
  · exact h
  · split
    · exact h
    · exact ((((State.Inv.cond (h.copySample _) h).setCmds _ _).moveMany _ _ _).engCounts _ _).reap
theorem execEngineCommandStart_inv (h : s.Inv) (e : Eng) : OutInv (execEngineCommandStart e s) := (h.engRun _ _).next
theorem State.Inv.publishCells (h : s.Inv) (cs : List Host.Cell) (weight : Bool) : (s.publishCells cs weight).Inv :=
  (State.Inv.foldl (fun _ _ hx => hx.memRec _ _) _ (((State.Inv.foldl (fun _ _ hx => (hx.orderAt _ _ _).l2Engine _ _) _ (h.setEng _)).memWrite _ _ _
    _).coverAt _ _)).count _ _
theorem State.Inv.publishCmds (h : s.Inv) (p : Cmd → Bool) : (s.publishCmds p).Inv :=
  (State.Inv.foldl (fun _ _ hx => hx.copySample _) _ (h.setEng _)).publishCells _ _
theorem State.Inv.whenDue (h : s.Inv) (p : Cmd → Bool) {f : State → State} (hf : ∀ x, x.Inv → (f x).Inv) : (s.whenDue p f).Inv :=
  State.Inv.cond (hf _ (h.setEng _)) (h.setEng _)
theorem State.Inv.publishNext (h : s.Inv) : (s.publishNext).Inv := by
  unfold State.publishNext
  split
  · exact State.Inv.cond ((h.publishCmds _).reap) h
  · exact h
theorem execEnginePublish_inv (h : s.Inv) : OutInv (execEnginePublish s) := by
  refine State.Inv.next ?_
  split
  · exact State.Inv.cond (h.whenDue _ fun _ hx => hx.publishNext) h
  · exact h
theorem State.Inv.pubNext (h : s.Inv) : (s.pubNext).Inv := by
  unfold State.pubNext
  dsimp only
  split
  · exact State.Inv.cond (((h.publishCmds _).setEng _).reap) h
  · exact h
theorem execPubExecute_inv (h : s.Inv) : OutInv (execPubExecute s) := by
  refine State.Inv.next ?_
  split
  · exact State.Inv.cond (h.whenDue _ fun _ hx => hx.pubNext) h
  · exact h
theorem State.Inv.ecwNext (h : s.Inv) : (s.ecwNext).Inv := by
  unfold State.ecwNext
  dsimp only
  split
  · refine State.Inv.cond ?_ h
    refine State.Inv.cond ((h.publishCmds _).reap) ?_
    split
    · exact (((h.publishCmds _).reap).fillTlb _ _ _).engFault _ _ _ _ _
    · exact ((h.publishCmds _).reap).fillTlb _ _ _
    · exact (((((((((h.publishCmds _).reap).fillTlb _ _ _).copySample _).orderAt _ _ _).l2Engine _ _).store _ _ _ _).coverAt _ _).setEng _).touch
  · exact h
theorem execEcwExecute_inv (h : s.Inv) : OutInv (execEcwExecute s) := by
  refine State.Inv.next ?_
  split
  · exact State.Inv.cond (h.whenDue _ fun _ hx => hx.ecwNext) h
  · exact h
theorem execCompletionEntryPush_inv (h : s.Inv) (e : Eng) : OutInv (execCompletionEntryPush e s) := by
  refine State.Inv.next ?_
  split
  · refine State.Inv.cond h ?_
    cases e
    · exact (((h.leaveSamples _).setCmds _ _).setQ _).touch
    · exact ((h.setCmds _ _).setQ _).touch
  · exact h
theorem execMig_inv (h : s.Inv) (xa xb : XReg) : OutInv (execMig xa xb s) := (State.Inv.cond h.cStall (h.flushStore.of_mem.cRetire _ _ _ _)).next
theorem execMigTranslationLands_inv (h : s.Inv) (i : BitVec 3) : OutInv (execMigTranslationLands i s) := by
  refine State.Inv.next ?_
  split
  · exact h
  · refine State.Inv.cond h ?_
    split
    · exact (h.fillTlb _ _ _).of_mem
    · exact h.setMem
    · exact h
    · exact h.of_mem
    · exact (State.Inv.cond (h.post _ _) h).of_mem.deliverUnits
theorem execMigRd_inv (h : s.Inv) (xd : XReg) (sel : BitVec 2) : OutInv (execMigRd xd sel s) := h.flushStore.cExec _ _ _
theorem execWrfRd_inv (h : s.Inv) (xd xa : XReg) : OutInv (execWrfRd xd xa s) :=
  (State.Inv.cond h.cStall ((h.flushStore.replayed _ _ _ _).cRetire _ _ _ _)).next
theorem execRefreshWindowEnd_inv (h : s.Inv) (die : BitVec 2) (bank : BitVec 4) : OutInv (execRefreshWindowEnd die bank s) :=
  (State.Inv.cond (h.passCycles _) h).next
theorem execLsymRd_inv (h : s.Inv) (xd : XReg) (i : BitVec 3) : OutInv (execLsymRd xd i s) := h.cExec _ _ _
theorem execLsymPin_inv (h : s.Inv) (xa : XReg) (i : BitVec 3) : OutInv (execLsymPin xa i s) :=
  (State.Inv.cond h.cStall (State.Inv.cond (h.cRaise _ _) ((h.setSym _ _).cRetire _ _ _ _))).next
theorem execLsymFree_inv (h : s.Inv) (i : BitVec 3) : OutInv (execLsymFree i s) :=
  (State.Inv.cond (h.cRaise _ _) ((h.setSym _ _).cRetire _ _ _ _)).next
theorem State.Inv.bankFence (h : s.Inv) : (s.bankFence).Inv :=
  State.Inv.foldl (fun _ _ hx => (hx.l2Leave _).mscDrop _) _ ((State.Inv.foldl (fun _ _ hx => hx.granulePut _) _ (h.setNb _)).setC _)
theorem State.Inv.systemFence (h : s.Inv) : (s.systemFence).Inv := h.setMem
theorem State.Inv.fenceEffect (h : s.Inv) (kind : BitVec 2) : (s.fenceEffect kind).Inv := State.Inv.ite h.bankFence (State.Inv.ite h.systemFence h)
theorem State.Inv.fence (h : s.Inv) (kind : BitVec 2) : (s.fence kind).Inv :=
  State.Inv.cond ((h.flushStore.fenceEffect _).cRetire _ _ _ _) (h.flushStore.setC _)
theorem execFenceE_inv (h : s.Inv) : OutInv (execFenceE s) := (h.fence _).next
theorem execFenceB_inv (h : s.Inv) : OutInv (execFenceB s) := (h.fence _).next
theorem execFenceS_inv (h : s.Inv) : OutInv (execFenceS s) := (h.fence _).next
theorem execFenceF_inv (h : s.Inv) : OutInv (execFenceF s) := (h.fence _).next
theorem execNbFence_inv (h : s.Inv) : OutInv (execNbFence s) := (State.Inv.cond (h.flushStore.bankFence.cRetire _ _ _ _) (h.flushStore.setC _)).next
theorem execFenceComplete_inv (h : s.Inv) : OutInv (execFenceComplete s) := by
  unfold execFenceComplete
  refine State.Inv.next ?_
  split
  · exact State.Inv.cond ((h.fenceEffect _).cRetire _ _ _ _) h
  · exact State.Inv.cond (h.bankFence.cRetire _ _ _ _) h
  · exact h
theorem execMon_inv (h : s.Inv) (xd xa : XReg) : OutInv (execMon xd xa s) := by
  unfold execMon
  dsimp only
  refine State.Inv.next ?_
  refine State.Inv.cond h.cStall ?_
  refine State.Inv.cond (h.cRaise _ _) ?_
  split
  · exact (h.cEvent _).cFail _ _ _
  · exact State.Inv.cond ((h.cEvent _).cStall) ((((h.cEvent _).l1Hit _).setC _).cRetire _ _ _ _)
theorem State.Inv.requestLeave (h : s.Inv) (r : Leave) : (s.requestLeave r).Inv := State.Inv.cond h (h.setCtx _)
theorem State.Inv.beginSwitch (h : s.Inv) (p : BitVec 3) (v : BitVec 2) : (s.beginSwitch p v).Inv :=
  State.Inv.cond (((h.setPart _ _).swTrace _ _ _).requestLeave _) ((h.setPart _ _).swTrace _ _ _)
theorem State.Inv.directedYield (h : s.Inv) (line : Nat) : (s.directedYield line).Inv := by
  unfold State.directedYield
  dsimp only
  split
  · exact State.Inv.cond h ((h.setPart _ _).beginSwitch _ _)
  · exact h
theorem State.Inv.mwaitReturn (h : s.Inv) (xd : XReg) (srcs : List XReg) (reason : Nat) : (s.mwaitReturn xd srcs reason).Inv :=
  ((h.replayed _ _ _ _).setC _).cRetire _ _ _ _
theorem execMwait_inv (h : s.Inv) (xd xa : XReg) : OutInv (execMwait xd xa s) := by
  unfold execMwait
  dsimp only
  refine State.Inv.next ?_
  refine State.Inv.cond h.cStall ?_
  refine State.Inv.cond (h.mwaitReturn _ _ _) ?_
  split
  · exact h.mwaitReturn _ _ _
  · exact h.mwaitReturn _ _ _
  · exact h.mwaitReturn _ _ _
  · split
    · exact ((h.flushStore.xPop _).setC _).directedYield _
    · exact h.flushStore.mwaitReturn _ _ _
theorem execMwaitWake_inv (h : s.Inv) : OutInv (execMwaitWake s) := by
  unfold execMwaitWake
  refine State.Inv.next ?_
  split
  · exact h.endMwait _
  · exact h
theorem execMwaitTimeout_inv (h : s.Inv) : OutInv (execMwaitTimeout s) := by
  unfold execMwaitTimeout
  refine State.Inv.next ?_
  split
  · exact State.Inv.cond (h.endMwait _) h
  · exact h
theorem State.Inv.setBar (h : s.Inv) (b : BarCtr) : (s.setBar b).Inv := h.setPkg _
theorem State.Inv.setFab (h : s.Inv) (f : FabCtr) : (s.setFab f).Inv := h.setPkg _
theorem State.Inv.fabPut (h : s.Inv) (g : BitVec 12) (n : Nat) : (s.fabPut g n).Inv := h.setFab _
theorem State.Inv.fabArrive (h : s.Inv) (pkg : BitVec 8) (g : BitVec 12) : (s.fabArrive pkg g).Inv :=
  State.Inv.cond h (State.Inv.cond (h.setFab _) (State.Inv.cond (h.setFab _) (h.setFab _)))
theorem State.Inv.fabSend (h : s.Inv) (g : BitVec 12) : (s.fabSend g).Inv := State.Inv.cond (h.again _) (h.fabArrive _ _)
theorem State.Inv.barArrive (h : s.Inv) (l : BitVec 2) (g : BitVec 12) (members : Nat) : (s.barArrive l g members).Inv :=
  State.Inv.ite (State.Inv.cond ((h.setBar _).fabSend _) (h.setBar _)) (State.Inv.cond (h.setBar _) (h.setBar _))
theorem State.Inv.barDo (h : s.Inv) (l : BitVec 2) (mid : Bool) : (s.barDo l mid).Inv := (h.setC _).barArrive _ _ _
theorem State.Inv.barSleep (h : s.Inv) (i : Instr) : (s.barSleep i).Inv := h.setC _
theorem State.Inv.barWait (h : s.Inv) (i : Instr) (l : BitVec 2) : (s.barWait i l).Inv := State.Inv.cond ((h.setC _).cRetire _ _ _ _) (h.barSleep _)
theorem State.Inv.barA (h : s.Inv) (xd : XReg) (l : BitVec 2) : (s.barA xd l).Inv :=
  State.Inv.cond h.cStall (State.Inv.cond (h.cRaise _ _) (State.Inv.cond ((h.flushStore.barDo _ _).cRetire _ _ _ _) (h.flushStore.barSleep _)))
theorem State.Inv.barW (h : s.Inv) (l : BitVec 2) : (s.barW l).Inv := State.Inv.cond (h.cRaise _ _) (h.flushStore.barWait _ _)
theorem State.Inv.barAW (h : s.Inv) (l : BitVec 2) : (s.barAW l).Inv :=
  State.Inv.cond (h.cRaise _ _) (State.Inv.cond (h.flushStore.barWait _ _) (State.Inv.cond ((h.flushStore.barDo _ _).barWait _ _)
    (h.flushStore.barSleep _)))
theorem execBar_inv (h : s.Inv) (l : BitVec 2) : OutInv (execBar l s) := (h.barAW _).next
theorem execBarA_inv (h : s.Inv) (xd : XReg) (l : BitVec 2) : OutInv (execBarA xd l s) := (h.barA _ _).next
theorem execBarW_inv (h : s.Inv) (l : BitVec 2) : OutInv (execBarW l s) := (h.barW _).next
theorem execBarrierWake_inv (h : s.Inv) : OutInv (execBarrierWake s) := by
  unfold execBarrierWake
  refine State.Inv.next ?_
  split
  · exact h.barAW _
  · exact h.barA _ _
  · exact h.barW _
  · exact h
theorem execTokPush_inv (h : s.Inv) (next : Bool) : OutInv (execTokPush next s) :=
  (State.Inv.cond (((h.flushStore.tokReserve _ _).tokGive _ _).cRetire _ _ _ _) h.cStall).next
theorem execTokPop_inv (h : s.Inv) (next : Bool) : OutInv (execTokPop next s) := (State.Inv.cond ((h.tokTake _ _).cRetire _ _ _ _) h.cStall).next
theorem execTsub_inv (h : s.Inv) (xa : XReg) (q : BitVec 6) : OutInv (execTsub xa q s) :=
  (State.Inv.cond h.cStall (State.Inv.cond (h.cRaise _ _) (State.Inv.cond (h.cRaise _ _) (State.Inv.cond h.cStall ((h.flushStore.setQ _).cRetire _ _
    _ _))))).next
theorem State.Inv.predSeen (h : s.Inv) (p : BitVec 3) (f : BitVec 2) (a : Word64) (v : Nat) : (s.predSeen p f a v).Inv := h.setPart _ _
theorem execTdep_inv (h : s.Inv) (xd xa : XReg) : OutInv (execTdep xd xa s) := by
  unfold execTdep
  dsimp only
  refine State.Inv.next ?_
  refine State.Inv.cond h.cStall ?_
  refine State.Inv.cond (h.cRaise _ _) ?_
  split
  · exact (h.cEvent _).cFail _ _ _
  · exact State.Inv.cond ((h.cEvent _).cStall) (((State.Inv.cond (((h.cEvent _).l2Hit _).rmwFirst _) ((((h.cEvent _).l2Hit _).rmwFirst _).store _ _ _
      _)).predSeen _ _ _ _).cRetire _ _ _ _)
theorem execYield_inv (h : s.Inv) (strict : Bool) : OutInv (execYield strict s) :=
  (((State.Inv.cond h ((h.setCtx _).setV _)).flushStore).cRetire _ _ _ _).next
theorem State.Inv.setHeld (h : s.Inv) (k : Strand) (l : List (Word64 × List Byte)) : (s.setHeld k l).Inv := by
  cases k with
  | c => exact h.setC _
  | l => exact h.setLS _ _
  | s => exact h.setLS _ _
  | v => exact h.setV _
theorem State.Inv.fetchFill (h : s.Inv) (k : Strand) (va : Word64) : (s.fetchFill k va).Inv := h.fillTlb _ _ _
theorem State.Inv.fetch (h : s.Inv) (k : Strand) : (s.fetch k).1.Inv := by
  unfold State.fetch
  dsimp only
  split
  · exact h
  · split
    · exact h.fetchFill _ _
    · exact h.fetchFill _ _
    · refine State.Inv.cond_fst (h.fetchFill _ _) ?_
      split
      · exact h.fetchFill _ _
      · exact (h.fetchFill _ _).setHeld _ _
theorem State.Inv.fetchAhead (h : s.Inv) (k : Strand) (va : Word64) : (s.fetchAhead k va).Inv := by
  unfold State.fetchAhead
  dsimp only
  refine State.Inv.cond h ?_
  split
  · exact h.fetchFill _ _
  · exact State.Inv.cond (h.fetchFill _ _) ((h.fetchFill _ _).setHeld _ _)
theorem execNbLd_inv (h : s.Inv) (xa : XReg) (slot : BitVec 2) : OutInv (execNbLd xa slot s) := by
  have hb := h.cBytes (s.xRead xa) 32
  refine State.Inv.next (State.Inv.cond h.cStall (State.Inv.cond (h.cRaise _ _) ?_))
  split
  · next t f va e =>
    rw [e] at hb
    exact State.Inv.cFail hb _ _ _
  · next t e =>
    rw [e] at hb
    exact State.Inv.cStall hb
  · next t raw e =>
    rw [e] at hb
    have ht : t.Inv := hb
    exact State.Inv.cond (ht.cRaise _ _) ((ht.setNb _).cRetire _ _ _ _)
theorem State.Inv.nbLine (h : s.Inv) (what : String) : (s.nbLine what).Inv := State.Inv.cond (h.setDbg _) h
theorem State.Inv.nbTrace (h : s.Inv) (what : String) : (s.nbTrace what).Inv := State.Inv.cond h (h.nbLine _)
theorem execNbGo_inv (h : s.Inv) (xd xa xb : XReg) (done : Bool) (slot : BitVec 2) : OutInv (execNbGo xd xa xb done slot s) := by
  unfold execNbGo
  dsimp only
  refine State.Inv.next ?_
  refine State.Inv.cond h.cStall ?_
  refine State.Inv.cond (h.cRaise _ _) ?_
  refine State.Inv.cond (h.cRaise _ _) ?_
  split
  · exact (h.cEvent _).cRaise _ _
  · exact (h.cEvent _).cRaise _ _
  · exact (h.cEvent _).cRaise _ _
  · exact (h.cEvent _).cStall
  · refine State.Inv.cond ((h.cEvent _).cRaise _ _) ?_
    refine State.Inv.cond ((h.cEvent _).cRaise _ _) ?_
    split
    · exact (h.cEvent _).cRaise _ _
    · exact State.Inv.cond ((h.cEvent _).cStall) ((((h.cEvent _).setNb _).cRetire _ _ _ _).nbTrace _)
theorem execNbRd_inv (h : s.Inv) (xd xa : XReg) (sel : BitVec 3) : OutInv (execNbRd xd xa sel s) :=
  (State.Inv.cond (h.flushStore.cRetire _ _ _ _) h.cStall).next
theorem State.Inv.clearTrackers (h : s.Inv) : (s.clearTrackers).Inv := State.Inv.cond (h.setPkg _) h
theorem execTrackerClear_inv (h : s.Inv) : OutInv (execTrackerClear s) := h.clearTrackers.next
theorem State.Inv.setNbCmd (h : s.Inv) (i : Nat) (c : NbCmd) : (s.setNbCmd i c).Inv := h.setNb _
theorem execNbDispatch_inv (h : s.Inv) : OutInv (execNbDispatch s) := by
  refine State.Inv.next ?_
  split
  · split
    · exact State.Inv.cond (h.setNbCmd _ _) h
    · exact h
  · exact h
theorem State.Inv.nbFault (h : s.Inv) (i : Nat) (c : NbCmd) (pa : Nat) (va : Word64) : (s.nbFault i c pa va).Inv :=
  (((State.Inv.cond (h.post _ _) h).setNb _).setNbCmd _ _).deliverUnits
theorem State.Inv.nbPrepare (h : s.Inv) (c : NbCmd) (w : Word64) : (s.nbPrepare c w).Inv :=
  State.Inv.foldl (fun _ _ hx => hx.activate _) _ h.setMem
theorem State.Inv.nbYield (h : s.Inv) (i : Nat) : (s.nbYield i).Inv := by
  unfold State.nbYield
  split
  · exact State.Inv.cond ((h.setNbCmd _ _).nbTrace _) (h.nbTrace _)
  · exact h
theorem State.Inv.nbRowStep (h : s.Inv) (i : Nat) (c : NbCmd) (w : Word64) : (s.nbRowStep i c w).Inv := by
  unfold State.nbRowStep
  dsimp only
  split
  · exact (State.Inv.foldl (fun _ _ hx => hx.activate _) _ (State.Inv.cond ((State.Inv.cond h (h.owe _ _)).nbPrepare _ _) (State.Inv.cond h (h.owe _
      _)))).nbFault _ _ _ _
  · exact State.Inv.cond (((State.Inv.foldl (fun _ _ hx => hx.activate _) _ (State.Inv.cond ((State.Inv.cond h (h.owe _ _)).nbPrepare _ _)
      (State.Inv.cond h (h.owe _ _)))).orderLines _ _ _).setNbCmd _ _) (((((State.Inv.foldl (fun _ _ hx => hx.activate _) _ (State.Inv.cond
        ((State.Inv.cond h (h.owe _ _)).nbPrepare _ _) (State.Inv.cond h (h.owe _ _)))).orderLines _ _ _).setMem).setNb _).setNbCmd _ _)
theorem execNbRowStep_inv (h : s.Inv) (i : BitVec 3) : OutInv (execNbRowStep i s) := by
  unfold execNbRowStep
  refine State.Inv.next ?_
  split
  · refine State.Inv.cond h ?_
    split
    · exact State.Inv.cond h ((h.nbRowStep _ _ _).nbYield _)
    · exact h
  · exact h
theorem State.Inv.nbResumed (h : s.Inv) (i : Nat) : (s.nbResumed i).Inv := by
  unfold State.nbResumed
  split
  · exact State.Inv.cond ((h.setNbCmd _ _).nbTrace _) h
  · exact h
theorem execNbResume_inv (h : s.Inv) (i : BitVec 3) : OutInv (execNbResume i s) := by
  unfold execNbResume
  refine State.Inv.next ?_
  split
  · exact State.Inv.cond (h.nbResumed _) h
  · exact h
theorem State.Inv.nbSuspend (h : s.Inv) (i : Nat) : (s.nbSuspend i).Inv := by
  unfold State.nbSuspend
  split
  · exact State.Inv.cond ((h.setNbCmd _ _).nbLine _) h
  · exact h
theorem State.Inv.nbServed (h : s.Inv) (i : Nat) : (s.nbServed i).Inv := by
  unfold State.nbServed
  split
  · exact State.Inv.cond ((h.setNbCmd _ _).nbLine _) h
  · exact h
theorem State.Inv.nbLeave (h : s.Inv) (i : Nat) : (s.nbLeave i).Inv := (h.setNb _).touch
theorem State.Inv.nbGive (h : s.Inv) (i : Nat) (c : NbCmd) : (s.nbGive i c).Inv := State.Inv.cond h ((h.setNb _).of_mem.setNbCmd _ _)
theorem State.Inv.nbFinish (h : s.Inv) (i : Nat) : (s.nbFinish i).Inv := by
  unfold State.nbFinish
  dsimp only
  split
  · exact State.Inv.cond h (State.Inv.cond ((h.nbLeave _).nbTrace _) (State.Inv.cond h (State.Inv.cond (h.nbGive _ _) ((((State.Inv.cond ((h.nbGive _
      _).setQ _) (h.nbGive _ _)).nbLeave _).takeSample _ _).nbTrace _))))
  · exact h
theorem execNbComplete_inv (h : s.Inv) (i : BitVec 3) : OutInv (execNbComplete i s) := by
  unfold execNbComplete
  refine State.Inv.next ?_
  split
  · exact State.Inv.cond (h.nbFinish _) (State.Inv.cond (h.setNbCmd _ _) h)
  · exact h
theorem execNbGranuleWrite_inv (h : s.Inv) : OutInv (execNbGranuleWrite s) := by
  refine State.Inv.next ?_
  split
  · exact State.Inv.cond h.of_mem ((h.of_mem.setNb _).granulePut _)
  · exact h
theorem OutInv.orElse {o : Out} (ho : OutInv o) (h : s.Inv) : (o.orElse s).Inv := by
  cases o with
  | next t => exact ho t rfl
  | _ => exact h
theorem State.Inv.unitDo (h : s.Inv) (i : Instr) : (s.unitDo i).Inv := by
  unfold State.unitDo
  split
  · exact (execEngineCommandStart_inv h _).orElse h
  · exact (execCompletionEntryPush_inv h _).orElse h
  · exact h.publishNext
  · exact h.pubNext
  · exact h.ecwNext
  · exact (execNbDispatch_inv h).orElse h
  · exact (execNbRowStep_inv h _).orElse h
  · exact (execNbResume_inv h _).orElse h
  · exact h.nbFinish _
  · exact h
theorem State.Inv.nbDrain (h : s.Inv) (n : Nat) : (State.nbDrain n s).Inv := by
  induction n generalizing s with
  | zero => exact h
  | succ n ih =>
    unfold State.nbDrain
    split
    · exact ih (h.unitDo _)
    · exact h
theorem State.Inv.nbServe (h : s.Inv) : s.nbServe.Inv := by
  refine State.Inv.foldl (fun x i hx => ?_) _ h
  split
  · exact (State.Inv.foldl (fun _ _ hy => hy.nbServed _) _ hx).nbResumed _
  · exact hx
theorem State.Inv.nbRun (h : s.Inv) : s.nbRun.Inv := h.nbServe.nbDrain _
theorem State.Inv.engDrain (h : s.Inv) (n : Nat) : (State.engDrain n s).Inv := by
  induction n generalizing s with
  | zero => exact h
  | succ n ih => exact State.Inv.cond h (ih (State.Inv.foldl (fun _ _ hx => hx.unitDo _) _ h))
theorem State.Inv.publishAll (h : s.Inv) (n : Nat) : (State.publishAll n s).Inv := by
  induction n generalizing s with
  | zero => exact h
  | succ n ih => exact State.Inv.cond h (ih (State.Inv.foldl (fun _ _ hx => hx.unitDo _) _ h))
theorem State.Inv.smpWrite (h : s.Inv) (b : List Byte) : (s.smpWrite b).Inv := by
  unfold State.smpWrite
  dsimp only
  refine State.Inv.cond (h.setDbg _) ?_
  split
  · exact (h.storeCells _ _ _).setDbg _
  · exact h.setDbg _
theorem State.Inv.loopSnap (h : s.Inv) (l : Loop) : (s.loopSnap l).Inv := State.Inv.cond (h.setDbg _) ((h.setDbg _).smpWrite _)
theorem State.Inv.loopSnapshot (h : s.Inv) (before : List Loop) : (s.loopSnapshot before).Inv := State.Inv.foldl (fun _ _ hx => hx.loopSnap _) _ h
theorem State.Inv.markerRetire (h : s.Inv) : (s.markerRetire).Inv := by
  unfold State.markerRetire
  dsimp only
  split
  · exact State.Inv.cond (((h.smpWrite _).setDbg _).of_mem) (State.Inv.cond (h.setDbg _) (h.setDbg _))
  · exact h
theorem State.Inv.placeMarker (h : s.Inv) (k : Strand) : (s.placeMarker k).Inv := State.Inv.cond h (h.setDbg _)
theorem State.Inv.samplerDue (h : s.Inv) : (s.samplerDue).Inv := by
  unfold State.samplerDue
  refine State.Inv.cond h ?_
  split
  · exact h.placeMarker _
  · exact h
theorem State.Inv.fetchCounts (h : s.Inv) (d : Desc) (ps : List Nat) : (s.fetchCounts d ps).Inv := (State.fetchCounts_serves s d ps).2 h
theorem State.Inv.arrive (h : s.Inv) (r : SReg) : (s.arrive r).Inv := by
  unfold State.arrive
  dsimp only
  split
  · exact h
  · exact State.Inv.cond h (State.Inv.cond (h.setDesc _ _) (State.Inv.cond h (State.Inv.foldl (fun _ _ hx => hx.sampleAt _ _ _) _ ((h.fetchCounts _
      _).setDesc _ _))))
theorem State.Inv.askBlocks (h : s.Inv) (r : SReg) (n : Nat) : (s.askBlocks r n).Inv := State.Inv.cond ((State.Inv.cond h (h.setDesc _ _)).arrive _) h
theorem State.Inv.arrivals (h : s.Inv) : (s.arrivals).Inv := State.Inv.foldl (fun _ _ hx => hx.arrive _) _ h
theorem State.Inv.streamAhead (h : s.Inv) (r : SReg) : (s.streamAhead r).Inv :=
  State.Inv.cond h (State.Inv.cond (h.askBlocks _ _) ((h.fetchCounts _ _).setDesc _ _))
theorem State.Inv.streamLate (h : s.Inv) (r : SReg) (late : Bool) : (s.streamLate r late).Inv := State.Inv.cond h ((h.setDesc _ _).stir)
theorem State.Inv.pushElem (h : s.Inv) (d : Desc) (e : Nat) (v : Nat) : (s.pushElem d e v).Inv := (State.pushElem_serves s d e v).2 h
theorem State.Inv.pushAll (h : s.Inv) (r : SReg) (es : List (Nat × Nat)) (v : Nat → Nat) : (s.pushAll r es v).Inv :=
  (((State.Inv.foldl (fun _ _ hx => hx.pushElem _ _ _) _ (h.l2Hits _)).coverAt _ _).setDesc _ _).count _ _
theorem State.Inv.redElem (h : s.Inv) (d : Desc) (op : RedOp) (e : Nat) (v : Nat) : (s.redElem d op e v).Inv :=
  State.Inv.cond (h.contribute _ _ _ _ _ _) ((((h.l2Hits _).storeCells _ _ _).coverAt _ _).fpCount _)

end


/-! ### The words of L and S -/

section
variable {s : State}

theorem State.Inv.lsWrites (h : s.Inv) (k : LS) (y : Option (YReg × Word32)) : (s.lsWrites k y).Inv := by
  unfold State.lsWrites
  split
  · exact h.yWrite _ _ _
  · exact h
theorem State.Inv.lsGoes (h : s.Inv) (k : LS) (next : Option (List Loop × Word64)) : (s.lsGoes k next).Inv := by
  unfold State.lsGoes
  split
  · exact h.setLS _ _
  · exact h
theorem State.Inv.lsEnds (h : s.Inv) (k : LS) (ends : Bool) : (s.lsEnds k ends).Inv := State.Inv.cond (h.setLS _ _) h
theorem State.Inv.lsRetire (h : s.Inv) (k : LS) (r : Retire) : (s.lsRetire k r).Inv :=
  (((((h.lsWrites _ _).tokRetire _ _).lsGoes _ _).lsEnds _ _).touch).count _ _
theorem State.Inv.lsDrain (k : LS) (l : List Retire) {s : State} (h : s.Inv) : (State.lsDrain k l s).Inv := by
  induction l generalizing s with
  | nil => exact h.setLS _ _
  | cons r l ih => exact State.Inv.cond (h.setLS _ _) (ih (h.lsRetire _ _))
theorem State.Inv.lsDataDone (h : s.Inv) (k : LS) : (s.lsDataDone k).Inv := by
  unfold State.lsDataDone
  split
  · exact h
  · exact State.Inv.lsDrain _ _ (h.lsRetire _ _)
theorem State.Inv.lsComplete (k : LS) (n : Nat) {s : State} (h : s.Inv) : (State.lsComplete k n s).Inv := by
  induction n generalizing s with
  | zero => exact h
  | succ n ih => exact State.Inv.cond h (ih (h.lsDataDone _))
theorem State.Inv.atBoundary (h : s.Inv) : s.atBoundary.Inv := State.Inv.lsComplete _ _ (State.Inv.lsComplete _ _ h)
theorem State.Inv.lsGoOn (h : s.Inv) (w : LSWord) (r : Retire) : (s.lsGoOn w r).Inv :=
  State.Inv.cond (State.Inv.cond (((((h.yPop _ _).tokIssue _ _).setLS _ _).setLS _ _).touch) ((((h.yPop _ _).tokIssue _ _).setLS _ _).setLS _ _))
    ((((h.yPop _ _).tokIssue _ _).setLS _ _).lsRetire _ _)
/-- What a word of L or S does at its issue keeps the form. -/
def ActInv : LSAct → Prop
  | .go t _ | .faulted t | .waits t => t.Inv
  | _ => True
theorem ActInv.cond {b : Bool} {x y : LSAct} (hx : ActInv x) (hy : ActInv y) : ActInv (bif b then x else y) := by cases b <;> assumption
theorem State.Inv.lsIssue (h : s.Inv) (w : LSWord) (hact : ∀ t : State, t.Inv → ActInv (w.act t)) : (s.lsIssue w).Inv := by
  unfold State.lsIssue
  dsimp only
  have hk := h.setLS w.k { s.ls w.k with waits := false }
  refine State.Inv.cond (hk.hold _) ?_
  split
  · exact hk.raise _ _ _ _ _ _
  · refine State.Inv.cond (hk.raise _ _ _ _ _ _) (State.Inv.cond (hk.hold _) ?_)
    have ha := hact _ hk
    split
    · exact (hk.hold _).setLS _ _
    · next e => rw [e] at ha; exact (State.Inv.hold ha _).setLS _ _
    · exact hk.raise _ _ _ _ _ _
    · next e => rw [e] at ha; exact ha
    · next e => rw [e] at ha; exact State.Inv.lsGoOn ha _ _
/-- A word whose act changes nothing. -/
theorem State.Inv.lsIssue_go (h : s.Inv) (w : LSWord) (y : Option (YReg × Word32)) (hw : w.act = fun s => .go s y) : (s.lsIssue w).Inv :=
  h.lsIssue w fun t ht => by rw [hw]; exact ht
theorem ActInv.stops (h : s.Inv) (k : Strand) (r : SReg) (own : Option (BitVec 8 × Word64)) (fails : List (XFail × Nat × Bool × Word64)) :
    ActInv (s.stops k r own fails) := by
  unfold State.stops
  dsimp only
  split
  · exact ActInv.cond (h.streamFault _ _ _ _ _ _ _) trivial
  · exact h.streamFault _ _ _ _ _ _ _
  · trivial
  · trivial
theorem ActInv.pushWord (h : s.Inv) {i : Instr} {vr : BitVec 5} {r : SReg} {at_ : Nat} {fmt : Nat} {len : BitVec 11} {need : Need} {bad : Bool}
    {more : State → Desc → List Nat → List (XFail × Nat × Bool × Word64)} {f : State → List (Nat × Nat) → List Byte → LSAct}
    (hf : ∀ (t : State) es b, t.Inv → ActInv (f t es b)) : ActInv (s.pushWord i vr r at_ fmt len need bad more f) := by
  unfold State.pushWord
  dsimp only
  refine ActInv.cond trivial ?_
  split
  · exact ActInv.stops (h.fillFor _ _) _ _ _ _
  · exact ActInv.stops (h.fillFor _ _) _ _ _ _
  · exact ActInv.stops (h.fillFor _ _) _ _ _ _
  · split
    · trivial
    · exact hf _ _ _ ((h.fillFor _ _).fallCount _ _)
    · exact ActInv.stops ((h.fillFor _ _).fillFor _ _) _ _ _ _
theorem State.lsY_inv (h : s.Inv) (k : LS) (i : Instr) (tok : Tokens) (mk : BitVec 2) (srcs : List YReg) (yd : YReg) (v : Word32) :
    OutInv (s.lsY k i tok mk srcs yd v) :=
  (h.lsIssue_go _ _ rfl).next
theorem execYadd_inv (h : s.Inv) (k : LS) (tok : Tokens) (mk : BitVec 2) (yd ya yb : YReg) : OutInv (execYadd k tok mk yd ya yb s) :=
  s.lsY_inv h _ _ _ _ _ _ _
theorem execYaddi_inv (h : s.Inv) (k : LS) (tok : Tokens) (mk : BitVec 2) (yd ya : YReg) (imm : BitVec 32) :
    OutInv (execYaddi k tok mk yd ya imm s) :=
  s.lsY_inv h _ _ _ _ _ _ _
theorem execYmov_inv (h : s.Inv) (k : LS) (tok : Tokens) (mk : BitVec 2) (yd ya : YReg) : OutInv (execYmov k tok mk yd ya s) :=
  s.lsY_inv h _ _ _ _ _ _ _
theorem execYrd_inv (h : s.Inv) (k : LS) (tok : Tokens) (mk : BitVec 2) (yd : YReg) (sel : BitVec 32) (lid : BitVec 8) :
    OutInv (execYrd k tok mk yd sel lid s) :=
  s.lsY_inv h _ _ _ _ _ _ _
theorem execLbeg_inv (h : s.Inv) (k : LS) (tok : Tokens) (lid : BitVec 8) (ya : YReg) (imm : BitVec 32) : OutInv (execLbeg k tok lid ya imm s) :=
  (h.lsIssue_go _ _ rfl).next
theorem execLend_inv (h : s.Inv) (k : LS) (tok : Tokens) (lid : BitVec 8) : OutInv (execLend k tok lid s) := (h.lsIssue_go _ _ rfl).next
theorem execLbr_inv (h : s.Inv) (k : LS) (tok : Tokens) (mk : BitVec 2) (lid : BitVec 8) (ya : YReg) : OutInv (execLbr k tok mk lid ya s) :=
  (h.lsIssue_go _ _ rfl).next
theorem execLsEnd_inv (h : s.Inv) (k : LS) (tok : Tokens) (mk : BitVec 2) : OutInv (execLsEnd k tok mk s) := (h.lsIssue_go _ _ rfl).next
theorem execLsHint_inv (h : s.Inv) (k : LS) (tok : Tokens) (mk : BitVec 2) (payload : BitVec 52) : OutInv (execLsHint k tok mk payload s) :=
  (h.lsIssue_go _ _ rfl).next
theorem execDataWordRetire_inv (h : s.Inv) (k : LS) : OutInv (execDataWordRetire k s) := (h.lsDataDone _).next
theorem execVld_inv (h : s.Inv) (tok : Tokens) (mk : BitVec 2) (vr : BitVec 5) (r : SReg) (ya : YReg) (fmt : BitVec 4) (toPool : Bool) (len : BitVec
    11)
    (off : BitVec 21) : OutInv (execVld tok mk vr r ya fmt toPool len off s) := by
  refine State.Inv.next (h.lsIssue _ fun t ht => ?_)
  refine ActInv.cond trivial ?_
  dsimp only
  split
  · exact ActInv.stops (ht.fillFor _ _) _ _ _ _
  · exact ActInv.stops (ht.fillFor _ _) _ _ _ _
  · refine ActInv.cond (ht.askBlocks _ _) ?_
    have hf : ∀ n d es, ((t.askBlocks r n).fillFor d es).Inv := fun _ _ _ => (ht.askBlocks _ _).fillFor _ _
    split
    · trivial
    · exact ActInv.stops (hf _ _ _) _ _ _ _
    · have hg : ∀ n d es d' m x, ((((t.askBlocks r n).fillFor d es).fetchCounts d' m).setDesc r x).Inv := fun _ _ _ _ _ _ => ((hf _ _ _).fetchCounts
        _ _).setDesc _ _
      exact State.Inv.count (State.Inv.cond ((((hg _ _ _ _ _ _).ite ((hg _ _ _ _ _ _).poolWrite _ _)).poolWrite _ _).fallCount _ _) ((hg _ _ _ _ _
        _).ite ((hg _ _ _ _ _ _).poolWrite _ _))) _ _
theorem execPld_inv (h : s.Inv) (tok : Tokens) (mk : BitVec 2) (vr : BitVec 5) (ya : YReg) (fmt : BitVec 4) (len : BitVec 11) (off : BitVec 21) :
    OutInv (execPld tok mk vr ya fmt len off s) := by
  refine State.Inv.next (h.lsIssue _ fun t ht => ?_)
  refine ActInv.cond trivial ?_
  split
  · trivial
  · trivial
  · trivial
  · exact (ht.poolWrite _ _).fallCount _ _
theorem execWload_inv (h : s.Inv) (tok : Tokens) (mk : BitVec 2) (r : SReg) (ya : YReg) (fmt : BitVec 4) (part : BitVec 2) (rows : BitVec 11) (row :
    BitVec 7) :
    OutInv (execWload tok mk r ya fmt part rows row s) := by
  refine State.Inv.next (h.lsIssue _ fun t ht => ?_)
  refine ActInv.cond trivial ?_
  dsimp only
  split
  · exact ActInv.stops (ht.fillFor _ _) _ _ _ _
  · refine ActInv.cond (ht.askBlocks _ _) ?_
    have hf : ∀ n d es, ((t.askBlocks r n).fillFor d es).Inv := fun _ _ _ => (ht.askBlocks _ _).fillFor _ _
    split
    · trivial
    · exact ActInv.stops (hf _ _ _) _ _ _ _
    · have hg : ∀ n d es d' m x, ((((t.askBlocks r n).fillFor d es).fetchCounts d' m).setDesc r x).Inv := fun _ _ _ _ _ _ => ((hf _ _ _).fetchCounts
        _ _).setDesc _ _
      exact State.Inv.count (State.Inv.cond (State.Inv.setTen (State.Inv.cond ((hg _ _ _ _ _ _).of_mem.setTen _) (hg _ _ _ _ _ _).of_mem) _)
        (State.Inv.cond ((hg _ _ _ _ _ _).of_mem.setTen _) (hg _ _ _ _ _ _).of_mem)) _ _
theorem execVst_inv (h : s.Inv) (tok : Tokens) (mk : BitVec 2) (vr : BitVec 5) (r : SReg) (ya : YReg) (fmt : BitVec 4) (rm : BitVec 2) (len : BitVec
    11)
    (off : BitVec 21) : OutInv (execVst tok mk vr r ya fmt rm len off s) := by
  refine State.Inv.next (h.lsIssue _ fun t ht => ?_)
  dsimp only
  refine ActInv.pushWord ht ?_
  intro u es b hu
  exact (hu.pushAll _ _ _).fpCount _
theorem execPst_inv (h : s.Inv) (tok : Tokens) (mk : BitVec 2) (vr : BitVec 5) (ya : YReg) (len : BitVec 11) (off : BitVec 21) :
    OutInv (execPst tok mk vr ya len off s) := by
  refine State.Inv.next (h.lsIssue _ fun t ht => ?_)
  dsimp only
  split
  · trivial
  · trivial
  · trivial
  · exact (ht.poolWrite _ _).fallCount _ _
theorem State.vred_inv (h : s.Inv) (i : Instr) (op : RedOp) (tok : Tokens) (mk : BitVec 2) (vr : BitVec 5) (r : SReg) (ya : YReg) (fmt : BitVec 4)
    (len : BitVec 11) (off : BitVec 21) : OutInv (s.vred i op tok mk vr r ya fmt len off) := by
  refine State.Inv.next (h.lsIssue _ fun t ht => ?_)
  dsimp only
  refine ActInv.pushWord ht ?_
  intro u es b hu
  refine ActInv.cond trivial ?_
  exact State.Inv.count (State.Inv.setDesc (State.Inv.foldl (fun _ _ hx => (hx.redElem _ _ _ _).fpCount _) _ hu) _ _) _ _
theorem execVredAdd_inv (h : s.Inv) (tok : Tokens) (mk : BitVec 2) (vr : BitVec 5) (r : SReg) (ya : YReg) (fmt : BitVec 4) (len : BitVec 11) (off :
    BitVec 21) :
    OutInv (execVredAdd tok mk vr r ya fmt len off s) := s.vred_inv h _ _ _ _ _ _ _ _ _ _
theorem execVredMin_inv (h : s.Inv) (tok : Tokens) (mk : BitVec 2) (vr : BitVec 5) (r : SReg) (ya : YReg) (fmt : BitVec 4) (len : BitVec 11) (off :
    BitVec 21) :
    OutInv (execVredMin tok mk vr r ya fmt len off s) := s.vred_inv h _ _ _ _ _ _ _ _ _ _
theorem execVredMax_inv (h : s.Inv) (tok : Tokens) (mk : BitVec 2) (vr : BitVec 5) (r : SReg) (ya : YReg) (fmt : BitVec 4) (len : BitVec 11) (off :
    BitVec 21) :
    OutInv (execVredMax tok mk vr r ya fmt len off s) := s.vred_inv h _ _ _ _ _ _ _ _ _ _

end


/-! ### V: its ticks and its bundles -/

section
variable {s : State}

theorem State.Inv.streamSample (h : s.Inv) (x : Due) : (s.streamSample x).Inv := h.sampleAt _ _ _
/-- The consumptions that a tick makes keep the form. -/
theorem State.Inv.consume (l : List Due) {s u : State} (h : s.Inv) (hu : s.consume l = .ok u) : u.Inv := by
  induction l generalizing s with
  | nil => cases hu; exact h
  | cons x t ih =>
    rw [State.consume] at hu
    dsimp only at hu
    cases hc : s.notCome x <;> rw [hc] at hu
    · dsimp only [cond_false] at hu
      split at hu
      · cases hu
      · split at hu
        · cases hu
        · cases hu
        · exact ih ((((((h.fillFor _ _).fetchCounts _ _).setDesc _ _).setV _).count _ _).streamSample _) hu
    · cases hu
/-- What a tick makes of the machine keeps the form. -/
def TickInv : VTick → Prop | .took t | .stretched t _ | .caused t => t.Inv
theorem State.Inv.heldTick (h : s.Inv) (x : VHeld) : TickInv (s.heldTick x) := by
  cases x
  · exact h
  · exact h.setDesc _ _
  · exact h.streamFault _ _ _ _ _ _ _
  · exact h.raise _ _ _ _ _ _
  · exact h.raise _ _ _ _ _ _
theorem State.Inv.mSchedule (h : s.Inv) (l done : List Flight) : (s.mSchedule l done).Inv := by
  induction l generalizing s done with
  | nil => exact h.setV _
  | cons f t ih =>
    rw [State.mSchedule]
    split
    · exact ih h _
    · exact State.Inv.cond (ih h _) (State.Inv.cond (h.setV _) (ih (h.setV _) _))
theorem State.Inv.wake (h : s.Inv) (t : Nat) : (s.wake t).Inv := State.Inv.cond h.of_mem.laneWakes h.of_mem
theorem State.Inv.beatCount (h : s.Inv) (t from_ : Nat) : (s.beatCount t from_).Inv := State.Inv.cond h (h.count _ _)
theorem State.Inv.grabs (h : s.Inv) (t : Nat) : (s.grabs t).Inv := by
  refine State.Inv.foldl (fun x f hx => ?_) _ h
  split
  · refine State.Inv.cond hx ?_
    split
    · exact State.Inv.cond (hx.setV _) hx
    · exact State.Inv.cond ((hx.setV _).fpCount _) hx
    · exact State.Inv.cond ((hx.setV _).fpCount _) hx
    · exact hx
  · exact hx
theorem State.Inv.deliverTo (h : s.Inv) (f : Flight) (d : OpCode) (fmt : Nat) (rs : List FRes) : (s.deliverTo f d fmt rs).Inv := by
  unfold State.deliverTo
  refine State.Inv.fpCount ?_ _
  split
  · exact h.poolWrite _ _
  · split
    · exact h.pushAll _ _ _
    · exact h
theorem State.Inv.land (h : s.Inv) (f : Flight) : (s.land f).Inv := by
  unfold State.land
  dsimp only
  split
  · exact h.deliverTo _ _ _ _
  · exact h.of_mem
  · exact h.deliverTo _ _ _ _
  · split
    · exact h.of_mem
    · exact h
theorem State.Inv.landings (h : s.Inv) (t : Nat) : (s.landings t).Inv :=
  State.Inv.cond (State.Inv.foldl (fun _ _ hx => hx.land _) _ h) (((State.Inv.foldl (fun _ _ hx => hx.land _) _ h).setV _).stir)
theorem State.Inv.stretchOn (h : s.Inv) (r : SReg) : (s.stretchOn r).Inv := State.Inv.cond h (((h.setCsr _).setV _).count _ _)
theorem State.Inv.tickBody (h : s.Inv) (t : Nat) : (s.tickBody t).Inv := ((((h.mSchedule _ _).wake _).beatCount _ _).grabs _).landings _
theorem State.Inv.tickTaken (h : s.Inv) : (s.tickTaken).Inv := State.Inv.cond (h.setV _) (((h.setV _).setCsr _).count _ _)
theorem State.Inv.tickAsks (h : s.Inv) : (s.tickAsks).Inv := State.Inv.foldl (fun _ _ hx => hx.askBlocks _ _) _ h
theorem State.Inv.tickMade {u : State} (h : s.Inv) (hu : s.tickMade = .ok u) : u.Inv := by
  unfold State.tickMade at hu
  dsimp only at hu
  split at hu
  · cases hu
  · next hc =>
    split at hu
    · cases hu
    · cases hu; exact State.Inv.consume _ h hc
theorem State.Inv.vTick (h : s.Inv) : TickInv s.vTick := by
  unfold State.vTick
  dsimp only
  split
  · exact h.tickAsks.heldTick _
  · next hm => exact ((h.tickAsks.tickMade hm).tickBody _).tickTaken
theorem State.Inv.vTick_of {t : VTick} (h : s.Inv) (ht : s.vTick = t) : TickInv t := ht ▸ h.vTick
theorem State.Inv.toPermit (n : Nat) {s : State} (h : s.Inv) : (State.toPermit n s).1.Inv := by
  induction n generalizing s with
  | zero => exact h
  | succ n ih => exact State.Inv.cond_fst h.passCycle (ih h.passCycle)
theorem State.Inv.vAdvance (n : Nat) {s : State} (h : s.Inv) : (s.vAdvance n).1.Inv := by
  induction n generalizing s with
  | zero => exact h
  | succ n ih =>
    rw [State.vAdvance]
    split
    · next u hu =>
      have hv : u.Inv := h.vTick_of hu
      exact State.Inv.cond_fst hv (State.Inv.cond_fst (ih (State.Inv.toPermit _ hv)) (State.Inv.toPermit _ hv))
    · next u r hu => exact State.Inv.stretchOn (h.vTick_of hu : u.Inv) _
    · next u hu => exact (h.vTick_of hu : u.Inv)
theorem State.Inv.tEffect (h : s.Inv) (op : TOp) (t : Nat) : (s.tEffect op t).Inv := by
  have hb : ∀ {x : State}, x.Inv → State.Inv (bif tPopsQbr op then x.setQ { x.core.q with qbr := x.core.q.qbr.tail } else x) :=
    fun hx => State.Inv.cond (hx.setQ _) hx
  cases op with
  | empty | hint | ywait | jmp | halt | stgSet | stgClr => exact h.setV _
  | lbeg => exact (h.yPop _ _).setV _
  | lend => exact (hb h).setV _
  | lbr => exact (hb (h.yPop _ _)).setV _
  | stgCond | stgLoad => exact (h.yPop _ _).setV _
  | tkr | yrd => exact (h.yWrite _ _ _).setV _
  | tsr => exact ((h.yPop _ _).setQ _).setV _
  | yadd | yaddi | ymov => exact ((h.yPop _ _).yWrite _ _ _).setV _
theorem State.Inv.startAB (h : s.Inv) (b : Bundle) (ln : Lane) (x : ABSlot) (t : Nat) : (s.startAB b ln x t).Inv := State.Inv.cond h (h.setV _)
theorem State.Inv.startM (h : s.Inv) (b : Bundle) (t : Nat) : (s.startM b t).Inv := State.Inv.cond h (h.setV _)
theorem State.Inv.shapeEffect (h : s.Inv) (x : ABSlot) : (s.shapeEffect x).Inv := State.Inv.cond (h.setV _) h
theorem State.Inv.asksFor (h : s.Inv) (rs : List SReg) : (s.asksFor rs).Inv := State.Inv.foldl (fun _ _ hx => hx.askBlocks _ _) _ h
theorem State.Inv.mEffect (h : s.Inv) (o : MOp) : (s.mEffect o).Inv := by
  cases o with
  | mcfg => exact h.of_mem
  | mswap => exact (h.setV _).of_mem
  | _ => exact h
theorem State.Inv.lookAhead (h : s.Inv) : (s.lookAhead).Inv := h.setV _
theorem State.Inv.issueAt (h : s.Inv) (b : Bundle) (t : Nat) : (s.issueAt b t).Inv := by
  unfold State.issueAt
  dsimp only
  have h2 : ∀ (x : State) (ls : List Loop), x.Inv → ((((x.tokIssue .v b.tok).tEffect b.t t).loopSnapshot ls).tokRetire .v b.tok).Inv :=
    fun x ls hx => (((hx.tokIssue _ _).tEffect _ _).loopSnapshot _).tokRetire _ _
  have h3 : ∀ x : State, x.Inv → State.Inv (bif s.guardOn b then ((x.mEffect b.m).shapeEffect b.a).shapeEffect b.b else x) :=
    fun x hx => State.Inv.cond (((hx.mEffect _).shapeEffect _).shapeEffect _) hx
  refine ((((h3 _ (h2 _ _ (State.Inv.cond ?_ h))).setV _).lookAhead).touch).count _ _
  exact (((((((h.startM b t).startAB b .a b.a t).startAB b .b b.b t).asksFor _).mSchedule _ _).wake _).beatCount _ _)
theorem State.Inv.issueBundle (h : s.Inv) (b : Bundle) : (s.issueBundle b).Inv := by
  unfold State.issueBundle
  dsimp only
  refine State.Inv.cond (h.hold _) (State.Inv.cond (h.hold _) (State.Inv.cond (h.setV _) ?_))
  have hx := State.Inv.cond (b := b.cut && !s.core.v.atCut && s.core.v.lookYield)
    ((h.setCtx { s.core.ctx with yield_ := none }).setV { s.core.v with lookYield := false }) h
  revert hx
  generalize (bif b.cut && !s.core.v.atCut && s.core.v.lookYield then
    (s.setCtx { s.core.ctx with yield_ := none }).setV { s.core.v with lookYield := false } else s) = x
  intro hx
  refine State.Inv.cond (hx.raise _ _ _ _ _ _) ?_
  have hr := State.Inv.vAdvance (x.issueTick b - 1 - x.core.csr.tick.toNat) hx
  revert hr
  generalize x.vAdvance (x.issueTick b - 1 - x.core.csr.tick.toNat) = r
  intro hr
  refine State.Inv.cond hr (State.Inv.cond (hr.raise _ _ _ _ _ _) (State.Inv.cond (hr.hold _) ?_))
  split
  · split
    · refine State.Inv.cond ?_ (hr.raise _ _ _ _ _ _)
      split
      · next hk => exact (hk ▸ hr.tickAsks.heldTick _ : TickInv (.caused _))
      · exact hr
    · exact hr.raise _ _ _ _ _ _
  · split
    · next hk => exact State.Inv.stretchOn (hr.vTick_of hk) _
    · next hk => exact hr.vTick_of hk
    · next hk => exact State.Inv.issueAt (hr.vTick_of hk) _ _
theorem execVBundleIssue_inv (h : s.Inv) (b : Bundle) : OutInv (execVBundleIssue b s) := (h.issueBundle _).next

end


/-! ### Steps: their placement, start and end; memory events -/

section
variable {s : State}

theorem State.Inv.pushSlot (h : s.Inv) (l : ShadowSlot) : (s.pushSlot l).Inv := h.setCtx _
theorem State.Inv.fillBack {t : State} (h : s.Inv) (p : BitVec 3) (mine : StepId → Bool) (ht : s.fillBack p mine = some t) : t.Inv := by
  unfold State.fillBack at ht
  split at ht
  · next z _ =>
    cases hr : z.ctx.running with
    | none => rw [hr] at ht; cases ht
    | some i => rw [hr] at ht; cases ht; exact h.pushSlot _
  · cases hb : s.backOf p mine with
    | none => rw [hb] at ht; cases ht
    | some l => rw [hb] at ht; cases ht; exact (h.setPart _ _).pushSlot _
theorem State.Inv.handStep (h : s.Inv) (p : BitVec 3) (b : Block) (n : Nat) (core : Word32) {put : State → State} (hp : ∀ t : State, t.Inv → (put
    t).Inv) :
    (s.handStep p b n core put).Inv :=
  State.Inv.cond (State.Inv.cond h (State.Inv.cond (hp _ ((h.repTake _).show _)) (h.diverge _ _ _))) (hp _ ((h.record _ _ _ _ _ _).show _))
theorem State.Inv.placedOf (h : s.Inv) (p : BitVec 3) (b : Block) : (s.placedOf p b).Inv := h.setPart _ _
theorem State.Inv.placeGang (h : s.Inv) (p : BitVec 3) (b : Block) : (s.placeGang p b).Inv := by
  unfold State.placeGang
  dsimp only
  split
  · exact h
  · refine State.Inv.cond h (State.Inv.placedOf (State.Inv.foldl (fun x a hx => ?_) _ h) _ _)
    exact hx.handStep _ _ _ _ fun t ht => State.Inv.cond (ht.pushSlot _) ht
theorem State.Inv.placeNext (h : s.Inv) (p : BitVec 3) (b : Block) : (s.placeNext p b).Inv :=
  State.Inv.cond (State.Inv.cond (h.placeGang _ _) h) (h.handStep _ _ _ _ fun _ ht => (ht.pushSlot _).placedOf _ _)
theorem State.Inv.fillSlot (h : s.Inv) (p : BitVec 3) : (s.fillSlot p).Inv := by
  unfold State.fillSlot
  split
  · split
    · next ht => exact State.Inv.placedOf (h.fillBack _ _ ht) _ _
    · exact h.placeNext _ _
  · cases hb : s.fillBack p StepId.launched with
    | none => exact h
    | some t => exact h.fillBack _ _ hb
theorem State.Inv.stageCounts (h : s.Inv) (l : ShadowSlot) : (s.stageCounts l).Inv := State.Inv.foldl (fun _ _ hx => hx.l1Hits _) _ h
theorem State.Inv.refuseSlot (h : s.Inv) (n : Nat) (l : ShadowSlot) (t : Word64) : (s.refuseSlot n l t).Inv := (h.setCtx _).failStep _ _
theorem State.Inv.runPrologue (h : s.Inv) (n : Nat) (l : ShadowSlot) : (s.runPrologue n l).Inv := by
  unfold State.runPrologue
  dsimp only
  have ho := h.owe l.part l.id.queue
  split
  · exact (ho.stageCounts _).setCtx _
  · exact ho
  · exact ho.refuseSlot _ _ _
  · split
    · exact State.Inv.cond ((ho.post _ _).setCtx _) (ho.refuseSlot _ _ _)
    · exact ho.refuseSlot _ _ _
theorem State.Inv.peerPlace (h : s.Inv) (p : BitVec 3) (core : BitVec 3) : (s.peerPlace p core).Inv := by
  unfold State.peerPlace
  split
  · exact State.Inv.cond h (h.handStep _ _ _ _ fun _ ht => ht.placedOf _ _)
  · exact h
theorem State.Inv.gangRoom (h : s.Inv) (p : BitVec 3) (cores : List (BitVec 3)) : (s.gangRoom p cores).Inv := by
  unfold State.gangRoom
  dsimp only
  split
  · exact State.Inv.cond h (State.Inv.cond (h.setPart _ _) ((h.setPart _ _).placeGang _ _))
  · exact h
theorem execStepPlace_inv (h : s.Inv) : OutInv (execStepPlace s) := by
  unfold execStepPlace
  dsimp only
  refine State.Inv.next ?_
  split
  · exact h.runPrologue _ _
  · split
    · exact h
    · split
      · exact (h.fillSlot _).runPrologue _ _
      · exact h.fillSlot _
theorem State.Inv.startStep (h : s.Inv) (l : ShadowSlot) : (s.startStep l).Inv :=
  (State.Inv.cond (((State.Inv.foldl (fun _ _ hx => (hx.poolWrite _ _).fallCount _ _) _ h.of_mem).swTrace _ _ _).show _) ((State.Inv.foldl (fun _ _
    hx => (hx.poolWrite _ _).fallCount _ _) _ h.of_mem).swTrace _ _ _)).lookAhead.unmetCause _
theorem State.Inv.showCode (h : s.Inv) : (s.showCode).Inv := (((((h.setCtx _).setHeld _ _).setHeld _ _).setHeld _ _).setHeld _ _).acked
theorem State.Inv.laterItems (h : s.Inv) : (s.laterItems).Inv := (State.Inv.cond h.showCode h).demandAtCut
theorem State.Inv.restoreStep (h : s.Inv) (z : Saved) : (s.restoreStep z).Inv :=
  State.Inv.cond (((h.of_mem.owe _ _).nbTrace _).laterItems) ((h.of_mem.owe _ _).nbTrace _)
theorem State.Inv.unguard (h : s.Inv) (l : ShadowSlot) : (s.unguard l).Inv := by
  unfold State.unguard
  split
  · exact State.Inv.cond (h.setPart _ _) h
  · exact h
theorem execStepStart_inv (h : s.Inv) : OutInv (execStepStart s) := by
  refine State.Inv.next (State.Inv.cond h ?_)
  generalize s.nextStart = o
  cases o with
  | none => exact h
  | some l =>
    obtain ⟨_, _, _, _, _, _, _, _, _, stage⟩ := l
    cases stage with
    | refused _ => exact State.Inv.takeTrapNoStep ((h.setCtx _).setCtx _) _ _ _ _ _ _
    | restored =>
      dsimp only
      split
      · exact State.Inv.restoreStep (((h.setCtx _).unguard _).setPart _ _) _
      · exact (h.setCtx _).unguard _
    | _ => exact State.Inv.startStep ((h.setCtx _).unguard _) _
theorem State.Inv.excFail (h : s.Inv) (p : BitVec 3) (b : Block) : (s.excFail p b).Inv := State.Inv.cond h ((h.setPart _ _).post _ _)
theorem State.Inv.excZero (h : s.Inv) (p : BitVec 3) (b : Block) : (s.excZero p b).Inv := by
  unfold State.excZero
  refine State.Inv.cond h ?_
  split
  · exact (h.orderAt _ _ _).unitStore _
  · exact (h.setPart _ _).excFail _ _
theorem State.Inv.excAdd (h : s.Inv) (p : BitVec 3) (va : Word64) (pa i : Nat) (n : Word32) : (s.excAdd p va pa i n).Inv :=
  State.Inv.cond ((((h.orderAt _ _ _).rmwFirst _).unitStore _).msi _ _ _ _) (((h.orderAt _ _ _).rmwFirst _).unitStore _)
theorem State.Inv.excCounts (h : s.Inv) (p : BitVec 3) (b : Block) (n : Vector Word32 12) : (s.excCounts p b n).Inv := by
  unfold State.excCounts
  dsimp only
  refine State.Inv.cond h ?_
  split
  · exact State.Inv.foldl (fun _ _ hx => hx.excAdd _ _ _ _ _) _ h
  · exact h.excFail _ _
theorem State.Inv.stepCounts (h : s.Inv) : (s.stepCounts).Inv := by
  unfold State.stepCounts
  dsimp only
  split
  · split
    · exact State.Inv.cond (h.setPart _ _) (h.excCounts _ _ _)
    · exact h
  · exact h
theorem State.Inv.endStep (h : s.Inv) : (s.endStep).Inv :=
  State.Inv.cond ((((h.flushStore.bankFence.publishCells _ _).stepCounts.of_mem).acked).takeTrapNoStep _ _ _ _ _ _)
    (((h.flushStore.bankFence.publishCells _ _).stepCounts.of_mem).acked)
theorem execBindOffRetire_inv (h : s.Inv) : OutInv (execBindOffRetire s) :=
  (State.Inv.cond h (State.Inv.cond h.endStep ((h.publishCmds _).reap))).next
theorem State.Inv.wakeForLeave (h : s.Inv) : (s.wakeForLeave).Inv := State.Inv.cond h (h.endMwait _)
theorem State.Inv.flipNow (h : s.Inv) (page : Nat) : (s.flipNow page).Inv := by
  unfold State.flipNow
  dsimp only
  split
  · exact h.setMem
  · exact h
theorem State.Inv.lapsed (h : s.Inv) : (s.lapsed).Inv := State.Inv.foldl (fun _ _ hx => hx.flipNow _) _ h.setMem
theorem State.Inv.saveStep (h : s.Inv) (atCut : Bool) : (s.saveStep atCut).Inv := by
  refine State.Inv.cond h ?_
  have hd : ∀ p o w, ((State.engDrain 256 (s.owe p o).atBoundary.wakeForLeave.lapsed.nbRun).flushStore.nbTrace w).Inv :=
    fun _ _ _ => (((h.owe _ _).atBoundary.wakeForLeave.lapsed.nbRun.engDrain 256).flushStore).nbTrace _
  exact ((((hd _ _ _).setPart _ _).setNb _).nbTrace _).emptyCore
theorem execCutStop_inv (h : s.Inv) : OutInv (execCutStop s) := by
  unfold execCutStop
  refine State.Inv.next ?_
  split
  · exact State.Inv.cond (h.saveStep _) (h.requestLeave _)
  · exact h.requestLeave _
theorem execFreeze_inv (h : s.Inv) : OutInv (execFreeze s) := (h.saveStep _).next
theorem execAbandon_inv (h : s.Inv) : OutInv (execAbandon s) := by
  unfold execAbandon
  refine State.Inv.next ?_
  split
  · exact State.Inv.cond (h.abandonStep _) (h.saveStep _)
  · exact h
theorem State.Inv.roomForGuard (h : s.Inv) : s.roomForGuard.Inv := by
  unfold State.roomForGuard
  split
  · dsimp only
    split
    · exact (h.setCtx _).setPart _ _
    · exact (h.setCtx _).setPart _ _
    · exact (h.setCtx _).setPart _ _
    · exact h.setCtx _
    · exact h
  · exact h
theorem State.Inv.guardActs (h : s.Inv) (p : BitVec 3) : (s.guardActs p).Inv := by
  unfold State.guardActs
  split
  · exact (h.roomForGuard.setPart _ _).requestLeave _
  · exact h
theorem execStarvationGuard_inv (h : s.Inv) (p : BitVec 3) : OutInv (execStarvationGuard p s) := (h.guardActs _).next
theorem execCStoreEvent_inv (h : s.Inv) : OutInv (execCStoreEvent s) := h.flushStore.next
theorem execLeaseLapse_inv (h : s.Inv) (line : Nat) : OutInv (execLeaseLapse line s) := by
  unfold execLeaseLapse
  dsimp only
  refine State.Inv.next ?_
  split
  · exact State.Inv.cond (h.setMem.flushStore) h.setMem
  · exact h.setMem
theorem State.Inv.corrected (h : s.Inv) (pa : Nat) : (s.corrected pa).Inv := State.Inv.cond ((h.setPkg _).memRec _ _) (h.setPkg _)
theorem State.Inv.writeBack (h : s.Inv) (line : Nat) : (s.writeBack line).Inv := by
  unfold State.writeBack
  split
  · exact h.l2Out _
  · exact h.mscDrop _
theorem execDirtyEviction_inv (h : s.Inv) (line : Nat) (bad : Bool) : OutInv (execDirtyEviction line bad s) :=
  (State.Inv.cond ((h.writeBack _).setMem) (State.Inv.cond (((h.writeBack _).setMem).memRec _ _) (((h.writeBack _).setMem).corrected _))).next
theorem State.Inv.answer (h : s.Inv) (b : List Byte) (code : Nat) : (s.answer b code).Inv := h.setMem
theorem State.Inv.outsideAt (h : s.Inv) (pa : Nat) : (s.outsideAt pa).Inv := State.Inv.cond (h.mscAccess _ _ _) h
theorem State.Inv.outsideWrite (h : s.Inv) (w pa : Nat) (b : List Byte) : (s.outsideWrite w pa b).Inv :=
  State.Inv.cond (h.answer _ _) (State.Inv.foldl (fun _ _ hx => hx.unitStore _) _ (h.orderLines _ _ _))
theorem State.Inv.outsideRead (h : s.Inv) (pa len : Nat) : (s.outsideRead pa len).Inv :=
  State.Inv.cond (h.answer _ _) ((State.Inv.foldl (fun _ _ hx => hx.outsideAt _) _ (h.orderLines _ _ _)).answer _ _)
theorem State.outside_inv (h : s.Inv) (i : Instr) (pa len : Nat) (write : Bool) {f : State → State} (hf : (f s).Inv) :
    OutInv (s.outside i pa len write f) :=
  OutInv.cond (outInv_fault _) (OutInv.cond (h.again _).next hf.next)
theorem State.Inv.recordDword (h : s.Inv) (pa : Nat) (b : List Byte) (d : Nat) : (s.recordDword pa b d).Inv := by
  unfold State.recordDword
  dsimp only
  split
  · exact State.Inv.cond (h.record _ _ _ _ _ _) ((h.record _ _ _ _ _ _).record _ _ _ _ _ _)
  · exact h
theorem State.Inv.hostStore (h : s.Inv) (w pa : Nat) (b : List Byte) : (s.hostStore w pa b).Inv :=
  State.Inv.cond (h.outsideWrite _ _ _) (State.Inv.foldl (fun _ _ hx => hx.recordDword _ _ _) _ (h.outsideWrite _ _ _))
theorem State.Inv.recordArrival (h : s.Inv) (pa n : Nat) : (s.recordArrival pa n).Inv := by
  refine State.Inv.foldl (fun x d hx => ?_) _ h
  split
  · exact hx.record _ _ _ _ _ _
  · exact hx
theorem execHostWrite_inv (h : s.Inv) (pa : Nat) (b : List Byte) : OutInv (execHostWrite pa b s) :=
  s.outside_inv h _ _ _ _ (State.Inv.cond (h.again _) (h.hostStore _ _ _))
theorem execHostRead_inv (h : s.Inv) (pa len : Nat) : OutInv (execHostRead pa len s) := s.outside_inv h _ _ _ _ (h.outsideRead _ _)
theorem execEthRdmaWriteIn_inv (h : s.Inv) (pa : Nat) (b : List Byte) : OutInv (execEthRdmaWriteIn pa b s) :=
  s.outside_inv h _ _ _ _ (State.Inv.cond (h.again _) ((h.hostStore _ _ _).setPkg _))
theorem execEthRdmaReadOut_inv (h : s.Inv) (pa len : Nat) : OutInv (execEthRdmaReadOut pa len s) := s.outside_inv h _ _ _ _ (h.outsideRead _ _)
theorem State.Inv.drainPage (h : s.Inv) (page : Nat) : (s.drainPage page).Inv := by
  have hd : ∀ l, (List.foldl State.writeBack s l).Inv := fun l => State.Inv.foldl (fun _ _ hx => hx.writeBack _) _ h
  exact State.Inv.setC (State.Inv.of_cells (hd _)) _
theorem State.Inv.publishPage (h : s.Inv) (page : Nat) : (s.publishPage page).Inv := by
  unfold State.publishPage
  split
  · exact (h.publishCmds _).reap
  · exact h
theorem State.Inv.placeGranules (h : s.Inv) (page : Nat) : (s.placeGranules page).Inv := State.Inv.foldl (fun _ _ hx => hx.granulePut _) _ (h.setNb _)
theorem execBiasFlip_inv (h : s.Inv) (page : Nat) (toHost : Bool) : OutInv (execBiasFlip page toHost s) :=
  (State.Inv.cond h (State.Inv.cond (h.again _) ((State.Inv.cond (((h.flushStore.publishPage _).placeGranules _).drainPage _) h.flushStore).setMem))).next
theorem execBiasFlipEvent_inv (h : s.Inv) (page : Nat) : OutInv (execBiasFlipEvent page s) := (h.flipNow _).next
theorem State.Inv.flipsEnd (h : s.Inv) : (s.flipsEnd).Inv := by
  unfold State.flipsEnd
  split
  · exact h.flipNow _
  · exact h
theorem State.Inv.remoteAt (h : s.Inv) (pa n : Nat) (reads : Bool) : (s.remoteAt pa n reads).Inv :=
  State.Inv.foldl (fun _ _ hx => (State.Inv.cond (((hx.orderAt _ _ _).l2Access _ _ _ _).lease _ _) ((hx.orderAt _ _ _).l2Access _ _ _ _))) _ h
theorem State.Inv.remoteApply (h : s.Inv) (pa : Nat) (op : Option (AmoOp × BitVec 2)) (write : Option (List Byte)) (len : Nat) :
    (s.remoteApply pa op write len).1.Inv := by
  unfold State.remoteApply
  dsimp only
  split
  · exact (h.remoteAt _ _ _).store _ _ _ _
  · exact (h.remoteAt _ _ _).store _ _ _ _
  · exact h.remoteAt _ _ _
theorem State.Inv.reply (h : s.Inv) (who : BitVec 8) (tag : Nat) (b : List Byte) (code : Nat) : (s.reply who tag b code).Inv :=
  (h.setPkg _).answer _ _
theorem execRemoteRequestAtHome_inv (h : s.Inv) (pkg tag pa : Nat) (op : Option (AmoOp × BitVec 2)) (write : Option (List Byte)) (len : Nat) :
    OutInv (execRemoteRequestAtHome pkg tag pa op write len s) := by
  refine State.Inv.next ?_
  split
  · exact h.answer _ _
  · refine State.Inv.cond (h.reply _ _ _ _) (State.Inv.cond (h.again _) (State.Inv.reply ?_ _ _ _ _))
    exact State.Inv.cond ((h.remoteApply _ _ _ _).recordArrival _ _) (h.remoteApply _ _ _ _)

end


/-! ### Power, distribution, world switches and the configuration plane -/

section
variable {s : State}

theorem State.Inv.estimate (h : s.Inv) (pkg n : Nat)  (p : BitVec 3) : (State.estimate pkg n s p).Inv :=
  State.Inv.cond h (State.Inv.cond ((h.setPart _ _).msi _ _ _ _) (h.setPart _ _))
theorem State.Inv.charge (h : s.Inv) (p : BitVec 3) (q : Option (BitVec 6)) : (s.charge p q).Inv := by
  unfold State.charge
  dsimp only
  split
  · exact h.of_mem.setPart _ _
  · exact h.of_mem.setPart _ _
theorem execEnergyCharge_inv (h : s.Inv) (p : BitVec 3) (q : Option (BitVec 6)) : OutInv (execEnergyCharge p q s) := by
  unfold execEnergyCharge
  refine State.Inv.next ?_
  split
  · exact State.Inv.cond (h.charge _ _) h
  · exact h.charge _ _
theorem State.Inv.microsecond (h : s.Inv) : s.microsecond.Inv := by
  have he : ∀ (x : State), x.Inv → ∀ w f, (allParts.foldl (State.estimate w f) x).Inv := fun x hx w f => State.Inv.foldl (fun _ _ hy => hy.estimate _
    _ _) _ hx
  refine State.Inv.foldl (fun _ _ hx => hx.charge _ _) _ ?_
  dsimp only
  split
  · exact State.Inv.charge (State.Inv.of_mem (he _ (h.setPkg _) _ _)) _ _
  · exact State.Inv.of_mem (he _ (h.setPkg _) _ _)
theorem State.Inv.estimates (h : s.Inv) : (s.estimates).Inv := State.Inv.cond h.microsecond h
theorem execPowerEstimate_inv (h : s.Inv) : OutInv (execPowerEstimate s) := h.estimates.next
theorem State.Inv.vfEnergy (h : s.Inv) (p : BitVec 3) (v : BitVec 2) (q : BitVec 6) (write : Bool) : (s.vfEnergy p v q write).Inv :=
  State.Inv.cond (h.answer _ _) (State.Inv.cond h (h.answer _ _))
theorem execPermitWindow_inv (h : s.Inv) : OutInv (execPermitWindow s) := h.permitWindow.next
theorem execDroopTrip_inv (h : s.Inv) : OutInv (execDroopTrip s) := (State.Inv.cond h h.trip).next
theorem execDroopStretchEnd_inv (h : s.Inv) : OutInv (execDroopStretchEnd s) := by
  refine State.Inv.next ?_
  split
  · exact State.Inv.cond (h.passCycles _) h
  · exact h
theorem execDroopHalfIssueEnd_inv (h : s.Inv) : OutInv (execDroopHalfIssueEnd s) := by
  refine State.Inv.next ?_
  split
  · exact State.Inv.cond (h.passCycles _) h
  · exact h
theorem execLaneGroupPowerDown_inv (h : s.Inv) (g : BitVec 3) : OutInv (execLaneGroupPowerDown g s) :=
  State.Inv.next (State.Inv.cond (h.passCycles _) h)
theorem State.Inv.replayHostWrite (h : s.Inv) (p : BitVec 3) (pa data : Nat) : (s.replayHostWrite p pa data).Inv :=
  State.Inv.foldl (fun _ _ hx => hx.store _ _ _ _) _ ((State.Inv.cond ((h.repTake _).repTake _) (h.repTake _)).orderAt _ _ _)
theorem State.Inv.replayMsi (h : s.Inv) (fn vec : Nat) : (s.replayMsi fn vec).Inv := (h.setPkg _).msiRaw _ _ _ _
theorem execReplayInputApply_inv (h : s.Inv) : OutInv (execReplayInputApply s) := by
  unfold execReplayInputApply
  dsimp only
  refine State.Inv.next ?_
  split
  · split
    · exact h.replayHostWrite _ _ _
    · exact ((h.repTake _).orderAt _ _ _).store _ _ _ _
    · exact (h.repTake _).replayMsi _ _
    · exact h.diverge _ _ _
  · exact h
theorem State.Inv.append {t : State} (h : s.Inv) (p : BitVec 3) (v : BitVec 2) (q : TaskQueue) (a : Word64) (ht : s.append p v q a = some t) :
    t.Inv := by
  unfold State.append at ht
  split at ht
  · next tp hp tail head _ =>
    cases hc : decide (ringSize q.logsz ≤ tail - head) || s.inFlip hp <;> rw [hc] at ht
    · cases he : s.ctxPa p v (q.entry tail) with
      | none => rw [he] at ht; cases ht
      | some e =>
        rw [he] at ht
        dsimp only [cond_false, Option.bind_some] at ht
        cases hd : s.taskHeld (span e 8 ++ span tp 8) <;> rw [hd] at ht
        · cases ht; exact (h.orderLines _ _ _).unitWrite _
        · cases ht
    · cases ht
  · cases ht
theorem State.Inv.submitAs (h : s.Inv) (blk : Word64) (q : BitVec 6) (p : BitVec 3) (v : BitVec 2) : (s.submitAs blk q p v).Inv := by
  unfold State.submitAs
  cases ha : s.append p v ((s.part p).queue q) blk with
  | none => exact h.again _
  | some t => exact h.append _ _ _ _ ha
theorem execTsubAppend_inv (h : s.Inv) : OutInv (execTsubAppend s) := by
  refine State.Inv.next ?_
  split
  · exact h
  · split
    · next ha => exact State.Inv.touch (State.Inv.setQ (h.append _ _ _ _ ha) _)
    · exact h
theorem State.Inv.badEntry (h : s.Inv) (p : BitVec 3) (e : Word64) (aux : Word32) (cause : BitVec 8) : (s.badEntry p e aux cause).Inv := h.post _ _
theorem State.Inv.take (h : s.Inv) (p : BitVec 3) (v : BitVec 2) (q : BitVec 6) (e : Word64) (head : Nat) : (s.take p v q e head).Inv := by
  unfold State.take
  refine State.Inv.cond (h.badEntry _ _ _ _) ?_
  split
  · exact h.badEntry _ _ _ _
  · exact h.badEntry _ _ _ _
  · exact h.setPart _ _
theorem execRingTake_inv (h : s.Inv) (p : BitVec 3) (q : BitVec 6) : OutInv (execRingTake p q s) := by
  unfold execRingTake
  refine State.Inv.next ?_
  split
  · exact ((h.orderLines _ _ _).unitWrite _).take _ _ _ _ _
  · exact h
theorem execPredPoll_inv (h : s.Inv) (p : BitVec 3) : OutInv (execPredPoll p s) := (h.setPart _ _).next
theorem State.Inv.refuse (h : s.Inv) (p : BitVec 3) (k : Block) (aux : Nat) (cause : BitVec 8) : (s.refuse p k aux cause).Inv :=
  (h.setPart _ _).post _ _
theorem State.Inv.receiptFault (h : s.Inv) (p : BitVec 3) (b : Block) (src : Option Nat) (va : Word64) : (s.receiptFault p b src va).Inv :=
  State.Inv.cond ((h.of_mem.setPart _ _).post _ _) (h.refuse _ _ _ _)
theorem State.Inv.clearBars (h : s.Inv) (b : Block) (g0 g1 : Nat) : (s.clearBars b g0 g1).Inv := State.Inv.cond (h.setPkg _) h
theorem State.Inv.handOver (h : s.Inv) (p : BitVec 3) (b : Block) (die : Nat) : (s.handOver p b die).Inv := h.setPart _ _
theorem State.Inv.give {t : State} (h : s.Inv) (p : BitVec 3) (b : Block) (ht : s.give p b = some t) : t.Inv := by
  unfold State.give at ht
  dsimp only at ht
  cases hc : s.excHeld p b || (s.receivers p b).isEmpty <;> rw [hc] at ht
  · dsimp only [cond_false] at ht
    split at ht
    · cases ht; exact ((h.setPart _ _).clearBars _ _ _).excZero _ _
    · cases ht
  · cases ht
theorem execBlockAssign_inv (h : s.Inv) (p : BitVec 3) : OutInv (execBlockAssign p s) := by
  refine State.Inv.next (State.Inv.cond h ?_)
  split
  · next b d _ _ =>
    have hp := h.setPart p { s.part p with ptrDie := b.queue }
    revert hp
    dsimp only
    generalize State.setPart s p _ = x
    intro hp
    refine State.Inv.cond (hp.handOver _ _ _) ?_
    split
    · next b' _ =>
      cases hg : x.give p b' with
      | none => exact hp
      | some t => exact hp.give _ _ hg
    · exact hp.refuse _ _ _ _
    · exact hp.receiptFault _ _ _ _
    · exact hp
  · exact h
theorem State.Inv.release {t : State} (h : s.Inv) (p : BitVec 3) (v : BitVec 2) (a : Word64) (ht : s.release p v a = some t) : t.Inv := by
  unfold State.release at ht
  cases hc : misaligned a 256 <;> rw [hc] at ht
  · cases hd : s.diePa p v (a + 0xc4) .rdwr with
    | none => rw [hd] at ht; cases ht
    | some pa =>
      rw [hd] at ht
      cases ht
      exact State.Inv.predSeen (State.Inv.cond ((h.orderAt _ _ _).rmwFirst _) (((h.orderAt _ _ _).rmwFirst _).unitStore _)) _ _ _ _
  · cases ht
theorem State.Inv.releaseNth (h : s.Inv) (p : BitVec 3) (v : BitVec 2) (b : Block) (i : Nat) : (State.releaseNth p v b s i).Inv := by
  unfold State.releaseNth
  dsimp only
  split
  · exact h.post _ _
  · next pa _ =>
    cases hr : s.release p v (BitVec.ofNat 64 (s.rdNat pa 8)) with
    | none => exact h.post _ _
    | some t => exact h.release _ _ _ hr
theorem State.Inv.doneStore (h : s.Inv) (p : BitVec 3) (v : BitVec 2) (b : Block) : (s.doneStore p v b).Inv := by
  unfold State.doneStore
  refine State.Inv.cond h ?_
  split
  · exact (h.orderAt _ _ _).unitStore _
  · exact h.post _ _
theorem State.Inv.completeBlock (h : s.Inv) (p : BitVec 3) (b : Block) : (s.completeBlock p b).Inv := by
  refine State.Inv.setPart (State.Inv.foldl (fun _ _ hx => hx.releaseNth _ _ _ _) _ ?_) _ _
  exact State.Inv.doneStore (State.Inv.cond (h.excCounts _ _ _) h) _ _ _
theorem execBlockComplete_inv (h : s.Inv) (blk : Word64) : OutInv (execBlockComplete blk s) := by
  unfold execBlockComplete
  refine State.Inv.next ?_
  split
  · exact State.Inv.cond h (State.Inv.cond (h.setPart _ _) (h.completeBlock _ _))
  · exact h
theorem State.Inv.unblock (h : s.Inv) : (s.unblock).Inv := h.of_mem
theorem State.Inv.answerCore (h : s.Inv) (w : FreezeWait) (code : BitVec 2) : (s.answerCore w code).Inv := by
  unfold State.answerCore
  split
  · exact (h.setTrap _).unblock
  · exact State.Inv.cond (h.trapNow _ _ _ _) (h.setTrap _)
  · exact h.abandonStep _
theorem State.Inv.answerUnits (h : s.Inv) (seq : BitVec 16) (code : BitVec 2) : (s.answerUnits seq code).Inv :=
  State.Inv.cond (h.abandonStep _) h.of_mem.deliverUnits
theorem State.Inv.answerSlot (h : s.Inv) (n : Nat) (l : ShadowSlot) (src : Nat) (code : BitVec 2) : (s.answerSlot n l src code).Inv := by
  unfold State.answerSlot
  dsimp only
  split
  · exact h.setCtx _
  · exact h.refuseSlot _ _ _
  · exact State.Inv.cond (h.setCtx _) ((h.setCtx _).failStep _ _)
theorem State.Inv.runSavedNb (h : s.Inv) (z : Saved) : (s.runSavedNb z).1.Inv := h.lapsed.of_mem.nbRun.of_mem
theorem State.Inv.placeBack (h : s.Inv) (p : BitVec 3) (l : ShadowSlot) : (s.placeBack p l).Inv := h.setPart _ _
theorem State.Inv.abandonSaved (h : s.Inv) (z : Saved) : (s.abandonSaved z).Inv := by
  have hb : ∀ c, (((s.setPart z.part { s.part z.part with saved := (s.part z.part).saved.erase z }).setCtx c)).Inv := fun _ => (h.setPart _ _).setCtx
    _
  unfold State.abandonSaved
  dsimp only
  split
  · refine State.Inv.cond (State.Inv.failStep ?_ _ _) (State.Inv.placeBack ?_ _ _) <;>
    · split
      · exact State.Inv.clearBars ((hb _).setPart _ _) _ _ _
      · exact hb _
  · exact hb _
theorem State.Inv.gangAbandoned (h : s.Inv) (p : BitVec 3) (q : BitVec 6) (blk : Word64) : (s.gangAbandoned p q blk).Inv := by
  unfold State.gangAbandoned
  split
  · exact h
  · next b _ =>
    refine State.Inv.cond h ?_
    have hx := (h.setPart p ((s.part p).setBlock b.afresh)).clearBars b b.group0 b.group1
    revert hx
    dsimp only
    generalize State.clearBars _ b b.group0 b.group1 = x
    intro hx
    refine State.Inv.cond (hx.abandonStep _) ?_
    split
    · exact hx.abandonSaved _
    · exact State.Inv.cond (hx.failStep _ _) (hx.placeBack _ _)
    · exact hx.setCtx _
theorem State.Inv.answerSaved (h : s.Inv) (z : Saved) (seq : BitVec 16) (code : BitVec 2) : (s.answerSaved z seq code).Inv := by
  unfold State.answerSaved
  dsimp only
  split
  · exact State.Inv.setPart (State.Inv.runSavedNb h _) _ _
  · exact h.setPart _ _
  · exact h.abandonSaved _
theorem State.Inv.answerReceipt (h : s.Inv) (p : BitVec 3) (b : Block) (r : FaultRec) (code : BitVec 2) : (s.answerReceipt p b r code).Inv :=
  State.Inv.cond (h.setPart _ _) (h.refuse _ _ _ _)
theorem State.Inv.giveAnswer (h : s.Inv) (p : BitVec 3) (r : FaultRec) (code : BitVec 2) : (s.giveAnswer p r code).Inv := by
  unfold State.giveAnswer
  dsimp only
  split
  · exact (h.setPart _ _).answerCore _ _
  · exact (h.setPart _ _).answerSlot _ _ _ _
  · split
    · exact (h.setPart _ _).answerReceipt _ _ _ _
    · refine State.Inv.cond ((h.setPart _ _).answerUnits _ _) ?_
      split
      · exact (h.setPart _ _).answerSaved _ _ _
      · exact h.setPart _ _
theorem State.Inv.putAnswer (h : s.Inv) (p : BitVec 3) (seq : BitVec 16) (code : BitVec 2) : (s.putAnswer p seq code).Inv := by
  unfold State.putAnswer
  split
  · exact State.Inv.cond h (State.Inv.cond (h.again _) (h.giveAnswer _ _ _))
  · exact h
theorem execFaultAnswer_inv (h : s.Inv) (p : BitVec 3) (seq : BitVec 16) (code : BitVec 2) : OutInv (execFaultAnswer p seq code s) :=
  (h.putAnswer _ _ _).next
theorem execFaultAnswerTimeout_inv (h : s.Inv) (p : BitVec 3) (seq : BitVec 16) : OutInv (execFaultAnswerTimeout p seq s) := by
  unfold execFaultAnswerTimeout
  refine State.Inv.next ?_
  split
  · exact State.Inv.cond (h.giveAnswer _ _ _) h
  · exact h
theorem execQuantumEnd_inv (h : s.Inv) (p : BitVec 3) : OutInv (execQuantumEnd p s) := by
  unfold execQuantumEnd
  dsimp only
  refine State.Inv.next ?_
  refine State.Inv.cond h ?_
  split
  · exact (h.setPart _ _).beginSwitch _ _
  · exact h.setPart _ _
theorem State.Inv.emptySlots (h : s.Inv) (p : BitVec 3) : (s.emptySlots p).Inv := (h.setPart _ _).setCtx _
theorem State.Inv.drainFreeze (h : s.Inv) : (s.drainFreeze).Inv := by
  unfold State.drainFreeze
  dsimp only
  split
  · exact State.Inv.cond (((State.Inv.cond (h.saveStep _) h).emptySlots _).setPkg _) h
  · exact h
theorem execSwitchFreezeDeadline_inv (h : s.Inv) (p : BitVec 3) : OutInv (execSwitchFreezeDeadline p s) := by
  unfold execSwitchFreezeDeadline
  dsimp only
  refine State.Inv.next ?_
  split
  · exact State.Inv.cond ((State.Inv.cond ((h.saveStep _).swTrace _ _ _) h).setPart _ _) h
  · exact h.drainFreeze
theorem State.Inv.swapCounters (h : s.Inv) (p : BitVec 3) (v : BitVec 2) : (s.swapCounters p v).Inv := by
  refine State.Inv.cond h ?_
  have hx : ∀ y w a k, State.Inv { ((s.setPart p y).swTrace p w a) with core := { ((s.setPart p y).swTrace p w a).core with perf := k } } :=
    fun _ _ _ _ => State.Inv.of_mem ((h.setPart _ _).swTrace _ _ _)
  exact State.Inv.swTrace (State.Inv.cond (hx _ _ _ _) (State.Inv.setCtx (hx _ _ _ _) _)) _ _ _
theorem State.Inv.resumeSaved (h : s.Inv) (p : BitVec 3) : (s.resumeSaved p).Inv := by
  unfold State.resumeSaved
  dsimp only
  refine State.Inv.cond h ?_
  split
  · exact (h.setPart _ _).restoreStep _
  · exact h
theorem execWorldSwitchRestore_inv (h : s.Inv) (p : BitVec 3) : OutInv (execWorldSwitchRestore p s) := by
  unfold execWorldSwitchRestore
  dsimp only
  refine State.Inv.next ?_
  split
  · exact State.Inv.cond h ((((h.emptySlots _).swapCounters _ _).setPart _ _).resumeSaved _)
  · exact h
theorem execSavedCounterAdd_inv (h : s.Inv) (p : BitVec 3) (v : BitVec 2) (event : BitVec 8) : OutInv (execSavedCounterAdd p v event s) :=
  (State.Inv.cond h (State.Inv.cond (h.of_mem.ovfInts _ _ _ _) ((State.Inv.cond (h.setPart _ _) ((h.setPart _ _).swTrace _ _ _)).ovfInts _ _ _
    _))).next
theorem State.Inv.setGuards (h : s.Inv) : (s.setGuards).Inv := h.setPkg _
theorem State.Inv.rowPut (h : s.Inv) (i n : Nat) : (s.rowPut i n).Inv := (h.setPkg _).setGuards
theorem State.Inv.closeChannel (h : s.Inv) (ch : Nat) : (s.closeChannel ch).Inv := State.Inv.cond (h.again _) ((h.setPkg _).setGuards)
theorem State.Inv.resited (h : s.Inv) (was : Option (BitVec 3)) : (s.resited was).Inv := by
  have hw : State.Inv (match was with
      | some p => s.setPart p ((s.part p).setVf (s.part p).resident { (s.part p).vf (s.part p).resident with perf := some s.core.perf })
      | none => s) := by
    cases was
    · exact h
    · exact h.setPart _ _
  refine State.Inv.cond h ?_
  cases was <;>
  · dsimp only
    split
    · exact State.Inv.cond (State.Inv.of_mem (State.Inv.setPart hw _ _)) (State.Inv.setCtx (State.Inv.of_mem (State.Inv.setPart hw _ _)) _)
    · exact State.Inv.of_mem hw
theorem State.Inv.psitesPut (h : s.Inv) (p : BitVec 3) (n : Nat) : (s.psitesPut p n).Inv := State.Inv.cond h ((h.setPart _ _).resited _)
theorem State.Inv.vfFresh (h : s.Inv) (p : BitVec 3)  (v : BitVec 2) : (State.vfFresh p s v).Inv :=
  State.Inv.cond ((h.setPart _ _).of_mem) (h.setPart _ _)
theorem State.Inv.partcfgPut (h : s.Inv) (p : BitVec 3) (n : Nat) : (s.partcfgPut p n).Inv :=
  State.Inv.setGuards (State.Inv.resited (State.Inv.foldl (fun _ _ hx => hx.vfFresh _ _) _ (h.setPart _ _)) _)
theorem State.Inv.orderFrom (h : s.Inv) (p : BitVec 3) : (s.orderFrom p).Inv := h.setMem
theorem State.Inv.repcfgPut (h : s.Inv) (p : BitVec 3) (n : Nat) : (s.repcfgPut p n).Inv :=
  State.Inv.cond (h.setPart _ _) ((h.setPart _ _).orderFrom _)
theorem State.Inv.cfgPut (h : s.Inv) (r : Config.CfgReg) (n : Nat) : (s.cfgPut r n).Inv := by
  cases r with
  | partcfg => exact h.partcfgPut _ _
  | repcfg => exact h.repcfgPut _ _
  | psites => exact h.psitesPut _ _
  | qbase | qcfg => exact State.Inv.cond (h.setPart _ _) h
  | pkgcap | overflow | fabcfg | eccTh => exact h.setPkg _
  | memCtl => exact h.stackUpd _ _
  | rowGroup => exact h.rowPut _ _
  | shsize => exact State.Inv.cond h (h.setPkg _)
  | pkgCtr => exact h.setBar _
  | fabCtr => exact State.Inv.cond (h.fabPut _ _) h
  | droopth => exact h.setCsr _
  | smpBase | smpSize | smpLog => exact h.setDbg _
  | smpMask => exact (h.setDbg _).setDbg _
  | poolLimit => exact h.of_mem
  | droopCnt | flits | poolTop => exact h
  | ptbase | tvecw | qmask | energy | idleEnergy | fqbase | fqcfg | excTh | pwrcfg | repbase | rwbase | rwcfg | l2ways | pwrstat |
    repstat => exact h.setPart _ _
theorem State.Inv.cfgApply (h : s.Inv) (unit : Nat) (cs : List (Nat × Byte)) : (s.cfgApply unit cs).Inv :=
  State.Inv.foldl (fun _ _ hx => hx.cfgPut _ _) _ h
theorem State.Inv.setCfgUnit (h : s.Inv) (x : CfgUnit) : (s.setCfgUnit x).Inv := h.setPkg _
theorem execConfigStage_inv (h : s.Inv) (_gen : BitVec 16) (unit off : Nat) (bs : List Byte) : OutInv (execConfigStage _gen unit off bs s) :=
  (State.Inv.cond h (State.Inv.foldl (fun _ _ hx => hx.setCfgUnit _) _ h)).next
theorem State.Inv.dropImages (h : s.Inv) (of_ : Nat → Bool) : (s.dropImages of_).Inv := h.setPkg _
theorem State.Inv.commitUnit (h : s.Inv) (gen : BitVec 16) (crc : Word32)  (x : CfgUnit) : (State.commitUnit gen crc s x).Inv :=
  State.Inv.cond h (State.Inv.cond (h.setCfgUnit _) ((h.setCfgUnit _).dropImages _))
theorem execConfigCommit_inv (h : s.Inv) (gen : BitVec 16) (cls : BitVec 4) (crc : Word32) : OutInv (execConfigCommit gen cls crc s) :=
  State.Inv.next (State.Inv.cond h (State.Inv.foldl (fun _ _ hx => hx.commitUnit _ _ _) _ h))
theorem execConfigAbort_inv (h : s.Inv) (_gen : BitVec 16) : OutInv (execConfigAbort _gen s) := (State.Inv.cond h ((h.setPkg _).dropImages _)).next
theorem execConfigInvalidate_inv (h : s.Inv) (core : Nat) (va : Option Word64) : OutInv (execConfigInvalidate core va s) :=
  (State.Inv.cond (h.flushStore.invalidate _) h).next
theorem State.Inv.commitImage (h : s.Inv) (u : Nat) : (s.commitImage u).Inv := by
  unfold State.commitImage
  split
  · exact h.setPkg _
  · exact h
theorem State.Inv.commitTimeout (h : s.Inv) (x : CfgUnit) : (s.commitTimeout x).Inv := State.Inv.cond (h.setCfgUnit _) h
theorem State.Inv.commitsLate (h : s.Inv) : (s.commitsLate).Inv := State.Inv.cond (State.Inv.foldl (fun _ _ hx => hx.commitTimeout _) _ h) h
theorem execUnitCommit_inv (h : s.Inv) (unit : Nat) : OutInv (execUnitCommit unit s) := by
  unfold execUnitCommit
  dsimp only
  refine State.Inv.next ?_
  split
  · exact State.Inv.cond h (((h.commitImage _).setCfgUnit _).cfgApply _ _)
  · exact h
theorem execUnitCommitTimeout_inv (h : s.Inv) (unit : Nat) : OutInv (execUnitCommitTimeout unit s) := (h.commitTimeout _).next

end


/-! ### Cuts, chxdbg, the fabric and live service -/

section
variable {s : State}

theorem execVWriteLands_inv (h : s.Inv) : OutInv (execVWriteLands s) := (State.Inv.cond (State.Inv.vAdvance _ h) h).next
theorem execStreamConsume_inv (h : s.Inv) : OutInv (execStreamConsume s) := (State.Inv.cond (State.Inv.vAdvance _ h) h).next
theorem State.Inv.issueAgain (h : s.Inv) : s.issueAgain.Inv := by
  have hf := h.fetch .v
  unfold State.issueAgain
  split
  · next e =>
    rw [e] at hf
    split
    · exact State.Inv.issueBundle hf _
    · exact hf
  · next e => rw [e] at hf; exact hf
theorem execStretchEnd_inv (h : s.Inv) : OutInv (execStretchEnd s) := by
  refine State.Inv.next ?_
  split
  · exact State.Inv.cond h (State.Inv.cond (State.Inv.vAdvance _ h) h.issueAgain)
  · exact h
theorem execVHoldRelease_inv (h : s.Inv) : OutInv (execVHoldRelease s) := (State.Inv.cond h.issueAgain h).next
theorem State.Inv.applyReq (l : List (SReg × BitVec 6 × Bool)) (m : BitVec 8) (last : Option (BitVec 3 × BitVec 6 × BitVec 6)) {s : State} (h :
    s.Inv) :
    (applyReq s m last l).1.Inv := by
  induction l generalizing s m last with
  | nil => exact h
  | cons x t ih => exact State.Inv.cond_fst (ih _ _ (h.setSym _ _)) (ih _ _ (h.setSym _ _))
theorem State.Inv.rebind (h : s.Inv) : s.rebind.Inv := by
  have hr := State.Inv.applyReq s.requests 0 none h
  unfold State.rebind
  dsimp only
  split
  · exact hr
  · exact State.Inv.cond (((hr.setCsr _).record _ _ _ _ _ _).setPend _ _) ((hr.setCsr _).record _ _ _ _ _ _)
theorem State.Inv.replayRebind (h : s.Inv) : (s.replayRebind).Inv := by
  unfold State.replayRebind
  dsimp only
  split
  · exact State.Inv.cond (((h.setSym _ _).repTakeAt _ _).rebind) ((((h.setSym _ _).repTakeAt _ _).rebind).diverge _ _ _)
  · exact h.rebind
theorem State.Inv.stopHere (h : s.Inv) (drain : Nat) (items : List Nat) : (s.stopHere drain items).Inv := (h.setC _).setDbg _
theorem State.Inv.leaveLine (h : s.Inv) (drain : Nat) : (s.leaveLine drain).Inv := State.Inv.cond h (h.swTrace _ _ _)
theorem State.Inv.reachCut (h : s.Inv) : (s.reachCut).Inv :=
  State.Inv.cond (((State.Inv.cond (((State.Inv.cond (((h.atBoundary.setCsr _).setV _).setCtx _) ((h.atBoundary.setCsr _).setV
    _)).replayRebind).stopHere _ _) ((State.Inv.cond (((h.atBoundary.setCsr _).setV _).setCtx _) ((h.atBoundary.setCsr _).setV
      _)).replayRebind)).leaveLine _).saveStep _) ((State.Inv.cond (((State.Inv.cond (((h.atBoundary.setCsr _).setV _).setCtx _)
        ((h.atBoundary.setCsr _).setV _)).replayRebind).stopHere _ _) ((State.Inv.cond (((h.atBoundary.setCsr _).setV _).setCtx _)
          ((h.atBoundary.setCsr _).setV _)).replayRebind)).laterItems)
theorem State.Inv.drainTicks (n : Nat) {s : State} (h : s.Inv) : (s.drainTicks n).1.Inv := by
  induction n generalizing s with
  | zero => exact h
  | succ n ih =>
    rw [State.drainTicks]
    refine State.Inv.cond_fst h ?_
    split
    · next u hu =>
      have hv : u.Inv := h.vTick_of hu
      exact State.Inv.cond_fst hv (State.Inv.cond_fst (ih (State.Inv.toPermit _ hv)) (State.Inv.toPermit _ hv))
    · next u r hu => exact State.Inv.stretchOn (h.vTick_of hu : u.Inv) _
    · next u hu => exact (h.vTick_of hu : u.Inv)
theorem execConsistentCut_inv (h : s.Inv) : OutInv (execConsistentCut s) := by
  have hr := State.Inv.drainTicks 65536 h
  exact (State.Inv.cond (State.Inv.cond hr.reachCut hr) h).next
theorem execLatencySample_inv (h : s.Inv) (src : BitVec 4) (cycles : Nat) : OutInv (execLatencySample src cycles s) := (h.takeSample _ _).next
theorem State.Inv.refused (h : s.Inv) (what : Nat) : (s.refused what).Inv := h.show _
theorem execBreakCut_inv (h : s.Inv) (va : Word64) (iter core : Option Nat) (vf : Option (BitVec 3 × BitVec 2)) :
    OutInv (execBreakCut va iter core vf s) := by
  unfold execBreakCut
  dsimp only
  refine State.Inv.next ?_
  split
  · exact State.Inv.cond (h.refused _) (State.Inv.cond h (h.setDbg _))
  · exact h.refused _
theorem execInject_inv (h : s.Inv) (name : Nat) (n : BitVec 12) : OutInv (execInject name n s) := (h.setDbg _).next
theorem execLaunch_inv (h : s.Inv) (template : Word64) (k : List Word32) (core : Nat) (p : Option (BitVec 3)) (vf : BitVec 2) :
    OutInv (execLaunch template k core p vf s) := by
  unfold execLaunch
  dsimp only
  refine State.Inv.next ?_
  refine State.Inv.cond h ?_
  split
  · exact State.Inv.cond (h.refused _) (h.setCtx _)
  · exact h.refused _
theorem execContinueRun_inv (h : s.Inv) : OutInv (execContinueRun s) := (h.setDbg _).next
theorem execStepStrand_inv (h : s.Inv) (k : Strand) : OutInv (execStepStrand k s) := (State.Inv.cond h h.of_mem).next
theorem execStepPublish_inv (h : s.Inv) : OutInv (execStepPublish s) := (State.Inv.cond (h.publishAll _) h).next
theorem State.Inv.tablePage (h : s.Inv) (p : BitVec 3) (v : BitVec 2) : (s.tablePage p v).1.Inv := cellsWf_filter _ h
theorem State.Inv.putLeaf (p : BitVec 3) (v : BitVec 2) (va : Nat) (log entry : Nat) (l : List (Nat × Nat × Nat × Nat)) (t : Nat) {s : State} (h :
    s.Inv) :
    (s.putLeaf p v va log entry l t).Inv := by
  induction l generalizing s t with
  | nil => exact h
  | cons x rest ih =>
    exact State.Inv.cond (h.memWrite _ _ _ _) (State.Inv.cond (ih _ h) (ih _ ((h.tablePage _ _).memWrite _ _ _ _)))
theorem State.Inv.mapLeaf (h : s.Inv) (p : BitVec 3) (v : BitVec 2) (va pa log perm : Nat) : (s.mapLeaf p v va pa log perm).Inv :=
  State.Inv.putLeaf _ _ _ _ _ _ _ h
theorem State.Inv.mapRange (p : BitVec 3) (v : BitVec 2) (perm n va pa left : Nat) {s : State} (h : s.Inv) :
    (State.mapRange p v perm n va pa left s).Inv := by
  induction n generalizing s va pa left with
  | zero => exact h
  | succ n ih => exact State.Inv.ite h (ih _ _ _ ((h.mapLeaf _ _ _ _ _ _).show _))
theorem State.Inv.zeroPages (h : s.Inv) (pa size : Nat) : (s.zeroPages pa size).Inv := cellsWf_filter _ h
theorem execAlloc_inv (h : s.Inv) (va : Word64) (size pa : Nat) (p : Option (BitVec 3)) (vf : BitVec 2) : OutInv (execAlloc va size pa p vf s) :=
  (State.Inv.cond (h.refused _) (State.Inv.mapRange _ _ _ _ _ _ _ (h.zeroPages _ _))).next
theorem State.Inv.mapRuns (p : BitVec 3) (v : BitVec 2) (perm n : Nat) (l : List (Nat × Nat)) {s : State} (h : s.Inv) :
    (State.mapRuns p v perm n l s).Inv := by
  induction n generalizing s l with
  | zero => exact h
  | succ n ih =>
    cases l with
    | nil => exact h
    | cons x t => exact ih _ ((h.mapLeaf _ _ _ _ _ _).show _)
theorem execAllocShare_inv (h : s.Inv) (va : Word64) (size : Nat) (p : BitVec 3) (vf : BitVec 2) (va2 : Word64) (vf2 : BitVec 2) :
    OutInv (execAllocShare va size p vf va2 vf2 s) := (State.Inv.cond (h.refused _) (State.Inv.mapRuns _ _ _ _ _ h)).next
theorem State.Inv.growLeaf (h : s.Inv) (p : BitVec 3) (v : BitVec 2) (va : Nat) (perm : Nat) : (s.growLeaf p v va perm).Inv := by
  unfold State.growLeaf
  split
  · exact State.Inv.putLeaf _ _ _ _ _ _ _ h
  · exact h
theorem State.Inv.mapSection (h : s.Inv) (p : BitVec 3) (v : BitVec 2) (va pa perm n : Nat) : (s.mapSection p v va pa perm n).Inv :=
  State.Inv.mapRuns _ _ _ _ _ (State.Inv.foldl (fun _ _ hx => State.Inv.cond (hx.growLeaf _ _ _ _) hx) _ h)
theorem State.Inv.loadSection (h : s.Inv) (p : BitVec 3) (v : BitVec 2)  (x : Word64 × Nat × BitVec 3 × List Byte) :
    (State.loadSection p v s x).Inv :=
  (h.mapSection _ _ _ _ _ _).memWrite _ _ _ _
theorem execLoad_inv (h : s.Inv) (sections : List (Word64 × Nat × BitVec 3 × List Byte)) (p : Option (BitVec 3)) (vf : BitVec 2) :
    OutInv (execLoad sections p vf s) := by
  unfold execLoad
  dsimp only
  split
  · exact (h.refused _).next
  · exact State.Inv.next (State.Inv.of_mem (State.Inv.foldl (fun _ _ hx => hx.loadSection _ _ _) _ h))
theorem execSubmit_inv (h : s.Inv) (blk : Word64) (q : BitVec 6) (p : Option (BitVec 3)) (vf : BitVec 2) : OutInv (execSubmit blk q p vf s) :=
  (State.Inv.cond (h.refused _) (h.submitAs _ _ _ _)).next
theorem execPokeW_inv (h : s.Inv) (va : Word64) (value : Word64) (p : BitVec 3) (vf : BitVec 2) : OutInv (execPokeW va value p vf s) := by
  unfold execPokeW
  refine State.Inv.next ?_
  split
  · exact h.refused _
  · exact State.Inv.cond (h.again _) (h.hostStore _ _ _)
theorem execPeekX_inv (h : s.Inv) (va : Word64) (len : Nat) (p : Option (BitVec 3)) (vf : BitVec 2) : OutInv (execPeekX va len p vf s) :=
  (h.show _).next
theorem State.Inv.showLine (h : s.Inv) (l : TraceLine) : (s.showLine l).Inv := h.show _
theorem execTraceNb_inv (h : s.Inv) (core : Nat) : OutInv (execTraceNb core s) := (State.Inv.cond (h.setDbg _) h).next
theorem execPrintTraceNb_inv (h : s.Inv) (lo hi : Nat) : OutInv (execPrintTraceNb lo hi s) := (State.Inv.foldl (fun _ _ hx => hx.showLine _) _ h).next
theorem execPrintNbRecord_inv (h : s.Inv) (i : BitVec 3) : OutInv (execPrintNbRecord i s) := (h.show _).next
theorem State.Inv.setCounters (h : s.Inv) (p : BitVec 3) (v : BitVec 2) (k : Counters) : (s.setCounters p v k).Inv :=
  State.Inv.cond h (State.Inv.cond h.of_mem (h.setPart _ _))
theorem execSetCsel_inv (h : s.Inv) (p : BitVec 3) (vf : BitVec 2) (vals : List Word64) : OutInv (execSetCsel p vf vals s) :=
  (h.setCounters _ _ _).next
theorem execSetCnt_inv (h : s.Inv) (p : BitVec 3) (vf : BitVec 2) (vals : List Word64) : OutInv (execSetCnt p vf vals s) := (h.setCounters _ _ _).next
theorem execPrintCnt_inv (h : s.Inv) (p : BitVec 3) (vf : BitVec 2) : OutInv (execPrintCnt p vf s) := (h.show _).next
theorem execTraceSwitch_inv (h : s.Inv) (p : BitVec 3) (core : Nat) : OutInv (execTraceSwitch p core s) := (State.Inv.cond (h.setDbg _) h).next
theorem execTraceIrq_inv (h : s.Inv) (p : BitVec 3) : OutInv (execTraceIrq p s) := (h.setDbg _).next
theorem execPrintTrace_inv (h : s.Inv) (irq : Bool) : OutInv (execPrintTrace irq s) := (State.Inv.foldl (fun _ _ hx => hx.showLine _) _ h).next
theorem execSetDroopth_inv (h : s.Inv) (cluster : Nat) (value : BitVec 16) : OutInv (execSetDroopth cluster value s) :=
  (State.Inv.cond (h.writeCsr _ _) h).next
theorem execPrintDroop_inv (h : s.Inv) (cluster : Nat) : OutInv (execPrintDroop cluster s) := (State.Inv.cond (h.show _) h).next
theorem execPrintEnergy_inv (h : s.Inv) (p : BitVec 3) (q : BitVec 6) : OutInv (execPrintEnergy p q s) := (h.show _).next
theorem execTraceDroop_inv (h : s.Inv) (core : Nat) : OutInv (execTraceDroop core s) := (State.Inv.cond (h.setDbg _) h).next
theorem execPrintTraceDroop_inv (h : s.Inv) (lo hi : Nat) : OutInv (execPrintTraceDroop lo hi s) :=
  (State.Inv.foldl (fun _ _ hx => hx.showLine _) _ h).next
theorem execStitchMarkerPlaced_inv (h : s.Inv) (k : Strand) : OutInv (execStitchMarkerPlaced k s) := (h.placeMarker _).next
theorem State.Inv.linkUpd (h : s.Inv) (port : Nat) (f : Link → Link) : (s.linkUpd port f).Inv := h.setPkg _
theorem execFlitCrcFailure_inv (h : s.Inv) (port : Nat) : OutInv (execFlitCrcFailure port s) := (State.Inv.cond (h.linkUpd _ _) h).next
theorem State.Inv.flitReplayed (h : s.Inv) (port : Nat) : (s.flitReplayed port).Inv := h.linkUpd _ _
theorem execLinkRetrain_inv (h : s.Inv) (port : Nat) : OutInv (execLinkRetrain port s) := (State.Inv.cond (h.linkUpd _ _) h).next
theorem execLinkRetrainComplete_inv (h : s.Inv) (port : Nat) : OutInv (execLinkRetrainComplete port s) :=
  (State.Inv.cond ((h.linkUpd _ _).setPkg _) h).next
theorem execStopGoFlowControl_inv (h : s.Inv) (port : Nat) (vc : BitVec 3) (stop : Bool) : OutInv (execStopGoFlowControl port vc stop s) :=
  (h.linkUpd _ _).next
theorem State.Inv.postAll (h : s.Inv) (r : FaultRec) : (s.postAll r).Inv := State.Inv.foldl (fun _ _ hx => hx.post _ _) _ h
theorem State.Inv.failGroups (h : s.Inv) (pkg : BitVec 8) (awaited : List (BitVec 12)) : (s.failGroups pkg awaited).Inv := h.setPkg _
theorem State.Inv.domainMove (h : s.Inv) (pkg : BitVec 8) (inside : Bool) (awaited : List (BitVec 12)) : (s.domainMove pkg inside awaited).Inv :=
  State.Inv.cond (h.setPkg _) ((h.setPkg _).failGroups _ _)
theorem execPortDown_inv (h : s.Inv) (port : Nat) : OutInv (execPortDown port s) :=
  (State.Inv.cond h (State.Inv.cond ((((h.linkUpd _ _).setPkg _).postAll _).failGroups _ _) (((h.linkUpd _ _).setPkg _).postAll _))).next
theorem execRequestTimeout_inv (h : s.Inv) (tag : Nat) : OutInv (execRequestTimeout tag s) := by
  unfold execRequestTimeout
  refine State.Inv.next ?_
  refine State.Inv.cond h ?_
  split
  · exact h.setPkg _
  · exact State.Inv.cond (h.setPkg _) h
theorem execAnsweredTagExpiry_inv (h : s.Inv) (tag : Nat) : OutInv (execAnsweredTagExpiry tag s) := (h.setPkg _).next
theorem State.Inv.tagsExpire (h : s.Inv) : (s.tagsExpire).Inv := State.Inv.cond (h.setPkg _) h
theorem execReductionHoldExpiry_inv (h : s.Inv) (i : Nat) : OutInv (execReductionHoldExpiry i s) := (h.setPkg _).next
theorem execReductionHomeApply_inv (h : s.Inv) (i : Nat) : OutInv (execReductionHomeApply i s) := by
  unfold execReductionHomeApply
  dsimp only
  refine State.Inv.next ?_
  split
  · exact State.Inv.cond h (((h.setPkg _).store _ _ _ _).recordArrival _ _)
  · exact h
theorem execContributionLost_inv (h : s.Inv) (i : Nat) : OutInv (execContributionLost i s) := by
  unfold execContributionLost
  dsimp only
  refine State.Inv.next ?_
  split
  · exact State.Inv.cond (h.setPkg _) (((h.setPkg _).post _ _).async _ _)
  · exact h
theorem execFabricBarrierArrival_inv (h : s.Inv) (pkg : BitVec 8) (group : BitVec 12) : OutInv (execFabricBarrierArrival pkg group s) :=
  (State.Inv.cond (h.fabSend _) (h.fabArrive _ _)).next
theorem execFabricCompletionArrives_inv (h : s.Inv) (group : BitVec 12) : OutInv (execFabricCompletionArrives group s) :=
  (State.Inv.cond ((h.setFab _).setBar _) h).next
theorem execBarrierGroupFailureArrives_inv (h : s.Inv) (group : BitVec 12) : OutInv (execBarrierGroupFailureArrives group s) :=
  (State.Inv.cond ((h.post _ _).async _ _) h).next
theorem execGroupCounterMove_inv (h : s.Inv) (group : BitVec 12) : OutInv (execGroupCounterMove group s) := by
  unfold execGroupCounterMove
  dsimp only
  refine State.Inv.next ?_
  refine State.Inv.cond h ?_
  split
  · exact h.setFab _
  · exact h.setFab _
theorem execEthLinkDown_inv (h : s.Inv) (port : BitVec 3) : OutInv (execEthLinkDown port s) := (State.Inv.cond ((h.setPkg _).postAll _) h).next
theorem State.Inv.qpPost (h : s.Inv) (p : BitVec 3) (num : Nat) (rc : Bool) (port prio : BitVec 3) : (s.qpPost p num rc port prio).Inv :=
  State.Inv.cond h (h.setPkg _)
theorem State.Inv.ethSend (h : s.Inv) (p : BitVec 3) (num pa len : Nat) : (s.ethSend p num pa len).Inv := by
  unfold State.ethSend
  dsimp only
  split
  · exact h
  · exact State.Inv.cond (h.again _) (State.Inv.cond (h.outsideRead _ _) ((h.outsideRead _ _).setPkg _))
theorem State.Inv.ecnMarked (h : s.Inv) (p : BitVec 3) (num : Nat) : (s.ecnMarked p num).Inv := State.Inv.cond (h.setPkg _) h
theorem execCongestionNotificationPacket_inv (h : s.Inv) (qp : Nat) : OutInv (execCongestionNotificationPacket qp s) := (h.setPkg _).next
theorem execPriorityFlowControlPause_inv (h : s.Inv) (port prio : BitVec 3) (pause : Bool) :
    OutInv (execPriorityFlowControlPause port prio pause s) :=
  (h.setPkg _).next
theorem State.Inv.holdOld (h : s.Inv) (va : Word64) (n : Nat)  (k : Strand) : (State.holdOld va n s k).Inv :=
  State.Inv.foldl (fun _ _ hx => hx.fetchAhead _ _) _ h
theorem execBreakpointPatch_inv (h : s.Inv) (va : Word64) (bs : List Byte) : OutInv (execBreakpointPatch va bs s) := by
  have hs := State.Inv.cond (b := s.stepOn) (State.Inv.foldl (f := State.holdOld va bs.length) (fun _ _ hx => hx.holdOld _ _ _) [Strand.c, .l, .v,
    .s] h) h
  exact State.Inv.next (State.Inv.cond (((hs.memWrite _ _ _ _).setDbg _).setCtx _) ((hs.memWrite _ _ _ _).setDbg _).acked)
theorem execSiteDrain_inv (h : s.Inv) (die : BitVec 2) (site : BitVec 5) : OutInv (execSiteDrain die site s) := by
  unfold execSiteDrain
  dsimp only
  refine State.Inv.next ?_
  refine State.Inv.cond h ?_
  refine State.Inv.cond (h.setPkg _) ?_
  refine State.Inv.cond (((h.setPkg _).requestLeave _).setPkg _) ?_
  split
  · exact (h.setPkg _).emptySlots _
  · exact h.setPkg _
theorem State.Inv.elsewhere (h : s.Inv) (p : BitVec 3)  (id : StepId) : (State.elsewhere p s id).Inv := by
  unfold State.elsewhere
  refine State.Inv.cond (h.failStep _ _) ?_
  split
  · exact h.setPart _ _
  · exact h
theorem State.Inv.abandonSite (h : s.Inv) (p : BitVec 3) : (s.abandonSite p).Inv :=
  State.Inv.setPart (State.Inv.foldl (fun _ _ hx => hx.elsewhere _ _) _ (h.setPart _ _)) _ _
theorem execSiteRepair_inv (h : s.Inv) (die : BitVec 2) (site : BitVec 5) (banksLost : Nat) : OutInv (execSiteRepair die site banksLost s) := by
  unfold execSiteRepair
  dsimp only
  refine State.Inv.next ?_
  refine State.Inv.cond h ?_
  refine State.Inv.cond ?_ (State.Inv.cond (h.setPkg _) (((h.setPkg _).setPkg _).of_mem))
  split
  · exact State.Inv.cond (h.abandonSite _) h
  · exact h
theorem execFirmwareUpdate_inv (h : s.Inv) (unit version : Nat) (image sig : List Byte) : OutInv (execFirmwareUpdate unit version image sig s) :=
  (State.Inv.cond ((h.setPkg _).setCfgUnit _) h).next
theorem State.Inv.pageMove (h : s.Inv) (old new leaf : Nat) : (s.pageMove old new leaf).Inv := by
  refine State.Inv.cond h (State.Inv.cond (h.again _) (State.Inv.of_mem (State.Inv.memWrite ?_ _ _ _ _)))
  exact cellsWf_foldl _ (cellsWf_filter _ (((h.flushStore.publishPage _).placeGranules _).drainPage _))
theorem execPageMove_inv (h : s.Inv) (old new leaf : Nat) : OutInv (execPageMove old new leaf s) :=
  OutInv.cond (outInv_fault _) ((h.pageMove _ _ _).next)
theorem execPackageReset_inv (images : List (Nat × List Byte × List Byte)) : OutInv (execPackageReset images s) := State.Inv.next rfl
theorem State.Inv.spdmSay (h : s.Inv) (p : Spdm) (what : String) (b : List Byte) : (s.spdmSay p what b).Inv := h.setPkg _
theorem State.Inv.spdmError (h : s.Inv) : (s.spdmError).Inv := h.spdmSay _ _ _
theorem execGetVersion_inv (h : s.Inv) : OutInv (execGetVersion s) := (h.spdmSay _ _ _).next
theorem execGetCapabilities_inv (h : s.Inv) : OutInv (execGetCapabilities s) := (State.Inv.cond (h.spdmSay _ _ _) h.spdmError).next
theorem execNegotiateAlgorithms_inv (h : s.Inv) (_algs : List Nat) : OutInv (execNegotiateAlgorithms _algs s) :=
  (State.Inv.cond (h.spdmSay _ _ _) h.spdmError).next
theorem execGetDigests_inv (h : s.Inv) : OutInv (execGetDigests s) := (State.Inv.cond (h.spdmSay _ _ _) h.spdmError).next
theorem execGetCertificate_inv (h : s.Inv) (off len : Nat) : OutInv (execGetCertificate off len s) :=
  (State.Inv.cond (h.spdmSay _ _ _) h.spdmError).next
theorem execChallenge_inv (h : s.Inv) (nonce : List Byte) : OutInv (execChallenge nonce s) := (State.Inv.cond (h.spdmSay _ _ _) h.spdmError).next
theorem execGetMeasurements_inv (h : s.Inv) (index : Nat) : OutInv (execGetMeasurements index s) :=
  (State.Inv.cond h.spdmError (h.spdmSay _ _ _)).next
theorem execTakePendingTrap_inv (h : s.Inv) : OutInv (execTakePendingTrap s) := by
  unfold execTakePendingTrap
  refine State.Inv.next ?_
  refine State.Inv.cond h ?_
  split
  · exact h
  · exact h.takeUnitFault
  · exact h.takePending _
theorem State.Inv.freezeNow (h : s.Inv) : (s.freezeNow).Inv := by
  unfold State.freezeNow
  split
  · refine State.Inv.cond h ?_
    split
    · exact h.setTrap _
    · exact State.Inv.cond ((h.setTrap _).unitTrap) (h.trapNow _ _ _ _)
  · exact h
theorem execFreezeWaitDone_inv (h : s.Inv) : OutInv (execFreezeWaitDone s) := by
  unfold execFreezeWaitDone
  refine State.Inv.next ?_
  split
  · exact State.Inv.cond h.freezeNow h
  · exact h
theorem execFreezeWaitTimeout_inv (h : s.Inv) : OutInv (execFreezeWaitTimeout s) := by
  unfold execFreezeWaitTimeout
  refine State.Inv.next ?_
  split
  · exact State.Inv.cond h.freezeNow h
  · exact h
theorem execDeadlockWatchdog_inv (h : s.Inv) : OutInv (execDeadlockWatchdog s) := (State.Inv.cond ((h.async _ _).setTrap _) h).next

end


/-! ### The dispatcher, other agents, and the turn -/

section
variable {s : State}

theorem State.Inv.issueAlone (h : s.Inv) (i : Instr) : (s.issueAlone i).Inv := by
  unfold State.issueAlone
  split
  · exact h.issueBundle _
  · exact h
/-- What every instruction and every event answers keeps the form. -/
theorem exec_inv (h : s.Inv) (i : Instr) : OutInv (exec i s) := by
  cases i with
  | tLbeg | tLend | tLbr | jmp | halt | stgSet | stgClr | stgCond | stgLoad | tkr | tsr | ywait | tYadd | tYaddi | tYmov | tYrd | tHint | vadd
    | vsub | vmul | vfma | vfms | vmin | vmax | vclamp | vabs | vneg | vand | vor | vxor | vnot | vshl | vshr | vsra | vcmp | vsel | vmov | vimm
    | vbrow | vbcol | vidx | vperm | vtr | vrsum | vcsum | vrmax | vcmax | vshape | vcvt | vscl | vpack | vunpk | vexp | vexp2 | vlog | vlog2 | vrcp
    | vrsqrt | vsqrt | vtanh | vsig | vsin | vcos | verf | abHint | mnop | mcfg | mswap | mmac | mmacs | mclr | mdrain => exact (h.issueAlone _).next
  | add => exact execAdd_inv h _ _ _
  | sub => exact execSub_inv h _ _ _
  | and => exact execAnd_inv h _ _ _
  | or => exact execOr_inv h _ _ _
  | xor => exact execXor_inv h _ _ _
  | andn => exact execAndn_inv h _ _ _
  | sll => exact execSll_inv h _ _ _
  | srl => exact execSrl_inv h _ _ _
  | sra => exact execSra_inv h _ _ _
  | slt => exact execSlt_inv h _ _ _
  | sltn => exact execSltn_inv h _ _ _
  | min => exact execMin_inv h _ _ _
  | max => exact execMax_inv h _ _ _
  | minn => exact execMinn_inv h _ _ _
  | maxn => exact execMaxn_inv h _ _ _
  | mul => exact execMul_inv h _ _ _
  | mulh => exact execMulh_inv h _ _ _
  | mulhn => exact execMulhn_inv h _ _ _
  | div => exact execDiv_inv h _ _ _
  | divn => exact execDivn_inv h _ _ _
  | rem => exact execRem_inv h _ _ _
  | remn => exact execRemn_inv h _ _ _
  | clz => exact execClz_inv h _ _
  | ctz => exact execCtz_inv h _ _
  | popc => exact execPopc_inv h _ _
  | bswap => exact execBswap_inv h _ _
  | addx => exact execAddx_inv h _ _ _ _
  | addi => exact execAddi_inv h _ _ _
  | andi => exact execAndi_inv h _ _ _
  | ori => exact execOri_inv h _ _ _
  | xori => exact execXori_inv h _ _ _
  | slli => exact execSlli_inv h _ _ _
  | srli => exact execSrli_inv h _ _ _
  | srai => exact execSrai_inv h _ _ _
  | slti => exact execSlti_inv h _ _ _
  | sltni => exact execSltni_inv h _ _ _
  | muli => exact execMuli_inv h _ _ _
  | ldhi => exact execLdhi_inv h _ _ _
  | lea => exact execLea_inv h _ _
  | ldI8 => exact execLdI8_inv h _ _ _
  | ldI16 => exact execLdI16_inv h _ _ _
  | ldI32 => exact execLdI32_inv h _ _ _
  | ld => exact execLd_inv h _ _ _
  | ldN8 => exact execLdN8_inv h _ _ _
  | ldN16 => exact execLdN16_inv h _ _ _
  | ldN32 => exact execLdN32_inv h _ _ _
  | stI8 => exact execStI8_inv h _ _ _
  | stI16 => exact execStI16_inv h _ _ _
  | stI32 => exact execStI32_inv h _ _ _
  | st => exact execSt_inv h _ _ _
  | beq => exact execBeq_inv h _ _ _
  | bne => exact execBne_inv h _ _ _
  | blt => exact execBlt_inv h _ _ _
  | bge => exact execBge_inv h _ _ _
  | bltn => exact execBltn_inv h _ _ _
  | bgen => exact execBgen_inv h _ _ _
  | jal => exact execJal_inv h _
  | jalr => exact execJalr_inv h _ _ _
  | amoAdd => exact execAmoAdd_inv h _ _ _
  | amoAddI32 => exact execAmoAddI32_inv h _ _ _
  | amoAnd => exact execAmoAnd_inv h _ _ _
  | amoAndI32 => exact execAmoAndI32_inv h _ _ _
  | amoOr => exact execAmoOr_inv h _ _ _
  | amoOrI32 => exact execAmoOrI32_inv h _ _ _
  | amoXor => exact execAmoXor_inv h _ _ _
  | amoXorI32 => exact execAmoXorI32_inv h _ _ _
  | amoMin => exact execAmoMin_inv h _ _ _
  | amoMinI32 => exact execAmoMinI32_inv h _ _ _
  | amoMax => exact execAmoMax_inv h _ _ _
  | amoMaxI32 => exact execAmoMaxI32_inv h _ _ _
  | amoSwap => exact execAmoSwap_inv h _ _ _
  | amoSwapI32 => exact execAmoSwapI32_inv h _ _ _
  | amoCas => exact execAmoCas_inv h _ _ _ _
  | amoCasI32 => exact execAmoCasI32_inv h _ _ _ _
  | amoFaddF32 => exact execAmoFaddF32_inv h _ _ _
  | amoFaddBf16 => exact execAmoFaddBf16_inv h _ _ _
  | sbBase => exact execSbBase_inv h _ _
  | sbBaseSc => exact execSbBaseSc_inv h _ _ _
  | sbDim => exact execSbDim_inv h _ _ _ _
  | sbFmt => exact execSbFmt_inv h _ _ _
  | sbWin => exact execSbWin_inv h _ _
  | sbGo => exact execSbGo_inv h _
  | sbStop => exact execSbStop_inv h _
  | sbRd => exact execSbRd_inv h _ _ _
  | cpMp => exact execCpMp_inv h _ _ _ _
  | cpPm => exact execCpPm_inv h _ _ _ _ _
  | cpMm => exact execCpMm_inv h _ _ _ _ _
  | cpPp => exact execCpPp_inv h _ _ _ _
  | gth => exact execGth_inv h _ _ _ _ _ _
  | sct => exact execSct_inv h _ _ _ _ _ _ _
  | pub => exact execPub_inv h _ _
  | ecw => exact execEcw_inv h _ _ _
  | eqRd => exact execEqRd_inv h _ _ _
  | mig => exact execMig_inv h _ _
  | migRd => exact execMigRd_inv h _ _
  | wrfRd => exact execWrfRd_inv h _ _
  | nbLd => exact execNbLd_inv h _ _
  | nbGo => exact execNbGo_inv h _ _ _ _ _
  | nbFence => exact execNbFence_inv h
  | nbRd => exact execNbRd_inv h _ _ _
  | dmd => exact execDmd_inv h _ _ _
  | redmd => exact execRedmd_inv h _
  | dmdRd => exact execDmdRd_inv h _ _ _
  | lsymRd => exact execLsymRd_inv h _ _
  | lsymPin => exact execLsymPin_inv h _ _
  | lsymFree => exact execLsymFree_inv h _
  | fenceE => exact execFenceE_inv h
  | fenceB => exact execFenceB_inv h
  | fenceS => exact execFenceS_inv h
  | fenceF => exact execFenceF_inv h
  | mon => exact execMon_inv h _ _
  | mwait => exact execMwait_inv h _ _
  | bar => exact execBar_inv h _
  | barA => exact execBarA_inv h _ _
  | barW => exact execBarW_inv h _
  | tokPush => exact execTokPush_inv h _
  | tokPop => exact execTokPop_inv h _
  | tsub => exact execTsub_inv h _ _
  | tdep => exact execTdep_inv h _ _
  | yield => exact execYield_inv h _
  | csrr => exact execCsrr_inv h _ _
  | csrw => exact execCsrw_inv h _ _ _
  | csrs => exact execCsrs_inv h _ _ _
  | csrc => exact execCsrc_inv h _ _ _
  | eret => exact execEret_inv h
  | tlbi => exact execTlbi_inv h _
  | icsync => exact execIcsync_inv h
  | endC => exact execEndC_inv h
  | trap => exact execTrap_inv h _
  | bkpt => exact execBkpt_inv h _
  | nop payload => exact execNop_inv h payload
  | yadd => exact execYadd_inv h _ _ _ _ _ _
  | yaddi => exact execYaddi_inv h _ _ _ _ _ _
  | ymov => exact execYmov_inv h _ _ _ _ _
  | yrd => exact execYrd_inv h _ _ _ _ _ _
  | lbeg => exact execLbeg_inv h _ _ _ _ _
  | lend => exact execLend_inv h _ _ _
  | lbr => exact execLbr_inv h _ _ _ _ _
  | lsEnd => exact execLsEnd_inv h _ _ _
  | vld => exact execVld_inv h _ _ _ _ _ _ _ _ _
  | pld => exact execPld_inv h _ _ _ _ _ _ _
  | wload => exact execWload_inv h _ _ _ _ _ _ _ _
  | vst => exact execVst_inv h _ _ _ _ _ _ _ _ _
  | pst => exact execPst_inv h _ _ _ _ _ _
  | vredAdd => exact execVredAdd_inv h _ _ _ _ _ _ _ _
  | vredMin => exact execVredMin_inv h _ _ _ _ _ _ _ _
  | vredMax => exact execVredMax_inv h _ _ _ _ _ _ _ _
  | lsHint => exact execLsHint_inv h _ _ _ _
  | vBundleIssue => exact execVBundleIssue_inv h _
  | unassignedEncoding => exact execUnassignedEncoding_inv h _ _
  | instructionFetchFault => exact execInstructionFetchFault_inv h _ _ _
  | dataWordRetire => exact execDataWordRetire_inv h _
  | engineCommandStart => exact execEngineCommandStart_inv h _
  | completionEntryPush => exact execCompletionEntryPush_inv h _
  | migTranslationLands => exact execMigTranslationLands_inv h _
  | nbRowStep => exact execNbRowStep_inv h _
  | nbResume => exact execNbResume_inv h _
  | nbComplete => exact execNbComplete_inv h _
  | ringTake => exact execRingTake_inv h _ _
  | predPoll => exact execPredPoll_inv h _
  | blockAssign => exact execBlockAssign_inv h _
  | blockComplete => exact execBlockComplete_inv h _
  | quantumEnd => exact execQuantumEnd_inv h _
  | savedCounterAdd => exact execSavedCounterAdd_inv h _ _ _
  | hostWrite => exact execHostWrite_inv h _ _
  | ethRdmaWriteIn => exact execEthRdmaWriteIn_inv h _ _
  | ethRdmaReadOut => exact execEthRdmaReadOut_inv h _ _
  | remoteRequestAtHome => exact execRemoteRequestAtHome_inv h _ _ _ _ _ _
  | faultAnswerTimeout => exact execFaultAnswerTimeout_inv h _ _
  | switchFreezeDeadline => exact execSwitchFreezeDeadline_inv h _
  | worldSwitchRestore => exact execWorldSwitchRestore_inv h _
  | unitCommit => exact execUnitCommit_inv h _
  | vWriteLands => exact execVWriteLands_inv h
  | streamConsume => exact execStreamConsume_inv h
  | stretchEnd => exact execStretchEnd_inv h
  | vHoldRelease => exact execVHoldRelease_inv h
  | consistentCut => exact execConsistentCut_inv h
  | latencySample => exact execLatencySample_inv h _ _
  | takePendingTrap => exact execTakePendingTrap_inv h
  | freezeWaitDone => exact execFreezeWaitDone_inv h
  | freezeWaitTimeout => exact execFreezeWaitTimeout_inv h
  | deadlockWatchdog => exact execDeadlockWatchdog_inv h
  | stepPlace => exact execStepPlace_inv h
  | stepStart => exact execStepStart_inv h
  | bindOffRetire => exact execBindOffRetire_inv h
  | enginePublish => exact execEnginePublish_inv h
  | pubExecute => exact execPubExecute_inv h
  | ecwExecute => exact execEcwExecute_inv h
  | refreshWindowEnd die bank => exact execRefreshWindowEnd_inv h die bank
  | nbDispatch => exact execNbDispatch_inv h
  | nbGranuleWrite => exact execNbGranuleWrite_inv h
  | trackerClear => exact execTrackerClear_inv h
  | cStoreEvent => exact execCStoreEvent_inv h
  | leaseLapse => exact execLeaseLapse_inv h _
  | dirtyEviction => exact execDirtyEviction_inv h _ _
  | mwaitWake => exact execMwaitWake_inv h
  | mwaitTimeout => exact execMwaitTimeout_inv h
  | fenceComplete => exact execFenceComplete_inv h
  | barrierWake => exact execBarrierWake_inv h
  | tsubAppend => exact execTsubAppend_inv h
  | starvationGuard => exact execStarvationGuard_inv h _
  | cutStop => exact execCutStop_inv h
  | freeze => exact execFreeze_inv h
  | abandon => exact execAbandon_inv h
  | faultAnswer => exact execFaultAnswer_inv h _ _ _
  | hostRead => exact execHostRead_inv h _ _
  | biasFlip => exact execBiasFlip_inv h _ _
  | biasFlipEvent => exact execBiasFlipEvent_inv h _
  | configStage gen => exact execConfigStage_inv h gen _ _ _
  | configCommit => exact execConfigCommit_inv h _ _ _
  | configAbort gen => exact execConfigAbort_inv h gen
  | configInvalidate => exact execConfigInvalidate_inv h _ _
  | unitCommitTimeout => exact execUnitCommitTimeout_inv h _
  | breakpointPatch => exact execBreakpointPatch_inv h _ _
  | siteDrain => exact execSiteDrain_inv h _ _
  | siteRepair => exact execSiteRepair_inv h _ _ _
  | firmwareUpdate => exact execFirmwareUpdate_inv h _ _ _ _
  | pageMove => exact execPageMove_inv h _ _ _
  | powerEstimate => exact execPowerEstimate_inv h
  | energyCharge => exact execEnergyCharge_inv h _ _
  | permitWindow => exact execPermitWindow_inv h
  | droopTrip => exact execDroopTrip_inv h
  | droopStretchEnd => exact execDroopStretchEnd_inv h
  | droopHalfIssueEnd => exact execDroopHalfIssueEnd_inv h
  | laneGroupPowerDown => exact execLaneGroupPowerDown_inv h _
  | replayInputApply => exact execReplayInputApply_inv h
  | packageReset => exact execPackageReset_inv _
  | getVersion => exact execGetVersion_inv h
  | getCapabilities => exact execGetCapabilities_inv h
  | negotiateAlgorithms algs => exact execNegotiateAlgorithms_inv h algs
  | getDigests => exact execGetDigests_inv h
  | getCertificate => exact execGetCertificate_inv h _ _
  | challenge => exact execChallenge_inv h _
  | getMeasurements => exact execGetMeasurements_inv h _
  | linkRetrain => exact execLinkRetrain_inv h _
  | portDown => exact execPortDown_inv h _
  | requestTimeout => exact execRequestTimeout_inv h _
  | answeredTagExpiry => exact execAnsweredTagExpiry_inv h _
  | reductionHoldExpiry => exact execReductionHoldExpiry_inv h _
  | reductionHomeApply => exact execReductionHomeApply_inv h _
  | contributionLost => exact execContributionLost_inv h _
  | fabricBarrierArrival => exact execFabricBarrierArrival_inv h _ _
  | fabricCompletionArrives => exact execFabricCompletionArrives_inv h _
  | groupCounterMove => exact execGroupCounterMove_inv h _
  | ethLinkDown => exact execEthLinkDown_inv h _
  | breakCut => exact execBreakCut_inv h _ _ _ _
  | inject => exact execInject_inv h _ _
  | launch => exact execLaunch_inv h _ _ _ _ _
  | alloc => exact execAlloc_inv h _ _ _ _ _
  | allocShare => exact execAllocShare_inv h _ _ _ _ _ _
  | submit => exact execSubmit_inv h _ _ _ _
  | load => exact execLoad_inv h _ _ _
  | pokeW => exact execPokeW_inv h _ _ _ _
  | peekX => exact execPeekX_inv h _ _ _ _
  | continueRun => exact execContinueRun_inv h
  | stepStrand => exact execStepStrand_inv h _
  | stepPublish => exact execStepPublish_inv h
  | traceNb => exact execTraceNb_inv h _
  | printTraceNb => exact execPrintTraceNb_inv h _ _
  | printNbRecord => exact execPrintNbRecord_inv h _
  | setCsel => exact execSetCsel_inv h _ _ _
  | setCnt => exact execSetCnt_inv h _ _ _
  | printCnt => exact execPrintCnt_inv h _ _
  | traceSwitch => exact execTraceSwitch_inv h _ _
  | traceIrq => exact execTraceIrq_inv h _
  | printTrace => exact execPrintTrace_inv h _
  | setDroopth => exact execSetDroopth_inv h _ _
  | printDroop => exact execPrintDroop_inv h _
  | printEnergy => exact execPrintEnergy_inv h _ _
  | traceDroop => exact execTraceDroop_inv h _
  | printTraceDroop => exact execPrintTraceDroop_inv h _ _
  | stitchMarkerPlaced => exact execStitchMarkerPlaced_inv h _
  | flitCrcFailure => exact execFlitCrcFailure_inv h _
  | linkRetrainComplete => exact execLinkRetrainComplete_inv h _
  | stopGoFlowControl => exact execStopGoFlowControl_inv h _ _ _
  | barrierGroupFailureArrives => exact execBarrierGroupFailureArrives_inv h _
  | congestionNotificationPacket => exact execCongestionNotificationPacket_inv h _
  | priorityFlowControlPause => exact execPriorityFlowControlPause_inv h _ _ _
theorem State.Inv.capRead (h : s.Inv) (fn off n : Nat) : (s.capRead fn off n).Inv := State.Inv.cond (h.setPkg _) h
theorem State.Inv.peerStore (h : s.Inv) (pa : Nat) (b : List Byte) (o : Owner) : (s.peerStore pa b o).Inv :=
  State.Inv.cond (h.again _) (((h.orderLines _ _ _).l2Access _ _ _ _).store _ _ _ _)
theorem State.Inv.peerReplay (h : s.Inv) (p : BitVec 3) : (s.peerReplay p).Inv := State.Inv.cond (h.repTake _) h
theorem State.Inv.peerRead (h : s.Inv) (pa : Nat) (by_ : Option (BitVec 3)) : (s.peerRead pa by_).Inv :=
  State.Inv.cond (State.Inv.cond h.flushStore h) ((((State.Inv.cond h.flushStore h).orderAt _ _ _).l2Access _ _ _ _).lease _ _)
theorem State.Inv.poisonLine (h : s.Inv) (pa : Nat) : (s.poisonLine pa).Inv := State.Inv.cond h (h.setMem.memRec _ _)
theorem State.Inv.poolError (h : s.Inv) (off : Nat) (double : Bool) : (s.poolError off double).Inv := State.Inv.cond h.of_mem h.of_mem
theorem State.Inv.peerContribute (h : s.Inv) (pa : Nat) (op : RedOp) (fmt : BitVec 4) (w : Word32) : (s.peerContribute pa op fmt w).Inv := h.setPkg _
theorem State.Inv.combine (h : s.Inv) (i j : Nat) : (s.combine i j).Inv := by
  unfold State.combine
  split
  · exact State.Inv.cond h (h.setPkg _)
  · exact h
theorem State.Inv.othersHalted (h : s.Inv) (p : BitVec 3) (q : BitVec 6) (blk : Word64) : (s.othersHalted p q blk).Inv := by
  unfold State.othersHalted
  split
  · exact h.setPart _ _
  · exact h
theorem State.Inv.gangReady (h : s.Inv) (p : BitVec 3) (q : BitVec 6) (blk : Word64) : (s.gangReady p q blk).Inv := by
  unfold State.gangReady
  split
  · exact h.setPart _ _
  · exact h
theorem State.Inv.conflict (h : s.Inv) (cell n : Nat) : (s.conflict cell n).Inv := (h.setDbg _).count _ _
/-- What other agents do at a turn keeps the form. -/
theorem envDo_inv (h : s.Inv) (a : EnvAction) : (envDo a s).Inv := by
  cases a with
  | peerStore => exact h.peerStore _ _ _
  | peerArrive => exact h.barArrive _ _ _
  | fetchAhead => exact State.Inv.cond (h.fetchAhead _ _) h
  | streamAhead => exact h.streamAhead _
  | streamLate => exact h.streamLate _ _
  | engineMove => exact State.Inv.cond h (h.engRun _ _)
  | tlbDrop | walkDrop | remoteFails => exact h.of_mem
  | hostVisible => exact h.setMem
  | poison => exact h.poisonLine _
  | corrected => exact h.corrected _
  | poolError => exact h.poolError _ _
  | contribute => exact h.peerContribute _ _ _ _
  | combine => exact h.combine _ _
  | othersHalted => exact h.othersHalted _ _ _
  | gangReady => exact h.gangReady _ _ _
  | gangAbandoned => exact h.gangAbandoned _ _ _
  | dieLoad | siteFull => exact h.setPart _ _
  | peerPlace => exact h.peerPlace _ _
  | gangRoom => exact h.gangRoom _ _
  | wait => exact h.passCycles _
  | fill => exact State.Inv.cond (h.mscAccess _ _ _) h
  | peerWake => exact h.laneWakes
  | vfEnergy => exact h.vfEnergy _ _ _ _
  | fallback | overflow | peerPorts | ethSplit | flits => exact h.setPkg _
  | pin => exact (h.setPkg _).l2Trim _ _
  | peerRead => exact h.peerRead _ _
  | peerReplay => exact h.peerReplay _
  | nbSuspend => exact h.nbSuspend _
  | nbServed => exact h.nbServed _
  | closeChannel => exact h.closeChannel _
  | pageMove => exact h.pageMove _ _ _
  | domain => exact h.domainMove _ _ _
  | fabPut => exact h.fabPut _ _
  | fabSend => exact h.fabSend _
  | flitReplayed => exact h.flitReplayed _
  | qpPost => exact h.qpPost _ _ _ _ _
  | ethSend => exact h.ethSend _ _ _ _
  | ecnMarked => exact h.ecnMarked _ _
  | capRead => exact h.capRead _ _ _
  | stopReq => exact State.Inv.cond (h.setDbg _) h
  | faultAnswer => exact h.putAnswer _ _ _
  | submitted => exact h.submitAs _ _ _ _
  | conflict => exact h.conflict _ _
  | readCounts => exact State.Inv.cond (h.show _) h
theorem State.Inv.nextUnit (h : s.Inv) (k : Strand) : (s.nextUnit k).1.Inv := State.Inv.cond_fst (h.fetch _) h
theorem State.Inv.pickC (h : s.Inv) : (s.pickC).1.Inv := by
  unfold State.pickC
  refine State.Inv.cond_fst h ?_
  split
  · exact h
  · refine State.Inv.cond_fst h ?_
    refine State.Inv.cond_fst h ?_
    refine State.Inv.cond_fst h ?_
    split
    · exact h
    · exact h
    · exact h
    · exact h
    · exact h
    · exact h.nextUnit _
theorem State.Inv.pickLS (h : s.Inv) (k : LS) : (s.pickLS k).1.Inv :=
  State.Inv.cond_fst h (State.Inv.cond_fst h (State.Inv.cond_fst h (h.nextUnit _)))
theorem State.Inv.pickV (h : s.Inv) : (s.pickV).1.Inv := by
  unfold State.pickV
  dsimp only
  refine State.Inv.cond_fst h ?_
  split
  · exact h
  · exact State.Inv.cond_fst h (State.Inv.cond_fst h (h.fetch _))
theorem State.Inv.pickOf (h : s.Inv) (k : Strand) : (s.pickOf k).1.Inv := by
  unfold State.pickOf
  split
  · exact h.pickC
  · exact h.pickLS _
  · exact h.pickV
  · exact h.pickLS _
theorem State.Inv.pickStrand (h : s.Inv) (k : Strand) : (s.pickStrand k).1.Inv := State.Inv.cond ((h.pickOf k).looks _) (h.pickOf k)
theorem State.Inv.pickIssue (h : s.Inv) (k : Strand) : (s.pickIssue k).1.Inv := State.Inv.cond_fst h (State.Inv.cond_fst (h.fetch _) h.of_mem)
theorem State.Inv.nextTurn (h : s.Inv) : (s.nextTurn).1.Inv := by
  unfold State.nextTurn
  split
  · exact h.of_mem
  · split
    · exact h.of_mem
    · exact h.of_mem
    · exact h.of_mem
    · exact h.of_mem
    · exact h.of_mem
    · split
      · exact h.of_mem
      · exact h.of_mem
theorem State.Inv.pick (h : s.Inv) (t : Turn) : (s.pick t).1.Inv := by
  cases t with
  | strand => exact h.pickStrand _
  | units | event => exact h
  | issue => exact h.pickIssue _
  | env => exact envDo_inv h _
theorem State.Inv.agedStore (h : s.Inv) : (s.agedStore).Inv := by
  unfold State.agedStore
  split
  · exact State.Inv.cond h.flushStore h
  · exact h
theorem State.Inv.endTurn (h : s.Inv) : (s.endTurn).Inv :=
  ((h.ordersGo.reap.markerRetire.samplerDue.patchMoves.agedStore.postsGo.flipsEnd.clearTrackers.tagsExpire.commitsLate.estimates.arrivals.guardActs
    _).nbTrace _).endCauses.passCycle

end

end Sys2Proof.Machine

open Sys2Proof Sys2Proof.Machine

/-- Settles O53: every operation of the machine writes memory by `cellSet` or drops cells of it, and so does every turn. -/
theorem everyStepKeepsMemoryCanonical : Obligations.EveryStepKeepsMemoryCanonical := by
  unfold Obligations.EveryStepKeepsMemoryCanonical
  intro s t h hs
  have hp := h.nextTurn.pick s.nextTurn.2
  unfold step at hs
  dsimp only at hs
  split at hs
  · cases hs; exact hp.endTurn
  · next i _ =>
    have hx := exec_inv hp i
    cases he : exec i (s.nextTurn.1.pick s.nextTurn.2).1 with
    | next u => rw [he] at hs; cases hs; exact (hx u he).endTurn
    | fault f => rw [he] at hs; cases hs
    | refused r => rw [he] at hs; cases hs
end

section
/-! Bundles at their issue (R25, R57, R123, R124): which instructions are bundles, what the slots leave alone as they start, and what the end of the
issue tick leaves. -/

namespace Sys2Proof.Machine
open Sys2Proof.Claims

/-! ### Instructions that are bundles (R83) -/

section
variable {s u : State} {i : Instr} {b : Bundle}

theorem State.issueAlone_of_bundle (s : State) (h : i.bundle = some b) : s.issueAlone i = s.issueBundle b := by
  unfold State.issueAlone
  rw [h]
/-- A bundle, or a slot instruction as the bundle that names only it, comes to issue. -/
theorem exec_of_bundle (s : State) (h : i.bundle = some b) : exec i s = .next (s.issueBundle b) := by
  cases i with
  | vBundleIssue => cases h; rfl
  | tLbeg | tLend | tLbr | jmp | halt | stgSet | stgClr | stgCond | stgLoad | tkr | tsr | ywait | tYadd | tYaddi | tYmov | tYrd | tHint | vadd
   | vsub | vmul | vfma | vfms | vmin | vmax | vclamp | vabs | vneg | vand | vor | vxor | vnot | vshl | vshr | vsra | vcmp | vsel | vmov | vimm
   | vbrow | vbcol | vidx | vperm | vtr | vrsum | vcsum | vrmax | vcmax | vshape | vcvt | vscl | vpack | vunpk | vexp | vexp2 | vlog | vlog2
   | vrcp | vrsqrt | vsqrt | vtanh | vsig | vsin | vcos | verf | abHint | mnop | mcfg | mswap | mmac | mmacs | mclr | mdrain => exact congrArg Host.Outcome.next (s.issueAlone_of_bundle h)
  | _ => cases h

/-- A bundle that V may issue issues, at T(n). -/
theorem issueBundle_of_vMay (h : VMay s b u) : s.issueBundle b = u.issueAt b (s.issueTick b) := by
  obtain ⟨hhalt, hend, hdrain, hcut, hsym, w, hadv, htr, htok, hok, hslots, hu⟩ := h
  have hc : (b.cut && !s.core.v.atCut && s.core.v.look) = false := by
    cases e : b.cut
    · rfl
    · cases hcut e with
      | inl h => rw [h]; rfl
      | inr h => rw [h, Bool.and_false]
  have hy : (bif b.cut && !s.core.v.atCut && s.core.v.lookYield then
        (s.setCtx { s.core.ctx with yield_ := none }).setV { s.core.v with lookYield := false } else s) =
      if b.cut = true ∧ s.core.v.atCut = false ∧ s.core.v.lookYield = true then
        (s.setCtx { s.core.ctx with yield_ := none }).setV { s.core.v with lookYield := false } else s := by
    cases b.cut <;> cases s.core.v.atCut <;> cases s.core.v.lookYield <;> rfl
  have hs : ∀ x, x = (if b.cut = true ∧ s.core.v.atCut = false ∧ s.core.v.lookYield = true then
        (s.setCtx { s.core.ctx with yield_ := none }).setV { s.core.v with lookYield := false } else s) →
      x.symBad b = false ∧ x.issueTick b = s.issueTick b ∧ x.core.csr.tick = s.core.csr.tick := by
    intro x hx
    have hb : s.symBad b = false := by
      unfold State.symBad
      cases hsym with
      | inl h => rw [h]; rfl
      | inr h => rw [h]; exact Bool.and_false _
    rw [hx]
    split
    · exact ⟨hb, rfl, rfl⟩
    · exact ⟨hb, rfl, rfl⟩
  unfold State.issueBundle
  dsimp only
  rw [hy]
  dsimp only at hadv
  generalize (if b.cut = true ∧ s.core.v.atCut = false ∧ s.core.v.lookYield = true then
        (s.setCtx { s.core.ctx with yield_ := none }).setV { s.core.v with lookYield := false } else s) = x at hs hadv ⊢
  obtain ⟨hbad, htick, hnow⟩ := hs x rfl
  have hm : (w.guardOn b && w.mswapHeld b) = false := by
    cases e : w.guardOn b
    · rfl
    · rw [(hslots e).1]; rfl
  have hcause : (bif w.guardOn b then w.slotCause b else none) = none := by
    cases e : w.guardOn b
    · rfl
    · exact (hslots e).2
  rw [hhalt, hend, hdrain, hc, hbad, htick, hnow, hadv, hok, htr, htok, hm]
  dsimp only [Bool.not_true, Bool.or_self, cond_false]
  rw [hcause, hu]
  rfl

end

/-! ### What the start of slots leaves (R206, R232) -/

/-- What the start of a bundle's slots leaves alone. -/
def Core.issueView (k : Core) := (k.strands, k.pool, k.arr, k.csr.tick)
/-- That, and V's operations in flight with the ticks from which the A and B slots are free. -/
def Core.slotView (k : Core) := (k.issueView, k.v.flight, k.v.freeA, k.v.freeB)

section
variable {s t : State}

theorem Core.Served.slotView {a b : Core} (h : a.Served b) : b.slotView = a.slotView := by
  obtain ⟨_, _, _, _, _, _, _, _, rfl⟩ := h
  rfl
theorem State.Serves.slotView (h : s.Serves t) : t.core.slotView = s.core.slotView := h.1.slotView
theorem Core.issueView_of_slotView {a b : Core} (h : b.slotView = a.slotView) : b.issueView = a.issueView := congrArg (·.1) h
theorem State.sampleSym_tick (s : State) (i : BitVec 3) (x : Nat) : (s.sampleSym i x).core.csr.tick = s.core.csr.tick := by
  unfold State.sampleSym
  exact cond_induction (P := fun t : State => t.core.csr.tick = s.core.csr.tick)
    (fun _ => cond_induction (P := fun t : State => t.core.csr.tick = s.core.csr.tick) (fun _ => rfl) fun _ => rfl) fun _ => rfl
theorem State.sampleAt_tick (s : State) (src : BitVec 4) (n k : Nat) : (s.sampleAt src n k).core.csr.tick = s.core.csr.tick := by
  unfold State.sampleAt
  refine cond_induction (P := fun t : State => t.core.csr.tick = s.core.csr.tick) (fun _ => rfl) fun _ => ?_
  exact foldl_keeps _ (fun t : State => t.core.csr.tick)
    (fun t i => cond_induction (P := fun u : State => u.core.csr.tick = t.core.csr.tick) (fun _ => t.sampleSym_tick _ _) fun _ => rfl) _ _
theorem State.sampleAt_slotView (s : State) (src : BitVec 4) (n k : Nat) : (s.sampleAt src n k).core.slotView = s.core.slotView := by
  have ht := s.sampleAt_tick src n k
  obtain ⟨c, t, e⟩ := s.sampleAt_eq src n k
  rw [e] at ht ⊢
  unfold Core.slotView Core.issueView
  dsimp only at ht ⊢
  rw [ht]
  rfl
theorem State.setDesc_slotView (s : State) (r : SReg) (d : Desc) : (s.setDesc r d).core.slotView = s.core.slotView := rfl
theorem State.samples_slotView {α : Type} (l : List α) (src : BitVec 4) (n k : Nat) (s : State) :
    (l.foldl (fun s _ => s.sampleAt src n k) s).core.slotView = s.core.slotView := by
  induction l generalizing s with
  | nil => rfl
  | cons a l ih => exact (ih _).trans (s.sampleAt_slotView _ _ _)
theorem State.arrive_slotView (s : State) (r : SReg) : (s.arrive r).core.slotView = s.core.slotView := by
  unfold State.arrive
  dsimp only
  split
  · rfl
  · refine cond_induction (P := fun t : State => t.core.slotView = s.core.slotView) (fun _ => rfl) fun _ => ?_
    refine cond_induction (P := fun t : State => t.core.slotView = s.core.slotView) (fun _ => rfl) fun _ => ?_
    refine cond_induction (P := fun t : State => t.core.slotView = s.core.slotView) (fun _ => rfl) fun _ => ?_
    exact (State.samples_slotView _ _ _ _ _).trans ((State.setDesc_slotView _ _ _).trans (s.fetchCounts_serves _ _).slotView)
theorem State.askBlocks_slotView (s : State) (r : SReg) (n : Nat) : (s.askBlocks r n).core.slotView = s.core.slotView := by
  unfold State.askBlocks
  refine cond_induction (P := fun t : State => t.core.slotView = s.core.slotView) (fun _ => (State.arrive_slotView _ _).trans ?_) fun _ => rfl
  exact cond_induction (P := fun t : State => t.core.slotView = s.core.slotView) (fun _ => rfl) fun _ => rfl
theorem State.asksFor_slotView (s : State) (rs : List SReg) : (s.asksFor rs).core.slotView = s.core.slotView :=
  foldl_keeps _ (fun x : State => x.core.slotView) (fun x _ => x.askBlocks_slotView _ _) _ _
theorem State.laneWakes_slotView (s : State) : s.laneWakes.core.slotView = s.core.slotView := by
  unfold State.laneWakes State.trip
  refine cond_induction (P := fun t : State => t.core.slotView = s.core.slotView) (fun _ => ?_) fun _ => rfl
  dsimp only
  split
  · exact cond_induction (P := fun t : State => t.core.slotView = s.core.slotView) (fun _ => rfl) fun _ => rfl
  · rfl
theorem State.wake_slotView (s : State) (t : Nat) : (s.wake t).core.slotView = s.core.slotView := by
  unfold State.wake
  exact cond_induction (P := fun t : State => t.core.slotView = s.core.slotView) (fun _ => State.laneWakes_slotView _) fun _ => rfl
theorem State.beatCount_slotView (s : State) (t n : Nat) : (s.beatCount t n).core.slotView = s.core.slotView := by
  unfold State.beatCount
  exact cond_induction (P := fun t : State => t.core.slotView = s.core.slotView) (fun _ => rfl) fun _ => (s.count_serves _ _).slotView
theorem State.mSchedule_issueView (s : State) (fs done : List Flight) : (s.mSchedule fs done).core.issueView = s.core.issueView := by
  obtain ⟨_, _, _, e⟩ := State.mSchedule_eq fs done s
  rw [e]
  rfl
theorem State.mSchedule_free (s : State) (fs done : List Flight) :
    (s.mSchedule fs done).core.v.freeA = s.core.v.freeA ∧ (s.mSchedule fs done).core.v.freeB = s.core.v.freeB := by
  obtain ⟨_, _, _, e⟩ := State.mSchedule_eq fs done s
  rw [e]
  exact ⟨rfl, rfl⟩

/-- An operation in flight once the beats of those of the M slot are fixed: an A or B operation as it was, an M operation with its timing set or not. -/
def Flight.Scheduled (f g : Flight) : Prop :=
  g = f ∨ (∃ o, f.op = .m o) ∧ ∃ b n l, g = { f with set := true, b0 := b, beats := n, land := l }
/-- Scheduling M operations keeps every operation in flight (R232). -/
theorem State.mSchedule_flight (fs done : List Flight) (s : State) (f : Flight) (h : f ∈ fs ∨ f ∈ done) :
    ∃ g ∈ (s.mSchedule fs done).core.v.flight, f.Scheduled g := by
  induction fs generalizing s done f with
  | nil =>
    refine ⟨f, ?_, .inl rfl⟩
    cases h with
    | inl h => cases h
    | inr h => exact List.mem_reverse.mpr h
  | cons x l ih =>
    have same : ∀ y : State, f ∈ l ∨ f ∈ x :: done → ∃ g ∈ (y.mSchedule l (x :: done)).core.v.flight, f.Scheduled g := fun y => ih _ y f
    have hm : f ∈ l ∨ f ∈ x :: done := by
      simp only [List.mem_cons] at h ⊢
      tauto
    rw [State.mSchedule]
    split
    · exact same s hm
    · next o ho =>
      refine cond_induction (P := fun t : State => ∃ g ∈ t.core.v.flight, f.Scheduled g) (fun _ => same s hm) fun _ => ?_
      refine cond_induction (P := fun t : State => ∃ g ∈ t.core.v.flight, f.Scheduled g) (fun _ => ⟨f, ?_, .inl rfl⟩) fun _ => ?_
      · show f ∈ done.reverse ++ x :: l
        simp only [List.mem_append, List.mem_reverse, List.mem_cons] at h ⊢
        tauto
      · dsimp only
        by_cases hx : f = x
        · subst hx
          obtain ⟨g, hg, hs⟩ := ih ({ f with set := true, b0 := _, beats := _, land := _ } :: done) _ _ (.inr List.mem_cons_self)
          refine ⟨g, hg, .inr ⟨⟨o, ho⟩, ?_⟩⟩
          rcases hs with rfl | ⟨_, b, n, e, rfl⟩
          · exact ⟨_, _, _, rfl⟩
          · exact ⟨b, n, e, rfl⟩
        · refine ih _ _ _ ?_
          simp only [List.mem_cons] at h ⊢
          tauto

end

/-! ### The end of the issue tick (R57, R123) -/

/-- The slots of a bundle started, and the beats of its issue tick (R203, R206, R232). -/
def State.started (s : State) (b : Bundle) (t : Nat) : State :=
  let x := ((s.startM b t).startAB b .a b.a t).startAB b .b b.b t
  let x := x.asksFor (bundlePops b x.core.v.shape.f)
  ((x.mSchedule x.core.v.flight []).wake t).beatCount t x.core.v.seq
/-- The end of a bundle's issue, which V looks ahead from (R25, R248). -/
def State.issued (s : State) (t : Nat) : State :=
  ((s.setV { s.core.v with tPrev := t, seq := s.core.v.seq + 1, blocked := false, atCut := false }).lookAhead.touch).count 0x03 1
/-- The token bits and the T slot at the end of the issue tick (R57, R126). -/
def State.tokensActed (s : State) (b : Bundle) (t : Nat) : State :=
  ((((s.tokIssue .v b.tok).tEffect b.t t).loopSnapshot (s.tokIssue .v b.tok).core.v.loops).tokRetire .v b.tok)

section
variable {s t u : State}

theorem State.issueAt_eq (s : State) (b : Bundle) (t : Nat) :
    s.issueAt b t = (bif s.guardOn b then ((((bif s.guardOn b then s.started b t else s).tokensActed b t).mEffect b.m).shapeEffect b.a).shapeEffect b.b
      else (bif s.guardOn b then s.started b t else s).tokensActed b t).issued t := rfl
theorem State.startAB_issueView (s : State) (b : Bundle) (ln : Lane) (x : ABSlot) (t : Nat) : (s.startAB b ln x t).core.issueView = s.core.issueView := by
  unfold State.startAB
  refine cond_induction (P := fun t : State => t.core.issueView = s.core.issueView) (fun _ => rfl) fun _ => ?_
  cases ln <;> rfl
theorem State.startM_issueView (s : State) (b : Bundle) (t : Nat) : (s.startM b t).core.issueView = s.core.issueView := by
  unfold State.startM
  exact cond_induction (P := fun t : State => t.core.issueView = s.core.issueView) (fun _ => rfl) fun _ => rfl
theorem State.started_issueView (s : State) (b : Bundle) (t : Nat) : (s.started b t).core.issueView = s.core.issueView := by
  unfold State.started
  dsimp only
  rw [Core.issueView_of_slotView (State.beatCount_slotView _ _ _), Core.issueView_of_slotView (State.wake_slotView _ _), State.mSchedule_issueView,
    Core.issueView_of_slotView (State.asksFor_slotView _ _), State.startAB_issueView, State.startAB_issueView, State.startM_issueView]
theorem State.guarded_issueView (s : State) (b : Bundle) (t : Nat) : (bif s.guardOn b then s.started b t else s).core.issueView = s.core.issueView :=
  cond_induction (P := fun t : State => t.core.issueView = s.core.issueView) (fun _ => s.started_issueView b t) fun _ => rfl
theorem State.loopSnap_slotView (s : State) (l : Loop) : (s.loopSnap l).core.slotView = s.core.slotView := by
  unfold State.loopSnap State.smpWrite
  dsimp only
  refine cond_induction (P := fun t : State => t.core.slotView = s.core.slotView) (fun _ => rfl) fun _ => ?_
  refine cond_induction (P := fun t : State => t.core.slotView = s.core.slotView) (fun _ => rfl) fun _ => ?_
  split
  · exact (State.storeCells_serves _ _ _ _).slotView
  · rfl
theorem State.loopSnapshot_slotView (s : State) (l : List Loop) : (s.loopSnapshot l).core.slotView = s.core.slotView :=
  foldl_keeps _ (fun x : State => x.core.slotView) (fun x _ => x.loopSnap_slotView _) _ _

/-- What the end of an issue makes of V (R25), and what it leaves. -/
theorem State.issued_core (s : State) (t : Nat) :
    (∃ l y d, (s.issued t).core.v = { s.core.v with
      tPrev := t, seq := s.core.v.seq + 1, blocked := false, atCut := false, look := l, lookYield := y, lookDue := d }) ∧
    (s.issued t).core.q = s.core.q ∧ (s.issued t).core.pool = s.core.pool ∧ (s.issued t).core.arr = s.core.arr ∧ (s.issued t).core.csr = s.core.csr ∧
    (s.issued t).core.c.regs = s.core.c.regs ∧ (s.issued t).core.l = s.core.l ∧ (s.issued t).core.s = s.core.s := by
  unfold State.issued
  obtain ⟨_, _, _, _, _, _, _, _, e⟩ := (State.count_serves
    ((s.setV { s.core.v with tPrev := t, seq := s.core.v.seq + 1, blocked := false, atCut := false }).lookAhead.touch) 0x03 1).1
  rw [e]
  exact ⟨⟨_, _, _, rfl⟩, rfl, rfl, rfl, rfl, rfl, rfl, rfl⟩

/-! ### Any bundle (R25, R123) -/

/-- What every part of an issue's end leaves: the pool, the time and the number of the bundle. -/
def Core.clockView (k : Core) := (k.pool, k.csr.tick, k.v.seq)

theorem Core.clockView_of_slotView {a b : Core} (h : b.slotView = a.slotView) : b.clockView = a.clockView := by
  unfold Core.slotView Core.issueView Core.strands at h
  simp only [Prod.mk.injEq] at h
  unfold Core.clockView
  simp only [h]
theorem Core.clockView_of_issueView {a b : Core} (h : b.issueView = a.issueView) : b.clockView = a.clockView := by
  unfold Core.issueView Core.strands at h
  simp only [Prod.mk.injEq] at h
  unfold Core.clockView
  simp only [h]
theorem State.tokTake_clockView (s : State) (k : Strand) (b : Bool) : (s.tokTake k b).core.clockView = s.core.clockView := rfl
theorem State.tokIssue_clockView (s : State) (k : Strand) (x : Tokens) : (s.tokIssue k x).core.clockView = s.core.clockView := by
  unfold State.tokIssue
  cases x.popP <;> cases x.popN <;> cases x.pushP <;> cases x.pushN <;> rfl
theorem State.tokRetire_clockView (s : State) (k : Strand) (x : Tokens) : (s.tokRetire k x).core.clockView = s.core.clockView := by
  unfold State.tokRetire
  cases x.pushP <;> cases x.pushN <;> rfl
theorem State.yPop_clockView (s : State) (rs : List YReg) : (s.yPop .v rs).core.clockView = s.core.clockView := by
  unfold State.yPop
  exact cond_induction (P := fun t : State => t.core.clockView = s.core.clockView) (fun _ => rfl) fun _ => rfl
theorem State.yWrite_clockView (s : State) (r : YReg) (v : Word32) : (s.yWrite .v r v).core.clockView = s.core.clockView := by
  unfold State.yWrite
  split <;> rfl

theorem State.tEffect_clockView (s : State) (op : TOp) (t : Nat) : (s.tEffect op t).core.clockView = s.core.clockView := by
  have hb : ∀ x : State, Core.clockView (State.core (bif tPopsQbr op then x.setQ { x.core.q with qbr := x.core.q.qbr.tail } else x)) = x.core.clockView :=
    fun x => cond_induction (P := fun t : State => t.core.clockView = x.core.clockView) (fun _ => rfl) fun _ => rfl
  cases op with
  | empty | hint | ywait | jmp | halt | stgSet | stgClr => rfl
  | lbeg | stgCond | stgLoad | tsr => exact s.yPop_clockView _
  | lend => exact hb s
  | lbr => exact (hb _).trans (s.yPop_clockView _)
  | tkr | yrd => exact s.yWrite_clockView _ _
  | yadd | yaddi | ymov => exact ((s.yPop _ _).yWrite_clockView _ _).trans (s.yPop_clockView _)
theorem State.tokensActed_clockView (s : State) (b : Bundle) (t : Nat) : (s.tokensActed b t).core.clockView = s.core.clockView := by
  unfold State.tokensActed
  rw [State.tokRetire_clockView, Core.clockView_of_slotView (State.loopSnapshot_slotView _ _), State.tEffect_clockView, State.tokIssue_clockView]
theorem State.mEffect_clockView (s : State) (o : MOp) : (s.mEffect o).core.clockView = s.core.clockView := by cases o <;> rfl
theorem State.shapeEffect_clockView (s : State) (x : ABSlot) : (s.shapeEffect x).core.clockView = s.core.clockView :=
  cond_induction (P := fun t : State => t.core.clockView = s.core.clockView) (fun _ => rfl) fun _ => rfl
/-- The issue of a bundle, before its end: the pool, the time and V's count of bundles as they were. -/
theorem State.issueAt_issued (s : State) (b : Bundle) (t : Nat) : ∃ x : State, s.issueAt b t = x.issued t ∧ x.core.clockView = s.core.clockView := by
  refine ⟨_, s.issueAt_eq b t, ?_⟩
  have hw := (State.tokensActed_clockView _ b t).trans (Core.clockView_of_issueView (s.guarded_issueView b t))
  refine cond_induction (P := fun t : State => t.core.clockView = s.core.clockView) (fun _ => ?_) fun _ => hw
  rw [State.shapeEffect_clockView, State.shapeEffect_clockView, State.mEffect_clockView]
  exact hw

end

end Sys2Proof.Machine

open Sys2Proof Sys2Proof.Machine Sys2Proof.Claims

/-- Settles O23: a bundle that V may issue comes to `issueAt` at T(n), of which each part leaves the pool, the time and the count of bundles. -/
theorem bundlesIssueAtTheirTick : Obligations.BundlesIssueAtTheirTick := by
  unfold Obligations.BundlesIssueAtTheirTick
  intro i b s u hi hv
  have hb : i.bundle = some b := by
    cases hi with
    | inl h => rw [h]; rfl
    | inr h => exact h
  obtain ⟨x, hx, hc⟩ := u.issueAt_issued b (s.issueTick b)
  obtain ⟨⟨_, _, _, hv'⟩, _, hp, _, hcsr, _⟩ := x.issued_core (s.issueTick b)
  unfold Core.clockView at hc
  simp only [Prod.mk.injEq] at hc
  obtain ⟨hpool, htick, hseq⟩ := hc
  refine ⟨_, (exec_of_bundle s hb).trans (congrArg Host.Outcome.next (issueBundle_of_vMay hv)), rfl, ?_⟩
  rw [hx, hv', hp, hcsr]
  exact ⟨rfl, congrArg (· + 1) hseq, rfl, rfl, htick, hpool⟩
end

section
/-! The T slot, and what the A, B and M slots start (R125 to R137, R204 to R207, R231 to R238). -/

namespace Sys2Proof.Machine
open Sys2Proof.Claims

section
variable {s u w : State}

theorem Core.strands_of_issueView {a b : Core} (h : b.issueView = a.issueView) : b.strands = a.strands ∧ b.pool = a.pool ∧ b.arr = a.arr ∧ b.csr.tick = a.csr.tick := by
  unfold Core.issueView at h
  simp only [Prod.mk.injEq] at h
  exact h
theorem Core.fields_of_strands {a b : Core} (h : b.strands = a.strands) :
    (b.c.regs = a.c.regs ∧ b.l = a.l ∧ b.s = a.s ∧ b.q = a.q) ∧
    b.v.regs = a.v.regs ∧ b.v.pc = a.v.pc ∧ b.v.loops = a.v.loops ∧ b.v.pred = a.v.pred ∧ b.v.shape = a.v.shape ∧ b.v.hi = a.v.hi ∧
      b.v.seq = a.v.seq ∧ b.v.halted = a.v.halted := by
  unfold Core.strands at h
  simp only [Prod.mk.injEq] at h
  obtain ⟨hc, _, _, hl, hs, hq, hr, hpc, hlo, hp, hsh, hh, _, hse, hha, _⟩ := h
  exact ⟨⟨hc, hl, hs, hq⟩, hr, hpc, hlo, hp, hsh, hh, hse, hha⟩
/-- The pop of y12 by V: of its sources' queue and the half kept for selector 2 (R125). -/
theorem State.yPop_v (s : State) (rs : List YReg) : s.yPop .v rs = { s with core := { s.core with
    q := { s.core.q with qcv := if 12 ∈ rs then s.core.q.qcv.tail else s.core.q.qcv },
    v := { s.core.v with hi := if 12 ∈ rs then (s.core.q.qcv.headD 0).extractLsb' 32 32 else s.core.v.hi } } } := by
  unfold State.yPop
  by_cases h : (12 : YReg) ∈ rs
  · rw [List.contains_iff_mem.mpr h, if_pos h, if_pos h]; rfl
  · rw [Bool.eq_false_iff.mpr (fun e => h (List.contains_iff_mem.mp e)), if_neg h, if_neg h]; rfl
theorem State.yWrite_v (s : State) (r : YReg) (v : Word32) : s.yWrite .v r v = s.setV { s.core.v with regs := fileAfter s.core.v.regs (some (r, v)) } := by
  unfold State.yWrite fileAfter
  dsimp only
  split <;> rfl

/-- What the T slot makes of V and the queues, before the end of the issue. -/
def TActs (u x : State) (srcs : List YReg) (pc : Word64) (y : Option (YReg × Word32)) (pred : BitVec 8) (loops : List Loop) (q : Queues → Queues) : Prop :=
  (x.core.v.pc = pc ∧ x.core.v.regs = fileAfter u.core.v.regs y ∧ x.core.v.pred = pred ∧ x.core.v.loops = loops ∧ x.core.v.halted = u.core.v.halted) ∧
  x.core.v.seq = u.core.v.seq ∧ x.core.v.hi = (if 12 ∈ srcs then (u.core.q.qcv.headD 0).extractLsb' 32 32 else u.core.v.hi) ∧
  x.core.q = q { u.core.q with qcv := if 12 ∈ srcs then u.core.q.qcv.tail else u.core.q.qcv } ∧
  x.core.c.regs = u.core.c.regs ∧ x.core.l = u.core.l ∧ x.core.s = u.core.s ∧ x.core.pool = u.core.pool

theorem State.tokensActed_tAlone (w : State) (op : TOp) (t : Nat) : w.tokensActed (tAlone op) t = (w.tEffect op t).loopSnapshot w.core.v.loops := rfl
theorem State.slotsActed_tAlone (x : State) (op : TOp) :
    ((x.mEffect (tAlone op).m).shapeEffect (tAlone op).a).shapeEffect (tAlone op).b = x := rfl
/-- A T operation alone, at the end of its issue tick: its effect on the machine once its tick's beats are made. -/
theorem issueAt_tAlone (u : State) (op : TOp) (t : Nat) : ∃ w : State, w.core.issueView = u.core.issueView ∧
    ∃ x : State, x.core.slotView = (w.tEffect op t).core.slotView ∧ u.issueAt (tAlone op) t = x.issued t := by
  have hs := u.started_issueView (tAlone op) t
  rw [State.issueAt_eq, show u.guardOn (tAlone op) = true from rfl, cond_true, cond_true]
  generalize u.started (tAlone op) t = w at hs
  rw [State.tokensActed_tAlone, State.slotsActed_tAlone]
  exact ⟨w, hs, _, State.loopSnapshot_slotView _ _, rfl⟩
theorem tShows_of_acts {op : TOp} {t : Nat} {srcs : List YReg} {pc : Word64} {y : Option (YReg × Word32)} {pred : BitVec 8} {loops : List Loop}
    {q : Queues → Queues} (h : ∀ w : State, w.core.issueView = u.core.issueView → TActs u (w.tEffect op t) srcs pc y pred loops q) :
    TShows u (u.issueAt (tAlone op) t) t srcs pc y pred loops q := by
  obtain ⟨w, hw, x, hx, he⟩ := issueAt_tAlone u op t
  obtain ⟨⟨hpc, hregs, hpred, hloops, hhalt⟩, hseq, hhi, hq, hc, hl, hs, hp⟩ := h w hw
  obtain ⟨hst, hpool, _⟩ := Core.strands_of_issueView (Core.issueView_of_slotView hx)
  obtain ⟨⟨xc, xl, xs, xq⟩, xregs, xpc, xloops, xpred, _, xhi, xseq, xhalt⟩ := Core.fields_of_strands hst
  obtain ⟨⟨_, _, _, ev⟩, eq, ep, _, _, ec, el, es⟩ := x.issued_core t
  unfold TShows
  rw [he, ev, eq, ep, ec, el, es]
  exact ⟨xpc.trans hpc, xregs.trans hregs, xpred.trans hpred, xloops.trans hloops, xhalt.trans hhalt, rfl, congrArg (· + 1) (xseq.trans hseq), xhi.trans hhi,
    xq.trans hq, xc.trans hc, xl.trans hl, xs.trans hs, hpool.trans hp⟩


/-! ### Each T operation -/

theorem State.yRead_of_issueView (h : w.core.issueView = u.core.issueView) : w.yRead .v = u.yRead .v := by
  obtain ⟨⟨_, _, _, hq⟩, hr, _⟩ := Core.fields_of_strands (Core.strands_of_issueView h).1
  funext r
  unfold State.yRead State.qOf State.yFile
  dsimp only
  rw [hq, hr]
theorem State.special_of_issueView (h : w.core.issueView = u.core.issueView) (sel : Nat) (lid : BitVec 8) : w.special .v sel lid = u.special .v sel lid := by
  obtain ⟨hs, _, _, ht⟩ := Core.strands_of_issueView h
  obtain ⟨_, _, _, hl, _, _, hh, _⟩ := Core.fields_of_strands hs
  unfold State.special State.loopsOf
  dsimp only
  rw [hl, hh, ht]
theorem TActs.of_issueView {x : State} {srcs : List YReg} {pc : Word64} {y : Option (YReg × Word32)} {pred : BitVec 8} {loops : List Loop} {q : Queues → Queues}
    (h : w.core.issueView = u.core.issueView) (hx : TActs w x srcs pc y pred loops q) : TActs u x srcs pc y pred loops q := by
  obtain ⟨hs, hp, _⟩ := Core.strands_of_issueView h
  obtain ⟨⟨hc, hl, hss, hq⟩, hr, _, _, _, _, hh, hse, hha⟩ := Core.fields_of_strands hs
  unfold TActs at hx ⊢
  rw [← hc, ← hl, ← hss, ← hq, ← hr, ← hh, ← hse, ← hha, ← hp]
  exact hx
theorem tActs_hint (w : State) (p : BitVec 19) (t : Nat) :
    TActs w (w.tEffect (.hint p) t) [] (w.core.v.pc + 16) none w.core.v.pred w.core.v.loops id := ⟨⟨rfl, rfl, rfl, rfl, rfl⟩, rfl, rfl, rfl, rfl, rfl, rfl, rfl⟩
theorem tActs_ywait (w : State) (src : BitVec 3) (n : BitVec 6) (t : Nat) :
    TActs w (w.tEffect (.ywait src n) t) [] (w.core.v.pc + 16) none w.core.v.pred w.core.v.loops id :=
  ⟨⟨rfl, rfl, rfl, rfl, rfl⟩, rfl, rfl, rfl, rfl, rfl, rfl, rfl⟩
theorem tActs_lbeg (w : State) (lid : BitVec 8) (ya : YReg) (imm : BitVec 7) (t : Nat) (h : w.tOk (.lbeg lid ya imm) = true) :
    TActs w (w.tEffect (.lbeg lid ya imm) t) [ya] (w.core.v.pc + 16) none w.core.v.pred
      (⟨lid, w.core.v.pc + 16, none, loopCount (w.yRead .v ya) (imm.setWidth 32), 0⟩ :: w.core.v.loops) id := by
  have hp : ∀ c n, loopPush w.core.v.loops lid c n = some (⟨lid, n, none, c, 0⟩ :: w.core.v.loops) := by
    intro c n
    unfold State.tOk loopPush at h
    unfold loopPush
    dsimp only at h
    cases e : decide (4 ≤ w.core.v.loops.length) || (loopFind w.core.v.loops lid).isSome <;> rw [e] at h
    · rfl
    · cases h
  unfold State.tEffect
  dsimp only
  rw [State.yPop_v, hp]
  exact ⟨⟨rfl, rfl, rfl, rfl, rfl⟩, rfl, rfl, rfl, rfl, rfl, rfl, rfl⟩
/-- The pop of QBR by a T slot that names it (R132). -/
def popsBr (q : Bool) (k : Queues) : Queues := if q = true then { k with qbr := k.qbr.tail } else k
theorem tActs_lend (w : State) (lid : BitVec 8) (q : Bool) (e : BitVec 3) (rot : Bool) (t : Nat) :
    TActs w (w.tEffect (.lend lid q e rot) t) [] (loopClose (!q || w.core.q.qbr.headD 0 != 0) w.core.v.pc (w.core.v.pc + 16) 1 w.core.v.loops).2.1 none
      (match (loopClose (!q || w.core.q.qbr.headD 0 != 0) w.core.v.pc (w.core.v.pc + 16) 1 w.core.v.loops).2.2 with
        | some rem => if rot = true then rotateStages w.core.v.pred rem e else w.core.v.pred
        | none => w.core.v.pred)
      (loopClose (!q || w.core.q.qbr.headD 0 != 0) w.core.v.pc (w.core.v.pc + 16) 1 w.core.v.loops).1 (popsBr q) := by
  cases q <;> cases rot <;> exact ⟨⟨rfl, rfl, rfl, rfl, rfl⟩, rfl, rfl, rfl, rfl, rfl, rfl, rfl⟩
theorem tActs_lbr (w : State) (lid : BitVec 8) (ya : YReg) (q inv : Bool) (t : Nat) :
    TActs w (w.tEffect (.lbr lid ya q inv) t) (if q = true then [] else [ya]) (w.core.v.pc + 16) none w.core.v.pred
      (if ((if q = true then w.core.q.qbr.headD 0 != 0 else w.yRead .v ya != 0) != inv) = true then loopBreak w.core.v.loops lid else w.core.v.loops)
      (popsBr q) := by
  unfold State.tEffect
  dsimp only
  rw [State.yPop_v]
  cases q
  · cases h : ((w.yRead .v ya != 0) != inv) <;> exact ⟨⟨rfl, rfl, rfl, by simp, rfl⟩, rfl, rfl, rfl, rfl, rfl, rfl, rfl⟩
  · cases h : ((w.core.q.qbr.headD 0 != 0) != inv) <;> exact ⟨⟨rfl, rfl, rfl, by simp, rfl⟩, rfl, rfl, rfl, rfl, rfl, rfl, rfl⟩
theorem tActs_jmp (w : State) (off : BitVec 19) (t : Nat) :
    TActs w (w.tEffect (.jmp off) t) [] (w.core.v.pc + 16 * off.signExtend 64) none w.core.v.pred w.core.v.loops id :=
  ⟨⟨rfl, rfl, rfl, rfl, rfl⟩, rfl, rfl, rfl, rfl, rfl, rfl, rfl⟩
theorem predSet_ones (p m : BitVec 8) : predSet p m 0xff = p ||| m ||| 1 := by
  unfold predSet
  ext i hi
  simp only [BitVec.getElem_or, BitVec.getElem_and, BitVec.getElem_not, show (0xff : BitVec 8) = BitVec.allOnes 8 from rfl, BitVec.getElem_allOnes]
  cases p[i] <;> cases m[i] <;> rfl
theorem predSet_zero (p m : BitVec 8) : predSet p m 0 = p &&& ~~~m ||| 1 := by
  unfold predSet
  rw [show (0 : BitVec 8) &&& m = 0 from BitVec.zero_and, show p &&& ~~~m ||| (0 : BitVec 8) = p &&& ~~~m from BitVec.or_zero]
theorem tActs_stgSet (w : State) (m : BitVec 8) (t : Nat) :
    TActs w (w.tEffect (.stgSet m) t) [] (w.core.v.pc + 16) none (w.core.v.pred ||| m ||| 1) w.core.v.loops id :=
  ⟨⟨rfl, rfl, predSet_ones _ _, rfl, rfl⟩, rfl, rfl, rfl, rfl, rfl, rfl, rfl⟩
theorem tActs_stgClr (w : State) (m : BitVec 8) (t : Nat) :
    TActs w (w.tEffect (.stgClr m) t) [] (w.core.v.pc + 16) none (w.core.v.pred &&& ~~~m ||| 1) w.core.v.loops id :=
  ⟨⟨rfl, rfl, predSet_zero _ _, rfl, rfl⟩, rfl, rfl, rfl, rfl, rfl, rfl, rfl⟩
theorem tActs_stgCond (w : State) (ya : YReg) (m : BitVec 8) (t : Nat) :
    TActs w (w.tEffect (.stgCond ya m) t) [ya] (w.core.v.pc + 16) none
      (if w.yRead .v ya = 0 then w.core.v.pred &&& ~~~m ||| 1 else w.core.v.pred ||| m ||| 1) w.core.v.loops id := by
  unfold State.tEffect
  dsimp only
  rw [State.yPop_v, ← predSet_ones, ← predSet_zero]
  refine ⟨⟨rfl, rfl, ?_, rfl, rfl⟩, rfl, rfl, rfl, rfl, rfl, rfl, rfl⟩
  by_cases h : w.yRead .v ya = 0
  · rw [if_pos h, h]; rfl
  · rw [if_neg h, show (w.yRead .v ya != 0) = true from bne_iff_ne.mpr h]; rfl
theorem tActs_stgLoad (w : State) (ya : YReg) (m : BitVec 8) (t : Nat) :
    TActs w (w.tEffect (.stgLoad ya m) t) [ya] (w.core.v.pc + 16) none
      (w.core.v.pred &&& ~~~m ||| ((w.yRead .v ya).extractLsb' 0 8 &&& m) ||| 1) w.core.v.loops id := by
  unfold State.tEffect
  dsimp only
  rw [State.yPop_v]
  exact ⟨⟨rfl, rfl, rfl, rfl, rfl⟩, rfl, rfl, rfl, rfl, rfl, rfl, rfl⟩
theorem tActs_tkr (w : State) (yd : YReg) (imm : BitVec 11) (t : Nat) :
    TActs w (w.tEffect (.tkr yd imm) t) [] (w.core.v.pc + 16) (some (yd, BitVec.ofNat 32 t + imm.signExtend 32)) w.core.v.pred w.core.v.loops id := by
  unfold State.tEffect
  dsimp only
  rw [State.yWrite_v]
  exact ⟨⟨rfl, rfl, rfl, rfl, rfl⟩, rfl, rfl, rfl, rfl, rfl, rfl, rfl⟩
theorem tActs_tsr (w : State) (ya yb : YReg) (t : Nat) :
    TActs w (w.tEffect (.tsr ya yb) t) [ya, yb] (w.core.v.pc + 16) none w.core.v.pred w.core.v.loops
      (fun k => { k with qvc := k.qvc ++ [w.yRead .v yb ++ w.yRead .v ya] }) := by
  unfold State.tEffect
  dsimp only
  rw [State.yPop_v]
  exact ⟨⟨rfl, rfl, rfl, rfl, rfl⟩, rfl, rfl, rfl, rfl, rfl, rfl, rfl⟩
theorem tActs_yadd (w : State) (yd ya yb : YReg) (t : Nat) :
    TActs w (w.tEffect (.yadd yd ya yb) t) [ya, yb] (w.core.v.pc + 16) (some (yd, w.yRead .v ya + w.yRead .v yb)) w.core.v.pred w.core.v.loops id := by
  unfold State.tEffect
  dsimp only
  rw [State.yPop_v, State.yWrite_v]
  exact ⟨⟨rfl, rfl, rfl, rfl, rfl⟩, rfl, rfl, rfl, rfl, rfl, rfl, rfl⟩
theorem tActs_yaddi (w : State) (yd ya : YReg) (imm : BitVec 11) (t : Nat) :
    TActs w (w.tEffect (.yaddi yd ya imm) t) [ya] (w.core.v.pc + 16) (some (yd, w.yRead .v ya + imm.signExtend 32)) w.core.v.pred w.core.v.loops id := by
  unfold State.tEffect
  dsimp only
  rw [State.yPop_v, State.yWrite_v]
  exact ⟨⟨rfl, rfl, rfl, rfl, rfl⟩, rfl, rfl, rfl, rfl, rfl, rfl, rfl⟩
theorem tActs_ymov (w : State) (yd ya : YReg) (t : Nat) :
    TActs w (w.tEffect (.ymov yd ya) t) [ya] (w.core.v.pc + 16) (some (yd, w.yRead .v ya)) w.core.v.pred w.core.v.loops id := by
  unfold State.tEffect
  dsimp only
  rw [State.yPop_v, State.yWrite_v]
  exact ⟨⟨rfl, rfl, rfl, rfl, rfl⟩, rfl, rfl, rfl, rfl, rfl, rfl, rfl⟩
theorem tActs_yrd (w : State) (yd : YReg) (sel : BitVec 3) (lid : BitVec 8) (t : Nat) :
    TActs w (w.tEffect (.yrd yd sel lid) t) [] (w.core.v.pc + 16) (some (yd, w.special .v sel.toNat lid)) w.core.v.pred w.core.v.loops id := by
  unfold State.tEffect
  dsimp only
  rw [State.yWrite_v]
  exact ⟨⟨rfl, rfl, rfl, rfl, rfl⟩, rfl, rfl, rfl, rfl, rfl, rfl, rfl⟩

/-- A T operation alone that V may issue: its effect, shown of the machine at the end of its issue tick. -/
theorem tAlone_shows {i : Instr} {op : TOp} {srcs : List YReg} {pc : Word64} {y : Option (YReg × Word32)} {pred : BitVec 8} {loops : List Loop}
    {q : Queues → Queues} (hb : i.bundle = some (tAlone op))
    (h : VMay s (tAlone op) u → ∀ w : State, w.core.issueView = u.core.issueView →
      TActs w (w.tEffect op (s.issueTick (tAlone .empty))) srcs pc y pred loops q) :
    i.bundle = some (tAlone op) ∧
      (VMay s (tAlone op) u → ∃ t, exec i s = .next t ∧ TShows u t (s.issueTick (tAlone .empty)) srcs pc y pred loops q) :=
  ⟨hb, fun hv => ⟨_, (exec_of_bundle s hb).trans (congrArg Host.Outcome.next (issueBundle_of_vMay hv)),
    tShows_of_acts (t := s.issueTick (tAlone op)) fun w hw => (h hv w hw).of_issueView hw⟩⟩

/-- What the operations of a T slot read of the machine. -/
theorem tReads_of_issueView (h : w.core.issueView = u.core.issueView) :
    w.core.v.pc = u.core.v.pc ∧ w.core.v.pred = u.core.v.pred ∧ w.core.v.loops = u.core.v.loops ∧ w.core.q = u.core.q ∧ w.yRead .v = u.yRead .v := by
  obtain ⟨⟨_, _, _, hq⟩, _, hpc, hl, hp, _⟩ := Core.fields_of_strands (Core.strands_of_issueView h).1
  exact ⟨hpc, hp, hl, hq, State.yRead_of_issueView h⟩
theorem tOk_of_vMay {b : Bundle} (h : VMay s b u) : u.tOk b.t = true := by
  obtain ⟨_, _, _, _, _, w, _, _, _, hok, _, hu⟩ := h
  obtain ⟨⟨_, _, _, hq⟩, _, _, hl, _⟩ := Core.fields_of_strands (State.vTick_strands w u hu)
  unfold State.tOk State.ywaitOf State.fifo at hok ⊢
  rw [hl, hq]
  exact hok
/-- halt ends V's loops, and its PC stands (R133). -/
theorem issueAt_halt (u : State) (t : Nat) : (u.issueAt (tAlone .halt) t).core.v.halted = true ∧ (u.issueAt (tAlone .halt) t).core.v.pc = u.core.v.pc ∧
    (u.issueAt (tAlone .halt) t).core.v.regs = u.core.v.regs ∧ (u.issueAt (tAlone .halt) t).core.v.loops = [] ∧
    (u.issueAt (tAlone .halt) t).core.v.pred = u.core.v.pred ∧ (u.issueAt (tAlone .halt) t).core.q = u.core.q := by
  obtain ⟨w, hw, x, hx, he⟩ := issueAt_tAlone u .halt t
  obtain ⟨⟨_, _, _, xq⟩, xregs, xpc, xloops, xpred, _, _, _, xhalt⟩ := Core.fields_of_strands (Core.strands_of_issueView (Core.issueView_of_slotView hx)).1
  obtain ⟨⟨_, _, _, hq⟩, hregs, hpc, _, hpred, _⟩ := Core.fields_of_strands (Core.strands_of_issueView hw).1
  obtain ⟨⟨_, _, _, ev⟩, eq, _⟩ := x.issued_core t
  rw [he, ev, eq]
  exact ⟨xhalt, xpc.trans hpc, xregs.trans hregs, xloops, xpred.trans hpred, xq.trans hq⟩

end

end Sys2Proof.Machine

open Sys2Proof Sys2Proof.Machine Sys2Proof.Claims

/-- Settles O24: each T operation's effect at the end of its issue tick, which what starts with it leaves alone. -/
theorem tSlotsActAtTheEndOfTheTick : Obligations.TSlotsActAtTheEndOfTheTick := by
  unfold Obligations.TSlotsActAtTheEndOfTheTick
  intro ya yb yd lid mask imm7 e sel src rot q inv off payload imm n s u pc next pred loops y same t0 does br popBr
  refine ⟨tAlone_shows rfl fun hv w hw => ?hint, tAlone_shows rfl fun hv w hw => ?ywait, tAlone_shows rfl fun hv w hw => ?lbeg,
    tAlone_shows rfl fun hv w hw => ?lend, tAlone_shows rfl fun hv w hw => ?lbr, tAlone_shows rfl fun hv w hw => ?jmp,
    tAlone_shows rfl fun hv w hw => ?stgSet, tAlone_shows rfl fun hv w hw => ?stgClr, tAlone_shows rfl fun hv w hw => ?stgCond,
    tAlone_shows rfl fun hv w hw => ?stgLoad, tAlone_shows rfl fun hv w hw => ?tkr, tAlone_shows rfl fun hv w hw => ?tsr,
    tAlone_shows rfl fun hv w hw => ?yadd, tAlone_shows rfl fun hv w hw => ?yaddi, tAlone_shows rfl fun hv w hw => ?ymov,
    tAlone_shows rfl fun hv w hw => ?yrd, rfl, fun hv => ?halt⟩
  case halt =>
    exact ⟨_, (exec_of_bundle s rfl).trans (congrArg Host.Outcome.next (issueBundle_of_vMay hv)), issueAt_halt u _⟩
  all_goals obtain ⟨hpc, hpred, hloops, hq, hy⟩ := tReads_of_issueView hw
  case hint => have h := tActs_hint w payload t0; rw [hpc, hpred, hloops] at h; exact h
  case ywait => have h := tActs_ywait w src n t0; rw [hpc, hpred, hloops] at h; exact h
  case lbeg =>
    have hok : w.tOk (.lbeg lid ya imm7) = true := by
      have h := tOk_of_vMay hv
      unfold State.tOk at h ⊢
      rw [hloops]
      exact h
    have h := tActs_lbeg w lid ya imm7 t0 hok
    rw [hpc, hpred, hloops, hy] at h; exact h
  case lend => have h := tActs_lend w lid q e rot t0; rw [hpc, hpred, hloops, hq] at h; exact h
  case lbr => have h := tActs_lbr w lid ya q inv t0; rw [hpc, hpred, hloops, hq, hy] at h; exact h
  case jmp => have h := tActs_jmp w off t0; rw [hpc, hpred, hloops] at h; exact h
  case stgSet => have h := tActs_stgSet w mask t0; rw [hpc, hpred, hloops] at h; exact h
  case stgClr => have h := tActs_stgClr w mask t0; rw [hpc, hpred, hloops] at h; exact h
  case stgCond => have h := tActs_stgCond w ya mask t0; rw [hpc, hpred, hloops, hy] at h; exact h
  case stgLoad => have h := tActs_stgLoad w ya mask t0; rw [hpc, hpred, hloops, hy] at h; exact h
  case tkr => have h := tActs_tkr w yd imm t0; rw [hpc, hpred, hloops] at h; exact h
  case tsr => have h := tActs_tsr w ya yb t0; rw [hpc, hpred, hloops, hy] at h; exact h
  case yadd => have h := tActs_yadd w yd ya yb t0; rw [hpc, hpred, hloops, hy] at h; exact h
  case yaddi => have h := tActs_yaddi w yd ya imm t0; rw [hpc, hpred, hloops, hy] at h; exact h
  case ymov => have h := tActs_ymov w yd ya t0; rw [hpc, hpred, hloops, hy] at h; exact h
  case yrd => have h := tActs_yrd w yd sel lid t0; rw [hpc, hpred, hloops, State.special_of_issueView hw] at h; exact h
end

section
/-! What the A, B and M slots start, and the shape and the planes at the end of the issue tick (R204 to R207, R231 to R238). -/

namespace Sys2Proof.Machine
open Sys2Proof.Claims

section
variable {s u : State}

/-- The operations of a bundle's slots put in flight (R206, R232). -/
def State.slotsOn (s : State) (b : Bundle) (t : Nat) : State := ((s.startM b t).startAB b .a b.a t).startAB b .b b.b t

theorem State.started_slots (s : State) (b : Bundle) (t : Nat) :
    (s.started b t).core.v.freeA = (s.slotsOn b t).core.v.freeA ∧ (s.started b t).core.v.freeB = (s.slotsOn b t).core.v.freeB ∧
    ∀ f ∈ (s.slotsOn b t).core.v.flight, ∃ g ∈ (s.started b t).core.v.flight, f.Scheduled g := by
  unfold State.started
  generalize hx : State.startAB (State.startAB (State.startM s b t) b .a b.a t) b .b b.b t = x
  rw [show s.slotsOn b t = x from hx]
  dsimp only
  generalize hy : x.asksFor (bundlePops b x.core.v.shape.f) = y
  have hay : y.core.slotView = x.core.slotView := by rw [← hy]; exact State.asksFor_slotView _ _
  have hbz := ((State.beatCount_slotView ((y.mSchedule y.core.v.flight []).wake t) t y.core.v.seq).trans (State.wake_slotView _ _))
  obtain ⟨ha, hb⟩ := y.mSchedule_free y.core.v.flight []
  unfold Core.slotView at hay hbz
  simp only [Prod.mk.injEq] at hay hbz
  obtain ⟨_, hyf, hya, hyb⟩ := hay
  obtain ⟨_, hzf, hza, hzb⟩ := hbz
  refine ⟨hza.trans (ha.trans hya), hzb.trans (hb.trans hyb), fun f hf => ?_⟩
  rw [hzf]
  exact y.mSchedule_flight _ _ f (.inl (hyf ▸ hf))

/-- A bundle without guard, tokens or T slot, at the end of its issue tick: before the shape and the planes change. -/
structure Started (u x y : State) : Prop where
  pc : x.core.v.pc = u.core.v.pc + 16
  q : x.core.q = u.core.q
  pool : x.core.pool = u.core.pool
  arr : x.core.arr = u.core.arr
  shape : x.core.v.shape = u.core.v.shape
  free : x.core.v.freeA = y.core.v.freeA ∧ x.core.v.freeB = y.core.v.freeB
  flight : ∀ f ∈ y.core.v.flight, ∃ g ∈ x.core.v.flight, f.Scheduled g

theorem issueAt_slots (u : State) {b : Bundle} (t : Nat) (ht : b.t = .empty) (hk : b.tok = .none) (hg : b.guard = 0) :
    ∃ x : State, u.issueAt b t = (((x.mEffect b.m).shapeEffect b.a).shapeEffect b.b).issued t ∧ Started u x (u.slotsOn b t) := by
  have hs := u.started_issueView b t
  obtain ⟨hfa, hfb, hfl⟩ := u.started_slots b t
  rw [State.issueAt_eq, show u.guardOn b = true from by unfold State.guardOn; rw [hg]; rfl, cond_true, cond_true]
  generalize u.started b t = w at hs hfa hfb hfl
  obtain ⟨hst, hpool, harr, _⟩ := Core.strands_of_issueView hs
  obtain ⟨⟨_, _, _, hq⟩, _, hpc, _, _, hsh, _⟩ := Core.fields_of_strands hst
  refine ⟨_, rfl, ?_⟩
  unfold State.tokensActed
  rw [ht, hk]
  have hl := State.loopSnapshot_slotView (w.tEffect .empty t) (w.tokIssue .v .none).core.v.loops
  unfold Core.slotView at hl
  simp only [Prod.mk.injEq] at hl
  obtain ⟨hli, hlf, hla, hlb⟩ := hl
  obtain ⟨lst, lpool, larr, _⟩ := Core.strands_of_issueView hli
  obtain ⟨⟨_, _, _, lq⟩, _, lpc, _, _, lsh, _⟩ := Core.fields_of_strands lst
  exact { pc := lpc.trans (congrArg (· + 16) hpc), q := lq.trans hq, pool := lpool.trans hpool, arr := larr.trans harr, shape := lsh.trans hsh,
          free := ⟨hla.trans hfa, hlb.trans hfb⟩, flight := fun f hf => hlf ▸ hfl f hf }


/-! ### The A and B slots (R206, R207) -/

/-- An A or B slot that has beats and a landing (R206). -/
def Begun (u : State) (ln : Lane) (x : ABSlot) (tick : Nat) (f : Flight) : Prop :=
  let sh := u.core.v.shape
  let free := match ln with | .a => u.core.v.freeA | .b => u.core.v.freeB
  let aw := u.awaits ((abStreams x sh.f).map (·.1)) tick
  let b0 := Nat.max (aw.foldl (fun m x => Nat.max m x.2) tick) free
  let beats := ceilDiv sh.elems (abLambda x sh.f)
  f.op = .ab ln x ∧ f.shape = sh ∧ f.srcs = (((abSources x sh.f).map (·.1)).filter fun r => (codeStream r).isNone).eraseDups.map u.snapshot ∧ f.await = aw ∧
    f.set = true ∧ f.b0 = b0 ∧ f.beats = beats ∧ f.land = b0 + abDepth x sh.f + beats - 1 ∧ f.seq = u.core.v.seq ∧ f.pc = u.core.v.pc

theorem State.slotsOn_abAlone (u : State) (ln : Lane) (x : ABSlot) (t : Nat) : u.slotsOn (abAlone ln x) t = u.startAB (abAlone ln x) ln x t := by
  cases ln <;> rfl
theorem State.startAB_begun (u : State) (b : Bundle) (ln : Lane) (x : ABSlot) (t : Nat) (h : abOperates x = true) :
    ∃ f ∈ (u.startAB b ln x t).core.v.flight, Begun u ln x t f ∧
      (match ln with | .a => (u.startAB b ln x t).core.v.freeA | .b => (u.startAB b ln x t).core.v.freeB) = f.b0 + f.beats := by
  unfold State.startAB
  rw [h]
  cases ln
  · exact ⟨_, List.mem_append_right _ List.mem_cons_self, ⟨rfl, rfl, rfl, rfl, rfl, rfl, rfl, rfl, rfl, rfl⟩, rfl⟩
  · exact ⟨_, List.mem_append_right _ List.mem_cons_self, ⟨rfl, rfl, rfl, rfl, rfl, rfl, rfl, rfl, rfl, rfl⟩, rfl⟩
theorem Flight.Scheduled.of_ab {f g : Flight} {ln : Lane} {x : ABSlot} (h : f.Scheduled g) (hf : f.op = .ab ln x) : g = f := by
  rcases h with h | ⟨⟨_, ho⟩, _⟩
  · exact h
  · rw [hf] at ho; cases ho
theorem abOperates_notShape {x : ABSlot} (h : abOperates x = true) (s : State) : s.shapeEffect x = s := by
  unfold State.shapeEffect
  rw [show decide (x.op = .vshape) = false from decide_eq_false fun e => by unfold abOperates at h; rw [e] at h; cases h]
  rfl
theorem State.shapeEffects_abAlone (s : State) (ln : Lane) (x : ABSlot) :
    ((s.mEffect (abAlone ln x).m).shapeEffect (abAlone ln x).a).shapeEffect (abAlone ln x).b = s.shapeEffect x := by cases ln <;> rfl
theorem issueAt_abAlone (u : State) (ln : Lane) (x : ABSlot) (tick : Nat) :
    ∃ y : State, u.issueAt (abAlone ln x) tick = (y.shapeEffect x).issued tick ∧ Started u y (u.startAB (abAlone ln x) ln x tick) := by
  have hb : ∀ ln, (abAlone ln x).t = .empty ∧ (abAlone ln x).tok = .none ∧ (abAlone ln x).guard = 0 := fun ln => by cases ln <;> exact ⟨rfl, rfl, rfl⟩
  obtain ⟨h1, h2, h3⟩ := hb ln
  obtain ⟨y, hy, hs⟩ := issueAt_slots u (b := abAlone ln x) tick h1 h2 h3
  exact ⟨y, by rw [hy, State.shapeEffects_abAlone], State.slotsOn_abAlone u ln x tick ▸ hs⟩
theorem abAlone_begins (ln : Lane) (x : ABSlot) (tick : Nat) (hx : abOperates x = true) :
    ∃ f ∈ (u.issueAt (abAlone ln x) tick).core.v.flight, Begun u ln x tick f ∧
      (match ln with | .a => (u.issueAt (abAlone ln x) tick).core.v.freeA | .b => (u.issueAt (abAlone ln x) tick).core.v.freeB) = f.b0 + f.beats ∧
      (u.issueAt (abAlone ln x) tick).core.v.pc = u.core.v.pc + 16 ∧ (u.issueAt (abAlone ln x) tick).core.q = u.core.q ∧
      (u.issueAt (abAlone ln x) tick).core.pool = u.core.pool := by
  obtain ⟨y, hy, hs⟩ := issueAt_abAlone u ln x tick
  obtain ⟨f, hf, hb, hfree⟩ := u.startAB_begun (abAlone ln x) ln x tick hx
  obtain ⟨g, hg, hsch⟩ := hs.flight f hf
  obtain ⟨⟨_, _, _, ev⟩, eq, ep, _⟩ := y.issued_core tick
  rw [hsch.of_ab hb.1] at hg
  rw [hy, abOperates_notShape hx, ev, eq, ep]
  refine ⟨f, hg, hb, ?_, hs.pc, hs.q, hs.pool⟩
  cases ln
  · exact hs.free.1.trans hfree
  · exact hs.free.2.trans hfree

/-- The A and B slot instructions stand for their slots, each of which has beats and a landing. -/
theorem abInstrs_operate (ln : Lane) (d a b c : OpCode) (mode rm : BitVec 2) (n fo : BitVec 5) (imm : BitVec 15) (row : BitVec 10) (col : BitVec 12)
    (on : Bool) : ∀ e ∈ abInstrs ln d a b c mode rm n fo imm row col on, e.1.bundle = some (abAlone ln e.2) ∧ abOperates e.2 = true := by
  unfold abInstrs
  simp only [List.forall_mem_cons]
  cases on <;> exact ⟨⟨rfl, rfl⟩, ⟨rfl, rfl⟩, ⟨rfl, rfl⟩, ⟨rfl, rfl⟩, ⟨rfl, rfl⟩, ⟨rfl, rfl⟩, ⟨rfl, rfl⟩, ⟨rfl, rfl⟩, ⟨rfl, rfl⟩, ⟨rfl, rfl⟩, ⟨rfl, rfl⟩, ⟨rfl, rfl⟩, ⟨rfl, rfl⟩, ⟨rfl, rfl⟩, ⟨rfl, rfl⟩, ⟨rfl, rfl⟩, ⟨rfl, rfl⟩, ⟨rfl, rfl⟩, ⟨rfl, rfl⟩, ⟨rfl, rfl⟩, ⟨rfl, rfl⟩, ⟨rfl, rfl⟩, ⟨rfl, rfl⟩, ⟨rfl, rfl⟩, ⟨rfl, rfl⟩, ⟨rfl, rfl⟩, ⟨rfl, rfl⟩, ⟨rfl, rfl⟩, ⟨rfl, rfl⟩, ⟨rfl, rfl⟩, ⟨rfl, rfl⟩, ⟨rfl, rfl⟩, ⟨rfl, rfl⟩, ⟨rfl, rfl⟩, fun _ h => nomatch h⟩
theorem sfInstrs_operate (d a : OpCode) (rm : BitVec 2) : ∀ e ∈ sfInstrs d a rm, e.1.bundle = some (abAlone .b e.2) ∧ abOperates e.2 = true := by
  unfold sfInstrs
  simp only [List.forall_mem_cons]
  exact ⟨⟨rfl, rfl⟩, ⟨rfl, rfl⟩, ⟨rfl, rfl⟩, ⟨rfl, rfl⟩, ⟨rfl, rfl⟩, ⟨rfl, rfl⟩, ⟨rfl, rfl⟩, ⟨rfl, rfl⟩, ⟨rfl, rfl⟩, ⟨rfl, rfl⟩, ⟨rfl, rfl⟩, ⟨rfl, rfl⟩, fun _ h => nomatch h⟩


/-! ### The M slot, vshape and hints (R65, R204, R233, R234, R236, R238) -/

theorem State.slotsOn_mAlone (u : State) (o : MOp) (t : Nat) : u.slotsOn (mAlone o) t = u.startM (mAlone o) t := rfl
theorem State.shapeEffects_mAlone (s : State) (o : MOp) :
    ((s.mEffect (mAlone o).m).shapeEffect (mAlone o).a).shapeEffect (mAlone o).b = s.mEffect o := rfl
theorem issueAt_mAlone (u : State) (o : MOp) (tick : Nat) :
    ∃ y : State, u.issueAt (mAlone o) tick = (y.mEffect o).issued tick ∧ Started u y (u.startM (mAlone o) tick) := by
  obtain ⟨y, hy, hs⟩ := issueAt_slots u (b := mAlone o) tick rfl rfl rfl
  exact ⟨y, by rw [hy, State.shapeEffects_mAlone], State.slotsOn_mAlone u o tick ▸ hs⟩
/-- An M operation with beats and a landing, in flight from its issue (R232). -/
theorem State.startM_begun (u : State) (o : MOp) (t : Nat) (h : mOperates o = true) : ∃ f ∈ (u.startM (mAlone o) t).core.v.flight,
    f.op = .m o ∧ f.shape = u.core.v.shape ∧ f.srcs = (mRegs o).eraseDups.map u.snapshot ∧ f.seq = u.core.v.seq ∧ f.pc = u.core.v.pc := by
  unfold State.startM
  dsimp only
  rw [show mOperates (mAlone o).m = true from h]
  exact ⟨_, List.mem_append_right _ List.mem_cons_self, rfl, rfl, rfl, rfl, rfl⟩
theorem State.mEffect_operates (s : State) (o : MOp) (h : mOperates o = true) : s.mEffect o = s := by
  cases o with
  | mcfg | mswap => cases h
  | _ => rfl
theorem mAlone_begins (o : MOp) (tick : Nat) (ho : mOperates o = true) :
    ((u.issueAt (mAlone o) tick).core.v.pc = u.core.v.pc + 16 ∧ (u.issueAt (mAlone o) tick).core.q = u.core.q ∧
      (u.issueAt (mAlone o) tick).core.pool = u.core.pool) ∧
    (u.issueAt (mAlone o) tick).core.arr = u.core.arr ∧ ∃ f ∈ (u.issueAt (mAlone o) tick).core.v.flight, f.op = .m o ∧ f.shape = u.core.v.shape ∧
      f.srcs = (mRegs o).eraseDups.map u.snapshot ∧ f.seq = u.core.v.seq ∧ f.pc = u.core.v.pc := by
  obtain ⟨y, hy, hs⟩ := issueAt_mAlone u o tick
  obtain ⟨f, hf, h1, h2, h3, h4, h5⟩ := u.startM_begun o tick ho
  obtain ⟨g, hg, hsch⟩ := hs.flight f hf
  obtain ⟨⟨_, _, _, ev⟩, eq, ep, ea, _⟩ := y.issued_core tick
  rw [hy, y.mEffect_operates o ho, ev, eq, ep, ea]
  refine ⟨⟨hs.pc, hs.q, hs.pool⟩, hs.arr, g, hg, ?_⟩
  rcases hsch with rfl | ⟨_, _, _, _, rfl⟩
  · exact ⟨h1, h2, h3, h4, h5⟩
  · exact ⟨h1, h2, h3, h4, h5⟩
/-- An instruction that is a bundle does what the bundle's issue does. -/
theorem bundle_does {i : Instr} {b : Bundle} {M P : State → Prop} (hb : i.bundle = some b) (h : ∀ tick, M (u.issueAt b tick) ∧ P (u.issueAt b tick)) :
    i.bundle = some b ∧ (VMay s b u → ∃ t, exec i s = .next t ∧ M t ∧ P t) :=
  ⟨hb, fun hv => ⟨_, (exec_of_bundle s hb).trans (congrArg Host.Outcome.next (issueBundle_of_vMay hv)), h _⟩⟩
/-- What an operation alone leaves as its shape or its planes change. -/
theorem shapeAlone_acts (ln : Lane) (x : ABSlot) (tick : Nat) :
    ((u.issueAt (abAlone ln x) tick).core.v.pc = u.core.v.pc + 16 ∧ (u.issueAt (abAlone ln x) tick).core.q = u.core.q ∧
      (u.issueAt (abAlone ln x) tick).core.pool = u.core.pool) ∧
    (u.issueAt (abAlone ln x) tick).core.arr = u.core.arr ∧
    (u.issueAt (abAlone ln x) tick).core.v.shape = if x.op = .vshape then
      { u.core.v.shape with rlog := x.d.setWidth 4, clog := x.a.setWidth 4, fmt := x.b.setWidth 4 } else u.core.v.shape := by
  obtain ⟨y, hy, hs⟩ := issueAt_abAlone u ln x tick
  obtain ⟨⟨_, _, _, ev⟩, eq, ep, ea, _⟩ := (y.shapeEffect x).issued_core tick
  rw [hy, ev, eq, ep, ea]
  unfold State.shapeEffect
  by_cases h : x.op = .vshape
  · rw [decide_eq_true h, if_pos h, ← hs.shape]
    exact ⟨⟨hs.pc, hs.q, hs.pool⟩, hs.arr, rfl⟩
  · rw [decide_eq_false h, if_neg h]
    exact ⟨⟨hs.pc, hs.q, hs.pool⟩, hs.arr, hs.shape⟩
theorem planesAlone_act (o : MOp) (tick : Nat) (ho : mOperates o = false) :
    ((u.issueAt (mAlone o) tick).core.v.pc = u.core.v.pc + 16 ∧ (u.issueAt (mAlone o) tick).core.q = u.core.q ∧
      (u.issueAt (mAlone o) tick).core.pool = u.core.pool) ∧
    (u.issueAt (mAlone o) tick).core.v.shape = u.core.v.shape ∧ (u.issueAt (mAlone o) tick).core.arr = (u.mEffect o).core.arr := by
  obtain ⟨y, hy, hs⟩ := issueAt_mAlone u o tick
  obtain ⟨⟨_, _, _, ev⟩, eq, ep, ea, _⟩ := (y.mEffect o).issued_core tick
  rw [hy, ev, eq, ep, ea]
  have harr := hs.arr
  cases o with
  | mcfg float wfmt sparse =>
    refine ⟨⟨hs.pc, hs.q, hs.pool⟩, hs.shape, ?_⟩
    unfold State.mEffect
    dsimp only
    rw [harr]
  | mswap =>
    refine ⟨⟨hs.pc, hs.q, hs.pool⟩, hs.shape, ?_⟩
    unfold State.mEffect
    dsimp only
    rw [harr]
  | mnop => exact ⟨⟨hs.pc, hs.q, hs.pool⟩, hs.shape, harr⟩
  | _ => cases ho

end

end Sys2Proof.Machine

open Sys2Proof Sys2Proof.Machine Sys2Proof.Claims

/-- Settles O25: the slot's operation is put in flight as it issues, and scheduling the M slot, the beats and the tick's end leave it there. -/
theorem vectorSlotsStartTheirOperation : Obligations.VectorSlotsStartTheirOperation := by
  unfold Obligations.VectorSlotsStartTheirOperation
  intro ln d a b c mode rm n fo imm row col on s u e he
  have hop : e.1.bundle = some (abAlone ln e.2) ∧ abOperates e.2 = true := by
    cases List.mem_append.mp he with
    | inl h => exact abInstrs_operate ln d a b c mode rm n fo imm row col on e h
    | inr h =>
      split at h
      · next hl => rw [hl]; exact sfInstrs_operate d a rm e h
      · cases h
  refine ⟨hop.1, fun hv => ?_⟩
  obtain ⟨f, hf, ⟨h1, h2, h3, h4, h5, h6, h7, h8, h9, h10⟩, hfree, hpc, hq, hp⟩ := abAlone_begins (u := u) ln e.2 (s.issueTick (abAlone ln e.2)) hop.2
  refine ⟨_, f, (exec_of_bundle s hop.1).trans (congrArg Host.Outcome.next (issueBundle_of_vMay hv)), hf, h1, h2, h3, h4, h5, h6, h7, h8, h9, h10,
    hfree.trans (congrArg₂ (· + ·) h6 h7), hpc, hq, hp⟩
/-- Settles O26: vshape, the hints and the words that only change the planes act at the end of the tick; the others of the M slot are put in flight. -/
theorem shapeHintAndMatrixSlotsAct : Obligations.ShapeHintAndMatrixSlotsAct := by
  unfold Obligations.ShapeHintAndMatrixSlotsAct
  intro ln rlog clog fmt scale scr payload float acc wfmt sparse rm src d rowb fo tile s u moves does
  have shaped : ∀ x : ABSlot, ∀ tick, moves (u.issueAt (abAlone ln x) tick) ∧ _ := fun x tick => shapeAlone_acts ln x tick
  have planes : ∀ o, mOperates o = false → ∀ tick, moves (u.issueAt (mAlone o) tick) ∧ _ := fun o ho tick => planesAlone_act o tick ho
  refine ⟨bundle_does rfl fun tick => ⟨(shaped _ tick).1, (shaped _ tick).2.2⟩, ⟨_, rfl, bundle_does rfl fun tick => ⟨(shaped _ tick).1, (shaped _ tick).2.2, (shaped _ tick).2.1⟩⟩,
    bundle_does rfl (planes .mnop rfl), bundle_does rfl fun tick => ⟨(planes _ rfl tick).1, (planes _ rfl tick).2.2⟩,
    bundle_does rfl fun tick => ⟨(planes _ rfl tick).1, (planes _ rfl tick).2.2⟩, ?_⟩
  simp only [List.forall_mem_cons]
  exact ⟨bundle_does rfl fun tick => mAlone_begins _ tick rfl, bundle_does rfl fun tick => mAlone_begins _ tick rfl,
    bundle_does rfl fun tick => mAlone_begins _ tick rfl, bundle_does rfl fun tick => mAlone_begins _ tick rfl, fun _ h => nomatch h⟩
end

section
/-! O28: units that are no instruction and failed fetches (R38, R64), and the causes that wait: pending ones, freezes, stopped units and the
watchdog (R31, R39, R40, R44). -/

namespace Sys2Proof.Machine

open Sys2Proof.Claims

variable {s : State}

/-- A trap at C's boundary returns from a waited mwait first, then takes the trap with TEPC where C then stands. -/
theorem trapNow_taken (s : State) (k : Strand) (cause : BitVec 8) (tfpc tval : Word64) :
    TrapTaken (s.endMwait 4) (s.trapNow k cause tfpc tval) k cause tfpc tval (s.endMwait 4).core.c.pc :=
  takeTrap_taken _ _ _ _ _ _

/-- A synchronous cause that is not forwarded and waits for no freeze is a trap at once. -/
theorem State.raise_trapNow (k : Strand) (cause : BitVec 8) (tval tfpc : Word64) (hs : s.sup = false) (hw : s.core.trap.wait = none)
    (hf : s.forwards cause = false) (h6 : cause ≠ 0x06) (h7 : cause ≠ 0x07) (h8 : cause ≠ 0x08) :
    s.raise k cause tval tfpc = s.trapNow k cause tfpc tval := by
  simp only [State.raise, hs, hw, hf, beq_eq_false_iff_ne.mpr h6, beq_eq_false_iff_ne.mpr h7, beq_eq_false_iff_ne.mpr h8, Bool.or_false,
    cond_false, Option.isSome_none]

/-- A failed fetch of any cause but 0x15 raises it, TFPC the strand's PC (R38). -/
theorem fetchFault_raises (k : Strand) (cause : BitVec 8) (tval : Word64) (h : cause ≠ 0x15) :
    exec (.instructionFetchFault k cause tval) s = .next (s.raise k cause tval (s.pcOf k)) := by
  change Host.Outcome.next (bif cause == 0x15 then _ else _) = _
  rw [beq_eq_false_iff_ne.mpr h]
  rfl

/-- The causes of `fetchCauses` are traps at once. -/
theorem fetchCauses_are_traps {cause : BitVec 8} (h : cause ∈ fetchCauses) :
    cause ≠ 0x15 ∧ cause ≠ 0x06 ∧ cause ≠ 0x07 ∧ cause ≠ 0x08 := by
  simp only [fetchCauses, List.mem_cons, List.not_mem_nil, or_false] at h
  rcases h with rfl | rfl | rfl | rfl <;> decide

/-- Cause 0x06 of C, not forwarded, holds C and waits for its freeze (R31). -/
theorem State.raise_06 (tval tfpc : Word64) (hs : s.sup = false) (hw : s.core.trap.wait = none) (hf : s.forwards 0x06 = false) :
    s.raise .c 0x06 tval tfpc = { s with core := { s.core with
      c := { s.core.c with blocked := true },
      trap := { s.core.trap with wait := some ⟨0x06, .c, tfpc, tval, 0, none, false, false⟩ } } } := by
  simp only [State.raise, hs, hw, hf, cond_false, Option.isSome_none]
  rfl

theorem badUnitsTrap : BadUnitsTrap := by
  intro k word tval s hs hw b
  refine ⟨⟨_, rfl, ?_⟩, fun cause hc hf => ?_, fun hf => ?_, fun ha => ?_, fun ha => ?_, fun hk => ?_⟩
  · rw [State.raise_trap k 0x01 word _ _ hs hw (by decide)]
    exact trapNow_taken _ _ _ _ _
  · obtain ⟨h15, h6, h7, h8⟩ := fetchCauses_are_traps hc
    refine ⟨_, fetchFault_raises k cause tval h15, ?_⟩
    rw [State.raise_trapNow k cause tval _ hs hw hf h6 h7 h8]
    exact trapNow_taken _ _ _ _ _
  · exact ⟨_, fetchFault_raises .c 0x06 tval (by decide), State.raise_06 tval s.core.c.pc hs hw hf⟩
  · refine ⟨s.reqOver.takeTrap .c 0x15 s.core.c.pc tval s.core.c.pc, ?_, takeTrap_taken _ _ _ _ _ _⟩
    have hr : s.reqOver.asyncNow = true := ha
    change Host.Outcome.next (bif s.reqOver.asyncNow then _ else _) = _
    rw [hr]; rfl
  · have hr : s.reqOver.asyncNow = false := ha
    change Host.Outcome.next (bif s.reqOver.asyncNow then _ else _) = _
    rw [hr]; rfl
  · cases k
    case c => exact absurd rfl hk
    all_goals rfl

/-- A stopped unit's fault is given its trap (R40). -/
theorem State.unitTrap_given {f : UnitFault} {k : Core} (h : s.core.nextUnitFault = some (f, k)) : UnitGiven s f k s.unitTrap := by
  refine ⟨_, trapNow_taken _ _ _ _ _, ?_⟩
  rw [State.unitTrap, h]
  dsimp only
  generalize ({ s with core := k }.trapNow .c f.cause 0 f.tval) = v
  cases v.core.nextUnitFault <;> rfl

/-- The freeze that a cause waits for, answered by no host: the cause's trap, or the stopped unit's. -/
theorem State.freezeNow_unit {w : FreezeWait} (hw : s.core.trap.wait = some w) (hf : w.frozen = false) (hq : w.seq = none)
    (hu : w.unit = true) : s.freezeNow = (s.setTrap { s.core.trap with wait := none }).unitTrap := by
  rw [State.freezeNow, hw]; dsimp only; rw [hf, hq, hu]; rfl
theorem State.freezeNow_strand {w : FreezeWait} (hw : s.core.trap.wait = some w) (hf : w.frozen = false) (hq : w.seq = none)
    (hu : w.unit = false) : s.freezeNow = s.trapNow w.strand w.cause w.tfpc w.tval := by
  rw [State.freezeNow, hw]; dsimp only; rw [hf, hq, hu]; rfl
theorem State.freezeNow_forwarded {w : FreezeWait} {n : BitVec 16} (hw : s.core.trap.wait = some w) (hf : w.frozen = false)
    (hq : w.seq = some n) : s.freezeNow = s.setTrap { s.core.trap with wait := some { w with frozen := true } } := by
  rw [State.freezeNow, hw]; dsimp only; rw [hf, hq]; rfl

/-- The freeze takes effect once the other strands are stuck, or 2^16 cycles have passed (R31). -/
theorem freezeWaitDone_freezes {w : FreezeWait} (hw : s.core.trap.wait = some w) (h : s.othersStuck w.strand = true) :
    exec .freezeWaitDone s = .next s.freezeNow := by
  rw [show exec .freezeWaitDone s = execFreezeWaitDone s from rfl, execFreezeWaitDone, hw]; dsimp only; rw [h]; rfl
theorem freezeWaitTimeout_freezes {w : FreezeWait} (hw : s.core.trap.wait = some w) (h : 2 ^ 16 ≤ w.cycles) :
    exec .freezeWaitTimeout s = .next s.freezeNow := by
  rw [show exec .freezeWaitTimeout s = execFreezeWaitTimeout s from rfl, execFreezeWaitTimeout, hw]; dsimp only
  rw [decide_eq_true h]; rfl

/-- A pending cause that may be taken now. -/
theorem takePendingTrap_bit {bit : Nat} (ha : s.asyncNow = true) (hl : lowestPend s.core.trap.pend = some bit) (hb : bit < 6) :
    exec .takePendingTrap s = .next (s.takePending bit) := by
  rw [show exec .takePendingTrap s = execTakePendingTrap s from rfl, execTakePendingTrap, ha, hl]
  split
  · rename_i h; cases h
  · rename_i h; cases h; omega
  · rename_i h; cases h; rfl
theorem takePendingTrap_unit (ha : s.asyncNow = true) (hl : lowestPend s.core.trap.pend = some 6) :
    exec .takePendingTrap s = .next s.takeUnitFault := by
  rw [show exec .takePendingTrap s = execTakePendingTrap s from rfl, execTakePendingTrap, ha, hl]
  rfl

/-- The watchdog that is full raises cause 0x11 with the occupancies (R37, R44). -/
theorem deadlockWatchdog_traps (ha : s.asyncNow = true) (h : 2 ^ 20 < s.core.trap.dog) :
    exec .deadlockWatchdog s = .next (s.trapNow .c 0x11 0 s.occupancies) := by
  have hd : s.dogFull = true := decide_eq_true h
  have he : s.async 3 s.occupancies = s.trapNow .c 0x11 0 s.occupancies := by rw [State.async, ha]; rfl
  rw [show exec .deadlockWatchdog s = execDeadlockWatchdog s from rfl, execDeadlockWatchdog, hd, he]
  rfl

theorem waitingCausesAreTaken : WaitingCausesAreTaken := by
  intro s
  refine ⟨?pending, ?freeze, ?unit, ?watchdog⟩
  case pending =>
    intro ha bit hl hb b
    exact ⟨_, takePendingTrap_bit ha hl hb, trapNow_taken _ _ _ _ _⟩
  case freeze =>
    intro w hw hf
    refine ⟨fun hq => ?_, fun n hq hst => ?_⟩
    · refine ⟨fun hu => ?_, fun hu => ?_⟩
      · have ht : TrapTaken (s.endMwait 4) s.freezeNow w.strand w.cause w.tfpc w.tval (s.endMwait 4).core.c.pc := by
          rw [State.freezeNow_strand hw hf hq hu]; exact trapNow_taken _ _ _ _ _
        exact ⟨fun hst => ⟨_, freezeWaitDone_freezes hw hst, ht⟩, fun hcy => ⟨_, freezeWaitTimeout_freezes hw hcy, ht⟩⟩
      · intro u f k hn
        have ht : UnitGiven u f k s.freezeNow := by
          rw [State.freezeNow_unit hw hf hq hu]; exact State.unitTrap_given hn
        exact ⟨fun hst => ⟨_, freezeWaitDone_freezes hw hst, ht⟩, fun hcy => ⟨_, freezeWaitTimeout_freezes hw hcy, ht⟩⟩
    · rw [freezeWaitDone_freezes hw hst, State.freezeNow_forwarded hw hf hq]
  case unit =>
    intro ha hl f k hn
    refine ⟨fun hc => ⟨_, takePendingTrap_unit ha hl, ?_⟩, fun hc => ?_⟩
    · rw [State.takeUnitFault, hn]
      dsimp only
      rw [beq_eq_false_iff_ne.mpr hc]
      exact State.unitTrap_given hn
    · rw [takePendingTrap_unit ha hl, State.takeUnitFault, hn]
      dsimp only
      rw [hc]; rfl
  case watchdog =>
    intro ha hd b
    exact ⟨_, deadlockWatchdog_traps ha hd, trapNow_taken _ _ _ _ _⟩

end Sys2Proof.Machine

open Sys2Proof Sys2Proof.Machine Sys2Proof.Claims

/-- Settles O28: each cause's route through `raise`, `takePending`, `freezeNow`, `unitTrap` or `async` ends in a trap at C's boundary. -/
theorem faultsAndWaitingCausesTrap : Obligations.FaultsAndWaitingCausesTrap := ⟨badUnitsTrap, waitingCausesAreTaken⟩
end

section
/-! O30: a latency sample (R243 to R246), the consistent cut (R248, R249), and what a cut rebinds (R249, R251). -/

namespace Sys2Proof.Machine

open Sys2Proof.Claims

variable {s : State}

/-! ### A symbol read after another is replaced -/

theorem State.setSym_sym (s : State) (i j : BitVec 3) (x : Sym) : (s.setSym i x).sym j = if j = i then x else s.sym j := by
  change (s.core.csr.sym.set i.toNat x i.isLt)[j.toNat] = _
  rw [Vector.getElem_set]
  by_cases h : j = i
  · rw [if_pos h, if_pos (by rw [h])]
  · rw [if_neg h, if_neg fun he => h (BitVec.eq_of_toNat_eq he.symm)]
    rfl
@[simp] theorem State.setSym_sym_same (s : State) (i : BitVec 3) (x : Sym) : (s.setSym i x).sym i = x := by rw [State.setSym_sym, if_pos rfl]
theorem State.setSym_sym_ne (s : State) {i j : BitVec 3} (x : Sym) (h : j ≠ i) : (s.setSym i x).sym j = s.sym j := by
  rw [State.setSym_sym, if_neg h]
theorem mem_allStreams (i : BitVec 3) : i ∈ allStreams := by revert i; decide
theorem allStreams_nodup : allStreams.Nodup := by decide

/-! ### Samples (R243 to R246) -/

/-- The monitor of a symbol after a sample, as `sampleSym` writes it. -/
def State.symSampled (s : State) (i : BitVec 3) (x : Nat) : Sym :=
  { s.sym i with mon := (s.sym i).sampled x ((s.part s.myPart).repMode == 2) }

/-- A sample within the bound changes the monitor alone. -/
theorem State.sampleSym_within (i : BitVec 3) {x : Nat} (h : x ≤ (s.sym i).hi.toNat) : s.sampleSym i x = s.setSym i (s.symSampled i x) := by
  unfold State.sampleSym
  dsimp only
  rw [decide_eq_false (Nat.not_lt.mpr h)]
  rfl

/-- What a sample beyond the bound leaves in BOUNDX, its trap not enabled (R246). -/
def State.boundxAfter (s : State) (i : BitVec 3) : Word64 :=
  (0#16) ++ satAdd (s.core.csr.boundx.extractLsb' 16 32) 1 ++ (0#8) ++ (s.core.csr.boundx.extractLsb' 0 8 ||| (1#8 <<< i.toNat))
theorem State.sampleSym_beyond (i : BitVec 3) {x : Nat} (h : (s.sym i).hi.toNat < x) (ht : s.core.csr.trapen.getLsbD 0 = false) :
    s.sampleSym i x = (s.setSym i (s.symSampled i x)).setCsr { (s.setSym i (s.symSampled i x)).core.csr with boundx := s.boundxAfter i } := by
  unfold State.sampleSym
  dsimp only
  rw [decide_eq_true h, cond_true]
  change (bif s.core.csr.trapen.getLsbD 0 then _ else _) = _
  rw [ht]
  rfl
theorem State.boundxAfter_marks (i : BitVec 3) : (s.boundxAfter i).getLsbD i.toNat = true := by
  unfold State.boundxAfter
  have hi := i.isLt
  rw [BitVec.getLsbD_append, if_pos (by omega)]
  simp only [BitVec.getLsbD_or, BitVec.getLsbD_shiftLeft, BitVec.getLsbD_one]
  simp; omega
theorem State.boundxAfter_counts (i : BitVec 3) : (s.boundxAfter i).extractLsb' 16 32 = satAdd (s.core.csr.boundx.extractLsb' 16 32) 1 := by
  unfold State.boundxAfter
  generalize satAdd _ _ = v
  refine BitVec.eq_of_getLsbD_eq fun n hn => ?_
  simp only [BitVec.getLsbD_extractLsb', BitVec.getLsbD_append, hn, decide_true, Bool.true_and]
  rw [if_neg (by omega), if_neg (by omega), if_pos (by omega)]
  congr 1
  omega

/-- The symbols of a source that take a sample, one after another. -/
theorem State.sampleAt_eq_foldl {src : BitVec 4} (n at_ : Nat) (hs : s.stepOn = true) (h0 : src ≠ 0) :
    s.sampleAt src n at_ =
      allStreams.foldl (fun t i => bif (t.sym i).src == src then t.sampleSym i (s.sampleTicks n at_) else t) s := by
  have hb : (!s.stepOn || src == 0) = false := by rw [hs, beq_eq_false_iff_ne.mpr h0]; rfl
  rw [State.sampleAt, hb, cond_false]

/-- Each symbol of the source takes the sample, the others stand, and only the symbols of the ephemeris have changed. -/
theorem State.samples_within (src : BitVec 4) (x : Nat) : ∀ (l : List (BitVec 3)), l.Nodup → ∀ s : State,
    (∀ i, (s.sym i).src = src → x ≤ (s.sym i).hi.toNat) →
    ∃ v, l.foldl (fun t i => bif (t.sym i).src == src then t.sampleSym i x else t) s = s.setCsr { s.core.csr with sym := v } ∧
      ∀ i, (s.setCsr { s.core.csr with sym := v }).sym i = if (s.sym i).src = src ∧ i ∈ l then s.symSampled i x else s.sym i
  | [], _, s, _ => ⟨s.core.csr.sym, rfl, fun i => by simp; rfl⟩
  | k :: l, hl, s, hx => by
    obtain ⟨hk, hl⟩ := List.nodup_cons.mp hl
    rw [List.foldl_cons]
    by_cases hsrc : (s.sym k).src = src
    · rw [beq_iff_eq.mpr hsrc, cond_true, State.sampleSym_within k (hx k hsrc)]
      have hsym : ∀ i, ((s.setSym k (s.symSampled k x)).sym i).src = (s.sym i).src ∧ ((s.setSym k (s.symSampled k x)).sym i).hi = (s.sym i).hi := by
        intro i
        rw [State.setSym_sym]
        split
        · next h => subst h; exact ⟨rfl, rfl⟩
        · exact ⟨rfl, rfl⟩
      obtain ⟨v, hv, hi⟩ := State.samples_within src x l hl (s.setSym k (s.symSampled k x))
        (fun i h => by rw [(hsym i).2]; exact hx i ((hsym i).1 ▸ h))
      refine ⟨v, hv, fun i => ?_⟩
      refine (hi i).trans ?_
      rw [(hsym i).1]
      by_cases hik : i = k
      · subst hik
        rw [if_neg fun h => hk h.2, if_pos ⟨hsrc, List.mem_cons_self⟩, State.setSym_sym_same]
      · have hss : (s.setSym k (s.symSampled k x)).symSampled i x = s.symSampled i x := by
          unfold State.symSampled; rw [State.setSym_sym_ne s _ hik]; rfl
        rw [State.setSym_sym_ne s _ hik, hss]
        simp only [List.mem_cons, hik, false_or]
    · rw [beq_eq_false_iff_ne.mpr hsrc, cond_false]
      obtain ⟨v, hv, hi⟩ := State.samples_within src x l hl s hx
      refine ⟨v, hv, fun i => (hi i).trans ?_⟩
      by_cases hik : i = k
      · subst hik
        rw [if_neg fun h => hsrc h.1, if_neg fun h => hsrc h.1]
      · simp only [List.mem_cons, hik, false_or]

/-- Symbols of other sources are passed over. -/
theorem State.samples_none (src : BitVec 4) (x : Nat) (s : State) : ∀ l : List (BitVec 3), (∀ i ∈ l, (s.sym i).src ≠ src) →
    l.foldl (fun t i => bif (t.sym i).src == src then t.sampleSym i x else t) s = s
  | [], _ => rfl
  | k :: l, h => by
    rw [List.foldl_cons, beq_eq_false_iff_ne.mpr (h k List.mem_cons_self), cond_false]
    exact State.samples_none src x s l fun i hi => h i (List.mem_cons_of_mem _ hi)

/-- The one symbol of a source takes the sample. -/
theorem State.samples_one (src : BitVec 4) (x : Nat) (i : BitVec 3) (h : ∀ j, (s.sym j).src = src ↔ j = i)
    (hk : ∀ j, ((s.sampleSym i x).sym j).src = (s.sym j).src) : ∀ l : List (BitVec 3), l.Nodup → i ∈ l →
    l.foldl (fun t i => bif (t.sym i).src == src then t.sampleSym i x else t) s = s.sampleSym i x
  | [], _, hi => absurd hi (List.not_mem_nil)
  | k :: l, hl, hi => by
    obtain ⟨hkl, hl⟩ := List.nodup_cons.mp hl
    rw [List.foldl_cons]
    by_cases hki : k = i
    · subst hki
      rw [beq_iff_eq.mpr ((h k).mpr rfl), cond_true]
      exact State.samples_none src x _ l fun j hj hs => hkl (((h j).mp ((hk j).symm.trans hs)) ▸ hj)
    · rw [beq_eq_false_iff_ne.mpr fun hs => hki ((h k).mp hs), cond_false]
      exact State.samples_one src x i h hk l hl ((List.mem_cons.mp hi).resolve_left fun he => hki he.symm)

theorem symbolsTakeTheirSamples : SymbolsTakeTheirSamples := by
  intro src n s hs h0 x quiet
  have hfold := State.sampleAt_eq_foldl (n + s.injected src) s.core.ctx.live hs h0
  refine ⟨fun hx => ?_, fun i hone hi ht => ?_⟩
  · obtain ⟨v, hv, hi⟩ := State.samples_within src x allStreams allStreams_nodup s hx
    refine ⟨_, congrArg Host.Outcome.next (hfold.trans hv), rfl, rfl, fun i => (hi i).trans ?_⟩
    simp only [mem_allStreams, and_true]
    rfl
  · have hstep := State.sampleSym_beyond i hi ht
    have hsrc : ∀ j, ((s.sampleSym i x).sym j).src = (s.sym j).src := by
      intro j
      rw [hstep]
      change ((s.setSym i (s.symSampled i x)).sym j).src = _
      rw [State.setSym_sym]
      split
      · next h => subst h; rfl
      · rfl
    refine ⟨_, congrArg Host.Outcome.next (hfold.trans ((State.samples_one src x i hone hsrc allStreams allStreams_nodup (mem_allStreams i)).trans
      hstep)), ?_, ?_, ?_⟩
    · exact State.setSym_sym_same s i (s.symSampled i x)
    · exact State.boundxAfter_marks i
    · exact State.boundxAfter_counts i

/-! ### The rebind of a cut (R249, R251) -/

/-- A symbol after its request is applied. -/
def Sym.rebound (x : Sym) (v : BitVec 6) (pin : Bool) : Sym :=
  let mon := { x.mon with req := none, pinned := x.mon.pinned || pin }
  bif v == x.bind then { x with mon := mon } else { x with bind := v, mon := { mon with a := 0, b := 0 } }
@[simp] theorem Sym.rebound_bind (x : Sym) (v : BitVec 6) (pin : Bool) : (x.rebound v pin).bind = v := by
  unfold Sym.rebound
  dsimp only
  cases h : v == x.bind
  · rfl
  · exact (beq_iff_eq.mp h).symm
@[simp] theorem Sym.rebound_req (x : Sym) (v : BitVec 6) (pin : Bool) : (x.rebound v pin).mon.req = none := by
  unfold Sym.rebound
  dsimp only
  cases v == x.bind <;> rfl
theorem Sym.rebound_counts (x : Sym) {v : BitVec 6} (pin : Bool) (h : v ≠ x.bind) :
    (x.rebound v pin).mon.a = 0 ∧ (x.rebound v pin).mon.b = 0 := by
  unfold Sym.rebound
  dsimp only
  rw [beq_eq_false_iff_ne.mpr h]
  exact ⟨rfl, rfl⟩

/-- The record that `applyReq` keeps of the last symbol changed. -/
def State.lastChange (s : State) (last : Option (BitVec 3 × BitVec 6 × BitVec 6)) (r : SReg × BitVec 6 × Bool) :
    Option (BitVec 3 × BitVec 6 × BitVec 6) := bif r.2.1 == (s.sym r.1).bind then last else some (r.1, (s.sym r.1).bind, r.2.1)

/-- Requests of different symbols are applied each to its own symbol; the state is otherwise as it was. -/
theorem applyReq_applies : ∀ (l : List (SReg × BitVec 6 × Bool)), (l.map (·.1)).Nodup → ∀ (s : State) (m : BitVec 8)
    (last : Option (BitVec 3 × BitVec 6 × BitVec 6)),
    (∃ v, (applyReq s m last l).1 = s.setCsr { s.core.csr with sym := v }) ∧
    (∀ r ∈ l, (applyReq s m last l).1.sym r.1 = (s.sym r.1).rebound r.2.1 r.2.2) ∧
    (∀ i, i ∉ l.map (·.1) → (applyReq s m last l).1.sym i = s.sym i) ∧
    (applyReq s m last l).2.2 = l.foldl s.lastChange last
  | [], _, s, m, last => ⟨⟨s.core.csr.sym, rfl⟩, fun r h => absurd h List.not_mem_nil, fun _ _ => rfl, rfl⟩
  | (i, v, pin) :: l, hl, s, m, last => by
    obtain ⟨hi, hl⟩ := List.nodup_cons.mp hl
    have hstep : ∃ m', applyReq s m last ((i, v, pin) :: l) =
        applyReq (s.setSym i ((s.sym i).rebound v pin)) m' (s.lastChange last (i, v, pin)) l := by
      unfold Sym.rebound State.lastChange
      rw [applyReq]
      dsimp only
      cases v == (s.sym i).bind
      · exact ⟨_, rfl⟩
      · exact ⟨_, rfl⟩
    obtain ⟨m', hstep⟩ := hstep
    have hmem : ∀ r ∈ l, r.1 ≠ i := fun r hr he => hi (he ▸ List.mem_map.mpr ⟨r, hr, rfl⟩)
    rw [hstep]
    obtain ⟨⟨w, hw⟩, hin, hout, hlast⟩ := applyReq_applies l hl (s.setSym i ((s.sym i).rebound v pin)) m' (s.lastChange last (i, v, pin))
    refine ⟨⟨w, hw⟩, fun r hr => ?_, fun j hj => ?_, ?_⟩
    · rcases List.mem_cons.mp hr with rfl | hr
      · exact (hout i hi).trans (State.setSym_sym_same _ _ _)
      · rw [hin r hr, State.setSym_sym_ne _ _ (hmem r hr)]
    · rw [List.map_cons, List.mem_cons, not_or] at hj
      rw [hout j hj.2, State.setSym_sym_ne _ _ hj.1]
    · rw [hlast, List.foldl_cons]
      refine List.foldl_ext _ _ _ fun a r hr => ?_
      unfold State.lastChange
      rw [State.setSym_sym_ne _ _ (hmem r hr)]

/-- Out of replay, the requests of a cut are those of the symbols that have one. -/
theorem State.requests_eq (h : (s.part s.myPart).repMode = 0) :
    s.requests = allStreams.filterMap fun i => (s.sym i).mon.req.map fun r => (i, r.1, r.2) := by
  unfold State.requests
  rw [h]
  dsimp only
  refine List.filterMap_congr fun i _ => ?_
  cases (s.sym i).mon.req <;> rfl
theorem State.mem_requests (h : (s.part s.myPart).repMode = 0) (r : SReg × BitVec 6 × Bool) :
    r ∈ s.requests ↔ (s.sym r.1).mon.req = some r.2 := by
  rw [State.requests_eq h, List.mem_filterMap]
  constructor
  · rintro ⟨i, -, hi⟩
    cases hr : (s.sym i).mon.req with
    | none => rw [hr] at hi; cases hi
    | some x => rw [hr] at hi; cases hi; exact hr
  · intro hr
    exact ⟨r.1, mem_allStreams _, by rw [hr]; rfl⟩

theorem State.requests_nodup (h : (s.part s.myPart).repMode = 0) : (s.requests.map (·.1)).Pairwise (· < ·) := by
  rw [State.requests_eq h, List.map_filterMap]
  have hlt : allStreams.Pairwise (· < ·) := by decide
  rw [List.pairwise_filterMap]
  refine hlt.imp fun {a b} hab x hx y hy => ?_
  rw [Option.map_map] at hx hy
  obtain ⟨_, _, rfl⟩ := Option.map_eq_some_iff.mp hx
  obtain ⟨_, _, rfl⟩ := Option.map_eq_some_iff.mp hy
  exact hab

/-- The requests of different symbols leave the symbols alone changed. -/
theorem State.requests_distinct (h : (s.part s.myPart).repMode = 0) : (s.requests.map (·.1)).Nodup :=
  (State.requests_nodup h).imp fun hab => by rintro rfl; exact absurd hab (BitVec.lt_irrefl _)

/-- The ephemeris after a rebinding: of a cut that changes no binding, and of one that changes some, RETIME then written (R251). -/
theorem State.rebind_csr_same (h : (applyReq s 0 none s.requests).2.2 = none) :
    s.rebind.core.csr = (applyReq s 0 none s.requests).1.core.csr := by
  unfold State.rebind
  dsimp only
  rw [h]
theorem State.record_pends_not (u : State) (q : BitVec 3) (n : Nat) (c : Word32) (k a d w : Word64) (h : u.core.csr.trapen.getLsbD 1 = false) :
    (bif (u.record q n c k a d).core.csr.trapen.getLsbD 1 then (u.record q n c k a d).setPend 1 w else u.record q n c k a d).core.csr =
      u.core.csr := by
  obtain ⟨x, g, l, hc⟩ := State.record_near u q n c k a d
  have hcsr : (u.record q n c k a d).core.csr = u.core.csr := by rw [hc]
  rw [hcsr, h, cond_false, hcsr]
theorem State.rebind_csr {i : BitVec 3} {old new : BitVec 6} (hm : (s.part s.myPart).repMode = 0) (ht : s.core.csr.trapen.getLsbD 1 = false)
    (h : (applyReq s 0 none s.requests).2.2 = some (i, old, new)) :
    s.rebind.core.csr = { (applyReq s 0 none s.requests).1.core.csr with
      retime := retimeWord i old new (applyReq s 0 none s.requests).2.1 s.core.csr.tick } := by
  obtain ⟨⟨v, hv⟩, -⟩ := applyReq_applies s.requests (State.requests_distinct hm) s 0 none
  have htr : (applyReq s 0 none s.requests).1.core.csr.trapen = s.core.csr.trapen := by rw [hv]; rfl
  unfold State.rebind
  dsimp only
  rw [h]
  exact State.record_pends_not _ _ _ _ _ _ _ _ (by
    change (applyReq s 0 none s.requests).1.core.csr.trapen.getLsbD 1 = false
    rw [htr, ht])

/-- What a cut makes of each symbol. -/
theorem State.rebind_sym (h : (s.part s.myPart).repMode = 0) (ht : s.core.csr.trapen.getLsbD 1 = false) (i : BitVec 3) :
    s.rebind.sym i = match (s.sym i).mon.req with | some r => (s.sym i).rebound r.1 r.2 | none => s.sym i := by
  obtain ⟨-, hin, hout, -⟩ := applyReq_applies s.requests (State.requests_distinct h) s 0 none
  have key : s.rebind.core.csr.sym = (applyReq s 0 none s.requests).1.core.csr.sym := by
    cases hl : (applyReq s 0 none s.requests).2.2 with
    | none => rw [State.rebind_csr_same hl]
    | some c => rw [State.rebind_csr h ht hl]
  refine (congrArg (fun v : Vector Sym 8 => v.get ⟨i.toNat, i.isLt⟩) key).trans ?_
  cases hr : (s.sym i).mon.req with
  | none =>
    refine hout i fun hm => ?_
    obtain ⟨r, hmem, rfl⟩ := List.mem_map.mp hm
    have hx := (State.mem_requests h r).mp hmem
    rw [hr] at hx
    cases hx
  | some r => exact hin (i, r.1, r.2) ((State.mem_requests h _).mpr hr)

/-- The last of the symbols changed is the one of the highest number. -/
theorem State.lastChange_highest {i : BitVec 3} {v : BitVec 6} {p : Bool} (hm : (s.part s.myPart).repMode = 0)
    (hr : (s.sym i).mon.req = some (v, p)) (hv : v ≠ (s.sym i).bind)
    (hj : ∀ j, i < j → ∀ v' p', (s.sym j).mon.req = some (v', p') → v' = (s.sym j).bind) :
    s.requests.foldl s.lastChange none = some (i, (s.sym i).bind, v) := by
  obtain ⟨l₁, l₂, hl⟩ := List.append_of_mem ((State.mem_requests hm (i, v, p)).mpr hr)
  have hafter : ∀ r ∈ l₂, i < r.1 := by
    have hs := State.requests_nodup hm
    rw [hl, List.map_append, List.map_cons, List.pairwise_append] at hs
    exact fun r hr => (List.pairwise_cons.mp hs.2.1).1 _ (List.mem_map.mpr ⟨r, hr, rfl⟩)
  have hkeep : ∀ r ∈ l₂, ∀ last, s.lastChange last r = last := by
    intro r hr' last
    have hreq := (State.mem_requests hm r).mp (hl ▸ List.mem_append_right _ (List.mem_cons_of_mem _ hr'))
    unfold State.lastChange
    rw [beq_iff_eq.mpr (hj r.1 (hafter r hr') r.2.1 r.2.2 hreq), cond_true]
  have hfold : ∀ (l : List (SReg × BitVec 6 × Bool)) last, (∀ r ∈ l, ∀ x, s.lastChange x r = x) → l.foldl s.lastChange last = last := by
    intro l
    induction l with
    | nil => exact fun _ _ => rfl
    | cons r l ih => intro last h; rw [List.foldl_cons, h r List.mem_cons_self]; exact ih _ fun x hx => h x (List.mem_cons_of_mem _ hx)
  rw [hl, List.foldl_append, List.foldl_cons, hfold l₂ _ hkeep]
  unfold State.lastChange
  rw [beq_eq_false_iff_ne.mpr hv, cond_false]

/-- The fields of RETIME (R251). -/
theorem retimeWord_fields (i : BitVec 3) (old new : BitVec 6) (mask : BitVec 8) (tick : Word64) :
    (retimeWord i old new mask tick).extractLsb' 0 3 = i ∧ (retimeWord i old new mask tick).extractLsb' 4 6 = old ∧
      (retimeWord i old new mask tick).extractLsb' 10 6 = new ∧
      (retimeWord i old new mask tick).extractLsb' 24 40 = tick.extractLsb' 0 40 := by
  unfold retimeWord
  refine ⟨?_, ?_, ?_, ?_⟩ <;> refine BitVec.eq_of_getLsbD_eq fun n hn => ?_ <;>
    simp only [BitVec.getLsbD_extractLsb', BitVec.getLsbD_append, hn, decide_true, Bool.true_and] <;> grind

theorem aCutRebindsWhatWasAsked : ACutRebindsWhatWasAsked := by
  intro s hm ht
  have hsym := State.rebind_sym hm ht
  refine ⟨fun i => ?_, fun i => ?_, fun i v p hr hv => ?_, fun i v p hr hv hj => ?_⟩
  · rw [hsym i]; cases h : (s.sym i).mon.req with
    | none => rfl
    | some r => exact Sym.rebound_bind _ _ _
  · rw [hsym i]; cases h : (s.sym i).mon.req with
    | none => exact h
    | some r => exact Sym.rebound_req _ _ _
  · rw [hsym i, hr]; exact Sym.rebound_counts _ _ hv
  · obtain ⟨-, -, -, hlast⟩ := applyReq_applies s.requests (State.requests_distinct hm) s 0 none
    rw [State.rebind_csr hm ht (hlast.trans (State.lastChange_highest hm hr hv hj))]
    exact retimeWord_fields _ _ _ _ _

/-! ### The cut (R248, R249) -/

/-- With no symbol asked for a rebinding and out of replay, a cut rebinds nothing. -/
theorem State.replayRebind_idle (hm : (s.part s.myPart).repMode = 0) (h : ∀ i, (s.sym i).mon.req = none) : s.replayRebind = s := by
  have hr : s.requests = [] := by
    rw [State.requests_eq hm, List.filterMap_eq_nil_iff]
    intro i _
    rw [h i]; rfl
  have hc : s.replayedCut = none := by
    rw [State.replayedCut, hm]; rfl
  unfold State.replayRebind
  rw [hc]
  unfold State.rebind
  dsimp only
  rw [hr]
  rfl

/-- A drained V goes straight to its cut. -/
theorem consistentCut_drained (hd : s.core.v.drain = true) (hv : s.vMoves = true) (hf : s.core.v.flight = []) :
    exec .consistentCut s = .next s.reachCut := by
  have hdt : s.drainTicks 65536 = (s, true) := by
    rw [State.drainTicks, hf]; rfl
  rw [show exec .consistentCut s = execConsistentCut s from rfl, execConsistentCut, hd, hv, hdt]
  rfl

/-- V as it stands at the cut, LASTDRAIN written (R26, R208, R248). -/
def State.standsAtCut (b : State) : State :=
  (b.setCsr { b.core.csr with
      stretch := BitVec.ofNat 8 (Nat.min b.core.v.drained 255) ++ b.core.csr.stretch.extractLsb' 0 56 }).setV
    { b.core.v with
      drain := false, drained := 0, look := false, lookYield := false, lookDue := false, atCut := true, freeA := 0, freeB := 0, freeM := 0,
      accFree := Vector.replicate 2 0 }

/-- A cut with nothing asked of it is the standing of V and the demand that waits for it. -/
theorem State.reachCut_idle (h : CutIdle s.atBoundary) : s.reachCut = s.atBoundary.standsAtCut.demandAtCut := by
  obtain ⟨hreq, hstop, hbp, hleave, hyield, hcode, hdue, hrep⟩ := h
  unfold State.reachCut
  dsimp only
  generalize s.atBoundary = b at *
  have hl : (b.core.ctx.leave == some .cutStop || b.core.v.lookDue) = false := by rw [hleave, hdue]; rfl
  have hy : (bif b.core.v.lookYield then b.standsAtCut.setCtx { b.standsAtCut.core.ctx with yield_ := none } else b.standsAtCut) = b.standsAtCut := by
    cases b.core.v.lookYield
    · rfl
    · change b.standsAtCut.setCtx { b.core.ctx with yield_ := none } = _
      rw [← hyield]; rfl
  have hs : (b.core.dbg.stopReq || b.bpHit) = false := by rw [hstop, hbp]; rfl
  have hi : b.standsAtCut.replayRebind = b.standsAtCut := State.replayRebind_idle hrep hreq
  rw [hl, cond_false, hs, cond_false]
  refine (congrArg (fun x : State => x.replayRebind.laterItems) hy).trans ?_
  rw [hi, State.laterItems]
  change (bif b.core.ctx.newCode then _ else _ : State).demandAtCut = _
  rw [hcode]
  rfl

theorem theConsistentCutIsReached : TheConsistentCutIsReached := by
  intro s hd hv hf b hidle
  exact ⟨_, consistentCut_drained hd hv hf, State.reachCut_idle hidle⟩

end Sys2Proof.Machine

open Sys2Proof Sys2Proof.Machine Sys2Proof.Claims

/-- Settles O30: samples by induction on the symbols, the rebind by induction on the requests, which are of different symbols in rising order. -/
theorem cutsRebindSampledSymbols : Obligations.CutsRebindSampledSymbols :=
  ⟨theConsistentCutIsReached, aCutRebindsWhatWasAsked, symbolsTakeTheirSamples⟩
end

section
/-! O42: package reset and attestation (R386, R389, R390). O48: what chxdbg shows of traces, records and counters, and the counters it writes
(R355, R392, R393, R406, R407). -/

namespace Sys2Proof.Machine

open Sys2Proof.Claims

variable {s : State}

/-! ### Package reset (R389) -/

theorem packageResetStartsAgain : PackageResetStartsAgain := by
  intro images s
  refine ⟨_, rfl, rfl, rfl, rfl, rfl, rfl, rfl, rfl, fun i hi => ?_, fun u b ⟨sig, hm, hk⟩ => ?_, fun u => ?_⟩
  · obtain ⟨_, -, rfl⟩ := List.mem_map.mp hi
    rfl
  · exact List.mem_map.mpr ⟨(u, b, sig), List.mem_filter.mpr ⟨hm, hk⟩, rfl⟩
  · change u ∈ (images.filter fun i => !Config.sigOk i.2.1 i.2.2).map (·.1) ↔ _
    rw [List.mem_map]
    constructor
    · rintro ⟨⟨u, b, sig⟩, hi, rfl⟩
      obtain ⟨hm, hk⟩ := List.mem_filter.mp hi
      exact ⟨b, sig, hm, (Bool.not_eq_true' _).mp hk⟩
    · rintro ⟨b, sig, hm, hk⟩
      exact ⟨(u, b, sig), List.mem_filter.mpr ⟨hm, (Bool.not_eq_true' _).mpr hk⟩, rfl⟩

/-! ### The responder (R390) -/

theorem attestationAnswers : AttestationAnswers := by
  intro s algs off len index nonce p err
  have hor : ∀ {i : Instr} {b : Bool} {x : State}, exec i s = .next (bif b then x else s.spdmError) → b = false → err i := by
    intro i b x h hb
    rw [hb] at h
    exact ⟨_, h, rfl⟩
  have hin : ∀ {i : Instr} {b : Bool} {x y : State}, exec i s = .next (bif b then x else y) → b = true → exec i s = .next x := by
    intro i b x y h hb
    rw [hb] at h
    exact h
  refine ⟨⟨_, rfl, rfl⟩, fun h => ⟨_, hin (b := p.version) rfl h, rfl⟩, fun h => hor (b := p.version) rfl h,
    fun h => ⟨_, hin (b := p.caps) rfl h, rfl⟩, fun h => hor (b := p.caps) rfl h, fun h => ?_, fun h => ?_⟩
  · have hn : (!p.algs) = false := by rw [h]; rfl
    have hm : ∀ n, exec (.getMeasurements n) s = .next (s.spdmSay p "MEASUREMENTS"
        (if n = 0 then leBytes 1 s.pkg.measure.length else if n = 0xff then s.measureBytes else ((s.pkg.measure[n - 1]?).map (·.2)).getD [])) := by
      intro n
      change Host.Outcome.next (bif !p.algs then s.spdmError else _) = _
      rw [hn, cond_false]
    refine ⟨⟨_, hin (b := p.algs) rfl h, rfl⟩, ⟨_, hin (b := p.algs) rfl h, rfl⟩, ⟨_, hin (b := p.algs) rfl h, rfl⟩, ⟨_, hm 0, rfl⟩, fun hi hf => ⟨_, hm _, ?_⟩⟩
    rw [if_neg (Nat.succ_ne_zero _), if_neg hf, Nat.add_sub_cancel, List.getD_eq_getElem?_getD, List.getElem?_map]
    rfl
  · have hn : (!p.algs) = true := by rw [show p.algs = false from h]; rfl
    refine ⟨hor (b := p.algs) rfl h, hor (b := p.algs) rfl h, hor (b := p.algs) rfl h, ⟨_, ?_, rfl⟩⟩
    exact hin (b := !p.algs) rfl hn

/-! ### What chxdbg shows -/

/-- Lines shown one after another stand in the list of what is shown, the last first. -/
theorem showLines_shown : ∀ (ls : List TraceLine) (s : State), ShownLines s (ls.foldl State.showLine s) ls
  | [], _ => rfl
  | l :: ls, s => by
    have h := showLines_shown ls (s.showLine l)
    unfold ShownLines at h ⊢
    rw [List.foldl_cons, h, List.map_cons, List.reverse_cons, List.append_assoc]
    rfl

/-- A command to the named core, which is this one. -/
theorem State.isMe_self (s : State) : s.isMe s.corenum.toNat = true := beq_self_eq_true _
theorem exec_isMe {i : Instr} {x y : State} (h : exec i s = .next (bif s.isMe s.corenum.toNat then x else y)) : exec i s = .next x := by
  rw [s.isMe_self] at h; exact h
theorem exec_here {i : Instr} {x y : State} (h : exec i s = .next (bif s.clusterNum == s.pkg.die.toNat * 32 + s.pkg.site.toNat then x else y)) :
    exec i s = .next x := by
  have hb : (s.clusterNum == s.pkg.die.toNat * 32 + s.pkg.site.toNat) = true := beq_self_eq_true s.clusterNum
  rw [hb] at h; exact h

/-- DROOPTH as a number: the level in its low bits, the margin test in bit 15 (R401). -/
theorem droopth_word (mt : Bool) (level : BitVec 10) :
    ((BitVec.ofBool mt ++ 0#5 ++ level).setWidth 64).toNat = level.toNat + 32768 * mt.toNat := by
  revert level; cases mt <;> decide
theorem State.readCsr_droopth (s : State) : (s.readCsr 0x150).toNat = s.core.csr.drLevel.toNat + 32768 * s.core.csr.drMt.toNat :=
  droopth_word s.core.csr.drMt s.core.csr.drLevel
theorem State.writeCsr_droopth (s : State) (value : BitVec 16) : s.writeCsr 0x150 (value.setWidth 64) =
    s.setCsr { s.core.csr with drLevel := value.extractLsb' 0 10, drMt := value.getLsbD 15 } := by
  have h1 : (value.setWidth 64).extractLsb' 0 10 = value.extractLsb' 0 10 := by ext i hi; simp; omega
  have h2 : (value.setWidth 64).getLsbD 15 = value.getLsbD 15 := by simp
  change s.setCsr { s.core.csr with drLevel := (value.setWidth 64).extractLsb' 0 10, drMt := (value.setWidth 64).getLsbD 15 } = _
  rw [h1, h2]

theorem debuggerTracesAndPrints : DebuggerTracesAndPrints := by
  intro s p q i lo hi me d here
  refine ⟨exec_isMe rfl, exec_isMe rfl, exec_isMe rfl, rfl, ⟨_, rfl, showLines_shown _ _⟩, ⟨_, rfl, showLines_shown _ _⟩,
    ⟨_, rfl, showLines_shown _ _⟩, ⟨_, rfl, showLines_shown _ _⟩, ⟨_, rfl, rfl⟩, ⟨_, exec_here rfl, ?_⟩, ⟨_, rfl, rfl⟩, fun value => ?_⟩
  · rw [s.readCsr_droopth]; rfl
  · rw [exec_here (i := .setDroopth here value) rfl, s.writeCsr_droopth]

/-! ### Counters (R376, R377, R392) -/

theorem Part.setVf_vf (x : Part) (v : BitVec 2) (c : VfCfg) : (x.setVf v c).vf v = c := by
  change (x.vfs.set v.toNat c v.isLt)[v.toNat] = c
  rw [Vector.getElem_set_self]
theorem Part.setVf_vf_ne (x : Part) {v w : BitVec 2} (c : VfCfg) (h : w ≠ v) : (x.setVf v c).vf w = x.vf w := by
  change (x.vfs.set v.toNat c v.isLt)[w.toNat] = _
  rw [Vector.getElem_set, if_neg fun he => h (BitVec.eq_of_toNat_eq he.symm)]
  rfl

/-- The site's partition is the first enabled one with the site, whatever else the partitions hold. -/
theorem State.sitePart_congr {t : State} (hd : t.pkg.die = s.pkg.die) (hs : t.pkg.site = s.pkg.site)
    (h : ∀ q, (t.part q).en = (s.part q).en ∧ (t.part q).sites = (s.part q).sites) : t.sitePart = s.sitePart := by
  unfold State.sitePart
  simp only [hd, hs, (h _).1, (h _).2]
theorem State.sitePart_setPart (p : BitVec 3) (x : Part) (he : x.en = (s.part p).en) (hs : x.sites = (s.part p).sites) :
    (s.setPart p x).sitePart = s.sitePart := by
  refine State.sitePart_congr rfl rfl fun q => ?_
  by_cases h : q = p
  · subst h; rw [State.part_setPart]; exact ⟨he, hs⟩
  · rw [State.part_setPart_other s x h]; exact ⟨rfl, rfl⟩

theorem State.vfLive_eq {p : BitVec 3} (h : s.sitePart = some p) (v : BitVec 2) : s.vfLive p v = ((s.part p).resident == v) := by
  rw [State.vfLive, h, beq_self_eq_true, Bool.true_and]

/-- Counters replaced are those read back, of this virtual function alone. -/
theorem State.setCounters_counters {p : BitVec 3} (h : s.sitePart = some p) (v : BitVec 2) (k : Counters) :
    (s.setCounters p v k).mem = s.mem ∧ (s.setCounters p v k).core.c = s.core.c ∧ (s.setCounters p v k).countersOf p v = k ∧
      ∀ w, w ≠ v → (s.setCounters p v k).countersOf p w = s.countersOf p w := by
  have hne : (s.sitePart != some p) = false := by rw [h]; exact bne_self_eq_false _
  unfold State.setCounters
  rw [hne, cond_false, State.vfLive_eq h]
  by_cases hl : (s.part p).resident = v
  · rw [beq_iff_eq.mpr hl, cond_true]
    refine ⟨rfl, rfl, ?_, fun w hw => ?_⟩
    · change (bif s.vfLive p v then k else _) = k
      rw [State.vfLive_eq h, beq_iff_eq.mpr hl]; rfl
    · change (bif s.vfLive p w then k else ((s.part p).vf w).perf.getD Counters.zero) = bif s.vfLive p w then s.core.perf else _
      rw [State.vfLive_eq h, beq_eq_false_iff_ne.mpr fun he => hw (he.symm.trans hl)]; rfl
  · rw [beq_eq_false_iff_ne.mpr hl, cond_false]
    have hs' : (s.setPart p ((s.part p).setVf v { (s.part p).vf v with perf := some k })).sitePart = some p :=
      (State.sitePart_setPart p ((s.part p).setVf v { (s.part p).vf v with perf := some k }) rfl rfl).trans h
    refine ⟨rfl, rfl, ?_, fun w hw => ?_⟩
    · rw [State.countersOf, State.vfLive_eq hs', State.part_setPart, show ((s.part p).setVf v _).resident = (s.part p).resident from rfl,
        beq_eq_false_iff_ne.mpr hl, cond_false, Part.setVf_vf]
      rfl
    · rw [State.countersOf, State.vfLive_eq hs', State.part_setPart, show ((s.part p).setVf v _).resident = (s.part p).resident from rfl,
        Part.setVf_vf_ne _ _ hw, State.countersOf, State.vfLive_eq h]
      rfl

theorem vget_ofFn {α : Type} {n : Nat} (f : Fin n → α) {i : Nat} (h : i < n) (d : α) : vget (Vector.ofFn f) i d = f ⟨i, h⟩ := by
  rw [vget, List.getD_eq_getElem?_getD, Vector.getElem?_toList, Vector.getElem?_ofFn, dif_pos h]
  rfl
theorem vget_eq_get {α : Type} {n : Nat} (v : Vector α n) (i : Fin n) (d : α) : vget v i.val d = v.get i := by
  rw [vget, List.getD_eq_getElem?_getD, Vector.getElem?_toList, Vector.getElem?_eq_getElem i.isLt]
  rfl

/-- A function's counters with the selectors, or the counters, that chxdbg writes. -/
def Counters.putCsel (k : Counters) (vals : List Word64) : Counters :=
  { k with csel := Vector.ofFn fun i => match vals[i.val]? with | some v => v.extractLsb' 0 10 | none => k.csel.get i }
def Counters.putCnt (k : Counters) (vals : List Word64) : Counters :=
  { k with cnt := Vector.ofFn fun i => match vals[i.val]? with
      | some v => bif fabricEvent (k.csel.get i) then k.cnt.get i else v.extractLsb' 0 48
      | none => k.cnt.get i }
theorem Counters.putCsel_cnt (k : Counters) (vals : List Word64) : (k.putCsel vals).cnt = k.cnt := by rw [Counters.putCsel]
theorem Counters.putCnt_csel (k : Counters) (vals : List Word64) : (k.putCnt vals).csel = k.csel := by rw [Counters.putCnt]
theorem exec_setCsel (p : BitVec 3) (v : BitVec 2) (vals : List Word64) (s : State) :
    exec (.setCsel p v vals) s = .next (s.setCounters p v ((s.countersOf p v).putCsel vals)) := rfl
theorem exec_setCnt (p : BitVec 3) (v : BitVec 2) (vals : List Word64) (s : State) :
    exec (.setCnt p v vals) s = .next (s.setCounters p v ((s.countersOf p v).putCnt vals)) := rfl
theorem Counters.putCsel_csel (k : Counters) (vals : List Word64) {i : Nat} (hi : i < 32) :
    vget (k.putCsel vals).csel i 0 = (match vals[i]? with | some x => x.extractLsb' 0 10 | none => vget k.csel i 0) := by
  rw [Counters.putCsel, vget_ofFn _ hi, ← vget_eq_get k.csel ⟨i, hi⟩ 0]
theorem Counters.putCnt_cnt (k : Counters) (vals : List Word64) {i : Nat} (hi : i < 32) :
    vget (k.putCnt vals).cnt i 0 = (match vals[i]? with
      | some x => if fabricEvent (vget k.csel i 0) = true then vget k.cnt i 0 else x.extractLsb' 0 48 | none => vget k.cnt i 0) := by
  rw [Counters.putCnt, vget_ofFn _ hi, ← vget_eq_get k.cnt ⟨i, hi⟩ 0, ← vget_eq_get k.csel ⟨i, hi⟩ 0]
  cases vals[i]? with
  | none => rfl
  | some x => dsimp only; rw [Bool.cond_eq_ite]

/-- The selectors of a function are written, and nothing else of its counters or of another's. -/
theorem setCsel_writes {p : BitVec 3} (h : s.sitePart = some p) (v : BitVec 2) (vals : List Word64) :
    ∃ t, exec (.setCsel p v vals) s = .next t ∧ t.mem = s.mem ∧ t.core.c = s.core.c ∧ t.countersOf p v = (s.countersOf p v).putCsel vals ∧
      ∀ w, w ≠ v → t.countersOf p w = s.countersOf p w :=
  ⟨_, exec_setCsel p v vals s, State.setCounters_counters h v _⟩
theorem setCnt_writes {p : BitVec 3} (h : s.sitePart = some p) (v : BitVec 2) (vals : List Word64) :
    ∃ t, exec (.setCnt p v vals) s = .next t ∧ t.mem = s.mem ∧ t.core.c = s.core.c ∧ t.countersOf p v = (s.countersOf p v).putCnt vals ∧
      ∀ w, w ≠ v → t.countersOf p w = s.countersOf p w :=
  ⟨_, exec_setCnt p v vals s, State.setCounters_counters h v _⟩

theorem debuggerReadsAndWritesCounters : DebuggerReadsAndWritesCounters := by
  intro s p v vals h k
  refine ⟨?_, ?_, ?_, ?_⟩
  · change s.countersOf p v = _
    rw [State.countersOf, State.vfLive_eq h]
    by_cases hl : (s.part p).resident = v
    · rw [beq_iff_eq.mpr hl, if_pos hl]; rfl
    · rw [beq_eq_false_iff_ne.mpr hl, if_neg hl]; rfl
  · obtain ⟨t, he, hmem, hc, hk, hw⟩ := setCsel_writes h v vals
    refine ⟨t, he, hmem, hc, ?_, hw, fun i hi => ?_⟩
    · rw [hk]; exact Counters.putCsel_cnt _ vals
    · rw [hk]; exact Counters.putCsel_csel _ vals hi
  · obtain ⟨t, he, hmem, hc, hk, hw⟩ := setCnt_writes h v vals
    refine ⟨t, he, hmem, hc, ?_, hw, fun i hi => ?_⟩
    · rw [hk]; exact Counters.putCnt_csel _ vals
    · rw [hk]; exact Counters.putCnt_cnt _ vals hi
  · refine ⟨_, rfl, ?_⟩
    unfold Shown
    have hread : k.read = fun i => if fabricEvent (vget k.csel i 0) = true then 0 else (vget k.cnt i 0).toNat := by
      funext i; rw [Counters.read, Bool.cond_eq_ite]
    have hlive : (s.vfLive p v).toNat = if (s.part p).resident = v then 1 else 0 := by
      rw [State.vfLive_eq h]
      by_cases hl : (s.part p).resident = v
      · rw [beq_iff_eq.mpr hl, if_pos hl]; rfl
      · rw [beq_eq_false_iff_ne.mpr hl, if_neg hl]; rfl
    rw [State.show, show (s.countersOf p v).read = _ from hread, hlive]

end Sys2Proof.Machine

open Sys2Proof Sys2Proof.Machine Sys2Proof.Claims

/-- Settles O42: the reset keeps the listed fields by definition; each request of the responder is one test of the session's stage. -/
theorem resetAndAttestationAnswer : Obligations.ResetAndAttestationAnswer := ⟨packageResetStartsAgain, attestationAnswers⟩

/-- Settles O48: what is shown stands first in the list, and a function's counters are the live copy or the saved one. -/
theorem debuggerTracesAndCounters : Obligations.DebuggerTracesAndCounters := ⟨debuggerTracesAndPrints, debuggerReadsAndWritesCounters⟩
end

section
/-! O46: chxdbg runs the core (R272 to R274, R300, R303, R304). -/

namespace Sys2Proof.Machine

open Sys2Proof.Claims

variable {s : State}

/-! ### The engines, at a publish -/

/-- Bytes published leave the commands of the engines as they are. -/
theorem State.publishCells_cmds (s : State) (cs : List Host.Cell) (weight : Bool) :
    (s.publishCells cs weight).core.eng.copy = s.core.eng.copy ∧ (s.publishCells cs weight).core.eng.gather = s.core.eng.gather := by
  have key : ∃ w, (s.setEng { s.core.eng with wstore := w }).Serves (s.publishCells cs weight) := by
    refine ⟨?w, ?h⟩
    case h =>
      unfold State.publishCells
      dsimp only
      refine State.Serves.trans (State.Serves.trans (State.Serves.trans (State.Serves.trans ?_ (State.memWrite_serves _ _ _ _ _))
        (State.coverAt_serves _ _ _))
        (.foldl (fun x l => x.memRec_serves _ _) _ _)) (State.count_serves _ _ _)
      exact .foldl (fun x l => (x.orderAt_serves _ _ _).trans (State.l2Engine_serves _ _ _)) _ _
  obtain ⟨w, ⟨_, _, _, _, _, _, _, _, h⟩, -⟩ := key
  rw [h]; exact ⟨rfl, rfl⟩

/-- A command after a publish of those that `p` names. -/
def Cmd.publishedBy (p : Cmd → Bool) (c : Cmd) : Cmd := bif p c then { c with published := c.published || c.written, shadow := [] } else c
theorem State.publishCmds_cmds (s : State) (p : Cmd → Bool) :
    (s.publishCmds p).core.eng.copy = s.core.eng.copy.map (Cmd.publishedBy p) ∧ (s.publishCmds p).core.eng.gather = s.core.eng.gather := by
  unfold State.publishCmds
  dsimp only
  obtain ⟨hc, hg⟩ := State.publishCells_cmds (((s.core.eng.copy.filter fun c => p c && !c.published).filter fun c => c.toMem && c.written).foldl
    State.copySample
    (s.setEng { s.core.eng with copy := s.core.eng.copy.map (Cmd.publishedBy p) })) ((s.core.eng.copy.filter fun c => p c && !c.published).flatMap
      (·.shadow)) false
  obtain ⟨x, t, e⟩ := State.copySamples_eq ((s.core.eng.copy.filter fun c => p c && !c.published).filter fun c => c.toMem && c.written)
    (s.setEng { s.core.eng with copy := s.core.eng.copy.map (Cmd.publishedBy p) })
  exact ⟨hc.trans (by rw [e]; rfl), hg.trans (by rw [e]; rfl)⟩

/-- Commands that have finished, and owe no completion entry, leave. -/
theorem State.reap_cmds (s : State) :
    s.reap.core.eng.copy = s.core.eng.copy.filter (fun c => !s.mayLeave c || c.done) ∧
      s.reap.core.eng.gather = s.core.eng.gather.filter (fun c => !s.mayLeave c || c.done) := by
  unfold State.reap
  dsimp only
  exact cond_induction (P := fun t : State => t.core.eng.copy = _ ∧ t.core.eng.gather = _) (fun _ => ⟨rfl, rfl⟩) fun _ => ⟨rfl, rfl⟩

/-- The command that may publish next writes memory, has written its last element, and has not published. -/
theorem Engines.nextPublish_some {e : Engines} {c : Cmd} (h : e.nextPublish = some c) :
    c ∈ e.copy ∧ c.toMem = true ∧ c.written = true ∧ c.published = false ∧ c.defer = false := by
  unfold Engines.nextPublish at h
  split at h
  · next d hd =>
    cases hb : d.toMem && d.written && !d.defer with
    | false => rw [hb] at h; cases h
    | true =>
      rw [hb] at h; cases h
      have hm := List.mem_of_find?_eq_some hd
      have hp := List.find?_some hd
      simp only [Bool.and_eq_true, Bool.not_eq_true'] at hb
      obtain ⟨⟨ht, hw⟩, hf⟩ := hb
      refine ⟨hm, ht, hw, ?_, hf⟩
      simp only [Bool.or_eq_true, Bool.and_eq_true, Bool.not_eq_true'] at hp
      rcases hp with ⟨-, hp⟩ | ⟨-, hp⟩ <;> exact hp
  · cases h
theorem Cmd.data_of_toMem {c : Cmd} (h : c.toMem = true) : c.data = true := by
  unfold Cmd.toMem at h
  unfold Cmd.data
  cases hk : c.kind <;> rw [hk] at h <;> simp_all

/-- The one command of the engines, written and alone, is gone once it has published. -/
theorem State.publishNext_empties {c : Cmd} (hc : s.core.eng.copy = [c]) (hg : s.core.eng.gather = []) (hn : s.core.eng.nextPublish = some c)
    (hd : c.done = false) (hm : (s.mayPublish fun d => d.seq == c.seq) = true) :
    s.publishNext.core.eng.copy = [] ∧ s.publishNext.core.eng.gather = [] := by
  obtain ⟨-, ht, hw, -, -⟩ := Engines.nextPublish_some hn
  have he : s.publishNext = (s.publishCmds fun d => d.seq == c.seq).reap := by
    unfold State.publishNext
    rw [hn]; dsimp only; rw [hm, cond_true]
  obtain ⟨hpc, hpg⟩ := State.publishCmds_cmds s fun d => d.seq == c.seq
  rw [hc, List.map_cons, List.map_nil] at hpc
  rw [hg] at hpg
  obtain ⟨hrc, hrg⟩ := (s.publishCmds fun d => d.seq == c.seq).reap_cmds
  rw [he, hrc, hrg, hpc, hpg]
  have hx : Cmd.publishedBy (fun d => d.seq == c.seq) c = { c with published := c.published || c.written, shadow := [] } := by
    rw [Cmd.publishedBy, beq_self_eq_true]; rfl
  have hl : ∀ t : State, t.mayLeave { c with published := c.published || c.written, shadow := [] } = true := by
    intro t
    change ((c.written && ((c.published || c.written) || (c.data && !c.toMem))) && (c.toMem || !c.data || _)) = true
    rw [hw, ht]
    simp
  refine ⟨?_, rfl⟩
  rw [hx, List.filter_cons, hl]
  simp [hd]

/-- With nothing in the engines there is nothing to run. -/
theorem State.publishAll_idle (n : Nat) (hc : s.core.eng.copy = []) (hg : s.core.eng.gather = []) : State.publishAll n s = s := by
  cases n with
  | zero => rfl
  | succ n =>
    have hp : s.publishMoves = [] := by
      unfold State.publishMoves Engines.nextPublish Engines.barrierHead
      rw [hc]; rfl
    have hk : ∀ e, s.cmds e = [] := fun e => by cases e <;> assumption
    have hm : ∀ e, s.engineMoves e = [] := by
      intro e
      unfold State.engineMoves State.engPick
      rw [hk e]; rfl
    unfold State.publishAll
    rw [hp, hm, hm]; rfl

/-- The one command of the copy engine, which may publish: the engines' only move is its publish. -/
theorem State.publishAll_one {c : Cmd} (hc : s.core.eng.copy = [c]) (hg : s.core.eng.gather = []) (hn : s.core.eng.nextPublish = some c)
    (hst : c.started = true) (hd : c.done = false) (hm : (s.mayPublish fun d => d.seq == c.seq) = true) (n : Nat) :
    State.publishAll (n + 1) s = s.publishNext := by
  obtain ⟨-, ht, hw, -, -⟩ := Engines.nextPublish_some hn
  have hp : s.publishMoves = [.enginePublish] := by
    have hb : s.core.eng.barrierHead = none := by
      unfold Engines.barrierHead
      rw [hc]; simp [Cmd.data_of_toMem ht]
    unfold State.publishMoves
    rw [hn, hb]; rfl
  have hmc : s.engineMoves .copy = [] := by
    have hk : s.cmds .copy = [c] := hc
    have hpick : s.engPick .copy = none := by
      unfold State.engPick
      rw [hk]
      cases hf : [c].any fun c => c.fault.isSome
      · simp [hst, hw, List.range_succ]
      · dsimp only
        rw [hf, cond_true]
    unfold State.engineMoves
    rw [hpick, hk]; simp [hd]
  have hmg : s.engineMoves .gather = [] := by
    have hk : s.cmds .gather = [] := hg
    unfold State.engineMoves State.engPick
    rw [hk]; rfl
  obtain ⟨h1, h2⟩ := State.publishNext_empties hc hg hn hd hm
  rw [State.publishAll, hp, hmc, hmg]
  exact State.publishAll_idle n h1 h2

/-- A publish into which no cycles are injected is made at once. -/
theorem exec_enginePublish_one {c : Cmd} (hc : s.core.eng.copy = [c]) (hn : s.core.eng.nextPublish = some c) (hx : c.extra = 0)
    (hm : (s.mayPublish fun d => d.seq == c.seq) = true) : exec .enginePublish s = .next s.publishNext := by
  have hs : s.setEng { s.core.eng with copy := [c] } = s := by rw [← hc]; rfl
  have hw : s.whenDue (fun d => d.seq == c.seq) State.publishNext = s.publishNext := by
    unfold State.whenDue
    dsimp only
    rw [hc, List.map_cons, List.map_nil, hx]
    simp only [bne_self_eq_false, Bool.and_false, Bool.false_and, cond_false]
    rw [hs, hc]
    simp [State.cmdDue, hx]
  rw [show exec .enginePublish s = execEnginePublish s from rfl, execEnginePublish, hn]
  dsimp only
  rw [hm, cond_true, hw]

/-! ### The commands -/

/-- A stop on a bundle with its cut bit set is taken; any other is refused (R272). -/
theorem breakCut_cut {va : Word64} {iter : Option Nat} {p : BitVec 3} {v : BitVec 2} {pa : Nat} (h : s.ctxPa p v va = some pa)
    (ha : va.toNat % 16 = 0) (hb : (s.rd8 (pa + 15)).getLsbD 7 = true) :
    exec (.breakCut va iter (some s.corenum.toNat) (some (p, v))) s =
      .next (s.setDbg { s.core.dbg with bps := s.core.dbg.bps ++ [⟨va, iter, p, v⟩] }) := by
  have hm : misaligned va 16 = false := by rw [misaligned, ha]; rfl
  change Host.Outcome.next (match s.ctxPa p v va with
    | some pa => bif misaligned va 16 || !(s.rd8 (pa + 15)).getLsbD 7 then _ else bif !s.isMe s.corenum.toNat then _ else _
    | none => _) = _
  rw [h]; dsimp only
  rw [hm, hb, s.isMe_self]; rfl
theorem breakCut_other {va : Word64} {iter core : Option Nat} {p : BitVec 3} {v : BitVec 2} {pa : Nat} (h : s.ctxPa p v va = some pa)
    (hb : va.toNat % 16 ≠ 0 ∨ (s.rd8 (pa + 15)).getLsbD 7 = false) :
    exec (.breakCut va iter core (some (p, v))) s = .next (s.refused va.toNat) := by
  have hm : (misaligned va 16 || !(s.rd8 (pa + 15)).getLsbD 7) = true := by
    rcases hb with hb | hb
    · rw [misaligned, bne_iff_ne.mpr hb, Bool.true_or]
    · rw [hb, Bool.not_false, Bool.or_true]
  change Host.Outcome.next (match s.ctxPa p v va with
    | some pa => bif misaligned va 16 || !(s.rd8 (pa + 15)).getLsbD 7 then s.refused va.toNat else _ | none => _) = _
  rw [h]; dsimp only
  rw [hm]; rfl

/-- What is injected under a name is found under it; under another name, what was (R273). -/
theorem inject_find (l : List (Nat × BitVec 12)) (name : Nat) (n : BitVec 12) (x : Nat) :
    ((((name, n) :: l.filter fun x => x.1 != name).find? (·.1 == x)).map (·.2)) =
      if x = name then some n else (l.find? (·.1 == x)).map (·.2) := by
  by_cases h : x = name
  · subst h
    simp
  · have hx : (name == x) = false := beq_eq_false_iff_ne.mpr fun he => h he.symm
    rw [if_neg h, List.find?_cons, hx, List.find?_filter]
    congr 1
    refine congrArg (fun f => l.find? f) (funext fun y => ?_)
    by_cases hy : y.1 = x
    · simp [hy, h]
    · simp [hy]

/-- A launch in a free slot, and one with none (R274). -/
theorem launch_free {template : Word64} {k : List Word32} {p : BitVec 3} {v : BitVec 2} {raw : List Byte}
    (h : s.ctxBytes p v template 128 = some raw) (hl : s.core.ctx.slots.length < 2) (hd : s.siteDrained = false) :
    exec (.launch template k s.corenum.toNat (some p) v) s = .next (s.setCtx { s.core.ctx with slots := s.core.ctx.slots ++
      [⟨{ block := 0, number := s.time, rst := false, gang := false, queue := none, abandons := 0 }, launchRecord raw k, p, v, [], [], [], 0, true,
        .staging⟩] }) := by
  change Host.Outcome.next (bif !s.isMe s.corenum.toNat then _ else match s.ctxBytes p v template 128 with
    | some raw => bif decide (2 ≤ s.core.ctx.slots.length) || s.siteDrained then _ else _ | none => _) = _
  rw [h, s.isMe_self, hd, decide_eq_false (by omega)]
  rfl
theorem launch_full {template : Word64} {k : List Word32} {p : BitVec 3} {v : BitVec 2} {raw : List Byte}
    (h : s.ctxBytes p v template 128 = some raw) (hl : 2 ≤ s.core.ctx.slots.length) :
    exec (.launch template k s.corenum.toNat (some p) v) s = .next (s.refused template.toNat) := by
  change Host.Outcome.next (bif !s.isMe s.corenum.toNat then _ else match s.ctxBytes p v template 128 with
    | some raw => bif decide (2 ≤ s.core.ctx.slots.length) || s.siteDrained then _ else _ | none => _) = _
  rw [h, s.isMe_self, decide_eq_true hl]
  rfl

/-- A strand of a stopped core comes to issue next (R303). -/
theorem stepStrand_issues (k : Strand) (h : s.core.dbg.stopped = true) :
    ∃ t, exec (.stepStrand k) s = .next t ∧ t.nextTurn.2 = .issue k ∧ t.core = s.core ∧ t.mem = s.mem := by
  refine ⟨{ s with agenda := .issue k :: (match k with | .l => [Turn.event (.dataWordRetire .l)] | .s => [Turn.event (.dataWordRetire .s)] | _ => [])
    ++ s.agenda },
    ?_, rfl, rfl, rfl⟩
  change Host.Outcome.next (bif !s.core.dbg.stopped then s else _) = _
  rw [h]
  cases k <;> rfl

/-- A marker of a strand other than V is placed where it stands, in stage 0 (R301, R304). -/
theorem placeMarker_places {k : Strand} (hk : k ≠ .v) (hs : s.stepOn = true) (hm : s.core.dbg.smpMask.getLsbD (strandCode k).toNat = true)
    (hn : s.core.dbg.marker = none) (hi : s.smpSoon = false) :
    ∃ m, s.placeMarker k = s.setDbg { s.core.dbg with marker := some m, smpFrom := s.smpUnits } ∧ m.strand = k ∧ m.pc = s.pcOf k ∧ m.stage = 0 := by
  have hst : s.stageOf k = 0 := by
    cases k with
    | v => exact absurd rfl hk
    | _ => rfl
  unfold State.placeMarker
  dsimp only
  rw [hs, hm, hn, hi, hst]
  exact ⟨_, rfl, rfl, rfl, rfl⟩

end Sys2Proof.Machine

open Sys2Proof Sys2Proof.Machine Sys2Proof.Claims

/-- Settles O46: each command is one test and one change of the debug unit; a publish of the engines' one command empties them. -/
theorem debuggerRunsTheCore : Obligations.DebuggerRunsTheCore := by
  intro s
  refine ⟨fun va iter p v pa h => ⟨breakCut_cut h, fun hb => ⟨_, breakCut_other h hb, rfl⟩⟩, fun name n => ⟨_, rfl, rfl, fun x => ?_⟩,
    fun template k p v raw h => ⟨fun hl hd => ⟨_, _, launch_free h hl hd, rfl, rfl, rfl, rfl, rfl, rfl, fun i hi => ?_⟩,
      fun hl => ⟨_, launch_full h hl, rfl⟩⟩, rfl, fun k h => stepStrand_issues k h, fun c hstop hc hg hn hst hd hx hm => ?_,
    fun k hk hs hm hn hi => ?_⟩
  · exact inject_find s.core.dbg.inject name n x
  · exact vget_ofFn _ hi 0
  · refine ⟨s.publishNext, ?_, exec_enginePublish_one hc hn hx hm, (State.publishNext_empties hc hg hn hd hm).1⟩
    change Host.Outcome.next (bif s.core.dbg.stopped then State.publishAll 4096 s else s) = _
    rw [hstop, cond_true, State.publishAll_one hc hg hn hst hd hm]
  · obtain ⟨m, hp, h⟩ := placeMarker_places hk hs hm hn hi
    exact ⟨_, m, congrArg Host.Outcome.next hp, rfl, h⟩
end

section
/-! O44: links (R408, R410, R418), requests and their answers (R412), and the Ethernet ports (R421). -/

namespace Sys2Proof.Machine

open Sys2Proof.Claims

variable {s : State}

/-! ### An entry of a vector, read after a write -/

theorem vget_vset_same {α : Type} {n : Nat} (v : Vector α n) {i : Nat} (h : i < n) (x d : α) : vget (vset v i x) i d = x := by
  rw [vget, vset, List.getD_eq_getElem?_getD, Vector.getElem?_toList, Vector.getElem?_setIfInBounds_self_of_lt h]
  rfl
theorem vget_vset_ne {α : Type} {n : Nat} (v : Vector α n) {i j : Nat} (h : j ≠ i) (x d : α) : vget (vset v i x) j d = vget v j d := by
  rw [vget, vset, vget, List.getD_eq_getElem?_getD, List.getD_eq_getElem?_getD, Vector.getElem?_toList, Vector.getElem?_toList,
    Vector.getElem?_setIfInBounds_ne (Ne.symm h)]

/-! ### Records to a disabled fault queue -/

/-- A record posted to a queue that is not enabled leaves nothing (R366). -/
theorem State.post_disabled {p : BitVec 3} (r : FaultRec) (h : (s.part p).fqEn = false) : s.post p r = s := by
  rw [State.post, h]; rfl
theorem State.postAll_disabled (r : FaultRec) (h : NoQueues s) : s.postAll r = s := by
  unfold State.postAll
  have key : ∀ l : List (BitVec 3), l.foldl (fun s p => s.post p r) s = s := by
    intro l
    induction l with
    | nil => rfl
    | cons p l ih => rw [List.foldl_cons, State.post_disabled r (h p).1, ih]
  exact key _

/-! ### Links -/

/-- A link replaced is the one change. -/
theorem State.linkUpd_now {port : Nat} (h : port < 18) (f : Link → Link) : LinkNow s (s.linkUpd port f) port (f (linkOf s port)) :=
  ⟨vget_vset_same _ h _ _, fun _ hq => vget_vset_ne _ hq _ _, rfl, rfl⟩
theorem linkNow_of_links {t u : State} {port : Nat} {l : Link} (h : LinkNow s t port l) (hl : u.pkg.links = t.pkg.links) (hc : u.core = t.core)
    (hm : u.mem = t.mem) : LinkNow s u port l := by
  obtain ⟨h1, h2, h3, h4⟩ := h
  unfold LinkNow linkOf at *
  rw [hl]
  exact ⟨h1, h2, hc.trans h3, hm.trans h4⟩

theorem flitCrcFailure_now {port : Nat} (hp : port < 18) (h : (linkOf s port).state = .up) :
    ∃ t, exec (.flitCrcFailure port) s = .next t ∧ LinkNow s t port (if (linkOf s port).again = true
      then { linkOf s port with fails := (linkOf s port).fails + 1 } else { linkOf s port with again := true, fails := 0 }) := by
  refine ⟨s.linkUpd port fun l => bif l.again then { l with fails := l.fails + 1 } else { l with again := true, fails := 0 }, ?_, ?_⟩
  · change Host.Outcome.next (bif decide ((linkOf s port).state = .up) then _ else _) = _
    rw [decide_eq_true h]; rfl
  · rw [← Bool.cond_eq_ite]
    exact State.linkUpd_now hp _
theorem linkRetrain_now {port : Nat} (hp : port < 18) (h : (linkOf s port).state = .up) (hf : 8 ≤ (linkOf s port).fails) :
    ∃ t, exec (.linkRetrain port) s = .next t ∧ LinkNow s t port { linkOf s port with state := .retraining } := by
  refine ⟨s.linkUpd port fun l => { l with state := .retraining }, ?_, State.linkUpd_now hp _⟩
  change Host.Outcome.next (bif decide ((linkOf s port).state = .up ∧ 8 ≤ (linkOf s port).fails) then _ else _) = _
  rw [decide_eq_true ⟨h, hf⟩]; rfl

/-- The bit of a port, set and cleared. -/
theorem portBit_set (x : BitVec 18) {port : Nat} (h : port < 18) : (x ||| (1#18 <<< port)).getLsbD port = true := by
  simp [h]
theorem portBit_clear (x : BitVec 18) (port : Nat) : (x &&& ~~~(1#18 <<< port)).getLsbD port = false := by
  simp [BitVec.getLsbD_and, BitVec.getLsbD_shiftLeft]
theorem portBit_clear_of_clear (x : BitVec 18) (port : Nat) {q : Nat} (hx : x.getLsbD q = false) : (x &&& ~~~(1#18 <<< port)).getLsbD q = false := by
  simp [BitVec.getLsbD_and, hx]

theorem linkRetrainComplete_now {port : Nat} (hp : port < 18) (h : (linkOf s port).state = .retraining)
    (hr : s.inReset (Config.cfgPort port) = false) :
    ∃ t, exec (.linkRetrainComplete port) s = .next t ∧ LinkNow s t port { linkOf s port with state := .up, again := false, fails := 0 } ∧
      t.pkg.portUp.getLsbD port = true := by
  refine ⟨(s.linkUpd port fun l => { l with state := .up, again := false, fails := 0 }).setPkg
    { (s.linkUpd port fun l => { l with state := .up, again := false, fails := 0 }).pkg with portUp := s.pkg.portUp ||| (1#18 <<< port) },
    ?_, linkNow_of_links (State.linkUpd_now hp fun l => { l with state := .up, again := false, fails := 0 }) rfl rfl rfl, portBit_set _ hp⟩
  change Host.Outcome.next (bif decide ((linkOf s port).state = .retraining) && !s.inReset (Config.cfgPort port) then _ else _) = _
  rw [decide_eq_true h, hr]; rfl

/-- The machine with a port down. -/
def State.portOff (s : State) (port : Nat) : State :=
  (s.linkUpd port fun l => { l with state := .down }).setPkg
    { (s.linkUpd port fun l => { l with state := .down }).pkg with portUp := s.pkg.portUp &&& ~~~(1#18 <<< port) }
theorem State.portOff_now {port : Nat} (hp : port < 18) : LinkNow s (s.portOff port) port { linkOf s port with state := .down } :=
  linkNow_of_links (State.linkUpd_now hp fun l => { l with state := .down }) rfl rfl rfl

theorem State.portOff_ownGroups (port : Nat) : (s.portOff port).ownGroups = s.ownGroups := by
  unfold State.ownGroups
  have hp : ∀ p, (s.portOff port).part p = s.part p := fun _ => rfl
  simp only [hp]
  rfl

/-- A port that does not retrain goes down; a package left with none leaves the domain (R418). -/
theorem exec_portDown {port : Nat} (h : (linkOf s port).state = .retraining) (hq : NoQueues s) :
    exec (.portDown port) s = .next (bif (s.portOff port).pkg.portUp == 0 then
      (s.portOff port).failGroups (s.portOff port).pkg.pkgId (s.portOff port).ownGroups else s.portOff port) := by
  have hn : NoQueues (s.portOff port) := fun p => hq p
  have hd : decide ((s.link port).state ≠ .retraining) = false := decide_eq_false (not_not.mpr h)
  rw [show exec (.portDown port) s = execPortDown port s from rfl, execPortDown, hd, cond_false]
  exact congrArg (fun u : State => Host.Outcome.next (bif u.pkg.portUp == 0 then u.failGroups u.pkg.pkgId u.ownGroups else u))
    (State.postAll_disabled (plainRec 0x40 0 (BitVec.ofNat 32 port) 0) hn)
theorem portDown_now {port : Nat} (hp : port < 18) (h : (linkOf s port).state = .retraining) (hq : NoQueues s) :
    ∃ t, exec (.portDown port) s = .next t ∧ LinkNow s t port { linkOf s port with state := .down } ∧ t.pkg.portUp.getLsbD port = false ∧
      ((∀ q < 18, q ≠ port → s.pkg.portUp.getLsbD q = false) →
        ∀ f ∈ s.pkg.fabs, s.pkg.pkgId ∈ f.who ∨ f.group ∈ s.ownGroups → { f with fail := true } ∈ t.pkg.fabs) := by
  rw [exec_portDown h hq]
  change ∃ t, Host.Outcome.next (bif (s.pkg.portUp &&& ~~~(1#18 <<< port)) == 0 then _ else _) = Host.Outcome.next t ∧ _
  rw [State.portOff_ownGroups]
  cases hb : (s.pkg.portUp &&& ~~~(1#18 <<< port)) == 0 with
  | false =>
    refine ⟨_, rfl, State.portOff_now hp, portBit_clear _ _, fun hall => ?_⟩
    have hz : s.pkg.portUp &&& ~~~(1#18 <<< port) = 0 := by
      refine BitVec.eq_of_getLsbD_eq fun q hlt => ?_
      rw [show (0 : BitVec 18).getLsbD q = false from BitVec.getLsbD_zero]
      by_cases he : q = port
      · subst he; exact portBit_clear _ _
      · exact portBit_clear_of_clear _ _ (hall q hlt he)
    rw [hz] at hb; cases hb
  | true =>
    refine ⟨_, rfl, linkNow_of_links (State.portOff_now hp) rfl rfl rfl, portBit_clear _ _, fun _ f hf hw => ?_⟩
    refine List.mem_map.mpr ⟨f, hf, ?_⟩
    have hc : (f.who.contains s.pkg.pkgId || s.ownGroups.contains f.group) = true := by
      rcases hw with hw | hw
      · rw [List.contains_iff_mem.mpr hw, Bool.true_or]
      · rw [List.contains_iff_mem.mpr hw, Bool.or_true]
    change (bif f.who.contains s.pkg.pkgId || s.ownGroups.contains f.group then { f with fail := true } else f) = _
    rw [hc]; rfl

/-- A virtual channel stopped or released, and it alone (R410). -/
theorem stop_bits (x : BitVec 5) {vc : Nat} (stop : Bool) {i : Nat} (hi : i < 5) :
    (bif stop then x ||| (1#5 <<< vc) else x &&& ~~~(1#5 <<< vc)).getLsbD i = if i = vc then stop else x.getLsbD i := by
  cases stop <;>
    simp only [cond_true, cond_false, BitVec.getLsbD_or, BitVec.getLsbD_and, BitVec.getLsbD_not, BitVec.getLsbD_shiftLeft, BitVec.getLsbD_one,
      hi, decide_true, Bool.true_and] <;>
    split <;> grind

/-! ### Requests (R412) -/

theorem requestTimeout_other {tag : Nat} (h : tag ≠ s.pkg.tag) : exec (.requestTimeout tag) s = .next s := by
  change Host.Outcome.next (bif tag != s.pkg.tag then s else _) = _
  rw [bne_iff_ne.mpr h]; rfl
theorem requestTimeout_mine : exec (.requestTimeout s.pkg.tag) s = .next (match s.pkg.reqs.find? fun r => r.tag == s.pkg.tag with
    | none => s.setPkg { s.pkg with reqs := [⟨s.pkg.tag, 1, s.tstamp⟩] }
    | some r => bif decide (r.at_ + 20000 ≤ s.tstamp) then s.setPkg { s.pkg with reqs := [⟨s.pkg.tag, 2, r.at_⟩] } else s) := by
  change Host.Outcome.next (bif s.pkg.tag != s.pkg.tag then s else _) = _
  rw [bne_self_eq_false]; rfl

theorem linksAndRequestsMove : LinksAndRequestsMove := by
  intro s port tag vc hp l
  refine ⟨fun h => flitCrcFailure_now hp h, fun h hf => linkRetrain_now hp h hf, fun h => ⟨fun hr => linkRetrainComplete_now hp h hr,
    fun hq => portDown_now hp h hq⟩, fun hvc stop => ?_, fun h => requestTimeout_other h, fun h => ?_, ?_⟩
  · obtain ⟨h1, -⟩ := State.linkUpd_now (s := s) hp fun l => { l with stop := bif stop then l.stop ||| (1#5 <<< vc.toNat) else l.stop &&& ~~~(1#5 <<<
      vc.toNat) }
    refine ⟨_, rfl, (congrArg Link.state h1).trans rfl, fun i hi => ?_⟩
    exact (congrArg (fun l : Link => l.stop.getLsbD i) h1).trans (stop_bits _ stop hi)
  · subst h
    rw [requestTimeout_mine]
    refine ⟨fun hn => ?_, fun r hr => ⟨fun hlt => ?_, fun hle => ?_⟩⟩
    · have : (s.pkg.reqs.find? fun r => r.tag == s.pkg.tag) = none := List.find?_eq_none.mpr fun r hr => by simpa using hn r hr
      rw [this]
    · rw [hr]; dsimp only
      rw [decide_eq_false (by omega)]; rfl
    · rw [hr]; dsimp only
      rw [decide_eq_true hle]
      refine ⟨_, rfl, ?_, rfl, rfl, rfl⟩
      change ([(⟨s.pkg.tag, 2, r.at_⟩ : RemoteReq)].any fun r => r.tag == s.pkg.tag && decide (2 ≤ r.tries)) = true
      simp
  · refine ⟨_, rfl, rfl, rfl, fun a => ?_⟩
    change a ∈ s.pkg.answered.filter (fun a => !(a.pkg == BitVec.ofNat 8 tag && a.tag == tag / 256 && a.old s.tstamp)) ↔ _
    rw [List.mem_filter]
    simp only [Answered.old, Bool.not_eq_true', Bool.and_eq_false_iff, beq_eq_false_iff_ne, decide_eq_false_iff_not]
    tauto

/-! ### Ethernet (R421) -/

theorem ethernetPortsReact : EthernetPortsReact := by
  intro s port prio qp
  refine ⟨fun he hq => ?_, ⟨_, rfl, rfl, rfl, fun i x hx => ?_⟩, fun pause => ⟨_, rfl, ?_, fun x hx => ?_, fun hp x h1 h2 => ?_, rfl, rfl⟩⟩
  · have hn : NoQueues (s.setPkg { s.pkg with eth := s.pkg.eth &&& ~~~(1#8 <<< port.toNat) }) := hq
    have hd : (s.pkg.eth &&& ~~~(1#8 <<< port.toNat)).getLsbD port.toNat = false := by simp [BitVec.getLsbD_and, BitVec.getLsbD_shiftLeft]
    refine ⟨s.setPkg { s.pkg with eth := s.pkg.eth &&& ~~~(1#8 <<< port.toNat) }, ?_, hd, fun q hne => ?_, fun x hx => ?_, rfl⟩
    · change Host.Outcome.next (bif s.pkg.eth.getLsbD port.toNat then _ else s) = _
      rw [he, cond_true, State.postAll_disabled _ hn]
    · change (s.pkg.eth &&& ~~~(1#8 <<< port.toNat)).getLsbD q.toNat = _
      have hlt := q.isLt
      have : q.toNat ≠ port.toNat := fun e => hne (BitVec.eq_of_toNat_eq e)
      simp only [BitVec.getLsbD_and, BitVec.getLsbD_not, BitVec.getLsbD_shiftLeft, BitVec.getLsbD_one]
      grind
    · change (!(s.pkg.eth &&& ~~~(1#8 <<< port.toNat)).getLsbD x.port.toNat || _ || _ || _) = true
      rw [hx, hd]; rfl
  · change (s.pkg.qps.map _)[i]? = _
    rw [List.getElem?_map, hx]
    change some (bif x.part.toNat * 4096 + x.num == qp then _ else x) = _
    simp only [Bool.cond_eq_ite, beq_iff_eq]
  · change (port, prio) ∈ (bif pause then (port, prio) :: s.pkg.ethPause.filter (· != (port, prio)) else s.pkg.ethPause.filter (· != (port, prio))) ↔
      _
    cases pause <;> simp
  · change x ∈ (bif pause then (port, prio) :: s.pkg.ethPause.filter (· != (port, prio)) else s.pkg.ethPause.filter (· != (port, prio))) ↔ _
    cases pause <;> simp [hx]
  · subst hp h1 h2
    change (_ || _ || ((x.port, x.prio) :: s.pkg.ethPause.filter (· != (x.port, x.prio))).contains (x.port, x.prio) || _) = true
    simp

end Sys2Proof.Machine

open Sys2Proof Sys2Proof.Machine Sys2Proof.Claims

/-- Settles O44: each event replaces one link, one request or one field of the Ethernet ports. -/
theorem linksRequestsAndEthernetReact : Obligations.LinksRequestsAndEthernetReact := ⟨linksAndRequestsMove, ethernetPortsReact⟩
end

section
/-! What a write event leaves of memory, byte by byte (R309, R310, R315, R321); O31: the writes of C, of the host and of ports. -/

namespace Sys2Proof.Machine

open Sys2Proof.Claims

variable {s t u : State}

/-! ### Machines with the same bytes and the same granules that wait -/

/-- Two machines hold the same bytes, at the same addresses, and the same near-bank granules wait. -/
def State.SameBytes (s t : State) : Prop :=
  t.mem.cells = s.mem.cells ∧ t.core.nb.writes = s.core.nb.writes ∧ t.pkg.pkgId = s.pkg.pkgId

theorem State.SameBytes.rfl' (s : State) : s.SameBytes s := ⟨rfl, rfl, rfl⟩
theorem State.SameBytes.trans (h : s.SameBytes t) (k : t.SameBytes u) : s.SameBytes u := ⟨k.1.trans h.1, k.2.1.trans h.2.1, k.2.2.trans h.2.2⟩
theorem State.SameBytes.symm' (h : s.SameBytes t) : t.SameBytes s := ⟨h.1.symm, h.2.1.symm, h.2.2.symm⟩
theorem State.SameBytes.norm (h : s.SameBytes t) (a : Nat) : t.norm a = s.norm a := by unfold State.norm; rw [h.2.2]
theorem State.SameBytes.rd8 (h : s.SameBytes t) (a : Nat) : t.rd8 a = s.rd8 a := by rw [State.rd8, State.rd8, h.1, h.norm]
theorem State.SameBytes.inv (h : s.SameBytes t) (hi : s.Inv) : t.Inv := (congrArg cellsWf h.1).trans hi
theorem State.SameBytes.rdNat (h : s.SameBytes t) (a n : Nat) : t.rdNat a n = s.rdNat a n := by
  unfold State.rdNat State.rdBytes
  simp only [h.rd8]
theorem State.CacheNear.sameBytes (h : s.CacheNear t) : s.SameBytes t := by
  obtain ⟨_, _, _, _, _, rfl⟩ := h
  exact ⟨rfl, rfl, rfl⟩
theorem State.Cached.sameBytes (h : s.Cached t) : s.SameBytes t := by
  obtain ⟨_, _, _, _, _, _, _, _, _, _, _, _, _, _, _, _, _, rfl⟩ := h
  exact ⟨rfl, rfl, rfl⟩
theorem State.orderAt_sameBytes (s : State) (ag : Nat) (w : Bool) (pa : Nat) : s.SameBytes (s.orderAt ag w pa) := by
  obtain ⟨o, e⟩ := s.orderAt_eq ag w pa; rw [e]; exact ⟨rfl, rfl, rfl⟩
theorem State.orderLines_sameBytes (s : State) (ag : Nat) (w : Bool) (pas : List Nat) : s.SameBytes (s.orderLines ag w pas) := by
  obtain ⟨o, e⟩ := s.orderLines_eq ag w pas; rw [e]; exact ⟨rfl, rfl, rfl⟩

theorem State.memPut_sameBytes (h : s.SameBytes t) (cs : List Host.Cell) (o o' : Owner) (dev dev' whole whole' : Bool) :
    (s.memPut cs o dev whole).SameBytes (t.memPut cs o' dev' whole') := by
  refine ⟨?_, h.2.1, h.2.2⟩
  change (cs.map fun c => (t.norm c.1, c.2)).foldl (fun x c => cellSet x c.1 c.2) t.mem.cells = (cs.map fun c => (s.norm c.1, c.2)).foldl _
    s.mem.cells
  simp only [h.norm, h.1]
theorem State.granulePut_sameBytes (h : s.SameBytes t) (g : Granule) : (s.granulePut g).SameBytes (t.granulePut g) :=
  State.memPut_sameBytes (((s.orderAt_sameBytes 2 true g.pa).symm').trans (h.trans (t.orderAt_sameBytes 2 true g.pa))) _ _ _ _ _ _ _
theorem State.granulePuts_sameBytes (l : List Granule) :
    ∀ {s t : State}, s.SameBytes t → (l.foldl State.granulePut s).SameBytes (l.foldl State.granulePut t) := by
  induction l with
  | nil => exact fun h => h
  | cons g l ih => exact fun h => ih (State.granulePut_sameBytes h g)
/-- What precedes an ordinary write depends on the bytes and on the granules that wait alone (R315). -/
theorem State.rmwFirst_sameBytes (h : s.SameBytes t) (pas : List Nat) : (s.rmwFirst pas).SameBytes (t.rmwFirst pas) := by
  have hr : (rmwSplit (fun g => pas.any fun a => decide (g.pa ≤ t.norm a ∧ t.norm a < g.pa + g.bytes.length)) t.core.nb.writes) =
      rmwSplit (fun g => pas.any fun a => decide (g.pa ≤ s.norm a ∧ s.norm a < g.pa + g.bytes.length)) s.core.nb.writes := by
    simp only [h.norm, h.2.1]
  unfold State.rmwFirst
  dsimp only
  rw [hr]
  generalize rmwSplit _ s.core.nb.writes = r
  cases r.1.isEmpty with
  | true => exact h
  | false => exact State.granulePuts_sameBytes _ ⟨h.1, rfl, h.2.2⟩

/-! ### What a list of writes leaves at an address that it names -/

/-- Of several writes to one address the last one stands. -/
theorem cellGet_foldl_last : ∀ (cs : List Host.Cell) {l : List Host.Cell} (i : Nat) (hi : i < cs.length), cellsWf l = true →
    (∀ j (hj : j < cs.length), i < j → cs[j].1 ≠ cs[i].1) → cellGet (cs.foldl (fun x c => cellSet x c.1 c.2) l) cs[i].1 = cs[i].2
  | c :: cs, l, 0, _, h, hlast => by
    rw [List.foldl_cons]
    refine (cellGet_foldl_other cs (cellsWf_cellSet _ _ h) fun x hx => ?_).trans (cellGet_cellSet_same _ _ h)
    obtain ⟨j, hj, rfl⟩ := List.getElem_of_mem hx
    exact hlast (j + 1) (Nat.succ_lt_succ hj) (Nat.succ_pos j)
  | c :: cs, l, i + 1, hi, h, hlast => by
    rw [List.foldl_cons]
    exact cellGet_foldl_last cs i (Nat.lt_of_succ_lt_succ hi) (cellsWf_cellSet _ _ h) fun j hj hij => hlast (j + 1) (Nat.succ_lt_succ hj)
      (Nat.succ_lt_succ hij)

theorem cellsAt_length (pa : Nat) (bs : List Byte) : (cellsAt pa bs).length = bs.length := by rw [cellsAt, List.length_map, List.length_range]
theorem cellsAt_getElem (pa : Nat) (bs : List Byte) {i : Nat} (hi : i < (cellsAt pa bs).length) : (cellsAt pa bs)[i] = (pa + i, bs.getD i 0) := by
  simp only [cellsAt, List.getElem_map, List.getElem_range]
theorem cellsAt_addrs (pa : Nat) (bs : List Byte) : (cellsAt pa bs).map (·.1) = span pa bs.length := by
  rw [cellsAt, List.map_map]; rfl

/-- The bytes of a write stand where it put them, and no other byte has changed. -/
theorem State.memPut_wrote (pa : Nat) (bs : List Byte) (o : Owner) (dev whole : Bool) (h : s.Inv) :
    Wrote s (s.memPut (cellsAt pa bs) o dev whole) pa bs := by
  refine ⟨fun a ha => State.memPut_rd8 _ _ _ _ _ h fun c hc => ?_, fun i hi hlast => ?_⟩
  · obtain ⟨i, hi, rfl⟩ := List.mem_map.mp hc
    exact ha i (List.mem_range.mp hi)
  · have hlen : ((cellsAt pa bs).map fun c => (s.norm c.1, c.2)).length = bs.length := by rw [List.length_map, cellsAt_length]
    have hat : ∀ j (hj : j < ((cellsAt pa bs).map fun c => (s.norm c.1, c.2)).length),
        ((cellsAt pa bs).map fun c => (s.norm c.1, c.2))[j] = (s.norm (pa + j), bs.getD j 0) := by
      intro j hj
      rw [List.getElem_map, cellsAt_getElem]
    have key := cellGet_foldl_last ((cellsAt pa bs).map fun c => (s.norm c.1, c.2)) (l := s.mem.cells) i (hlen ▸ hi) h
      (fun j hj hij => by rw [hat, hat]; exact hlast j (hlen ▸ hj) hij)
    rw [hat] at key
    exact key

theorem Wrote.congr {s' t' : State} {pa : Nat} {bs : List Byte} (h : Wrote s t pa bs) (hs : s.SameBytes s') (ht : t.SameBytes t') :
    Wrote s' t' pa bs := by
  obtain ⟨h1, h2⟩ := h
  refine ⟨fun a ha => ?_, fun i hi hlast => ?_⟩
  · rw [ht.rd8, hs.rd8]
    exact h1 a fun i hi => by rw [← hs.norm, ← hs.norm]; exact ha i hi
  · rw [ht.rd8]
    exact h2 i hi fun j hj hij => by rw [← hs.norm, ← hs.norm]; exact hlast j hj hij

/-- An ordinary write event, from what the near-bank row steps that it follows have left (R309, R315). -/
theorem State.memWrite_wrote (pa : Nat) (bs : List Byte) (o : Owner) (dev whole : Bool) (h : s.Inv) :
    Wrote (ahead s pa bs.length) (s.memWrite (cellsAt pa bs) o dev whole) pa bs := by
  unfold State.memWrite ahead
  rw [cellsAt_addrs]
  exact State.memPut_wrote pa bs o dev whole (State.rmwFirst_wf _ h)

/-- Bytes stored into lines that are not poisoned are written, and no record is due (R330). -/
theorem State.storeCells_clean (cs : List Host.Cell) (o : Owner) (dev : Bool) (h : ∀ c ∈ cs, s.poisoned c.1 = false) :
    s.storeCells cs o dev = s.memWrite cs o dev false := by
  have hf : (cs.filter fun c => s.poisoned c.1) = [] := List.filter_eq_nil_iff.mpr fun c hc => by rw [h c hc]; exact Bool.false_ne_true
  unfold State.storeCells
  rw [hf]
  rfl
theorem unpoisoned_cells {pa : Nat} {bs : List Byte} (h : Unpoisoned s pa bs.length) : ∀ c ∈ cellsAt pa bs, s.poisoned c.1 = false := by
  intro c hc
  obtain ⟨i, hi, rfl⟩ := List.mem_map.mp hc
  exact h i (List.mem_range.mp hi)
theorem State.store_clean (pa : Nat) (bs : List Byte) (o : Owner) (dev : Bool) (h : Unpoisoned s pa bs.length) :
    s.store pa bs o dev = s.memWrite (cellsAt pa bs) o dev false := State.storeCells_clean _ _ _ (unpoisoned_cells h)
theorem State.store_wrote (pa : Nat) (bs : List Byte) (o : Owner) (dev : Bool) (h : s.Inv) (hp : Unpoisoned s pa bs.length) :
    Wrote (ahead s pa bs.length) (s.store pa bs o dev) pa bs := by
  rw [State.store_clean pa bs o dev hp]
  exact State.memWrite_wrote pa bs o dev false h

/-! ### One write after another -/

/-- Two writes of bytes that follow one another are one write of them all. -/
theorem Wrote.append {pa : Nat} {b₁ b₂ : List Byte} (h : Wrote s u pa b₁) (k : Wrote u t (pa + b₁.length) b₂) (hn : ∀ a, u.norm a = s.norm a) :
    Wrote s t pa (b₁ ++ b₂) := by
  obtain ⟨h1, h2⟩ := h
  obtain ⟨k1, k2⟩ := k
  simp only [hn] at k1 k2
  refine ⟨fun a ha => ?_, fun i hi hlast => ?_⟩
  · rw [List.length_append] at ha
    refine (k1 a fun i hi => ?_).trans (h1 a fun i hi => ha i (by omega))
    rw [Nat.add_assoc]; exact ha _ (by omega)
  · rw [List.length_append] at hi hlast
    by_cases hlt : i < b₁.length
    · rw [k1 (pa + i) fun j hj => by rw [Nat.add_assoc]; exact hlast _ (by omega) (by omega), h2 i hlt fun j hj hij => hlast j (by omega) hij,
        List.getD_eq_getElem?_getD, List.getD_eq_getElem?_getD, List.getElem?_append_left hlt]
    · obtain ⟨j, rfl⟩ := Nat.exists_eq_add_of_le (Nat.not_lt.mp hlt)
      rw [← Nat.add_assoc, k2 j (by omega) fun k hk hjk => by rw [Nat.add_assoc, Nat.add_assoc]; exact hlast _ (by omega) (by omega),
        List.getD_eq_getElem?_getD, List.getD_eq_getElem?_getD, List.getElem?_append_right (by omega), Nat.add_sub_cancel_left]
theorem Wrote.nil (s : State) (pa : Nat) : Wrote s s pa [] := ⟨fun _ _ => rfl, fun i hi => absurd hi (Nat.not_lt_zero i)⟩

/-- An operation that serves another changes memory and its bookkeeping alone. -/
theorem Core.Served.memoryOnly (h : s.core.Served t.core) : MemoryOnly s t := by
  obtain ⟨_, _, _, _, _, _, _, _, e⟩ := h
  unfold MemoryOnly
  rw [e]
  exact ⟨rfl, rfl, rfl, rfl, rfl, rfl, rfl, rfl⟩

/-! ### C's retired store (R308, R310) -/

/-- The machine with C's store out of its buffer, at its place in the order. -/
theorem State.flushStore_of_some {st : PendStore} (h : s.core.c.store = some st) :
    s.flushStore = ((s.setC { s.core.c with store := none }).orderAt 0 true st.pa).store st.pa st.bytes s.me true := by
  unfold State.flushStore; rw [h]

/-- What an order of accesses changes leaves poison as it is. -/
theorem State.orderAt_poisoned (ag : Nat) (w : Bool) (pa a : Nat) : (s.orderAt ag w pa).poisoned a = s.poisoned a := by
  obtain ⟨o, e⟩ := s.orderAt_eq ag w pa; rw [e]; rfl
theorem State.orderLines_poisoned (ag : Nat) (w : Bool) (pas : List Nat) (a : Nat) : (s.orderLines ag w pas).poisoned a = s.poisoned a := by
  obtain ⟨o, e⟩ := s.orderLines_eq ag w pas; rw [e]; rfl

theorem State.flushStore_wrote {st : PendStore} (h : s.core.c.store = some st) (hi : s.Inv) (hp : Unpoisoned s st.pa st.bytes.length) :
    Wrote (ahead s st.pa st.bytes.length) s.flushStore st.pa st.bytes := by
  have hb : s.SameBytes ((s.setC { s.core.c with store := none }).orderAt 0 true st.pa) :=
    State.SameBytes.trans ⟨rfl, rfl, rfl⟩ (State.orderAt_sameBytes _ _ _ _)
  have hq : Unpoisoned ((s.setC { s.core.c with store := none }).orderAt 0 true st.pa) st.pa st.bytes.length := by
    intro i hlt
    rw [State.orderAt_poisoned]
    exact hp i hlt
  rw [State.flushStore_of_some h]
  exact Wrote.congr (State.store_wrote st.pa st.bytes s.me true (hb.inv hi) hq) (State.rmwFirst_sameBytes hb.symm' _) (State.SameBytes.rfl' _)

/-- A write grants no lease. -/
theorem State.granulePut_leases (g : Granule) {x : Lease} (hx : x ∈ (s.granulePut g).mem.leases) : x ∈ s.mem.leases := by
  obtain ⟨o, e⟩ := s.orderAt_eq 2 true g.pa
  unfold State.granulePut at hx
  rw [e] at hx
  exact (List.mem_filter.mp hx).1
theorem State.rmwFirst_leases (pas : List Nat) {x : Lease} (hx : x ∈ (s.rmwFirst pas).mem.leases) : x ∈ s.mem.leases := by
  have key : ∀ (l : List Granule) (u : State), x ∈ (l.foldl State.granulePut u).mem.leases → x ∈ u.mem.leases := by
    intro l
    induction l with
    | nil => exact fun _ h => h
    | cons g l ih => exact fun u h => State.granulePut_leases g (ih _ h)
  unfold State.rmwFirst at hx
  dsimp only at hx
  revert hx
  refine cond_induction (P := fun t : State => x ∈ t.mem.leases → x ∈ s.mem.leases) (fun _ h => h) fun _ h => ?_
  have hs := key _ _ h
  exact hs
theorem State.memWrite_leases (cs : List Host.Cell) (o : Owner) (dev whole : Bool) {x : Lease} (hx : x ∈ (s.memWrite cs o dev whole).mem.leases) :
    x ∈ s.mem.leases := State.rmwFirst_leases _ (List.mem_filter.mp hx).1
theorem State.flushStore_leases {st : PendStore} (h : s.core.c.store = some st) (hp : Unpoisoned s st.pa st.bytes.length) {x : Lease}
    (hx : x ∈ s.flushStore.mem.leases) : x ∈ s.mem.leases := by
  have hq : Unpoisoned ((s.setC { s.core.c with store := none }).orderAt 0 true st.pa) st.pa st.bytes.length := by
    intro i hlt
    rw [State.orderAt_poisoned]
    exact hp i hlt
  rw [State.flushStore_of_some h, State.store_clean _ _ _ _ hq] at hx
  have hy := State.memWrite_leases _ _ _ _ hx
  obtain ⟨o, e⟩ := (s.setC { s.core.c with store := none }).orderAt_eq 0 true st.pa
  rw [e] at hy
  exact hy

/-! ### Writes of units, of the host and of ports (R321, R338, R422) -/

/-- With no row step between its read and its write, an ordinary write follows nothing. -/
theorem rmwSplit_none (hit : Granule → Bool) : ∀ l : List Granule, (∀ g ∈ l, g.rmw = false) → rmwSplit hit l = ([], l)
  | [], _ => rfl
  | g :: l, h => by
    rw [rmwSplit, rmwSplit_none hit l fun x hx => h x (List.mem_cons_of_mem _ hx), h g List.mem_cons_self]
    dsimp only
    rw [Bool.and_false, List.any_nil]
    rfl
theorem State.rmwFirst_noRowStep (pas : List Nat) (h : NoRowStep s) : s.rmwFirst pas = s := by
  unfold State.rmwFirst
  dsimp only
  rw [rmwSplit_none _ _ h]
  rfl
theorem State.memWrite_noRowStep (cs : List Host.Cell) (o : Owner) (dev whole : Bool) (h : NoRowStep s) :
    s.memWrite cs o dev whole = s.memPut cs o dev whole := by
  unfold State.memWrite; rw [State.rmwFirst_noRowStep _ h]

/-- What a write from outside the core leaves: nothing but memory and the caches, with their trackers. -/
def State.OutsideKept (s t : State) : Prop :=
  (∃ w, t.core = { s.core with c := { s.core.c with watch := w } }) ∧ (∃ h, t.pkg = { s.pkg with hbm := h }) ∧ t.mem.poison = s.mem.poison ∧ t.time =
    s.time

theorem State.OutsideKept.trans (h : s.OutsideKept t) (k : t.OutsideKept u) : s.OutsideKept u := by
  obtain ⟨⟨_, h1⟩, ⟨_, h2⟩, h3, h4⟩ := h
  obtain ⟨⟨_, k1⟩, ⟨_, k2⟩, k3, k4⟩ := k
  exact ⟨⟨_, by rw [k1, h1]⟩, ⟨_, by rw [k2, h2]⟩, k3.trans h3, k4.trans h4⟩
theorem State.OutsideKept.norm (h : s.OutsideKept t) (a : Nat) : t.norm a = s.norm a := by
  obtain ⟨-, ⟨_, h2⟩, -⟩ := h
  unfold State.norm; rw [h2]
theorem State.OutsideKept.poisoned (h : s.OutsideKept t) (a : Nat) : t.poisoned a = s.poisoned a := by
  unfold State.poisoned; rw [h.norm, h.2.2.1]
theorem State.OutsideKept.noRowStep (h : s.OutsideKept t) (k : NoRowStep s) : NoRowStep t := by
  obtain ⟨⟨_, h1⟩, -⟩ := h
  unfold NoRowStep; rw [h1]; exact k
theorem State.OutsideKept.part (h : s.OutsideKept t) (p : BitVec 3) : t.part p = s.part p := by
  obtain ⟨-, ⟨_, h2⟩, -⟩ := h
  unfold State.part; rw [h2]
theorem State.OutsideKept.plain (h : s.OutsideKept t) (k : Plain s) : Plain t := fun p => by rw [h.part]; exact k p
theorem State.OutsideKept.memoryOnly (h : s.OutsideKept t) : MemoryOnly s t := by
  obtain ⟨⟨_, h1⟩, -⟩ := h
  unfold MemoryOnly; rw [h1]
  exact ⟨rfl, rfl, rfl, rfl, rfl, rfl, rfl, rfl⟩
theorem State.CacheNear.outsideKept (h : s.CacheNear t) : s.OutsideKept t := by
  obtain ⟨_, _, _, _, _, rfl⟩ := h
  exact ⟨⟨_, rfl⟩, ⟨_, rfl⟩, rfl, rfl⟩
theorem State.orderLines_outsideKept (s : State) (ag : Nat) (w : Bool) (pas : List Nat) : s.OutsideKept (s.orderLines ag w pas) := by
  obtain ⟨o, e⟩ := s.orderLines_eq ag w pas; rw [e]; exact ⟨⟨_, rfl⟩, ⟨_, rfl⟩, rfl, rfl⟩

/-- A unit's write of bytes that follow one another, to lines that are not poisoned. -/
theorem State.unitStore_wrote (pa : Nat) (bs : List Byte) (hi : s.Inv) (hn : NoRowStep s) (hp : Unpoisoned s pa bs.length) :
    Wrote s (s.unitStore (cellsAt pa bs)) pa bs ∧ s.OutsideKept (s.unitStore (cellsAt pa bs)) := by
  have hc := s.atMsc_near ((cellsAt pa bs).map (·.1))
  have hu : s.unitStore (cellsAt pa bs) = (s.atMsc ((cellsAt pa bs).map (·.1))).memPut (cellsAt pa bs) none false false := by
    unfold State.unitStore
    rw [State.storeCells_clean _ _ _ fun c hm => by rw [hc.outsideKept.poisoned]; exact unpoisoned_cells hp c hm,
      State.memWrite_noRowStep _ _ _ _ (hc.outsideKept.noRowStep hn)]
  rw [hu]
  exact ⟨Wrote.congr (State.memPut_wrote pa bs none false false (hc.wf hi)) hc.sameBytes.symm' (State.SameBytes.rfl' _),
    hc.outsideKept.trans ⟨⟨_, rfl⟩, ⟨_, rfl⟩, rfl, rfl⟩⟩

/-- A write in pieces is the write of all its bytes. -/
theorem pieces_wrote {w : Nat} (hw : 0 < w) :
    ∀ (n pa : Nat) (bs : List Byte) (s : State), bs.length < n → s.Inv → NoRowStep s → Unpoisoned s pa bs.length →
    Wrote s ((pieces w n pa bs).foldl (fun s x => s.unitStore (cellsAt x.1 x.2)) s) pa bs ∧
      s.OutsideKept ((pieces w n pa bs).foldl (fun s x => s.unitStore (cellsAt x.1 x.2)) s)
  | 0, _, _, _, h, _, _, _ => absurd h (Nat.not_lt_zero _)
  | n + 1, pa, [], s, _, _, _, _ => ⟨Wrote.nil s pa, ⟨_, rfl⟩, ⟨_, rfl⟩, rfl, rfl⟩
  | n + 1, pa, b :: bs, s, hlen, hi, hr, hp => by
    rw [pieces.eq_3 _ _ _ _ (List.cons_ne_nil b bs), List.foldl_cons]
    dsimp only
    have hk : 0 < w - pa % w := by have := Nat.mod_lt pa hw; omega
    generalize w - pa % w = k at hk ⊢
    have htake : ((b :: bs).take k).length ≤ (b :: bs).length := List.length_take_le' _ _
    obtain ⟨h1, hk1⟩ := State.unitStore_wrote pa ((b :: bs).take k) hi hr fun i hlt => hp i (by omega)
    have hi1 := (s.unitStore_serves (cellsAt pa ((b :: bs).take k))).2 hi
    have hdrop : ((b :: bs).drop k).length < n := by rw [List.length_drop]; rw [List.length_cons] at hlen ⊢; omega
    by_cases hle : k ≤ (b :: bs).length
    · have hlt : ((b :: bs).take k).length = k := List.length_take_of_le hle
      obtain ⟨h2, hk2⟩ := pieces_wrote hw n (pa + k) ((b :: bs).drop k) _ hdrop hi1 (hk1.noRowStep hr) fun i hlt' => by
        rw [hk1.poisoned, Nat.add_assoc]
        rw [List.length_drop] at hlt'
        exact hp (k + i) (by omega)
      refine ⟨?_, hk1.trans hk2⟩
      have h3 := Wrote.append h1 (by rw [hlt]; exact h2) hk1.norm
      rwa [List.take_append_drop] at h3
    · have hd : (b :: bs).drop k = [] := List.drop_eq_nil_of_le (by omega)
      have ht : (b :: bs).take k = b :: bs := List.take_of_length_le (by omega)
      obtain ⟨h2, hk2⟩ := pieces_wrote hw n (pa + k) ((b :: bs).drop k) _ hdrop hi1 (hk1.noRowStep hr) fun i hlt' => by
        rw [hd] at hlt'; exact absurd hlt' (Nat.not_lt_zero i)
      refine ⟨?_, hk1.trans hk2⟩
      rw [hd] at h2
      have h3 := Wrote.append h1 (b₂ := []) (by
        obtain ⟨h2a, -⟩ := h2
        exact ⟨fun a _ => h2a a fun i hi => absurd hi (Nat.not_lt_zero i), fun i hi => absurd hi (Nat.not_lt_zero i)⟩) hk1.norm
      rw [List.append_nil, ht] at h3
      rw [hd, ht]
      exact h3

/-- Out of recording and replay a write from outside leaves no record. -/
theorem State.recordDword_plain (h : Plain s) (pa : Nat) (b : List Byte) (d : Nat) : s.recordDword pa b d = s := by
  have hr : ∀ p t c k a d, s.record p t c k a d = s := fun p t c k a d => State.record_quiet t c k a d (by rw [h p]; decide)
  unfold State.recordDword
  split
  · next p _ =>
    dsimp only
    rw [hr, hr]
    exact cond_induction (P := fun t : State => t = s) (fun _ => rfl) fun _ => rfl
  · rfl
theorem State.recordDwords_plain (h : Plain s) (pa : Nat) (b : List Byte) (l : List Nat) :
    l.foldl (fun s d => s.recordDword (s.norm pa) b d) s = s := by
  induction l with
  | nil => rfl
  | cons d l ih => rw [List.foldl_cons, State.recordDword_plain h, ih]

theorem span_all {f : Nat → Bool} {pa n : Nat} (h : ∀ i < n, f (pa + i) = true) : (span pa n).all f = true := by
  rw [span, List.all_map, List.all_eq_true]
  exact fun i hi => h i (List.mem_range.mp hi)
theorem span_any_false {f : Nat → Bool} {pa n : Nat} (h : ∀ i < n, f (pa + i) = false) : (span pa n).any f = false := by
  rw [span, List.any_map, List.any_eq_false]
  exact fun i hi => by simpa using h i (List.mem_range.mp hi)

/-- A write from outside that reaches its bytes writes them (R321, R422). -/
theorem State.hostStore_wrote {w : Nat} (hw : 0 < w) (pa : Nat) (bs : List Byte) (hi : s.Inv) (hr : Reaches s pa bs.length)
    (hp : Unpoisoned s pa bs.length) (hn : NoRowStep s) (hpl : Plain s) : Wrote s (s.hostStore w pa bs) pa bs ∧ s.OutsideKept (s.hostStore w pa bs)
      := by
  have hg : (span pa bs.length).any s.guardRow = false := span_any_false fun i hlt => (hr i hlt).2.2.2.1
  have ho := s.orderLines_outsideKept 3 true (span pa bs.length)
  have hb := s.orderLines_sameBytes 3 true (span pa bs.length)
  obtain ⟨h1, h2⟩ := pieces_wrote hw (bs.length + 1) pa bs _ (Nat.lt_succ_self _) (hb.inv hi) (ho.noRowStep hn) fun i hlt => by
    rw [ho.poisoned]; exact hp i hlt
  have hst : s.hostStore w pa bs = (pieces w (bs.length + 1) pa bs).foldl (fun s x => s.unitStore (cellsAt x.1 x.2)) (s.orderLines 3 true (span pa
    bs.length)) := by
    unfold State.hostStore State.outsideWrite
    dsimp only
    rw [hg, cond_false, cond_false]
    exact State.recordDwords_plain ((ho.trans h2).plain hpl) _ _ _
  rw [hst]
  exact ⟨Wrote.congr h1 hb.symm' (State.SameBytes.rfl' _), ho.trans h2⟩

/-- Under Plain no agent waits for a recorded order, and no live input is held off. -/
theorem State.orderWaits_plain (h : Plain s) (ag pa : Nat) : s.orderWaits ag pa = false := by
  unfold State.orderWaits
  split
  · next p _ _ => rw [h p]; rfl
  · rfl
theorem State.heldOff_plain (h : Plain s) (pa : Nat) : s.heldOff pa = false := by
  unfold State.heldOff
  split
  · next p _ => rw [h p]; rfl
  · rfl
theorem State.outsideWaits_plain (h : Plain s) {pa n ag : Nat} {write : Bool}
    (hw : ∀ i < n, s.inFlip (pa + i) = false ∧ s.homeOff (pa + i) = false ∧ (write = true → s.leased (pa + i) = false)) :
    s.outsideWaits pa n write ag = false := by
  refine span_any_false fun i hi => ?_
  obtain ⟨hf, ho, hl⟩ := hw i hi
  rw [hf, ho, State.orderWaits_plain h]
  cases write with
  | false => rfl
  | true => rw [hl rfl]; rfl

/-- An access from outside to an address that neither HBM4E nor the host's memory holds faults (R320, R324). -/
theorem State.outside_fault {i : Instr} {pa n : Nat} {write : Bool} {f : State → State} {k : Nat} (hk : k < n) (h : s.hostSees (pa + k) = false) :
    s.outside i pa n write f = .fault .noSuchAddress := by
  have ha : (span pa n).all s.hostSees = false := by
    rw [span, List.all_map, List.all_eq_false]
    exact ⟨k, List.mem_range.mpr hk, by simp [h]⟩
  unfold State.outside
  rw [ha]; rfl
/-- One that need not wait takes place. -/
theorem State.outside_now {i : Instr} {pa n : Nat} {write : Bool} {f : State → State} (hs : ∀ k < n, s.hostSees (pa + k) = true)
    (hw : s.outsideWaits pa n write = false) : s.outside i pa n write f = .next (f s) := by
  unfold State.outside
  rw [span_all hs, hw]; rfl

theorem Reaches.waits {pa n : Nat} (h : Reaches s pa n) (hp : Plain s) : s.outsideWaits pa n true = false :=
  State.outsideWaits_plain hp fun i hi => by
    obtain ⟨-, hf, hl, -, ho⟩ := h i hi
    exact ⟨hf, ho, fun _ => hl⟩
theorem hostWrite_lands {pa : Nat} {bs : List Byte} (h : Reaches s pa bs.length) (hp : Plain s) :
    exec (.hostWrite pa bs) s = .next (s.hostStore 128 pa bs) := by
  rw [show exec (.hostWrite pa bs) s = execHostWrite pa bs s from rfl, execHostWrite, State.outside_now (fun k hk => (h k hk).1) (Reaches.waits h hp),
    State.heldOff_plain hp, cond_false]
theorem ethRdmaWriteIn_lands {pa : Nat} {bs : List Byte} (h : Reaches s pa bs.length) (hp : Plain s) : exec (.ethRdmaWriteIn pa bs) s =
    .next ((s.hostStore 32 pa bs).setPkg { (s.hostStore 32 pa bs).pkg with rdmaDone := (pa, bs.length) :: (s.hostStore 32 pa bs).pkg.rdmaDone }) := by
  rw [show exec (.ethRdmaWriteIn pa bs) s = execEthRdmaWriteIn pa bs s from rfl, execEthRdmaWriteIn,
    State.outside_now (fun k hk => (h k hk).1) (Reaches.waits h hp), State.heldOff_plain hp, cond_false]

end Sys2Proof.Machine

open Sys2Proof Sys2Proof.Machine Sys2Proof.Claims

/-- Settles O31: each write is one `memWrite`, or a list of pieces that are, and reads of its bytes give the last one written. -/
theorem outsideAndStoredBytesLand : Obligations.OutsideAndStoredBytesLand := by
  intro s hi
  refine ⟨fun st hst hp => ⟨?_, ?_⟩, fun pa bs hr hp hn hpl => ⟨?_, ?_⟩, fun pa bs i hlt hs => ⟨?_, ?_, ?_, ?_⟩⟩
  · exact ⟨_, rfl, State.flushStore_wrote hst hi hp, s.flushStore_store, s.flushStore_served.memoryOnly⟩
  · have hb : s.SameBytes (s.setMem { s.mem with leases := s.mem.leases.filter fun x => x.line != lineOf (s.norm st.pa) }) := ⟨rfl, rfl, rfl⟩
    generalize hv : s.setMem { s.mem with leases := s.mem.leases.filter fun x => x.line != lineOf (s.norm st.pa) } = v at hb
    have hvs : v.core.c.store = some st := by rw [← hv]; exact hst
    have hvp : Unpoisoned v st.pa st.bytes.length := by rw [← hv]; exact hp
    refine ⟨v.flushStore, ?_, Wrote.congr (State.flushStore_wrote hvs (hb.inv hi) hvp) (State.rmwFirst_sameBytes hb.symm' _) (State.SameBytes.rfl' _),
      v.flushStore_store, ?_, fun x hx => ?_⟩
    · rw [show exec (.leaseLapse (lineOf (s.norm st.pa))) s = execLeaseLapse (lineOf (s.norm st.pa)) s from rfl, execLeaseLapse, hv]
      rw [hvs]; dsimp only
      rw [hb.norm, beq_self_eq_true, cond_true]
    · have hm : MemoryOnly v v.flushStore := v.flushStore_served.memoryOnly
      rw [← hv] at hm ⊢
      exact hm
    · have hy := State.flushStore_leases hvs hvp hx
      rw [← hv] at hy
      exact bne_iff_ne.mp (List.mem_filter.mp hy).2
  · obtain ⟨h1, h2⟩ := State.hostStore_wrote (w := 128) (by decide) pa bs hi hr hp hn hpl
    exact ⟨_, hostWrite_lands hr hpl, h1, h2.memoryOnly⟩
  · obtain ⟨h1, h2⟩ := State.hostStore_wrote (w := 32) (by decide) pa bs hi hr hp hn hpl
    obtain ⟨x, hx⟩ := h2.2.1
    refine ⟨_, ethRdmaWriteIn_lands hr hpl, Wrote.congr h1 (State.SameBytes.rfl' _) ⟨rfl, rfl, rfl⟩, h2.memoryOnly, ?_⟩
    change (pa, bs.length) :: (s.hostStore 32 pa bs).pkg.rdmaDone = _
    rw [hx]
  · exact (execHostWrite.eq_def pa bs s).trans (State.outside_fault hlt hs)
  · exact (execEthRdmaWriteIn.eq_def pa bs s).trans (State.outside_fault hlt hs)
  · exact (execHostRead.eq_def pa bs.length s).trans (State.outside_fault hlt hs)
  · exact (execEthRdmaReadOut.eq_def pa bs.length s).trans (State.outside_fault hlt hs)
end

section
/-! The accesses of the host, of ports and of other packages at the home of their bytes (R308, R319, R321, R412); O32: their answers. -/

namespace Sys2Proof.Machine

open Sys2Proof.Claims

variable {s t u : State}

theorem MemoryOnly.trans (h : MemoryOnly s t) (k : MemoryOnly t u) : MemoryOnly s u := by
  obtain ⟨h1, h2, h3, h4, h5, h6, h7, h8⟩ := h
  obtain ⟨k1, k2, k3, k4, k5, k6, k7, k8⟩ := k
  exact ⟨k1.trans h1, k2.trans h2, k3.trans h3, k4.trans h4, k5.trans h5, k6.trans h6, k7.trans h7, k8.trans h8⟩

/-! ### Reads served at the memory-side cache -/

/-- Nothing but the memory-side cache and its activations differs. -/
def State.MscNear (s t : State) : Prop := ∃ mc h, t = { s with mem := { s.mem with msc := mc }, pkg := { s.pkg with hbm := h } }

theorem State.MscNear.rfl' (s : State) : s.MscNear s := ⟨_, _, rfl⟩
theorem State.MscNear.trans (h : s.MscNear t) (k : t.MscNear u) : s.MscNear u := by
  obtain ⟨_, _, rfl⟩ := h
  obtain ⟨_, _, rfl⟩ := k
  exact ⟨_, _, rfl⟩
theorem State.mscDrop_mscNear (s : State) (line : Nat) : s.MscNear (s.mscDrop line) := by
  unfold State.mscDrop
  split
  · exact cond_induction (P := s.MscNear) (fun _ => ⟨_, _, rfl⟩) fun _ => ⟨_, _, rfl⟩
  · exact .rfl' s
theorem State.mscPut_mscNear (s : State) (line : Nat) (dirty mru : Bool) : s.MscNear (s.mscPut line dirty mru) := by
  have put : ∀ u : State, s.MscNear u → s.MscNear (u.setMem { u.mem with msc := bif mru then ⟨line, dirty⟩ :: u.mem.msc else u.mem.msc ++ [⟨line,
    dirty⟩] }) :=
    fun u hu => hu.trans ⟨_, _, rfl⟩
  unfold State.mscPut
  apply put
  split
  · exact cond_induction (P := s.MscNear) (fun _ => s.mscDrop_mscNear _) fun _ => .rfl' s
  · exact .rfl' s
theorem State.mscAccess_mscNear (s : State) (line : Nat) (p : Option (BitVec 3)) (w : Bool) : s.MscNear (s.mscAccess line p w) := by
  unfold State.mscAccess
  split
  · exact ⟨_, _, rfl⟩
  · exact State.MscNear.trans ⟨_, _, rfl⟩ (State.mscPut_mscNear _ _ _ _)
theorem State.outsideAt_mscNear (s : State) (pa : Nat) : s.MscNear (s.outsideAt pa) :=
  cond_induction (P := s.MscNear) (fun _ => s.mscAccess_mscNear _ _ _) fun _ => .rfl' s
theorem State.outsideAts_mscNear (l : List Nat) : ∀ s : State, s.MscNear (l.foldl (fun s l => s.outsideAt (l * 128)) s) := by
  induction l with
  | nil => exact .rfl'
  | cons a l ih => exact fun s => (s.outsideAt_mscNear _).trans (ih _)

theorem span_any_eq_true {f : Nat → Bool} {pa n : Nat} : (span pa n).any f = true ↔ ∃ i < n, f (pa + i) = true := by
  rw [span, List.any_map, List.any_eq_true]
  exact ⟨fun ⟨i, hi, h⟩ => ⟨i, List.mem_range.mp hi, h⟩, fun ⟨i, hi, h⟩ => ⟨i, List.mem_range.mpr hi, h⟩⟩

/-- A read from outside that names no guard row: the bytes, and 1 for a poisoned line (R321, R330). -/
theorem State.outsideRead_answers {pa n : Nat} (hg : ∀ i < n, s.guardRow (pa + i) = false) :
    ∃ v code, s.outsideRead pa n = v ∧ v.mem.answers = ((List.range n).map (fun i => s.mscByte (pa + i)), code) :: s.mem.answers ∧
      v.mem.cells = s.mem.cells ∧ v.mem.stale = s.mem.stale ∧ v.core = s.core ∧ (code = 1 ↔ ∃ i < n, s.poisoned (pa + i) = true) ∧ code ≤ 1 := by
  obtain ⟨o, ho⟩ := s.orderLines_eq 3 false (span pa n)
  obtain ⟨mc, h, hm⟩ := State.outsideAts_mscNear (linesAt pa n) (s.orderLines 3 false (span pa n))
  have hr : s.outsideRead pa n = ((linesAt pa n).foldl (fun s l => s.outsideAt (l * 128)) (s.orderLines 3 false (span pa n))).answer
      ((span pa n).map s.mscByte) (bif (span pa n).any s.poisoned then 1 else 0) := by
    unfold State.outsideRead
    rw [span_any_false hg, cond_false]
  rw [hr, hm, ho, ← span_any_eq_true]
  have hb : (span pa n).map s.mscByte = (List.range n).map fun i => s.mscByte (pa + i) := by rw [span, List.map_map]; rfl
  refine ⟨_, bif (span pa n).any s.poisoned then 1 else 0, rfl, ?_, rfl, rfl, rfl, ?_, ?_⟩
  · rw [← hb]; rfl
  · cases (span pa n).any s.poisoned with
    | true => exact ⟨fun _ => rfl, fun _ => rfl⟩
    | false => exact ⟨fun h => absurd h (by decide), fun h => absurd h (by decide)⟩
  · cases (span pa n).any s.poisoned with
    | true => exact Nat.le_refl 1
    | false => exact Nat.zero_le 1
theorem State.outsideRead_guardRow {pa n : Nat} (hg : ∃ i < n, s.guardRow (pa + i) = true) : s.outsideRead pa n = s.answer [] 2 := by
  unfold State.outsideRead
  rw [span_any_eq_true.mpr hg, cond_true]

/-! ### An access at its home of another package's (R307, R308, R319) -/

/-- Nothing but the caches, leases and order of accesses differs, and C's line watch. -/
def State.AtHome (s t : State) : Prop :=
  ∃ le l2 mc st od h w, t = { s with
    mem := { s.mem with leases := le, l2 := l2, msc := mc, stale := st, order := od }, pkg := { s.pkg with hbm := h },
    core := { s.core with c := { s.core.c with watch := w } } }

theorem State.AtHome.rfl' (s : State) : s.AtHome s := ⟨_, _, _, _, _, _, _, rfl⟩
theorem State.AtHome.trans (h : s.AtHome t) (k : t.AtHome u) : s.AtHome u := by
  obtain ⟨_, _, _, _, _, _, _, rfl⟩ := h
  obtain ⟨_, _, _, _, _, _, _, rfl⟩ := k
  exact ⟨_, _, _, _, _, _, _, rfl⟩
theorem State.CacheNear.atHome (h : s.CacheNear t) : s.AtHome t := by
  obtain ⟨_, _, _, _, _, rfl⟩ := h
  exact ⟨_, _, _, _, _, _, _, rfl⟩
theorem State.CacheNear.leases (h : s.CacheNear t) : t.mem.leases = s.mem.leases := by
  obtain ⟨_, _, _, _, _, rfl⟩ := h
  rfl
theorem State.AtHome.sameBytes (h : s.AtHome t) : s.SameBytes t := by
  obtain ⟨_, _, _, _, _, _, _, rfl⟩ := h
  exact ⟨rfl, rfl, rfl⟩
theorem State.AtHome.memoryOnly (h : s.AtHome t) : MemoryOnly s t := by
  obtain ⟨_, _, _, _, _, _, _, rfl⟩ := h
  exact ⟨rfl, rfl, rfl, rfl, rfl, rfl, rfl, rfl⟩
theorem State.AtHome.tstamp (h : s.AtHome t) : t.tstamp = s.tstamp := by
  obtain ⟨_, _, _, _, _, _, _, rfl⟩ := h; rfl
theorem State.AtHome.writeWaits (h : s.AtHome t) (l : Nat) : t.writeWaits l = s.writeWaits l := by
  obtain ⟨_, _, _, _, _, _, _, rfl⟩ := h; rfl
theorem State.AtHome.hostBias (h : s.AtHome t) (a : Nat) : t.hostBias a = s.hostBias a := by
  obtain ⟨_, _, _, _, _, _, _, rfl⟩ := h; rfl
theorem State.AtHome.poisoned (h : s.AtHome t) (a : Nat) : t.poisoned a = s.poisoned a := by
  obtain ⟨_, _, _, _, _, _, _, rfl⟩ := h; rfl
theorem State.AtHome.answers (h : s.AtHome t) : t.mem.answers = s.mem.answers := by
  obtain ⟨_, _, _, _, _, _, _, rfl⟩ := h; rfl
theorem State.AtHome.answered (h : s.AtHome t) : t.pkg.answered = s.pkg.answered := by
  obtain ⟨_, _, _, _, _, _, _, rfl⟩ := h; rfl
theorem State.AtHome.plain (h : s.AtHome t) (k : Plain s) : Plain t := by
  obtain ⟨_, _, _, _, _, _, _, rfl⟩ := h; exact k

theorem State.l2Evict_near (s : State) (x : L2Line) : s.CacheNear (s.l2Evict x false) := by
  unfold State.l2Evict
  rw [Bool.and_false]
  exact s.l2Out_near x
theorem State.l2Evicts_near (l : List L2Line) : ∀ s : State, s.CacheNear (l.foldl (fun s x => s.l2Evict x false) s) := by
  induction l with
  | nil => exact .rfl'
  | cons x l ih => exact fun s => (s.l2Evict_near x).trans (ih _)
theorem State.l2Alloc_near (s : State) (line : Nat) (p : Option (BitVec 3)) : s.CacheNear (s.l2Alloc line p false) :=
  cond_induction (P := s.CacheNear) (fun _ => .rfl' s) fun _ => (State.l2Evicts_near _ s).trans ⟨_, _, _, _, _, rfl⟩
/-- An access that is not this core's counts nothing: it touches the caches alone. -/
theorem State.l2Access_near (s : State) (pa : Nat) (p fill : Option (BitVec 3)) : s.CacheNear (s.l2Access pa p fill false) := by
  unfold State.l2Access
  refine cond_induction (P := s.CacheNear) (fun _ => .rfl' s) fun _ => cond_induction (P := s.CacheNear) (fun _ => s.mscAccess_near _ _ _) fun _ => ?_
  split
  · exact ⟨_, _, _, _, _, rfl⟩
  · exact (s.mscAccess_near _ _ _).trans (State.l2Alloc_near _ _ _)

/-- What a request of another package does at one line: its access, and the lease of a read in device bias. -/
def State.homeLine (reads : Bool) (s : State) (l : Nat) : State :=
  let s := (s.orderAt 4 (!reads) (l * 128)).l2Access (l * 128) none (s.ownerOf (l * 128)) false
  bif reads && !s.hostBias (l * 128) then s.lease l false else s
theorem State.remoteAt_eq (s : State) (pa n : Nat) (reads : Bool) : s.remoteAt pa n reads = (linesAt (s.norm pa) n).foldl (State.homeLine reads) s :=
  rfl

/-- The line's access, before any lease on it. -/
theorem State.homeAccess_atHome (s : State) (w : Bool) (l : Nat) (p fill : Option (BitVec 3)) :
    s.AtHome ((s.orderAt 4 w (l * 128)).l2Access (l * 128) p fill false) := by
  have ho : s.AtHome (s.orderAt 4 w (l * 128)) := by obtain ⟨o, e⟩ := s.orderAt_eq 4 w (l * 128); rw [e]; exact ⟨_, _, _, _, _, _, _, rfl⟩
  exact ho.trans (State.l2Access_near _ _ _ _).atHome
theorem State.homeAccess_leases (s : State) (w : Bool) (l : Nat) (p fill : Option (BitVec 3)) :
    ((s.orderAt 4 w (l * 128)).l2Access (l * 128) p fill false).mem.leases = s.mem.leases := by
  rw [(State.l2Access_near _ _ _ _).leases]
  obtain ⟨o, e⟩ := s.orderAt_eq 4 w (l * 128); rw [e]
theorem State.lease_atHome (s : State) (l : Nat) (own : Bool) : s.AtHome (s.lease l own) :=
  cond_induction (P := s.AtHome) (fun _ => .rfl' s) fun _ => ⟨_, _, _, _, _, _, _, rfl⟩
theorem State.homeLine_atHome (reads : Bool) (s : State) (l : Nat) : s.AtHome (State.homeLine reads s l) :=
  cond_induction (P := s.AtHome) (fun _ => (s.homeAccess_atHome _ l _ _).trans (State.lease_atHome _ _ _)) fun _ => s.homeAccess_atHome _ l _ _
theorem State.homeLines_atHome (reads : Bool) (ls : List Nat) : ∀ s : State, s.AtHome (ls.foldl (State.homeLine reads) s) := by
  induction ls with
  | nil => exact .rfl'
  | cons l ls ih => exact fun s => (State.homeLine_atHome reads s l).trans (ih _)

/-- A lease granted now on a line. -/
def State.LeasedNow (s : State) (l : Nat) : Prop := ∃ x ∈ s.mem.leases, x.line = l ∧ x.until_ = s.tstamp + 512

theorem State.LeasedNow.lease {l : Nat} (h : s.LeasedNow l) (k : Nat) (own : Bool) : (s.lease k own).LeasedNow l := by
  obtain ⟨x, hx, hl, hu⟩ := h
  refine cond_induction (P := fun t : State => t.LeasedNow l) (fun _ => ⟨x, hx, hl, hu⟩) fun _ => ?_
  cases hc : x.line == k && x.own == own with
  | true => exact ⟨_, List.mem_cons_self, ((beq_iff_eq.mp (Bool.and_eq_true_iff.mp hc).1).symm.trans hl), rfl⟩
  | false => exact ⟨x, List.mem_cons_of_mem _ (List.mem_filter.mpr ⟨hx, by rw [hc]; rfl⟩), hl, hu⟩
theorem State.leasedNow_lease {l : Nat} (own : Bool) (h : s.writeWaits l = false) : (s.lease l own).LeasedNow l := by
  unfold State.lease
  rw [h]
  exact ⟨_, List.mem_cons_self, rfl, rfl⟩
theorem State.LeasedNow.congr {l : Nat} (h : s.LeasedNow l) (he : t.mem.leases = s.mem.leases) (ht : t.tstamp = s.tstamp) : t.LeasedNow l := by
  obtain ⟨x, hx, hl, hu⟩ := h
  exact ⟨x, by rw [he]; exact hx, hl, by rw [ht]; exact hu⟩
theorem State.LeasedNow.homeLine {l : Nat} (h : s.LeasedNow l) (reads : Bool) (k : Nat) : (State.homeLine reads s k).LeasedNow l := by
  have ha := h.congr (s.homeAccess_leases (!reads) k none (s.ownerOf (k * 128))) (s.homeAccess_atHome (!reads) k _ _).tstamp
  exact cond_induction (P := fun t : State => t.LeasedNow l) (fun _ => ha.lease k false) fun _ => ha
theorem State.homeLine_leases {l : Nat} (hb : s.hostBias (l * 128) = false) (hw : s.writeWaits l = false) :
    (State.homeLine true s l).LeasedNow l := by
  have ha := s.homeAccess_atHome (!true) l none (s.ownerOf (l * 128))
  unfold State.homeLine
  dsimp only
  rw [ha.hostBias, hb]
  exact State.leasedNow_lease false (by rw [ha.writeWaits]; exact hw)
theorem State.homeLines_leases (ls : List Nat) : ∀ {s : State} {l : Nat}, l ∈ ls → s.hostBias (l * 128) = false → s.writeWaits l = false →
    (ls.foldl (State.homeLine true) s).LeasedNow l := by
  have keep : ∀ (ls : List Nat) {s : State} {l : Nat}, s.LeasedNow l → (ls.foldl (State.homeLine true) s).LeasedNow l := by
    intro ls
    induction ls with
    | nil => exact fun h => h
    | cons k ls ih => exact fun h => ih (h.homeLine true k)
  induction ls with
  | nil => exact fun h => absurd h List.not_mem_nil
  | cons k ls ih =>
    intro s l hl hb hw
    by_cases hk : l = k
    · subst hk
      exact keep ls (State.homeLine_leases hb hw)
    · have ha := State.homeLine_atHome true s k
      exact ih ((List.mem_cons.mp hl).resolve_left hk) (by rw [ha.hostBias]; exact hb) (by rw [ha.writeWaits]; exact hw)

/-! ### HBM4E addresses are contiguous (R324) -/

theorem State.region_hbm {a : Nat} (h : s.region a = .hbm) : s.norm a ≤ 0x00bfffffffff := by
  unfold State.region at h
  dsimp only at h
  split at h
  · exact Region.noConfusion h
  · unfold localRegion at h
    split at h
    · assumption
    · split at h
      · exact Region.noConfusion h
      · split at h <;> exact Region.noConfusion h
theorem State.norm_succ {a : Nat} (h0 : s.norm a ≤ 0x00bfffffffff) (h1 : s.norm (a + 1) ≤ 0x00bfffffffff) : s.norm (a + 1) = s.norm a + 1 := by
  have hid := s.pkg.pkgId.isLt
  revert h0 h1
  unfold State.norm bits
  generalize s.pkg.pkgId.toNat = k at hid ⊢
  norm_num only
  split
  · split <;> omega
  · split <;> omega
/-- The bytes that follow one in HBM4E are those of the addresses that follow. -/
theorem State.norm_add {pa : Nat} : ∀ i, (∀ j ≤ i, s.region (pa + j) = .hbm) → s.norm (pa + i) = s.norm pa + i
  | 0, _ => rfl
  | i + 1, h => by
    have ih := State.norm_add (pa := pa) i fun j hj => h j (Nat.le_succ_of_le hj)
    have h0 := State.region_hbm (h i (Nat.le_succ i))
    have h1 := State.region_hbm (h (i + 1) (Nat.le_refl _))
    rw [← Nat.add_assoc] at h1 ⊢
    rw [← Nat.add_assoc, ← ih]
    exact State.norm_succ h0 h1
/-- The line of an HBM4E byte as an address. -/
theorem State.norm_line {a : Nat} (h : s.region a = .hbm) : s.norm (lineOf (s.norm a) * 128) = lineOf (s.norm a) * 128 := by
  have h0 := State.region_hbm h
  generalize s.norm a = b at h0
  unfold State.norm bits lineOf
  rw [if_neg]
  omega
theorem State.hostBias_line {a : Nat} (h : s.region a = .hbm) : s.hostBias (lineOf (s.norm a) * 128) = s.hostBias a := by
  unfold State.hostBias
  rw [State.norm_line h]
  congr 1
  unfold lineOf
  omega

/-! ### A request of another package's at its home (R319, R412) -/

theorem State.recordArrival_plain (h : Plain s) (pa n : Nat) : s.recordArrival pa n = s := by
  unfold State.recordArrival
  generalize dwords (s.norm pa) n = l
  induction l with
  | nil => rfl
  | cons d l ih =>
    rw [List.foldl_cons]
    split
    · next p _ => rw [State.record_quiet _ _ _ _ _ (by rw [h p]; decide)]; exact ih
    · exact ih

/-- A request whose tag is answered is answered again from its record. -/
theorem remoteRequest_again (pkg tag pa n : Nat) (op : Option (AmoOp × BitVec 2)) (wr : Option (List Byte)) (a : Answered)
    (h : (s.pkg.answered.find? fun a => a.pkg == BitVec.ofNat 8 pkg && a.tag == tag) = some a) :
    exec (.remoteRequestAtHome pkg tag pa op wr n) s = .next (s.answer a.data a.code) := by
  rw [show exec (.remoteRequestAtHome pkg tag pa op wr n) s = execRemoteRequestAtHome pkg tag pa op wr n s from rfl]
  unfold execRemoteRequestAtHome
  dsimp only
  rw [h]
theorem answered_none {who : BitVec 8} {tag : Nat} (h : ∀ a ∈ s.pkg.answered, a.pkg = who → a.tag ≠ tag) :
    (s.pkg.answered.find? fun a => a.pkg == who && a.tag == tag) = none :=
  List.find?_eq_none.mpr fun a ha hc => by
    obtain ⟨h1, h2⟩ := Bool.and_eq_true_iff.mp hc
    exact h a ha (beq_iff_eq.mp h1) (beq_iff_eq.mp h2)
/-- A new request that names no HBM4E byte here, or a guard row, is answered with an error. -/
theorem remoteRequest_refused (pkg tag pa n : Nat) (hn : ∀ a ∈ s.pkg.answered, a.pkg = BitVec.ofNat 8 pkg → a.tag ≠ tag)
    (h : ∃ i < n, s.region (pa + i) ≠ .hbm ∨ s.guardRow (pa + i) = true) :
    exec (.remoteRequestAtHome pkg tag pa none none n) s = .next (s.reply (BitVec.ofNat 8 pkg) tag [] 2) := by
  have ha : (span pa n).all (fun a => decide (s.region a = .hbm) && !s.guardRow a) = false := by
    obtain ⟨i, hi, hor⟩ := h
    rw [span, List.all_map, List.all_eq_false]
    refine ⟨i, List.mem_range.mpr hi, fun hc => ?_⟩
    obtain ⟨h1, h2⟩ := Bool.and_eq_true_iff.mp hc
    exact hor.elim (fun k => k (of_decide_eq_true h1)) fun k => by rw [k] at h2; exact Bool.noConfusion h2
  rw [show exec (.remoteRequestAtHome pkg tag pa none none n) s = execRemoteRequestAtHome pkg tag pa none none n s from rfl]
  unfold execRemoteRequestAtHome
  dsimp only
  rw [answered_none hn]
  dsimp only
  rw [ha, Bool.not_false, Bool.or_true, cond_true]
/-- A new request that need not wait is applied, recorded and answered. -/
theorem remoteRequest_applies (pkg tag pa n : Nat) (wr : Option (List Byte)) (hd : s.pkg.domEn = true) (hp : Plain s)
    (hlen : ∀ b, wr = some b → b.length = n)
    (hn : ∀ a ∈ s.pkg.answered, a.pkg = BitVec.ofNat 8 pkg → a.tag ≠ tag) (hv : s.vcStopped 1 pa = false)
    (h : ∀ i < n, s.region (pa + i) = .hbm ∧ s.guardRow (pa + i) = false ∧ s.inFlip (pa + i) = false ∧ s.poisoned (pa + i) = false ∧ s.homeOff (pa +
      i) = false)
    (hw : ∀ i < n, wr.isSome = true → s.leased (pa + i) = false) (hq : Plain (s.remoteApply pa none wr n).1) :
    exec (.remoteRequestAtHome pkg tag pa none wr n) s =
      .next ((s.remoteApply pa none wr n).1.reply (BitVec.ofNat 8 pkg) tag (s.remoteApply pa none wr n).2 0) := by
  have ha : (span pa n).all (fun a => decide (s.region a = .hbm) && !s.guardRow a) = true := span_all fun i hi => by
    obtain ⟨h1, h2, -⟩ := h i hi
    rw [h1, h2]; rfl
  have hx : (span pa n).any s.poisoned = false := span_any_false fun i hi => (h i hi).2.2.2.1
  have ho : s.outsideWaits pa n wr.isSome 4 = false := State.outsideWaits_plain hp fun i hi => by
    obtain ⟨-, -, h1, -, h2⟩ := h i hi
    exact ⟨h1, h2, hw i hi⟩
  have hr : (bif wr.isSome then (s.remoteApply pa none wr n).1.recordArrival pa n else (s.remoteApply pa none wr n).1) = (s.remoteApply pa none wr
    n).1 := by
    rw [State.recordArrival_plain hq]; cases wr.isSome <;> rfl
  rw [show exec (.remoteRequestAtHome pkg tag pa none wr n) s = execRemoteRequestAtHome pkg tag pa none wr n s from rfl]
  unfold execRemoteRequestAtHome
  dsimp only
  rw [answered_none hn]
  dsimp only
  cases wr with
  | none =>
    dsimp only
    rw [show remoteWrites none none = (none : Option (List Byte)).isSome from rfl, ha, hd, ho, hv, hx, State.heldOff_plain hp]
    rfl
  | some b =>
    obtain rfl := hlen b rfl
    dsimp only
    rw [show remoteWrites none (some b) = (some b).isSome from rfl, ha, hd, ho, hv, hx, State.heldOff_plain hp, hr]
    rfl

end Sys2Proof.Machine

open Sys2Proof Sys2Proof.Machine Sys2Proof.Claims

/-- Settles O32: reads are served by `outsideRead`, whose accesses touch the memory-side cache alone; a request of another package is applied by
`remoteApply`, whose line accesses touch caches and leases alone. -/
theorem outsideReadsAreAnswered : Obligations.OutsideReadsAreAnswered := by
  intro s
  refine ⟨fun pa n hp hs e he => ?_, fun pkg tag pa n hd => ⟨fun hn => ⟨fun hp hv h => ⟨?_, fun bs hb hi hl => ?_⟩, fun h => remoteRequest_refused
    pkg tag pa n hn h⟩,
    fun op wr a h => remoteRequest_again pkg tag pa n op wr a h⟩⟩
  · have hw : s.outsideWaits pa n false = false := State.outsideWaits_plain hp fun i hi => ⟨(hs i hi).2.1, (hs i hi).2.2, fun h => Bool.noConfusion h⟩
    have hx : exec e s = .next (s.outsideRead pa n) := by
      rcases List.mem_cons.mp he with rfl | he
      · exact (execHostRead.eq_def pa n s).trans (State.outside_now (fun k hk => (hs k hk).1) hw)
      · rw [List.mem_singleton.mp he]
        exact (execEthRdmaReadOut.eq_def pa n s).trans (State.outside_now (fun k hk => (hs k hk).1) hw)
    rw [hx]
    refine ⟨fun hg => ?_, fun hg => by rw [State.outsideRead_guardRow hg]; rfl⟩
    obtain ⟨v, code, hv, h⟩ := State.outsideRead_answers hg
    exact ⟨v, code, by rw [hv], h⟩
  · have hh := State.homeLines_atHome true (linesAt (s.norm pa) n) s
    have hread : s.remoteApply pa none none n = ((linesAt (s.norm pa) n).foldl (State.homeLine true) s,
        (span pa n).map ((linesAt (s.norm pa) n).foldl (State.homeLine true) s).rd8) := rfl
    have hx := remoteRequest_applies pkg tag pa n none hd hp (fun _ h => nomatch h) hn hv h (fun _ _ h => nomatch h) (hh.plain hp)
    have hgot : (span pa n).map ((linesAt (s.norm pa) n).foldl (State.homeLine true) s).rd8 = (List.range n).map fun i => s.rd8 (pa + i) := by
      rw [span, List.map_map]
      exact List.map_congr_left fun i _ => hh.sameBytes.rd8 _
    rw [hread, hgot] at hx
    have hlease : ∀ i < n, s.hostBias (pa + i) = false → s.writeWaits (lineOf (s.norm (pa + i))) = false →
        ((linesAt (s.norm pa) n).foldl (State.homeLine true) s).LeasedNow (lineOf (s.norm (pa + i))) := by
      intro i hi hb hw
      refine State.homeLines_leases _ ?_ ((State.hostBias_line (h i hi).1).trans hb) hw
      rw [State.norm_add i fun j hj => (h j (Nat.lt_of_le_of_lt hj hi)).1]
      exact List.mem_eraseDups.mpr (List.mem_map.mpr ⟨_, List.mem_map.mpr ⟨i, List.mem_range.mpr hi, rfl⟩, rfl⟩)
    generalize (linesAt (s.norm pa) n).foldl (State.homeLine true) s = v at *
    refine ⟨_, hx, hh.sameBytes.1, hh.memoryOnly, ?_, ?_, fun i hi hb hw => ?_⟩
    · exact congrArg _ hh.answers
    · exact congr (congrArg _ (by rw [hh.tstamp])) hh.answered
    · obtain ⟨x, hx, hl, hu⟩ := hlease i hi hb hw
      exact ⟨x, hx, hl, hu.trans (by rw [hh.tstamp])⟩
  · subst hb
    have hh := State.homeLines_atHome false (linesAt (s.norm pa) bs.length) s
    have hwr : s.remoteApply pa none (some bs) bs.length = (((linesAt (s.norm pa) bs.length).foldl (State.homeLine false) s).store pa bs none true,
      []) := rfl
    have hpo : Unpoisoned ((linesAt (s.norm pa) bs.length).foldl (State.homeLine false) s) pa bs.length := fun i hi => by
      rw [hh.poisoned]; exact (h i hi).2.2.2.1
    generalize (linesAt (s.norm pa) bs.length).foldl (State.homeLine false) s = v at *
    have hst := State.store_wrote pa bs none true (hh.sameBytes.inv hi) hpo
    have hclean := State.store_clean pa bs none true hpo
    obtain ⟨m, w, g, e⟩ := State.memWrite_near v (cellsAt pa bs) none true false
    rw [← hclean] at e
    have hq : Plain (v.store pa bs none true) := by rw [e]; exact hh.plain hp
    have hx := remoteRequest_applies pkg tag pa bs.length (some bs) hd hp (fun b hb => by cases hb; rfl) hn hv h (fun i hlt _ => hl i hlt)
      (by rw [hwr]; exact hq)
    refine ⟨_, hx, ?_, ?_, ?_⟩
    · rw [hwr]
      exact Wrote.congr hst (State.rmwFirst_sameBytes hh.sameBytes.symm' _) ⟨rfl, rfl, rfl⟩
    · rw [hwr]
      exact MemoryOnly.trans hh.memoryOnly (v.store_serves pa bs none true).1.memoryOnly
    · rw [hwr]
      change (⟨_, _, _, _, (v.store pa bs none true).tstamp⟩ : Answered) :: (v.store pa bs none true).pkg.answered = _
      rw [e]
      exact congr (congrArg _ (by rw [← hh.tstamp]; rfl)) hh.answered
end

section
/-! The switch's reductions and barrier counters (R294, R415 to R419); O45: they reach their home, advance, move or fail. -/

namespace Sys2Proof.Machine

open Sys2Proof.Claims

variable {s t u : State}

/-! ### Counters found by what they name -/

theorem find?_getD_key {α : Type} {p : α → Bool} (d : α) (hd : p d = true) (l : List α) : p ((l.find? p).getD d) = true := by
  cases h : l.find? p with
  | none => exact hd
  | some a => exact List.find?_some h
theorem State.fab_group (s : State) (g : BitVec 12) : (s.fab g).group = g :=
  beq_iff_eq.mp (find?_getD_key (p := fun f : FabCtr => f.group == g) _ (beq_self_eq_true g) s.pkg.fabs)
theorem State.barCtr_key (s : State) (l : BitVec 2) (g : BitVec 12) : (s.barCtr l g).level = l ∧ (s.barCtr l g).group = g := by
  have h := find?_getD_key (p := fun b : BarCtr => b.level == l && b.group == g) ⟨l, g, 0, 0⟩ (by simp) s.pkg.bars
  exact ⟨beq_iff_eq.mp (Bool.and_eq_true_iff.mp h).1, beq_iff_eq.mp (Bool.and_eq_true_iff.mp h).2⟩
theorem State.setFab_fab {f : FabCtr} {g : BitVec 12} (h : f.group = g) : (s.setFab f).fab g = f := by
  unfold State.fab State.setFab
  rw [State.setPkg, List.find?_cons_of_pos (by simp [h]), Option.getD_some]
theorem State.setBar_barCtr {b : BarCtr} {l : BitVec 2} {g : BitVec 12} (hl : b.level = l) (hg : b.group = g) : (s.setBar b).barCtr l g = b := by
  unfold State.barCtr State.setBar
  rw [State.setPkg, List.find?_cons_of_pos (by simp [hl, hg]), Option.getD_some]

/-! ### Reductions (R415, R416) -/

theorem length_leBytes : ∀ n v : Nat, (leBytes n v).length = n
  | 0, _ => rfl
  | n + 1, v => congrArg (· + 1) (length_leBytes n (v / 256))
/-- A merged reduction that nothing holds is applied to what stands at its home. -/
theorem reductionHomeApply_wrote {i : Nat} {c : Contribution} (hc : s.pkg.red[i]? = some c) (hsent : c.sent = true) (hp : Plain s)
    (hf : s.inFlip c.pa = false) (hl : s.leased c.pa = false) (hu : Unpoisoned s c.pa (fmtSize c.fmt.toNat)) (hi : s.Inv) :
    ∃ t, exec (.reductionHomeApply i) s = .next t ∧ t.pkg.red = s.pkg.red.eraseIdx i ∧
      Wrote (ahead s c.pa (fmtSize c.fmt.toNat)) t c.pa (leBytes (fmtSize c.fmt.toNat) (redApply c.op c.fmt.toNat
        ((ahead s c.pa (fmtSize c.fmt.toNat)).rdNat c.pa (fmtSize c.fmt.toNat)) (c.bits.toNat % 2 ^ (8 * fmtSize c.fmt.toNat))).bits) := by
  rw [show exec (.reductionHomeApply i) s = execReductionHomeApply i s from rfl, execReductionHomeApply]
  rw [hc]
  dsimp only
  rw [hsent, State.heldOff_plain hp, hf, hl]
  generalize hb : leBytes (fmtSize c.fmt.toNat) (redApply c.op c.fmt.toNat ((s.rmwFirst (span c.pa (fmtSize c.fmt.toNat))).rdNat c.pa (fmtSize
    c.fmt.toNat))
    (c.bits.toNat % 2 ^ (8 * fmtSize c.fmt.toNat))).bits = bs
  have hlen : bs.length = fmtSize c.fmt.toNat := by rw [← hb]; exact length_leBytes _ _
  rw [show (ahead s c.pa (fmtSize c.fmt.toNat)) = s.rmwFirst (span c.pa (fmtSize c.fmt.toNat)) from rfl, hb]
  rw [← hlen] at hu ⊢
  have hv : s.SameBytes (s.setPkg { s.pkg with red := s.pkg.red.eraseIdx i }) := ⟨rfl, rfl, rfl⟩
  have hvu : Unpoisoned (s.setPkg { s.pkg with red := s.pkg.red.eraseIdx i }) c.pa bs.length := hu
  have hvp : Plain (s.setPkg { s.pkg with red := s.pkg.red.eraseIdx i }) := hp
  have hred : (s.setPkg { s.pkg with red := s.pkg.red.eraseIdx i }).pkg.red = s.pkg.red.eraseIdx i := rfl
  change ∃ t, Host.Outcome.next (((s.setPkg { s.pkg with red := s.pkg.red.eraseIdx i }).store c.pa bs none true).recordArrival c.pa bs.length) =
    .next t ∧ _
  generalize s.setPkg { s.pkg with red := s.pkg.red.eraseIdx i } = v at hv hvu hvp hred ⊢
  have hw := State.store_wrote c.pa bs none true (hv.inv hi) hvu
  obtain ⟨m, w, g, e⟩ := State.memWrite_near v (cellsAt c.pa bs) none true false
  rw [← State.store_clean c.pa bs none true hvu] at e
  rw [State.recordArrival_plain (by rw [e]; exact hvp)]
  exact ⟨_, rfl, by rw [e]; exact hred, Wrote.congr hw (State.rmwFirst_sameBytes hv.symm' _) (State.SameBytes.rfl' _)⟩

theorem State.async_sup (bit : Nat) (tval : Word64) (h : s.sup = true) : s.async bit tval = s.setPend bit tval := by
  unfold State.async State.asyncNow
  rw [h]; rfl
theorem State.async_now (bit : Nat) (tval : Word64) (h : s.asyncNow = true) : s.async bit tval = s.trapNow .c (pendCause bit) 0 tval := by
  unfold State.async
  rw [h]; rfl

/-- Settles the reductions of O45. -/
theorem reductionsReachTheirHome : ReductionsReachTheirHome := by
  intro s i c hc
  refine ⟨⟨_, rfl, ?_, List.length_modify _ _ _, rfl, rfl⟩, fun hsent hp hf hl hu hi => reductionHomeApply_wrote hc hsent hp hf hl hu hi, fun hown hs
    hq => ?_, fun hown => ?_⟩
  · change (s.pkg.red.modify i fun c => { c with sent := true })[i]? = _
    rw [List.getElem?_modify_eq, hc]; rfl
  · rw [show exec (.contributionLost i) s = execContributionLost i s from rfl, execContributionLost, hc]
    dsimp only
    rw [show (c.own == 0) = false from beq_eq_false_iff_ne.mpr hown, cond_false]
    generalize hv : s.setPkg { s.pkg with red := s.pkg.red.eraseIdx i } = v
    have hq' : ∀ p, (v.part p).fqEn = false := fun p => by rw [← hv]; exact (hq p).1
    rw [State.post_disabled _ (hq' _), State.async_sup 5 _ (by rw [← hv]; exact hs)]
    exact ⟨_, rfl, by rw [← hv]; rfl, by rw [← hv]; rfl⟩
  · change Host.Outcome.next (match s.pkg.red[i]? with | some c => _ | none => s) = _
    rw [hc]
    dsimp only
    rw [hown]; rfl

/-! ### Fabric barriers (R294, R417 to R419) -/

theorem State.fabSend_eq (g : BitVec 12) (h : s.fabStopped s.pkg.pkgId g = false) : s.fabSend g = s.fabArrive s.pkg.pkgId g := by
  rw [State.fabSend, h]; rfl
/-- An arrival that nothing holds is made at the counter, whoever's it is. -/
theorem fabricBarrierArrival_made {pkg : BitVec 8} {g : BitVec 12} (h : s.fabStopped pkg g = false) :
    exec (.fabricBarrierArrival pkg g) s = .next (s.fabArrive pkg g) := by
  change Host.Outcome.next (bif pkg == s.pkg.pkgId then s.fabSend g else s.fabArrive pkg g) = _
  cases hp : pkg == s.pkg.pkgId with
  | true => rw [eq_of_beq hp] at h ⊢; rw [State.fabSend_eq g h]; rfl
  | false => rfl
theorem State.fabArrive_ignored {pkg : BitVec 8} {g : BitVec 12}
    (h : (s.fab g).fail = true ∨ pkg ∈ (s.fab g).who ∨ (pkg = s.pkg.pkgId ∧ (s.fab g).due = true)) : s.fabArrive pkg g = s := by
  have hc : ((s.fab g).fail || (s.fab g).who.contains pkg || (pkg == s.pkg.pkgId && (s.fab g).due)) = true := by
    rcases h with h | h | ⟨rfl, h⟩
    · rw [h]; rfl
    · rw [List.contains_iff_mem.mpr h, Bool.or_true]; rfl
    · rw [h, beq_self_eq_true, Bool.and_true, Bool.or_true]
  unfold State.fabArrive
  dsimp only
  rw [hc]; rfl
theorem State.fabArrive_new {pkg : BitVec 8} {g : BitVec 12} (hf : (s.fab g).fail = false) (hw : pkg ∉ (s.fab g).who)
    (hd : pkg = s.pkg.pkgId → (s.fab g).due = false) :
    s.fabArrive pkg g = bif (s.fab g).members == 0 then s.setFab { s.fab g with fail := true }
      else bif (s.fab g).count + 1 == (s.fab g).members then
        s.setFab { s.fab g with
          count := 0, phase := (s.fab g).phase + 1, who := [], due := (s.fab g).due || (pkg :: (s.fab g).who).contains s.pkg.pkgId }
      else s.setFab { s.fab g with count := (s.fab g).count + 1, who := pkg :: (s.fab g).who } := by
  have hc : ((s.fab g).fail || (s.fab g).who.contains pkg || (pkg == s.pkg.pkgId && (s.fab g).due)) = false := by
    have h1 : (s.fab g).who.contains pkg = false := by rw [← Bool.not_eq_true, List.contains_iff_mem]; exact hw
    have h2 : (pkg == s.pkg.pkgId && (s.fab g).due) = false := by
      cases hp : pkg == s.pkg.pkgId with
      | true => rw [hd (eq_of_beq hp)]; rfl
      | false => rfl
    rw [hf, h1, h2]; rfl
  unfold State.fabArrive
  dsimp only
  rw [hc]; rfl

theorem State.sleepsAt3_of {g : BitVec 12} (h : Asleep3 s g) : s.sleepsAt3 g = true := by
  obtain ⟨hr, hg⟩ := h
  unfold State.sleepsAt3
  rw [hg, beq_self_eq_true, Bool.and_true]
  rcases hr with hr | hr | ⟨xd, hr⟩ <;> (rw [hr]; rfl)
theorem State.endMwait_asleep {g : BitVec 12} (k : Nat) (h : Asleep3 s g) : s.endMwait k = s := by
  obtain ⟨hr, -⟩ := h
  unfold State.endMwait
  rcases hr with hr | hr | ⟨xd, hr⟩ <;> rw [hr]

/-- The planes that a counter may move to, in the order that it looks at them (R419). -/
theorem mem_otherPlanes {g n : Nat} (hn : n < 18) (hg : n ≠ g % 18) : n ∈ (List.range 17).map fun j => (g + j + 1) % 18 :=
  List.mem_map.mpr ⟨(n + 17 - g % 18) % 18, List.mem_range.mpr (by omega), by omega⟩
theorem otherPlanes_lt {g n : Nat} (h : n ∈ (List.range 17).map fun j => (g + j + 1) % 18) : n < 18 := by
  obtain ⟨j, -, rfl⟩ := List.mem_map.mp h
  exact Nat.mod_lt _ (by decide)
/-- With a plane left that carries virtual channel 4, the move does not wait. -/
theorem groupCounterMove_goes {g : BitVec 12} (hu : s.planeUp (s.fab g).plane = false) (hs : ∀ n ∈ s.planes, (s.link n).stop.getLsbD 4 = false) :
    exec (.groupCounterMove g) s = .next (match ((List.range 17).map fun j => (g.toNat + j + 1) % 18).find? s.planeUp with
      | some n => s.setFab { s.fab g with plane := n }
      | none => s.setFab { s.fab g with fail := true }) := by
  have hw : (!s.planes.isEmpty && s.planes.all fun n => (s.link n).stop.getLsbD 4) = false := by
    cases hp : s.planes with
    | nil => rfl
    | cons n l => rw [List.all_cons, hs n (by rw [hp]; exact List.mem_cons_self)]; rfl
  change Host.Outcome.next (bif s.planeUp (s.fab g).plane || (!s.planes.isEmpty && s.planes.all fun n => (s.link n).stop.getLsbD 4) then s else _) = _
  rw [hu, hw]; rfl

/-- Settles the fabric barriers of O45. -/
theorem fabricBarriersAdvance : FabricBarriersAdvance := by
  intro s pkg g f
  refine ⟨fun hp hs => ?_, fun hs h => ?_, fun hs hf hw hd => ⟨fun hm => ?_, fun hm hc => ?_, fun hm hc => ?_⟩, fun hd => ?_, fun hd => ?_, fun hf ha
    hn hq => ?_,
    fun hu => ?_, fun hu hs => ⟨fun hall => ?_, fun n hn hne honly => ?_⟩⟩
  · subst hp
    change Host.Outcome.next (bif s.pkg.pkgId == s.pkg.pkgId then s.fabSend g else _) = _
    rw [beq_self_eq_true, cond_true, State.fabSend, hs]; rfl
  · rw [fabricBarrierArrival_made hs, State.fabArrive_ignored h]
  · rw [fabricBarrierArrival_made hs, State.fabArrive_new hf hw hd, show ((s.fab g).members == 0) = true from beq_iff_eq.mpr hm]; rfl
  · rw [fabricBarrierArrival_made hs, State.fabArrive_new hf hw hd, show ((s.fab g).members == 0) = false from beq_eq_false_iff_ne.mpr hm,
      show ((s.fab g).count + 1 == (s.fab g).members) = true from beq_iff_eq.mpr hc]; rfl
  · rw [fabricBarrierArrival_made hs, State.fabArrive_new hf hw hd, show ((s.fab g).members == 0) = false from beq_eq_false_iff_ne.mpr hm,
      show ((s.fab g).count + 1 == (s.fab g).members) = false from beq_eq_false_iff_ne.mpr hc]; rfl
  · obtain ⟨hl, hg⟩ := s.barCtr_key 3 g
    have hx : exec (.fabricCompletionArrives g) s = .next ((s.setFab { f with due := false }).setBar { s.barCtr 3 g with phase := (s.barCtr 3
      g).phase + 1 }) := by
      change Host.Outcome.next (bif f.due then _ else s) = _
      rw [hd]; rfl
    refine ⟨_, hx, ?_, ?_, rfl, rfl⟩
    · exact congrArg BarCtr.phase (State.setBar_barCtr (b := { s.barCtr 3 g with phase := (s.barCtr 3 g).phase + 1 }) hl hg)
    · exact (State.setFab_fab (f := { f with due := false }) (s.fab_group g))
  · change Host.Outcome.next (bif f.due then _ else s) = _
    rw [hd]; rfl
  · have hx : exec (.barrierGroupFailureArrives g) s = .next (s.trapNow .c 0x15 0 0) := by
      change Host.Outcome.next (bif f.fail && s.sleepsAt3 g then (s.post s.myPart _).async 5 0 else s) = _
      rw [hf, State.sleepsAt3_of ha, State.post_disabled _ (hq _).1, State.async_now 5 0 hn]; rfl
    have hm := State.endMwait_asleep 4 ha
    have ht := trapNow_taken s .c 0x15 0 0
    rw [hm] at ht
    exact ⟨_, hx, ht⟩
  · change Host.Outcome.next (bif s.planeUp f.plane || _ then s else _) = _
    rw [hu]; rfl
  · rw [groupCounterMove_goes hu hs]
    have hnone : ((List.range 17).map fun j => (g.toNat + j + 1) % 18).find? s.planeUp = none :=
      List.find?_eq_none.mpr fun n hn => by rw [hall n (otherPlanes_lt hn)]; decide
    rw [hnone]
  · rw [groupCounterMove_goes hu hs]
    cases hfd : ((List.range 17).map fun j => (g.toNat + j + 1) % 18).find? s.planeUp with
    | none => exact absurd ((honly n hn).mpr rfl) (List.find?_eq_none.mp hfd n (mem_otherPlanes hn hne))
    | some m => rw [(honly m (otherPlanes_lt (List.mem_of_find?_eq_some hfd))).mp (List.find?_some hfd)]

end Sys2Proof.Machine

open Sys2Proof Sys2Proof.Machine Sys2Proof.Claims

/-- Settles O45: its reductions and its fabric barriers. -/
theorem reductionsAndFabricBarriersAdvance : Obligations.ReductionsAndFabricBarriersAdvance := ⟨reductionsReachTheirHome, fabricBarriersAdvance⟩
end

section
/-! What chxdbg maps, loads, submits and reads of a virtual function's memory (R306, R354, R391); O47. -/

namespace Sys2Proof.Machine

open Sys2Proof.Claims

variable {s t : State}

/-! ### One page of 64 KiB -/

theorem pagesOf_one {a : Nat} (h : a % 65536 = 0) : pagesOf a 65536 = [a] := by
  unfold pagesOf
  rw [show (a + 65536 + 65535) / 65536 - a / 65536 = 1 by omega]
  change [(a / 65536 + 0) * 65536] = [a]
  rw [show (a / 65536 + 0) * 65536 = a by omega]
theorem holdsLeaf_page {a log : Nat} (h : 65536 < 2 ^ log) : holdsLeaf a 65536 log = false := by
  refine decide_eq_false fun hle => ?_
  have h1 := Nat.div_add_mod (a + 2 ^ log - 1) (2 ^ log)
  have h2 := Nat.mod_lt (a + 2 ^ log - 1) (Nat.two_pow_pos log)
  rw [Nat.mul_comm] at h1
  omega
theorem largestLeaf_page (a : Nat) : largestLeaf a 65536 = 16 := by
  unfold largestLeaf
  rw [holdsLeaf_page (by decide), holdsLeaf_page (by decide)]; rfl
theorem leafFits_page (a : Nat) : leafFits a 65536 = 16 := by
  unfold leafFits
  rw [if_neg fun h => absurd h.2 (by decide), if_neg fun h => absurd h.2 (by decide)]
theorem runLeaf_page (va pa : Nat) : runLeaf [(va, pa)] = 16 := by
  have h : ∀ log, 1 < 2 ^ (log - 16) → isRun [(va, pa)] log = false := by
    intro log hlog
    unfold isRun
    dsimp only
    rw [decide_eq_false fun h => absurd h.2.2 (Nat.not_le.mpr hlog)]; rfl
  unfold runLeaf
  rw [h 30 (by decide), h 21 (by decide)]; rfl

/-- A page of device memory lies in it as a whole. -/
theorem hbmRange_page {pa : Nat} (ha : pa % 65536 = 0) (hr : s.region pa = .hbm) (hlt : pa < 2 ^ 51) : hbmRange pa 65536 = true := by
  have hn : s.norm pa = pa := by
    unfold State.norm bits
    rw [if_neg]
    omega
  have hle := State.region_hbm hr
  rw [hn] at hle
  refine decide_eq_true ⟨?_, ?_⟩
  · unfold localRegion; rw [if_pos hle]
  · unfold localRegion; rw [if_pos (by omega)]

theorem cellGet_unlisted {a : Nat} : ∀ {l : List Host.Cell}, (∀ c ∈ l, c.1 ≠ a) → cellGet l a = 0
  | [], _ => rfl
  | c :: l, h => by
    have ih := cellGet_unlisted fun c hc => h c (List.mem_cons_of_mem _ hc)
    have hc := h c List.mem_cons_self
    change (if a < c.1 then 0 else if c.1 = a then c.2 else cellGet l a) = 0
    rw [if_neg hc, ih, ite_self]
/-- Memory given out anew reads as zero. -/
theorem State.zeroPages_rd8 {pa size i : Nat} (hi : i < size) (hn : s.norm (pa + i) = pa + i) : (s.zeroPages pa size).rd8 (pa + i) = 0 := by
  refine (congrArg (cellGet _) hn).trans (cellGet_unlisted fun c hc hca => ?_)
  have h := of_decide_eq_true (List.mem_filter.mp hc).2
  omega
theorem State.zeroPages_l2 {pa size i : Nat} (ha : pa % 128 = 0) (hs : size % 128 = 0) (hi : i < size) {x : L2Line} (hx : x ∈ (s.zeroPages pa
    size).mem.l2) :
    x.line ≠ (pa + i) / 128 := by
  have h := of_decide_eq_true (List.mem_filter.mp hx).2
  omega

/-! ### chxdbg's commands -/


/-- A page where none is mapped. -/
theorem alloc_new {p : BitVec 3} {v : BitVec 2} {va : Word64} {pa : Nat} (hva : va.toNat % 65536 = 0) (hl : s.leafNow p v va.toNat = none)
    (ha : pa % 65536 = 0) (hr : s.region pa = .hbm) (hlt : pa < 2 ^ 51) (ho : s.ownsAll p pa 65536 = true) :
    exec (.alloc va 65536 pa (some p) v) s =
      .next (((s.zeroPages pa 65536).mapLeaf p v va.toNat pa 16 permRw).show (leafShown va.toNat 16 pa)) := by
  rw [show exec (.alloc va 65536 pa (some p) v) s = execAlloc va 65536 pa (some p) v s from rfl, execAlloc]
  dsimp only [State.target]
  have hany : (pagesOf va.toNat 65536).any (fun g => (s.leafNow p v g).isSome) = false := by
    rw [pagesOf_one hva, List.any_cons, hl]; rfl
  have hfit : decide (va.toNat % 65536 ≠ 0 ∨ 65536 % 65536 ≠ 0 ∨ 65536 = 0 ∨ pa % 2 ^ largestLeaf va.toNat 65536 ≠ va.toNat % 2 ^ largestLeaf
    va.toNat 65536) = false := by
    rw [largestLeaf_page]
    exact decide_eq_false (by omega)
  rw [hbmRange_page ha hr hlt, ho, hfit, hany]
  change Host.Outcome.next (State.mapRange p v permRw 1 va.toNat pa 65536 (s.zeroPages pa 65536)) = _
  rw [State.mapRange, if_neg (by decide), leafFits_page]
  rfl
theorem allocShare_new {p : BitVec 3} {v v2 : BitVec 2} {va va2 e : Word64} {log : Nat} (hva : va.toNat % 65536 = 0) (hl : s.leafNow p v va.toNat =
    none)
    (hva2 : va2.toNat % 65536 = 0) (hl2 : s.leafNow p v2 va2.toNat = some (log, e)) :
    exec (.allocShare va 65536 p v va2 v2) s =
      .next ((s.mapLeaf p v va.toNat (entryAddr e / 2 ^ log * 2 ^ log + va2.toNat % 2 ^ log) 16 permRw).show
        (leafShown va.toNat 16 (entryAddr e / 2 ^ log * 2 ^ log + va2.toNat % 2 ^ log))) := by
  rw [show exec (.allocShare va 65536 p v va2 v2) s = execAllocShare va 65536 p v va2 v2 s from rfl, execAllocShare]
  rw [pagesOf_one hva, pagesOf_one hva2, List.any_cons, hl, List.map_cons, hl2,
    decide_eq_false (show ¬(va.toNat % 65536 ≠ 0 ∨ 65536 % 65536 ≠ 0 ∨ 65536 = 0 ∨ va2.toNat % 65536 ≠ 0) by omega)]
  change Host.Outcome.next (State.mapRuns p v permRw 1 [(va.toNat, entryAddr e / 2 ^ log * 2 ^ log + va2.toNat % 2 ^ log)] s) = _
  rw [State.mapRuns, runLeaf_page]
  rfl
/-- A page where one is mapped is refused. -/
theorem alloc_refused {p : BitVec 3} {v : BitVec 2} {va : Word64} {pa : Nat} {x : Nat × Word64} (hva : va.toNat % 65536 = 0)
    (hl : s.leafNow p v va.toNat = some x) : exec (.alloc va 65536 pa (some p) v) s = .next (s.refused va.toNat) := by
  rw [show exec (.alloc va 65536 pa (some p) v) s = execAlloc va 65536 pa (some p) v s from rfl, execAlloc]
  dsimp only [State.target]
  rw [pagesOf_one hva, List.any_cons, hl, Option.isSome_some, Bool.true_or, Bool.or_true, cond_true]
theorem allocShare_refused {p : BitVec 3} {v v2 : BitVec 2} {va va2 : Word64} {x : Nat × Word64} (hva : va.toNat % 65536 = 0)
    (hl : s.leafNow p v va.toNat = some x) : exec (.allocShare va 65536 p v va2 v2) s = .next (s.refused va.toNat) := by
  rw [show exec (.allocShare va 65536 p v va2 v2) s = execAllocShare va 65536 p v va2 v2 s from rfl, execAllocShare]
  rw [pagesOf_one hva, List.any_cons, hl, Option.isSome_some, Bool.true_or, Bool.or_true, Bool.true_or, cond_true]

/-- A section that fits its pages is mapped and its bytes stored through the leaves then in force. -/
theorem load_fits {p : BitVec 3} {v : BitVec 2} {va e : Word64} {pa : Nat} {kind : BitVec 3} {bs : List Byte} (hva : va.toNat % 65536 = 0)
    (hlen : bs.length ≤ 65536) (hf : s.sectionFits p (va, pa, kind, bs) = true)
    (hu : ∀ i < bs.length, (s.mapSection p v va.toNat pa (permOf kind) bs.length).leafNow p v (va.toNat + i) = some (16, e)) :
    ∃ t, exec (.load [(va, pa, kind, bs)] (some p) v) s = .next t ∧ t.core.mmu = ⟨[], []⟩ ∧
      t.mem = ((s.mapSection p v va.toNat pa (permOf kind) bs.length).memWrite
        ((List.range bs.length).map fun i => (entryAddr e / 65536 * 65536 + i, bs.getD i 0)) none false false).mem := by
  rw [show exec (.load [(va, pa, kind, bs)] (some p) v) s = execLoad [(va, pa, kind, bs)] (some p) v s from rfl, execLoad]
  dsimp only [State.target]
  rw [List.find?_cons_of_neg (by rw [hf]; decide), List.find?_nil]
  refine ⟨_, rfl, rfl, ?_⟩
  change ((s.mapSection p v va.toNat pa (permOf kind) bs.length).memWrite _ none false false).mem = _
  generalize s.mapSection p v va.toNat pa (permOf kind) bs.length = u at hu ⊢
  congr 2
  rw [← List.filterMap_eq_map]
  refine List.filterMap_congr fun i hi => ?_
  have hi' := List.mem_range.mp hi
  rw [hu i hi']
  dsimp only [Function.comp]
  rw [show (va.toNat + i) % 2 ^ 16 = i by omega]
  rfl
theorem load_refused {p : BitVec 3} {v : BitVec 2} {va : Word64} {pa : Nat} {kind : BitVec 3} {bs : List Byte}
    (hf : s.sectionFits p (va, pa, kind, bs) = false) : exec (.load [(va, pa, kind, bs)] (some p) v) s = .next (s.refused va.toNat) := by
  rw [show exec (.load [(va, pa, kind, bs)] (some p) v) s = execLoad [(va, pa, kind, bs)] (some p) v s from rfl, execLoad]
  dsimp only [State.target]
  rw [List.find?_cons_of_pos (by rw [hf]; rfl)]

/-- A block submitted is appended as a tsub of the function would append it. -/
theorem submit_appends {p : BitVec 3} {v : BitVec 2} {va : Word64} {q : BitVec 6} (hva : va.toNat % 65536 = 0) (hq : (s.part p).mayUse v q = true) :
    exec (.submit va q (some p) v) s = .next (s.submitAs va q p v) := by
  have hm : misaligned va 256 = false := bne_eq_false_iff_eq.mpr (by omega)
  change Host.Outcome.next (bif misaligned va 256 || !(s.part p).mayUse v q then _ else _) = _
  rw [hm, hq]; rfl

theorem takeWhile_isSome {α : Type} {f : Nat → Option α} {g : Nat → α} {n : Nat} (h : ∀ i < n, f i = some (g i)) :
    ((List.range n).map f).takeWhile Option.isSome = (List.range n).map fun i => some (g i) := by
  rw [List.map_congr_left fun i hi => h i (List.mem_range.mp hi), List.takeWhile_eq_self_iff]
  intro x hx
  obtain ⟨i, -, rfl⟩ := List.mem_map.mp hx
  rfl
theorem peekX_reads {p : BitVec 3} {v : BitVec 2} {va : Word64} {len pa : Nat} (h : ∀ i < len, s.ctxPa p v (va + BitVec.ofNat 64 i) = some (pa + i)) :
    exec (.peekX va len (some p) v) s = .next (s.show ((List.range len).map fun i => (s.rd8 (pa + i)).toNat)) := by
  rw [show exec (.peekX va len (some p) v) s = execPeekX va len (some p) v s from rfl, execPeekX]
  dsimp only [State.target]
  rw [takeWhile_isSome h, List.map_map]
  rfl
theorem pokeW_stores {p : BitVec 3} {v : BitVec 2} {va value : Word64} {pa : Nat} (hp : Plain s) (hpa : s.ctxPa p v va = some pa) (hr : Reaches s pa
    8) :
    exec (.pokeW va value p v) s = .next (s.hostStore 128 pa (leBytes 8 value.toNat)) := by
  rw [show exec (.pokeW va value p v) s = execPokeW va value p v s from rfl, execPokeW, hpa]
  dsimp only
  rw [Reaches.waits hr hp, State.heldOff_plain hp]; rfl

end Sys2Proof.Machine

open Sys2Proof Sys2Proof.Machine Sys2Proof.Claims

/-- Settles O47: a page of 64 KiB is one leaf, shown as it is put; the other commands act as the units they stand for. -/
theorem debuggerMapsAndAccesses : Obligations.DebuggerMapsAndAccesses := by
  intro s p v va hva
  refine ⟨fun hl => ⟨fun pa ha hr hlt ho => ?_, fun va2 v2 log e hva2 hl2 => ⟨_, allocShare_new hva hl hva2 hl2, rfl⟩⟩,
    fun log e hl pa va2 v2 => ⟨_, alloc_refused hva hl, allocShare_refused hva hl, rfl⟩,
    fun pa kind bs e hlen hf => fun hu => load_fits hva hlen hf hu, fun pa kind bs hf => ⟨_, load_refused hf, rfl⟩,
    fun q hq => ⟨fun t ht => ?_, fun hn => ?_⟩, fun value pa hi hp hn hpa hr hu => ?_, fun len pa h => ⟨_, peekX_reads h, rfl⟩⟩
  · exact ⟨s.zeroPages pa 65536, _, alloc_new hva hl ha hr hlt ho, rfl, rfl, fun x hx i hi => State.zeroPages_l2 (by omega) (by decide) hi hx,
      fun _ i hi hn => State.zeroPages_rd8 hi hn, rfl⟩
  · rw [submit_appends hva hq, State.submitAs, ht]; rfl
  · rw [submit_appends hva hq, State.submitAs, hn]; rfl
  · have hlen : (leBytes 8 value.toNat).length = 8 := length_leBytes 8 _
    obtain ⟨hw, ho⟩ := State.hostStore_wrote (w := 128) (by decide) pa (leBytes 8 value.toNat) hi (by rw [hlen]; exact hr) (by rw [hlen]; exact hu)
      hn hp
    exact ⟨_, pokeW_stores hp hpa hr, hw, ho.memoryOnly⟩
end

section
/-! Live service (R302, R384 to R387): patches, drains, repairs, images and moved pages; O41. -/

namespace Sys2Proof.Machine

open Sys2Proof.Claims

variable {s t u : State}

/-! ### What a strand fetches ahead leaves as it was (R119) -/

section
variable (s : State)

theorem State.ovfInts_time (p : BitVec 3) (v : BitVec 2) (k : Vector (BitVec 10) 32) (w : List Nat) : (s.ovfInts p v k w).time = s.time :=
  foldl_keeps _ State.time (fun x i => cond_induction (P := fun t : State => t.time = x.time) (fun _ => x.msi_time p v 1 i) fun _ => rfl) w s
theorem State.count_time (ev : BitVec 8) (n : Nat) : (s.count ev n).time = s.time := State.ovfInts_time _ _ _ _ _
theorem State.l2Count_time (o : Owner) (ev : BitVec 8) : (s.l2Count o ev).time = s.time := by
  unfold State.l2Count
  split
  · exact cond_induction (P := fun t : State => t.time = s.time) (fun _ => rfl) fun _ =>
      cond_induction (P := fun t : State => t.time = s.time) (fun _ => s.count_time ev 1) fun _ => rfl
  · rfl
theorem State.CacheNear.time {s t : State} (h : s.CacheNear t) : t.time = s.time := by obtain ⟨_, _, _, _, _, rfl⟩ := h; rfl
theorem State.l2Evict_time (x : L2Line) (mine : Bool) : (s.l2Evict x mine).time = s.time :=
  cond_induction (P := fun t : State => t.time = s.time) (fun _ => (State.l2Count_time _ _ _).trans (s.l2Out_near x).time) fun _ => (s.l2Out_near
    x).time
theorem State.l2Alloc_time (line : Nat) (p : Option (BitVec 3)) (mine : Bool) : (s.l2Alloc line p mine).time = s.time :=
  cond_induction (P := fun t : State => t.time = s.time) (fun _ => rfl) fun _ =>
    (foldl_keeps (fun s x => s.l2Evict x mine) State.time (fun x l => x.l2Evict_time l mine) _ s :)
theorem State.l2Access_time (pa : Nat) (p fill : Option (BitVec 3)) (mine : Bool) : (s.l2Access pa p fill mine).time = s.time := by
  unfold State.l2Access
  refine cond_induction (P := fun t : State => t.time = s.time) (fun _ => cond_induction (P := fun t : State => t.time = s.time) (fun _ => rfl) fun _
    => rfl) fun _ =>
    cond_induction (P := fun t : State => t.time = s.time) (fun _ => (s.mscAccess_near _ _ _).time) fun _ => ?_
  split
  · exact cond_induction (P := fun t : State => t.time = s.time) (fun _ => State.l2Count_time _ _ _) fun _ => rfl
  · exact (State.l2Alloc_time _ _ _ _).trans (s.mscAccess_near _ _ _).time
theorem State.walkAccess_time (p : BitVec 3) (v : BitVec 2) (va : Word64) : (s.walkAccess p v va).time = s.time :=
  foldl_keeps _ State.time (fun x a => cond_induction (P := fun t : State => t.time = x.time) (fun _ => rfl) fun _ => x.l2Access_time a _ _ _) _ s
theorem State.fillTlb_time (p : BitVec 3) (v : BitVec 2) (va : Word64) : (s.fillTlb p v va).time = s.time := by
  unfold State.fillTlb
  split
  · rfl
  · refine cond_induction (P := fun t : State => t.time = s.time) (fun _ => rfl) fun _ => ?_
    dsimp only
    split
    · exact s.walkAccess_time p v va
    · exact s.walkAccess_time p v va

end

/-- A state of the same step, its strands standing where they stood, at the same time. -/
def State.Stands (s t : State) : Prop :=
  t.core.ctx = s.core.ctx ∧ t.core.c.pc = s.core.c.pc ∧ t.core.l.pc = s.core.l.pc ∧ t.core.v.pc = s.core.v.pc ∧ t.core.s.pc = s.core.s.pc ∧ t.time =
    s.time

theorem State.Stands.rfl' (s : State) : s.Stands s := ⟨rfl, rfl, rfl, rfl, rfl, rfl⟩
theorem State.Stands.trans (h : s.Stands t) (k : t.Stands u) : s.Stands u := by
  obtain ⟨h1, h2, h3, h4, h5, h6⟩ := h
  obtain ⟨k1, k2, k3, k4, k5, k6⟩ := k
  exact ⟨k1.trans h1, k2.trans h2, k3.trans h3, k4.trans h4, k5.trans h5, k6.trans h6⟩
theorem State.Serves.stands (h : s.Serves t) (ht : t.time = s.time) : s.Stands t := by
  obtain ⟨⟨_, _, _, _, _, _, _, _, e⟩, -⟩ := h
  unfold State.Stands
  rw [e]
  exact ⟨rfl, rfl, rfl, rfl, rfl, ht⟩
theorem State.setHeld_stands (s : State) (k : Strand) (h : List (Word64 × List Byte)) : s.Stands (s.setHeld k h) := by
  cases k <;> exact ⟨rfl, rfl, rfl, rfl, rfl, rfl⟩
theorem State.fetchAhead_stands (s : State) (k : Strand) (va : Word64) : s.Stands (s.fetchAhead k va) := by
  have hf : s.Stands (s.fetchFill k va) := State.Serves.stands (s.fillTlb_serves _ _ _) (s.fillTlb_time _ _ _)
  unfold State.fetchAhead
  refine cond_induction (P := s.Stands) (fun _ => .rfl' s) fun _ => ?_
  dsimp only
  split
  · exact hf
  · exact cond_induction (P := s.Stands) (fun _ => hf) fun _ => hf.trans (State.setHeld_stands _ _ _)
theorem State.Stands.foldl {α : Type} {f : State → α → State} (h : ∀ (s : State) (a : α), s.Stands (f s a)) (l : List α) : ∀ s :
    State, s.Stands (l.foldl f s) := by
  induction l with
  | nil => exact .rfl'
  | cons a l ih => exact fun s => (h s a).trans (ih _)
theorem State.holdOld_stands (va : Word64) (n : Nat) (s : State) (k : Strand) : s.Stands (State.holdOld va n s k) :=
  State.Stands.foldl (fun s u => s.fetchAhead_stands k u) _ s
theorem State.memWrite_stands (s : State) (cs : List Host.Cell) (o : Owner) (dev whole : Bool) : s.Stands (s.memWrite cs o dev whole) :=
  State.Serves.stands (s.memWrite_serves cs o dev whole) (s.memWrite_time cs o dev whole)

/-! ### Patches (R302) -/

/-- What follows the publishing of a patch: a running core waits for its cut, an idle one acknowledges. -/
def State.patched (t : State) : State :=
  let u := t.setDbg { t.core.dbg with unacked := true, patchAt := some t.tstamp }
  bif t.stepOn then u.setCtx { u.core.ctx with newCode := true } else u.acked
/-- The bytes of a patch where a machine maps them for this machine's context. -/
def State.patchAs (s s' : State) (va : Word64) (bs : List Byte) : List Host.Cell :=
  (List.range bs.length).filterMap fun i => (s'.ctxPa s.core.ctx.part s.core.ctx.vf (va + BitVec.ofNat 64 i)).map fun pa => (pa, bs.getD i 0)
theorem breakpointPatch_eq (va : Word64) (bs : List Byte) : exec (.breakpointPatch va bs) s =
    .next (((bif s.stepOn then ([Strand.c, .l, .v, .s]).foldl (State.holdOld va bs.length) s else s).memWrite
      (s.patchAs (bif s.stepOn then ([Strand.c, .l, .v, .s]).foldl (State.holdOld va bs.length) s else s) va bs) none false false).patched) := rfl
theorem State.patched_idle (h : t.stepOn = false) : t.patched =
    (t.setDbg { t.core.dbg with unacked := false, patchAt := none }).show [0x105, t.corenum.toNat] := by
  unfold State.patched
  rw [h]; rfl
theorem State.patched_running (h : t.stepOn = true) : t.patched =
    (t.setDbg { t.core.dbg with unacked := true, patchAt := some t.tstamp }).setCtx { t.core.ctx with newCode := true } := by
  unfold State.patched
  rw [h]; rfl

theorem breakpointPatch_idle (va : Word64) (bs : List Byte) (h : s.stepOn = false) :
    ∃ t, exec (.breakpointPatch va bs) s = .next t ∧ t.mem = (s.memWrite (patchCells s va bs) none false false).mem ∧
      t.core.dbg.unacked = false ∧ t.core.dbg.shown = [0x105, s.corenum.toNat] :: s.core.dbg.shown ∧ t.core.ctx = s.core.ctx := by
  rw [breakpointPatch_eq, h, cond_false, show s.patchAs s va bs = patchCells s va bs from rfl]
  obtain ⟨m, w, g, e⟩ := s.memWrite_near (patchCells s va bs) none false false
  generalize s.memWrite (patchCells s va bs) none false false = v at e ⊢
  have hv : v.stepOn = false := by rw [e]; exact h
  rw [State.patched_idle hv]
  exact ⟨_, rfl, rfl, rfl, by rw [e]; rfl, by rw [e]; rfl⟩
theorem breakpointPatch_running (va : Word64) (bs : List Byte) (h : s.stepOn = true) :
    ∃ t, exec (.breakpointPatch va bs) s = .next t ∧ t.core.ctx.newCode = true ∧ t.core.dbg.unacked = true ∧ t.core.dbg.patchAt = some s.tstamp ∧
      t.core.c.pc = s.core.c.pc ∧ t.core.l.pc = s.core.l.pc ∧ t.core.v.pc = s.core.v.pc ∧ t.core.s.pc = s.core.s.pc := by
  rw [breakpointPatch_eq, h, cond_true]
  have hh := State.Stands.foldl (fun s k => State.holdOld_stands va bs.length s k) [Strand.c, .l, .v, .s] s
  generalize [Strand.c, .l, .v, .s].foldl (State.holdOld va bs.length) s = s' at hh ⊢
  generalize s.patchAs s' va bs = cells
  obtain ⟨hctx, hc, hl, hv, hs, ht⟩ := hh.trans (s'.memWrite_stands cells none false false)
  generalize s'.memWrite cells none false false = v at hctx hc hl hv hs ht ⊢
  have hon : v.stepOn = true := by unfold State.stepOn; rw [hctx]; exact h
  rw [State.patched_running hon]
  exact ⟨_, rfl, rfl, rfl, congrArg (fun x => some (x / 33)) ht, hc, hl, hv, hs⟩

/-! ### Drains and repairs (R384, R385) -/

/-- A running step that nothing has asked to leave is asked to. -/
theorem State.requestLeave_new (r : Leave) (h : s.stepOn = true) (hl : s.core.ctx.leave = none) :
    s.requestLeave r = s.setCtx { s.core.ctx with leave := some r } := by
  unfold State.requestLeave
  dsimp only
  rw [hl, h]; rfl
theorem siteDrain_other {die : BitVec 2} {site : BitVec 5} (hr : s.inReset Config.cfgController = false) (hd : (die, site) ∉ s.pkg.drained)
    (hm : (die, site) ≠ (s.pkg.die, s.pkg.site)) : exec (.siteDrain die site) s = .next (s.setPkg { s.pkg with drained := (die, site) ::
      s.pkg.drained }) := by
  have hc : s.pkg.drained.contains (die, site) = false := by rw [← Bool.not_eq_true, List.contains_iff_mem]; exact hd
  have hne : ((s.pkg.die, s.pkg.site) != (die, site)) = true := bne_iff_ne.mpr fun e => hm e.symm
  rw [show exec (.siteDrain die site) s = execSiteDrain die site s from rfl, execSiteDrain, hr, hc]
  dsimp only [Bool.or_self, cond_false]
  rw [show (s.setPkg { s.pkg with drained := (die, site) :: s.pkg.drained }).mySite = (s.pkg.die, s.pkg.site) from rfl, hne, cond_true]
  rfl
theorem siteDrain_running {die : BitVec 2} {site : BitVec 5} (hr : s.inReset Config.cfgController = false) (hd : (die, site) ∉ s.pkg.drained)
    (hm : (die, site) = (s.pkg.die, s.pkg.site)) (hs : s.stepOn = true) (hl : s.core.ctx.leave = none) :
    ∃ t, exec (.siteDrain die site) s = .next t ∧ t.core.ctx.leave = some .cutStop ∧ t.pkg.drainAt = some s.tstamp ∧ t.siteDrained = true ∧ t.mem =
      s.mem := by
  have hc : s.pkg.drained.contains (die, site) = false := by rw [← Bool.not_eq_true, List.contains_iff_mem]; exact hd
  have hne : ((s.pkg.die, s.pkg.site) != (die, site)) = false := bne_eq_false_iff_eq.mpr hm.symm
  have hleave : ∀ x, (s.setPkg x).requestLeave .cutStop = (s.setPkg x).setCtx { s.core.ctx with leave := some .cutStop } :=
    fun x => State.requestLeave_new (s := s.setPkg x) .cutStop hs hl
  rw [show exec (.siteDrain die site) s = execSiteDrain die site s from rfl, execSiteDrain, hr, hc]
  dsimp only
  rw [show (s.setPkg { s.pkg with drained := (die, site) :: s.pkg.drained }).mySite = (s.pkg.die, s.pkg.site) from rfl, hne,
    show (s.setPkg { s.pkg with drained := (die, site) :: s.pkg.drained }).stepOn = true from hs, cond_true, hleave, Bool.or_false, cond_false,
      cond_false]
  refine ⟨_, rfl, rfl, rfl, ?_, rfl⟩
  change ((die, site) :: s.pkg.drained).contains (s.pkg.die, s.pkg.site) = true
  rw [List.contains_cons, ← hm, beq_self_eq_true]; rfl

theorem Part.moveSite_sites {x : Part} {die : BitVec 2} {site : BitVec 5} (h : x.sites.getLsbD (17 * die.toNat + site.toNat) = true) :
    (x.moveSite die site).sites.getLsbD (17 * die.toNat + 16) = true ∧
      (site ≠ 16 → (x.moveSite die site).sites.getLsbD (17 * die.toNat + site.toNat) = false) := by
  have hlt : 17 * die.toNat + 16 < 68 := by have := die.isLt; omega
  have hi := BitVec.lt_of_getLsbD h
  unfold Part.moveSite
  dsimp only
  rw [h, cond_true]
  refine ⟨by simp [hlt], fun hs => ?_⟩
  have hne : site.toNat ≠ 16 := fun e => hs (BitVec.eq_of_toNat_eq e)
  simp only [BitVec.getLsbD_or, BitVec.getLsbD_and, BitVec.getLsbD_not, BitVec.getLsbD_shiftLeft, BitVec.getLsbD_one]
  simp
  omega
/-- What an unused spare's taking the place of a drained site does to the package. -/
def State.spareIn (s : State) (die : BitVec 2) (site : BitVec 5) : State :=
  s.setPkg { s.pkg with
    spareUsed := s.pkg.spareUsed ||| (1#4 <<< die.toNat), parts := s.pkg.parts.map fun x => x.moveSite die site
    drained := s.pkg.drained.filter (· != (die, site)) }
theorem siteRepair_other {die : BitVec 2} {site : BitVec 5} (n : Nat) (hr : s.inReset Config.cfgController = false) (hd : (die, site) ∈ s.pkg.drained)
    (hu : s.pkg.spareUsed.getLsbD die.toNat = false) (hm : (die, site) ≠ (s.pkg.die, s.pkg.site)) :
    exec (.siteRepair die site n) s = .next (s.spareIn die site) := by
  have hne : ((s.pkg.die, s.pkg.site) == (die, site)) = false := beq_eq_false_iff_ne.mpr fun e => hm e.symm
  rw [show exec (.siteRepair die site n) s = execSiteRepair die site n s from rfl, execSiteRepair, hr, List.contains_iff_mem.mpr hd, hu,
    show s.mySite = (s.pkg.die, s.pkg.site) from rfl, hne]
  rfl
theorem siteRepair_mine {die : BitVec 2} {site : BitVec 5} (n : Nat) (hr : s.inReset Config.cfgController = false) (hd : (die, site) ∈ s.pkg.drained)
    (hu : s.pkg.spareUsed.getLsbD die.toNat = false) (hm : (die, site) = (s.pkg.die, s.pkg.site)) (hs : s.stepOn = false) :
    ∃ t, exec (.siteRepair die site n) s = .next t ∧ t.pkg.site = 16 ∧ t.core.pool.lost = Nat.min 31 n ∧ t.core.pool.cells = [] ∧
      t.core.mmu = ⟨[], []⟩ ∧ t.core.csr = s.core.csr := by
  have hne : ((s.pkg.die, s.pkg.site) == (die, site)) = true := beq_iff_eq.mpr hm.symm
  rw [show exec (.siteRepair die site n) s = execSiteRepair die site n s from rfl, execSiteRepair, hr, List.contains_iff_mem.mpr hd, hu,
    show s.mySite = (s.pkg.die, s.pkg.site) from rfl, hne, hs]
  exact ⟨_, rfl, rfl, rfl, rfl, rfl, rfl⟩
theorem State.spareIn_spareUsed (s : State) (die : BitVec 2) (site : BitVec 5) : (s.spareIn die site).pkg.spareUsed.getLsbD die.toNat = true := by
  change (s.pkg.spareUsed ||| (1#4 <<< die.toNat)).getLsbD die.toNat = true
  have := die.isLt
  simp
  omega
theorem State.spareIn_part (s : State) (die : BitVec 2) (site : BitVec 5) (p : BitVec 3) :
    (s.spareIn die site).part p = (s.part p).moveSite die site := by
  change (s.pkg.parts.map fun x => x.moveSite die site).get _ = (s.pkg.parts.get _).moveSite die site
  simp [Vector.get]

/-! ### Images (R386) -/

theorem firmwareUpdate_staged {unit version : Nat} {image sig : List Byte} (h : Config.sigOk image sig = true) (hv : s.installed unit ≤ version) :
    exec (.firmwareUpdate unit version image sig) s =
      .next ((s.setPkg { s.pkg with staged := ⟨unit, version, image⟩ :: s.pkg.staged.filter fun i => i.unit != unit }).setCfgUnit (s.cfgUnit unit))
        := by
  change Host.Outcome.next (bif Config.sigOk image sig && decide (s.installed unit ≤ version) then _ else s) = _
  rw [h, decide_eq_true hv]; rfl
theorem firmwareUpdate_refused {unit version : Nat} {image sig : List Byte} (h : Config.sigOk image sig = false ∨ version < s.installed unit) :
    exec (.firmwareUpdate unit version image sig) s = .next s := by
  change Host.Outcome.next (bif Config.sigOk image sig && decide (s.installed unit ≤ version) then _ else s) = _
  have hc : (Config.sigOk image sig && decide (s.installed unit ≤ version)) = false := by
    rcases h with h | h
    · rw [h]; rfl
    · rw [decide_eq_false (Nat.not_le.mpr h), Bool.and_false]
  rw [hc]; rfl

/-! ### Moved pages (R387) -/

theorem State.norm_small {a : Nat} (h : a < 2 ^ 51) : s.norm a = a := by
  unfold State.norm bits
  rw [if_neg]
  omega

/-- A list of bytes cut by their addresses. -/
theorem cellGet_filter (f : Nat → Bool) (a : Nat) : ∀ {l : List Host.Cell} {lo : Nat}, keysRise lo l = true →
    cellGet (l.filter fun c => f c.1) a = if f a = true then cellGet l a else 0
  | [], _, _ => by split <;> rfl
  | c :: l, lo, h => by
    obtain ⟨-, hl⟩ := Bool.and_eq_true_iff.mp (show (decide (lo ≤ c.1) && keysRise (c.1 + 1) l) = true from h)
    have ih := cellGet_filter f a hl
    have hget : ∀ m : List Host.Cell, cellGet (c :: m) a = if a < c.1 then 0 else if c.1 = a then c.2 else cellGet m a := fun _ => rfl
    have hlow : a ≤ c.1 → cellGet l a = 0 := fun hle => kget_below _ hl (Nat.lt_succ_of_le hle)
    cases hf : f c.1 with
    | true =>
      rw [List.filter_cons_of_pos (p := fun c : Host.Cell => f c.1) hf, hget, hget, ih]
      split
      · split <;> rfl
      · split
        · next e => rw [← e, hf, if_pos rfl]
        · rfl
    | false =>
      rw [List.filter_cons_of_neg (p := fun c : Host.Cell => f c.1) (by rw [hf]; decide), ih, hget]
      split
      · split
        · next h => exact hlow (Nat.le_of_lt h)
        · split
          · next e => subst e; rw [hf] at *; contradiction
          · rfl
      · rfl
theorem keysRise_mem : ∀ {m : List Host.Cell} {lo : Nat} {c : Host.Cell}, keysRise lo m = true → c ∈ m → lo ≤ c.1
  | d :: m, lo, c, h, hc => by
    obtain ⟨hd, hm⟩ := Bool.and_eq_true_iff.mp (show (decide (lo ≤ d.1) && keysRise (d.1 + 1) m) = true from h)
    have hd := of_decide_eq_true hd
    rcases List.mem_cons.mp hc with rfl | hc
    · exact hd
    · have := keysRise_mem hm hc
      omega
/-- Bytes written to new addresses, one for each old one: what a new address then reads as. -/
theorem cellGet_renamed (g : Nat → Nat) (a : Nat) : ∀ {m l : List Host.Cell} {lo : Nat}, keysRise lo m = true → cellsWf l = true →
    (∀ c ∈ m, g c.1 = g a → c.1 = a) → cellGet l (g a) = 0 → cellGet ((m.map fun c => (g c.1, c.2)).foldl (fun l c => cellSet l c.1 c.2) l) (g a) =
      cellGet m a
  | [], _, _, _, _, _, h0 => h0
  | c :: m, l, lo, h, hl, hg, h0 => by
    obtain ⟨-, hm⟩ := Bool.and_eq_true_iff.mp (show (decide (lo ≤ c.1) && keysRise (c.1 + 1) m) = true from h)
    have hget : cellGet (c :: m) a = if a < c.1 then 0 else if c.1 = a then c.2 else cellGet m a := rfl
    have hlow : a ≤ c.1 → cellGet m a = 0 := fun hle => kget_below _ hm (Nat.lt_succ_of_le hle)
    have hwf := cellsWf_cellSet (g c.1) c.2 hl
    rw [List.map_cons, List.foldl_cons, hget]
    by_cases e : c.1 = a
    · subst e
      rw [if_neg (Nat.lt_irrefl _), if_pos rfl]
      refine (cellGet_foldl_other _ hwf fun x hx => ?_).trans (cellGet_cellSet_same _ _ hl)
      obtain ⟨y, hy, rfl⟩ := List.mem_map.mp hx
      intro e
      have := hg y (List.mem_cons_of_mem _ hy) e
      have := keysRise_mem hm hy
      omega
    · have ih := cellGet_renamed g a hm hwf (fun x hx => hg x (List.mem_cons_of_mem _ hx))
        ((cellGet_cellSet_other _ hl fun e' => e (hg c List.mem_cons_self e'.symm)).trans h0)
      rw [ih, if_neg e]
      split
      · next hlt => exact hlow (Nat.le_of_lt hlt)
      · rfl

/-- Memory with the bytes of a page in the place of another's. -/
def movedCells (old new : Nat) (l : List Host.Cell) : List Host.Cell :=
  ((l.filter fun c => c.1 / 65536 == old).map fun c => (new * 65536 + c.1 % 65536, c.2)).foldl (fun l c => cellSet l c.1 c.2)
    (l.filter fun c => c.1 / 65536 != new)
theorem movedCells_new {old new i : Nat} {l : List Host.Cell} (h : cellsWf l = true) (hi : i < 65536) :
    cellGet (movedCells old new l) (new * 65536 + i) = cellGet l (old * 65536 + i) := by
  have hr : keysRise 0 l = true := (Bool.and_eq_true_iff.mp h).1
  have hin : (old * 65536 + i) / 65536 = old := by omega
  have key := cellGet_renamed (fun a => new * 65536 + a % 65536) (old * 65536 + i) (m := l.filter fun c => c.1 / 65536 == old)
    (l := l.filter fun c => c.1 / 65536 != new) (keysRise_filter _ hr) (cellsWf_filter _ h)
    (fun c hc hg => by
      have hp := beq_iff_eq.mp (List.mem_filter.mp hc).2
      omega)
    (cellGet_unlisted fun c hc hca => by
      have hp := bne_iff_ne.mp (List.mem_filter.mp hc).2
      omega)
  rw [cellGet_filter (fun a => a / 65536 == old) _ hr, hin, beq_self_eq_true, if_pos rfl] at key
  rwa [show (old * 65536 + i) % 65536 = i by omega] at key
theorem movedCells_other {old new a : Nat} {l : List Host.Cell} (h : cellsWf l = true) (ha : a / 65536 ≠ new) :
    cellGet (movedCells old new l) a = cellGet l a := by
  refine (cellGet_foldl_other _ (cellsWf_filter _ h) fun x hx => ?_).trans ?_
  · obtain ⟨c, -, rfl⟩ := List.mem_map.mp hx
    intro e
    dsimp only at e
    omega
  · rw [cellGet_filter (fun a => a / 65536 != new) a (Bool.and_eq_true_iff.mp h).1, bne_iff_ne.mpr ha, if_pos rfl]
theorem movedCells_wf (old new : Nat) {l : List Host.Cell} (h : cellsWf l = true) : cellsWf (movedCells old new l) = true :=
  cellsWf_foldl _ (cellsWf_filter _ h)

theorem leNat_leBytes : ∀ n v : Nat, leNat (leBytes n v) = v % 256 ^ n
  | 0, v => by rw [pow_zero, Nat.mod_one]; rfl
  | n + 1, v => by
    change (BitVec.ofNat 8 v).toNat + 256 * leNat (leBytes n (v / 256)) = _
    rw [leNat_leBytes n, BitVec.toNat_ofNat, show (256 : Nat) ^ (n + 1) = 2 ^ 8 * 256 ^ n from Nat.pow_succ', Nat.mod_mul]
    rfl
/-- A dword of memory just written reads as it was written. -/
theorem Wrote.rdNat {a : Nat} {v : Word64} (h : Wrote s t a (leBytes 8 v.toNat)) (ha : a + 8 ≤ 2 ^ 51) : t.rdNat a 8 = v.toNat := by
  obtain ⟨-, h2⟩ := h
  have hb : t.rdBytes a 8 = leBytes 8 v.toNat := by
    have hg : ∀ i ∈ List.range 8, t.rd8 (a + i) = (leBytes 8 v.toNat).getD i 0 := by
      intro i hi
      have hi := List.mem_range.mp hi
      refine h2 i (by rw [length_leBytes]; exact hi) fun j hj hij => ?_
      rw [length_leBytes] at hj
      rw [State.norm_small (by omega), State.norm_small (by omega)]
      omega
    exact (List.map_congr_left hg).trans rfl
  have hv := v.isLt
  rw [State.rdNat, hb, leNat_leBytes]
  exact Nat.mod_eq_of_lt (by norm_num only at hv ⊢; exact hv)

theorem State.writeBack_near (s : State) (line : Nat) : s.CacheNear (s.writeBack line) := by
  unfold State.writeBack
  split
  · exact s.l2Out_near _
  · exact s.mscDrop_near _
theorem State.CacheNear.foldl {α : Type} {f : State → α → State} (h : ∀ (s : State) (a : α), s.CacheNear (f s a)) (l : List α) :
    ∀ s : State, s.CacheNear (l.foldl f s) := by
  induction l with
  | nil => exact .rfl'
  | cons a l ih => exact fun s => (h s a).trans (ih _)
theorem State.drainPage_kept (s : State) (page : Nat) : s.SameBytes (s.drainPage page) ∧ (s.drainPage page).core.c.regs = s.core.c.regs := by
  obtain ⟨_, _, _, _, _, e⟩ := State.CacheNear.foldl State.writeBack_near ((s.mem.l2.map (·.line)).filter fun l => l / 512 == page) s
  unfold State.drainPage
  rw [e]
  exact ⟨⟨rfl, rfl, rfl⟩, rfl⟩

/-- A page is drained: with no store, no copy and no near-bank write waiting, its bytes are in memory as they stand. -/
theorem State.drained_kept {page : Nat} (hc : s.core.c.store = none) (he : s.core.eng.copy = []) (hn : s.core.nb.writes = []) :
    s.SameBytes (((s.flushStore.publishPage page).placeGranules page).drainPage page) ∧
      (((s.flushStore.publishPage page).placeGranules page).drainPage page).core.c.regs = s.core.c.regs := by
  have hf : s.flushStore = s := by unfold State.flushStore; rw [hc]
  have hp : s.publishPage page = s := by unfold State.publishPage; rw [he]; rfl
  have hg : s.placeGranules page = s.setNb { s.core.nb with writes := [] } := by unfold State.placeGranules; dsimp only; rw [hn]; rfl
  have hs : s.SameBytes (s.setNb { s.core.nb with writes := [] }) := ⟨rfl, hn.symm, rfl⟩
  rw [hf, hp, hg]
  obtain ⟨h1, h2⟩ := (s.setNb { s.core.nb with writes := [] }).drainPage_kept page
  exact ⟨hs.trans h1, h2⟩

theorem pageMove_goes {old new leaf : Nat} (ho : s.region (old * 65536) = .hbm) (hn : s.region (new * 65536) = .hbm) :
    exec (.pageMove old new leaf) s = .next (s.pageMove old new leaf) := by
  rw [show exec (.pageMove old new leaf) s = execPageMove old new leaf s from rfl, execPageMove, decide_eq_true ⟨ho, hn⟩]; rfl
/-- A page that nothing holds has moved: its bytes, and the leaf that names it. -/
theorem State.pageMove_moved {old new leaf : Nat} (hr : s.inReset Config.cfgController = false) (hi : s.Inv) (ho : old < 2 ^ 27) (hn : new < 2 ^ 27)
    (hl : leaf < 2 ^ 43) (h8 : leaf % 8 = 0) (hp : leaf / 65536 ≠ new) (how : s.ownerOf (old * 65536) = s.ownerOf (new * 65536))
    (hnb : s.nbNames old = false) (hc : s.core.c.store = none) (he : s.core.eng.copy = []) (hw : s.core.nb.writes = []) :
    ∃ t, s.pageMove old new leaf = t ∧ (∀ i < 65536, t.rd8 (new * 65536 + i) = s.rd8 (old * 65536 + i)) ∧
      BitVec.ofNat 64 (t.rdNat leaf 8) = (BitVec.ofNat 64 (s.rdNat leaf 8) &&& ~~~0x000fffffffffff00) ||| BitVec.ofNat 64 (new * 65536) ∧
      t.core.c.regs = s.core.c.regs := by
  have hno : s.norm (old * 65536) / 65536 = old := by rw [State.norm_small (by omega)]; omega
  have hnn : s.norm (new * 65536) / 65536 = new := by rw [State.norm_small (by omega)]; omega
  unfold State.pageMove
  rw [hr, how, bne_self_eq_false, hno, hnn, hnb]
  dsimp only [Bool.or_self, cond_false]
  obtain ⟨hb, hregs⟩ := State.drained_kept (page := old) hc he hw
  generalize ((s.flushStore.publishPage old).placeGranules old).drainPage old = u at hb hregs ⊢
  generalize hv : State.setMem u _ = v
  have hcells : v.mem.cells = movedCells old new u.mem.cells := by rw [← hv]; rfl
  have hvw : NoRowStep v := by
    have h0 : v.core.nb.writes = [] := by rw [← hv]; exact hb.2.1.trans hw
    unfold NoRowStep; rw [h0]; exact fun g hg => absurd hg List.not_mem_nil
  have hvi : v.Inv := by
    change cellsWf v.mem.cells = true
    rw [hcells]; exact movedCells_wf old new (hb.inv hi)
  have hrd : ∀ a, a < 2 ^ 51 → v.rd8 a = cellGet (movedCells old new u.mem.cells) a := fun a ha => by
    rw [State.rd8, hcells, State.norm_small ha]
  have hrds : ∀ a, a < 2 ^ 51 → cellGet u.mem.cells a = s.rd8 a := fun a ha => by rw [State.rd8, hb.1, State.norm_small ha]
  have hleaf : v.rdNat leaf 8 = s.rdNat leaf 8 := by
    refine congrArg leNat (List.map_congr_left fun i hi8 => ?_)
    have hi8 := List.mem_range.mp hi8
    rw [hrd _ (by omega), movedCells_other (hb.inv hi) (by omega), hrds _ (by omega)]
  have hvr : v.core.c.regs = u.core.c.regs := by rw [← hv]; rfl
  obtain ⟨m, wt, g, e⟩ := State.memWrite_near v (cellsAt leaf (leBytes 8 (leafAt (BitVec.ofNat 64 (v.rdNat leaf 8)) new).toNat)) none false false
  have hwr := State.memWrite_wrote leaf (leBytes 8 (leafAt (BitVec.ofNat 64 (v.rdNat leaf 8)) new).toNat) none false false hvi
  rw [ahead, State.rmwFirst_noRowStep _ hvw] at hwr
  generalize v.memWrite _ none false false = w at hwr e ⊢
  refine ⟨_, rfl, fun i hlt => ?_, ?_, ?_⟩
  · change w.rd8 (new * 65536 + i) = _
    obtain ⟨h1, -⟩ := hwr
    rw [h1 _ fun j hj => by
      rw [length_leBytes] at hj
      rw [State.norm_small (by omega), State.norm_small (by omega)]
      omega]
    rw [hrd _ (by omega), movedCells_new (hb.inv hi) hlt, hrds _ (by omega)]
  · change BitVec.ofNat 64 (w.rdNat leaf 8) = _
    rw [Wrote.rdNat hwr (by omega), BitVec.ofNat_toNat, BitVec.setWidth_eq, leafAt, hleaf]
  · change w.core.c.regs = _
    rw [e]
    exact hvr.trans hregs
end Sys2Proof.Machine

open Sys2Proof Sys2Proof.Machine Sys2Proof.Claims

/-- Settles O41: each event of live service by its cases. -/
theorem liveServiceActs : Obligations.LiveServiceActs := by
  intro s
  refine ⟨fun va bs => ⟨breakpointPatch_idle va bs, breakpointPatch_running va bs⟩,
    fun die site hr hd => ⟨siteDrain_other hr hd, siteDrain_running hr hd⟩,
    fun die site n hr hd hu => ⟨fun hm => ?_, siteRepair_mine n hr hd hu⟩,
    fun unit version image sig => ⟨fun h hv => ?_, firmwareUpdate_refused⟩,
    fun old new leaf hr hi ho hn hl h8 hp hne hro hrn how => ⟨fun hnb => ?_, fun hnb hc he hw => ?_⟩⟩
  · refine ⟨_, siteRepair_other n hr hd hu hm, s.spareIn_spareUsed die site, fun h => ?_, rfl, fun p hpb => ?_⟩
    · exact bne_iff_ne.mp (List.mem_filter.mp h).2 rfl
    · rw [State.spareIn_part]
      exact Part.moveSite_sites hpb
  · refine ⟨_, firmwareUpdate_staged h hv, ?_, rfl, rfl⟩
    change (⟨unit, version, image⟩ :: s.pkg.staged.filter fun i => i.unit != unit).find? (fun i => i.unit == unit) = _
    exact List.find?_cons_of_pos (beq_self_eq_true unit)
  · rw [pageMove_goes hro hrn, State.pageMove, hr, how, bne_self_eq_false, show s.norm (old * 65536) / 65536 = old by
      rw [State.norm_small (by omega)]; omega, hnb]
    rfl
  · obtain ⟨t, ht, h1, h2, h3⟩ := State.pageMove_moved hr hi ho hn hl h8 hp how hnb hc he hw
    subst ht
    exact ⟨_, pageMove_goes hro hrn, h1, h2, hi.pageMove old new leaf, h3⟩
end

section
/-! Estimates, energies, droop responses, idle lanes and replayed inputs (R203, R395 to R405); O43. -/

namespace Sys2Proof.Machine

open Sys2Proof.Claims

variable {s t u : State}

/-! ### What an interrupt and its record change (R380, R404, R405) -/

/-- A partition but for what its record has come to. -/
def Part.Recorded (x y : Part) : Prop := ∃ f n r, y = { x with repFull := f, repPos := n, reps := r }

theorem Part.Recorded.rfl' (x : Part) : x.Recorded x := ⟨_, _, _, rfl⟩
theorem Part.Recorded.trans {x y z : Part} (h : x.Recorded y) (k : y.Recorded z) : x.Recorded z := by
  obtain ⟨_, _, _, rfl⟩ := h
  obtain ⟨_, _, _, rfl⟩ := k
  exact ⟨_, _, _, rfl⟩

/-- Interrupts have been sent or held off, and recorded: what that can change. -/
def State.Notified (s t : State) : Prop :=
  (∃ m h w g ir mi hm P, t = { s with
    mem := m, pkg := { s.pkg with hbm := h, msi := mi, heldMsi := hm, parts := P },
    core := { s.core with c := { s.core.c with watch := w }, nb := { s.core.nb with writes := g }, dbg := { s.core.dbg with irqLines := ir } } }) ∧
  ∀ q, (s.part q).Recorded (t.part q)

theorem State.Notified.rfl' (s : State) : s.Notified s := ⟨⟨_, _, _, _, _, _, _, _, rfl⟩, fun _ => .rfl' _⟩
theorem State.Notified.trans (h : s.Notified t) (k : t.Notified u) : s.Notified u := by
  obtain ⟨⟨_, _, _, _, _, _, _, _, e⟩, hp⟩ := h
  obtain ⟨⟨_, _, _, _, _, _, _, _, e'⟩, kp⟩ := k
  exact ⟨⟨_, _, _, _, _, _, _, _, by rw [e', e]⟩, fun q => (hp q).trans (kp q)⟩
theorem State.msiRaw_notified (s : State) (p : BitVec 3) (v : BitVec 2) (n c : Nat) : s.Notified (s.msiRaw p v n c) := by
  refine ⟨?_, fun q => by rw [State.msiRaw_part]; exact .rfl' _⟩
  unfold State.msiRaw
  dsimp only
  cases s.core.dbg.traceIrq == some p with
  | true => exact ⟨_, _, _, _, _, _, _, _, rfl⟩
  | false => exact ⟨_, _, _, _, _, _, _, _, rfl⟩
theorem State.unitWrite_notified (s : State) (cs : List Host.Cell) : s.Notified (s.unitWrite cs) := by
  obtain ⟨_, _, _, _, e⟩ := s.unitWrite_near cs
  exact ⟨⟨_, _, _, _, _, _, _, _, e⟩, fun q => by rw [State.unitWrite_part]; exact .rfl' _⟩
theorem State.setPart_notified {p : BitVec 3} {x : Part} (h : (s.part p).Recorded x) : s.Notified (s.setPart p x) := by
  refine ⟨⟨_, _, _, _, _, _, _, _, rfl⟩, fun q => ?_⟩
  by_cases hq : q = p
  · subst hq; rw [State.part_setPart]; exact h
  · rw [State.part_setPart_other _ _ hq]; exact .rfl' _
theorem State.record_notified (s : State) (p : BitVec 3) (t : Nat) (c : Word32) (k a d : Word64) : s.Notified (s.record p t c k a d) := by
  unfold State.record
  refine cond_induction (P := s.Notified) (fun _ => .rfl' s) fun _ => cond_induction (P := s.Notified) (fun _ => ?_) fun _ => ?_
  · exact (State.setPart_notified (p := p) ⟨_, _, _, rfl⟩).trans (State.msiRaw_notified _ _ _ _ _)
  · split
    · next pa _ => exact (s.unitWrite_notified _).trans (State.setPart_notified (p := p) ⟨_, _, _, rfl⟩)
    · exact State.setPart_notified (p := p) ⟨_, _, _, rfl⟩
theorem State.msi_notified (s : State) (p : BitVec 3) (v : BitVec 2) (n c : Nat) : s.Notified (s.msi p v n c) :=
  cond_induction (P := s.Notified) (fun _ => ⟨⟨_, _, _, _, _, _, _, _, rfl⟩, fun _ => .rfl' _⟩) fun _ =>
    (s.msiRaw_notified _ _ _ _).trans (State.record_notified _ _ _ _ _ _ _)

/-! ### Queues of a partition -/

theorem find?_replaced {α β : Type} [DecidableEq α] (l : List (α × β)) (k a : α) (x : β) :
    (((k, x) :: l.filter fun e => e.1 != k).find? fun e => e.1 == a) = if a = k then some (k, x) else l.find? fun e => e.1 == a := by
  by_cases h : a = k
  · subst h
    rw [if_pos rfl]
    exact List.find?_cons_of_pos (beq_self_eq_true _)
  · rw [if_neg h, List.find?_cons_of_neg (by simpa using fun e => h e.symm), List.find?_filter]
    congr 1
    funext e
    by_cases he : e.1 = a
    · rw [he]; simp [h]
    · simp [he]
theorem Part.setQueue_queue (x : Part) (q r : BitVec 6) (k : TaskQueue) : (x.setQueue q k).queue r = if r = q then k else x.queue r := by
  unfold Part.setQueue Part.queue
  dsimp only
  rw [find?_replaced]
  split <;> rfl

/-! ### Charges (R399) -/

theorem State.charge_queue (s : State) (p : BitVec 3) (q : BitVec 6) :
    (((s.charge p (some q)).part p).queue q).energy = ((s.part p).queue q).energy +
      BitVec.ofNat 64 ((((s.part p).queue q).frac + Config.energy p.toNat q.toNat (s.free + 1)) / 256) ∧
    (((s.charge p (some q)).part p).queue q).frac = (((s.part p).queue q).frac + Config.energy p.toNat q.toNat (s.free + 1)) % 256 ∧
    ((s.charge p (some q)).part p).idleEnergy = (s.part p).idleEnergy := by
  unfold State.charge
  dsimp only
  rw [State.part_setPart, Part.setQueue_queue, if_pos rfl]
  exact ⟨rfl, rfl, rfl⟩
theorem State.charge_idle (s : State) (p : BitVec 3) : ((s.charge p none).part p).idleEnergy = (s.part p).idleEnergy +
    BitVec.ofNat 64 (((s.part p).idleFrac + Config.energy p.toNat 64 (s.free + 1)) / 256) := by
  unfold State.charge
  dsimp only
  rw [State.part_setPart]
  rfl
/-- What a charge leaves of the package and of the count of free values. -/
theorem State.charge_kept (s : State) (p : BitVec 3) (q : Option (BitVec 6)) :
    (s.charge p q).core = s.core ∧ (s.charge p q).free = s.free + 1 ∧ (s.charge p q).pkg.estAt = s.pkg.estAt ∧ (s.charge p q).pkg.owed = s.pkg.owed ∧
      ∀ r, ((s.charge p q).part r).permit = (s.part r).permit := by
  have hpart : ∀ (x : Part) (r : BitVec 3), x.permit = (s.part p).permit →
      ((State.setPart { s with free := s.free + 1 } p x).part r).permit = (s.part r).permit := by
    intro x r hx
    by_cases h : r = p
    · subst h; rw [State.part_setPart]; exact hx
    · rw [State.part_setPart_other _ _ h]; rfl
  unfold State.charge
  cases q with
  | none => exact ⟨rfl, rfl, rfl, rfl, fun r => hpart _ r rfl⟩
  | some q => exact ⟨rfl, rfl, rfl, rfl, fun r => hpart _ r rfl⟩
theorem State.charges_kept (l : List (BitVec 3 × Option (BitVec 6))) : ∀ s : State,
    (l.foldl (fun s x => s.charge x.1 x.2) s).core = s.core ∧ s.free ≤ (l.foldl (fun s x => s.charge x.1 x.2) s).free ∧
      (l.foldl (fun s x => s.charge x.1 x.2) s).pkg.estAt = s.pkg.estAt ∧ (l.foldl (fun s x => s.charge x.1 x.2) s).pkg.owed = s.pkg.owed ∧
      ∀ r, ((l.foldl (fun s x => s.charge x.1 x.2) s).part r).permit = (s.part r).permit := by
  induction l with
  | nil => exact fun s => ⟨rfl, Nat.le_refl _, rfl, rfl, fun _ => rfl⟩
  | cons x l ih =>
    intro s
    obtain ⟨h1, h2, h3, h4, h5⟩ := s.charge_kept x.1 x.2
    obtain ⟨k1, k2, k3, k4, k5⟩ := ih (s.charge x.1 x.2)
    exact ⟨k1.trans h1, by rw [h2] at k2; exact Nat.le_of_succ_le k2, k3.trans h3, k4.trans h4, fun r => (k5 r).trans (h5 r)⟩

/-! ### Estimates (R398) -/

/-- A partition but for its record and for what an estimate leaves in it. -/
def Part.Estimated (x y : Part) : Prop := ∃ f n r a b c, y = { x with repFull := f, repPos := n, reps := r, permit := a, est := b, thr := c }

/-- Estimates have been made: what that can change. -/
def State.Metered (s t : State) : Prop :=
  t.free = s.free ∧ t.pkg.estAt = s.pkg.estAt ∧ t.pkg.owed = s.pkg.owed ∧ t.pkg.pkgCap = s.pkg.pkgCap ∧ t.pkg.die = s.pkg.die ∧ t.pkg.site =
    s.pkg.site ∧
    t.core.ctx = s.core.ctx ∧ ∀ q, (s.part q).Estimated (t.part q)

theorem State.Metered.rfl' (s : State) : s.Metered s := ⟨rfl, rfl, rfl, rfl, rfl, rfl, rfl, fun _ => ⟨_, _, _, _, _, _, rfl⟩⟩
theorem State.Metered.trans (h : s.Metered t) (k : t.Metered u) : s.Metered u := by
  obtain ⟨h1, h2, h3, h4, h5, h6, h7, h8⟩ := h
  obtain ⟨k1, k2, k3, k4, k5, k6, k7, k8⟩ := k
  refine ⟨k1.trans h1, k2.trans h2, k3.trans h3, k4.trans h4, k5.trans h5, k6.trans h6, k7.trans h7, fun q => ?_⟩
  obtain ⟨_, _, _, _, _, _, e⟩ := h8 q
  obtain ⟨_, _, _, _, _, _, e'⟩ := k8 q
  exact ⟨_, _, _, _, _, _, by rw [e', e]⟩
theorem State.Notified.metered (h : s.Notified t) : s.Metered t := by
  obtain ⟨⟨_, _, _, _, _, _, _, _, e⟩, hp⟩ := h
  refine ⟨by rw [e], by rw [e], by rw [e], by rw [e], by rw [e], by rw [e], by rw [e], fun q => ?_⟩
  obtain ⟨_, _, _, e'⟩ := hp q
  exact ⟨_, _, _, _, _, _, e'⟩
theorem State.Notified.permit (h : s.Notified t) (q : BitVec 3) : (t.part q).permit = (s.part q).permit := by
  obtain ⟨_, _, _, e⟩ := h.2 q
  rw [e]

/-- The permit count that an estimate gives an enabled partition. -/
def State.permitNext (s : State) (pkg n : Nat) (p : BitVec 3) : BitVec 5 :=
  BitVec.ofNat 5 (nextPermit (s.part p) (Config.watts p.toNat n) (s.capOf (s.part p) (Config.watts p.toNat n) pkg))
theorem State.estimate_metered (pkg n : Nat) (s : State) (p : BitVec 3) : s.Metered (State.estimate pkg n s p) := by
  unfold State.estimate
  refine cond_induction (P := s.Metered) (fun _ => .rfl' s) fun _ => ?_
  dsimp only
  have hset : ∀ a b c, s.Metered (s.setPart p { s.part p with permit := a, est := b, thr := c }) := by
    intro a b c
    refine ⟨rfl, rfl, rfl, rfl, rfl, rfl, rfl, fun q => ?_⟩
    by_cases h : q = p
    · subst h; rw [State.part_setPart]; exact ⟨_, _, _, _, _, _, rfl⟩
    · rw [State.part_setPart_other _ _ h]; exact ⟨_, _, _, _, _, _, rfl⟩
  exact cond_induction (P := s.Metered) (fun _ => (hset _ _ _).trans (State.msi_notified _ _ _ _ _).metered) fun _ => hset _ _ _
theorem State.estimate_permit (pkg n : Nat) (s : State) {p q : BitVec 3} :
    ((State.estimate pkg n s p).part q).permit = if q = p ∧ (s.part p).en = true then s.permitNext pkg n p else (s.part q).permit := by
  unfold State.estimate
  dsimp only
  cases hen : (s.part p).en with
  | false => rw [if_neg (by simp)]; rfl
  | true =>
    rw [Bool.not_true, cond_false]
    refine cond_induction (P := fun t : State => (t.part q).permit = _) (fun _ => (State.msi_notified _ _ _ _ _).permit q |>.trans ?_) fun _ => ?_ <;>
    · by_cases h : q = p
      · subst h; rw [State.part_setPart, if_pos ⟨rfl, rfl⟩]; rfl
      · rw [State.part_setPart_other _ _ h, if_neg fun k => h k.1]
theorem State.Metered.permitNext (h : s.Metered t) {p : BitVec 3} (hp : (t.part p).permit = (s.part p).permit) (pkg n : Nat) :
    t.permitNext pkg n p = s.permitNext pkg n p := by
  obtain ⟨-, -, -, hc, -, -, -, h8⟩ := h
  obtain ⟨_, _, _, a, _, _, e⟩ := h8 p
  unfold State.permitNext State.capOf nextPermit
  rw [hp, hc, e]
theorem State.estimates_permit (pkg n : Nat) {p : BitVec 3} : ∀ (l : List (BitVec 3)) (s : State), l.Nodup →
    s.Metered (l.foldl (State.estimate pkg n) s) ∧ ((l.foldl (State.estimate pkg n) s).part p).permit =
      if p ∈ l ∧ (s.part p).en = true then s.permitNext pkg n p else (s.part p).permit
  | [], s, _ => ⟨.rfl' s, (if_neg fun h => absurd h.1 List.not_mem_nil).symm⟩
  | a :: l, s, hn => by
    obtain ⟨ha, hl⟩ := List.nodup_cons.mp hn
    have hm := State.estimate_metered pkg n s a
    obtain ⟨ih1, ih2⟩ := State.estimates_permit (p := p) pkg n l (State.estimate pkg n s a) hl
    refine ⟨hm.trans ih1, ?_⟩
    have hp := State.estimate_permit pkg n s (p := a) (q := p)
    have hen : ((State.estimate pkg n s a).part p).en = (s.part p).en := by
      obtain ⟨_, _, _, _, _, _, e⟩ := hm.2.2.2.2.2.2.2 p
      rw [e]
    rw [List.foldl_cons, ih2, hen]
    by_cases hpa : p = a
    · subst hpa
      rw [if_neg fun h => ha h.1, hp]
      simp
    · rw [if_neg fun h => hpa h.1] at hp
      rw [hm.permitNext hp, hp]
      simp [hpa]

theorem mem_allParts : ∀ p : BitVec 3, p ∈ allParts := by decide
/-- The machine as the estimates of a microsecond leave it, before any charge. -/
def State.estimated (s : State) : State :=
  let u := s.setPkg { s.pkg with estAt := s.pkg.estAt + 1000, owed := [] }
  { allParts.foldl (State.estimate (Config.watts 8 u.free) u.free) u with free := u.free + 1 }
/-- The charge of what this core has run in a microsecond. -/
def State.ownCharge (s : State) : State := match bif s.stepOn then some s.myPart else s.sitePart with | some p => s.charge p s.payer | none => s
theorem State.estimated_kept (s : State) :
    s.estimated.free = s.free + 1 ∧ s.estimated.pkg.estAt = s.pkg.estAt + 1000 ∧ s.estimated.pkg.owed = [] ∧ s.estimated.core.ctx = s.core.ctx ∧
      s.estimated.sitePart = s.sitePart ∧ (∀ q, (s.part q).Estimated (s.estimated.part q)) ∧
      ∀ p, (s.part p).en = true → (s.estimated.part p).permit = s.permitNext (Config.watts 8 s.free) s.free p := by
  generalize hu : s.setPkg { s.pkg with estAt := s.pkg.estAt + 1000, owed := [] } = u
  have huf : u.free = s.free := by rw [← hu]; rfl
  have hup : ∀ q, u.part q = s.part q := fun q => by rw [← hu]; rfl
  have key := fun p => State.estimates_permit (p := p) (Config.watts 8 u.free) u.free allParts u (by decide)
  obtain ⟨hf, he, ho, -, hd, hs, hc, hq⟩ := (key 0).1
  have hst : s.estimated = { allParts.foldl (State.estimate (Config.watts 8 u.free) u.free) u with free := u.free + 1 } := by
    rw [← hu]; rfl
  rw [hst]
  generalize allParts.foldl (State.estimate (Config.watts 8 u.free) u.free) u = v at key hf he ho hd hs hc hq ⊢
  refine ⟨by rw [← huf], he.trans (by rw [← hu]; rfl), ho.trans (by rw [← hu]; rfl), hc.trans (by rw [← hu]; rfl), ?_, fun q => ?_, fun p hen => ?_⟩
  · refine State.sitePart_congr (hd.trans (by rw [← hu]; rfl)) (hs.trans (by rw [← hu]; rfl)) fun q => ?_
    obtain ⟨_, _, _, _, _, _, e⟩ := hq q
    rw [hup] at e
    change (v.part q).en = _ ∧ (v.part q).sites = _
    rw [e]
    exact ⟨rfl, rfl⟩
  · rw [← hup]; exact hq q
  · have hmem := mem_allParts p
    have h := (key p).2
    rw [if_pos ⟨hmem, by rw [hup]; exact hen⟩] at h
    refine h.trans ?_
    rw [huf, ← hu]; rfl
theorem State.microsecond_eq (s : State) : s.microsecond = s.pkg.owed.foldl (fun s x => s.charge x.1 x.2) s.estimated.ownCharge := by
  unfold State.microsecond State.ownCharge
  dsimp only
  generalize hv : State.estimated s = v
  unfold State.estimated at hv
  dsimp only at hv
  rw [hv] <;> rfl
theorem State.ownCharge_kept (s : State) : s.free ≤ s.ownCharge.free ∧ s.ownCharge.pkg.estAt = s.pkg.estAt ∧ s.ownCharge.pkg.owed = s.pkg.owed ∧
    ∀ r, (s.ownCharge.part r).permit = (s.part r).permit := by
  unfold State.ownCharge
  split
  · next p _ =>
    obtain ⟨-, h2, h3, h4, h5⟩ := s.charge_kept p s.payer
    exact ⟨by rw [h2]; exact Nat.le_succ _, h3, h4, h5⟩
  · exact ⟨Nat.le_refl _, rfl, rfl, fun _ => rfl⟩
/-- What every microsecond leaves. -/
theorem State.microsecond_kept (s : State) :
    s.free < s.microsecond.free ∧ s.microsecond.pkg.estAt = s.pkg.estAt + 1000 ∧ s.microsecond.pkg.owed = [] ∧
    ∀ p, (s.part p).en = true → (s.microsecond.part p).permit = s.permitNext (Config.watts 8 s.free) s.free p := by
  obtain ⟨h1, h2, h3, -, -, -, h7⟩ := s.estimated_kept
  obtain ⟨k1, k2, k3, k4⟩ := s.estimated.ownCharge_kept
  obtain ⟨-, l2, l3, l4, l5⟩ := State.charges_kept s.pkg.owed s.estimated.ownCharge
  rw [State.microsecond_eq]
  exact ⟨by rw [h1] at k1; omega, (l3.trans k2).trans h2, (l4.trans k3).trans h3, fun p hp => ((l5 p).trans (k4 p)).trans (h7 p hp)⟩

theorem nextPermit_above {x : Part} {e own : Nat} (h : own < e) (hn : x.permit.toNat ≤ 16) :
    (BitVec.ofNat 5 (nextPermit x e (some own))).toNat = Nat.max x.pmin.toNat (Nat.min (x.permit.toNat - 1) (x.permit.toNat * own / e)) := by
  unfold nextPermit
  dsimp only
  have hp := x.pmin.isLt
  have hm : Nat.min (x.permit.toNat - 1) (x.permit.toNat * own / e) ≤ x.permit.toNat - 1 := Nat.min_le_left _ _
  rw [if_pos h, BitVec.toNat_ofNat, Nat.mod_eq_of_lt]
  exact Nat.max_lt.mpr ⟨hp, by omega⟩
theorem raised_permit {p : Nat} (h : p ≤ 16) : (BitVec.ofNat 5 (bif decide (p < 16) then p + 1 else p)).toNat = Nat.min 16 (p + 1) := by
  interval_cases p <;> rfl
theorem nextPermit_below {x : Part} {e : Nat} {c : Option Nat} (h : ∀ own, c = some own → 16 * e ≤ 15 * own) (hn : x.permit.toNat ≤ 16) :
    (BitVec.ofNat 5 (nextPermit x e c)).toNat = Nat.min 16 (x.permit.toNat + 1) := by
  unfold nextPermit
  cases c with
  | none => exact raised_permit hn
  | some own =>
    have h := h own rfl
    dsimp only
    rw [if_neg (by omega), if_pos h]
    exact raised_permit hn
theorem State.capOf_own {x : Part} {e pkg : Nat} (h : pkg ≤ s.pkg.pkgCap) : s.capOf x e pkg = bif x.cap == 0 then none else some x.cap.toNat := by
  unfold State.capOf
  dsimp only
  rw [decide_eq_false (Nat.not_lt.mpr h), cond_false]

/-- Settles the metering of O43. -/
theorem powerIsMetered : PowerIsMetered := by
  intro s p
  refine ⟨fun h => ?_, fun h => ⟨s.microsecond, ?_, ?_⟩, fun q h => ?_, fun q h => ⟨s.charge p (some q), ?_, ?_⟩, ⟨s.charge p none, rfl,
    s.charge_idle p, (s.charge_kept p none).1⟩,
    fun h => ?_, fun h => ?_⟩
  · change Host.Outcome.next (bif decide (s.pkg.estAt ≤ s.tstamp) then s.microsecond else s) = _
    rw [decide_eq_false (Nat.not_le.mpr h), cond_false]
  · change Host.Outcome.next (bif decide (s.pkg.estAt ≤ s.tstamp) then s.microsecond else s) = _
    rw [decide_eq_true h, cond_true]
  · obtain ⟨h1, h2, h3, h4⟩ := s.microsecond_kept
    obtain ⟨k1, -, -, k4, k5, k6, -⟩ := s.estimated_kept
    obtain ⟨f, n, r, a, b, c, hpart⟩ := k6 p
    have hcap : ∀ e, Config.watts 8 s.free ≤ s.pkg.pkgCap → s.capOf (s.part p) e (Config.watts 8 s.free) = bif (s.part p).cap == 0 then none else
      some (s.part p).cap.toNat :=
      fun e h => State.capOf_own h
    refine ⟨h1, h2, h3, fun q hon hsite howed => ?_, fun hon hmy howed => ⟨fun id q hid hq => ?_, fun id hid hq => ?_⟩,
      fun hen => ⟨fun hw ho hlt hnow => ?_, fun hw ho hnow => ?_⟩⟩
    · have hown : s.estimated.ownCharge = s.estimated := by
        unfold State.ownCharge State.stepOn
        rw [k4, k5, hsite, show s.core.ctx.running.isSome = false from hon]; rfl
      rw [State.microsecond_eq, howed, hown]
      refine (State.charge_queue s.estimated p q).1.trans ?_
      rw [hpart, k1]; rfl
    · have hown : s.estimated.ownCharge = s.estimated.charge p (some q) := by
        unfold State.ownCharge State.stepOn State.myPart State.payer
        rw [k4, hid, show s.core.ctx.part = p from hmy]; dsimp only; rw [hq]; rfl
      rw [State.microsecond_eq, howed, hown]
      obtain ⟨c1, -, c3⟩ := State.charge_queue s.estimated p q
      exact ⟨c1.trans (by rw [hpart, k1]; rfl), c3.trans (by rw [hpart])⟩
    · have hown : s.estimated.ownCharge = s.estimated.charge p none := by
        unfold State.ownCharge State.stepOn State.myPart State.payer
        rw [k4, hid, show s.core.ctx.part = p from hmy]; dsimp only; rw [hq]; rfl
      rw [State.microsecond_eq, howed, hown]
      exact (State.charge_idle s.estimated p).trans (by rw [hpart, k1])
    · rw [h4 p hen, State.permitNext, hcap _ hw, show ((s.part p).cap == 0) = false from beq_eq_false_iff_ne.mpr fun e => ho (by rw [e]; rfl),
        cond_false]
      exact nextPermit_above hlt hnow
    · rw [h4 p hen, State.permitNext, hcap _ hw]
      refine nextPermit_below (fun own hown => ?_) hnow
      cases hc : (s.part p).cap == 0 with
      | true => rw [hc] at hown; exact absurd hown (by simp)
      | false =>
        rw [hc] at hown
        cases hown
        exact ho.resolve_left fun e => beq_eq_false_iff_ne.mp hc (BitVec.eq_of_toNat_eq e)
  · change Host.Outcome.next (bif s.chargeable p q then s.charge p (some q) else s) = _
    rw [h, cond_false]
  · change Host.Outcome.next (bif s.chargeable p q then s.charge p (some q) else s) = _
    rw [h, cond_true]
  · obtain ⟨c1, c2, -⟩ := s.charge_queue p q
    exact ⟨c1, c2, (s.charge_kept p (some q)).1⟩
  · change Host.Outcome.next (bif s.core.csr.cycle.toNat % 16 == 0 then _ else s) = _
    rw [h]; rfl
  · change Host.Outcome.next (bif s.core.csr.cycle.toNat % 16 == 0 then _ else s) = _
    rw [beq_eq_false_iff_ne.mpr h, cond_false]

/-! ### Droop responses (R401, R402) -/

theorem State.droopLine_eq (s : State) (on : Bool) (n : Nat) : ∃ d, s.droopLine on n = s.setDbg d :=
  cond_induction (P := fun t => ∃ d, t = s.setDbg d) (fun _ => ⟨_, rfl⟩) fun _ => ⟨s.core.dbg, rfl⟩
theorem State.droopTrace_eq (s : State) : ∃ d, s.droopTrace = s.setDbg d := by
  unfold State.droopTrace
  split
  · next n _ =>
    refine cond_induction (P := fun t => ∃ d, t = s.setDbg d) (fun _ => ?_) fun _ => s.droopLine_eq _ n
    have h1 : ∃ d, (bif n == 71 then s.droopLine s.core.dbg.drOn n else s) = s.setDbg d :=
      cond_induction (P := fun t => ∃ d, t = s.setDbg d) (fun _ => s.droopLine_eq _ n) fun _ => ⟨s.core.dbg, rfl⟩
    obtain ⟨d, e⟩ := h1
    obtain ⟨d', e'⟩ := (s.setDbg d).droopLine_eq s.core.dbg.traceDr 0
    dsimp only
    rw [e, e']
    exact ⟨_, rfl⟩
  · exact ⟨s.core.dbg, rfl⟩
theorem State.ovfInts_notified (p : BitVec 3) (v : BitVec 2) (k : Vector (BitVec 10) 32) (w : List Nat) : ∀ s :
    State, s.Notified (s.ovfInts p v k w) := by
  unfold State.ovfInts
  induction w with
  | nil => exact .rfl'
  | cons i w ih => exact fun s => State.Notified.trans (cond_induction (P := s.Notified) (fun _ => s.msi_notified p v 1 i) fun _ => .rfl' s) (ih _)

/-- What the droop response and the lane groups go by. -/
def State.SameCycle (s t : State) : Prop :=
  t.pkg.droop = s.pkg.droop ∧ t.pkg.again = s.pkg.again ∧ t.core.csr.cycle = s.core.csr.cycle ∧ t.core.lanes = s.core.lanes

theorem State.SameCycle.trans (h : s.SameCycle t) (k : t.SameCycle u) : s.SameCycle u := by
  obtain ⟨h1, h2, h3, h4⟩ := h
  obtain ⟨k1, k2, k3, k4⟩ := k
  exact ⟨k1.trans h1, k2.trans h2, k3.trans h3, k4.trans h4⟩
theorem State.count_sameCycle (s : State) (ev : BitVec 8) (n : Nat) : s.SameCycle (s.count ev n) := by
  obtain ⟨⟨_, _, _, _, _, _, _, _, e⟩, -⟩ := State.ovfInts_notified s.perfOwner.1 s.perfOwner.2 (s.core.perf.add ev n).1.csel (s.core.perf.add ev n).2
    { s with core := { s.core with perf := (s.core.perf.add ev n).1, units := unitCount s.core.units ev n } }
  unfold State.count
  dsimp only
  rw [e]
  exact ⟨rfl, rfl, rfl, rfl⟩
theorem State.stretchCycle_sameCycle (s : State) : s.SameCycle s.stretchCycle :=
  cond_induction (P := s.SameCycle) (fun _ => ⟨rfl, rfl, rfl, rfl⟩) fun _ => ⟨rfl, rfl, rfl, rfl⟩
theorem State.liveCycle_sameCycle (s : State) : s.SameCycle s.liveCycle :=
  cond_induction (P := s.SameCycle) (fun _ => ⟨rfl, rfl, rfl, rfl⟩) fun _ => ⟨rfl, rfl, rfl, rfl⟩
theorem State.waitCycle_sameCycle (s : State) : s.SameCycle s.waitCycle := ⟨rfl, rfl, rfl, rfl⟩
/-- A cycle up to the response's move. -/
def State.cycleCounted (s : State) : State :=
  let u := { s.droopTrace with time := s.droopTrace.time + bif s.core.csr.str then 20 else 10 }
  (((u.setCsr { u.core.csr with cycle := u.core.csr.cycle + 1 }).count 0x01 1).stretchCycle.waitCycle.liveCycle)
theorem State.cycleCounted_kept (s : State) : s.cycleCounted.pkg.droop = s.pkg.droop ∧ s.cycleCounted.pkg.again = s.pkg.again ∧
    s.cycleCounted.core.csr.cycle = s.core.csr.cycle + 1 ∧ s.cycleCounted.core.lanes = s.core.lanes := by
  obtain ⟨d, e⟩ := s.droopTrace_eq
  unfold State.cycleCounted
  dsimp only
  rw [e]
  generalize hv : State.setCsr _ _ = v
  obtain ⟨h1, h2, h3, h4⟩ := (((v.count_sameCycle 0x01 1).trans (State.stretchCycle_sameCycle _)).trans (State.waitCycle_sameCycle _)).trans
    (State.liveCycle_sameCycle _)
  rw [h1, h2, h3, h4, ← hv]
  exact ⟨rfl, rfl, rfl, rfl⟩
/-- Every lane group's cycle. -/
def State.lanesIdle (s : State) : State := { s with core := { s.core with lanes := s.core.lanes.map LaneGroup.idleCycle } }
theorem State.passCycle_eq (s : State) : s.passCycle =
    s.cycleCounted.droopNext.lanesIdle.permitWindow := by
  unfold State.passCycle
  dsimp only
  generalize hv : State.cycleCounted s = v
  unfold State.cycleCounted at hv
  dsimp only at hv
  rw [hv]
  rfl
theorem State.permitWindow_kept (s : State) : s.permitWindow.pkg = s.pkg ∧ s.permitWindow.core.csr.cycle = s.core.csr.cycle ∧
    s.permitWindow.core.lanes = s.core.lanes ∧ s.permitWindow.core.csr.str = s.core.csr.str ∧ s.permitWindow.core.csr.half = s.core.csr.half :=
  cond_induction (P := fun t : State => t.pkg = s.pkg ∧ t.core.csr.cycle = s.core.csr.cycle ∧ t.core.lanes = s.core.lanes ∧
    t.core.csr.str = s.core.csr.str ∧ t.core.csr.half = s.core.csr.half) (fun _ => ⟨rfl, rfl, rfl, rfl, rfl⟩) fun _ => ⟨rfl, rfl, rfl, rfl, rfl⟩
theorem State.droopNext_kept (s : State) : s.droopNext.core.csr.cycle = s.core.csr.cycle ∧ s.droopNext.core.lanes = s.core.lanes := by
  unfold State.droopNext
  split
  · exact cond_induction (P := fun t : State => t.core.csr.cycle = s.core.csr.cycle ∧ t.core.lanes = s.core.lanes) (fun _ => ⟨rfl, rfl⟩) fun _ =>
      ⟨rfl, rfl⟩
  · exact ⟨rfl, rfl⟩
/-- A cycle advances CYCLE, and each lane group by its own rule. -/
theorem State.passCycle_counts (s : State) :
    s.passCycle.core.csr.cycle = s.core.csr.cycle + 1 ∧ s.passCycle.core.lanes = s.core.lanes.map LaneGroup.idleCycle := by
  obtain ⟨-, -, h3, h4⟩ := s.cycleCounted_kept
  obtain ⟨k1, k2⟩ := s.cycleCounted.droopNext_kept
  rw [State.passCycle_eq]
  obtain ⟨-, p2, p3, -⟩ := State.permitWindow_kept
    s.cycleCounted.droopNext.lanesIdle
  exact ⟨p2.trans (k1.trans h3), p3.trans (by rw [← h4, ← k2]; rfl)⟩
/-- The response at an offset, as its strobes show it (R402). -/
def State.DroopAt (s : State) (n : Nat) : Prop :=
  s.pkg.droop = some n ∧ s.pkg.again = false ∧ s.core.csr.str = decide (1 ≤ n ∧ n ≤ 6) ∧ s.core.csr.half = decide (7 ≤ n ∧ n ≤ 70)
theorem State.setDroop_at {n : Nat} (hn : n < 72) (ha : s.pkg.again = false) : (s.setDroop (some n)).DroopAt n := by
  unfold State.setDroop
  dsimp only
  rw [decide_eq_true hn, cond_true]
  exact ⟨rfl, ha, rfl, rfl⟩
theorem State.passCycle_droop {n : Nat} (hd : s.pkg.droop = some n) (ha : s.pkg.again = false) (hn : n + 1 < 72) : s.passCycle.DroopAt (n + 1) := by
  obtain ⟨h1, h2, -, -⟩ := s.cycleCounted_kept
  have hnext : s.cycleCounted.droopNext = s.cycleCounted.setDroop (some (n + 1)) := by
    unfold State.droopNext
    rw [h1, hd, h2, ha]
    rfl
  rw [State.passCycle_eq, hnext]
  obtain ⟨d1, d2, d3, d4⟩ := State.setDroop_at (s := s.cycleCounted) hn (h2.trans ha)
  generalize s.cycleCounted.setDroop (some (n + 1)) = v at d1 d2 d3 d4 ⊢
  obtain ⟨p1, -, -, p4, p5⟩ := State.permitWindow_kept v.lanesIdle
  exact ⟨(congrArg Pkg.droop p1).trans d1, (congrArg Pkg.again p1).trans d2, p4.trans d3, p5.trans d4⟩
theorem State.passCycles_cycle : ∀ (n : Nat) (s : State), (State.passCycles n s).core.csr.cycle = s.core.csr.cycle + BitVec.ofNat 64 n
  | 0, s => (BitVec.add_zero _).symm
  | n + 1, s => by
    rw [State.passCycles, State.passCycles_cycle n, s.passCycle_counts.1, BitVec.add_assoc, ← BitVec.ofNat_add_ofNat, BitVec.add_comm 1]
    rfl
theorem State.passCycles_droop : ∀ (k : Nat) {n : Nat} {s : State}, s.pkg.droop = some n → s.pkg.again = false → 0 < k → n + k < 72 →
    (State.passCycles k s).DroopAt (n + k)
  | 0, _, _, _, _, h, _ => absurd h (Nat.lt_irrefl 0)
  | 1, _, _, hd, ha, _, hk => State.passCycle_droop hd ha hk
  | k + 2, n, s, hd, ha, _, hk => by
    obtain ⟨h1, h2, -, -⟩ := State.passCycle_droop (s := s) hd ha (by omega)
    rw [State.passCycles, show n + (k + 2) = n + 1 + (k + 1) by omega]
    exact State.passCycles_droop (k + 1) h1 h2 (Nat.succ_pos k) (by omega)

/-- The cycles that a powered lane group still needs, up to the last (R203). -/
def LaneGroup.left (g : LaneGroup) : Nat := 4095 - g.idle + g.beat.toNat
theorem LaneGroup.idleCycle_left {g : LaneGroup} (hon : g.on = true) (hi : g.idle ≤ 4095) (hl : 0 < g.left) :
    g.idleCycle.on = true ∧ g.idleCycle.idle ≤ 4095 ∧ g.idleCycle.left + 1 = g.left := by
  obtain ⟨on, idle, beat⟩ := g
  dsimp only at hon hi
  subst hon
  cases beat with
  | true => exact ⟨rfl, hi, rfl⟩
  | false =>
    have hl : 0 < 4095 - idle + 0 := hl
    have hc : LaneGroup.idleCycle ⟨true, idle, false⟩ = ⟨true, idle + 1, false⟩ := by
      unfold LaneGroup.idleCycle
      rw [decide_eq_false (show ¬4096 ≤ idle + 1 by omega)]
      rfl
    rw [hc]
    refine ⟨rfl, (by omega : idle + 1 ≤ 4095), ?_⟩
    change 4095 - (idle + 1) + 0 + 1 = 4095 - idle + 0
    omega
theorem LaneGroup.idleCycle_last {g : LaneGroup} (hon : g.on = true) (hi : g.idle ≤ 4095) (hl : g.left = 0) : g.idleCycle.on = false := by
  unfold LaneGroup.left at hl
  unfold LaneGroup.idleCycle
  cases hb : g.beat with
  | true => rw [hb] at hl; exact absurd hl (Nat.succ_ne_zero _)
  | false =>
    rw [hb] at hl
    have hl : 4095 - g.idle + 0 = 0 := hl
    rw [hon, Bool.not_true, cond_false, cond_false, decide_eq_true (by omega)]
    rfl
theorem State.passCycle_lane (s : State) (i : Fin 8) : s.passCycle.core.lanes.get i = (s.core.lanes.get i).idleCycle := by
  rw [s.passCycle_counts.2]
  simp [Vector.get]
theorem State.passCycles_lane (i : Fin 8) :
    ∀ (n : Nat) {s : State}, (s.core.lanes.get i).on = true → (s.core.lanes.get i).idle ≤ 4095 → (s.core.lanes.get i).left = n →
    ((State.passCycles n s).core.lanes.get i).on = true ∧ ((State.passCycles n s).core.lanes.get i).idle ≤ 4095 ∧
      ((State.passCycles n s).core.lanes.get i).left = 0
  | 0, _, hon, hi, hl => ⟨hon, hi, hl⟩
  | n + 1, s, hon, hi, hl => by
    obtain ⟨h1, h2, h3⟩ := LaneGroup.idleCycle_left hon hi (by omega)
    rw [← State.passCycle_lane] at h1 h2 h3
    exact State.passCycles_lane i n h1 h2 (by omega)

/-- Settles the droop responses and idle lanes of O43. -/
theorem droopsAndIdleLanesAct : DroopsAndIdleLanesAct := by
  intro s _ _ ha
  refine ⟨fun hl hd => ?_, fun n hl hd => ?_, fun hl => ?_, fun hd => ?_, fun hd => ?_, fun g hon hi => ?_⟩
  · have hx : exec .droopTrip s = .next s.trip := by
      change Host.Outcome.next (bif s.core.csr.drLevel == 0 then s else s.trip) = _
      rw [beq_eq_false_iff_ne.mpr hl, cond_false]
    rw [hx]
    unfold State.trip
    dsimp only
    rw [show (s.setPkg { s.pkg with droops := satAdd s.pkg.droops 1 }).pkg.droop = none from hd]
    exact ⟨_, rfl, rfl, rfl, rfl, rfl, rfl, rfl⟩
  · change Host.Outcome.next (bif s.core.csr.drLevel == 0 then s else s.trip) = _
    rw [beq_eq_false_iff_ne.mpr hl, cond_false]
    unfold State.trip
    dsimp only
    rw [show (s.setPkg { s.pkg with droops := satAdd s.pkg.droops 1 }).pkg.droop = some n from hd]
    dsimp only
    by_cases hn : n < 7
    · have hg : s.pkg.again = decide (7 ≤ n) := ha.trans (decide_eq_false (Nat.not_le.mpr hn)).symm
      rw [decide_eq_true hn, cond_true, ← hg]
    · have hg : decide (7 ≤ n) = true := decide_eq_true (Nat.not_lt.mp hn)
      rw [decide_eq_false hn, cond_false, hg, ← hd]
      rfl
  · change Host.Outcome.next (bif s.core.csr.drLevel == 0 then s else s.trip) = _
    rw [hl]; rfl
  · have hx : exec .droopStretchEnd s = .next (State.passCycles 6 s) := by
      rw [show exec .droopStretchEnd s = execDroopStretchEnd s from rfl, execDroopStretchEnd, hd]
      dsimp only
      rw [decide_eq_true (show 0 < 7 by decide), cond_true, show 6 - 0 = 6 from rfl]
    obtain ⟨h1, -, h3, -⟩ := State.passCycles_droop 6 hd ha (by decide) (by decide)
    exact ⟨_, hx, h1, h3, State.passCycles_cycle 6 s⟩
  · have hx : exec .droopHalfIssueEnd s = .next (State.passCycles 63 s) := by
      rw [show exec .droopHalfIssueEnd s = execDroopHalfIssueEnd s from rfl, execDroopHalfIssueEnd, hd]
      dsimp only
      rw [decide_eq_true (show 7 ≤ 7 by decide), cond_true, show 70 - 7 = 63 from rfl]
    obtain ⟨h1, -, -, h4⟩ := State.passCycles_droop 63 hd ha (by decide) (by decide)
    exact ⟨_, hx, h1, h4, State.passCycles_cycle 63 s⟩
  · have hx : exec (.laneGroupPowerDown g) s = .next (State.passCycles (s.core.lanes.get ⟨g.toNat, g.isLt⟩).left s) := by
      rw [show exec (.laneGroupPowerDown g) s = execLaneGroupPowerDown g s from rfl, execLaneGroupPowerDown, hon]; rfl
    obtain ⟨h1, h2, h3⟩ := State.passCycles_lane ⟨g.toNat, g.isLt⟩ _ hon hi rfl
    refine ⟨_, hx, ?_, h1, by rw [State.passCycle_lane]; exact LaneGroup.idleCycle_last h1 h2 h3⟩
    have hb : (s.core.lanes.get ⟨g.toNat, g.isLt⟩).beat.toNat ≤ 1 := Bool.toNat_le _
    rw [State.passCycles_cycle, BitVec.add_comm, BitVec.add_sub_cancel, BitVec.toNat_ofNat]
    unfold LaneGroup.left
    omega

/-! ### Replayed inputs (R404, R405) -/

theorem State.repTake_mem (s : State) (p : BitVec 3) : (s.repTake p).mem = s.mem ∧ (s.repTake p).pkg.msi = s.pkg.msi ∧
    (s.repTake p).pkg.heldMsi = s.pkg.heldMsi :=
  cond_induction (P := fun t : State => t.mem = s.mem ∧ t.pkg.msi = s.pkg.msi ∧ t.pkg.heldMsi = s.pkg.heldMsi) (fun _ => ⟨rfl, rfl, rfl⟩) fun _ =>
    ⟨rfl, rfl, rfl⟩
theorem State.msiRaw_msi (s : State) (p : BitVec 3) (v : BitVec 2) (n c : Nat) :
    (s.msiRaw p v n c).pkg.msi = ⟨1 + 4 * p.toNat + v.toNat, n, c⟩ :: s.pkg.msi :=
  cond_induction (P := fun t : State => t.pkg.msi = ⟨1 + 4 * p.toNat + v.toNat, n, c⟩ :: s.pkg.msi) (fun _ => rfl) fun _ => rfl
/-- A recorded interrupt is sent to the function that its record names. -/
theorem State.replayMsi_sends {fn vec : Nat} (h1 : 1 ≤ fn) (h2 : fn ≤ 32) :
    ∃ m : Msi, (s.replayMsi fn vec).pkg.msi = m :: s.pkg.msi ∧ m.fn = fn ∧ m.vec = vec ∧ (s.replayMsi fn vec).mem = s.mem := by
  unfold State.replayMsi
  refine ⟨_, State.msiRaw_msi _ _ _ _ _, ?_, rfl, State.msiRaw_mem _ _ _ _ _⟩
  change 1 + 4 * ((fn - 1) / 4 % 2 ^ 3) + (fn - 1) % 2 ^ 2 = fn
  omega
theorem State.diverge_div (s : State) (p : BitVec 3) (r : Nat × Nat × Nat × Nat × Nat) (e : List Nat) :
    ((s.diverge p r e).part p).repDiv = true ∧ (s.diverge p r e).mem = s.mem := by
  unfold State.diverge
  dsimp only
  generalize hv : State.show _ _ = v
  have hp : (v.part p).repDiv = true := by
    rw [← hv]
    change (((s.setPart p { s.part p with repDiv := true }).msiRaw p 0 3 3).part p).repDiv = true
    rw [State.msiRaw_part, State.part_setPart]
  have hm : v.mem = s.mem := by
    rw [← hv]
    exact State.msiRaw_mem _ _ _ _ _
  exact cond_induction (P := fun t : State => (t.part p).repDiv = true ∧ t.mem = s.mem) (fun _ => ⟨hp, hm⟩) fun _ => ⟨hp, hm⟩
theorem State.replayDue_not {p : BitVec 3} (h : (s.part p).repMode = 2 → (1 ≤ (s.repNext p).1 ∧ (s.repNext p).1 ≤ 3) ∧ s.tstamp < (s.repNext
    p).2.2.1) :
    s.replayDue p = false := by
  unfold State.replayDue
  dsimp only
  cases hm : (s.part p).repMode == 2 with
  | false => rfl
  | true =>
    obtain ⟨⟨h1, h3⟩, hk⟩ := h (beq_iff_eq.mp hm)
    rw [show ((s.repNext p).1 == 0) = false from beq_eq_false_iff_ne.mpr (by omega), decide_eq_false (show ¬9 ≤ (s.repNext p).1 by omega),
      decide_eq_false (Nat.not_le.mpr hk), Bool.and_false, Bool.or_self, Bool.or_self, Bool.and_false]

/-- Settles the replayed inputs of O43. -/
theorem replayedInputsApply : ReplayedInputsApply := by
  intro s
  refine ⟨fun p hp => ?_, fun h => ?_⟩
  · have hx := execReplayInputApply.eq_def s
    rw [hp] at hx
    dsimp only at hx
    rw [show exec .replayInputApply s = execReplayInputApply s from rfl, hx]
    intro r
    refine ⟨fun hr => ?_, fun hr h1 h2 => ?_, fun hr => ?_⟩
    · rw [show (s.repNext p).1 = 2 from hr]; rfl
    · obtain ⟨m, hm, hf, hv, hmem⟩ := State.replayMsi_sends (s := s.repTake p) (vec := r.2.2.2.2) h1 h2
      obtain ⟨k1, k2, -⟩ := s.repTake_mem p
      rw [show (s.repNext p).1 = 3 from hr]
      exact ⟨_, m, rfl, hm.trans (by rw [k2]), hf, hv, hmem.trans k1⟩
    · rw [show (s.repNext p).1 = 0 from hr]
      exact ⟨_, rfl, s.diverge_div p (s.repNext p) []⟩
  · have hn : allParts.find? s.replayDue = none := List.find?_eq_none.mpr fun p _ => by rw [State.replayDue_not (h p)]; decide
    rw [show exec .replayInputApply s = execReplayInputApply s from rfl, execReplayInputApply, hn]

end Sys2Proof.Machine

open Sys2Proof Sys2Proof.Machine Sys2Proof.Claims

/-- Settles O43: the metering, the droop responses with the idle lanes, and the replayed inputs. -/
theorem powerDroopAndReplayAct : Obligations.PowerDroopAndReplayAct := ⟨powerIsMetered, droopsAndIdleLanesAct, replayedInputsApply⟩
end

section
/-! Evictions, bias flips and tracker clears (R297, R307, R320, R322, R330 to R332, R336); O33. -/

namespace Sys2Proof.Machine

open Sys2Proof.Claims

variable {s t u : State}

/-! ### A line leaves the L2 -/

theorem l2_found {l : List L2Line} {line : Nat} {x : L2Line} (h : (l.find? fun y => y.line == line) = some x) : x.line = line :=
  beq_iff_eq.mp (List.find?_some (p := fun y : L2Line => y.line == line) h)

theorem watchEvicted_ne (w : Watch) (line : Nat) : watchEvicted w line ≠ .armed line := by
  cases w with
  | armed l =>
    unfold watchEvicted
    dsimp only
    cases h : l == line with
    | true => exact fun e => Watch.noConfusion e
    | false => exact fun e => beq_eq_false_iff_ne.mp h (Watch.armed.inj e)
  | _ => exact fun e => Watch.noConfusion e
theorem watchEvicted_armed (line : Nat) : watchEvicted (.armed line) line = .lost line := by
  unfold watchEvicted
  dsimp only
  rw [beq_self_eq_true, cond_true]

theorem State.mscBack_mscNear (s : State) (line : Nat) : s.MscNear (s.mscBack line) := by
  unfold State.mscBack
  split
  · exact s.mscAccess_mscNear _ _ _
  · split
    · exact State.MscNear.trans ⟨_, _, rfl⟩ (State.mscPut_mscNear _ _ _ _)
    · exact s.mscPut_mscNear _ _ _
/-- What a line's leaving the L2 leaves behind. -/
theorem State.l2Out_eq (s : State) (x : L2Line) : ∃ mc st h, s.l2Out x = { s with
    mem := { s.mem with l2 := s.mem.l2.filter fun y => y.line != x.line, msc := mc, stale := st }, pkg := { s.pkg with hbm := h },
    core := { s.core with c := { s.core.c with watch := watchEvicted s.core.c.watch x.line } } } := by
  unfold State.l2Out
  dsimp only
  cases x.dirty with
  | false => exact ⟨s.mem.msc, s.mem.stale, s.pkg.hbm, rfl⟩
  | true =>
    rw [Bool.not_true, cond_false]
    generalize hv : State.setMem _ _ = v
    obtain ⟨mc, h, e⟩ := v.mscBack_mscNear x.line
    rw [e, ← hv]
    exact ⟨mc, s.mem.stale.filter fun c => lineOf c.1 != x.line, h, rfl⟩

/-! ### Evictions (R297, R307, R330) -/

/-- What an eviction does to the poison marks. -/
def State.evictMarks (s : State) (line : Nat) (bad dirty : Bool) : State :=
  s.setMem { s.mem with
    stale := s.mem.stale.filter fun c => lineOf c.1 != line, poison := bif bad && dirty && !s.mem.poison.contains line then line :: s.mem.poison else
      s.mem.poison }
theorem dirtyEviction_of_dirty {line : Nat} {bad : Bool} {x : L2Line} (hx : (s.mem.l2.find? fun y => y.line == line) = some x) (hd : x.dirty = true) :
    exec (.dirtyEviction line bad) s =
      .next (bif !bad then (s.l2Out x).evictMarks line bad true else ((s.l2Out x).evictMarks line bad true).memRec 0x22 (line * 128)) := by
  have hdirty : s.lineDirty line = true := by unfold State.lineDirty; rw [hx]; exact hd
  have hback : s.writeBack line = s.l2Out x := by unfold State.writeBack; rw [hx]
  rw [show exec (.dirtyEviction line bad) s = execDirtyEviction line bad s from rfl, execDirtyEviction, hdirty, hback]
  rfl
theorem dirtyEviction_leaves {line : Nat} {bad : Bool} {x : L2Line} (hx : (s.mem.l2.find? fun y => y.line == line) = some x) (hd : x.dirty = true)
    (ho : bad = true → s.ownerOf (line * 128) = none) :
    ∃ t, exec (.dirtyEviction line bad) s = .next t ∧ t.mem.l2 = s.mem.l2.filter (fun y => y.line != line) ∧ t.core.c.watch ≠ .armed line ∧
      (s.core.c.watch = .armed line → t.core.c.watch = .lost line) ∧ t.core.c.regs = s.core.c.regs ∧ t.mem.cells = s.mem.cells ∧ t.core.perf =
        s.core.perf ∧
      (bad = false → t.mem.poison = s.mem.poison) ∧ (bad = true → line ∈ t.mem.poison) := by
  have hline := l2_found hx
  obtain ⟨mc, st, h, e⟩ := s.l2Out_eq x
  rw [hline] at e
  rw [dirtyEviction_of_dirty hx hd, e]
  cases bad with
  | false =>
    exact ⟨_, rfl, rfl, watchEvicted_ne _ _, fun hw => by rw [← watchEvicted_armed, ← hw]; rfl, rfl, rfl, rfl, fun _ => rfl, fun h =>
      Bool.noConfusion h⟩
  | true =>
    have hlog : ∀ v : State, v.ownerOf (line * 128) = none →
        (v.memRec 0x22 (line * 128)).mem = v.mem ∧ (v.memRec 0x22 (line * 128)).core = v.core := by
      intro v hv
      unfold State.memRec
      dsimp only
      rw [hv]
      exact ⟨rfl, rfl⟩
    rw [Bool.not_true, cond_false]
    generalize hv : State.evictMarks _ line true true = v
    obtain ⟨hm, hc⟩ := hlog v (by rw [← hv]; exact ho rfl)
    refine ⟨_, rfl, ?_⟩
    rw [hm, hc, ← hv]
    refine ⟨rfl, watchEvicted_ne _ _, fun hw => by rw [← watchEvicted_armed, ← hw]; rfl, rfl, rfl, rfl, fun h => Bool.noConfusion h, fun _ => ?_⟩
    change line ∈ bif true && true && !s.mem.poison.contains line then line :: s.mem.poison else s.mem.poison
    cases hp : s.mem.poison.contains line with
    | true => exact List.contains_iff_mem.mp hp
    | false => exact List.mem_cons_self

/-! ### Flips (R320, R322) -/

theorem State.noFlip_any {page : Nat} (h : ∀ f ∈ s.mem.flips, f.1 ≠ page) : (s.mem.flips.any fun f => f.1 == page) = false :=
  List.any_eq_false.mpr fun f hf e => h f hf (beq_iff_eq.mp e)
theorem biasFlip_toDevice {page : Nat} (hf : ∀ f ∈ s.mem.flips, f.1 ≠ page) (hb : page ∈ s.mem.hostBias) : exec (.biasFlip page false) s =
    .next (s.flushStore.setMem { s.flushStore.mem with flips := s.flushStore.mem.flips ++ [(page, false, s.flushStore.tstamp)] }) := by
  rw [show exec (.biasFlip page false) s = execBiasFlip page false s from rfl, execBiasFlip, State.noFlip_any hf, List.contains_iff_mem.mpr hb]
  rfl
theorem State.deviceBias_contains {page : Nat} (hb : page ∉ s.mem.hostBias) : s.mem.hostBias.contains page = false := by
  rw [← Bool.not_eq_true, List.contains_iff_mem]; exact hb
theorem biasFlip_waits {page : Nat} (hf : ∀ f ∈ s.mem.flips, f.1 ≠ page) (hb : page ∉ s.mem.hostBias) (hn : s.nbNames page = true) :
    exec (.biasFlip page true) s = .next (s.again (.event (.biasFlip page true))) := by
  rw [show exec (.biasFlip page true) s = execBiasFlip page true s from rfl, execBiasFlip, State.noFlip_any hf, State.deviceBias_contains hb, hn]
  rfl

theorem State.writeBack_l2 (s : State) (line : Nat) {x : L2Line} (hx : x ∈ (s.writeBack line).mem.l2) : x ∈ s.mem.l2 ∧ x.line ≠ line := by
  unfold State.writeBack at hx
  cases hf : s.mem.l2.find? fun y => y.line == line with
  | some y =>
    rw [hf] at hx
    obtain ⟨_, _, _, e⟩ := s.l2Out_eq y
    dsimp only at hx
    rw [e] at hx
    obtain ⟨h1, h2⟩ := List.mem_filter.mp hx
    exact ⟨h1, l2_found hf ▸ bne_iff_ne.mp h2⟩
  | none =>
    rw [hf] at hx
    obtain ⟨_, _, e⟩ := s.mscDrop_mscNear line
    dsimp only at hx
    rw [e] at hx
    exact ⟨hx, fun h => List.find?_eq_none.mp hf x hx (beq_iff_eq.mpr h)⟩
theorem State.writeBacks_l2 (ls : List Nat) : ∀ {s : State} {x : L2Line}, x ∈ (ls.foldl State.writeBack s).mem.l2 → x ∈ s.mem.l2 ∧ x.line ∉ ls := by
  induction ls with
  | nil => exact fun h => ⟨h, List.not_mem_nil⟩
  | cons l ls ih =>
    intro s x h
    obtain ⟨h1, h2⟩ := ih h
    obtain ⟨h3, h4⟩ := s.writeBack_l2 l h1
    exact ⟨h3, fun hm => (List.mem_cons.mp hm).elim h4 h2⟩
/-- A drained page: no line of it in the L2 and no lease on one, its bytes as they were. -/
theorem State.drainPage_drained (s : State) (page : Nat) : (∀ x ∈ (s.drainPage page).mem.l2, x.line / 512 ≠ page) ∧
    (∀ x ∈ (s.drainPage page).mem.leases, x.line / 512 ≠ page) ∧ (s.drainPage page).mem.flips = s.mem.flips ∧ (s.drainPage page).time = s.time ∧
    MemoryOnly s (s.drainPage page) := by
  have hn := State.CacheNear.foldl State.writeBack_near ((s.mem.l2.map (·.line)).filter fun l => l / 512 == page) s
  have hl : ∀ x ∈ (s.drainPage page).mem.l2, x.line / 512 ≠ page := by
    intro x hx hp
    obtain ⟨h1, h2⟩ := State.writeBacks_l2 ((s.mem.l2.map (·.line)).filter fun l => l / 512 == page) (s := s) hx
    exact h2 (List.mem_filter.mpr ⟨List.mem_map.mpr ⟨x, h1, rfl⟩, beq_iff_eq.mpr hp⟩)
  refine ⟨hl, fun x hx => bne_iff_ne.mp (List.mem_filter.mp hx).2, ?_⟩
  obtain ⟨_, _, _, _, _, e⟩ := hn
  unfold State.drainPage MemoryOnly
  dsimp only
  rw [e]
  exact ⟨rfl, rfl, rfl, rfl, rfl, rfl, rfl, rfl, rfl, rfl⟩
/-- A flip to host bias of a page that nothing names or writes: the page is drained. -/
theorem biasFlip_toHost {page : Nat} (hf : ∀ f ∈ s.mem.flips, f.1 ≠ page) (hb : page ∉ s.mem.hostBias) (hn : s.nbNames page = false)
    (hc : s.core.c.store = none) (he : s.core.eng.copy = []) (hw : ∀ w ∈ s.core.nb.writes, w.pa / 65536 ≠ page) :
    exec (.biasFlip page true) s = .next ((s.drainPage page).setMem { (s.drainPage page).mem with flips := (s.drainPage page).mem.flips ++ [(page,
      true, (s.drainPage page).tstamp)] }) := by
  have hfl : s.flushStore = s := by unfold State.flushStore; rw [hc]
  have hp : s.publishPage page = s := by unfold State.publishPage; rw [he]; rfl
  have hg : s.placeGranules page = s := by
    have h1 : (s.core.nb.writes.filter fun w => w.pa / 65536 == page) = [] := List.filter_eq_nil_iff.mpr fun w hm e => hw w hm (beq_iff_eq.mp e)
    have h2 : (s.core.nb.writes.filter fun w => w.pa / 65536 != page) = s.core.nb.writes := List.filter_eq_self.mpr fun w hm => bne_iff_ne.mpr (hw w
      hm)
    unfold State.placeGranules
    dsimp only
    rw [h1, h2]
    rfl
  rw [show exec (.biasFlip page true) s = execBiasFlip page true s from rfl, execBiasFlip, State.noFlip_any hf, State.deviceBias_contains hb, hn, hfl]
  dsimp only [cond_true, Bool.and_false, Bool.false_or, cond_false]
  rw [hp, hg]
  rfl

theorem biasFlipEvent_flips {page since : Nat} {toHost : Bool} (h : (s.mem.flips.find? fun f => f.1 == page) = some (page, toHost, since)) :
    ∃ t, exec (.biasFlipEvent page) s = .next t ∧ (∀ f ∈ t.mem.flips, f.1 ≠ page) ∧ (page ∈ t.mem.hostBias ↔ toHost = true) ∧
      (∀ q, q ≠ page → (q ∈ t.mem.hostBias ↔ q ∈ s.mem.hostBias)) ∧ t.core = s.core ∧ t.mem.cells = s.mem.cells := by
  have hx : exec (.biasFlipEvent page) s = .next (s.setMem { s.mem with
      flips := s.mem.flips.filter fun f => f.1 != page,
      hostBias := bif toHost then page :: s.mem.hostBias.filter (· != page) else s.mem.hostBias.filter (· != page) }) := by
    rw [show exec (.biasFlipEvent page) s = .next (s.flipNow page) from rfl, State.flipNow, h]
  refine ⟨_, hx, fun f hf => bne_iff_ne.mp (List.mem_filter.mp hf).2, ?_, fun q hq => ?_, rfl, rfl⟩
  · cases toHost with
    | true => exact ⟨fun _ => rfl, fun _ => List.mem_cons_self⟩
    | false => exact ⟨fun hm => absurd rfl (bne_iff_ne.mp (List.mem_filter.mp hm).2), fun h => Bool.noConfusion h⟩
  · have hfil : q ∈ s.mem.hostBias.filter (· != page) ↔ q ∈ s.mem.hostBias :=
      ⟨fun hm => (List.mem_filter.mp hm).1, fun hm => List.mem_filter.mpr ⟨hm, bne_iff_ne.mpr hq⟩⟩
    cases toHost with
    | true => exact ⟨fun hm => hfil.mp ((List.mem_cons.mp hm).resolve_left hq), fun hm => List.mem_cons_of_mem _ (hfil.mpr hm)⟩
    | false => exact hfil

/-! ### Trackers (R336) -/

theorem trackerClear_early (h : s.tstamp < s.pkg.clearAt) : exec .trackerClear s = .next s := by
  change Host.Outcome.next (bif decide (s.pkg.clearAt ≤ s.tstamp) then _ else s) = _
  rw [decide_eq_false (Nat.not_le.mpr h), cond_false]
theorem trackerClear_due (h : s.pkg.clearAt ≤ s.tstamp) : exec .trackerClear s =
    .next (s.setPkg { s.pkg with hbm := s.pkg.hbm.map fun x => { x with track := [] }, clearAt := s.pkg.clearAt + 32000000 }) := by
  change Host.Outcome.next (bif decide (s.pkg.clearAt ≤ s.tstamp) then _ else s) = _
  rw [decide_eq_true h, cond_true]

end Sys2Proof.Machine

open Sys2Proof Sys2Proof.Machine Sys2Proof.Claims

/-- Settles O33: an eviction, the beginning of a flip, a flip and a clear, each by its own lemma. -/
theorem linesAndPagesChangeHands : Obligations.LinesAndPagesChangeHands := by
  intro s
  refine ⟨fun line bad x hx hd ho => dirtyEviction_leaves hx hd ho,
    fun page hf => ⟨fun hb => biasFlip_toDevice hf hb, fun hb hn => biasFlip_waits hf hb hn, fun hb hn hc he hw => ?_⟩,
    fun page since toHost h => biasFlipEvent_flips h, trackerClear_early, fun h => ⟨_, trackerClear_due h, fun x hx => ?_, rfl, rfl, rfl⟩⟩
  · obtain ⟨h1, h2, h3, h4, h5⟩ := s.drainPage_drained page
    obtain ⟨hb', -⟩ := s.drainPage_kept page
    refine ⟨_, biasFlip_toHost hf hb hn hc he hw, ?_, hb'.rd8, h1, h2, h5⟩
    change (s.drainPage page).mem.flips ++ [(page, true, (s.drainPage page).time / 33)] = _
    rw [h3, h4]; rfl
  · obtain ⟨y, -, rfl⟩ := Vector.mem_map.mp hx
    rfl
end

section
/-! The engines (R159, R188 to R192, R199, R244, R314): the last element of a command, a publish, a pub, an ecw, and a completion entry. -/

namespace Sys2Proof.Machine
open Sys2Proof.Claims

variable {s t u : State} {e : Eng} {i : Nat} {c d : Cmd}

/-! ### The commands of an engine -/

theorem setCmds_cmds (l : List Cmd) : (s.setCmds e l).cmds e = l := by cases e <;> rfl
theorem setCmds_setCmds (l m : List Cmd) : (s.setCmds e l).setCmds e m = s.setCmds e m := by cases e <;> rfl
theorem setCmds_ctx (l : List Cmd) : (s.setCmds e l).core.ctx = s.core.ctx := by cases e <;> rfl
theorem setCmds_pool (l : List Cmd) : (s.setCmds e l).core.pool = s.core.pool := by cases e <;> rfl
theorem setCmds_q (l : List Cmd) : (s.setCmds e l).core.q = s.core.q := by cases e <;> rfl
theorem setCmds_pkg (l : List Cmd) : (s.setCmds e l).pkg = s.pkg := by cases e <;> rfl
theorem Core.Served.cmds (h : s.core.Served t.core) (e : Eng) : t.cmds e = s.cmds e := by
  obtain ⟨_, _, _, _, _, _, _, _, h⟩ := h
  cases e
  · change t.core.eng.copy = _
    rw [h]; rfl
  · change t.core.eng.gather = _
    rw [h]; rfl
theorem Core.Served.q {a b : Core} (h : a.Served b) : b.q = a.q := by obtain ⟨_, _, _, _, _, _, _, _, rfl⟩ := h; rfl
theorem Core.Served.pool {a b : Core} (h : a.Served b) : b.pool = a.pool := by obtain ⟨_, _, _, _, _, _, _, _, rfl⟩ := h; rfl
theorem State.natural_congr (h : t.core.ctx = s.core.ctx) (c : Cmd) (b : Bool) : t.natural c b = s.natural c b := by
  unfold State.natural; rw [h]
theorem State.mayLeave_congr (h : t.core.ctx = s.core.ctx) (c : Cmd) : t.mayLeave c = s.mayLeave c := by
  unfold State.mayLeave State.cmdDue; rw [h]

/-! ### The command an engine works on -/

/-- A command that its engine has started. -/
def Cmd.begun (c : Cmd) : Cmd := { c with started := true }
/-- The machine once an engine has started its command. -/
def State.begun (s : State) (e : Eng) (i : Nat) (c : Cmd) : State := s.setCmds e ((s.cmds e).set i c.begun)

theorem begun_cmd (h : (s.cmds e)[i]? = some c) : ((s.begun e i c).cmds e)[i]? = some c.begun := by
  rw [State.begun, setCmds_cmds, List.getElem?_set_self (List.getElem?_eq_some_iff.mp h).1]
/-- That a command has started says nothing of which commands may leave: the pool is held as before. -/
theorem begun_poolHeld (h : (s.cmds e)[i]? = some c) (hs : (s.begun e i c).core.Served t.core) : t.poolHeld e = s.poolHeld e := by
  have hx : t.core.ctx = s.core.ctx := hs.ctx.trans (setCmds_ctx _)
  have hq : t.core.q = s.core.q := hs.q.trans (setCmds_q _)
  have hc : t.cmds e = (s.cmds e).set i c.begun := (hs.cmds e).trans (setCmds_cmds _)
  have hany : (t.cmds e).any (fun d => t.mayLeave d && d.done) = (s.cmds e).any fun d => s.mayLeave d && d.done := by
    obtain ⟨hi, hv⟩ := List.getElem?_eq_some_iff.mp h
    have hset : (((s.cmds e).set i c.begun).map fun d => s.mayLeave d && d.done) = (s.cmds e).map fun d => s.mayLeave d && d.done := by
      rw [List.map_set]
      conv => rhs; rw [← List.set_getElem_self (as := s.cmds e) hi, List.map_set, hv]
      rfl
    have := congrArg (fun l : List Bool => l.any id) hset
    rw [hc]
    simpa only [List.any_map, Function.comp_def, id, State.mayLeave_congr hx] using this
  unfold State.poolHeld
  rw [hq, hany]

theorem moveOne_mp (hd : (s.cmds e)[i]? = some d) (hw : d.written = false) (hf : d.fault = none) (hk : d.kind = .mp) :
    s.moveOne e i = s.engRead e i d (d.a + BitVec.ofNat 64 d.pos) 1 fun s bs => s.engPoolWrite e i d (poolOff d.b + d.pos) bs := by
  unfold State.moveOne
  rw [hd]
  dsimp only
  rw [hw, hf, hk]; rfl
theorem moveOne_pm (hd : (s.cmds e)[i]? = some d) (hw : d.written = false) (hf : d.fault = none) (hk : d.kind = .pm) :
    s.moveOne e i = s.engPool e i d (poolOff d.a + d.pos) 1 fun s bs => s.engShade e i d (d.b + BitVec.ofNat 64 d.pos) bs := by
  unfold State.moveOne
  rw [hd]
  dsimp only
  rw [hw, hf, hk]; rfl
/-- A command moved on by its last element. -/
theorem advance_last {l : List Cmd} (h : s.cmds e = l.set i c) (hd : d.len ≤ d.pos + 1) :
    s.advance e i d = s.setCmds e (l.set i { d with pos := d.pos + 1, written := true, fin := s.natural d true }) := by
  unfold State.advance
  dsimp only
  rw [decide_eq_true hd, h, List.set_set]
/-- An engine that has written its command's last element stops. -/
theorem moveMany_two (h : s.moveOne e i = (t, true)) (hd : (t.cmds e)[i]? = some d) (hw : d.written = true) : State.moveMany e i 2 s = t := by
  have h2 : t.moveOne e i = (t, false) := by
    unfold State.moveOne
    rw [hd]
    dsimp only
    rw [hw]; rfl
  rw [State.moveMany, h, cond_true, State.moveMany, h2, cond_false]

/-- A command of some length as its engine writes it when it starts it. -/
def Cmd.begunAs (c : Cmd) (s : State) : Cmd :=
  { c with
    started := true, written := c.written || false, published := c.published || false && (c.extra == 0 || c.defer) || false && !c.toMem,
    fin := s.natural c false }
/-- What an engine does with the last element of its command, of which one move is known. -/
theorem exec_engine_last (hl : LastElement s e i c) (h : (s.begun e i c).moveOne e i = (t, true)) (hd : (t.cmds e)[i]? = some d)
    (hw : d.written = true) (hp : d.pos = c.pos + 1) : exec (.engineCommandStart e) s = .next ((t.engCounts c (c.pos + 1)).reap) := by
  obtain ⟨hpick, hc, hlen, hwr, -⟩ := hl
  have hleft : s.engLeft e = 2 := by
    unfold State.engLeft
    rw [hpick]
    dsimp only
    rw [hc]
    dsimp only
    omega
  have h0 : (c.len == 0) = false := by rw [hlen]; rfl
  have hbeg : s.setCmds e ((s.cmds e).set i (c.begunAs s)) = s.begun e i c := by
    unfold Cmd.begunAs State.begun
    rw [Bool.or_false, Bool.false_and, Bool.false_and, Bool.or_false, Bool.or_false]; rfl
  rw [show exec (.engineCommandStart e) s = .next (s.engRun e (s.engLeft e)) from rfl, hleft, State.engRun, hpick]
  dsimp only
  rw [hc]
  dsimp only
  rw [h0]
  change Host.Outcome.next (State.reap (State.engCounts (State.moveMany e i 2 (s.setCmds e ((s.cmds e).set i (c.begunAs s)))) c
    (match (State.cmds (State.moveMany e i 2 (s.setCmds e ((s.cmds e).set i (c.begunAs s)))) e)[i]? with | some d => d.pos | none => c.pos))) = _
  rw [hbeg, moveMany_two h hd hw, hd]
  dsimp only
  rw [hp]

/-- A command of length 0 is written as it starts (R188, R244). -/
theorem exec_engine_empty (hpick : s.engPick e = some i) (hc : (s.cmds e)[i]? = some c) (h0 : c.len = 0) :
    let goes := c.extra == 0 || c.defer
    let u := if goes = true ∧ c.toMem = true then s.copySample c else s
    exec (.engineCommandStart e) s =
      .next (u.setCmds e ((s.cmds e).set i { c with
        started := true, written := true, published := c.published || goes || !c.toMem, fin := s.natural c true })).reap := by
  intro goes u
  have hu : (bif goes && c.toMem then s.copySample c else s) = u := by
    simp only [Bool.cond_eq_ite, Bool.and_eq_true]
    rfl
  have huc : u.cmds e = s.cmds e ∧ u.core.ctx = s.core.ctx := by
    obtain ⟨x, t, hx⟩ := s.copySample_eq c
    change (if goes = true ∧ c.toMem = true then s.copySample c else s).cmds e = _ ∧ (if goes = true ∧ c.toMem = true then s.copySample c else
      s).core.ctx = _
    split
    · rw [hx]; exact ⟨by cases e <;> rfl, rfl⟩
    · exact ⟨rfl, rfl⟩
  have hi := (List.getElem?_eq_some_iff.mp hc).1
  have hleft : s.engLeft e = (0 - c.pos) + 1 := by
    unfold State.engLeft
    rw [hpick]
    dsimp only
    rw [hc]
    dsimp only
    rw [h0]
  generalize hv : u.setCmds e ((s.cmds e).set i { c with
        started := true, written := true, published := c.published || goes || !c.toMem, fin := s.natural c true }) = v
  have hvc : (v.cmds e)[i]? = some { c with
        started := true, written := true, published := c.published || goes || !c.toMem, fin := s.natural c true } := by
    rw [← hv, setCmds_cmds, List.getElem?_set_self hi]
  have hmove : State.moveMany e i ((0 - c.pos) + 1) v = v := by
    have h2 : v.moveOne e i = (v, false) := by
      unfold State.moveOne
      rw [hvc]; rfl
    rw [State.moveMany, h2]; rfl
  have hcount : v.engCounts c c.pos = v := by
    unfold State.engCounts
    dsimp only
    rw [Nat.sub_self]; rfl
  rw [show exec (.engineCommandStart e) s = .next (s.engRun e (s.engLeft e)) from rfl, hleft, State.engRun, hpick]
  dsimp only
  rw [hc]
  dsimp only
  rw [show (c.len == 0) = true from by rw [h0]; rfl, Bool.true_and, Bool.true_and, Bool.or_true, hu, huc.1, State.natural_congr huc.2, hv, hmove, hvc]
  dsimp only
  rw [hcount]

/-! ### The last element of cp.mp and cp.pm -/

/-- The last byte of a cp.mp that the pool takes (R188). -/
theorem exec_engine_mp {pa : Nat} (hl : LastElement s e i c) (hk : c.kind = .mp) (hh : s.poolHeld e = false) :
    let w := (s.begun e i c).fillTlb s.core.ctx.part s.core.ctx.vf (c.a + BitVec.ofNat 64 c.pos)
    w.vaBytes w.whoT (c.a + BitVec.ofNat 64 c.pos) 1 .rd false 1 = .ok [pa] →
    exec (.engineCommandStart e) s =
      .next (((((w.orderLines 1 false [pa]).poolWrite (poolOff c.b + c.pos) [w.rd8 pa]).setCmds e
        ((s.cmds e).set i { movedOn c with fin := s.natural c true })).engCounts c (c.pos + 1)).reap) := by
  intro w hok
  have hc := hl.2.1
  have hi := (List.getElem?_eq_some_iff.mp hc).1
  obtain ⟨hpick, -, hlen, hwr, hf⟩ := hl
  have hs : (s.begun e i c).core.Served (w.orderLines 1 false [pa]).core := ((State.fillTlb_serves _ _ _ _).trans (State.orderLines_serves _ _ _ _)).1
  have hctx : (s.begun e i c).core.ctx = s.core.ctx := setCmds_ctx _
  have hcm : (w.orderLines 1 false [pa]).cmds e = (s.cmds e).set i c.begun := (hs.cmds e).trans (setCmds_cmds _)
  have hnat : ∀ x : State, x.core.ctx = s.core.ctx → x.natural c.begun true = s.natural c true := fun x hx => by
    rw [State.natural_congr hx]; rfl
  refine exec_engine_last (d := { movedOn c with fin := s.natural c true }) ⟨hpick, hc, hlen, hwr, hf⟩ ?_ ?_ rfl rfl
  · rw [show (s.begun e i c).moveOne e i = (s.begun e i c).engRead e i c.begun (c.a + BitVec.ofNat 64 c.pos) 1 fun s bs =>
      s.engPoolWrite e i c.begun (poolOff c.b + c.pos) bs from moveOne_mp (begun_cmd hc) hwr hf hk]
    unfold State.engRead
    dsimp only
    rw [hctx]
    change (match w.vaBytes w.whoT (c.a + BitVec.ofNat 64 c.pos) 1 .rd false 1 with | .fail x => _ | .waits => _ | .ok pas => _) = _
    rw [hok]
    change State.engPoolWrite _ _ _ _ _ [w.rd8 pa] = _
    unfold State.engPoolWrite
    rw [begun_poolHeld hc hs, hh, cond_false]
    change (State.advance ((w.orderLines 1 false [pa]).poolWrite (poolOff c.b + c.pos) [w.rd8 pa]) e i c.begun, true) = _
    rw [advance_last (l := s.cmds e) (c := c.begun) (Eq.trans (by cases e <;> rfl) hcm) (show c.begun.len ≤ c.begun.pos + 1 from hlen.le),
      hnat ((w.orderLines 1 false [pa]).poolWrite (poolOff c.b + c.pos) [w.rd8 pa]) (hs.ctx.trans hctx)]
    rfl
  · rw [setCmds_cmds, List.getElem?_set_self hi]

/-- The last byte of a cp.pm whose shadow takes it (R188, R314). -/
theorem exec_engine_pm {pa : Nat} (hl : LastElement s e i c) (hk : c.kind = .pm) (hb : s.poolBad (poolOff c.a + c.pos) 1 = none) :
    let x := (s.begun e i c).fillTlb s.core.ctx.part s.core.ctx.vf (c.b + BitVec.ofNat 64 c.pos)
    x.vaBytes x.whoT (c.b + BitVec.ofNat 64 c.pos) 1 .wr (!c.done && !c.defer) 1 = .ok [pa] → x.shadowFits pa = true →
    exec (.engineCommandStart e) s =
      .next (((x.setCmds e ((s.cmds e).set i { movedOn c with
        shadow := kset c.shadow pa ((s.poolBytes (poolOff c.a + c.pos) 1).getD 0 0) })).l2Trim (l2Key (lineOf (x.norm pa))) true).engCounts
          c (c.pos + 1)).reap := by
  intro x hok hfit
  have hc := hl.2.1
  have hi := (List.getElem?_eq_some_iff.mp hc).1
  obtain ⟨hpick, -, hlen, hwr, hf⟩ := hl
  have hs : (s.begun e i c).core.Served x.core := (State.fillTlb_serves _ _ _ _).1
  have hctx : (s.begun e i c).core.ctx = s.core.ctx := setCmds_ctx _
  have hcm : x.cmds e = (s.cmds e).set i c.begun := (hs.cmds e).trans (setCmds_cmds _)
  have hbegun : (s.begun e i c).poolBad (poolOff c.a + c.pos) 1 = none := by
    rw [← hb]; unfold State.poolBad State.begun; rw [setCmds_pool]
  have hbytes : (s.begun e i c).poolBytes (poolOff c.a + c.pos) 1 = s.poolBytes (poolOff c.a + c.pos) 1 := by
    unfold State.poolBytes State.poolByte State.begun; rw [setCmds_pool]
  have hadv : ∀ b, x.advance e i (Cmd.shade c.begun [pa] [b]) =
      x.setCmds e ((s.cmds e).set i { movedOn c with shadow := kset c.shadow pa b }) := fun b => by
    rw [advance_last (l := s.cmds e) (c := c.begun) hcm (show (Cmd.shade c.begun [pa] [b]).len ≤ (Cmd.shade c.begun [pa] [b]).pos + 1 from hlen.le)]
    have hn : x.natural (Cmd.shade c.begun [pa] [b]) true = c.fin := by
      unfold State.natural
      rw [show (Cmd.shade c.begun [pa] [b]).toMem = true from by
        change (match c.kind with | .pm | .mm | .sct => true | _ => false) = true
        rw [hk], Bool.not_true, Bool.and_false]
      rfl
    rw [hn]; rfl
  refine exec_engine_last (d := { movedOn c with shadow := kset c.shadow pa ((s.poolBytes (poolOff c.a + c.pos) 1).getD 0 0) })
    ⟨hpick, hc, hlen, hwr, hf⟩ ?_ ?_ rfl rfl
  · rw [show (s.begun e i c).moveOne e i = (s.begun e i c).engPool e i c.begun (poolOff c.a + c.pos) 1 fun s bs =>
      s.engShade e i c.begun (c.b + BitVec.ofNat 64 c.pos) bs from moveOne_pm (begun_cmd hc) hwr hf hk]
    unfold State.engPool
    dsimp only
    rw [hbegun]
    dsimp only
    rw [hbytes]
    unfold State.engShade
    dsimp only
    rw [show c.begun.kind = .pm from hk, hctx]
    change (match x.vaBytes x.whoT (c.b + BitVec.ofNat 64 c.pos) 1 .wr (!c.done && !c.defer) 1 with | .fail x => _ | .waits => _ | .ok pas => _) = _
    rw [hok]
    change (bif x.shadowFits pa && true then _ else _) = _
    rw [hfit, Bool.and_true, cond_true]
    change (State.l2Trim (x.advance e i (Cmd.shade c.begun [pa] [(s.poolBytes (poolOff c.a + c.pos) 1).getD 0 0])) _ true, true) = _
    rw [hadv]
    refine congrArg (fun k => (State.l2Trim (x.setCmds e _) k true, true)) ?_
    refine congrArg (fun a => l2Key (lineOf a)) ?_
    unfold State.norm State.advance
    dsimp only
    rw [setCmds_pkg]
  · rw [(State.l2Trim_serves _ _ _).1.cmds, setCmds_cmds, List.getElem?_set_self hi]

theorem enginesMoveTheirElements : EnginesMoveTheirElements := fun _ _ _ _ =>
  ⟨fun hpick hc h0 _ => exec_engine_empty hpick hc h0, fun hl => ⟨fun _ hk hok hh => exec_engine_mp hl hk hh hok,
    fun _ hk hb hok hfit => exec_engine_pm hl hk hb hok hfit⟩⟩

/-! ### Publishing -/

/-- A command whose natural end has come, if it had one to wait for. -/
def Cmd.endedAt (c : Cmd) (p : Cmd → Bool) (live : Nat) : Cmd := bif p c && c.extra != 0 && c.fin.isNone then { c with fin := some live } else c
theorem whenDue_eq (p : Cmd → Bool) (f : State → State) :
    s.whenDue p f =
      bif (s.core.eng.copy.map fun d => d.endedAt p s.core.ctx.live).all (fun d => !p d || s.cmdDue d) then
        f (s.setEng { s.core.eng with copy := s.core.eng.copy.map fun d => d.endedAt p s.core.ctx.live })
      else s.setEng { s.core.eng with copy := s.core.eng.copy.map fun d => d.endedAt p s.core.ctx.live } := rfl
/-- A command that is due has its natural end behind it. -/
theorem endedAt_due {p : Cmd → Bool} (h : p c = true → s.cmdDue c = true) : c.endedAt p s.core.ctx.live = c := by
  unfold Cmd.endedAt
  cases hp : p c && c.extra != 0 && c.fin.isNone with
  | false => rfl
  | true =>
    rw [Bool.and_eq_true, Bool.and_eq_true, bne_iff_ne, Option.isNone_iff_eq_none] at hp
    obtain ⟨⟨hpc, he⟩, hf⟩ := hp
    have := h hpc
    unfold State.cmdDue at this
    rw [hf, beq_eq_false_iff_ne.mpr he] at this
    cases this
/-- Commands of which none waits for injected cycles come to their natural end at once. -/
theorem whenDue_now {p : Cmd → Bool} (f : State → State) (h : ∀ d ∈ s.core.eng.copy, p d = true → s.cmdDue d = true) : s.whenDue p f = f s := by
  have hmap : (s.core.eng.copy.map fun d => d.endedAt p s.core.ctx.live) = s.core.eng.copy :=
    (List.map_congr_left fun d hd => endedAt_due (h d hd)).trans (List.map_id _)
  have hall : s.core.eng.copy.all (fun d => !p d || s.cmdDue d) = true := List.all_eq_true.mpr fun d hd => by
    cases hp : p d with
    | false => rfl
    | true => rw [h d hd hp]; rfl
  rw [whenDue_eq, hmap, hall]; rfl
/-- A command that is not due waits: only when it ended is noted. -/
theorem whenDue_waits {p : Cmd → Bool} (f : State → State) (hp : ∀ c x, p { c with fin := x } = p c) (hd : d ∈ s.core.eng.copy) (hpd : p d = true)
    (hdue : s.cmdDue d = false) :
    s.whenDue p f = s.setEng { s.core.eng with copy := s.core.eng.copy.map fun d => d.endedAt p s.core.ctx.live } := by
  have hend : p (d.endedAt p s.core.ctx.live) = true ∧ s.cmdDue (d.endedAt p s.core.ctx.live) = false := by
    unfold Cmd.endedAt
    cases hx : p d && d.extra != 0 && d.fin.isNone with
    | false => exact ⟨hpd, hdue⟩
    | true =>
      rw [Bool.and_eq_true, Bool.and_eq_true, bne_iff_ne] at hx
      have hn : d.extra ≠ 0 := hx.1.2
      refine ⟨(hp _ _).trans hpd, ?_⟩
      change (d.extra == 0 || decide (s.core.ctx.live + d.extra ≤ s.core.ctx.live)) = false
      rw [beq_eq_false_iff_ne.mpr hn, decide_eq_false (by omega)]; rfl
  have hall : (s.core.eng.copy.map fun d => d.endedAt p s.core.ctx.live).all (fun d => !p d || s.cmdDue d) = false :=
    List.all_eq_false.mpr ⟨_, List.mem_map_of_mem hd, by rw [hend.1, hend.2]; decide⟩
  rw [whenDue_eq, hall]; rfl

theorem exec_enginePublish (hn : s.core.eng.nextPublish = some c) (hm : (s.mayPublish fun d => d.seq == c.seq) = true) :
    exec .enginePublish s = .next (s.whenDue (fun d => d.seq == c.seq) State.publishNext) := by
  rw [show exec .enginePublish s = execEnginePublish s from rfl, execEnginePublish, hn]
  dsimp only
  rw [hm]; rfl
/-- A publish that waits for nothing (R189, R313). -/
theorem exec_enginePublish_now (hn : s.core.eng.nextPublish = some c) (hm : (s.mayPublish fun d => d.seq == c.seq) = true)
    (hd : ∀ d ∈ s.core.eng.copy, d.seq = c.seq → s.cmdDue d = true) : exec .enginePublish s = .next (s.publishCmds fun d => d.seq == c.seq).reap := by
  rw [exec_enginePublish hn hm, whenDue_now _ fun d h hq => hd d h (beq_iff_eq.mp hq), State.publishNext, hn]
  dsimp only
  rw [hm, cond_true]
/-- A publish that waits out injected cycles (R244, R273). -/
theorem exec_enginePublish_waits (hn : s.core.eng.nextPublish = some c) (hm : (s.mayPublish fun d => d.seq == c.seq) = true)
    (hd : d ∈ s.core.eng.copy) (hq : d.seq = c.seq) (hdue : s.cmdDue d = false) :
    ∃ t, exec .enginePublish s = .next t ∧ t.mem = s.mem ∧ t.core.eng.copy.map (·.shadow) = s.core.eng.copy.map (·.shadow) := by
  refine ⟨s.setEng { s.core.eng with copy := s.core.eng.copy.map fun d => d.endedAt (fun d => d.seq == c.seq) s.core.ctx.live }, ?_, rfl, ?_⟩
  · exact (exec_enginePublish hn hm).trans (congrArg Host.Outcome.next
      (whenDue_waits (p := fun d => d.seq == c.seq) _ (fun _ _ => rfl) hd (beq_iff_eq.mpr hq) hdue))
  refine List.map_map.trans (List.map_congr_left fun d _ => ?_)
  change (d.endedAt _ _).shadow = _
  unfold Cmd.endedAt
  exact cond_induction (P := fun x : Cmd => x.shadow = d.shadow) (fun _ => rfl) fun _ => rfl

/-! ### pub, ecw and completion entries -/

/-- A pub at its place (R190). -/
theorem exec_pub (hn : s.core.eng.barrierHead = some c) (hd : ∀ d ∈ s.core.eng.copy, c.endsWith d = true → s.cmdDue d = true)
    (hm : (s.mayPublish fun d => decide (d.seq < c.seq) && d.toMem) = true) (hk : c.kind = .pub) :
    let u := s.publishCmds fun d => decide (d.seq < c.seq) && d.toMem
    exec .pubExecute s = .next ((u.setEng { u.core.eng with
      copy := u.core.eng.copy.map fun d => if d.seq = c.seq then { d with written := true, published := true } else d }).reap) := by
  intro u
  have hgo : (decide (c.kind = .pub) && s.mayPublish fun d => decide (d.seq < c.seq) && d.toMem) = true := by rw [hm, decide_eq_true hk]; rfl
  have hite : (fun d : Cmd => bif d.seq == c.seq then { d with written := true, published := true } else d) =
      fun d => if d.seq = c.seq then { d with written := true, published := true } else d := funext fun d => by
    rw [Bool.cond_eq_ite]
    simp only [beq_iff_eq]
  rw [show exec .pubExecute s = execPubExecute s from rfl, execPubExecute, hn]
  dsimp only
  rw [hgo, cond_true, whenDue_now _ hd, State.pubNext, hn]
  dsimp only
  rw [hgo, cond_true, hite]

/-- A publish leaves no other command than the one there was. -/
theorem published_alone (hc : s.core.eng.copy = [c]) (p : Cmd → Bool) (hd : d ∈ (s.publishCmds p).reap.core.eng.copy) : d.seq = c.seq := by
  rw [(State.reap_cmds (s.publishCmds p)).1, (State.publishCmds_cmds s p).1, hc] at hd
  obtain rfl := List.mem_singleton.mp (List.mem_of_mem_filter hd)
  unfold Cmd.publishedBy
  exact cond_induction (P := fun x : Cmd => x.seq = c.seq) (fun _ => rfl) fun _ => rfl
theorem published_no_gather (hg : s.core.eng.gather = []) (p : Cmd → Bool) : (s.publishCmds p).reap.core.eng.gather = [] := by
  rw [(State.reap_cmds (s.publishCmds p)).2, (State.publishCmds_cmds s p).2, hg]; rfl
/-- What an ecw stores at the bytes of its address. -/
def State.ecwStored (s : State) (c : Cmd) (pas : List Nat) : State :=
  ((((s.copySample c).orderAt 1 true (pas.getD 0 0)).l2Engine (pas.getD 0 0) false).store (pas.getD 0 0) (leBytes 8 c.val.toNat) none true).coverAt
    .now pas
theorem exec_ecw_eq {pas : List Nat} {r : State} (hn : s.core.eng.barrierHead = some c)
    (hd : ∀ d ∈ s.core.eng.copy, c.endsWith d = true → s.cmdDue d = true)
    (hgo : (decide (c.kind = .ecw) && s.mayPublish fun d => decide (d.seq < c.seq) && d.toMem) = true)
    (hr : (s.publishCmds fun d => decide (d.seq < c.seq) && d.toMem).reap = r) (hu : r.fillTlb r.core.ctx.part r.core.ctx.vf c.a = u)
    (holder : ((r.core.eng.copy.any fun d => decide (d.seq < c.seq)) || c.all && r.core.eng.gather.any fun d => decide (d.seq < c.seq)) = false)
    (hok : u.vaBytes u.whoT c.a 8 .wr false 1 = .ok pas) :
    exec .ecwExecute s = .next ((u.ecwStored c pas).setEng { (u.ecwStored c pas).core.eng with
      copy := (u.ecwStored c pas).core.eng.copy.filter fun d => d.seq != c.seq }).touch := by
  rw [show exec .ecwExecute s = execEcwExecute s from rfl, execEcwExecute, hn]
  dsimp only
  rw [hgo, cond_true, whenDue_now _ fun d h hq => hd d h (Bool.and_eq_true _ _ ▸ hq).1, State.ecwNext, hn]
  dsimp only
  rw [hgo, cond_true, hr, holder, cond_false, hu, hok]
  rfl
/-- The engine's one command, an ecw, stores its value and leaves (R191). -/
theorem exec_ecw {pas : List Nat} {r : State} (hn : s.core.eng.barrierHead = some c)
    (hd : ∀ d ∈ s.core.eng.copy, c.endsWith d = true → s.cmdDue d = true)
    (hm : (s.mayPublish fun d => decide (d.seq < c.seq) && d.toMem) = true) (hk : c.kind = .ecw) (hc : s.core.eng.copy = [c])
    (hg : s.core.eng.gather = []) (hr0 : (s.publishCmds fun d => decide (d.seq < c.seq) && d.toMem).reap = r)
    (hu : r.fillTlb r.core.ctx.part r.core.ctx.vf c.a = u) (hok : u.vaBytes u.whoT c.a 8 .wr false 1 = .ok pas) :
    ∃ t, exec .ecwExecute s = .next t ∧ t.core.eng.copy = [] ∧ t.mem = (u.ecwStored c pas).mem := by
  have hgo : (decide (c.kind = .ecw) && s.mayPublish fun d => decide (d.seq < c.seq) && d.toMem) = true := by rw [hm, decide_eq_true hk]; rfl
  have hr : ∀ d ∈ r.core.eng.copy, d.seq = c.seq := fun d h => published_alone hc (fun d => decide (d.seq < c.seq) && d.toMem) (by rw [hr0]; exact h)
  have hrg : r.core.eng.gather = [] := by rw [← hr0]; exact published_no_gather hg _
  have holder : ((r.core.eng.copy.any fun d => decide (d.seq < c.seq)) || c.all && r.core.eng.gather.any fun d => decide (d.seq < c.seq)) = false :=
    by
    rw [hrg, List.any_nil, Bool.and_false, Bool.or_false, List.any_eq_false]
    exact fun d hd => by rw [hr d hd, decide_eq_false (Nat.lt_irrefl _)]; decide
  have hxc : (u.ecwStored c pas).core.eng.copy = r.core.eng.copy := by
    have h1 : (u.copySample c).Serves (u.ecwStored c pas) := ((((u.copySample c).orderAt_serves _ _ _).trans (State.l2Engine_serves _ _ _)).trans
      (State.store_serves _ _ _ _ _)).trans (State.coverAt_serves _ _ _)
    obtain ⟨y, z, hy⟩ := u.copySample_eq c
    have h2 : (u.copySample c).core.eng.copy = u.core.eng.copy := by rw [hy]
    have h3 : u.core.eng.copy = r.core.eng.copy := by rw [← hu]; exact (r.fillTlb_serves _ _ _).1.cmds .copy
    exact ((h1.1.cmds .copy).trans h2).trans h3
  refine ⟨_, exec_ecw_eq hn hd hgo hr0 hu holder hok, ?_, rfl⟩
  change (u.ecwStored c pas).core.eng.copy.filter _ = []
  rw [hxc, List.filter_eq_nil_iff]
  exact fun d hd => by rw [hr d hd, bne_self_eq_false]; decide

/-- A finished command's entry enters the completion queue, and the command leaves (R192). -/
theorem exec_completion (h : ((s.cmds e).find? fun d => s.mayLeave d && d.done) = some c) (hq : s.core.q.ecq.length < 16) :
    ∃ t, exec (.completionEntryPush e) s = .next t ∧ t.core.q = { s.core.q with ecq := s.core.q.ecq ++ [c.entry] } ∧
      t.cmds e = (s.cmds e).filter (fun d => d.seq != c.seq) ∧ t.mem = s.mem ∧ t.core.c = s.core.c := by
  rw [show exec (.completionEntryPush e) s = execCompletionEntryPush e s from rfl, execCompletionEntryPush, h]
  dsimp only
  rw [decide_eq_false (Nat.not_le.mpr hq), cond_false]
  refine ⟨_, rfl, ?_⟩
  cases e with
  | copy =>
    obtain ⟨x, t, hx⟩ := s.leaveSamples_eq [c]
    dsimp only
    rw [hx]
    exact ⟨rfl, rfl, rfl, rfl⟩
  | gather => exact ⟨rfl, rfl, rfl, rfl⟩

theorem enginesPublishAndComplete : EnginesPublishAndComplete := fun _ _ =>
  ⟨fun hn hm => ⟨exec_enginePublish_now hn hm, fun ⟨_, hd, hq, hdue⟩ => exec_enginePublish_waits hn hm hd hq hdue⟩,
    fun hn hd hm => ⟨exec_pub hn hd hm, fun _ hk _ hc hg hok => exec_ecw hn hd hm hk hc hg rfl rfl hok⟩, fun _ h hq => exec_completion h hq⟩

end Sys2Proof.Machine

open Sys2Proof Sys2Proof.Machine Sys2Proof.Claims

/-- Settles O34: an engine's last move is one `moveOne`, after which it stops; what is injected into a command is what `whenDue` waits for. -/
theorem enginesMoveAndPublish : Obligations.EnginesMoveAndPublish := ⟨enginesMoveTheirElements, enginesPublishAndComplete⟩
end

section
/-! Migrate translations (R197, R376, R378, R404): the walk of a page that comes to the TLB counts at the L2, and a counter that wraps sends an
interrupt, which a partition that records writes to its buffer. -/

namespace Sys2Proof.Machine

/-- Partition 0 records to the page at 0, which the TLB holds; the migrate table's entry names a page of 1 GiB, the leaf of which stands in a line of the
L2; and a counter of L2 hits stands at its last value, its interrupt enabled. -/
def migrateCounted : State :=
  { State.reset with
    core := { Core.reset with
      perf := ⟨Vector.replicate 32 0 |>.set 0 (BitVec.ofNat 48 (2 ^ 48 - 1)), Vector.replicate 32 0 |>.set 0 0x310, 0⟩
      mmu := ⟨[⟨0, 0, 0, 16, 0x3f⟩], [⟨0, 0, 4, 0, 0x1001⟩, ⟨0, 0, 3, 0, 0x1001⟩]⟩
      mig := { Core.reset.mig with table := Vector.replicate 8 (some ⟨0x40000000, 5, none⟩) } }
    mem := { Mem.reset with cells := [(0x1008, 0x3f)], l2 := [⟨32, some (0, 0), false, none⟩] }
    pkg := { Pkg.reset with
      parts := Pkg.reset.parts.set 0 { Part.reset with en := true, sites := 1, repMode := 1 }
      rows := [⟨0, 0, true, false, 0⟩] } }

/-- The translation lands. -/
theorem migrateCounted_lands : migrateCounted.migLook 0x40000000 = .lands := by
  have h : (match migrateCounted.migLook 0x40000000 with | .lands => true | _ => false) = true := by decide +kernel
  revert h
  cases migrateCounted.migLook 0x40000000 with
  | lands => exact fun _ => rfl
  | flips _ | waits | drops | faults => exact fun h => nomatch h

/-- The record of its interrupt stands in memory when it has landed: three bytes of it are not 0. -/
theorem migrateCounted_records :
    (match exec (.migTranslationLands 0) migrateCounted with | .next t => t.mem.cells.length | _ => 0) = 4 := by decide +kernel

end Sys2Proof.Machine

open Sys2Proof Sys2Proof.Machine

/-- Refutes O35: the walk of a migrate translation that lands hits the L2, the counter of such hits wraps, and its interrupt is recorded in memory (R376, R378,
R404), so that a translation that lands does not leave memory's bytes as they were. -/
theorem not_migrationsAndNearBankUnitsWork : ¬ Obligations.MigrationsAndNearBankUnitsWork := by
  intro h
  obtain ⟨hmig, -⟩ := h
  obtain ⟨hland, -⟩ := (hmig migrateCounted).1 0 ⟨0x40000000, 5, none⟩ (by decide) rfl
  obtain ⟨t, ht, -, -, hcells⟩ := hland migrateCounted_lands
  have hlen := migrateCounted_records
  rw [ht] at hlen
  dsimp only at hlen
  rw [hcells] at hlen
  exact absurd hlen (by decide)
end

section
/-! Submissions and blocks (R278, R285 to R287, R357 to R360): appends, takes and polls of the rings, assignment and completion. -/

namespace Sys2Proof.Machine
open Sys2Proof.Claims

variable {s t u : State} {p : BitVec 3} {q : BitVec 6} {b c : Block}

/-! ### Appends, takes and polls -/

/-- What a task unit's write leaves: the partitions, the time, and the core but for its watch and its granules. -/
theorem taskWrite_kept (s : State) (as : List Nat) (cs : List Host.Cell) :
    (∀ r, (((s.orderLines 6 true as).unitWrite cs).part r) = s.part r) ∧ ((s.orderLines 6 true as).unitWrite cs).time = s.time ∧
      ((s.orderLines 6 true as).unitWrite cs).core.q = s.core.q ∧ ((s.orderLines 6 true as).unitWrite cs).core.c.regs = s.core.c.regs := by
  obtain ⟨o, ho⟩ := s.orderLines_eq 6 true as
  rw [ho]
  obtain ⟨_, _, _, _, e⟩ := State.unitWrite_near { s with mem := { s.mem with order := o } } cs
  refine ⟨fun r => State.unitWrite_part _ _ _, ?_, ?_, ?_⟩ <;> rw [e]

/-- The submissions that are left once the oldest has been appended. -/
def State.submitted (s : State) (rest : List (Word64 × BitVec 6)) : State := (s.setQ { s.core.q with sub := rest }).touch
theorem submitted_kept (s : State) (rest : List (Word64 × BitVec 6)) :
    (s.submitted rest).core.q = { s.core.q with sub := rest } ∧ (s.submitted rest).mem = s.mem ∧ (s.submitted rest).pkg = s.pkg ∧
      (s.submitted rest).core.c = s.core.c := ⟨rfl, rfl, rfl, rfl⟩
/-- A submission appended where its ring has room (R357). -/
theorem exec_tsubAppend {a : Word64} {rest : List (Word64 × BitVec 6)} {t h tail head e : Nat} (hsub : s.core.q.sub = (a, q) :: rest)
    (hr : s.ring s.myPart s.core.ctx.vf ((s.part s.myPart).queue q) = some (t, h, tail, head))
    (hroom : tail - head < ringSize ((s.part s.myPart).queue q).logsz)
    (he : s.ctxPa s.myPart s.core.ctx.vf (((s.part s.myPart).queue q).entry tail) = some e) (hf : s.inFlip h = false) :
    exec .tsubAppend s = .next (bif s.taskHeld (span e 8 ++ span t 8) then s else
      ((s.orderLines 6 true [e, t]).unitWrite (cellsAt e (leBytes 8 a.toNat) ++ cellsAt t (leBytes 8 (tail + 1)))).submitted rest) := by
  have happ : s.append s.myPart s.core.ctx.vf ((s.part s.myPart).queue q) a = bif s.taskHeld (span e 8 ++ span t 8) then none
      else some ((s.orderLines 6 true [e, t]).unitWrite (cellsAt e (leBytes 8 a.toNat) ++ cellsAt t (leBytes 8 (tail + 1)))) := by
    unfold State.append
    rw [hr]
    dsimp only
    rw [hf, decide_eq_false (Nat.not_le.mpr hroom), Bool.or_false, cond_false, he]
    rfl
  rw [show exec .tsubAppend s = execTsubAppend s from rfl, execTsubAppend]
  dsimp only
  rw [hsub]
  dsimp only
  rw [show s.core.ctx.part = s.myPart from rfl, happ]
  cases s.taskHeld (span e 8 ++ span t 8) <;> rfl

/-- An entry taken whose block's PRED can be read (R357, R358). -/
theorem exec_ringTake {a h e head pa : Nat} (ht : s.taken p q = some (a, h, e, head)) (hal : (BitVec.ofNat 64 e : Word64).toNat % 256 = 0) :
    let u := (s.orderLines 6 true [a, h]).unitWrite (cellsAt a (leBytes 8 0) ++ cellsAt h (leBytes 8 (head + 1)))
    (∃ pa0, u.xlate ⟨p, (s.part p).vfOf q, true⟩ (BitVec.ofNat 64 e) .rd = .ok pa0) →
    u.xlate ⟨p, (s.part p).vfOf q, true⟩ (BitVec.ofNat 64 e + 0xc4) .rd = .ok pa →
    exec (.ringTake p q) s = .next (u.setPart p { s.part p with
      blocks := (s.part p).blocks ++ [(Block.pending (BitVec.ofNat 64 e) q head).sees (u.rdNat pa 4) s.tstamp] }) := by
  rintro u ⟨pa0, h0⟩ h1
  obtain ⟨hp, htime, -, -⟩ := taskWrite_kept s [a, h] (cellsAt a (leBytes 8 0) ++ cellsAt h (leBytes 8 (head + 1)))
  rw [show exec (.ringTake p q) s = execRingTake p q s from rfl, execRingTake, ht]
  change Host.Outcome.next (u.take p ((s.part p).vfOf q) q (BitVec.ofNat 64 e) head) = _
  unfold State.take misaligned
  rw [hal]
  change Host.Outcome.next (match u.xlate ⟨p, (s.part p).vfOf q, true⟩ (BitVec.ofNat 64 e) .rd,
    u.xlate ⟨p, (s.part p).vfOf q, true⟩ (BitVec.ofNat 64 e + 0xc4) .rd with | .error f, _ => _ | _, .error f => _ | .ok _, .ok pa => _) = _
  rw [h0, h1]
  dsimp only
  rw [show u.part p = s.part p from hp p, show u.tstamp = s.tstamp from congrArg (· / 33) htime]

/-- A PRED seen: the block is ready since it was first seen at 0 (R358). -/
theorem Block.sees_fields (b : Block) (v n : Nat) :
    (b.sees v n).pred = v ∧ (b.sees v n).addr = b.addr ∧ (b.sees v n).queue = b.queue ∧ (b.sees v n).head = b.head ∧
      (b.sees v n).assigned = b.assigned ∧ (v = 0 → (b.sees v n).tw = some (b.tw.getD n)) ∧ (v ≠ 0 → (b.sees v n).tw = b.tw) := by
  unfold Block.sees
  by_cases hv : v = 0
  · subst hv
    rw [show ((0 : Nat) != 0) = false from rfl, cond_false]
    split
    · next x h => exact ⟨rfl, rfl, rfl, rfl, rfl, fun _ => h.trans (by rw [h]; rfl), fun hn => absurd rfl hn⟩
    · next h => exact ⟨rfl, rfl, rfl, rfl, rfl, fun _ => by rw [h]; rfl, fun hn => absurd rfl hn⟩
  · rw [bne_iff_ne.mpr hv, cond_true]
    exact ⟨rfl, rfl, rfl, rfl, rfl, fun h0 => absurd h0 hv, fun _ => rfl⟩

/-- A poll of a block that waits for its predecessors (R358). -/
theorem poll_reads {pa : Nat} (ha : b.assigned = false) (hf : b.failed = false)
    (hx : s.xlate ⟨p, (s.part p).vfOf b.queue, true⟩ (b.addr + 0xc4) .rd = .ok pa) (hi : s.inFlip pa = false) :
    s.poll p b = b.sees (s.rdNat pa 4) s.tstamp := by
  unfold State.poll
  rw [ha, hf, hx]
  dsimp only
  rw [hi]; rfl
theorem poll_stands (h : b.assigned = true ∨ b.failed = true) : s.poll p b = b := by
  unfold State.poll
  rw [show (b.assigned || b.failed) = true from by simpa using h]; rfl

theorem exec_predPoll (s : State) (p : BitVec 3) :
    exec (.predPoll p) s = .next (s.setPart p { s.part p with blocks := (s.part p).blocks.map (s.poll p) }) := rfl

theorem submissionsFlowThroughTheRings : SubmissionsFlowThroughTheRings := by
  refine fun s => ⟨fun a q rest t h tail head e hsub hr hroom he hf => ?_, fun p q a h e head pa ht hal h0 h1 => ?_, fun p => ?_⟩
  · have hx := exec_tsubAppend hsub hr hroom he hf
    refine ⟨fun hheld => ?_, fun hheld => by rw [hx, hheld]; rfl⟩
    intro w
    obtain ⟨-, -, hq, hregs⟩ := taskWrite_kept s [e, t] (cellsAt e (leBytes 8 a.toNat) ++ cellsAt t (leBytes 8 (tail + 1)))
    obtain ⟨k1, k2, k3, k4⟩ := submitted_kept w rest
    exact ⟨w.submitted rest, hx.trans (by rw [hheld, cond_false]), k1.trans (congrArg (fun x : Queues => { x with sub := rest }) hq), k2,
      (congrArg CStrand.regs k4).trans hregs, k3⟩
  · obtain ⟨h1', h2, h3, h4, h5, h6, h7⟩ := (Block.pending (BitVec.ofNat 64 e) q head).sees_fields
      (((s.orderLines 6 true [a, h]).unitWrite (cellsAt a (leBytes 8 0) ++ cellsAt h (leBytes 8 (head + 1)))).rdNat pa 4) s.tstamp
    refine ⟨_, exec_ringTake ht hal h0 h1, h2, h3, h4, h1', h5, ?_⟩
    split
    · next hz => exact h6 hz
    · next hz => exact h7 hz
  · obtain ⟨t, ht⟩ : ∃ t, t = s.setPart p { s.part p with blocks := (s.part p).blocks.map (s.poll p) } := ⟨_, rfl⟩
    have hp : (t.part p).blocks = (s.part p).blocks.map (s.poll p) := by rw [ht, State.part_setPart]
    refine ⟨t, (exec_predPoll s p).trans (by rw [ht]), by rw [hp, ht], by rw [hp, List.length_map], fun i b hb => ?_⟩
    have hi : (t.part p).blocks[i]? = some (s.poll p b) := by rw [hp, List.getElem?_map, hb]; rfl
    refine ⟨fun h => hi.trans (by rw [poll_stands h]), fun pa ha hf hx hfl => ?_⟩
    obtain ⟨h1, h2, -, -, -, h6, h7⟩ := b.sees_fields (s.rdNat pa 4) s.tstamp
    exact ⟨_, hi.trans (by rw [poll_reads ha hf hx hfl]), h1, h2, h6, h7⟩

/-! ### Assignment -/

/-- A record posted leaves the partition's blocks and pointers. -/
theorem post_blocks (s : State) (p : BitVec 3) (r : FaultRec) :
    ((s.post p r).part p).blocks = (s.part p).blocks ∧ ((s.post p r).part p).ptrDie = (s.part p).ptrDie := by
  have hnext : ∀ x : State, ((x.postNext p).part p).blocks = (x.part p).blocks ∧ ((x.postNext p).part p).ptrDie = (x.part p).ptrDie := fun x =>
    ⟨(congrArg Part.blocks (x.postNext_atRest p p) :), (congrArg Part.ptrDie (x.postNext_atRest p p) :)⟩
  unfold State.post
  refine cond_induction (P := fun t : State => (t.part p).blocks = _ ∧ (t.part p).ptrDie = _) (fun _ => ⟨rfl, rfl⟩) fun _ =>
    cond_induction (P := fun t : State => (t.part p).blocks = _ ∧ (t.part p).ptrDie = _) (fun _ => ?_) fun _ => ?_
  · obtain ⟨h1, h2⟩ := hnext (s.setPart p { s.part p with
      seq := (s.part p).seq + 1, posted := { r with seq := (s.part p).seq, stamp := BitVec.ofNat 64 s.tstamp } :: (s.part p).posted
      posts := (s.part p).posts ++ [some { r with seq := (s.part p).seq, stamp := BitVec.ofNat 64 s.tstamp }]
      await := bif r.await then (s.part p).await ++ [{ r with seq := (s.part p).seq, stamp := BitVec.ofNat 64 s.tstamp }] else (s.part p).await })
    rw [State.part_setPart] at h1 h2
    exact ⟨h1, h2⟩
  · obtain ⟨h1, h2⟩ := hnext (s.setPart p { s.part p with posts := (s.part p).posts ++ [none] })
    rw [State.part_setPart] at h1 h2
    exact ⟨h1, h2⟩

/-- The check at receipt reads the block's bytes, and changes nothing else of it (R278). -/
theorem receipt_block (s : State) (p : BitVec 3) (b : Block) : (s.receipt p b).1.addr = b.addr ∧ (s.receipt p b).1.queue = b.queue := by
  unfold State.receipt
  dsimp only
  split
  · exact ⟨rfl, rfl⟩
  · split <;> exact ⟨rfl, rfl⟩

/-- A chosen block on its way (R359, R360). -/
theorem exec_blockAssign {d : Nat} (hen : (s.part p).en = true) (hroom : s.hasRoom p = true)
    (hb : (s.part p).choose (s.part p).ptrDie s.tstamp (s.part p).assignable = some b) (hd : s.dieFor p = some d) :
    exec (.blockAssign p) s =
      let s := s.setPart p { s.part p with ptrDie := b.queue }
      .next (bif d != s.pkg.die.toNat then s.handOver p (s.receipt p b).1 d
        else
          match s.receipt p b with
          | (b, .good) => (s.give p b).getD s
          | (b, .bad aux cause) => s.refuse p b aux cause
          | (b, .fault src va) => s.receiptFault p b src va
          | (_, .waits) => s) := by
  rw [show exec (.blockAssign p) s = execBlockAssign p s from rfl, execBlockAssign]
  dsimp only
  rw [hen, hroom, hb, hd]
  rfl

/-- A block that is no gang and has no exception record has nothing to clear as it is given (R180, R293). -/
theorem given_alone (x : State) (m n : Nat) (hg : c.gang = false) (hx : c.excRec = 0) : (x.clearBars c m n).excZero p c = x := by
  unfold State.clearBars State.excZero
  dsimp only
  rw [hg, hx]; rfl
/-- A good block that is no gang, given to this die's clusters (R360). -/
theorem give_single (hg : c.gang = false) (hx : c.excRec = 0) (hr : s.receivers p c ≠ []) :
    let to_ := s.receivers p c
    let site := s.pkg.site.toNat
    let r := if to_.contains site then c.range (s.clusters p).length ((s.clusters p).idxOf site) else (0, 0)
    s.give p c = some (s.setPart p ((s.part p).setBlock { c with
      assigned := true, lo := r.1, hi := r.2, next := r.1 * c.inner, group0 := 0, group1 := 0,
      alone := to_.all (· == site), sole := true, mates := true, others := to_.all (· == site),
      cores := if (r.2 - r.1) * c.inner ≤ 1 then [s.pkg.core].take ((r.2 - r.1) * c.inner) else [] })) := by
  intro to_ site r
  have hheld : s.excHeld p c = false := by unfold State.excHeld; rw [hx]; rfl
  have hempty : to_.isEmpty = false := by
    cases h : to_ with
    | nil => exact absurd h hr
    | cons _ _ => rfl
  have hrange : (bif to_.contains site then c.range (s.clusters p).length ((s.clusters p).idxOf site) else (0, 0)) = r := Bool.cond_eq_ite _ _ _
  unfold State.give
  dsimp only
  rw [hheld, hg]
  change (bif false || to_.isEmpty then none else _) = _
  rw [hempty]
  change some (State.excZero (State.clearBars _ _ _ _) _ _) = _
  refine (congrArg some (given_alone _ _ _ ?_ ?_)).trans ?_
  · exact hg
  · exact hx
  · rw [hrange]
    simp only [Bool.not_false, Bool.true_or, Bool.and_true, Bool.cond_decide]
    rfl

/-- A block handed to another die is no longer pending here (R360). -/
theorem handOver_gone (s : State) (p : BitVec 3) (b : Block) (d : Nat) :
    ((s.handOver p b d).part p).ptrDie = (s.part p).ptrDie ∧
      ∀ k ∈ ((s.handOver p b d).part p).blocks, k.addr = b.addr → k.queue = b.queue → k.assigned = true := by
  unfold State.handOver
  dsimp only
  rw [State.part_setPart]
  refine ⟨rfl, fun k hk ha hq => ?_⟩
  have hf := (List.mem_filter.mp hk).2
  rw [ha, hq, bne_self_eq_false, bne_self_eq_false, Bool.or_false, Bool.or_false] at hf
  exact hf
/-- A block refused is no longer pending (R278). -/
theorem refuse_gone (s : State) (p : BitVec 3) (c : Block) (aux : Nat) (cause : BitVec 8) :
    ((s.refuse p c aux cause).part p).ptrDie = (s.part p).ptrDie ∧
      ∀ k ∈ ((s.refuse p c aux cause).part p).blocks, k.addr = c.addr → k.queue = c.queue → k.assigned = true := by
  unfold State.refuse
  dsimp only
  obtain ⟨h1, h2⟩ := post_blocks (s.setPart p { s.part p with
    blocks := (s.part p).blocks.filter fun b => b.addr != c.addr || b.queue != c.queue || b.assigned }) p
      { plainRec 0x32 c.addr (BitVec.ofNat 32 aux) (cause.setWidth 64) with block := c.addr }
  rw [h1, h2, State.part_setPart]
  refine ⟨rfl, fun k hk ha hq => ?_⟩
  have hf := (List.mem_filter.mp hk).2
  rw [ha, hq, bne_self_eq_false, bne_self_eq_false, Bool.false_or, Bool.false_or] at hf
  exact hf

/-! ### Completion -/

theorem exec_blockComplete {blk : Word64} (h : (allParts.findSome? fun q => (s.complete q blk).map fun d => (q, d)) = some (p, b)) :
    exec (.blockComplete blk) s = .next (bif !b.failed && s.completeHeld p b then s
      else bif b.failed then
        s.setPart p { s.part p with blocks := (s.part p).blocks.filter fun d => !(d.addr == blk && d.queue == b.queue && d.failed) }
      else s.completeBlock p b) := by
  rw [show exec (.blockComplete blk) s = execBlockComplete blk s from rfl, execBlockComplete, h]
theorem doneNow_blocks (x : Part) (n : BitVec 6) (t : Nat) : (x.doneNow n t).blocks = x.blocks := rfl
/-- A block with no successor only stores its value, and leaves (R286). -/
theorem completeBlock_alone {pa : Nat} (hg : b.gang = false) (hn : b.nsucc = 0) (hd : b.doneAddr ≠ 0)
    (hpa : s.diePa p ((s.part p).vfOf b.queue) b.doneAddr .wr = some pa) :
    let u := (s.orderAt 6 true pa).unitStore (cellsAt pa (leBytes 8 b.doneVal))
    s.completeBlock p b = u.setPart p { (u.part p).doneNow b.queue u.tstamp with
      blocks := (u.part p).blocks.filter fun d => d.addr != b.addr || d.queue != b.queue || !d.assigned } := by
  intro u
  have hs : s.doneStore p ((s.part p).vfOf b.queue) b = u := by
    unfold State.doneStore
    rw [beq_eq_false_iff_ne.mpr hd, hpa]; rfl
  unfold State.completeBlock
  dsimp only
  rw [hg, hn, cond_false, hs, List.range_zero, List.foldl_nil, doneNow_blocks]

theorem blocksAreAssignedAndComplete : BlocksAreAssignedAndComplete := by
  refine fun p s b c => ⟨fun d hen hroom hb hd => ?_, fun h => ⟨fun hf => ?_, fun pa hf hg hn hda hpa hheld => ?_⟩⟩
  · intro u site
    have hx := exec_blockAssign hen hroom hb hd
    have hptr : (u.part p).ptrDie = b.queue := by rw [show u.part p = { s.part p with ptrDie := b.queue } from s.part_setPart p _]
    obtain ⟨ha, hq⟩ := receipt_block u p b
    refine ⟨fun hne => ?_, fun he hgood hg hxr hr => ?_, fun aux cause he hbad => ?_⟩
    · obtain ⟨h1, h2⟩ := handOver_gone u p (u.receipt p b).1 d
      refine ⟨_, hx.trans (by dsimp only; rw [show (d != (s.setPart p { s.part p with ptrDie := b.queue }).pkg.die.toNat) = true from bne_iff_ne.mpr
        hne]
                              rfl), h1.trans hptr, fun k hk hka hkq => h2 k hk (hka.trans ha.symm) (hkq.trans hq.symm)⟩
    · intro to_ r
      rw [hx]
      dsimp only
      rw [show (d != (s.setPart p { s.part p with ptrDie := b.queue }).pkg.die.toNat) = false from by rw [he]; exact bne_self_eq_false _]
      change Host.Outcome.next (match u.receipt p b with
        | (b, .good) => (u.give p b).getD u | (b, .bad aux cause) => u.refuse p b aux cause
        | (b, .fault src va) => u.receiptFault p b src va | (_, .waits) => u) = _
      rw [hgood]
      dsimp only
      rw [give_single hg hxr hr, show u.clusters p = s.clusters p from by unfold State.clusters; rw [show u.part p = _ from s.part_setPart p _]; rfl]
      rfl
    · obtain ⟨h1, h2⟩ := refuse_gone u p c aux cause
      refine ⟨_, ?_, h1.trans hptr, h2⟩
      rw [hx]
      dsimp only
      rw [show (d != (s.setPart p { s.part p with ptrDie := b.queue }).pkg.die.toNat) = false from by rw [he]; exact bne_self_eq_false _]
      change Host.Outcome.next (match u.receipt p b with
        | (b, .good) => (u.give p b).getD u | (b, .bad aux cause) => u.refuse p b aux cause
        | (b, .fault src va) => u.receiptFault p b src va | (_, .waits) => u) = _
      rw [hbad]
  · rw [exec_blockComplete h, hf]; rfl
  · rw [exec_blockComplete h, hf, hheld, completeBlock_alone hg hn hda hpa]; rfl

end Sys2Proof.Machine

open Sys2Proof Sys2Proof.Machine Sys2Proof.Claims

/-- Settles O36: an append or a take is one unit write beside which the partitions stand, and a block goes on by its check's answer. -/
theorem submissionsBecomeAssignedBlocks : Obligations.SubmissionsBecomeAssignedBlocks :=
  ⟨submissionsFlowThroughTheRings, blocksAreAssignedAndComplete⟩
end

section
/-! Steps placed and started (R22, R42, R279 to R284, R363): the prologue, the filling of a slot, and the start of a step. -/

namespace Sys2Proof.Machine
open Sys2Proof.Claims

variable {s t u : State} {p : BitVec 3} {b c : Block} {l l' : ShadowSlot}

/-! ### The prologue -/

/-- A computation that answers has answered at each of its parts. -/
theorem bind_ok {ε α β : Type} {x : Except ε α} {f : α → Except ε β} {b : β} (h : (x >>= f) = .ok b) : ∃ a, x = .ok a ∧ f a = .ok b := by
  cases x with
  | error _ => cases h
  | ok a => exact ⟨a, rfl, h⟩

/-- A prologue that ends makes its slot's step runnable, and does not change which step it is (R282). -/
theorem prologue_runnable (h : s.prologue l = .ok l') : l'.stage = .runnable ∧ l'.id = l.id := by
  unfold State.prologue at h
  obtain ⟨_, -, h⟩ := bind_ok h
  obtain ⟨_, -, h⟩ := bind_ok h
  obtain ⟨_, -, h⟩ := bind_ok h
  obtain ⟨_, -, h⟩ := bind_ok h
  cases h
  exact ⟨rfl, rfl⟩

/-- A prologue that ends. -/
theorem runPrologue_ok {n : Nat} (h : (s.owe l.part l.id.queue).prologue l = .ok l') :
    s.runPrologue n l =
      let u := (s.owe l.part l.id.queue).stageCounts l'
      u.setCtx { u.core.ctx with slots := u.core.ctx.slots.set n l' } := by
  unfold State.runPrologue
  dsimp only
  rw [h]

theorem exec_stepPlace_staging {n : Nat} (h : s.stagingSlot = some (n, l)) : exec .stepPlace s = .next (s.runPrologue n l) := by
  rw [show exec .stepPlace s = execStepPlace s from rfl, execStepPlace, h]
theorem exec_stepPlace_fill {n : Nat} (h : s.stagingSlot = none) (hp : s.mayFill = some p) (hs : (s.fillSlot p).stagingSlot = some (n, l)) :
    exec .stepPlace s = .next ((s.fillSlot p).runPrologue n l) := by
  rw [show exec .stepPlace s = execStepPlace s from rfl, execStepPlace, h, hp]
  dsimp only
  rw [hs]

/-! ### The filling of a slot -/

/-- Steps have been put into slots, and chxdbg shown them; nothing else but the debugger's state has changed. -/
def State.Slotted (s t : State) (ls : List ShadowSlot) : Prop := t.pkg = s.pkg ∧ t.mem = s.mem ∧ t.time = s.time ∧ t.core.ctx.slots =
  s.core.ctx.slots ++ ls

theorem State.Slotted.refl (s : State) : s.Slotted s [] := ⟨rfl, rfl, rfl, (List.append_nil _).symm⟩
theorem State.Slotted.trans {k m : List ShadowSlot} (h : s.Slotted t k) (g : t.Slotted u m) : s.Slotted u (k ++ m) := by
  obtain ⟨h1, h2, h3, h4⟩ := h
  obtain ⟨g1, g2, g3, g4⟩ := g
  exact ⟨g1.trans h1, g2.trans h2, g3.trans h3, by rw [g4, h4, List.append_assoc]⟩
theorem State.Slotted.part {k : List ShadowSlot} (h : s.Slotted t k) (q : BitVec 3) : t.part q = s.part q := by
  unfold State.part; rw [h.1]

/-- A step handed to its core in a partition that neither records nor replays (R404). -/
theorem handStep_unrecorded (h : (s.part p).repMode = 0) (n : Nat) (core : Word32) (put : State → State) :
    s.handStep p b n core put = put (s.show [0x101, b.addr.toNat, n, (vget (b.castOn n).k 0 0).toNat, core.toNat]) := by
  unfold State.handStep
  dsimp only
  rw [h, State.record_quiet _ _ _ _ _ (by rw [h]; decide)]
  rfl

/-- One member of a gang at its core: a slot of this core's takes it where the core is this one (R284). -/
theorem gangMember_slotted (h : (s.part p).repMode = 0) (n : Nat) (core : BitVec 3) :
    s.Slotted (s.handStep p b n (s.peerNum core) fun s => bif core == s.pkg.core then s.pushSlot (slotOf (s.part p) p b n) else s)
      (if core = s.pkg.core then [slotOf (s.part p) p b n] else []) := by
  rw [handStep_unrecorded h]
  change s.Slotted (bif core == s.pkg.core then _ else _) _
  by_cases hc : core = s.pkg.core
  · rw [if_pos hc, beq_iff_eq.mpr hc]; exact ⟨rfl, rfl, rfl, rfl⟩
  · rw [if_neg hc, beq_eq_false_iff_ne.mpr hc]; exact ⟨rfl, rfl, rfl, (List.append_nil _).symm⟩

/-- The members of a gang's share, each at its core (R284). -/
theorem gangMembers_slotted (steps : List (Nat × BitVec 3)) (h : (s.part p).repMode = 0) :
    s.Slotted (steps.foldl (fun s x => s.handStep p b (b.next + x.1) (s.peerNum x.2)
        fun s => bif x.2 == s.pkg.core then s.pushSlot (slotOf (s.part p) p b (b.next + x.1)) else s) s)
      ((steps.filter fun x => x.2 == s.pkg.core).map fun x => slotOf (s.part p) p b (b.next + x.1)) := by
  induction steps generalizing s with
  | nil => exact .refl s
  | cons x xs ih =>
    have h1 := gangMember_slotted (b := b) h (b.next + x.1) x.2
    have h2 := ih (s := s.handStep p b (b.next + x.1) (s.peerNum x.2) fun s => bif x.2 == s.pkg.core then
      s.pushSlot (slotOf (s.part p) p b (b.next + x.1)) else s) (by rw [h1.part]; exact h)
    rw [h1.part, h1.1] at h2
    have h3 := h1.trans h2
    rw [List.foldl_cons]
    refine ⟨h3.1, h3.2.1, h3.2.2.1, h3.2.2.2.trans (congrArg (s.core.ctx.slots ++ ·) ?_)⟩
    by_cases hc : x.2 = s.pkg.core
    · rw [if_pos hc, List.filter_cons, if_pos (beq_iff_eq.mpr hc)]; rfl
    · rw [if_neg hc, List.filter_cons, if_neg (mt beq_iff_eq.mp hc)]; rfl

/-- The chosen candidate is one of the candidates (R359). -/
theorem choose_mem {x : Part} {ptr : BitVec 6} {now : Nat} {bs : List Block} (h : x.choose ptr now bs = some b) : b ∈ bs := by
  induction bs generalizing b with
  | nil => cases h
  | cons a t ih =>
    unfold Part.choose at h
    split at h
    · cases h; exact List.mem_cons_self
    · next d hd =>
      rw [Bool.cond_eq_ite] at h
      split at h
      · cases h; exact List.mem_cons_of_mem _ (ih hd)
      · cases h; exact List.mem_cons_self

/-- The block whose next step fills the slot when no guard has freed the core and no step of it comes back. -/
theorem fillSlot_next (hg : (s.candidates p).find? (·.guarded) = none)
    (hb : (s.part p).choose (s.part p).ptrCl s.tstamp (s.candidates p) = some b) (hs : s.savedOf p b.mine = none) (hk : s.backOf p b.mine = none) :
    s.fillSlot p = s.placeNext p b ∧ b.guarded = false := by
  have hchosen : s.chosen p = some b := by
    unfold State.chosen
    dsimp only
    rw [hg]; exact hb
  refine ⟨?_, ?_⟩
  · unfold State.fillSlot
    rw [hchosen]
    dsimp only
    unfold State.fillBack
    rw [hs, hk]
    rfl
  · have := List.find?_eq_none.mp hg b (choose_mem hb)
    simpa using this

/-- The next step of a block that is no gang in an empty slot (R279). -/
theorem placeNext_single (h : (s.part p).repMode = 0) (hgu : b.guarded = false) (hg : b.gang = false) :
    (s.placeNext p b).mem = s.mem ∧ (s.placeNext p b).core.ctx.slots = s.core.ctx.slots ++ [placedStep s p b b.next] ∧
      (s.placeNext p b).part p = { (s.part p).setBlock { b with next := b.next + 1, tw := some s.tstamp } with ptrCl := b.queue } := by
  unfold State.placeNext
  rw [hg, cond_false, handStep_unrecorded h]
  refine ⟨rfl, rfl, ?_⟩
  unfold State.placedOf
  dsimp only
  rw [State.part_setPart, hgu]
  rfl

/-- A gang's share as a whole (R284). -/
theorem placeNext_gang (h : (s.part p).repMode = 0) (hg : b.gang = true) (hf : b.fits = true) :
    (s.placeNext p b).mem = s.mem ∧ (s.placeNext p b).core.ctx.slots = s.core.ctx.slots ++
      (((List.range (b.past - b.next)).zip b.cores).filter fun x => x.2 == s.pkg.core).map fun x => placedStep s p b (b.next + x.1) := by
  unfold State.placeNext
  rw [hg, hf, cond_true, cond_true]
  unfold State.placeGang
  dsimp only
  split
  · next he =>
    rw [List.map_eq_nil_iff.mp he]
    exact ⟨rfl, (List.append_nil _).symm⟩
  · next x _ _ =>
    rw [h]
    obtain ⟨h1, h2, h3, h4⟩ := gangMembers_slotted (b := b) ((List.range (b.past - b.next)).zip b.cores) h
    exact ⟨h2, h4⟩

/-! ### The start of a step -/

theorem swTrace_dbg (s : State) (p : BitVec 3) (what : String) (args : List Nat) : ∃ d, s.swTrace p what args = s.setDbg d := by
  unfold State.swTrace
  split
  · exact cond_induction (P := fun t : State => ∃ d, t = s.setDbg d) (fun _ => ⟨_, rfl⟩) fun _ => ⟨s.core.dbg, rfl⟩
  · exact ⟨s.core.dbg, rfl⟩
theorem tensionOf_nil (n : Nat) : tensionOf [] n = (Tension.zero, ⟨[], false, []⟩) := by
  unfold tensionOf
  dsimp only
  rw [List.isEmpty_nil, Bool.or_true, cond_true]
theorem unguard_kept (s : State) (l : ShadowSlot) :
    (s.unguard l).core = s.core ∧ (s.unguard l).mem = s.mem ∧ ∀ q, ((s.unguard l).part q).saved = (s.part q).saved ∧ ((s.unguard l).part q).vfs =
      (s.part q).vfs := by
  unfold State.unguard
  split
  · refine cond_induction (P := fun t : State => t.core = s.core ∧ t.mem = s.mem ∧ ∀ q, (t.part q).saved = (s.part q).saved ∧ (t.part q).vfs =
      (s.part q).vfs)
      (fun _ => ⟨rfl, rfl, fun q => ⟨State.setPart_congr Part.saved _ _ _ _ rfl, State.setPart_congr Part.vfs _ _ _ _ rfl⟩⟩)
      fun _ => ⟨rfl, rfl, fun _ => ⟨rfl, rfl⟩⟩
  · exact ⟨rfl, rfl, fun _ => ⟨rfl, rfl⟩⟩

/-- What a step finds of the core at its start. -/
def Core.begins (k : Core) : (Option StepId × List ShadowSlot × Bool × Bool) × (CStrand × LSStrand × LSStrand × Word64 × Vector Word32 16) ×
    Queues × List Host.Cell × Vector Word32 12 :=
  ((k.ctx.running, k.ctx.slots, k.trap.mode, k.trap.frz), (k.c, k.l, k.s, k.v.pc, k.v.regs), k.q, k.pool.cells, k.fpc)
theorem swTrace_begins (s : State) (p : BitVec 3) (what : String) (args : List Nat) : (s.swTrace p what args).core.begins = s.core.begins := by
  obtain ⟨d, h⟩ := swTrace_dbg s p what args
  rw [h]; rfl

/-- What a step of a block without sensitivities and copied operands finds at its start (R22). -/
theorem startStep_begins (ht : l.table = []) (hc : l.copies = []) :
    (s.startStep l).core.begins = ((some l.id, s.core.ctx.slots, false, false),
      (CStrand.atStart l.cast, LSStrand.atStart l.cast (vget l.cast.pcs 1 0), LSStrand.atStart l.cast (vget l.cast.pcs 3 0), vget l.cast.pcs 2 0,
        kRegs l.cast), Queues.empty, [], Vector.replicate 12 0) := by
  unfold State.startStep
  dsimp only
  rw [ht, hc, tensionOf_nil, List.foldl_nil]
  have hlook : ∀ x : State, x.lookAhead.core.begins = x.core.begins := fun _ => rfl
  have hunmet : ∀ x : State, x.unmetCause false = x := fun _ => rfl
  rw [List.isEmpty_nil, Bool.not_true, hunmet, hlook]
  refine cond_induction (P := fun t : State => t.core.begins = _) (fun _ => ?_) fun _ => ?_
  · exact (swTrace_begins _ _ _ _).trans rfl
  · exact (swTrace_begins _ _ _ _).trans rfl

theorem exec_stepStart (hf : s.coreFree = true) (hl : s.nextStart = some l) :
    exec .stepStart s = .next (
      let s := s.setCtx { s.core.ctx with slots := s.core.ctx.slots.erase l }
      match l.stage with
      | .refused tval =>
        let s := s.setCtx { s.core.ctx with part := l.part, vf := l.vf, prev := none }
        s.takeTrapNoStep .caston 0x12 tval 0 (((s.part l.part).vf l.vf).tvecw &&& ~~~3) s.core.trap.tqocc
      | .restored =>
        let s := s.unguard l
        match (s.part l.part).saved.find? fun z => z.ctx.running == some l.id && z.vf == l.vf with
        | some z => (s.setPart l.part { s.part l.part with saved := (s.part l.part).saved.erase z }).restoreStep z
        | none => s
      | _ => (s.unguard l).startStep l) := by
  rw [show exec .stepStart s = execStepStart s from rfl, execStepStart, hf, hl]
  rfl

/-- Registers x1 to x6 and y1 to y6 hold k0 to k5 (R22). -/
theorem kRegs_get {w n : Nat} (c : CastOn) (i : Nat) (hi : i < n) :
    (kRegs c : Vector (BitVec w) n)[i] = if 1 ≤ i ∧ i ≤ 6 then (vget c.k (i - 1) 0).setWidth w else 0 := by
  unfold kRegs
  rw [Vector.getElem_ofFn]
  exact Bool.cond_decide _ _ _
theorem xRead_atStart {k : CastOn} (hm : s.core.trap.mode = false) (hq : s.core.q = Queues.empty) (hc : s.core.c = CStrand.atStart k) (r : XReg) :
    s.xRead r = if 1 ≤ r.toNat ∧ r.toNat ≤ 6 then (vget k.k (r.toNat - 1) 0).setWidth 64 else 0 := by
  unfold State.xRead State.sup
  rw [hm, hq, hc]
  by_cases h0 : r = 0
  · subst h0; rfl
  · rw [if_neg h0]
    by_cases hp : 24 ≤ r.toNat ∧ r.toNat ≤ 29
    · have hn : ¬(1 ≤ r.toNat ∧ r.toNat ≤ 6) := by omega
      rw [if_pos hp, cond_false, if_neg hn]
      split
      · rfl
      · split <;> rfl
    · rw [if_neg hp]
      exact kRegs_get k r.toNat r.isLt
theorem yRead_atStart {k : CastOn} (hq : s.core.q = Queues.empty) (y : YReg) (j : Strand) (hf : s.yFile j = kRegs k) :
    s.yRead j y = if 1 ≤ y.toNat ∧ y.toNat ≤ 6 then vget k.k (y.toNat - 1) 0 else 0 := by
  unfold State.yRead
  rw [hf]
  by_cases h0 : y = 0
  · subst h0; rfl
  · rw [if_neg h0]
    by_cases h12 : y = 12
    · subst h12
      have : s.qOf j = [] := by unfold State.qOf; rw [hq]; cases j <;> rfl
      rw [this]; rfl
    · rw [if_neg h12]
      exact (kRegs_get k y.toNat y.isLt).trans (by rw [BitVec.setWidth_eq])

/-- A runnable step starts (R22, R283). -/
theorem exec_stepStart_runnable (hf : s.coreFree = true) (hl : s.nextStart = some l) (hst : l.stage = .runnable) (ht : l.table = []) (hc : l.copies =
    []) :
    ∃ t, exec .stepStart s = .next t ∧ t.core.ctx.running = some l.id ∧ t.core.ctx.slots = s.core.ctx.slots.erase l ∧
      t.core.trap.mode = false ∧ t.core.trap.frz = false ∧ t.core.c.run = .ready ∧ t.core.c.pc = vget l.cast.pcs 0 0 ∧
      t.core.l.pc = vget l.cast.pcs 1 0 ∧ t.core.v.pc = vget l.cast.pcs 2 0 ∧ t.core.s.pc = vget l.cast.pcs 3 0 ∧
      t.core.q = Queues.empty ∧ t.core.pool.cells = [] ∧ t.core.fpc = Vector.replicate 12 0 ∧
      (∀ r : XReg, t.xRead r = if 1 ≤ r.toNat ∧ r.toNat ≤ 6 then (vget l.cast.k (r.toNat - 1) 0).setWidth 64 else 0) ∧
      (∀ (k : Strand) (y : YReg), k ≠ .c → t.yRead k y = if 1 ≤ y.toNat ∧ y.toNat ≤ 6 then vget l.cast.k (y.toNat - 1) 0 else 0) := by
  obtain ⟨hk, -, -⟩ := unguard_kept (s.setCtx { s.core.ctx with slots := s.core.ctx.slots.erase l }) l
  have hb := startStep_begins (s := (s.setCtx { s.core.ctx with slots := s.core.ctx.slots.erase l }).unguard l) ht hc
  refine ⟨((s.setCtx { s.core.ctx with slots := s.core.ctx.slots.erase l }).unguard l).startStep l, ?_, ?_⟩
  · rw [exec_stepStart hf hl]
    dsimp only
    rw [hst]
  · generalize ((s.setCtx { s.core.ctx with slots := s.core.ctx.slots.erase l }).unguard l).startStep l = t at hb
    rw [hk] at hb
    simp only [Core.begins, Prod.mk.injEq] at hb
    obtain ⟨⟨h1, h2, h3, h4⟩, ⟨h5, h6, h7, h8, h9⟩, h10, h11, h12⟩ := hb
    refine ⟨h1, h2, h3, h4, by rw [h5]; rfl, by rw [h5]; rfl, by rw [h6]; rfl, h8, by rw [h7]; rfl, h10, h11, h12, xRead_atStart h3 h10 h5, ?_⟩
    intro k y hk
    refine yRead_atStart h10 y k ?_
    cases k with
    | c => exact absurd rfl hk
    | l => exact (congrArg LSStrand.regs h6 :)
    | v => exact h9
    | s => exact (congrArg LSStrand.regs h7 :)

/-- A refused step's cause is taken (R42, R283). -/
theorem exec_stepStart_refused {tval : Word64} (hf : s.coreFree = true) (hl : s.nextStart = some l) (hst : l.stage = .refused tval) :
    ∃ t, exec .stepStart s = .next t ∧ t.core.ctx.slots = s.core.ctx.slots.erase l ∧ t.core.trap.cause = 0x12 ∧ t.core.trap.tval = tval ∧
      t.core.trap.mode = true ∧ t.core.trap.pm = false ∧ t.core.trap.tfpc = 0 ∧ t.core.trap.noStep = .caston ∧
      t.core.c.pc = (((s.part l.part).vf l.vf).tvecw &&& ~~~3) := by
  rw [exec_stepStart hf hl]
  dsimp only
  rw [hst]
  exact ⟨_, rfl, rfl, rfl, rfl, rfl, rfl, rfl, rfl, rfl⟩

/-- The core with a saved step's context (R363). -/
def Core.withSaved (k : Core) (z : Saved) : Core :=
  { k with
    c := z.c, l := z.l, s := z.s, v := z.v, q := z.q, trap := { z.trap with dog := 0 }
    csr := { z.csr with cycle := k.csr.cycle, tick := z.csr.tick, drLevel := k.csr.drLevel, drMt := k.csr.drMt, permit := k.csr.permit,
                        half := k.csr.half, str := k.csr.str }
    pool := { k.pool with cells := z.pool, epoch := z.epoch }, l1 := k.l1For z.csr.pb
    str := z.str, arr := z.arr, eng := z.eng, mig := z.mig, ten := z.ten
    nb := { k.nb with slots := z.nbSlots, records := z.nbRecs, cmds := k.nb.cmds ++ z.nbCmds, faultVa := z.nbFaultVa }
    fpc := z.fpc
    ctx := { z.ctx with slots := k.ctx.slots }
    dbg := { k.dbg with bank := z.bank } }
/-- A saved step's context comes back, before what its cut still has to do (R363). -/
def State.restored (s : State) (z : Saved) : State :=
  State.nbTrace (State.owe { s with core := s.core.withSaved z } z.part (State.payer { s with core := s.core.withSaved z })) "restore"
theorem restoreStep_eq (s : State) (z : Saved) : s.restoreStep z = bif z.atCut then (s.restored z).laterItems else s.restored z := rfl

theorem nbTrace_dbg (s : State) (w : String) : ∃ d, s.nbTrace w = s.setDbg d := by
  unfold State.nbTrace State.nbLine
  refine cond_induction (P := fun t : State => ∃ d, t = s.setDbg d) (fun _ => ⟨s.core.dbg, rfl⟩) fun _ => ?_
  exact cond_induction (P := fun t : State => ∃ d, t = s.setDbg d) (fun _ => ⟨_, rfl⟩) fun _ => ⟨s.core.dbg, rfl⟩
theorem owe_kept (s : State) (p : BitVec 3) (q : Option (BitVec 6)) : (s.owe p q).core = s.core ∧ (s.owe p q).mem = s.mem :=
  cond_induction (P := fun t : State => t.core = s.core ∧ t.mem = s.mem) (fun _ => ⟨rfl, rfl⟩) fun _ => ⟨rfl, rfl⟩

/-- What comes back of a saved step. -/
theorem restored_state (s : State) (z : Saved) :
    (s.restored z).core.c = z.c ∧ (s.restored z).core.l = z.l ∧ (s.restored z).core.v = z.v ∧ (s.restored z).core.s = z.s ∧
      (s.restored z).core.q = z.q ∧ (s.restored z).core.str = z.str ∧ (s.restored z).core.arr = z.arr ∧ (s.restored z).core.eng = z.eng ∧
      (s.restored z).core.ten = z.ten ∧ (s.restored z).core.pool.cells = z.pool ∧ (s.restored z).core.ctx.running = z.ctx.running ∧
      (s.restored z).core.csr.tick = z.csr.tick ∧ (s.restored z).core.csr.cycle = s.core.csr.cycle ∧ (s.restored z).mem = s.mem := by
  have key : ∃ d, (s.restored z).core = { s.core.withSaved z with dbg := d } ∧ (s.restored z).mem = s.mem := by
    obtain ⟨d, hd⟩ := nbTrace_dbg (State.owe { s with core := s.core.withSaved z } z.part (State.payer { s with core := s.core.withSaved z }))
      "restore"
    obtain ⟨hc, hm⟩ := owe_kept { s with core := s.core.withSaved z } z.part (State.payer { s with core := s.core.withSaved z })
    refine ⟨d, ?_, ?_⟩
    · exact (congrArg State.core hd).trans (congrArg (fun k : Core => { k with dbg := d }) hc)
    · exact (congrArg State.mem hd).trans hm
  obtain ⟨d, hd, hm⟩ := key
  rw [hd]
  exact ⟨rfl, rfl, rfl, rfl, rfl, rfl, rfl, rfl, rfl, rfl, rfl, rfl, rfl, hm⟩

/-- A saved step comes back (R363). -/
theorem exec_stepStart_restored {z : Saved} (hf : s.coreFree = true) (hl : s.nextStart = some l) (hst : l.stage = .restored)
    (hz : ((s.part l.part).saved.find? fun z => z.ctx.running == some l.id && z.vf == l.vf) = some z) :
    ∃ t : State, exec .stepStart s = .next (if z.atCut then t.laterItems else t) ∧ t.core.c = z.c ∧ t.core.l = z.l ∧ t.core.v = z.v ∧
      t.core.s = z.s ∧ t.core.q = z.q ∧ t.core.str = z.str ∧ t.core.arr = z.arr ∧ t.core.eng = z.eng ∧ t.core.ten = z.ten ∧
      t.core.pool.cells = z.pool ∧ t.core.ctx.running = z.ctx.running ∧ t.core.csr.tick = z.csr.tick ∧ t.core.csr.cycle = s.core.csr.cycle ∧
      t.mem = s.mem := by
  obtain ⟨hk, hm, hp⟩ := unguard_kept (s.setCtx { s.core.ctx with slots := s.core.ctx.slots.erase l }) l
  generalize hu : (s.setCtx { s.core.ctx with slots := s.core.ctx.slots.erase l }).unguard l = u at hk hm hp
  obtain ⟨h1, h2, h3, h4, h5, h6, h7, h8, h9, h10, h11, h12, h13, h14⟩ :=
    restored_state (u.setPart l.part { u.part l.part with saved := (u.part l.part).saved.erase z }) z
  refine ⟨State.restored (u.setPart l.part { u.part l.part with saved := (u.part l.part).saved.erase z }) z, ?_, h1, h2, h3, h4, h5, h6, h7, h8, h9,
    h10, h11, h12,
    h13.trans ?_, h14.trans hm⟩
  · rw [exec_stepStart hf hl]
    dsimp only
    rw [hst]
    dsimp only
    rw [hu]
    have hz' : ((u.part l.part).saved.find? fun z => z.ctx.running == some l.id && z.vf == l.vf) = some z := by rw [(hp l.part).1]; exact hz
    rw [hz']
    dsimp only
    rw [restoreStep_eq, Bool.cond_eq_ite]
  · change u.core.csr.cycle = _
    rw [hk]; rfl

end Sys2Proof.Machine

open Sys2Proof Sys2Proof.Machine Sys2Proof.Claims

/-- Settles O37: a slot is filled by the chosen block's next step, and a step starts with the core that its record, or its saved context, describes. -/
theorem stepsArePlacedAndStart : Obligations.StepsArePlacedAndStart := by
  refine fun s => ⟨?_, ?_, fun p b hr hg hb hsv hbk => ?_, fun hf l hl => ⟨?_, ?_, ?_⟩⟩
  · intro n l l' hs o ho u
    obtain ⟨h1, h2⟩ := prologue_runnable ho
    exact ⟨by rw [exec_stepPlace_staging hs, runPrologue_ok ho], h1, h2⟩
  · intro p n l l' hs hp u o hu ho w
    rw [exec_stepPlace_fill hs hp hu, runPrologue_ok ho]
  · obtain ⟨hfill, hgu⟩ := fillSlot_next hg hb hsv hbk
    intro t
    change t = s.placeNext p b at hfill
    rw [hfill]
    cases hgang : b.gang with
    | false =>
      obtain ⟨h1, h2, h3⟩ := placeNext_single hr hgu hgang
      exact ⟨h1, fun _ => ⟨h2, h3⟩, fun h => absurd h (by decide), fun h => absurd h (by decide)⟩
    | true =>
      cases hfit : b.fits with
      | false =>
        have hsame : s.placeNext p b = s := by unfold State.placeNext; rw [hgang, hfit]; rfl
        rw [hsame]
        exact ⟨rfl, fun h => absurd h (by decide), fun _ _ => rfl, fun _ h => absurd h (by decide)⟩
      | true =>
        obtain ⟨h1, h2⟩ := placeNext_gang hr hgang hfit
        exact ⟨h1, fun h => absurd h (by decide), fun _ h => absurd h (by decide), fun _ _ => h2⟩
  · exact fun hst ht hc => exec_stepStart_runnable hf hl hst ht hc
  · exact fun tval hst => exec_stepStart_refused hf hl hst
  · exact fun z hst hz => exec_stepStart_restored hf hl hst hz
end

section
/-! Steps that end and leave (R23, R179, R350, R361 to R365): the bind-off bundle, the starvation guard, a step saved and a step abandoned. -/

namespace Sys2Proof.Machine
open Sys2Proof.Claims

variable {s t u : State} {p : BitVec 3} {b : Block} {id : StepId}

/-! ### The bind-off bundle -/

/-- Of the core, what a step's end shows and what its traps hold: the queues, the commands and the traps. -/
def Core.leaving (k : Core) : Queues × Trap × List Cmd × List Cmd × List NbCmd := (k.q, k.trap, k.eng.copy, k.eng.gather, k.nb.cmds)

theorem Core.Served.leaving {a b : Core} (h : a.Served b) : b.leaving = a.leaving := by
  obtain ⟨_, _, _, _, _, _, _, _, rfl⟩ := h
  rfl
theorem bankFence_leaving (s : State) : s.bankFence.core.leaving = s.core.leaving := by
  rw [s.bankFence_near.serves.1.leaving, s.bankPlaced_core]; rfl
theorem excAdd_serves (s : State) (p : BitVec 3) (va : Word64) (pa i : Nat) (n : Word32) : s.Serves (s.excAdd p va pa i n) :=
  ((s.orderAt_serves _ _ _).trans (State.rmwFirst_serves _ _)).trans ((State.unitStore_serves _ _).trans
    (.cond (State.msi_serves _ _ _ _ _) (.rfl' _)))
theorem excCounts_serves (s : State) (p : BitVec 3) (b : Block) (n : Vector Word32 12) : s.Serves (s.excCounts p b n) := by
  unfold State.excCounts
  refine .cond (.rfl' s) ?_
  dsimp only
  split
  · exact .foldl (fun x i => excAdd_serves x _ _ _ _ _) _ s
  · exact .cond (.rfl' s) ((State.Serves.of_eq rfl rfl).trans (State.post_serves _ _ _))
theorem stepCounts_serves (s : State) : s.Serves s.stepCounts := by
  unfold State.stepCounts
  dsimp only
  split
  · split
    · exact .cond (.of_eq rfl rfl) (excCounts_serves _ _ _ _)
    · exact .rfl' s
  · exact .rfl' s

theorem publishCells_serves (s : State) (cs : List Host.Cell) (weight : Bool) :
    ∃ w, (s.setEng { s.core.eng with wstore := w }).Serves (s.publishCells cs weight) := by
  refine ⟨?w, ?h⟩
  case h =>
    unfold State.publishCells
    dsimp only
    refine State.Serves.trans (State.Serves.trans (State.Serves.trans (State.Serves.trans ?_ (State.memWrite_serves _ _ _ _ _))
      (State.coverAt_serves _ _ _))
      (.foldl (fun x l => x.memRec_serves _ _) _ _)) (State.count_serves _ _ _)
    exact .foldl (fun x l => (x.orderAt_serves _ _ _).trans (State.l2Engine_serves _ _ _)) _ _

/-- The machine with the ending step's writes made and its counts added (R23, R179, R199). -/
def State.settled (s : State) : State := (s.flushStore.bankFence.publishCells s.flushStore.bankFence.core.eng.wstore true).stepCounts
theorem settled_leaving (s : State) : s.settled.core.leaving = s.core.leaving := by
  unfold State.settled
  rw [(stepCounts_serves _).1.leaving]
  have hp : ∀ (x : State) (cs : List Host.Cell), (x.publishCells cs true).core.leaving = x.core.leaving := fun x cs => by
    obtain ⟨w, ⟨_, _, _, _, _, _, _, _, e⟩, -⟩ := publishCells_serves x cs true
    rw [e]; rfl
  rw [hp, bankFence_leaving, s.flushStore_served.leaving]

/-- The ended step off the core (R23). -/
def State.stepOver (s : State) : State :=
  let k := s.core
  let prev := match k.ctx.running, k.ten.held with
    | some i, some h => bif i.queue.isSome then some (i, k.ctx.part, h.demand) else none
    | _, _ => none
  State.acked { s with core := { k with
      c := { k.c with run := .ended, blocked := false, watch := .none, held := [] }
      l := { k.l with ended := true, blocked := false, waits := false, held := [] }
      s := { k.s with ended := true, blocked := false, waits := false, held := [] }
      v := { k.v with ended := true, halted := false, blocked := false, atCut := false, look := false, held := [] }
      q := Queues.empty
      trap := { k.trap with frz := false, dog := 0 }
      str := k.str.map Desc.ended
      eng := { k.eng with copy := [], gather := [], wstore := [] }
      mig := { k.mig with table := Vector.replicate 8 none }
      ctx := { k.ctx with running := none, newCode := false, yield_ := none, leave := none, bindOff := false, prev := prev } } }
theorem endStep_eq (s : State) : s.endStep =
    bif s.settled.residue then
      s.settled.stepOver.takeTrapNoStep .residue 0x14 s.settled.occupancies s.settled.core.c.pc s.settled.core.trap.tvec s.settled.tqoccNow
    else s.settled.stepOver := by
  unfold State.endStep State.settled
  dsimp only
  generalize (s.flushStore.bankFence.publishCells _ true).stepCounts = u
  rfl

theorem acked_dbg (s : State) : ∃ d, s.acked = s.setDbg d :=
  cond_induction (P := fun t : State => ∃ d, t = s.setDbg d) (fun _ => ⟨_, rfl⟩) fun _ => ⟨s.core.dbg, rfl⟩

/-- What is so once a step has ended: nothing runs, nothing is queued, and no stream is active. -/
def State.Over (t : State) : Prop :=
  t.core.ctx.running = none ∧ t.core.l.ended = true ∧ t.core.v.ended = true ∧ t.core.s.ended = true ∧ t.core.q = Queues.empty ∧
    ∀ r, (t.desc r).active = false
theorem Desc.ended_active (d : Desc) : d.ended.active = false := by
  unfold Desc.active Desc.ended
  rw [BitVec.getLsbD_and]
  exact Bool.and_false _
theorem stepOver_over (s : State) :
    s.stepOver.Over ∧ s.stepOver.core.c.run = .ended ∧ s.stepOver.core.trap = { s.core.trap with frz := false, dog := 0 } := by
  obtain ⟨d, e⟩ := acked_dbg { s with core := { s.core with
      c := { s.core.c with run := .ended, blocked := false, watch := .none, held := [] }
      l := { s.core.l with ended := true, blocked := false, waits := false, held := [] }
      s := { s.core.s with ended := true, blocked := false, waits := false, held := [] }
      v := { s.core.v with ended := true, halted := false, blocked := false, atCut := false, look := false, held := [] }
      q := Queues.empty
      trap := { s.core.trap with frz := false, dog := 0 }
      str := s.core.str.map Desc.ended
      eng := { s.core.eng with copy := [], gather := [], wstore := [] }
      mig := { s.core.mig with table := Vector.replicate 8 none }
      ctx := { s.core.ctx with running := none, newCode := false, yield_ := none, leave := none, bindOff := false, prev := match s.core.ctx.running,
        s.core.ten.held with
        | some i, some h => bif i.queue.isSome then some (i, s.core.ctx.part, h.demand) else none
        | _, _ => none } } }
  rw [show s.stepOver = _ from e]
  refine ⟨⟨rfl, rfl, rfl, rfl, rfl, fun r => ?_⟩, rfl, rfl⟩
  exact (congrArg Desc.active (Vector.getElem_map ..)).trans (Desc.ended_active _)

/-- What a step's end shows of the core follows from what its writes leave as it was. -/
theorem leaving_congr (h : t.core.leaving = s.core.leaving) :
    t.residue = s.residue ∧ t.occupancies = s.occupancies ∧ t.core.trap = s.core.trap := by
  obtain ⟨hq, ht, hc, hg, hn⟩ : t.core.q = s.core.q ∧ t.core.trap = s.core.trap ∧ t.core.eng.copy = s.core.eng.copy ∧
      t.core.eng.gather = s.core.eng.gather ∧ t.core.nb.cmds = s.core.nb.cmds := by simpa only [Core.leaving, Prod.mk.injEq] using h
  refine ⟨?_, ?_, ht⟩
  · unfold State.residue; rw [hq]
  · unfold State.occupancies State.fifo; rw [hq, hc, hg, hn]

theorem endStep_over (s : State) : s.endStep.Over ∧
    (s.residue = false → s.endStep.core.c.run = .ended ∧ s.endStep.core.trap.mode = s.core.trap.mode) ∧
    (s.residue = true → s.endStep.core.trap.cause = 0x14 ∧ s.endStep.core.trap.mode = true ∧ s.endStep.core.trap.tval = s.occupancies ∧
      s.endStep.core.c.pc = s.core.trap.tvec) := by
  obtain ⟨hr, ho, ht⟩ := leaving_congr (settled_leaving s)
  obtain ⟨hover, hrun, htrap⟩ := stepOver_over s.settled
  rw [endStep_eq, hr, ho, ht]
  rw [ht] at htrap
  generalize s.settled.stepOver = w at hover hrun htrap ⊢
  generalize s.settled.core.c.pc = pc
  generalize s.settled.tqoccNow = tq
  cases s.residue with
  | false => exact ⟨hover, fun _ => ⟨hrun, (congrArg Trap.mode htrap :)⟩, fun h => nomatch h⟩
  | true => exact ⟨hover, fun h => (nomatch h), fun _ => ⟨rfl, rfl, rfl, rfl⟩⟩

theorem exec_bindOff_held (hh : s.endHeld = true) : exec .bindOffRetire s = .next s := by
  rw [show exec .bindOffRetire s = execBindOffRetire s from rfl, execBindOffRetire, hh, Bool.or_true, cond_true]
theorem exec_bindOff (hr : s.bindOffReady = true) (hh : s.endHeld = false) (hc : s.core.eng.copy = []) : exec .bindOffRetire s = .next s.endStep := by
  rw [show exec .bindOffRetire s = execBindOffRetire s from rfl, execBindOffRetire, hr, hh, hc]
  rfl
theorem bindOffReady_task (h : s.bindOffReady = true) : s.core.trap.mode = false := by
  unfold State.bindOffReady State.strandsDone at h
  simp only [Bool.and_eq_true, Bool.not_eq_true'] at h
  exact h.1.1.1.1.2

/-! ### The cut-stop and the starvation guard -/

theorem exec_cutStop (hs : s.stepOn = true) (hw : s.core.trap.wait = none) (hl : s.core.ctx.leave = none) :
    exec .cutStop s = .next (s.setCtx { s.core.ctx with leave := some .cutStop }) := by
  rw [show exec .cutStop s = execCutStop s from rfl, execCutStop, hw, ← State.requestLeave_new .cutStop hs hl]

theorem guardDue_eq (hrun : s.core.ctx.running = some id) (hp : s.myPart = p) (hg : id.gang = false) (hl : s.core.ctx.leave = none)
    (hsup : s.sup = false) (hb : ∀ k ∈ (s.part p).blocks, k.guarded = false) :
    s.guardDue p = (s.candidates p).find? fun b => !b.mine id &&
        decide (b.tw.getD s.tstamp + (7 - ((s.part p).queue b.queue).prio.toNat) * 256000 + 1000000 ≤ s.tstamp) := by
  have hany : (s.part p).blocks.any (·.guarded) = false := List.any_eq_false.2 fun k hk => by rw [hb k hk]; exact Bool.false_ne_true
  unfold State.guardDue
  rw [hrun]
  dsimp only
  rw [hp, hg, hl, hsup, hany]
  simp only [bne_self_eq_false, Option.isSome_none, Bool.or_false, cond_false]

/-- Room made for a step changes the slots and partitions only; with a slot free it changes nothing. -/
theorem roomForGuard_kept (s : State) :
    s.roomForGuard.core = { s.core with ctx := { s.core.ctx with slots := s.roomForGuard.core.ctx.slots } } ∧ s.roomForGuard.mem = s.mem := by
  unfold State.roomForGuard
  split
  · dsimp only
    split <;> exact ⟨rfl, rfl⟩
  · exact ⟨rfl, rfl⟩
theorem roomForGuard_free (h : s.core.ctx.slots.length < 2) : s.roomForGuard = s := by
  unfold State.roomForGuard
  split
  · next a l hs => rw [hs] at h; exact absurd h (Nat.lt_irrefl 2)
  · rfl
theorem guardActs_asks (hs : s.stepOn = true) (hl : s.core.ctx.leave = none) (hd : s.guardDue p = some b) :
    let r := s.roomForGuard
    s.guardActs p = (r.setPart p ((r.part p).setBlock { b with guarded := true })).setCtx { r.core.ctx with leave := some .cutStop } := by
  intro r
  obtain ⟨hc, -⟩ := roomForGuard_kept s
  unfold State.guardActs
  rw [hd]
  dsimp only
  refine State.requestLeave_new .cutStop ?_ ?_
  · change r.core.ctx.running.isSome = true
    rw [hc]; exact hs
  · change r.core.ctx.leave = none
    rw [hc]; exact hl

/-! ### A step saved -/

/-- The step at its boundaries, with what runs on run on (R363). -/
def State.atRest (s : State) : State := ((State.engDrain 256 (s.owe s.myPart s.payer).atBoundary.wakeForLeave.lapsed.nbRun).flushStore).nbTrace "save"
/-- The context that a save keeps (R363). -/
def State.context (s : State) (atCut : Bool) : Saved :=
  let k := s.core
  { part := k.ctx.part, vf := k.ctx.vf, ctx := { k.ctx with slots := [], leave := none, yield_ := none },
    c := { k.c with watch := k.c.watch.lose, run := k.c.run.abandoned, blocked := false }, l := k.l, s := k.s, v := k.v, q := k.q,
    trap := { k.trap with wait := none, dog := 0 }, csr := k.csr,
    pool := k.pool.cells.filter fun c => decide (c.1 < (vget k.csr.pb 1 0).toNat), epoch := k.pool.epoch, str := k.str, arr := k.arr,
    eng := k.eng, mig := k.mig, nbSlots := k.nb.slots, nbRecs := k.nb.records, nbCmds := k.nb.cmds.filter fun c => !c.gone,
    nbFaultVa := k.nb.faultVa, ten := k.ten,
    fpc := k.fpc, bank := k.dbg.bank, atCut := atCut, lost := k.pool.lost }
/-- The context saved, the wait for an answer dropped, and the strands off the core (R363, R368). -/
def State.putAway (s : State) (atCut : Bool) : State :=
  let p := s.core.ctx.part
  let x := s.part p
  let seq := match s.core.trap.wait with | some w => w.seq | none => none
  (((s.setPart p { x with saved := x.saved ++ [s.context atCut], await := x.await.filter fun r => seq != some r.seq }).setNb
    { s.core.nb with cmds := s.core.nb.cmds.filter (·.gone) }).nbTrace "save").emptyCore
theorem saveStep_eq (hs : s.stepOn = true) (atCut : Bool) : s.saveStep atCut = s.atRest.putAway atCut := by
  unfold State.saveStep State.atRest
  rw [hs, Bool.not_true, cond_false]
  dsimp only
  generalize (State.engDrain 256 _).flushStore.nbTrace "save" = u
  unfold State.putAway State.context
  cases u.core.trap.wait <;> rfl

theorem emptyCore_left (s : State) : CoreLeft s.emptyCore := ⟨rfl, rfl, rfl, rfl, rfl, rfl⟩
theorem emptyCore_kept (hst : s.core.c.store = none) (q : BitVec 3) : s.emptyCore.part q = s.part q ∧ s.emptyCore.mem.cells = s.mem.cells := by
  unfold State.emptyCore
  rw [State.flushStore_of_none hst]
  exact ⟨rfl, rfl⟩
theorem putAway_left (s : State) (atCut : Bool) : CoreLeft (s.putAway atCut) := emptyCore_left _

/-- A step saved with no store pending: its context is the last of those saved, and memory is kept. -/
theorem putAway_kept (hst : s.core.c.store = none) (atCut : Bool) :
    ((s.putAway atCut).part s.myPart).saved = (s.part s.myPart).saved ++ [s.context atCut] ∧ (s.putAway atCut).mem.cells = s.mem.cells := by
  unfold State.putAway
  dsimp only
  generalize hx : ({ s.part s.core.ctx.part with saved := _, await := _ } : Part) = x
  obtain ⟨d, e⟩ := nbTrace_dbg ((s.setPart s.core.ctx.part x).setNb { s.core.nb with cmds := s.core.nb.cmds.filter (·.gone) }) "save"
  rw [e]
  obtain ⟨hp, hm⟩ := emptyCore_kept
    (s := ((s.setPart s.core.ctx.part x).setNb { s.core.nb with cmds := s.core.nb.cmds.filter (·.gone) }).setDbg d) hst s.myPart
  refine ⟨?_, hm⟩
  rw [hp, show (((s.setPart s.core.ctx.part x).setNb { s.core.nb with cmds := s.core.nb.cmds.filter (·.gone) }).setDbg d).part s.myPart = x from
    State.part_setPart s s.core.ctx.part x, ← hx]
  rfl

/-! ### Units that are idle run on with nothing to do -/

theorem lsComplete_none (k : LS) (n : Nat) (h : (s.ls k).pend = []) : State.lsComplete k n s = s := by
  cases n with
  | zero => rfl
  | succ n => unfold State.lsComplete; rw [h]; rfl
theorem atBoundary_idle (hl : s.core.l.pend = []) (hs : s.core.s.pend = []) : s.atBoundary = s := by
  unfold State.atBoundary
  dsimp only
  rw [lsComplete_none .l _ hl, lsComplete_none .s _ hs]
theorem endMwait_awake (h : ∀ xd limit, s.core.c.run ≠ .mwait xd limit) (n : Nat) : s.endMwait n = s := by
  unfold State.endMwait
  split
  · next xd limit e => exact absurd e (h xd limit)
  · rfl
theorem wakeForLeave_awake (h : ∀ xd limit, s.core.c.run ≠ .mwait xd limit) : s.wakeForLeave = s :=
  cond_induction (P := fun t : State => t = s) (fun _ => rfl) fun _ => endMwait_awake h _
theorem flipNow_cells (s : State) (n : Nat) : ∃ m, s.flipNow n = s.setMem m ∧ m.cells = s.mem.cells := by
  unfold State.flipNow
  split
  · exact ⟨_, rfl, rfl⟩
  · exact ⟨_, rfl, rfl⟩
theorem lapsed_cells (s : State) : ∃ m, s.lapsed = s.setMem m ∧ m.cells = s.mem.cells :=
  List.foldlRecOn (motive := fun t : State => ∃ m, t = s.setMem m ∧ m.cells = s.mem.cells) _ State.flipNow ⟨_, rfl, rfl⟩
    fun t ⟨m, e, hm⟩ n _ => by
      obtain ⟨m', e', hm'⟩ := flipNow_cells t n
      rw [e', e]
      exact ⟨m', rfl, hm'.trans ((congrArg (·.mem.cells) e).trans hm)⟩
theorem nbCmd_idle (h : s.core.nb.cmds = []) (i : Nat) : s.nbCmd i = none := by
  unfold State.nbCmd; rw [h]; rfl
theorem nbServe_idle (h : s.core.nb.cmds = []) : s.nbServe = s :=
  List.foldlRecOn (motive := fun t : State => t = s) _ _ rfl fun t e i _ => by rw [e, nbCmd_idle h]
theorem nbDrain_idle (n : Nat) (h : s.core.nb.cmds = []) : State.nbDrain n s = s := by
  cases n with
  | zero => rfl
  | succ n =>
    have hd : s.nbDispatches = false := by unfold State.nbDispatches; rw [h]; rfl
    have hm : (List.range 8).flatMap s.nbMove = [] := List.flatMap_eq_nil_iff.2 fun i _ => by unfold State.nbMove; rw [nbCmd_idle h]
    unfold State.nbDrain
    rw [hd, hm]
    rfl
theorem nbRun_idle (h : s.core.nb.cmds = []) : s.nbRun = s := by
  unfold State.nbRun
  rw [nbServe_idle h, nbDrain_idle _ h]
theorem startedMoves_idle (hc : s.core.eng.copy = []) (hg : s.core.eng.gather = []) : s.startedMoves = [] := by
  have hp : ∀ e, s.engPick e = none := fun e => by
    unfold State.engPick
    cases e <;> simp only [State.cmds, hc, hg] <;> rfl
  unfold State.startedMoves Engines.nextPublish Engines.barrierHead
  rw [hc]
  simp only [List.filter_cons, List.filter_nil, hp]
  rfl
theorem engDrain_idle (n : Nat) (hc : s.core.eng.copy = []) (hg : s.core.eng.gather = []) : State.engDrain n s = s := by
  cases n with
  | zero => rfl
  | succ n => unfold State.engDrain; rw [startedMoves_idle hc hg]; rfl

/-- At its boundaries a step with idle units is as it was, but for what memory has still to do with leases and flips. -/
theorem atRest_idle (hu : UnitsIdle s) (hst : s.core.c.store = none) (hl : s.core.l.pend = []) (hsp : s.core.s.pend = [])
    (hrun : ∀ xd limit, s.core.c.run ≠ .mwait xd limit) :
    ∃ d, s.atRest.core = { s.core with dbg := d } ∧ s.atRest.mem.cells = s.mem.cells ∧ ∀ q, s.atRest.part q = s.part q := by
  obtain ⟨hcopy, hgather, hnb⟩ := hu
  obtain ⟨hc, hm⟩ := owe_kept s s.myPart s.payer
  have hpart : ∀ q, (s.owe s.myPart s.payer).part q = s.part q := fun q =>
    cond_induction (P := fun t : State => t.part q = s.part q) (fun _ => rfl) fun _ => rfl
  unfold State.atRest
  generalize s.owe s.myPart s.payer = u at hc hm hpart
  rw [atBoundary_idle (by rw [hc]; exact hl) (by rw [hc]; exact hsp), wakeForLeave_awake (by rw [hc]; exact hrun)]
  obtain ⟨m, e, hcells⟩ := lapsed_cells u
  rw [e, nbRun_idle (s := u.setMem m) (by rw [State.setMem_core, hc]; exact hnb),
    engDrain_idle (s := u.setMem m) 256 (by rw [State.setMem_core, hc]; exact hcopy) (by rw [State.setMem_core, hc]; exact hgather),
    State.flushStore_of_none (s := u.setMem m) (by rw [State.setMem_core, hc]; exact hst)]
  obtain ⟨d, e⟩ := nbTrace_dbg (u.setMem m) "save"
  rw [e]
  exact ⟨d, by rw [← hc]; rfl, hcells.trans (congrArg _ hm), hpart⟩

/-! ### C's store takes place alike, whatever waits for an answer and whatever near-bank commands stand -/

/-- A partition but for the records that wait for an answer. -/
def Part.blind (x : Part) : Part := { x with await := [] }
/-- The machine but for the records that wait for an answer, the near-bank commands, the interrupts sent, the log, and what the caches and watches hold. -/
def State.blind (s : State) : State :=
  { s with
    mem := { s.mem with l2 := [], msc := [], stale := [], order := none }
    pkg := { s.pkg with hbm := Vector.replicate _ Stack.reset, msi := [], heldMsi := [], log := [], parts := s.pkg.parts.map Part.blind }
    core := { s.core with c := { s.core.c with watch := .none }, nb := { s.core.nb with cmds := [] }, dbg := { s.core.dbg with irqLines := [] } } }

theorem blind_part (s : State) (p : BitVec 3) : s.blind.part p = (s.part p).blind := Vector.getElem_map ..
theorem blind_blind (s : State) : s.blind.blind = s.blind := by
  have h : (s.pkg.parts.map Part.blind).map Part.blind = s.pkg.parts.map Part.blind := Vector.map_map.trans rfl
  unfold State.blind
  simp only [h]
theorem blind_setPart (s : State) (p : BitVec 3) (x : Part) : (s.setPart p x).blind = s.blind.setPart p x.blind := by
  unfold State.blind State.setPart
  simp only [Vector.map_set]
theorem setPart_alike (h : s.blind = t.blind) (p : BitVec 3) {x y : Part} (hx : x.blind = y.blind) :
    (s.setPart p x).blind = (t.setPart p y).blind := by
  rw [blind_setPart, blind_setPart, h, hx]

theorem walkFrom_blind (s : State) (p : BitVec 3) (v : BitVec 2) (va : Nat) (use : Bool) (ls : List (Nat × Nat × Nat × Nat)) :
    ∀ (table : Nat) (acc : List WalkEntry), walkFrom s.blind p v va use ls table acc = walkFrom s p v va use ls table acc := by
  induction ls with
  | nil => intro table acc; rfl
  | cons l ls ih =>
    intro table acc
    obtain ⟨level, sh, w, leafLog⟩ := l
    unfold walkFrom
    simp only [ih]
    rfl
theorem ctxPa_blind (s : State) (p : BitVec 3) (v : BitVec 2) (va : Word64) : s.blind.ctxPa p v va = s.ctxPa p v va := by
  have hw : s.blind.walk p v va true = s.walk p v va true := by
    unfold State.walk
    rw [walkFrom_blind, blind_part]
    rfl
  unfold State.ctxPa State.leafFor
  rw [hw]
  rfl

/-- A move of the machine that neither sees nor changes anything that the blind machine lacks, but for that. -/
def Blind (f : State → State) : Prop := ∀ s, (f s).blind = (f s.blind).blind

theorem Blind.comp {f g : State → State} (hf : Blind f) (hg : Blind g) : Blind fun s => g (f s) := fun s => by
  rw [hg, hf, ← hg]
theorem Blind.unseen {f : State → State} (h : ∀ s, (f s).blind = s.blind) : Blind f := fun s => by rw [h, h, blind_blind]
theorem Blind.foldl {α : Type} {f : State → α → State} (h : ∀ a, Blind fun s => f s a) (l : List α) : Blind fun s => l.foldl f s := by
  induction l with
  | nil => exact fun s => (blind_blind s).symm
  | cons a l ih => exact (h a).comp ih
theorem Blind.alike {f : State → State} (hf : Blind f) (h : s.blind = t.blind) : (f s).blind = (f t).blind := by rw [hf, h, ← hf]

theorem cond_alike (b : Bool) {s₁ s₂ t₁ t₂ : State} (h₁ : s₁.blind = t₁.blind) (h₂ : s₂.blind = t₂.blind) :
    (bif b then s₁ else s₂).blind = (bif b then t₁ else t₂).blind := by cases b <;> assumption
theorem orderAt_unseen (ag : Nat) (w : Bool) (pa : Nat) (s : State) : (s.orderAt ag w pa).blind = s.blind := by
  obtain ⟨o, e⟩ := s.orderAt_eq ag w pa
  rw [e]; rfl
theorem atMsc_unseen (pas : List Nat) (s : State) : (s.atMsc pas).blind = s.blind := by
  obtain ⟨_, _, _, _, _, e⟩ := s.atMsc_near pas
  rw [e]; rfl
theorem memPut_blind (cs : List Host.Cell) (o : Owner) (dev whole : Bool) : Blind fun s => s.memPut cs o dev whole := fun s => by
  have h : (s.pkg.parts.map Part.blind).map Part.blind = s.pkg.parts.map Part.blind := Vector.map_map.trans rfl
  unfold State.memPut State.blind
  simp only [h]
  rfl
theorem granulePut_blind (g : Granule) : Blind fun s => s.granulePut g := fun s => by
  have h : ∀ u : State, (u.granulePut g).blind = ((u.orderAt 2 true g.pa).memPut (cellsAt g.pa g.bytes) none false false).blind := fun u => rfl
  rw [h, h]
  exact (memPut_blind _ _ _ _).alike ((orderAt_unseen ..).trans ((blind_blind s).symm.trans (orderAt_unseen ..).symm))
theorem rmwFirst_blind (pas : List Nat) : Blind fun s => s.rmwFirst pas := fun s => by
  unfold State.rmwFirst
  dsimp only
  rw [show s.blind.core.nb.writes = s.core.nb.writes from rfl, show s.blind.norm = s.norm from rfl]
  generalize rmwSplit _ s.core.nb.writes = r
  cases r.1.isEmpty with
  | true => exact (blind_blind s).symm
  | false =>
    refine (Blind.foldl granulePut_blind r.1).alike ?_
    exact (congrArg (fun x : State => x.setNb { x.core.nb with writes := r.2 }) (blind_blind s)).symm
theorem memWrite_blind (cs : List Host.Cell) (o : Owner) (dev whole : Bool) : Blind fun s => s.memWrite cs o dev whole :=
  (rmwFirst_blind _).comp (memPut_blind _ _ _ _)
theorem unitWrite_blind (cs : List Host.Cell) : Blind fun s => s.unitWrite cs := (Blind.unseen (atMsc_unseen _)).comp (memWrite_blind _ _ _ _)
theorem msiRaw_unseen (p : BitVec 3) (v : BitVec 2) (n c : Nat) (s : State) : (s.msiRaw p v n c).blind = s.blind :=
  cond_induction (P := fun t : State => t.blind = s.blind) (fun _ => rfl) fun _ => rfl
theorem record_blind (p : BitVec 3) (type : Nat) (core : Word32) (key addr data : Word64) : Blind fun s => s.record p type core key addr data :=
  fun s => by
  have hput : ∀ (u v : State), u.blind = v.blind → ∀ f : Part → Part, (∀ x, (f x).blind = (f x.blind).blind) →
      (u.setPart p (f (u.part p))).blind = (v.setPart p (f (v.part p))).blind := fun u v h f hf =>
    setPart_alike h p (by rw [hf, ← blind_part, h, blind_part, ← hf])
  unfold State.record
  dsimp only
  rw [blind_part, ctxPa_blind, show (s.part p).blind.repMode = (s.part p).repMode from rfl, show (s.part p).blind.repFull = (s.part p).repFull from
    rfl,
    show (s.part p).blind.repLog = (s.part p).repLog from rfl, show (s.part p).blind.repPos = (s.part p).repPos from rfl,
    show (s.part p).blind.repBase = (s.part p).repBase from rfl]
  refine cond_alike _ (blind_blind s).symm (cond_alike _ ?_ ?_)
  · rw [msiRaw_unseen, msiRaw_unseen]
    exact setPart_alike (blind_blind s).symm p rfl
  · refine hput _ _ ?_ (fun x => { x with repPos := x.repPos + 1, reps := x.reps ++ [repBytes type core key addr data] }) fun x => rfl
    cases s.ctxPa p 0 ((s.part p).repBase + BitVec.ofNat 64 (32 * (s.part p).repPos.toNat)) with
    | none => exact (blind_blind s).symm
    | some pa => exact unitWrite_blind _ s
theorem msi_blind (p : BitVec 3) (v : BitVec 2) (n c : Nat) : Blind fun s => s.msi p v n c := fun s => by
  unfold State.msi
  dsimp only
  rw [blind_part, show (s.part p).blind.repMode = (s.part p).repMode from rfl]
  refine cond_alike _ ?_ ?_
  · exact (blind_blind s).symm
  · exact Blind.alike (record_blind p 3 0 _ _ _) ((msiRaw_unseen ..).trans ((blind_blind s).symm.trans (msiRaw_unseen ..).symm))
theorem writeHeld_blind (s : State) (pas : List Nat) : s.blind.writeHeld pas = s.writeHeld pas := rfl
theorem postNext_blind (p : BitVec 3) : Blind fun s => s.postNext p := fun s => by
  have hpost : ∀ rest, (s.setPart p { s.part p with posts := rest }).blind = (s.blind.setPart p { (s.part p).blind with posts := rest }).blind := fun
    rest =>
    setPart_alike (blind_blind s).symm p rfl
  unfold State.postNext
  dsimp only
  simp only [blind_part, ctxPa_blind, writeHeld_blind]
  rw [show (s.part p).blind.posts = (s.part p).posts from rfl, show (s.part p).blind.fqBase = (s.part p).fqBase from rfl,
    show (s.part p).blind.fqLog = (s.part p).fqLog from rfl, show s.blind.rdNat = s.rdNat from rfl]
  cases (s.part p).posts with
  | nil => exact (blind_blind s).symm
  | cons h rest =>
    cases s.ctxPa p 0 (s.part p).fqBase with
    | none => exact hpost rest
    | some base =>
      cases h with
      | none =>
        dsimp only
        refine cond_alike _ (blind_blind s).symm ?_
        exact Blind.alike (f := fun s => s.unitWrite _) (unitWrite_blind _) (hpost rest)
      | some r =>
        dsimp only
        cases s.ctxPa p 0 ((s.part p).fqBase + BitVec.ofNat 64 (0x80 + 64 * (s.rdNat base 8 % ringSize (s.part p).fqLog))) with
        | none => exact hpost rest
        | some pa =>
          dsimp only
          refine cond_alike _ (blind_blind s).symm ?_
          exact Blind.alike (f := fun s => s.msi p 0 0 r.type.toNat) (msi_blind p 0 0 r.type.toNat) (Blind.alike (f := fun s => s.unitWrite _)
            (unitWrite_blind _) (hpost rest))
theorem post_blind (p : BitVec 3) (r : FaultRec) : Blind fun s => s.post p r := fun s => by
  unfold State.post State.fqRoom State.vf0Nat
  dsimp only
  simp only [blind_part, ctxPa_blind]
  rw [show s.blind.rdNat = s.rdNat from rfl, show s.blind.tstamp = s.tstamp from rfl]
  simp only [Part.blind]
  refine cond_alike _ ?_ (cond_alike _ ?_ ?_)
  · exact (blind_blind s).symm
  · exact (postNext_blind p).alike (setPart_alike (blind_blind s).symm p rfl)
  · exact (postNext_blind p).alike (setPart_alike (blind_blind s).symm p rfl)
theorem memRec_blind (type : BitVec 8) (pa : Nat) : Blind fun s => s.memRec type pa := fun s => by
  unfold State.memRec
  dsimp only
  rw [show s.blind.ownerOf pa = s.ownerOf pa from rfl]
  cases s.ownerOf pa with
  | some p => exact post_blind p _ s
  | none => exact (blind_blind s).symm
theorem storeCells_blind (cs : List Host.Cell) (o : Owner) (dev : Bool) : Blind fun s => s.storeCells cs o dev := fun s => by
  unfold State.storeCells
  dsimp only
  rw [show s.blind.poisoned = s.poisoned from rfl, show s.blind.norm = s.norm from rfl]
  exact (Blind.foldl (fun l => memRec_blind _ _) _).alike (memWrite_blind cs o dev false s)
theorem flushStore_blind : Blind State.flushStore := fun s => by
  unfold State.flushStore
  rw [show s.blind.core.c.store = s.core.c.store from rfl]
  cases s.core.c.store with
  | none => exact (blind_blind s).symm
  | some st =>
    refine (storeCells_blind _ _ _).alike ((orderAt_unseen ..).trans ((?_ : State.blind _ = State.blind _).trans (orderAt_unseen ..).symm))
    exact (congrArg (fun x : State => x.setC { x.core.c with store := none }) (blind_blind s)).symm

/-- An abandoned step's store takes place, and nothing else is written (R310, R362). -/
theorem offCore_cells (s : State) : s.offCore.mem.cells = s.flushStore.mem.cells := by
  have h : ∀ (x : Part) (c : List NbCmd), x.blind = (s.part s.core.ctx.part).blind →
      ((s.setPart s.core.ctx.part x).setNb { s.core.nb with cmds := c }).blind = s.blind := fun x c hx => by
    change (s.setPart s.core.ctx.part x).blind = s.blind
    rw [blind_setPart, hx, ← blind_part]
    exact congrArg (fun ps => { s.blind with pkg := { s.blind.pkg with parts := ps } }) (Vector.set_getElem_self ..)
  have key : ∀ (x : Part) (c : List NbCmd), x.blind = (s.part s.core.ctx.part).blind →
      (((s.setPart s.core.ctx.part x).setNb { s.core.nb with cmds := c }).emptyCore).mem.cells = s.flushStore.mem.cells := fun x c hx =>
    (congrArg (fun u : State => u.mem.cells) (flushStore_blind.alike (h x c hx)) :)
  exact key _ _ rfl

theorem exec_freeze (hs : s.stepOn = true) : exec .freeze s = .next (s.atRest.putAway false) :=
  congrArg (fun t : State => (.next t : Out)) (saveStep_eq hs false)
theorem exec_abandon_kept (hrun : s.core.ctx.running = some id) (hr : id.rst = false) : exec .abandon s = exec .freeze s := by
  rw [show exec .abandon s = execAbandon s from rfl, execAbandon, hrun]
  dsimp only
  rw [hr]
  rfl
theorem exec_abandon (hrun : s.core.ctx.running = some id) (hr : id.rst = true) : exec .abandon s = .next (s.abandonStep false) := by
  rw [show exec .abandon s = execAbandon s from rfl, execAbandon, hrun]
  dsimp only
  rw [hr, cond_true]

end Sys2Proof.Machine

open Sys2Proof Sys2Proof.Machine Sys2Proof.Claims

/-- Settles O38: the ended step's writes leave what its end shows, idle units have nothing to run on with, and an abandoned step's store writes what
it would have written with its answers and commands still waiting. -/
theorem stepsEndAndLeave : Obligations.StepsEndAndLeave := by
  intro s _ hs
  refine ⟨fun _ hh => exec_bindOff_held hh, fun hr hh hc => ?_, exec_cutStop hs, fun b id p hrun hp hg hl hsup hb hd => ?_,
    ⟨_, exec_freeze hs, putAway_left _ _⟩, fun hu hst hlp hsp hrun => ?_, fun id hrun hr => exec_abandon_kept hrun hr,
    fun id cast hrun hcast hr hg hfew => ?_⟩
  · obtain ⟨⟨h1, h2, h3, h4, h5, h6⟩, hno, hleft⟩ := endStep_over s
    exact ⟨_, exec_bindOff hr hh hc, h1, h2, h3, h4, h5, h6, fun h => ⟨(hno h).1, (hno h).2.trans (bindOffReady_task hr)⟩, hleft⟩
  · obtain ⟨hc, hm⟩ := roomForGuard_kept s
    refine ⟨_, congrArg (fun t : State => (.next t : Out)) (guardActs_asks hs hl ((guardDue_eq hrun hp hg hl hsup hb).trans hd)), rfl, ?_, hm, fun
      hfree => ?_⟩
    · exact (congrArg Core.c hc :)
    · rw [roomForGuard_free hfree]
      exact ⟨rfl, State.part_setPart s p _⟩
  · obtain ⟨d, hcore, hm, hpart⟩ := atRest_idle hu hst hlp hsp hrun
    have hmine : s.atRest.myPart = s.myPart := by unfold State.myPart; rw [hcore]
    obtain ⟨hsaved, hcells⟩ := putAway_kept (s := s.atRest) (by rw [hcore]; exact hst) false
    rw [hmine, hpart] at hsaved
    refine ⟨_, _, exec_freeze hs, putAway_left _ _, hsaved, ?_⟩
    unfold State.context
    rw [hcore]
    exact ⟨rfl, rfl, rfl, rfl, rfl, rfl, rfl, rfl, rfl, rfl, rfl, hcells.trans hm⟩
  · have he := State.abandonStep_rerun false hrun hcast hg hr hfew
    refine ⟨_, ⟨{ id with abandons := id.abandons + 1 }, cast, s.core.ctx.part, s.core.ctx.vf, [], [], [], 0, true, .staging⟩, exec_abandon hrun hr,
      (State.abandonStep_left false hrun hcast hg).1, (congrArg (fun u : State => u.core.ctx.slots) he :), rfl, rfl, rfl, rfl, rfl, ?_⟩
    exact (congrArg (fun u : State => u.mem.cells) he).trans (offCore_cells s)
end

section
/-! O39: answers to forwarded faults (R366 to R368), of a prologue's read too, and the switch of the resident function (R373, R374, R376, R377). -/

namespace Sys2Proof.Machine

open Sys2Proof.Claims

variable {s t : State} {p : BitVec 3} {seq : BitVec 16} {r : FaultRec} {w : FreezeWait} {id : StepId} {cast : CastOn}

/-! ### Who awaits an answer -/

/-- The machine with the record that an answer names no longer waited for. -/
def State.unawait (s : State) (p : BitVec 3) (seq : BitVec 16) : State :=
  s.setPart p { s.part p with await := (s.part p).await.filter fun x => x.seq != seq }

/-- An answer goes first to the core that waits for it. -/
theorem giveAnswer_core (code : BitVec 2) (hw : s.core.trap.wait = some w) (hq : w.seq = some r.seq) (hp : s.myPart = p) :
    s.giveAnswer p r code = (s.unawait p r.seq).answerCore w code := by
  unfold State.giveAnswer
  dsimp only
  rw [State.setPart_core, hw]
  dsimp only
  rw [hq, show (State.setPart s p _).myPart = p from hp, beq_self_eq_true, beq_self_eq_true, Bool.and_self, cond_true]
  rfl
theorem slotAwaits_unawait : (s.unawait p seq).slotAwaits p seq = s.slotAwaits p seq := rfl
/-- With no core waiting, an answer goes to the slot whose prologue waits for it. -/
theorem giveAnswer_slot {n src : Nat} {l : ShadowSlot} (code : BitVec 2) (hw : s.core.trap.wait = none) (hl : s.slotAwaits p r.seq = some (n, l,
    src)) :
    s.giveAnswer p r code = (s.unawait p r.seq).answerSlot n l src code := by
  unfold State.giveAnswer
  dsimp only
  rw [State.setPart_core, hw]
  dsimp only
  rw [show (State.setPart s p _).slotAwaits p r.seq = some (n, l, src) from hl]
  rfl

section
variable (hf : ((s.part p).await.find? fun x => x.seq == seq) = some r)
include hf

theorem exec_faultAnswer_ignored : exec (.faultAnswer p seq 3) s = .next s := by
  rw [show exec (.faultAnswer p seq 3) s = execFaultAnswer p seq 3 s from rfl, execFaultAnswer, State.putAnswer, hf]
  rfl
theorem exec_faultAnswer_after {code : BitVec 2} (hc : code ≠ 3) (hh : s.hostWaits = true) :
    exec (.faultAnswer p seq code) s = .next (s.again (.env (.faultAnswer p seq code))) := by
  rw [show exec (.faultAnswer p seq code) s = execFaultAnswer p seq code s from rfl, execFaultAnswer, State.putAnswer, hf]
  dsimp only
  rw [beq_eq_false_iff_ne.mpr hc, hh, cond_false, cond_true]
theorem exec_faultAnswer_given {code : BitVec 2} (hc : code ≠ 3) (hh : s.hostWaits = false) :
    exec (.faultAnswer p seq code) s = .next (s.giveAnswer p r code) := by
  rw [show exec (.faultAnswer p seq code) s = execFaultAnswer p seq code s from rfl, execFaultAnswer, State.putAnswer, hf]
  dsimp only
  rw [beq_eq_false_iff_ne.mpr hc, hh, cond_false, cond_false]
theorem exec_answer_core {code : BitVec 2} (hc : code ≠ 3) (hh : s.hostWaits = false) (hw : s.core.trap.wait = some w) (hq : w.seq = some r.seq)
    (hp : s.myPart = p) : exec (.faultAnswer p seq code) s = .next ((s.unawait p r.seq).answerCore w code) := by
  rw [exec_faultAnswer_given hf hc hh, giveAnswer_core code hw hq hp]
theorem exec_answer_slot {code : BitVec 2} {n src : Nat} {l : ShadowSlot} (hc : code ≠ 3) (hh : s.hostWaits = false) (hw : s.core.trap.wait = none)
    (hl : s.slotAwaits p r.seq = some (n, l, src)) : exec (.faultAnswer p seq code) s = .next ((s.unawait p r.seq).answerSlot n l src code) := by
  rw [exec_faultAnswer_given hf hc hh, giveAnswer_slot code hw hl]
theorem exec_answerTimeout (ht : r.type ≠ 0x34) (hd : r.stamp.toNat + (s.part p).tmo.toNat * 1000000 ≤ s.tstamp) :
    exec (.faultAnswerTimeout p seq) s = .next (s.giveAnswer p r 1) := by
  rw [show exec (.faultAnswerTimeout p seq) s = execFaultAnswerTimeout p seq s from rfl, execFaultAnswerTimeout, hf]
  dsimp only
  rw [decide_eq_true hd, beq_eq_false_iff_ne.mpr ht, cond_true, cond_false]

end

theorem answerCore_trap (hfr : w.frozen = true) :
    TrapTaken (s.endMwait 4) (s.answerCore w 1) w.strand w.cause w.tfpc w.tval (s.endMwait 4).core.c.pc := by
  have h := trapNow_taken s w.strand w.cause w.tfpc w.tval
  unfold State.answerCore
  dsimp only
  rw [hfr]
  exact h

/-! ### Steps that fail -/

/-- The step's block fails where it stands (R365). -/
theorem failStep_fails {q : BitVec 6} {k : Block} (hq : id.queue = some q) (hk : k ∈ ((s.failStep p id).part p).blocks) (hkq : k.queue = q)
    (hka : k.addr = id.block) : k.failed = true := by
  unfold State.failStep at hk
  rw [hq] at hk
  dsimp only at hk
  rw [(post_blocks _ p _).1, State.part_setPart, doneNow_blocks] at hk
  obtain ⟨b, -, rfl⟩ := List.mem_map.1 hk
  cases hb : b.queue == q && b.addr == id.block with
  | true => rfl
  | false =>
    rw [hb, cond_false] at hkq hka
    rw [hkq, hka, beq_self_eq_true, beq_self_eq_true] at hb
    cases hb
theorem failStep_slots (s : State) (p : BitVec 3) (id : StepId) : (s.failStep p id).core.ctx = s.core.ctx := by
  obtain ⟨d, w, g, l, e⟩ := s.failStep_near p id
  rw [e]
theorem offCore_slots (s : State) : s.offCore.core.ctx.slots = s.core.ctx.slots := by
  have h : ∀ x : State, x.emptyCore.core.ctx.slots = x.core.ctx.slots := fun x => congrArg (·.slots) x.flushStore_served.ctx
  exact h _
/-- A step that may not run again fails as a fault abandons it. -/
theorem abandonStep_fails (hrun : s.core.ctx.running = some id) (hcast : s.core.ctx.cast = some cast) (hg : id.gang = false) (hr : id.rst = false) :
    s.abandonStep true = s.offCore.failStep s.core.ctx.part { id with abandons := id.abandons + 1 } := by
  rw [State.abandonStep_eq true hrun hcast hg, hr, Bool.not_false, Bool.and_true, Bool.or_true, cond_true]

theorem answerSlot_abandons (n src : Nat) (l : ShadowSlot) :
    s.answerSlot n l src 2 = bif l.id.rst && decide (l.id.abandons + 1 < 8) then
        s.setCtx { s.core.ctx with slots := s.core.ctx.slots.set n { l with id := { l.id with abandons := l.id.abandons + 1 }, stage := .staging } }
      else (s.setCtx { s.core.ctx with slots := s.core.ctx.slots.eraseIdx n }).failStep l.part { l.id with abandons := l.id.abandons + 1 } := rfl

theorem forwardedFaultsAreAnswered : ForwardedFaultsAreAnswered := by
  intro s p seq r w hf hseq hw hq hp u b
  subst hseq
  have hgive : ∀ {code : BitVec 2}, code ≠ 3 → s.hostWaits = false → _ := fun hc hh => exec_answer_core hf hc hh hw hq hp
  refine ⟨exec_faultAnswer_ignored hf, fun hh code hc => exec_faultAnswer_after hf (by rintro rfl; simp at hc) hh, fun hh => ?_, fun hh hfr => ?_,
    fun hh hfr => ?_, fun hh id cast hrun hcast hg => ?_, fun hfr ht hd => ?_⟩
  · refine ⟨_, hgive (by decide) hh, rfl, rfl, rfl, rfl, rfl, rfl⟩
  · exact ⟨_, hgive (by decide) hh, answerCore_trap hfr⟩
  · rw [hgive (by decide) hh]
    unfold State.answerCore
    dsimp only
    rw [hfr]
    rfl
  · have he : exec (.faultAnswer p r.seq 2) s = .next (u.abandonStep true) := hgive (by decide) hh
    refine ⟨_, he, (State.abandonStep_left (b := u) true hrun hcast hg).1, fun hr hfew => ?_,
      fun hr => ?_⟩
    · have := State.abandonStep_rerun (b := u) true hrun hcast hg hr hfew
      exact ⟨_, (congrArg (fun x : State => x.core.ctx.slots) this :), rfl, rfl, rfl⟩
    · rw [abandonStep_fails (s := u) hrun hcast hg hr, failStep_slots, offCore_slots]
      refine ⟨rfl, fun q hqq k hk hkq hka => ?_⟩
      rw [show u.core.ctx.part = p from hp] at hk
      exact failStep_fails (id := { id with abandons := id.abandons + 1 }) hqq hk hkq hka
  · exact ⟨_, exec_answerTimeout hf ht hd, by rw [giveAnswer_core 1 hw hq hp]; exact answerCore_trap hfr⟩

theorem prologueFaultsAreAnswered : PrologueFaultsAreAnswered := by
  intro s p seq r n src l hf hseq hw hl hh id
  subst hseq
  have hgive : ∀ {code : BitVec 2}, code ≠ 3 → _ := fun hc => exec_answer_slot hf hc hh hw hl
  refine ⟨⟨_, hgive (by decide), rfl⟩,
    ⟨_, hgive (by decide), ?_⟩, ⟨_, hgive (by decide), ?_⟩⟩
  · exact congrArg (·.slots) (failStep_slots _ _ _)
  · rw [answerSlot_abandons]
    by_cases hmay : l.id.rst = true ∧ l.id.abandons < 7
    · rw [if_pos hmay, hmay.1, Bool.true_and, decide_eq_true (by omega), cond_true]
      rfl
    · have hno : (l.id.rst && decide (l.id.abandons + 1 < 8)) = false := by
        rw [Bool.and_eq_false_iff, decide_eq_false_iff_not]
        rcases Bool.eq_false_or_eq_true l.id.rst with h | h
        · exact .inr fun h8 => hmay ⟨h, by omega⟩
        · exact .inl h
      rw [if_neg hmay, hno, cond_false, failStep_slots]
      rfl

/-! ### The switch of the resident function -/

theorem beginSwitch_begun (s : State) (p : BitVec 3) (v : BitVec 2) :
    ((s.beginSwitch p v).part p) = { s.part p with switch_ := some (v, 1, s.tstamp) } ∧ (s.beginSwitch p v).mem = s.mem ∧
      (s.stepOn = true → s.myPart = p → s.core.ctx.leave = none → (s.beginSwitch p v).core.ctx.leave = some .cutStop) := by
  have hask : ∀ (x : State) (q : BitVec 3), (x.requestLeave .cutStop).part q = x.part q ∧ (x.requestLeave .cutStop).mem = x.mem := fun x q =>
    cond_induction (P := fun t : State => t.part q = x.part q ∧ t.mem = x.mem) (fun _ => ⟨rfl, rfl⟩) fun _ => ⟨rfl, rfl⟩
  unfold State.beginSwitch
  dsimp only
  obtain ⟨d, e⟩ := swTrace_dbg (s.setPart p { s.part p with switch_ := some (v, 1, s.tstamp) }) p "cut-stop"
    [(s.part p).resident.toNat, v.toNat]
  rw [e]
  generalize hu : (s.setPart p { s.part p with switch_ := some (v, 1, s.tstamp) }).setDbg d = u
  have hp : u.part p = { s.part p with switch_ := some (v, 1, s.tstamp) } := by rw [← hu]; exact State.part_setPart s p _
  have hm : u.mem = s.mem := by rw [← hu]; rfl
  refine ⟨?_, ?_, fun hs hmy hl => ?_⟩
  · exact cond_induction (P := fun t : State => t.part p = _) (fun _ => (hask u p).1.trans hp) fun _ => hp
  · exact cond_induction (P := fun t : State => t.mem = _) (fun _ => (hask u p).2.trans hm) fun _ => hm
  · have hc : u.core.ctx = s.core.ctx := by rw [← hu]; rfl
    rw [hc, show s.core.ctx.part = p from hmy, beq_self_eq_true, cond_true,
      State.requestLeave_new .cutStop (by unfold State.stepOn; rw [hc]; exact hs) (by rw [hc]; exact hl)]
    rfl

section
variable (hen : (s.part p).en = true) (hsw : (s.part p).switch_ = none) (hq : (s.part p).quantEnd ≤ s.tstamp)
include hen hsw hq

theorem exec_quantumEnd : exec (.quantumEnd p) s = .next (match s.nextVf p with
    | some v => (s.setPart p { s.part p with yieldBack := none }).beginSwitch p v
    | none => s.setPart p { s.part p with quantEnd := (s.part p).quantEnd + (s.part p).quantum, yielded := false }) := by
  rw [show exec (.quantumEnd p) s = execQuantumEnd p s from rfl, execQuantumEnd]
  dsimp only
  rw [hen, hsw, decide_eq_false (Nat.not_lt.2 hq)]
  rfl
theorem exec_quantumEnd_switches {v : BitVec 2} (hv : s.nextVf p = some v) :
    ∃ t, exec (.quantumEnd p) s = .next t ∧ (t.part p).switch_ = some (v, 1, s.tstamp) ∧ (t.part p).yieldBack = none ∧ t.mem = s.mem ∧
      (s.stepOn = true → s.myPart = p → s.core.ctx.leave = none → t.core.ctx.leave = some .cutStop) := by
  obtain ⟨hp, hm, hl⟩ := beginSwitch_begun (s.setPart p { s.part p with yieldBack := none }) p v
  rw [State.part_setPart] at hp
  rw [exec_quantumEnd hen hsw hq, hv]
  exact ⟨_, rfl, congrArg Part.switch_ hp, congrArg Part.yieldBack hp, hm, hl⟩

end

/-- The machine with the running step of the partition frozen (R374). -/
def State.frozenFor (s : State) (p : BitVec 3) : State :=
  bif s.stepOn && s.myPart == p then (s.saveStep false).swTrace p "frozen" [s.core.csr.tick.toNat] else s
theorem exec_switchDeadline_eq {v : BitVec 2} {t0 : Nat} (hsw : (s.part p).switch_ = some (v, 1, t0)) (ht : t0 + 20000 ≤ s.tstamp) :
    exec (.switchFreezeDeadline p) s = .next ((s.frozenFor p).setPart p { (s.frozenFor p).part p with switch_ := some (v, 2, t0) }) := by
  rw [show exec (.switchFreezeDeadline p) s = execSwitchFreezeDeadline p s from rfl, execSwitchFreezeDeadline, hsw]
  change (.next (bif decide (t0 + 20000 ≤ s.tstamp) then _ else _) : Out) = _
  rw [decide_eq_true ht, cond_true]
  rfl
theorem CoreLeft.setPart (h : CoreLeft s) (q : BitVec 3) (x : Part) : CoreLeft (s.setPart q x) := h
theorem CoreLeft.setDbg (h : CoreLeft s) (d : Debug) : CoreLeft (s.setDbg d) := h
theorem exec_switchDeadline {v : BitVec 2} {t0 : Nat} (hsw : (s.part p).switch_ = some (v, 1, t0)) (ht : t0 + 20000 ≤ s.tstamp) :
    ∃ t, exec (.switchFreezeDeadline p) s = .next t ∧ (t.part p).switch_ = some (v, 2, t0) ∧ (s.stepOn = true → s.myPart = p → CoreLeft t) := by
  refine ⟨_, exec_switchDeadline_eq hsw ht, congrArg Part.switch_ (State.part_setPart _ p _), fun hs hp => ?_⟩
  have hleft : CoreLeft (s.frozenFor p) := by
    unfold State.frozenFor
    rw [hs, hp, beq_self_eq_true, Bool.and_self, cond_true, saveStep_eq hs]
    obtain ⟨d, e⟩ := swTrace_dbg (s.atRest.putAway false) p "frozen" [s.core.csr.tick.toNat]
    rw [e]
    exact CoreLeft.setDbg (putAway_left s.atRest false) d
  exact CoreLeft.setPart hleft _ _

/-- The partitions and memory are kept. -/
def State.Aside (s t : State) : Prop := t.pkg.parts = s.pkg.parts ∧ t.mem = s.mem
theorem State.Aside.refl (s : State) : s.Aside s := ⟨rfl, rfl⟩
theorem State.Aside.trans {u : State} (h : s.Aside t) (k : t.Aside u) : s.Aside u := ⟨k.1.trans h.1, k.2.trans h.2⟩
theorem State.Aside.part (h : s.Aside t) (q : BitVec 3) : t.part q = s.part q := by unfold State.part; rw [h.1]
theorem State.Aside.foldl {α : Type} {f : State → α → State} (hf : ∀ x a, State.Aside x (f x a)) (l : List α) (s : State) : s.Aside (l.foldl f s) :=
  List.foldlRecOn (motive := fun t : State => s.Aside t) l f (.refl s) fun t h a _ => h.trans (hf t a)
theorem acked_aside (s : State) : s.Aside s.acked := by
  obtain ⟨d, e⟩ := acked_dbg s
  rw [e]; exact ⟨rfl, rfl⟩
theorem demandAtCut_aside (s : State) : s.Aside s.demandAtCut := by
  have hset : ∀ (x : State) (r : SReg) (d : Desc), x.Aside (x.setDesc r d) := fun _ _ _ => ⟨rfl, rfl⟩
  unfold State.demandAtCut
  dsimp only
  refine State.Aside.trans ?_ (⟨rfl, rfl⟩ : State.Aside _ (State.setTen _ _))
  have hlater : s.Aside (s.core.ten.later.foldl (fun x r => bif (x.desc r).active then x.setDesc r (s.core.ten.set r (x.desc r)) else x) s) :=
    .foldl (fun x r => cond_induction (P := fun t : State => x.Aside t) (fun _ => hset _ _ _) fun _ => .refl x) _ _
  refine hlater.trans ?_
  refine cond_induction (P := fun t : State => State.Aside _ t) (fun _ => ?_) fun _ => .refl _
  refine State.Aside.foldl (fun x r => ?_) _ _
  split
  · exact cond_induction (P := fun t : State => x.Aside t) (fun _ => hset _ _ _) fun _ => .refl x
  · exact .refl x
theorem laterItems_aside (s : State) : s.Aside s.laterItems := by
  unfold State.laterItems
  refine State.Aside.trans ?_ (demandAtCut_aside _)
  refine cond_induction (P := fun t : State => s.Aside t) (fun _ => ?_) fun _ => .refl s
  unfold State.showCode
  exact State.Aside.trans ⟨rfl, rfl⟩ (acked_aside _)
theorem restoreStep_aside (s : State) (z : Saved) : s.Aside (s.restoreStep z) := by
  have h : s.Aside (s.restored z) := by
    unfold State.restored
    obtain ⟨d, e⟩ := nbTrace_dbg (State.owe { s with core := s.core.withSaved z } z.part (State.payer { s with core := s.core.withSaved z }))
      "restore"
    rw [e]
    exact cond_induction (P := fun t : State => s.Aside (t.setDbg d)) (fun _ => ⟨rfl, rfl⟩) fun _ => ⟨rfl, rfl⟩
  rw [restoreStep_eq]
  exact cond_induction (P := fun t : State => s.Aside t) (fun _ => h.trans (laterItems_aside _)) fun _ => h
theorem swTrace_aside (s : State) (p : BitVec 3) (what : String) (args : List Nat) : s.Aside (s.swTrace p what args) := by
  obtain ⟨d, e⟩ := swTrace_dbg s p what args
  rw [e]; exact ⟨rfl, rfl⟩

theorem emptySlots_quant (s : State) : ((s.emptySlots p).part p).quant = (s.part p).quant := State.setPart_congr Part.quant s p p _ rfl

/-- The counters exchanged: memory, time and the partition's quantum are kept. -/
theorem swapCounters_kept (s : State) (v : BitVec 2) :
    (s.swapCounters p v).mem = s.mem ∧ (s.swapCounters p v).time = s.time ∧ ((s.swapCounters p v).part p).quant = (s.part p).quant := by
  unfold State.swapCounters
  dsimp only
  refine cond_induction (P := fun t : State => t.mem = s.mem ∧ t.time = s.time ∧ (t.part p).quant = (s.part p).quant) (fun _ => ⟨rfl, rfl, rfl⟩)
    fun _ => ?_
  generalize hy : Part.setVf _ v _ = y
  have hyq : y.quant = (s.part p).quant := by rw [← hy]; rfl
  obtain ⟨d, e⟩ := swTrace_dbg (s.setPart p y) p "saved" ((s.part p).resident.toNat :: s.core.perf.line)
  rw [e]
  generalize hu : State.swTrace _ p "restored" _ = u
  obtain ⟨d', e'⟩ : ∃ d', u = State.setDbg _ d' := by rw [← hu]; exact swTrace_dbg _ _ _ _
  rw [e']
  refine cond_induction (P := fun t : State => (t.setDbg d').mem = s.mem ∧ (t.setDbg d').time = s.time ∧ ((t.setDbg d').part p).quant = (s.part
    p).quant)
    (fun _ => ⟨rfl, rfl, ?_⟩) fun _ => ⟨rfl, rfl, ?_⟩
  all_goals exact (congrArg Part.quant (State.part_setPart s p y)).trans hyq

theorem resumeSaved_kept (s : State) :
    ∃ l, (s.resumeSaved p).part p = { s.part p with saved := l } ∧ (s.resumeSaved p).mem = s.mem := by
  unfold State.resumeSaved
  dsimp only
  refine cond_induction (P := fun t : State => ∃ l, t.part p = { s.part p with saved := l } ∧ t.mem = s.mem) (fun _ => ⟨_, rfl, rfl⟩) fun _ => ?_
  split
  · next z _ =>
    obtain h := restoreStep_aside (s.setPart p { s.part p with saved := (s.part p).saved.erase z }) z
    exact ⟨_, (h.part p).trans (State.part_setPart s p _), h.2⟩
  · exact ⟨_, rfl, rfl⟩

theorem exec_switchRestore {v : BitVec 2} {n t0 : Nat} (hsw : (s.part p).switch_ = some (v, n, t0)) (hm : s.mayRestore p = true) :
    ∃ t, exec (.worldSwitchRestore p) s = .next t ∧ (t.part p).resident = v ∧ (t.part p).switch_ = none ∧ (t.part p).yielded = false ∧
      (t.part p).quantEnd = s.tstamp + (s.part p).quantum ∧ t.mem = s.mem := by
  rw [show exec (.worldSwitchRestore p) s = execWorldSwitchRestore p s from rfl, execWorldSwitchRestore, hsw]
  dsimp only
  rw [hm, Bool.not_true, cond_false]
  obtain ⟨hmem, htime, hquant⟩ := swapCounters_kept (p := p) (s.emptySlots p) v
  have he : (s.emptySlots p).mem = s.mem ∧ (s.emptySlots p).time = s.time ∧ ((s.emptySlots p).part p).quant = (s.part p).quant :=
    ⟨rfl, rfl, emptySlots_quant s⟩
  generalize (s.emptySlots p).swapCounters p v = u at hmem htime hquant ⊢
  obtain ⟨l, hp, hm'⟩ := resumeSaved_kept (p := p)
    (u.setPart p { u.part p with resident := v, switch_ := none, yielded := false, quantEnd := u.tstamp + (u.part p).quantum })
  rw [State.part_setPart] at hp
  refine ⟨_, rfl, congrArg Part.resident hp, congrArg Part.switch_ hp, congrArg Part.yielded hp, (congrArg Part.quantEnd hp).trans ?_, hm'.trans
    (hmem.trans he.1)⟩
  change u.tstamp + (u.part p).quantum = _
  unfold State.tstamp Part.quantum
  rw [htime, hquant, he.2.1, he.2.2]

section
variable {v : BitVec 2} {event : BitVec 8} (hsite : s.sitePart = some p) (hrep : (s.part p).repMode ≠ 1) (hev : event = 0x10 ∨ event = 0x11)
include hsite hrep hev

theorem exec_savedCounter_live (hv : (s.part p).resident = v) :
    ∃ t, exec (.savedCounterAdd p v event) s = .next t ∧ t.core.perf = (s.core.perf.add event 1).1 ∧ t.mem = s.mem := by
  have hskip : (event != 0x10 && event != 0x11) = false := by rcases hev with rfl | rfl <;> rfl
  obtain ⟨m, d, l, e⟩ := State.ovfInts_quiet (s := { s with core := { s.core with perf := (s.core.perf.add event 1).1 } }) v
    (s.core.perf.add event 1).1.csel (s.core.perf.add event 1).2 hrep
  refine ⟨{ s with
    core := { s.core with perf := (s.core.perf.add event 1).1, dbg := { s.core.dbg with irqLines := l } }
    pkg := { s.pkg with msi := m, heldMsi := d } }, ?_, rfl, rfl⟩
  rw [show exec (.savedCounterAdd p v event) s = execSavedCounterAdd p v event s from rfl, execSavedCounterAdd]
  dsimp only
  rw [hskip, hsite, hv, bne_self_eq_false, Bool.or_self, beq_self_eq_true, cond_false, cond_true]
  exact congrArg (fun t : State => (.next t : Out)) e
theorem exec_savedCounter_away (hv : (s.part p).resident ≠ v) :
    ∃ t, exec (.savedCounterAdd p v event) s = .next t ∧ t.core.perf = s.core.perf ∧ t.mem = s.mem ∧
      ((t.part p).vf v).perf = some (((((s.part p).vf v).perf.getD Counters.zero).add event 1).1) := by
  have hskip : (event != 0x10 && event != 0x11) = false := by rcases hev with rfl | rfl <;> rfl
  obtain ⟨r, hr⟩ : ∃ r, r = (((s.part p).vf v).perf.getD Counters.zero).add event 1 := ⟨_, rfl⟩
  obtain ⟨x, hx⟩ : ∃ x, x = (s.part p).setVf v { (s.part p).vf v with perf := some r.1 } := ⟨_, rfl⟩
  have hxv : (x.vf v).perf = some r.1 := by
    rw [hx]
    exact congrArg VfCfg.perf (Vector.getElem_set_self ..)
  have hxr : x.repMode ≠ 1 := by rw [hx]; exact hrep
  obtain ⟨d, e⟩ : ∃ d, (bif r.2.isEmpty then s.setPart p x else (s.setPart p x).swTrace p "wrap" (v.toNat :: r.2)) = (s.setPart p x).setDbg d :=
    cond_induction (P := fun t : State => ∃ d, t = (s.setPart p x).setDbg d) (fun _ => ⟨_, rfl⟩) fun _ => swTrace_dbg _ _ _ _
  obtain ⟨m, h, l, e'⟩ := State.ovfInts_quiet (s := (s.setPart p x).setDbg d) (p := p) v r.1.csel r.2
    (by rw [show ((s.setPart p x).setDbg d).part p = x from State.part_setPart s p x]; exact hxr)
  refine ⟨((s.setPart p x).setDbg d).ovfInts p v r.1.csel r.2, ?_, ?_, ?_, ?_⟩
  · rw [show exec (.savedCounterAdd p v event) s = execSavedCounterAdd p v event s from rfl, execSavedCounterAdd]
    dsimp only
    rw [hskip, hsite, bne_self_eq_false, Bool.or_self, beq_eq_false_iff_ne.mpr hv, cond_false, cond_false, ← hr, ← hx, e]
  · rw [e']; rfl
  · rw [e']; rfl
  · rw [e', ← hr, ← hxv]
    exact congrArg (fun y : Part => (y.vf v).perf) (State.part_setPart s p x)

end

theorem worldsSwitch : WorldsSwitch := by
  intro p s
  refine ⟨fun hen hsw hq => ⟨fun hn => ?_, fun v hv => exec_quantumEnd_switches hen hsw hq hv⟩, fun v t0 => exec_switchDeadline,
    fun v n t0 => exec_switchRestore, fun v hsite hrep event he => ?_⟩
  · rw [exec_quantumEnd hen hsw hq, hn]
  · have hev : event = 0x10 ∨ event = 0x11 := by simpa using he
    exact ⟨exec_savedCounter_live hsite hrep hev, exec_savedCounter_away hsite hrep hev⟩

end Sys2Proof.Machine

open Sys2Proof Sys2Proof.Machine Sys2Proof.Claims

/-- Settles O39: an answer goes to what waits for it, and a switch changes nothing of the partition but what its steps name. -/
theorem forwardedFaultsAndWorldSwitches : Obligations.ForwardedFaultsAndWorldSwitches :=
  ⟨forwardedFaultsAreAnswered, prologueFaultsAreAnswered, worldsSwitch⟩
end

section
/-! O29: what V does between issues (R63, R124, R206, R208, R247, R248). -/

namespace Sys2Proof.Machine

open Sys2Proof.Claims

variable {s t u : State}

/-! ### What counts V's ticks, and what leaves it alone -/

/-- What counts V's ticks. -/
def Core.tickView (k : Core) := (k.csr.tick, k.v.drain, k.v.drained, k.v.stretch)

theorem Core.Served.tickView {a b : Core} (h : a.Served b) : b.tickView = a.tickView := by
  obtain ⟨_, _, _, _, _, _, _, _, rfl⟩ := h
  rfl
theorem State.Serves.tickView (h : s.Serves t) : t.core.tickView = s.core.tickView := h.1.tickView

theorem State.setDesc_tickView (s : State) (r : SReg) (d : Desc) : (s.setDesc r d).core.tickView = s.core.tickView := rfl
theorem State.setFlight_tickView (s : State) (fl : List Flight) : (s.setV { s.core.v with flight := fl }).core.tickView = s.core.tickView := rfl
theorem State.sampleAt_tickView (s : State) (src : BitVec 4) (n k : Nat) : (s.sampleAt src n k).core.tickView = s.core.tickView := by
  have ht := s.sampleAt_tick src n k
  obtain ⟨c, t, e⟩ := s.sampleAt_eq src n k
  rw [e] at ht ⊢
  exact congrArg (fun x => (x, s.core.v.drain, s.core.v.drained, s.core.v.stretch)) ht
theorem State.arrive_tickView (s : State) (r : SReg) : (s.arrive r).core.tickView = s.core.tickView := by
  unfold State.arrive
  dsimp only
  split
  · rfl
  · refine cond_induction (P := fun t : State => t.core.tickView = s.core.tickView) (fun _ => rfl) fun _ => ?_
    refine cond_induction (P := fun t : State => t.core.tickView = s.core.tickView) (fun _ => rfl) fun _ => ?_
    refine cond_induction (P := fun t : State => t.core.tickView = s.core.tickView) (fun _ => rfl) fun _ => ?_
    exact (foldl_keeps _ (fun x : State => x.core.tickView) (fun x _ => x.sampleAt_tickView _ _ _) _ _).trans
      ((State.setDesc_tickView _ _ _).trans (s.fetchCounts_serves _ _).tickView)
theorem State.askBlocks_tickView (s : State) (r : SReg) (n : Nat) : (s.askBlocks r n).core.tickView = s.core.tickView := by
  unfold State.askBlocks
  refine cond_induction (P := fun t : State => t.core.tickView = s.core.tickView) (fun _ => (State.arrive_tickView _ _).trans ?_) fun _ => rfl
  exact cond_induction (P := fun t : State => t.core.tickView = s.core.tickView) (fun _ => rfl) fun _ => rfl
theorem State.tickAsks_tickView (s : State) : s.tickAsks.core.tickView = s.core.tickView :=
  foldl_keeps _ (fun x : State => x.core.tickView) (fun x _ => x.askBlocks_tickView _ _) _ s
theorem State.consume_tickView (l : List Due) (s u : State) (h : s.consume l = .ok u) : u.core.tickView = s.core.tickView := by
  induction l generalizing s with
  | nil => cases h; rfl
  | cons x t ih =>
    unfold State.consume at h
    dsimp only at h
    rw [Bool.cond_eq_ite] at h
    split at h
    · cases h
    · split at h
      · cases h
      · split at h
        · cases h
        · cases h
        · refine (ih _ h).trans ((State.sampleAt_tickView _ _ _ _).trans ((State.count_serves _ _ _).tickView.trans ?_))
          refine (State.setFlight_tickView _ _).trans ((State.setDesc_tickView _ _ _).trans ?_)
          exact (State.fetchCounts_serves _ _ _).tickView.trans (State.fillFor_serves _ _ _).tickView
theorem State.tickMade_tickView (h : s.tickMade = .ok u) : u.core.tickView = s.core.tickView := by
  unfold State.tickMade at h
  dsimp only at h
  split at h
  · cases h
  · next w hw =>
    split at h
    · cases h
    · cases h; exact State.consume_tickView _ _ _ hw

theorem State.mSchedule_tickView (s : State) (fs done : List Flight) : (s.mSchedule fs done).core.tickView = s.core.tickView := by
  obtain ⟨_, _, _, e⟩ := State.mSchedule_eq fs done s
  rw [e]; rfl
theorem State.laneWakes_tickView (s : State) : s.laneWakes.core.tickView = s.core.tickView := by
  unfold State.laneWakes
  refine cond_induction (P := fun t : State => t.core.tickView = s.core.tickView) (fun _ => ?_) fun _ => rfl
  unfold State.trip
  dsimp only
  split
  · exact cond_induction (P := fun t : State => t.core.tickView = s.core.tickView) (fun _ => rfl) fun _ => rfl
  · rfl
theorem State.wake_tickView (s : State) (t : Nat) : (s.wake t).core.tickView = s.core.tickView := by
  unfold State.wake
  exact cond_induction (P := fun t : State => t.core.tickView = s.core.tickView) (fun _ => State.laneWakes_tickView _) fun _ => rfl
theorem State.beatCount_tickView (s : State) (t n : Nat) : (s.beatCount t n).core.tickView = s.core.tickView :=
  cond_induction (P := fun t : State => t.core.tickView = s.core.tickView) (fun _ => rfl) fun _ => (s.count_serves _ _).tickView
theorem State.fpCount_tickView (s : State) (ev : List Nat) : (s.fpCount ev).core.tickView = s.core.tickView := by cases ev <;> rfl
theorem State.grabs_tickView (s : State) (t : Nat) : (s.grabs t).core.tickView = s.core.tickView := by
  unfold State.grabs
  refine foldl_keeps _ (fun x : State => x.core.tickView) (fun x f => ?_) _ s
  split
  · refine cond_induction (P := fun t : State => t.core.tickView = x.core.tickView) (fun _ => rfl) fun _ => ?_
    split
    · exact cond_induction (P := fun t : State => t.core.tickView = x.core.tickView) (fun _ => rfl) fun _ => rfl
    · exact cond_induction (P := fun t : State => t.core.tickView = x.core.tickView) (fun _ => State.fpCount_tickView _ _) fun _ => rfl
    · exact cond_induction (P := fun t : State => t.core.tickView = x.core.tickView) (fun _ => State.fpCount_tickView _ _) fun _ => rfl
    · rfl
  · rfl
theorem State.pushAll_tickView (s : State) (r : SReg) (es : List (Nat × Nat)) (v : Nat → Nat) :
    (s.pushAll r es v).core.tickView = s.core.tickView := by
  unfold State.pushAll
  dsimp only
  refine (State.count_serves _ _ _).tickView.trans ?_
  exact (foldl_keeps _ (fun x : State => x.core.tickView) (fun x e => (State.pushElem_serves _ _ _ _).tickView) es _).trans
    (s.l2Hits_serves _).tickView
theorem State.deliverTo_tickView (s : State) (f : Flight) (d : OpCode) (fmt : Nat) (rs : List FRes) :
    (s.deliverTo f d fmt rs).core.tickView = s.core.tickView := by
  unfold State.deliverTo
  dsimp only
  rw [State.fpCount_tickView]
  split
  · rfl
  · split
    · exact State.pushAll_tickView _ _ _ _
    · rfl
theorem State.land_tickView (s : State) (f : Flight) : (s.land f).core.tickView = s.core.tickView := by
  unfold State.land
  split
  · exact State.deliverTo_tickView _ _ _ _ _
  · rfl
  · exact State.deliverTo_tickView _ _ _ _ _
  · split <;> rfl
theorem State.landings_tickView (s : State) (t : Nat) : (s.landings t).core.tickView = s.core.tickView := by
  have h := foldl_keeps State.land (fun x : State => x.core.tickView) State.land_tickView (s.landingAt t) s
  exact cond_induction (P := fun t : State => t.core.tickView = s.core.tickView) (fun _ => h) fun _ => h
theorem State.tickBody_tickView (s : State) (t : Nat) : (s.tickBody t).core.tickView = s.core.tickView := by
  unfold State.tickBody
  rw [State.landings_tickView, State.grabs_tickView, State.beatCount_tickView, State.wake_tickView, State.mSchedule_tickView]

/-! ### A tick taken, and the cycles to the next permit -/

theorem vNow_congr (h : t.core.tickView = s.core.tickView) :
    t.vNow = s.vNow ∧ t.core.v.drain = s.core.v.drain ∧ t.core.v.stretch = s.core.v.stretch := by
  simp only [Core.tickView, Prod.mk.injEq] at h
  obtain ⟨h1, h2, h3, h4⟩ := h
  exact ⟨by rw [State.vNow, State.vNow, h1, h3], h2, h4⟩
theorem tickTaken_counts (hn : s.vNow + 1 < 2 ^ 64) : s.tickTaken.vNow = s.vNow + 1 ∧ s.tickTaken.core.v.stretch = none := by
  unfold State.tickTaken
  refine cond_induction (P := fun t : State => t.vNow = s.vNow + 1 ∧ t.core.v.stretch = none) (fun _ => ⟨(Nat.add_assoc _ _ _).symm, rfl⟩) fun _ => ?_
  obtain ⟨h1, -, h3⟩ := vNow_congr (State.count_serves ((s.setV { s.core.v with stretch := none, blocked := false }).setCsr
    { s.core.csr with tick := s.core.csr.tick + 1 }) 0x02 1).tickView
  refine ⟨h1.trans ?_, h3⟩
  unfold State.vNow at hn ⊢
  change (s.core.csr.tick + 1).toNat + s.core.v.drained = _
  rw [BitVec.toNat_add, show (1 : Word64).toNat = 1 from rfl, Nat.mod_eq_of_lt (by omega)]
  omega
/-- A tick that is taken leaves the strands, counts one, and is no longer stretched. -/
theorem vTick_counts (h : s.vTick = .took u) (hn : s.vNow + 1 < 2 ^ 64) :
    StrandsKept s u ∧ u.vNow = s.vNow + 1 ∧ u.core.v.stretch = none := by
  refine ⟨s.vTick_strands u h, ?_⟩
  obtain ⟨w, hw, rfl⟩ := State.vTick_took s u h
  obtain ⟨hv, -, -⟩ := vNow_congr ((w.tickBody_tickView (s.tickAsks.vNow + 1)).trans ((State.tickMade_tickView hw).trans s.tickAsks_tickView))
  obtain ⟨h1, h2⟩ := tickTaken_counts (s := w.tickBody (s.tickAsks.vNow + 1)) (by rw [hv]; exact hn)
  exact ⟨h1.trans (by rw [hv]), h2⟩

/-- What a cycle leaves alone: the strands, and what counts V's ticks. -/
def State.Still (s t : State) : Prop := t.core.strands = s.core.strands ∧ t.core.tickView = s.core.tickView
theorem State.Still.refl (s : State) : s.Still s := ⟨rfl, rfl⟩
theorem State.Still.trans (h : s.Still t) (k : t.Still u) : s.Still u := ⟨k.1.trans h.1, k.2.trans h.2⟩
theorem cycleCounted_still (s : State) : s.Still s.cycleCounted := by
  obtain ⟨d, e⟩ := s.droopTrace_eq
  unfold State.cycleCounted
  dsimp only
  rw [e]
  generalize hv : State.setCsr _ _ = v
  have h : s.Still v := by rw [← hv]; exact ⟨rfl, rfl⟩
  refine (h.trans ⟨State.count_strands v 0x01 1, (State.count_serves v 0x01 1).tickView⟩).trans ?_
  generalize v.count 0x01 1 = w
  refine State.Still.trans (t := w.stretchCycle) ?_ (State.Still.trans (t := w.stretchCycle.waitCycle) ⟨rfl, rfl⟩ ?_)
  · exact cond_induction (P := State.Still _) (fun _ => ⟨rfl, rfl⟩) fun _ => .refl _
  · exact cond_induction (P := State.Still _) (fun _ => ⟨rfl, rfl⟩) fun _ => .refl _
theorem passCycle_still (s : State) : s.Still s.passCycle := by
  rw [State.passCycle_eq]
  refine (cycleCounted_still s).trans ?_
  generalize s.cycleCounted = u
  refine State.Still.trans (t := u.droopNext) ?_ (State.Still.trans (t := u.droopNext.lanesIdle) ⟨rfl, rfl⟩ ?_)
  · unfold State.droopNext
    split
    · exact cond_induction (P := State.Still _) (fun _ => ⟨rfl, rfl⟩) fun _ => ⟨rfl, rfl⟩
    · exact .refl _
  · exact cond_induction (P := State.Still _) (fun _ => ⟨rfl, rfl⟩) fun _ => .refl _
theorem toPermit_still (n : Nat) : ∀ s : State, s.Still (State.toPermit n s).1 := by
  induction n with
  | zero => exact .refl
  | succ n ih =>
    intro s
    exact cond_induction (P := fun r : State × Bool => s.Still r.1) (fun _ => passCycle_still s) fun _ => (passCycle_still s).trans (ih _)

/-- Ticks passed, the strands kept. -/
def State.Ticked (s t : State) (n : Nat) : Prop := StrandsKept s t ∧ t.vNow = s.vNow + n
theorem State.Ticked.still {n : Nat} (h : s.Ticked t n) (k : t.Still u) : s.Ticked u n :=
  ⟨k.1.trans h.1, (vNow_congr k.2).1.trans h.2⟩
/-- V that comes to a tick has taken every tick on the way. -/
theorem vAdvance_ticked (n : Nat) : ∀ s : State, (s.vAdvance n).2 = true → s.vNow + n < 2 ^ 64 → s.Ticked (s.vAdvance n).1 n := by
  induction n with
  | zero => exact fun s _ _ => ⟨rfl, rfl⟩
  | succ n ih =>
    intro s h hn
    unfold State.vAdvance at h ⊢
    cases ht : s.vTick with
    | stretched x r => rw [ht] at h; cases h
    | caused x => rw [ht] at h; cases h
    | took u =>
      obtain ⟨hk, hv, -⟩ := vTick_counts ht (by omega)
      rw [ht] at h
      dsimp only at h ⊢
      cases hf : u.freezes with
      | true => rw [hf] at h; cases h
      | false =>
        rw [hf, cond_false] at h
        cases hp : (State.toPermit 128 u).2 with
        | false => rw [hp] at h; cases h
        | true =>
          rw [hp, cond_true] at h
          have hto : s.Ticked (State.toPermit 128 u).1 1 := State.Ticked.still ⟨hk, hv⟩ (toPermit_still 128 u)
          obtain ⟨h1, h2⟩ := ih _ h (by rw [hto.2]; omega)
          rw [cond_false, cond_true]
          exact ⟨h1.trans hto.1, h2.trans (by rw [hto.2]; omega)⟩
/-- One tick that is taken, whether V then stands at it or the cycle's end holds it. -/
theorem vAdvance_one (ht : s.vTick = .took u) : u.Still (s.vAdvance 1).1 := by
  unfold State.vAdvance
  rw [ht]
  dsimp only
  refine cond_induction (P := fun r : State × Bool => u.Still r.1) (fun _ => .refl u) fun _ => ?_
  exact cond_induction (P := fun r : State × Bool => u.Still r.1) (fun _ => toPermit_still 128 u) fun _ => toPermit_still 128 u

/-! ### The bundle that V stands before -/

theorem issueAgain_eq {i : Instr} {b : Bundle} (hf : s.fetch .v = (u, some i)) (hb : i.bundle = some b) : s.issueAgain = u.issueBundle b := by
  unfold State.issueAgain
  rw [hf]
  dsimp only
  rw [hb]

end Sys2Proof.Machine

open Sys2Proof Sys2Proof.Machine Sys2Proof.Claims

/-- Settles O29: by induction on the ticks, each of which leaves the strands and counts one, as the cycles between them leave both. -/
theorem vMovesBetweenIssues : Obligations.VMovesBetweenIssues := by
  intro s
  refine ⟨fun hm => ⟨fun e he hc hn => ?_, fun r u hst hlate hwhy ht hn => ?_⟩, fun u i b hturn hf hb => ⟨exec_of_bundle u hb, fun hbl hst => ?_,
    fun r hst hlate hd hh => ?_⟩⟩
  · obtain ⟨h1, h2⟩ := vAdvance_ticked _ s hc hn
    rcases List.mem_cons.1 he with rfl | he
    · exact ⟨_, by rw [show exec .vWriteLands s = execVWriteLands s from rfl, execVWriteLands, hm, cond_true], h1, h2⟩
    · obtain rfl := List.mem_singleton.1 he
      exact ⟨_, by rw [show exec .streamConsume s = execStreamConsume s from rfl, execStreamConsume, hm, cond_true], h1, h2⟩
  · obtain ⟨hk, hv, hs⟩ := vTick_counts ht hn
    have hturn : s.vTurn = true := by
      unfold State.vMoves at hm
      exact (Bool.and_eq_true_iff.1 hm).1
    have hmoves : (s.core.v.drain || s.core.v.halted) = true := by
      rw [Bool.or_eq_true]; exact hwhy
    have hstill := vAdvance_one ht
    obtain ⟨h1, -, h3⟩ := vNow_congr hstill.2
    refine ⟨(s.vAdvance 1).1, ?_, hstill.1.trans hk, h1.trans hv, h3.trans hs⟩
    rw [show exec .stretchEnd s = execStretchEnd s from rfl, execStretchEnd, hst]
    dsimp only
    rw [hturn, hlate, hmoves]
    rfl
  · rw [show exec .vHoldRelease s = execVHoldRelease s from rfl, execVHoldRelease, hbl, hturn, hst, issueAgain_eq hf hb]
    rfl
  · rw [show exec .stretchEnd s = execStretchEnd s from rfl, execStretchEnd, hst]
    dsimp only
    rw [hturn, hlate, hd, hh, issueAgain_eq hf hb]
    rfl
end

section
/-! O27: what the A and B slots write where they land (R211, R214 to R218), and the rounding of what a format holds (R163 to R165, R178). -/

namespace Sys2Proof.Machine

open Sys2Proof.Claims

variable {s t u : State}

/-! ### Bytes written to the pool -/

theorem kget_put {α : Type} (g : Nat → α) (off : Nat) (cells : List (Nat × α)) (o : Nat) (d : α) : ∀ n : Nat,
    kget ((List.range n).foldl (fun c i => kset c (off + i) (g i)) cells) o d = if off ≤ o ∧ o < off + n then g (o - off) else kget cells o d
  | 0 => by rw [if_neg (by omega)]; rfl
  | n + 1 => by
    rw [List.range_succ, List.foldl_append, List.foldl_cons, List.foldl_nil]
    by_cases h : o = off + n
    · rw [h, kget_kset_same, if_pos (by omega), Nat.add_sub_cancel_left]
    · rw [kget_kset_other _ _ _ h, kget_put g off cells o d n]
      by_cases hin : off ≤ o ∧ o < off + n
      · rw [if_pos hin, if_pos (by omega)]
      · rw [if_neg hin, if_neg (by omega)]
theorem poolByte_poolWrite (s : State) (off : Nat) (bs : List Byte) (o : Nat) :
    (s.poolWrite off bs).poolByte o = if off ≤ o ∧ o < off + bs.length then bs.getD (o - off) 0 else s.poolByte o := kget_put _ _ _ _ _ _
theorem poolNat_poolWrite (s : State) (off : Nat) (bs : List Byte) (k n : Nat) (h : k + n ≤ bs.length) :
    (s.poolWrite off bs).poolNat (off + k) n = leAt bs k n := by
  unfold State.poolNat State.poolBytes leAt
  congr 1
  refine List.ext_getElem (by simp; omega) fun i hi hi' => ?_
  rw [List.getElem_map, List.getElem_range, poolByte_poolWrite, if_pos (by simp at hi; omega), List.getElem_take, List.getElem_drop,
    show off + k + i - off = k + i by omega, List.getD_eq_getElem?_getD, List.getElem?_eq_getElem (by simp at hi; omega), Option.getD_some]

/-- The bytes of one of the elements that are written one after another, each in n bytes. -/
theorem leAt_flatMap {α : Type} (g : α → List Byte) (n : Nat) (hn : ∀ x, (g x).length = n) :
    ∀ (l : List α) (i : Nat) (h : i < l.length), leAt (l.flatMap g) (i * n) n = leNat (g l[i])
  | [], _, h => absurd h (Nat.not_lt_zero _)
  | x :: l, 0, _ => by
    unfold leAt
    rw [Nat.zero_mul, List.drop_zero, List.flatMap_cons, List.take_left' (hn x)]
    rfl
  | x :: l, i + 1, h => by
    have ih := leAt_flatMap g n hn l i (Nat.lt_of_succ_lt_succ h)
    unfold leAt at ih ⊢
    rw [List.flatMap_cons, show (i + 1) * n = (g x).length + i * n by rw [hn, Nat.add_mul, Nat.one_mul, Nat.add_comm], List.drop_append,
      List.drop_eq_nil_of_le (Nat.le_add_right _ _), Nat.add_sub_cancel_left, List.nil_append, ih]
    rfl

/-! ### A result landed in a register -/

theorem length_elements (n k : Nat) (g : Nat → FRes) : (((List.range n).map g).flatMap fun r => leBytes k r.bits).length = n * k := by
  induction n with
  | zero => simp
  | succ n ih => rw [List.range_succ, List.map_append, List.flatMap_append, List.length_append, ih]; simp [length_leBytes, Nat.add_mul]

section
variable {f : Flight} {x : ABSlot} (hv : x.op ∉ [ABOp.vcvt, .vpack, .vunpk])
include hv

theorem abDestFmt_plain : abDestFmt x f.shape.f = f.shape.f := by
  simp only [List.mem_cons, not_or] at hv
  unfold abDestFmt
  rw [decide_eq_false hv.1, Bool.false_and, cond_false]
theorem abResult_plain (sh : Shape) (it : Nat × Nat) (get : OpCode → Nat → Nat → Nat) :
    abResult x sh it get = (List.range sh.elems).map fun i => abElem x sh it get i := by
  simp only [List.mem_cons, not_or, List.not_mem_nil, not_false_eq_true, and_true] at hv
  unfold abResult
  split
  · next h => exact absurd h hv.2.1
  · next h => exact absurd h hv.2.2
  · rfl

end

section
variable {f : Flight} {ln : Lane} {x : ABSlot} (hd : x.d.toNat < 24) (hop : f.op = .ab ln x)
include hd hop

/-- A result for a register is written to the pool, and its counts are added. -/
theorem land_register : ∃ c, s.land f = (s.poolWrite (x.d.toNat * f.shape.capBytes)
    ((abResult x f.shape (sfIters s.core.ten.sfShare) f.elem).flatMap fun r => leBytes (fmtSize (abDestFmt x f.shape.f)) r.bits)).fpCount c := by
  refine ⟨(abResult x f.shape (sfIters s.core.ten.sfShare) f.elem).flatMap fun r => r.ev, ?_⟩
  unfold State.land
  rw [hop]
  unfold State.deliverTo codeStream
  dsimp only
  rw [if_neg (by omega)]
theorem land_mem : (s.land f).mem = s.mem := by
  obtain ⟨c, e⟩ := land_register (s := s) hd hop
  rw [e]
  cases c <;> rfl

variable (hv : x.op ∉ [ABOp.vcvt, .vpack, .vunpk])
include hv

/-- Of the pool the register's elements are written, one after another. -/
theorem land_pool : ∃ c, s.land f = (s.poolWrite (x.d.toNat * f.shape.capBytes)
    (((List.range f.shape.elems).map fun i => abElem x f.shape (sfIters s.core.ten.sfShare) f.elem i).flatMap fun r =>
      leBytes (fmtSize f.shape.f) r.bits)).fpCount c := by
  obtain ⟨c, e⟩ := land_register (s := s) hd hop
  rw [abDestFmt_plain hv, abResult_plain hv] at e
  exact ⟨c, e⟩
theorem poolByte_land_out {o : Nat} (ho : o < x.d.toNat * f.shape.capBytes ∨ x.d.toNat * f.shape.capBytes + f.shape.elems * fmtSize f.shape.f ≤ o) :
    (s.land f).poolByte o = s.poolByte o := by
  obtain ⟨c, e⟩ := land_pool (s := s) hd hop hv
  rw [e]
  refine Eq.trans (b := (s.poolWrite (x.d.toNat * f.shape.capBytes) _).poolByte o) (by cases c <;> rfl) ?_
  rw [poolByte_poolWrite, if_neg (by rw [length_elements]; omega)]
theorem poolNat_land {i : Nat} (hi : i < f.shape.elems) :
    (s.land f).poolNat (x.d.toNat * f.shape.capBytes + i * fmtSize f.shape.f) (fmtSize f.shape.f) =
      (abElem x f.shape (sfIters s.core.ten.sfShare) f.elem i).bits % 2 ^ (8 * fmtSize f.shape.f) := by
  obtain ⟨c, e⟩ := land_pool (s := s) hd hop hv
  rw [e]
  refine Eq.trans (b := (s.poolWrite (x.d.toNat * f.shape.capBytes) _).poolNat _ _) (by cases c <;> rfl) ?_
  have hle : i * fmtSize f.shape.f + fmtSize f.shape.f ≤ f.shape.elems * fmtSize f.shape.f := by
    rw [← Nat.succ_mul]; exact Nat.mul_le_mul_right _ hi
  rw [poolNat_poolWrite _ _ _ _ _ (by rw [length_elements]; exact hle),
    leAt_flatMap _ _ (fun r => length_leBytes _ _) _ _ (by rw [List.length_map, List.length_range]; exact hi), List.getElem_map, List.getElem_range,
    leNat_leBytes, show (256 : Nat) = 2 ^ 8 from rfl, ← Nat.pow_mul]

end

/-! ### Integer formats -/

section
variable {fmt : Nat} (hf : fmt ∈ [3, 4, 5, 6])
include hf

theorem fmtOf_int : fmtOf fmt = none := by
  simp only [List.mem_cons, List.not_mem_nil, or_false] at hf
  rcases hf with rfl | rfl | rfl | rfl <;> rfl
/-- An integer format holds the value of a number's low bits. -/
theorem intVal_mod (b : Nat) : intVal fmt (b % 2 ^ (8 * fmtSize fmt)) = intVal fmt b := by
  simp only [List.mem_cons, List.not_mem_nil, or_false] at hf
  rcases hf with rfl | rfl | rfl | rfl
  · exact congrArg BitVec.toInt (BitVec.eq_of_toNat_eq (n := 32) (by simp [fmtSize]))
  · exact congrArg BitVec.toInt (BitVec.eq_of_toNat_eq (n := 16) (by simp [fmtSize]))
  · exact congrArg BitVec.toInt (BitVec.eq_of_toNat_eq (n := 8) (by simp [fmtSize]))
  · simp [intVal, fmtSize]
/-- The value of a number's bits differs from the number by a multiple of the format's span, and lies within its range. -/
theorem intVal_intBits (x : Int) : (2 ^ (8 * fmtSize fmt) : Int) ∣ intVal fmt (intBits fmt x) - x ∧
    (intRange fmt).1 ≤ intVal fmt (intBits fmt x) ∧ intVal fmt (intBits fmt x) ≤ (intRange fmt).2 := by
  simp only [List.mem_cons, List.not_mem_nil, or_false] at hf
  rcases hf with rfl | rfl | rfl | rfl
  all_goals
    simp only [intVal, intBits, intRange, fmtSize, BitVec.toInt_ofNat', Int.bmod]
    norm_num
    omega
theorem intVal_intBits_within (x : Int) (h1 : (intRange fmt).1 ≤ x) (h2 : x ≤ (intRange fmt).2) : intVal fmt (intBits fmt x) = x := by
  obtain ⟨⟨k, hk⟩, h3, h4⟩ := intVal_intBits hf x
  simp only [List.mem_cons, List.not_mem_nil, or_false] at hf
  rcases hf with rfl | rfl | rfl | rfl
  all_goals
    simp only [intRange, fmtSize] at *
    norm_num at *
    omega

end

/-! ### Element by element (R211, R214 to R218) -/

section
variable {fmt : Nat} (hf : fmt ∈ [3, 4, 5, 6])
include hf

theorem intRes_wraps (x : Int) : (2 ^ (8 * fmtSize fmt) : Int) ∣ intVal fmt ((intRes fmt 0 x).bits % 2 ^ (8 * fmtSize fmt)) - x := by
  rw [intVal_mod hf]
  exact (intVal_intBits hf x).1
theorem sat_eq (x : Int) : sat x (intRange fmt).1 (intRange fmt).2 = max (intRange fmt).1 (min (intRange fmt).2 x) := by
  simp only [List.mem_cons, List.not_mem_nil, or_false] at hf
  rcases hf with rfl | rfl | rfl | rfl
  all_goals
    simp only [intRange, sat]
    split_ifs <;> omega
theorem intRes_saturates (x : Int) :
    intVal fmt ((intRes fmt 1 x).bits % 2 ^ (8 * fmtSize fmt)) = max (intRange fmt).1 (min (intRange fmt).2 x) := by
  have hle : (intRange fmt).1 ≤ (intRange fmt).2 := (intVal_intBits hf 0).2.1.trans (intVal_intBits hf 0).2.2
  rw [intVal_mod hf]
  change intVal fmt (intBits fmt (sat x (intRange fmt).1 (intRange fmt).2)) = _
  rw [sat_eq hf, intVal_intBits_within hf _ (le_max_left _ _) (max_le hle (min_le_left _ _))]

theorem intVal_minMax (isMax : Bool) (x y : Nat) :
    intVal fmt (minMax isMax fmt 0 x y).bits = bif isMax then max (intVal fmt x) (intVal fmt y) else min (intVal fmt x) (intVal fmt y) := by
  unfold minMax
  rw [fmtOf_int hf]
  change intVal fmt (bif isMax then (if intVal fmt x < intVal fmt y then y else x) else if intVal fmt y < intVal fmt x then y else x) = _
  cases isMax
  · rw [cond_false, cond_false]
    split_ifs with h
    · exact (min_eq_right h.le).symm
    · exact (min_eq_left (not_lt.1 h)).symm
  · rw [cond_true, cond_true]
    split_ifs with h
    · exact (max_eq_right h.le).symm
    · exact (max_eq_left (not_lt.1 h)).symm
theorem arith_int {op : ABOp} {e : Int} (mode : BitVec 2) (x y z : Nat)
    (h : (op, e) ∈ [(ABOp.vadd, intVal fmt x + intVal fmt y), (.vsub, intVal fmt x - intVal fmt y), (.vmul, intVal fmt x * intVal fmt y),
      (.vfma, intVal fmt x * intVal fmt y + intVal fmt z), (.vfms, intVal fmt x * intVal fmt y - intVal fmt z)]) :
    arith op fmt mode x y z = intRes fmt mode e := by
  simp only [List.mem_cons, List.not_mem_nil, or_false, Prod.mk.injEq] at h
  unfold arith
  rw [fmtOf_int hf]
  rcases h with ⟨rfl, rfl⟩ | ⟨rfl, rfl⟩ | ⟨rfl, rfl⟩ | ⟨rfl, rfl⟩ | ⟨rfl, rfl⟩ <;> rfl
theorem cmpHolds_eq (x y : Nat) : cmpHolds 0 fmt 0 x y = decide (intVal fmt x = intVal fmt y) := by
  unfold cmpHolds
  rw [fmtOf_int hf]
  change (compare (intVal fmt x) (intVal fmt y) == .eq) = _
  rw [Bool.eq_iff_iff, beq_iff_eq, compare_eq_iff_eq, decide_eq_true_iff]
theorem cmpHolds_lt (x y : Nat) : cmpHolds 2 fmt 0 x y = decide (intVal fmt x < intVal fmt y) := by
  unfold cmpHolds
  rw [fmtOf_int hf]
  change (compare (intVal fmt x) (intVal fmt y) == .lt) = _
  rw [Bool.eq_iff_iff, beq_iff_eq, compare_lt_iff_lt, decide_eq_true_iff]

end

/-- A comparison's mask fills the element. -/
theorem mask_mod (p : Prop) [Decidable p] (w : Nat) : (bif decide p then 2 ^ w - 1 else 0) % 2 ^ w = if p then 2 ^ w - 1 else 0 := by
  have := Nat.two_pow_pos w
  by_cases h : p
  · rw [decide_eq_true h, cond_true, if_pos h, Nat.mod_eq_of_lt (by omega)]
  · rw [decide_eq_false h, cond_false, if_neg h, Nat.zero_mod]

theorem integerResultsLand : IntegerResultsLand := by
  intro f s ln op d a b c mode i hd hop hf hi fmt w v t got
  have hgot : op ∉ [ABOp.vcvt, .vpack, .vunpk] →
      got = (abElem ⟨op, d, a, b, c, mode⟩ f.shape (sfIters s.core.ten.sfShare) f.elem i).bits % 2 ^ w := fun hv => poolNat_land hd hop hv hi
  refine ⟨fun e he hoe => ?_, fun e he hoe hm => ?_, fun e he hoe => ?_, fun ho hm hc => ?_, fun ho hm hc => ?_,
    fun o hv ho => poolByte_land_out hd hop hv ho, land_mem hd hop⟩
  · have hres : op ∉ [ABOp.vcvt, .vpack, .vunpk] ∧
        abElem ⟨op, d, a, b, c, mode⟩ f.shape (sfIters s.core.ten.sfShare) f.elem i = intRes fmt mode e.2 := by
      simp only [List.mem_cons, List.not_mem_nil, or_false] at he
      rcases he with rfl | rfl | rfl | rfl | rfl
      all_goals
        dsimp only at hoe
        subst hoe
        refine ⟨by decide, ?_⟩
      · exact arith_int hf (op := .vadd) (e := v a + v b) mode (f.elem a fmt i) (f.elem b fmt i) 0 (by simp [v, fmt])
      · exact arith_int hf (op := .vsub) (e := v a - v b) mode (f.elem a fmt i) (f.elem b fmt i) 0 (by simp [v, fmt])
      · exact arith_int hf (op := .vmul) (e := v a * v b) mode (f.elem a fmt i) (f.elem b fmt i) 0 (by simp [v, fmt])
      · exact arith_int hf (op := .vfma) (e := v a * v b + v c) mode (f.elem a fmt i) (f.elem b fmt i) (f.elem c fmt i) (by simp [v, fmt])
      · exact arith_int hf (op := .vfms) (e := v a * v b - v c) mode (f.elem a fmt i) (f.elem b fmt i) (f.elem c fmt i) (by simp [v, fmt])
    rw [hgot hres.1, hres.2]
    exact ⟨fun h => h ▸ intRes_wraps hf e.2, fun h => h ▸ intRes_saturates hf e.2⟩
  · subst hm
    simp only [List.mem_cons, List.not_mem_nil, or_false] at he
    rcases he with rfl | rfl | rfl
    all_goals
      dsimp only at hoe
      subst hoe
      rw [hgot (by decide), intVal_mod hf]
    · exact intVal_minMax hf false _ _
    · exact intVal_minMax hf true _ _
    · exact (intVal_minMax hf false _ _).trans (congrArg (fun z => min z (v c)) (intVal_minMax hf true _ _))
  · simp only [List.mem_cons, List.not_mem_nil, or_false] at he
    rcases he with rfl | rfl | rfl | rfl | rfl
    all_goals
      dsimp only at hoe
      subst hoe
      rw [hgot (by decide)]
      rfl
  · subst ho hm
    rw [hgot (by decide)]
    change (bif cmpHolds c.toNat fmt 0 _ _ then 2 ^ w - 1 else 0) % 2 ^ w = _
    rw [hc, cmpHolds_eq hf]
    exact mask_mod _ _
  · subst ho hm
    rw [hgot (by decide)]
    change (bif cmpHolds c.toNat fmt 0 _ _ then 2 ^ w - 1 else 0) % 2 ^ w = _
    rw [hc, cmpHolds_lt hf]
    exact mask_mod _ _

/-! ### Rounding (R163 to R165, R178) -/

section
variable {f : FFmt} {rm : Rm} {neg : Bool}

/-- A magnitude below the least normal one, at the subnormal quantum, is its own code. -/
theorem code_subnormal {m : Nat} (hm : m ≠ 0) (h : m < 2 ^ (f.p - 1)) : f.code rm neg m f.qmin = (m, false) := by
  have hlog : Nat.log2 m < f.p - 1 := (Nat.log2_lt hm).2 h
  have hq : max (f.qmin + (Nat.log2 m : Int) - ((f.p : Int) - 1)) f.qmin = f.qmin := max_eq_right (by omega)
  unfold FFmt.code
  rw [hq]
  simp
/-- A significand of the full precision, at its quantum, is the code of its exponent and fraction. -/
theorem code_normal (hp : 1 ≤ f.p) {fr k : Nat} (h : fr < 2 ^ (f.p - 1)) :
    f.code rm neg (fr + 2 ^ (f.p - 1)) (f.qmin + k) = ((k + 1) * 2 ^ (f.p - 1) + fr, false) := by
  have hlog : Nat.log2 (fr + 2 ^ (f.p - 1)) = f.p - 1 := by
    rw [Nat.log2_eq_iff (by have := Nat.two_pow_pos (f.p - 1); omega), Nat.pow_succ]
    omega
  have hq : max (f.qmin + (k : Int) + (Nat.log2 (fr + 2 ^ (f.p - 1)) : Int) - ((f.p : Int) - 1)) f.qmin = f.qmin + k := by
    rw [hlog]
    omega
  unfold FFmt.code
  rw [hq]
  simp only [le_refl, if_true, Prod.mk.injEq, and_true]
  rw [show (f.qmin + (k : Int) - f.qmin).toNat = k by omega, show (f.qmin + (k : Int) - (f.qmin + k)).toNat = 0 by omega, Nat.add_mul k 1,
    Nat.one_mul, Nat.pow_zero, Nat.mul_one]
  omega
theorem round_held {m mag : Nat} {e : Int} (hm : m ≠ 0) (hc : f.code rm neg m e = (mag, false)) (hmag : mag < f.inf) :
    f.round rm (.num neg m e) = ⟨(bif neg then f.sign else 0) + mag, []⟩ := by
  unfold FFmt.round
  dsimp only
  rw [if_neg hm, hc, if_neg (by omega)]
  rfl
/-- The sign and the magnitude of an encoding. -/
theorem sign_magnitude (hw : 1 ≤ f.w) {b : Nat} (h : b < 2 ^ f.w) : b = (bif b / f.sign % 2 == 1 then f.sign else 0) + b % f.sign := by
  have hs : 2 ^ f.w = 2 * f.sign := by
    obtain ⟨n, hn⟩ := Nat.exists_eq_add_of_le' hw
    rw [FFmt.sign, hn, Nat.add_sub_cancel, Nat.pow_succ']
  have hd : b / f.sign < 2 := Nat.div_lt_of_lt_mul (by rw [Nat.mul_comm, ← hs]; exact h)
  have hb := Nat.div_add_mod b f.sign
  rcases Nat.le_one_iff_eq_zero_or_eq_one.1 (Nat.lt_succ_iff.1 hd) with h0 | h1
  · rw [h0] at hb ⊢
    rw [Nat.mul_zero] at hb
    exact hb.symm
  · rw [h1] at hb ⊢
    rw [Nat.mul_one] at hb
    exact hb.symm

/-- The rounding of what an encoding holds gives the encoding back. -/
theorem round_dec (hp : 1 ≤ f.p) (hw : 1 ≤ f.w) {b : Nat} (hb : b < 2 ^ f.w) :
    f.round rm (f.dec b) = ⟨if f.dec b = .nan then f.nan else b, []⟩ := by
  have hsm := sign_magnitude hw hb
  unfold FFmt.dec
  dsimp only
  generalize (b / f.sign % 2 == 1) = neg at hsm ⊢
  generalize b % f.sign = mag at hsm ⊢
  by_cases hnan : f.inf < mag
  · rw [if_pos hnan, if_pos rfl]; rfl
  rw [if_neg hnan]
  by_cases hinf : mag = f.inf
  · rw [if_pos hinf, if_neg (by simp)]
    rw [hinf] at hsm
    refine congrArg (fun n => (⟨n, []⟩ : FRes)) ?_
    rw [hsm]
    cases neg
    · exact (Nat.zero_add _).symm
    · rfl
  have hlt : mag < f.inf := by omega
  have hdm := Nat.div_add_mod mag (2 ^ (f.p - 1))
  have hfr := Nat.mod_lt mag (Nat.two_pow_pos (f.p - 1))
  rw [if_neg hinf]
  by_cases hex : mag / 2 ^ (f.p - 1) = 0
  · rw [if_pos hex, if_neg (by simp)]
    rw [hex, Nat.mul_zero, Nat.zero_add] at hdm
    by_cases h0 : mag = 0
    · rw [hdm, h0]
      rw [h0, Nat.add_zero] at hsm
      exact congrArg (fun n => (⟨n, []⟩ : FRes)) hsm.symm
    · rw [hdm] at hfr ⊢
      rw [round_held h0 (code_subnormal h0 hfr) hlt, ← hsm]
  · rw [if_neg hex, if_neg (by simp)]
    have hm : mag % 2 ^ (f.p - 1) + 2 ^ (f.p - 1) ≠ 0 := by have := Nat.two_pow_pos (f.p - 1); omega
    have hcode := code_normal (rm := rm) (neg := neg) hp (k := mag / 2 ^ (f.p - 1) - 1) hfr
    rw [Nat.sub_add_cancel (Nat.one_le_iff_ne_zero.2 hex), Nat.mul_comm, hdm] at hcode
    rw [round_held hm hcode hlt, ← hsm]

end

theorem roundingKeepsWhatAFormatHolds : RoundingKeepsWhatAFormatHolds := by
  intro f rm b hf hb
  have hpw : 1 ≤ f.p ∧ 1 ≤ f.w := by
    simp only [List.mem_cons, List.not_mem_nil, or_false] at hf
    rcases hf with rfl | rfl | rfl <;> decide
  exact round_dec hpw.1 hpw.2 hb

end Sys2Proof.Machine

open Sys2Proof Sys2Proof.Machine Sys2Proof.Claims

/-- Settles O27: a register's elements land one after another, each the low bits of its result; a format's codes are the magnitudes it holds in order,
so that what it holds is its own rounding. -/
theorem vectorResultsLand : Obligations.VectorResultsLand := ⟨integerResultsLand, roundingKeepsWhatAFormatHolds⟩
end

section
/-! O40: the messages of the configuration plane (R381 to R383, R386, R389), and what the layout that R381 leaves open decides of a unit's commit. -/

namespace Sys2Proof.Machine

open Sys2Proof.Claims

variable {s t u : State}

/-! ### Units of the plane -/

theorem cfgUnit_unit (s : State) (u : Nat) : (s.cfgUnit u).unit = u := by
  unfold State.cfgUnit
  cases h : s.pkg.units.find? fun x => x.unit == u with
  | none => rfl
  | some x => exact beq_iff_eq.mp (List.find?_some (p := fun x : CfgUnit => x.unit == u) h)
theorem cfgUnit_setCfgUnit_same (s : State) {x : CfgUnit} {u : Nat} (h : x.unit = u) : (s.setCfgUnit x).cfgUnit u = x := by
  have hx : (x.unit == u) = true := beq_iff_eq.mpr h
  show ((x :: s.pkg.units.filter fun y => y.unit != x.unit).find? fun y => y.unit == u).getD (CfgUnit.fresh u) = x
  rw [List.find?_cons_of_pos (p := fun y : CfgUnit => y.unit == u) hx]; rfl
theorem find_filter_unit (l : List CfgUnit) {u v : Nat} (h : u ≠ v) :
    (l.filter fun y => y.unit != v).find? (fun y => y.unit == u) = l.find? fun y => y.unit == u := by
  rw [List.find?_filter]
  congr 1
  funext y
  by_cases hy : y.unit = u
  · simp [hy, h]
  · simp [hy]
theorem cfgUnit_setCfgUnit_other (s : State) {x : CfgUnit} {u : Nat} (h : x.unit ≠ u) : (s.setCfgUnit x).cfgUnit u = s.cfgUnit u := by
  have hx : ¬(x.unit == u) = true := fun hb => h (beq_iff_eq.mp hb)
  show ((x :: s.pkg.units.filter fun y => y.unit != x.unit).find? fun y => y.unit == u).getD (CfgUnit.fresh u) = _
  rw [List.find?_cons_of_neg (p := fun y : CfgUnit => y.unit == u) hx, find_filter_unit _ (Ne.symm h)]; rfl
theorem cfgUnit_of_mem {x : CfgUnit} (hd : (s.pkg.units.map (·.unit)).Nodup) (hx : x ∈ s.pkg.units) : s.cfgUnit x.unit = x := by
  have key : ∀ l : List CfgUnit, (l.map (·.unit)).Nodup → x ∈ l → (l.find? fun y => y.unit == x.unit) = some x := by
    intro l
    induction l with
    | nil => intro _ h; exact absurd h (List.not_mem_nil)
    | cons y l ih =>
      intro hn hm
      rw [List.map_cons, List.nodup_cons] at hn
      obtain rfl | hm := List.mem_cons.mp hm
      · exact List.find?_cons_of_pos (beq_self_eq_true _)
      · have hne : ¬(y.unit == x.unit) = true := fun hb => hn.1 (List.mem_map.mpr ⟨x, hm, (beq_iff_eq.mp hb).symm⟩)
        rw [List.find?_cons_of_neg (p := fun y : CfgUnit => y.unit == x.unit) hne]
        exact ih hn.2 hm
  show (s.pkg.units.find? fun y => y.unit == x.unit).getD _ = x
  rw [key _ hd hx]; rfl

/-! ### A stage entry (R381) -/

/-- The staged bytes after the first `n` bytes of an entry, of which those that the active plane holds already are dropped. -/
def stagedAfter (now g : Nat → Byte) (off : Nat) (l : List (Nat × Byte)) (n : Nat) : List (Nat × Byte) :=
  (List.range n).foldl (fun l i => bif g i == now (off + i) then kdel l (off + i) else kset l (off + i) (g i)) l

theorem stagedAfter_succ (now g : Nat → Byte) (off : Nat) (l : List (Nat × Byte)) (n : Nat) :
    stagedAfter now g off l (n + 1) =
      bif g n == now (off + n) then kdel (stagedAfter now g off l n) (off + n) else kset (stagedAfter now g off l n) (off + n) (g n) := by
  unfold stagedAfter
  rw [List.range_succ, List.foldl_append, List.foldl_cons, List.foldl_nil]
theorem keysRise_stagedAfter (now g : Nat → Byte) (off : Nat) {l : List (Nat × Byte)} (h : keysRise 0 l = true) :
    ∀ n, keysRise 0 (stagedAfter now g off l n) = true
  | 0 => h
  | n + 1 => by
    rw [stagedAfter_succ]
    cases g n == now (off + n)
    · exact keysRise_kset _ (Nat.zero_le _) (keysRise_stagedAfter now g off h n)
    · exact keysRise_kdel (keysRise_stagedAfter now g off h n)
theorem kget_stagedAfter (now g : Nat → Byte) (off : Nat) {l : List (Nat × Byte)} (h : keysRise 0 l = true) (o : Nat) : ∀ n,
    kget (stagedAfter now g off l n) o (now o) = if off ≤ o ∧ o < off + n then g (o - off) else kget l o (now o)
  | 0 => by rw [if_neg (by omega)]; rfl
  | n + 1 => by
    have ih := kget_stagedAfter now g off h o n
    have hk := keysRise_stagedAfter now g off h n
    rw [stagedAfter_succ]
    by_cases ho : o = off + n
    · subst ho
      rw [if_pos (by omega), Nat.add_sub_cancel_left]
      cases hg : g n == now (off + n)
      · exact kget_kset_same _ _ _ _
      · exact (kget_kdel_same _ _ hk).trans (beq_iff_eq.mp hg).symm
    · have hin : (off ≤ o ∧ o < off + (n + 1)) ↔ (off ≤ o ∧ o < off + n) := by omega
      rw [if_congr hin rfl rfl, ← ih]
      cases g n == now (off + n)
      · exact kget_kset_other _ _ _ ho
      · exact kget_kdel_other _ hk ho

/-! ### A commit message (R382) -/

/-- Nothing but the units' states and the staged images has changed. -/
def PlaneFrame (s t : State) : Prop := t = s.setPkg { s.pkg with units := t.pkg.units, staged := t.pkg.staged }

theorem PlaneFrame.refl (s : State) : PlaneFrame s s := rfl
theorem PlaneFrame.setCfgUnit (h : PlaneFrame s t) (x : CfgUnit) : PlaneFrame s (t.setCfgUnit x) := by
  unfold PlaneFrame at h; rw [h]; rfl
theorem PlaneFrame.dropImages (h : PlaneFrame s t) (p : Nat → Bool) : PlaneFrame s (t.dropImages p) := by
  unfold PlaneFrame at h; rw [h]; rfl
theorem PlaneFrame.stagedPlane (h : PlaneFrame s t) (x : CfgUnit) : t.stagedPlane x = s.stagedPlane x := by
  unfold PlaneFrame at h; rw [h]; rfl
theorem PlaneFrame.tstamp (h : PlaneFrame s t) : t.tstamp = s.tstamp := by unfold PlaneFrame at h; rw [h]; rfl
theorem PlaneFrame.core (h : PlaneFrame s t) : t.core = s.core := by unfold PlaneFrame at h; rw [h]; rfl
theorem PlaneFrame.mem (h : PlaneFrame s t) : t.mem = s.mem := by unfold PlaneFrame at h; rw [h]; rfl
theorem PlaneFrame.images (h : PlaneFrame s t) : t.pkg.images = s.pkg.images := by unfold PlaneFrame at h; rw [h]; rfl

/-- What a commit message leaves of a unit that holds staged changes or none. -/
def committed (s : State) (gen : BitVec 16) (crc : Word32) (x : CfgUnit) : CfgUnit :=
  if s.unitStaged x = true then
    (if Config.crc32c (s.stagedPlane x) = crc then { x with waiting := some (gen, crc, s.tstamp) } else { x with staged := [], result := 2 })
  else x
/-- A staged image of a unit. -/
def imageOf (s : State) (u : Nat) : Bool := s.pkg.staged.any fun i => i.unit == u

theorem committed_unit (s : State) (gen : BitVec 16) (crc : Word32) (x : CfgUnit) : (committed s gen crc x).unit = x.unit := by
  unfold committed; split
  · split <;> rfl
  · rfl
theorem afterCommit_of_cls {gen : BitVec 16} {cls : BitVec 4} {crc : Word32} {x : CfgUnit} (h : x.unit / 4096 = cls.toNat) :
    afterCommit s gen cls crc x = committed s gen crc x := by simp only [afterCommit, committed, h, true_and]
theorem imageOf_dropImages_same (s : State) (u : Nat) : imageOf (s.dropImages (· == u)) u = false := by
  show ((s.pkg.staged.filter fun i => !(i.unit == u)).any fun i => i.unit == u) = false
  rw [List.any_filter, List.any_eq_false]
  intro i _; cases i.unit == u <;> decide
theorem imageOf_dropImages_other (s : State) {u v : Nat} (h : v ≠ u) : imageOf (s.dropImages (· == u)) v = imageOf s v := by
  show ((s.pkg.staged.filter fun i => !(i.unit == u)).any fun i => i.unit == v) = s.pkg.staged.any fun i => i.unit == v
  rw [List.any_filter]
  congr 1; funext i
  by_cases hi : i.unit = v
  · simp [hi, h]
  · simp [hi]
theorem unitStaged_iff (s : State) (x : CfgUnit) : s.unitStaged x = (!x.staged.isEmpty || imageOf s x.unit) := rfl

theorem commitUnit_frame (h : PlaneFrame s t) (gen : BitVec 16) (crc : Word32) (x : CfgUnit) : PlaneFrame s (t.commitUnit gen crc x) := by
  unfold State.commitUnit
  cases t.unitStaged x
  · exact h
  · cases Config.crc32c (t.stagedPlane x) == crc
    · rw [Bool.not_true, cond_false, cond_false]; exact (h.setCfgUnit _).dropImages _
    · exact h.setCfgUnit _
theorem cfgUnit_commitUnit_other (gen : BitVec 16) (crc : Word32) {x : CfgUnit} {u : Nat} (h : x.unit ≠ u) :
    (t.commitUnit gen crc x).cfgUnit u = t.cfgUnit u := by
  unfold State.commitUnit
  cases t.unitStaged x
  · rfl
  · cases Config.crc32c (t.stagedPlane x) == crc
    · exact cfgUnit_setCfgUnit_other t h
    · exact cfgUnit_setCfgUnit_other t h
theorem imageOf_commitUnit_other (gen : BitVec 16) (crc : Word32) {x : CfgUnit} {u : Nat} (h : x.unit ≠ u) :
    imageOf (t.commitUnit gen crc x) u = imageOf t u := by
  unfold State.commitUnit
  cases t.unitStaged x
  · rfl
  · cases Config.crc32c (t.stagedPlane x) == crc
    · exact imageOf_dropImages_other _ (Ne.symm h)
    · rfl
theorem cfgUnit_commitUnit_same (h : PlaneFrame s t) (gen : BitVec 16) (crc : Word32) {x : CfgUnit} (hx : t.cfgUnit x.unit = x)
    (hi : imageOf t x.unit = imageOf s x.unit) : (t.commitUnit gen crc x).cfgUnit x.unit = committed s gen crc x := by
  have hs : t.unitStaged x = s.unitStaged x := by rw [unitStaged_iff, unitStaged_iff, hi]
  unfold State.commitUnit committed
  rw [hs, h.stagedPlane, h.tstamp]
  cases s.unitStaged x
  · exact hx
  · by_cases hc : Config.crc32c (s.stagedPlane x) = crc
    · rw [beq_iff_eq.mpr hc, if_pos rfl, if_pos hc]; exact cfgUnit_setCfgUnit_same t rfl
    · rw [beq_eq_false_iff_ne.mpr hc, if_pos rfl, if_neg hc]
      exact cfgUnit_setCfgUnit_same t rfl
theorem imageOf_commitUnit_same (h : PlaneFrame s t) (gen : BitVec 16) {crc : Word32} {x : CfgUnit} (hc : Config.crc32c (s.stagedPlane x) ≠ crc) :
    imageOf (t.commitUnit gen crc x) x.unit = false := by
  unfold State.commitUnit
  cases hs : t.unitStaged x
  · rw [unitStaged_iff, Bool.or_eq_false_iff] at hs; exact hs.2
  · rw [h.stagedPlane, beq_eq_false_iff_ne.mpr hc]; exact imageOf_dropImages_same _ _

/-- A commit message's fold over distinct units: those it names are committed, and no other is touched. -/
theorem commitUnits_fold (gen : BitVec 16) (crc : Word32) (l : List CfgUnit) : ∀ {t : State}, PlaneFrame s t → (l.map (·.unit)).Nodup →
    (∀ x ∈ l, t.cfgUnit x.unit = x ∧ imageOf t x.unit = imageOf s x.unit) →
    PlaneFrame s (l.foldl (State.commitUnit gen crc) t) ∧
    (∀ x ∈ l, (l.foldl (State.commitUnit gen crc) t).cfgUnit x.unit = committed s gen crc x ∧
      (Config.crc32c (s.stagedPlane x) ≠ crc → imageOf (l.foldl (State.commitUnit gen crc) t) x.unit = false)) ∧
    ∀ u, u ∉ l.map (·.unit) → (l.foldl (State.commitUnit gen crc) t).cfgUnit u = t.cfgUnit u ∧
      imageOf (l.foldl (State.commitUnit gen crc) t) u = imageOf t u := by
  induction l with
  | nil => exact fun h _ _ => ⟨h, fun x hx => absurd hx List.not_mem_nil, fun _ _ => ⟨rfl, rfl⟩⟩
  | cons y l ih =>
    intro t h hn hl
    rw [List.map_cons, List.nodup_cons] at hn
    obtain ⟨hy, hn⟩ := hn
    have hne : ∀ x ∈ l, y.unit ≠ x.unit := fun x hx he => hy (List.mem_map.mpr ⟨x, hx, he.symm⟩)
    obtain ⟨hf, hin, hout⟩ := ih (commitUnit_frame h gen crc y) hn fun x hx =>
      ⟨(cfgUnit_commitUnit_other gen crc (hne x hx)).trans (hl x (List.mem_cons_of_mem _ hx)).1,
        (imageOf_commitUnit_other gen crc (hne x hx)).trans (hl x (List.mem_cons_of_mem _ hx)).2⟩
    obtain ⟨hcy, hiy⟩ := hl y List.mem_cons_self
    rw [List.foldl_cons]
    refine ⟨hf, fun x hx => ?_, fun u hu => ?_⟩
    · obtain rfl | hx := List.mem_cons.mp hx
      · exact ⟨(hout _ hy).1.trans (cfgUnit_commitUnit_same h gen crc hcy hiy), fun hc => (hout _ hy).2.trans (imageOf_commitUnit_same h gen hc)⟩
      · exact hin x hx
    · rw [List.map_cons, List.mem_cons, not_or] at hu
      exact ⟨(hout u hu.2).1.trans (cfgUnit_commitUnit_other gen crc (Ne.symm hu.1)),
        (hout u hu.2).2.trans (imageOf_commitUnit_other gen crc (Ne.symm hu.1))⟩

/-! ### The messages -/

theorem configStage_entry (gen : BitVec 16) {unit off : Nat} {bs : List Byte} (hon : s.inReset Config.cfgController = false)
    (hu : unit % 4096 ≠ 0xfff) (hb : bs ≠ []) (hl : bs.length ≤ 256) :
    exec (.configStage gen unit off bs) s = .next (s.setCfgUnit (s.stageBytes off bs (s.cfgUnit unit))) := by
  have he : bs.isEmpty = false := by cases bs with | nil => exact absurd rfl hb | cons => rfl
  have hg : decide (256 < bs.length) = false := decide_eq_false (by omega)
  have hn : (unit % 4096 == 0xfff) = false := beq_eq_false_iff_ne.mpr hu
  show execConfigStage gen unit off bs s = _
  unfold execConfigStage cfgUnits
  rw [hon, he, hg, hn]; rfl
theorem configStage_refused (gen : BitVec 16) (unit off : Nat) {bs : List Byte} (h : bs = [] ∨ 256 < bs.length) :
    exec (.configStage gen unit off bs) s = .next s := by
  have hc : (bs.isEmpty || decide (256 < bs.length)) = true := by
    obtain rfl | h := h
    · rfl
    · rw [decide_eq_true h, Bool.or_true]
  show execConfigStage gen unit off bs s = _
  unfold execConfigStage
  rw [Bool.or_assoc, hc, Bool.or_true]; rfl
theorem configCommit_on (gen : BitVec 16) (cls : BitVec 4) (crc : Word32) (hon : s.inReset Config.cfgController = false) :
    exec (.configCommit gen cls crc) s =
      .next ((s.pkg.units.filter fun x => x.unit / 4096 == cls.toNat).foldl (State.commitUnit gen crc) s) := by
  show execConfigCommit gen cls crc s = _
  unfold execConfigCommit; rw [hon]; rfl
theorem configAbort_on (gen : BitVec 16) (hon : s.inReset Config.cfgController = false) :
    exec (.configAbort gen) s =
      .next ((s.setPkg { s.pkg with units := s.pkg.units.map fun x => { x with staged := [], waiting := none } }).dropImages fun _ => true) := by
  show execConfigAbort gen s = _
  unfold execConfigAbort; rw [hon]; rfl
theorem configInvalidate_here (va : Option Word64) (hon : s.inReset Config.cfgController = false) :
    exec (.configInvalidate s.corenum.toNat va) s = .next (s.flushStore.invalidate va) := by
  show execConfigInvalidate s.corenum.toNat va s = _
  unfold execConfigInvalidate; rw [hon, beq_self_eq_true]; rfl
theorem configInvalidate_elsewhere {core : Nat} (va : Option Word64) (h : core ≠ s.corenum.toNat) :
    exec (.configInvalidate core va) s = .next s := by
  show execConfigInvalidate core va s = _
  unfold execConfigInvalidate; rw [beq_eq_false_iff_ne.mpr h]; rfl

theorem configCommit_commits (gen : BitVec 16) (cls : BitVec 4) (crc : Word32) (hon : s.inReset Config.cfgController = false)
    (hd : (s.pkg.units.map (·.unit)).Nodup) :
    ∃ t, exec (.configCommit gen cls crc) s = .next t ∧ t.core = s.core ∧ t.mem = s.mem ∧ t.pkg.images = s.pkg.images ∧
      (∀ x ∈ s.pkg.units, t.cfgUnit x.unit = afterCommit s gen cls crc x) ∧
      ∀ x ∈ s.pkg.units, x.unit / 4096 = cls.toNat → Config.crc32c (s.stagedPlane x) ≠ crc → ∀ i ∈ t.pkg.staged, i.unit ≠ x.unit := by
  have hmem : ∀ {x}, x ∈ (s.pkg.units.filter fun x => x.unit / 4096 == cls.toNat) ↔ x ∈ s.pkg.units ∧ x.unit / 4096 = cls.toNat := by
    intro x; rw [List.mem_filter, beq_iff_eq]
  obtain ⟨hf, hin, hout⟩ := commitUnits_fold (s := s) gen crc (s.pkg.units.filter fun x => x.unit / 4096 == cls.toNat) (PlaneFrame.refl s)
    (hd.sublist (List.filter_sublist.map _)) fun x hx => ⟨cfgUnit_of_mem hd (hmem.mp hx).1, rfl⟩
  refine ⟨_, configCommit_on gen cls crc hon, hf.core, hf.mem, hf.images, fun x hx => ?_, fun x hx hcls hc i hi he => ?_⟩
  · by_cases hcls : x.unit / 4096 = cls.toNat
    · rw [afterCommit_of_cls hcls]; exact (hin x (hmem.mpr ⟨hx, hcls⟩)).1
    · have hn : x.unit ∉ (s.pkg.units.filter fun x => x.unit / 4096 == cls.toNat).map (·.unit) := by
        rw [List.mem_map]; rintro ⟨y, hy, he⟩; exact hcls (he ▸ (hmem.mp hy).2)
      rw [(hout _ hn).1, cfgUnit_of_mem hd hx, afterCommit, if_neg fun h => hcls h.1]
  · exact List.any_eq_false.mp ((hin x (hmem.mpr ⟨hx, hcls⟩)).2 hc) i hi (beq_iff_eq.mpr he)

theorem configMessagesStageAndCommit : ConfigMessagesStageAndCommit := by
  intro s gen on
  refine ⟨fun unit off bs hon hu hb hl hk => ⟨_, configStage_entry gen hon hu hb hl, ?_⟩, fun unit off bs h => configStage_refused gen unit off h,
    fun cls crc hon hd => configCommit_commits gen cls crc hon hd, fun hon => ⟨_, configAbort_on gen hon, ?_⟩,
    fun va hon => configInvalidate_here va hon, fun core va h => configInvalidate_elsewhere va h, fun hoff unit off bs cls crc core va i hi => ?_⟩
  · rw [cfgUnit_setCfgUnit_same s (x := s.stageBytes off bs (s.cfgUnit unit)) (cfgUnit_unit s unit)]
    exact ⟨rfl, rfl, rfl, fun o => kget_stagedAfter (s.planeByte (s.cfgUnit unit)) (fun i => bs.getD i 0) off hk o bs.length⟩
  · refine ⟨fun x hx => ?_, List.filter_eq_nil_iff.mpr fun _ _ => Bool.false_ne_true, ?_, rfl, rfl⟩
    · obtain ⟨y, -, rfl⟩ := List.mem_map.mp hx
      exact ⟨rfl, rfl⟩
    · exact List.map_map.trans rfl
  · have hr : s.inReset Config.cfgController = true := Bool.of_not_eq_false hoff
    simp only [List.mem_cons, List.not_mem_nil, or_false] at hi
    obtain rfl | rfl | rfl | rfl := hi
    · show execConfigStage gen unit off bs s = _
      unfold execConfigStage; rw [hr]; rfl
    · show execConfigCommit gen cls crc s = _
      unfold execConfigCommit; rw [hr]; rfl
    · show execConfigAbort gen s = _
      unfold execConfigAbort; rw [hr]; rfl
    · show execConfigInvalidate core va s = _
      unfold execConfigInvalidate; rw [hr, Bool.not_true, Bool.and_false]; rfl

/-! ### What the registers of the plane leave as it is -/

/-- The units of the plane, the staged and the installed images and their measurements are as they were. -/
structure SameUnits (s t : State) : Prop where
  units : t.pkg.units = s.pkg.units
  staged : t.pkg.staged = s.pkg.staged
  images : t.pkg.images = s.pkg.images
  measure : t.pkg.measure = s.pkg.measure
/-- And memory is. -/
structure SameUnitsAndMem (s t : State) : Prop extends SameUnits s t where
  mem : t.mem = s.mem

theorem SameUnits.refl (s : State) : SameUnits s s := ⟨rfl, rfl, rfl, rfl⟩
theorem SameUnits.trans (h : SameUnits s t) (k : SameUnits t u) : SameUnits s u :=
  ⟨k.units.trans h.units, k.staged.trans h.staged, k.images.trans h.images, k.measure.trans h.measure⟩
theorem SameUnitsAndMem.refl (s : State) : SameUnitsAndMem s s := ⟨.refl s, rfl⟩
theorem SameUnitsAndMem.trans (h : SameUnitsAndMem s t) (k : SameUnitsAndMem t u) : SameUnitsAndMem s u :=
  ⟨h.toSameUnits.trans k.toSameUnits, k.mem.trans h.mem⟩
theorem SameUnitsAndMem.cond {b : Bool} (h : SameUnitsAndMem s t) (k : SameUnitsAndMem s u) : SameUnitsAndMem s (bif b then t else u) := by
  cases b <;> assumption
theorem SameUnitsAndMem.setPart (h : SameUnitsAndMem s t) (p : BitVec 3) (x : Part) : SameUnitsAndMem s (t.setPart p x) :=
  ⟨⟨h.units, h.staged, h.images, h.measure⟩, h.mem⟩
theorem SameUnitsAndMem.setGuards (h : SameUnitsAndMem s t) : SameUnitsAndMem s t.setGuards := ⟨⟨h.units, h.staged, h.images, h.measure⟩, h.mem⟩
theorem SameUnitsAndMem.setCore (h : SameUnitsAndMem s t) (c : Core) : SameUnitsAndMem s { t with core := c } :=
  ⟨⟨h.units, h.staged, h.images, h.measure⟩, h.mem⟩
theorem SameUnitsAndMem.resited (h : SameUnitsAndMem s t) (was : Option (BitVec 3)) : SameUnitsAndMem s (t.resited was) := by
  have hw : SameUnitsAndMem s (match was with
      | some p => t.setPart p ((t.part p).setVf (t.part p).resident { (t.part p).vf (t.part p).resident with perf := some t.core.perf })
      | none => t) := by
    cases was
    · exact h
    · exact h.setPart _ _
  refine h.cond ?_
  cases was <;>
  · dsimp only
    split
    · exact ((hw.setPart _ _).setCore _).cond (((hw.setPart _ _).setCore _).setCore _)
    · exact hw.setCore _
theorem SameUnitsAndMem.vfFresh (h : SameUnitsAndMem s t) (p : BitVec 3) (v : BitVec 2) : SameUnitsAndMem s (State.vfFresh p t v) :=
  ((h.setPart _ _).setCore _).cond (h.setPart _ _)
theorem SameUnitsAndMem.vfsFresh (p : BitVec 3) (l : List (BitVec 2)) :
    ∀ {t : State}, SameUnitsAndMem s t → SameUnitsAndMem s (l.foldl (State.vfFresh p) t) := by
  induction l with
  | nil => exact fun h => h
  | cons v l ih => exact fun h => ih (h.vfFresh p v)
theorem sameUnits_repcfgPut (s : State) (p : BitVec 3) (n : Nat) : SameUnits s (s.repcfgPut p n) := by
  unfold State.repcfgPut
  dsimp only
  cases s.hasStep p || (if n % 4 = 3 then 0 else BitVec.ofNat 2 n) == (s.part p).repMode <;> exact ⟨rfl, rfl, rfl, rfl⟩
theorem sameUnitsAndMem_cfgPut {r : Config.CfgReg} (n : Nat) (hr : ∀ p, r ≠ .repcfg p) : SameUnitsAndMem s (s.cfgPut r n) := by
  have h := SameUnitsAndMem.refl s
  cases r with
  | repcfg p => exact absurd rfl (hr p)
  | partcfg p => exact ((SameUnitsAndMem.vfsFresh p _ (h.setPart _ _)).resited _).setGuards
  | psites => exact h.cond ((h.setPart _ _).resited _)
  | qbase | qcfg => exact (h.setPart _ _).cond h
  | shsize => exact h.cond ⟨⟨rfl, rfl, rfl, rfl⟩, rfl⟩
  | fabCtr => exact SameUnitsAndMem.cond ⟨⟨rfl, rfl, rfl, rfl⟩, rfl⟩ h
  | pkgcap | overflow | fabcfg | eccTh | memCtl | rowGroup | pkgCtr => exact ⟨⟨rfl, rfl, rfl, rfl⟩, rfl⟩
  | droopth | smpBase | smpSize | smpLog | smpMask | poolLimit => exact h.setCore _
  | droopCnt | flits | poolTop => exact h
  | ptbase | tvecw | qmask | energy | idleEnergy | fqbase | fqcfg | excTh | pwrcfg | repbase | rwbase | rwcfg | l2ways | pwrstat |
    repstat => exact h.setPart _ _
theorem sameUnits_cfgPut (s : State) (r : Config.CfgReg) (n : Nat) : SameUnits s (s.cfgPut r n) := by
  by_cases h : ∃ p, r = .repcfg p
  · obtain ⟨p, rfl⟩ := h
    exact sameUnits_repcfgPut s p n
  · exact (sameUnitsAndMem_cfgPut n fun p hp => h ⟨p, hp⟩).toSameUnits

/-- No byte of a unit's plane stands in a partition's REPCFG. -/
def NoRepcfgAt (unit : Nat) : Prop := ∀ off p i, Config.cfgAt unit off ≠ some (.repcfg p, i)

theorem mem_cfgHits {unit : Nat} {cs : List (Nat × Byte)} {x : Config.CfgReg × Nat × Byte} (h : x ∈ cfgHits unit cs) :
    ∃ off, Config.cfgAt unit off = some (x.1, x.2.1) := by
  obtain ⟨c, -, hc⟩ := List.mem_filterMap.mp h
  obtain ⟨y, hy, rfl⟩ := Option.map_eq_some_iff.mp hc
  exact ⟨c.1, hy⟩
theorem sameUnits_cfgApply (s : State) (unit : Nat) (cs : List (Nat × Byte)) : SameUnits s (s.cfgApply unit cs) := by
  unfold State.cfgApply
  dsimp only
  generalize ((cfgHits unit cs).map (·.1)).eraseDups = l
  generalize cfgHits unit cs = hits
  induction l generalizing s with
  | nil => exact .refl s
  | cons r l ih => exact (sameUnits_cfgPut s r _).trans (ih _)
theorem mem_cfgApply {unit : Nat} (h : NoRepcfgAt unit) (s : State) (cs : List (Nat × Byte)) : (s.cfgApply unit cs).mem = s.mem := by
  have hl : ∀ r ∈ ((cfgHits unit cs).map (·.1)).eraseDups, ∀ p, r ≠ Config.CfgReg.repcfg p := by
    rintro r hr p rfl
    obtain ⟨x, hx, hxr⟩ := List.mem_map.mp (List.mem_eraseDups.mp hr)
    obtain ⟨off, ho⟩ := mem_cfgHits hx
    exact h off p x.2.1 (hxr ▸ ho)
  unfold State.cfgApply
  dsimp only
  revert hl
  generalize ((cfgHits unit cs).map (·.1)).eraseDups = l
  generalize cfgHits unit cs = hits
  intro hl
  induction l generalizing s with
  | nil => rfl
  | cons r l ih =>
    exact (ih _ fun r' hr' => hl r' (List.mem_cons_of_mem _ hr')).trans (sameUnitsAndMem_cfgPut _ (hl r List.mem_cons_self)).mem

/-! ### A unit's commit (R382, R383, R386) -/

/-- The machine before the plane's registers are written: the image installed, the unit's plane active. -/
def State.unitCommitted (s : State) (unit : Nat) (gen : BitVec 16) : State :=
  (s.commitImage unit).setCfgUnit { s.cfgUnit unit with
    active := (s.cfgUnit unit).staged.foldl (fun l c => kset l c.1 c.2) (s.cfgUnit unit).active, staged := [], gen := gen, result := 1,
    waiting := none }

theorem commitLate_waiting {x : CfgUnit} {gen : BitVec 16} {crc : Word32} {t0 : Nat} (h : x.waiting = some (gen, crc, t0)) :
    s.commitLate x = decide (t0 + 10000000 ≤ s.tstamp) := by unfold State.commitLate; rw [h]
theorem unitCommit_idle {unit : Nat} {gen : BitVec 16} {crc : Word32} {t0 : Nat} (hw : (s.cfgUnit unit).waiting = some (gen, crc, t0))
    (hi : s.unitIdle unit = true) (ht : s.tstamp < t0 + 10000000) :
    exec (.unitCommit unit) s = .next ((s.unitCommitted unit gen).cfgApply unit (s.cfgUnit unit).staged) := by
  have hl : s.commitLate (s.cfgUnit unit) = false := (commitLate_waiting hw).trans (decide_eq_false (by omega))
  show execUnitCommit unit s = _
  unfold execUnitCommit
  dsimp only
  rw [hw]
  dsimp only
  rw [hl, hi]; rfl
theorem mem_commitImage (s : State) (u : Nat) : (s.commitImage u).mem = s.mem := by unfold State.commitImage; split <;> rfl
theorem commitImage_installs {unit : Nat} {i : Image} (h : (s.pkg.staged.find? fun j => j.unit == unit) = some i) :
    i ∈ (s.commitImage unit).pkg.images ∧ (∀ j ∈ (s.commitImage unit).pkg.images, j.unit = unit → j = i) ∧
      (unit, Config.sha256 i.bytes) ∈ (s.commitImage unit).pkg.measure ∧ i ∉ (s.commitImage unit).pkg.staged := by
  have hi : i.unit = unit := beq_iff_eq.mp (List.find?_some (p := fun j : Image => j.unit == unit) h)
  unfold State.commitImage
  rw [h]
  refine ⟨List.mem_cons_self, fun j hj hju => ?_, List.mem_cons_self, fun hm => ?_⟩
  · obtain rfl | hj := List.mem_cons.mp hj
    · rfl
    · exact absurd hju (bne_iff_ne.mp (List.mem_filter.mp hj).2)
  · exact bne_iff_ne.mp (List.mem_filter.mp hm).2 hi
theorem unitCommitTimeout_late {unit : Nat} {gen : BitVec 16} {crc : Word32} {t0 : Nat} (hw : (s.cfgUnit unit).waiting = some (gen, crc, t0))
    (ht : t0 + 10000000 ≤ s.tstamp) :
    exec (.unitCommitTimeout unit) s = .next (s.setCfgUnit { s.cfgUnit unit with result := 3, waiting := none }) := by
  show execUnitCommitTimeout unit s = _
  unfold execUnitCommitTimeout State.commitTimeout
  rw [commitLate_waiting hw, decide_eq_true ht]; rfl

theorem unitsCommitAtTheirIdlePoint_of_noRepcfg (h : ∀ unit, NoRepcfgAt unit) : UnitsCommitAtTheirIdlePoint := by
  intro s unit gen crc t0 hw
  refine ⟨fun hi ht => ⟨_, unitCommit_idle hw hi ht, ?_, ?_, fun i hi => ?_⟩, unitCommitTimeout_late hw⟩
  · exact (mem_cfgApply (h unit) _ _).trans (mem_commitImage s unit)
  · have hu := (sameUnits_cfgApply (s.unitCommitted unit gen) unit (s.cfgUnit unit).staged).units
    refine (congrArg (fun l : List CfgUnit => (l.find? fun x => x.unit == unit).getD (CfgUnit.fresh unit)) hu).trans ?_
    exact cfgUnit_setCfgUnit_same (s.commitImage unit) (cfgUnit_unit s unit)
  · have hk := sameUnits_cfgApply (s.unitCommitted unit gen) unit (s.cfgUnit unit).staged
    rw [hk.images, hk.measure, hk.staged]
    exact commitImage_installs hi

/-! ### A unit whose plane holds a byte of a REPCFG -/

/-- The machine after reset with a partition's MODE at the value that no write gives it, and a record of the order of accesses still due. -/
def repcfgStale (p : BitVec 3) : State :=
  (State.reset.setPart p { State.reset.part p with repMode := 3 }).setMem { Mem.reset with order := some ⟨[], [(p, 0, 0)]⟩ }
/-- With one byte of a unit's plane waiting for its idle point. -/
def repcfgWaits (unit off : Nat) (p : BitVec 3) : State :=
  (repcfgStale p).setPkg { (repcfgStale p).pkg with
    units := [{ CfgUnit.fresh unit with staged := [(off, 0)], waiting := some (0, 0, (repcfgStale p).tstamp) }] }

theorem nbAccepted_repcfgStale : ∀ p : BitVec 3, (repcfgStale p).nbAccepted.isEmpty = true := by decide
theorem repMode_repcfgStale : ∀ p : BitVec 3, ((repcfgStale p).part p).repMode = 3 := by decide
theorem hasStep_repcfgStale : ∀ p : BitVec 3, (repcfgStale p).hasStep p = false := by decide
theorem cfgUnit_repcfgWaits (unit off : Nat) (p : BitVec 3) : (repcfgWaits unit off p).cfgUnit unit =
    { CfgUnit.fresh unit with staged := [(off, 0)], waiting := some (0, 0, (repcfgWaits unit off p).tstamp) } := by
  show (List.find? (fun x : CfgUnit => x.unit == unit) [_]).getD _ = _
  rw [List.find?_cons_of_pos (p := fun x : CfgUnit => x.unit == unit) (beq_self_eq_true unit)]; rfl
theorem unitIdle_repcfgWaits (unit off : Nat) (p : BitVec 3) : (repcfgWaits unit off p).unitIdle unit = true := by
  have hn : (repcfgWaits unit off p).nbAccepted = [] := List.isEmpty_iff.mp (nbAccepted_repcfgStale p)
  have hb : (repcfgWaits unit off p).nbBusy unit = false := by unfold State.nbBusy; rw [hn]; rfl
  have hs : (!(repcfgWaits unit off p).stepOn && decide ((repcfgWaits unit off p).core.trap.noStep = .no)) = true := rfl
  unfold State.unitIdle
  rw [hb, hs, Bool.or_true]; rfl
/-- A write of a REPCFG whose MODE is 3 changes MODE, and the order of accesses starts anew. -/
theorem order_repcfgPut {p : BitVec 3} (hm : (s.part p).repMode = 3) (hs : s.hasStep p = false) (n : Nat) :
    ∀ b, (s.repcfgPut p n).mem.order = some b → b.due = [] := by
  have hne : ((if n % 4 = 3 then 0 else BitVec.ofNat 2 n : BitVec 2) == 3) = false := by
    rw [beq_eq_false_iff_ne]
    split
    · decide
    · next h => exact fun he => h (congrArg BitVec.toNat he)
  intro b
  unfold State.repcfgPut
  dsimp only
  rw [hm, hs, hne, Bool.or_false, cond_false]
  unfold State.orderFrom
  dsimp only
  generalize (allParts.any _) = c
  cases c
  · exact fun h => nomatch h
  · rintro ⟨⟩; rfl
theorem not_unitsCommitAtTheirIdlePoint_of_repcfg {unit off i : Nat} {p : BitVec 3} (h : Config.cfgAt unit off = some (.repcfg p, i)) :
    ¬UnitsCommitAtTheirIdlePoint := by
  intro hc
  have hu := cfgUnit_repcfgWaits unit off p
  have hw : ((repcfgWaits unit off p).cfgUnit unit).waiting = some (0, 0, (repcfgWaits unit off p).tstamp) := by rw [hu]
  have hi := unitIdle_repcfgWaits unit off p
  obtain ⟨t, ht, hm, -⟩ := (hc _ unit 0 0 _ hw).1 hi (by omega)
  rw [unitCommit_idle hw hi (by omega)] at ht
  obtain rfl := Host.Outcome.next.inj ht
  have hh : cfgHits unit ((repcfgWaits unit off p).cfgUnit unit).staged = [(.repcfg p, i, 0)] := by
    rw [hu]; unfold cfgHits; rw [List.filterMap_cons, h]; rfl
  have hf : ∃ n, ((repcfgWaits unit off p).unitCommitted unit 0).cfgApply unit ((repcfgWaits unit off p).cfgUnit unit).staged =
      ((repcfgWaits unit off p).unitCommitted unit 0).repcfgPut p n := by
    unfold State.cfgApply; rw [hh]; exact ⟨_, rfl⟩
  obtain ⟨n, hn⟩ := hf
  rw [hn] at hm
  have hd := order_repcfgPut (s := (repcfgWaits unit off p).unitCommitted unit 0) (repMode_repcfgStale p) (hasStep_repcfgStale p) n
    ⟨[], [(p, 0, 0)]⟩ (congrArg Mem.order hm)
  exact absurd hd (List.cons_ne_nil _ _)

/-- The layout of the planes, which R381 leaves open (log 24, DESIGN CHOICE), decides O40: it holds exactly when no byte of any plane stands in a
REPCFG, whose write starts the order of accesses anew. -/
theorem configMessagesCommitAtIdlePoints_iff : Obligations.ConfigMessagesCommitAtIdlePoints ↔ ∀ unit, NoRepcfgAt unit :=
  ⟨fun h _ _ _ _ hat => not_unitsCommitAtTheirIdlePoint_of_repcfg hat h.2,
    fun h => ⟨configMessagesStageAndCommit, unitsCommitAtTheirIdlePoint_of_noRepcfg h⟩⟩
end Sys2Proof.Machine
end
